-- ==== Sys2Proof/Word.lean ====
section
/-! DEFINITION. The byte and word types. Every bit-field helper that a test could show wrong stands in
Machine/Data.lean. -/

namespace Sys2Proof

/-- One byte. -/
abbrev Byte := BitVec 8

/-- One 32-bit register or ACC word. -/
abbrev Word := BitVec 32

end Sys2Proof
end

