-- ==== Sys2Proof/Syntax.lean ====
section
/-! DEFINITION. The commands: one constructor of `Instr` per row of spec/opcode_table.json, with the operands that
the row's rule names. The table gives no row any bits. -/

namespace Sys2Proof

/-- The PCIe function that makes an access (R5, R6): the manager's physical function, or virtual function `n`. -/
inductive Func where
  | pf
  | vf (n : Nat)
deriving DecidableEq, Repr

/-- A register page (R48 and the chapters of the blocks). `pwr` is the power window, which has no header and is no
register page (R613): no command names it. -/
inductive Page where
  | stn (n : Nat) | bpr (m : Nat) | dst (n : Nat) | hbc (n : Nat) | tir | mov (k : Nat)
  | pq (g : Nat) | pool | mer | plt | ten (n : Nat) | cdp | cdu (i : Nat)
  | fhp (q : Nat) | fhq (j : Nat) | fhg | trc (c : Nat) | trj (j : Nat) | trg
  | hif | ptn (n : Nat) | hlt | mon | pwr
deriving DecidableEq, Repr

/-- A read of `len` bytes, or a write of bytes. -/
inductive Access where
  | read (len : Nat)
  | write (data : List Byte)
deriving DecidableEq, Repr

/-- A unit of the hardware that uses parcel queues on its own (R259, R261). The HIF acts for each SQ `k` of a partition on
its own (R516); `k` = 16 stands for its recovery. -/
inductive Agent where
  | station (n : Nat) | mover (k : Nat) | plat | ten (t : Nat) | cdu (i : Nat) | fieldBook (p : Nat)
  | fhPort (q : Nat) | fhQueue (j : Nat) | trvChan (c : Nat) | trvJob (j : Nat) | trv | hif (p k : Nat) | monument
deriving DecidableEq, Repr

/-- Who asks the pool for an operation: a PQ page access (never waits, R261), or a hardware unit. -/
inductive Requester where
  | page (f : Func)
  | hw (a : Agent) (wait : Bool)
deriving DecidableEq, Repr

/-- What the environment decides at a boot: which images on the two flash slots pass their checks and with what
security version (R574, R575), the digests of the images (M0 to M4), five of slot 0 and then five of slot 1, and which units fail
training with which cause (R31, R541). A slot that a firmware update has written is known to the part (R595). `lost` are the extensions, register and digest, that a slot made before one of its checks failed, in order, and
`microcode` those of M6 and M7 by what the main firmware loads (R576). -/
structure BootEnv where
  slotOk : List Bool
  svn : List Nat
  digests : List Nat
  lost : List (Nat × Nat)
  microcode : List (Nat × Nat)
  trainFail : List (Nat × Nat)
  fdrTear : List Nat
deriving DecidableEq, Repr

/-- A frame as the port's MAC hands it on (R428): its bytes from the destination address to the end of the data, whether its
FCS was good, and its corrected and uncorrectable FEC codewords. -/
structure RxFrame where
  raw : List Byte
  fcsOk : Bool
  fecCorr : Nat
  fecUncorr : Nat
deriving DecidableEq, Repr

/-- A link whose state can change: a fronthaul port slot or a traverse port. -/
inductive LinkId where
  | fh (q : Nat)
  | tv (n : Nat)
deriving DecidableEq, Repr

/-- A request or descriptor's fields on the fabric (R467, R468). On the fabric `seq` is the request's number, `payload` the
bytes of this packet, and `operand` of a PUT packet the number of its operation on its stream. -/
structure TrvReq where
  op : Nat
  combine : Bool
  peer : Nat
  job : Nat
  tag : Nat
  raddr : Nat
  len : Nat
  aop : Nat
  ctr : Nat
  ctrBytes : Bool
  firstT : Nat
  stream : Nat
  seq : Nat
  payload : List Byte
  operand : Nat
  compare : Nat
deriving DecidableEq, Repr

/-- What an ARRIVE brings beside its barrier and epoch: the module it comes from and the key under which its tag verifies
(R465, R496). -/
structure Arrive where
  src : Nat
  key : List Byte
deriving DecidableEq, Repr

/-- What a RELEASE brings beside its barrier and epoch: the release time and the key under which its tag verifies (R465,
R497). -/
structure Release where
  tRel : Nat
  key : List Byte
deriving DecidableEq, Repr

/-- A reply to an outbound request (R475): its status, whether it says BUSY, and its data. -/
structure TrvReply where
  status : Nat
  busy : Bool
  data : List Byte
deriving DecidableEq, Repr

/-- The common part of an authenticated control message of the fabric manager (R485). -/
structure CtlMsg where
  epoch : Nat
  body : List Byte
  auth : List Byte
deriving DecidableEq, Repr

/-- Monitor readings of one plat row, as the governor reads them (R609, R608). -/
structure RowPower where
  energy : Nat
  tSec : List Int
  tHub : Int
  tHbm : List Int
deriving DecidableEq, Repr

/-- What a PCIe read that timed out was for (R509). -/
inductive PcieRead where
  | mover (k : Nat)
  | sqEntry (p k : Nat)
  | payload (p k : Nat)
  | confirm (p : Nat)
  | record (p n : Nat)
  | tierCopy (p t : Nat)
deriving DecidableEq, Repr

/-- The commands of the block: every row of the table, in the table's order. -/
inductive Instr where
  -- register pages and change control
  | registerWrite (f : Func) (addr size : Nat) (op : Option Nat)
  | seal (f : Func) (p : Page) (mask : Nat)
  | expertEnWrite (f : Func) (p : Page) (v : Bool)
  | sealCommit (p : Page)
  | quiesceRequest (f : Func) (p : Page)
  | quiesceComplete (p : Page)
  | quiesceClear (f : Func) (p : Page)
  | ownerWrite (f : Func) (p : Page) (v : Nat)
  -- resets, training, condemnation
  | coldDeviceReset (cause : Nat) (env : BootEnv)
  | pwrokDeassert
  | trainingComplete (speed width ms : Nat) (flit : Bool)
  | configRequest (numVfs : Option Nat)
  | linkRetrain (speed width : Nat)
  | stationReset (n : Nat)
  | clusterReset (c : Nat) (failing : List Nat)
  | partitionReset (p : Nat)
  | warmDeviceReset (cause : Nat)
  | warmResetComplete
  | sequencerWatchdog (unit : Nat)
  | lockLossTimeout (unit : Nat)
  | arraySelfCheck (n : Nat) (ok : Bool)
  -- stations
  | stationJobStart (n : Nat)
  | nop (n : Nat)
  | seti (n : Nat)
  | addi (n : Nat)
  | loop (n : Nat)
  | jmp (n : Nat)
  | ldw (n : Nat)
  | mma (n : Nat)
  | rqo (n : Nat)
  | rqoStart (n : Nat)
  | rqoComplete (n : Nat)
  | waitt (n : Nat)
  | relt (n : Nat)
  | post (n : Nat)
  | fence (n : Nat)
  | stnEnd (n : Nat)
  | stationJobComplete (n : Nat)
  | stationSave (n : Nat)
  | lendResZeroingDone (n : Nat)
  | stationStoreZeroed (n : Nat)
  | instructionMemoryWrite (f : Func) (n idx value : Nat)
  | statClr (f : Func) (n : Nat)
  | bindGo (f : Func) (p : Nat)
  | lookup (f : Func) (p : Nat)
  | carryComplete (n : Nat)
  -- memory tiers
  | bar2Access (f : Func) (addr : Nat) (a : Access)
  | managerWindowAccess (addr : Nat) (a : Access)
  | ageBoundary
  | migrationCommit (p tile : Nat)
  | migrationSourceFreed (p tile : Nat)
  | locationZeroed (tier unit : Nat)
  | pinComplete (p k : Nat)
  | freeGo (f : Func) (p : Nat)
  | tileQuery (f : Func) (p addr : Nat)
  | tirTileQuery (value : Nat)
  | patrolScrub (p : Page)
  -- movers
  | moverAccept (k : Nat)
  | cplReserveRetry (k : Nat)
  | copy (k e : Nat)
  | skew (k e : Nat)
  | xpose (k e : Nat)
  | descriptorComplete (k : Nat)
  | fltCmdResume (f : Func) (k : Nat)
  | fltCmdAbort (f : Func) (k : Nat)
  | faultTimeout (k : Nat)
  | invGo (f : Func) (k : Nat)
  | invalidationDone (k : Nat)
  -- parcel queues
  | reserve (r : Requester) (q n prio : Nat)
  | commit (r : Requester) (g h len : Nat)
  | read (r : Requester) (q : Nat)
  | mark (r : Requester) (q : Nat)
  | rewind (r : Requester) (q : Nat)
  | release (r : Requester) (q : Nat)
  | releaseH (r : Requester) (g h : Nat)
  | waitLimitExpiry (q : Nat)
  | cellsFreed (count : Nat)
  | abort (f : Func) (q : Nat)
  | clear (f : Func) (q : Nat)
  | queueEnable (f : Func) (q : Nat) (on : Bool)
  | dataWindowAccess (f : Func) (g off : Nat) (a : Access)
  -- Meridian
  | sourceLost
  | relock
  | stepGo (f : Func)
  | rateWrite (f : Func) (v : Nat)
  | adjWrite (f : Func) (v : Nat)
  | tdr (f : Func)
  | nowNsfRead (f : Func)
  | tsqPop (f : Func)
  | ppsInEdge
  | ppsOutPulse
  | arm (f : Func) (k : Nat)
  | disarm (f : Func) (k : Nat)
  | triggerConversion (k : Nat)
  | triggerFire (k : Nat)
  -- the plat, stakes and power
  | rowBoundary
  | grantDispatch (i : Nat)
  | lentJobStart (n : Nat)
  | grantOverrun (i : Nat)
  | platStopped
  | patternImageWrite (f : Func) (addr size value : Nat)
  | patternCommit (f : Func) (p : Nat)
  | commitValidation
  | uncommit (f : Func) (p : Nat)
  | stop (f : Func)
  | trimArm (f : Func) (trim : Nat)
  | stakeQuery (f : Func) (v : Nat)
  | headroomPublish
  | governorDecision (r : RowPower) (ack : Bool)
  | plSetWrite (f : Func) (v : Nat)
  | pwrbrk
  | tCrit (r : RowPower)
  | thermtrip (r : RowPower)
  -- transit engines
  | tenNop (t slot : Nat)
  | tenSeti (t slot : Nat)
  | seth (t slot : Nat)
  | tenAddi (t slot : Nat)
  | alu (t slot : Nat)
  | rdt (t slot : Nat)
  | br (t slot : Nat)
  | brz (t slot : Nat)
  | brnz (t slot : Nat)
  | rep (t slot : Nat)
  | sqh (t slot : Nat)
  | stc (t slot : Nat)
  | setiv (t slot : Nat)
  | rdi (t slot : Nat)
  | rti (t slot : Nat)
  | prd (t slot : Nat)
  | pwr (t slot : Nat)
  | tenEnd (t slot : Nat)
  | sld (t slot : Nat)
  | sst (t slot : Nat)
  | vld (t slot : Nat)
  | vst (t slot : Nat)
  | vmv (t slot : Nat)
  | vpk (t slot : Nat)
  | vmac (t slot : Nat)
  | vmacb (t slot : Nat)
  | vada (t slot : Nat)
  | warn (t : Nat)
  | tick (t : Nat)
  | interruptEntry (t : Nat)
  | engineZeroingDone (t : Nat)
  | programWindowWrite (f : Func) (t off value : Nat)
  -- coding pool and field book
  | codingJobStart (i : Nat)
  | ldpcDecode (i : Nat)
  | ldpcEncode (i : Nat)
  | polarDecode (i : Nat)
  | polarEncode (i : Nat)
  | fixedLinkTransmit (i : Nat)
  | fixedLinkReceive (i : Nat)
  | codingJobDone (i : Nat)
  | fbRead (p : Nat)
  | fbWrite (p : Nat)
  | harqReset (p : Nat)
  -- fronthaul
  | frameReceive (q : Nat) (fr : RxFrame)
  | portSelection (q : Nat)
  | tokenRefill
  | lateDrop (j : Nat)
  | windowClose (q : Nat)
  | ruTimeout (q i : Nat)
  | linkDown (l : LinkId)
  | linkUp (l : LinkId)
  | discEventRetry (q : Nat)
  | discEntryClear (f : Func) (q i : Nat)
  | depthSample
  -- the traverse
  | grant (m : CtlMsg) (peer period expiry : Nat)
  | renew (m : CtlMsg) (expiry : Nat)
  | jobBind (m : CtlMsg) (slot job : Nat) (wrapped : List Byte)
  | peerUp (m : CtlMsg) (peer ports : Nat)
  | peerDown (m : CtlMsg) (peer : Nat)
  | tearDown (m : CtlMsg) (slot : Option Nat) (abortQ : Bool)
  | leaseFence
  | peerEventRetry
  | load (c : Nat)
  | store (c : Nat)
  | flag (c : Nat)
  | atomic (c : Nat)
  | merge (c : Nat)
  | put (c : Nat)
  | get (c : Nat)
  | barrier (c : Nat)
  | inboundRequest (port src : Nat) (key : List Byte) (r : TrvReq)
  | inboundAtomic (port src : Nat) (key : List Byte) (r : TrvReq)
  | replyArrival (id : Nat) (key : List Byte) (r : TrvReply)
  | retryTimeout (id : Nat)
  | replayEntryExpiry (src job tag : Nat)
  | witnessPacket (subject cls : Nat) (injected : Bool)
  | witnessClose (subject cls : Nat) (injected : Bool)
  | counterWrite (f : Func) (j i value : Nat)
  | watchRetry (j i : Nat)
  | barrierArrive (k epoch : Nat) (m : Arrive)
  | barrierReleaseReceive (k epoch : Nat) (m : Release)
  | barrierRelease (k : Nat)
  | barrierTimeout (k : Nat)
  | barrierEpochDiscard (k epoch : Nat)
  -- host link, partitions, level book
  | create (f : Func) (p vf : Nat)
  | destroy (f : Func) (p : Nat)
  | partitionFreed (p : Nat)
  | abortPending (f : Func) (p : Nat)
  | sqDoorbell (f : Func) (p k v : Nat)
  | cqHeadWrite (f : Func) (p k v : Nat)
  | sqFetch (p k : Nat) (data : Option (List Byte))
  | parcel (p k : Nat) (data : Option (List Byte))
  | sqNop (p k : Nat)
  | confirmReadDone (p : Nat) (ok : Bool)
  | cqEntryWrite (p cq : Nat)
  | recoveryEnd (p : Nat)
  | functionLevelReset (vf : Nat)
  | busMasterEnable (vf : Nat) (on : Bool)
  | cplTimeout (r : PcieRead)
  -- health, fault manager, injection
  | healthWindowClose
  | drain (bytes : List Byte)
  | drainComplete
  | undrain (bytes : List Byte)
  | expel (bytes : List Byte)
  | injReq (f : Func) (v : Bool) (limit : Nat)
  | injConsentExpiry
  | injectCorrectable (f : Func) (p : Page)
  | injectUncorrectable (f : Func) (p : Page)
  | injectCondemn (f : Func) (p : Page)
  | injectLockLoss (f : Func) (p : Page)
  -- Monument
  | monumentWatchdog
  | attestGo (f : Func) (p : Page)
  | attestReport (p : Page)
  | anchorSet (slot : Nat) (key sig : List Byte)
  | injPolicy (v : Nat)
  | dbgChallenge
  | challengeExpiry
  | dbgUnlock (token : List Byte)
  | debugEraseComplete
  | firmwareUpdate (image : List Byte) (sig : List Byte) (svn : Nat)
  | getCertificate (slot off len : Nat)
  | challenge (slot : Nat) (nonce : List Byte)
  | getMeasurements (index : Nat)
  | perstDeassert
  | tCritRelease (r : RowPower)
  | pwrbrkDeassert
  | setEndpointId (eid : Nat)
deriving DecidableEq, Repr

end Sys2Proof
end

