-- ==== Sys2Proof/Decode.lean ====
section
/-! DEFINITION. The table's words. No row of spec/opcode_table.json gives a command any bits: the part takes its
commands as register accesses, protocol operations and pin events, and none of them is an instruction word. -/

namespace Sys2Proof

/-- The command that a table word spells: none, since no row gives bits. -/
def decodeTableWord (_nbits _w : Nat) : Option Instr := none

end Sys2Proof
end

