-- ==== Sys2Proof/Config.lean ====
section
/-! DEFINITION. The free values: what the spec leaves open and the machine goes on, and the tables of the outside
standards that the spec names without giving. Each is an opaque constant, so no proof can see its value. -/

namespace Sys2Proof.Config

/-- Which free cell the pool takes for a parcel (R252 names no order). -/
opaque cellChoice : Nat → Nat

/-- Where in its range of ±1.5 ns a stamp falls (R292), as a number that the stamp takes modulo the range. -/
opaque stampError : Nat → Nat

/-- Any other value that the spec does not state, as a number that its user takes modulo its range. -/
opaque freeValue : Nat → Nat

/-- Does the host answer a mover's read with Unsupported Request or Completer Abort (R216): what host memory serves is outside
the block. -/
opaque hostAborts : Nat → Bool

/-- The fused voltage of a core rail at a clock point, 0 the rated clock, as a number of mV above 650 that its user takes
modulo the range of R604. -/
opaque fusedVoltage : (rail point : Nat) → Nat

/-- The shift of base graph `bg` for lifting-size set `set` at a row and column, or no entry (3GPP TS 38.212 clause
5.3.2, which R396 names and the spec does not print). -/
opaque ldpcShift : (bg set row col : Nat) → Option Nat

/-- The polar sequence of 3GPP TS 38.212 clause 5.3.1.2: the index of rank `i` in ascending reliability (R406). -/
opaque polarRank : Nat → Nat

/-- The polar interleaving pattern of 3GPP TS 38.212 clause 5.3.1.1 for its largest length (R406). -/
opaque polarInterleave : Nat → Nat

/-- SM2 signature verification under a public key (R485, R579): the scheme is a national standard that the spec names. -/
opaque sm2Verify : (key msg sig : List Byte) → Bool

/-- An SM2 signature under the alias key that derives from M0 to M4 and the debug bit (R578, R583), made with the random
draw of a number. -/
opaque sm2Sign : (ak : List Byte) → (draw : Nat) → (msg : List Byte) → List Byte

/-- An SM2 signature under the device identity key (R578, R594), made with the random draw of a number. -/
opaque sm2SignDik : (draw : Nat) → (msg : List Byte) → List Byte

/-- Image `k` of the five that a flash slot holds, stage 1, the main firmware and M2 to M4 (R603), in what a firmware update wrote
there: the spec gives no offsets inside a slot. -/
opaque slotPart : (k : Nat) → (image : List Byte) → List Byte

/-- The lease key that a GRANT's ciphertext opens to under that alias key, if it opens (R585). -/
opaque sm2Open : (ak cipher : List Byte) → Option (List Byte)

/-- The public key of the device identity key, which derives from this part's fused secret (R578, R580). -/
opaque dikPublic : List Byte

/-- The public key of the alias key (R578, R583). -/
opaque akPublic : (ak : List Byte) → List Byte

/-- The DIK certificate, stored in flash at manufacture (R581). -/
opaque dikCert : List Byte

/-- The alias certificate that DIK issues (R581): M0 to M5, the grade and the debug bit are in it. -/
opaque akCert : (ms : List Byte) → (grade : Nat) → (debug : Bool) → List Byte

/-- The vendor identifier that PCI-SIG assigned to Ralox, as a number that its user takes modulo 2¹⁶ (R508). -/
opaque raloxVendor : Nat

/-- The Ralox firmware key, whose hash is fused (R574). -/
opaque raloxKey : List Byte

/-- The 32 random bytes of a draw of the key engine (R573, R587). -/
opaque randomBytes : (draw : Nat) → List Byte

/-- HMAC with SM3 (R485). -/
opaque hmacSm3 : (key msg : List Byte) → List Byte

/-- The SM3 digest (R580). -/
opaque sm3 : List Byte → List Byte

/-- A 64-byte line encrypted under a pair of SM4 keys in XTS mode with a tweak (R178, R179): the cipher is a standard that
the spec names without giving. -/
opaque sm4Xts : (keys : List Byte) → (tweak : Nat) → (line : List Byte) → List Byte

/-- A 64-byte line decrypted under a pair of SM4 keys in XTS mode with a tweak (R178, R179). -/
opaque sm4XtsInv : (keys : List Byte) → (tweak : Nat) → (line : List Byte) → List Byte

/-- The SM4 key unwrapping of R586: the key, or none when it fails to unwrap. -/
opaque kwUnwrap : (key wrapped : List Byte) → Option (List Byte)

end Sys2Proof.Config
end

