-- ==== Sys2Proof/Machine/Data.lean ====
section
/-! DEFINITION. Plain number helpers and the canonical sparse map that every large store of the machine uses. -/

namespace Sys2Proof

/-- A sparse map in ONE canonical form: keys strictly rising; a key that is not listed reads as the default that
the accessor names, and a write of that default removes the entry. -/
abbrev NMap (α : Type) := List (Nat × α)

/-- The listed value at key `k`, if any. -/
def mapFind {α : Type} : NMap α → Nat → Option α
  | [], _ => none
  | (k', v) :: r, k => if k = k' then some v else mapFind r k

/-- The value at key `k`, or `d` when the key is not listed. -/
def mapGet {α : Type} (d : α) : NMap α → Nat → α
  | [], _ => d
  | (k', v) :: r, k => if k = k' then v else mapGet d r k

/-- Remove key `k`. -/
def mapErase {α : Type} : NMap α → Nat → NMap α
  | [], _ => []
  | (k', v) :: r, k => if k = k' then mapErase r k else (k', v) :: mapErase r k

/-- Put `v` at key `k`, at its place in the rising order. -/
def mapPut {α : Type} : NMap α → Nat → α → NMap α
  | [], k, v => [(k, v)]
  | (k', v') :: r, k, v =>
    if k < k' then (k, v) :: (k', v') :: r
    else if k = k' then (k, v) :: r
    else (k', v') :: mapPut r k v

/-- Write `v` at key `k` where an unlisted key reads as `d`. -/
def mapSet {α : Type} [DecidableEq α] (d : α) (m : NMap α) (k : Nat) (v : α) : NMap α :=
  if v = d then mapErase m k else mapPut m k v

/-- Every key at or above the bound, strictly rising. -/
def mapRising {α : Type} (lo : Nat) : NMap α → Bool
  | [] => true
  | (k, _) :: r => decide (lo ≤ k) && mapRising (k + 1) r

/-- The canonical form: keys strictly rising and no entry equal to the default. -/
def mapWf {α : Type} [DecidableEq α] (d : α) (m : NMap α) : Bool :=
  mapRising 0 m && m.all (fun e => decide (e.2 ≠ d))

/-- Apply `f` to every listed value, dropping the entries that become the default. -/
def mapAll {α : Type} [DecidableEq α] (d : α) (m : NMap α) (f : Nat → α → α) : NMap α :=
  (m.map (fun e => (e.1, f e.1 e.2))).filter (fun e => decide (e.2 ≠ d))

/-- The map without the keys in `lo ≤ k < hi`. -/
def mapDrop {α : Type} (m : NMap α) (lo hi : Nat) : NMap α :=
  m.filter (fun e => !(decide (lo ≤ e.1) && decide (e.1 < hi)))

/-- The entries with keys in `lo ≤ k < hi`. -/
def mapSlice {α : Type} (m : NMap α) (lo hi : Nat) : NMap α :=
  m.filter (fun e => decide (lo ≤ e.1) && decide (e.1 < hi))

/-- Bits `lo + w - 1` down to `lo` of a number. -/
def bits (x lo w : Nat) : Nat := x / 2 ^ lo % 2 ^ w

/-- `x` with its bits `lo + w - 1` down to `lo` replaced by the low bits of `v`. -/
def setBits (x lo w v : Nat) : Nat :=
  x % 2 ^ lo + (v % 2 ^ w) * 2 ^ lo + x / 2 ^ (lo + w) * 2 ^ (lo + w)

/-- Bit `i` of a number. -/
def bitAt (x i : Nat) : Bool := x / 2 ^ i % 2 == 1

/-- One, or nought. -/
def ofBool (b : Bool) : Nat := if b then 1 else 0

/-- The two's complement value of the low `w` bits. -/
def signed (w x : Nat) : Int :=
  if x % 2 ^ w < 2 ^ (w - 1) then ((x % 2 ^ w : Nat) : Int) else ((x % 2 ^ w : Nat) : Int) - ((2 ^ w : Nat) : Int)

/-- The low `w` bits of an integer in two's complement. -/
def unsigned (w : Nat) (x : Int) : Nat := (x % ((2 ^ w : Nat) : Int)).toNat

/-- A number kept at or below a maximum: the counters that saturate. -/
def satTo (mx x : Nat) : Nat := if x ≤ mx then x else mx

/-- `x` clamped to the range from `lo` to `hi`. -/
def clampI (lo hi x : Int) : Int := if x < lo then lo else if hi < x then hi else x

/-- Division rounding up. -/
def ceilDiv (a b : Nat) : Nat := (a + b - 1) / b

/-- The little-endian number that a list of bytes spells. -/
def leNat : List Byte → Nat
  | [] => 0
  | b :: r => b.toNat + 256 * leNat r

/-- The `n` little-endian bytes of a number. -/
def natLE : Nat → Nat → List Byte
  | 0, _ => []
  | n + 1, x => BitVec.ofNat 8 x :: natLE n (x / 256)

/-- Bytes `lo` to `lo + n - 1` of a list as a little-endian number; bytes past the end read 0. -/
def leAt (l : List Byte) (lo n : Nat) : Nat := leNat ((l.drop lo).take n)

/-- Are bytes `lo` to `hi - 1` of the list all zero. -/
def zeroBytes (l : List Byte) (lo hi : Nat) : Bool := ((l.drop lo).take (hi - lo)).all (fun b => b == 0)

/-- The bytes of a byte store from `a` on, `n` of them. -/
def loadBytes (m : NMap Byte) (a n : Nat) : List Byte := (List.range n).map (fun i => mapGet 0 m (a + i))

/-- Store bytes from `a` on. -/
def storeBytes : NMap Byte → Nat → List Byte → NMap Byte
  | m, _, [] => m
  | m, a, b :: r => storeBytes (mapSet 0 m a b) (a + 1) r

/-- A list of bytes cut or filled with zeros to a length. -/
def fitBytes (n : Nat) (b : List Byte) : List Byte := (List.range n).map (fun i => b.getD i 0)

/-- Replace the first element that satisfies `p`. -/
def replaceFirst {α : Type} (p : α → Bool) (f : α → α) : List α → List α
  | [] => []
  | a :: r => if p a then f a :: r else a :: replaceFirst p f r

/-- Remove the first element that satisfies `p`. -/
def removeFirst {α : Type} (p : α → Bool) : List α → List α
  | [] => []
  | a :: r => if p a then r else a :: removeFirst p r

/-- The least element of a list of numbers. -/
def minList : List Nat → Option Nat
  | [] => none
  | a :: r => match minList r with
    | none => some a
    | some b => some (if a ≤ b then a else b)

/-- Apply `f` for every number below `n`, in rising order. -/
def forUpTo {σ : Type} (n : Nat) (f : Nat → σ → σ) (s : σ) : σ := (List.range n).foldl (fun s i => f i s) s

end Sys2Proof
end

