-- ==== Sys2Proof/Machine/Codes.lean ====
section
/-! DEFINITION. The channel codes of the coding pool: CRCs, LDPC encoding and layered decoding (R396, R397), rate
matching (R399, R400), the HARQ storage formats (R404), polar encoding and list decoding (R406, R407), and the
pseudo-random sequence (R416). -/

namespace Sys2Proof.Machine

/-! ### Bits and CRCs (R392, R396, R406) -/

/-- The first `n` bits of a payload, each byte's most significant bit first (R392). -/
def bitsOf (l : List Byte) (n : Nat) : List Bool :=
  (List.range n).map (fun i => bitAt (l.getD (i / 8) 0).toNat (7 - i % 8))

/-- The bytes of a bit payload, the last one filled with zeros (R393). -/
def bytesOfBits (l : List Bool) : List Byte :=
  (List.range (ceilDiv l.length 8)).map (fun k =>
    BitVec.ofNat 8 ((List.range 8).foldl (fun a i => 2 * a + ofBool (l.getD (8 * k + i) false)) 0))

/-- The remainder of a bit string by a CRC polynomial of degree `w`, whose coefficients below D^w are `poly`. -/
def crcRem (w poly : Nat) (l : List Bool) : Nat :=
  l.foldl (fun r b =>
    let top := bitAt r (w - 1) != b
    let r2 := 2 * r % 2 ^ w
    if top then r2 ^^^ poly else r2) 0

/-- The CRC of a bit string as `w` bits, the highest power first. -/
def crcBits (w poly : Nat) (l : List Bool) : List Bool :=
  let r := crcRem w poly l
  (List.range w).map (fun i => bitAt r (w - 1 - i))

/-- CRC24B: the low coefficients of D^24 + D^23 + D^6 + D^5 + D + 1. -/
def crc24b : Nat := 0x800063

/-- The length and polynomial of a CRCK code: CRC6, CRC11, CRC24C (R392). -/
def crcKind (k : Nat) : Nat × Nat :=
  if k = 1 then (6, 0x21) else if k = 2 then (11, 0x621) else if k = 3 then (24, 0xB2B117) else (0, 0)

/-- A bit string with its CRC of kind `k` attached. -/
def withCrc (k : Nat × Nat) (l : List Bool) : List Bool := if k.1 = 0 then l else l ++ crcBits k.1 k.2 l

/-- Does a bit string end in its CRC of kind `k`. -/
def crcOk (k : Nat × Nat) (l : List Bool) : Bool := k.1 == 0 || crcRem k.1 k.2 l == 0

/-! ### LDPC codes (R396, R397) -/

/-- The parameters of one LDPC code block. -/
structure Ldpc where
  bg : Nat
  z : Nat
  kp : Nat
deriving DecidableEq, Repr

/-- The base graph's information columns. -/
def Ldpc.kb (c : Ldpc) : Nat := if c.bg = 1 then 22 else 10
/-- The base graph's rows. -/
def Ldpc.rows (c : Ldpc) : Nat := if c.bg = 1 then 46 else 42
/-- The base graph's columns. -/
def Ldpc.cols (c : Ldpc) : Nat := c.kb + c.rows
/-- K, the bits per code block with its filler bits. -/
def Ldpc.k (c : Ldpc) : Nat := c.kb * c.z
/-- N, the bits of the circular buffer. -/
def Ldpc.n (c : Ldpc) : Nat := if c.bg = 1 then 66 * c.z else 50 * c.z

/-- The lifting sizes a × 2^j ≤ 384, with the set number of a. -/
def liftSizes : List (Nat × Nat) :=
  ([2, 3, 5, 7, 9, 11, 13, 15].zipIdx).flatMap (fun e => ((List.range 8).filter (fun j => decide (e.1 * 2 ^ j ≤ 384))).map
    (fun j => (e.1 * 2 ^ j, e.2)))

/-- The set of a lifting size, if it is one. -/
def liftSet (z : Nat) : Option Nat := (liftSizes.find? (fun e => decide (e.1 = z))).map (fun e => e.2)

/-- The columns of base row `r` with their shifts. -/
def Ldpc.row (c : Ldpc) (r : Nat) : List (Nat × Nat) :=
  (List.range c.cols).filterMap (fun j =>
    (Config.ldpcShift c.bg ((liftSet c.z).getD 0) r j).map (fun p => (j, p % c.z)))

/-- The codeword bits of check `i` of base row `r`, in ascending column order. -/
def Ldpc.check (c : Ldpc) (r i : Nat) : List Nat := (c.row r).map (fun e => e.1 * c.z + (i + e.2) % c.z)

/-- Is a codeword bit a filler bit. -/
def Ldpc.filler (c : Ldpc) (v : Nat) : Bool := decide (c.kp ≤ v) && decide (v < c.k)

/-- A linear equation over GF(2) reduced by the rows already solved, each `(pivot, row)`. -/
def gfReduce (basis : List (Nat × Nat)) (e : Nat) : Nat :=
  basis.foldl (fun e b => if bitAt e b.1 then e ^^^ b.2 else e) e

/-- Add an equation in `m` unknowns, with its right side at bit `m`, to a fully reduced system. -/
def gfInsert (m : Nat) (basis : List (Nat × Nat)) (e : Nat) : List (Nat × Nat) :=
  let x := gfReduce basis e
  if x % 2 ^ m = 0 then basis
  else
    let p := Nat.log2 (x % 2 ^ m)
    (p, x) :: basis.map (fun b => if bitAt b.2 p then (b.1, b.2 ^^^ x) else b)

/-- The codeword of `kp` information bits: the filler bits are 0, and the parity bits make every check hold. -/
def Ldpc.codeword (c : Ldpc) (info : List Bool) : List Bool :=
  let sys := info ++ List.replicate (c.k - info.length) false
  let m := c.rows * c.z
  let eq (r i : Nat) : Nat := (c.check r i).foldl (fun e v =>
    if v < c.k then (if sys.getD v false then e ^^^ 2 ^ m else e) else e ^^^ 2 ^ (v - c.k)) 0
  let basis := (List.range c.rows).foldl (fun b r => (List.range c.z).foldl (fun b i => gfInsert m b (eq r i)) b) []
  sys ++ (List.range m).map (fun u => match basis.find? (fun b => decide (b.1 = u)) with
    | some b => bitAt b.2 m
    | none => false)

/-- A signed 8-bit value saturated to −127 to 127 (R397). -/
def sat8 (x : Int) : Int := clampI (-127) 127 x

/-- The check message of position `j` from the inputs of a check: the sign product of the other inputs with the
magnitude max(0, m − 1) of the smallest of them (R397). -/
def checkMsg (q : List Int) (j : Nat) : Int :=
  let o := q.eraseIdx j
  let neg := (o.filter (fun x => decide (x < 0))).length % 2 == 1
  let m := ((minList (o.map Int.natAbs)).getD 0) - 1
  if neg then -(m : Int) else (m : Int)

/-- Decoding state: posteriors by codeword bit, and check messages by (check, position). -/
structure LdpcSt where
  post : Array Int
  msg : Array Int

/-- Update one check (R397). -/
def Ldpc.update (c : Ldpc) (r i : Nat) (x : LdpcSt) : LdpcSt :=
  let vs := c.check r i
  let at_ (j : Nat) : Nat := (r * c.z + i) * c.cols + j
  let q := vs.zipIdx.map (fun e => sat8 (x.post.getD e.1 0 - x.msg.getD (at_ e.2) 0))
  vs.zipIdx.foldl (fun x e =>
    let m := checkMsg q e.2
    { post := x.post.setIfInBounds e.1 (sat8 (q.getD e.2 0 + m)), msg := x.msg.setIfInBounds (at_ e.2) m }) x

/-- One iteration over the first `layers` base rows. -/
def Ldpc.iterate (c : Ldpc) (layers : Nat) (x : LdpcSt) : LdpcSt :=
  (List.range layers).foldl (fun x r => (List.range c.z).foldl (fun x i => c.update r i x) x) x

/-- The decided bits: 1 only where the posterior is negative. -/
def LdpcSt.decide (x : LdpcSt) (n : Nat) : List Bool := (List.range n).map (fun v => Decidable.decide (x.post.getD v 0 < 0))

/-- Does every check of the first `layers` rows hold. -/
def Ldpc.holds (c : Ldpc) (layers : Nat) (x : LdpcSt) : Bool :=
  (List.range layers).all (fun r => (List.range c.z).all (fun i =>
    ((c.check r i).filter (fun v => Decidable.decide (x.post.getD v 0 < 0))).length % 2 == 0))

/-- Iterations until early termination or MAXIT: the final state and the number run. -/
def Ldpc.loop (c : Ldpc) (layers : Nat) (et crc : Bool) : Nat → Nat → LdpcSt → LdpcSt × Nat
  | 0, done, x => (x, done)
  | fuel + 1, done, x =>
    let y := c.iterate layers x
    if et && c.holds layers y && (!crc || crcOk (24, crc24b) (y.decide c.kp)) then (y, done + 1)
    else c.loop layers et crc fuel (done + 1) y

/-- Decode the soft values of the circular buffer (`soft` by buffer position; positions past its end are 0): the
`kp` decided bits and the iterations run (R397). -/
def Ldpc.decode (c : Ldpc) (layers maxit : Nat) (et crc : Bool) (soft : Array Int) : List Bool × Nat :=
  let init := (Array.range (c.cols * c.z)).map (fun v =>
    if c.filler v then 127 else if v < 2 * c.z then 0 else sat8 (soft.getD (v - 2 * c.z) 0))
  let r := c.loop layers et crc maxit 0 { post := init, msg := Array.replicate (c.rows * c.z * c.cols) 0 }
  (r.1.decide c.kp, r.2)

/-! ### LDPC rate matching (R399) -/

/-- k0 of a redundancy version (3GPP TS 38.212 clause 5.4.2.1). -/
def Ldpc.k0 (c : Ldpc) (ncb rv : Nat) : Nat :=
  let f (a : Nat) : Nat := a * ncb / c.n * c.z
  match rv with
  | 0 => 0
  | 1 => f (if c.bg = 1 then 17 else 13)
  | 2 => f (if c.bg = 1 then 33 else 25)
  | _ => f (if c.bg = 1 then 56 else 43)

/-- The buffer positions that bit selection visits in one turn: from k0, without the filler bits. -/
def Ldpc.cycle (c : Ldpc) (ncb rv : Nat) : List Nat :=
  let k0 := c.k0 ncb rv
  ((List.range ncb).map (fun j => (k0 + j) % ncb)).filter (fun p => !c.filler (2 * c.z + p))

/-- The buffer positions of the rate-matched bits in the order of transmission: selection, then interleaving by QM. -/
def Ldpc.positions (c : Ldpc) (ncb rv e qm : Nat) : List Nat :=
  let cyc := (c.cycle ncb rv).toArray
  if cyc.size = 0 then []
  else (List.range e).map (fun k => cyc.getD ((k % qm * (e / qm) + k / qm) % cyc.size) 0)

/-- Rate-match a codeword: E bits. A buffer that holds filler bits only has no bit to select. -/
def Ldpc.rateMatch (c : Ldpc) (ncb rv e qm : Nat) (cw : List Bool) (fresh : Nat) : List Bool :=
  let a := cw.toArray
  let ps := c.positions ncb rv e qm
  if ps.isEmpty then (List.range e).map (fun i => Config.freeValue (fresh + i) % 2 == 1)
  else ps.map (fun p => a.getD (2 * c.z + p) false)

/-- Combine received LLRs into the buffer's soft values, in arrival order, saturating after each (R399). -/
def Ldpc.combine (c : Ldpc) (ncb rv qm : Nat) (old : Array Int) (llr : List Int) : Array Int :=
  ((c.positions ncb rv llr.length qm).zip llr).foldl (fun a e =>
    a.setIfInBounds e.1 (sat8 (a.getD e.1 0 + e.2))) old

/-- The smallest lifting that R397's decoder of a fixed-link block covers: the rows that `e` selected bits touch from
position 0, and at least 4 (R419). -/
def Ldpc.touched (c : Ldpc) (e : Nat) : Nat :=
  let cyc := c.cycle c.n 0
  let last := if cyc.length ≤ e then c.n - 1 else cyc.getD (e - 1) 0
  let col := (2 * c.z + last) / c.z
  max 4 (col + 1 - c.kb)

/-! ### HARQ storage (R404) -/

/-- Divide by 2^s to nearest, ties to even (RSH of R365). -/
def rshEven (v : Int) (s : Nat) : Int :=
  let q := v / 2 ^ s
  let r := v - q * 2 ^ s
  if 2 * r < 2 ^ s then q else if 2 ^ s < 2 * r then q + 1 else if q % 2 = 0 then q else q + 1

/-- What one COMP group reads back as. -/
def compGroup (g : List Int) : List Int :=
  let s := ((List.range 6).find? (fun s => g.all (fun v => decide (-7 ≤ rshEven v s) && decide (rshEven v s ≤ 7)))).getD 5
  g.map (fun v => sat8 (rshEven v s * 2 ^ s))

/-- Groups of 32 positions, read back. -/
def compAll : Nat → List Int → List Int
  | 0, _ => []
  | n + 1, l => compGroup (l.take 32) ++ compAll n (l.drop 32)

/-- The soft values of a buffer as they read back from storage in a format; filler positions are stored as 0 and
restored as +127. -/
def Ldpc.stored (c : Ldpc) (fmt : Nat) (soft : List Int) : List Int :=
  let z := soft.zipIdx.map (fun e => if c.filler (2 * c.z + e.2) then 0 else e.1)
  let r := if fmt = 1 then compAll (ceilDiv z.length 32) z else z
  r.zipIdx.map (fun e => if c.filler (2 * c.z + e.2) then 127 else e.1)

/-! ### Polar codes (R400, R406, R407) -/

/-- The parameters of one polar code block. -/
structure Polar where
  n : Nat
  kp : Nat
  e : Nat
  npc : Nat
  crck : Nat
  iil : Bool
  ibil : Bool
deriving DecidableEq, Repr

/-- ceil(log2 x) for x ≥ 1. -/
def clog2 (x : Nat) : Nat := if x ≤ 1 then 0 else Nat.log2 (x - 1) + 1

/-- The mother-code length that 3GPP TS 38.212 clause 5.3.1 gives for K, E and n_max. -/
def polarN (k e nmax : Nat) : Nat :=
  let l := clog2 e
  let n1 := if 8 * e ≤ 9 * 2 ^ (l - 1) ∧ 16 * k < 9 * e then l - 1 else l
  let n2 := clog2 (8 * k)
  2 ^ max (min n1 (min n2 nmax)) 5

/-- The sub-block interleaver pattern of clause 5.4.1.1. -/
def subBlock : List Nat :=
  [0, 1, 2, 4, 3, 5, 6, 7, 8, 16, 9, 17, 10, 18, 11, 19, 12, 20, 13, 21, 14, 22, 15, 23, 24, 25, 26, 28, 27, 29, 30, 31]

/-- J(i) of clause 5.4.1.1. -/
def subIdx (n i : Nat) : Nat := subBlock.getD (32 * i / n) 0 * (n / 32) + i % (n / 32)

/-- The bits that are punctured (K/E ≤ 7/16) or shortened, and the pre-frozen ones that go with them. -/
def Polar.preFrozen (c : Polar) : List Nat :=
  if c.n ≤ c.e then []
  else if 16 * c.kp ≤ 7 * c.e then
    (List.range (c.n - c.e)).map (subIdx c.n) ++
      List.range (if 3 * c.n ≤ 4 * c.e then ceilDiv (3 * c.n - 2 * c.e) 4 else ceilDiv (9 * c.n - 4 * c.e) 16)
  else (List.range (c.n - c.e)).map (fun i => subIdx c.n (c.e + i))

/-- Parity-check bits. -/
def Polar.nPc (c : Polar) : Nat := if c.npc = 0 then 0 else 3

/-- The information and parity-check positions, in ascending reliability. -/
def Polar.infoSet (c : Polar) : List Nat :=
  let ranked := ((List.range 1024).map Config.polarRank).filter (fun i => decide (i < c.n))
  let pre := c.preFrozen
  let ok := ranked.filter (fun i => !pre.contains i)
  ok.drop (ok.length - (c.kp + c.nPc))

/-- The number of ones in a number's lowest ten bits: the row weight of position `i` is 2 to this. -/
def onesCount (x : Nat) : Nat := ((List.range 10).filter (fun i => bitAt x i)).length

/-- The parity-check positions (clause 5.3.1.2). -/
def Polar.pcSet (c : Polar) : List Nat :=
  let q := c.infoSet
  if c.npc = 0 then []
  else if c.npc = 1 then q.take 3
  else
    let rest := q.drop 3
    let w := (minList (rest.map onesCount)).getD 0
    q.take 2 ++ (rest.filter (fun i => decide (onesCount i = w))).reverse.take 1

/-- The input interleaver: position of the `k`-th interleaved bit (clause 5.3.1.1). -/
def Polar.inOrder (c : Polar) : List Nat :=
  if c.iil then ((List.range 164).filter (fun m => decide (164 ≤ Config.polarInterleave m + c.kp))).map
    (fun m => Config.polarInterleave m + c.kp - 164)
  else List.range c.kp

/-- The cyclic register of clause 5.3.1.2, turned by one. -/
def pcTurn (y : List Bool) : List Bool := y.drop 1 ++ y.take 1

/-- XOR a bit into y0. -/
def pcAdd (y : List Bool) (b : Bool) : List Bool :=
  match y with
  | [] => []
  | a :: r => (a != b) :: r

/-- The input vector u of the transform from the interleaved bits. -/
def Polar.place (c : Polar) (bits : List Bool) : List Bool :=
  let q := c.infoSet
  let pc := c.pcSet
  ((List.range c.n).foldl (fun (x : List Bool × List Bool × List Bool) i =>
    let y := pcTurn x.2.2
    if !q.contains i then (x.1 ++ [false], x.2.1, y)
    else if pc.contains i then (x.1 ++ [y.headD false], x.2.1, y)
    else
      let b := x.2.1.headD false
      (x.1 ++ [b], x.2.1.drop 1, pcAdd y b)) ([], bits, List.replicate 5 false)).1

/-- The polar transform of 2^m bits. -/
def polarXform : Nat → List Bool → List Bool
  | 0, u => u
  | m + 1, u =>
    let a := u.take (2 ^ m)
    let b := u.drop (2 ^ m)
    polarXform m (List.zipWith (fun x y => x != y) a b) ++ polarXform m b

/-- The coded positions in the order of selection: sub-block interleaving, then repetition, puncturing or
shortening (clause 5.4.1.2). -/
def Polar.selected (c : Polar) : List Nat :=
  if c.n ≤ c.e then (List.range c.e).map (fun k => subIdx c.n (k % c.n))
  else if 16 * c.kp ≤ 7 * c.e then (List.range c.e).map (fun k => subIdx c.n (k + c.n - c.e))
  else (List.range c.e).map (subIdx c.n)

/-- The side T of the channel interleaver's triangle: the least with T(T + 1) ÷ 2 ≥ E. -/
def triSide (e : Nat) : Nat := ((List.range (e + 1)).find? (fun t => decide (2 * e ≤ t * (t + 1)))).getD e

/-- The channel interleaver's order of the E selected bits (clause 5.4.1.3). -/
def Polar.outOrder (c : Polar) : List Nat :=
  if c.ibil then
    let t := triSide c.e
    let start (i : Nat) : Nat := i * t - i * (i - 1) / 2
    (List.range t).flatMap (fun j => ((List.range (t - j)).map (fun i => start i + j)).filter (fun k => decide (k < c.e)))
  else List.range c.e

/-- The coded positions in the order of transmission. -/
def Polar.positions (c : Polar) : List Nat :=
  let sel := c.selected.toArray
  c.outOrder.map (fun k => sel.getD k 0)

/-- Polar encoding of the information bits, CRC attached (R406, R400): E bits. -/
def Polar.encode (c : Polar) (info : List Bool) : List Bool :=
  let b := (withCrc (crcKind c.crck) info).toArray
  let d := (polarXform (Nat.log2 c.n) (c.place (c.inOrder.map (fun i => b.getD i false)))).toArray
  c.positions.map (fun p => d.getD p false)

/-- One path of the list decoder: metric, decided bits in reverse, the interleaved information bits in reverse, and
the register of the parity-check bits. -/
structure PolarPath where
  metric : Nat
  u : List Bool
  info : List Bool
  y : List Bool
deriving DecidableEq, Repr

/-- min-sum f (R407). -/
def polarF (a b : Int) : Int :=
  let m := ((min a.natAbs b.natAbs : Nat) : Int)
  if decide (a < 0) != decide (b < 0) then -m else m

/-- Exact saturating g (R407). -/
def polarG (u : Bool) (a b : Int) : Int := sat8 (if u then b - a else b + a)

/-- The LLR of the next bit, from the channel LLRs of 2^m bits and the bits decided so far in their order. -/
def polarLlr : Nat → List Int → List Bool → Int
  | 0, l, _ => l.headD 0
  | m + 1, l, u =>
    let h := 2 ^ m
    let a := l.take h
    let b := l.drop h
    if u.length < h then polarLlr m (List.zipWith polarF a b) u
    else
      let x := polarXform m (u.take h)
      polarLlr m ((x.zip (a.zip b)).map (fun e => polarG e.1 e.2.1 e.2.2)) (u.drop h)

/-- A path that decides its next bit `b` where the bit's LLR is `llr`. -/
def PolarPath.step (p : PolarPath) (llr : Int) (b isInfo : Bool) : PolarPath :=
  let y := pcTurn p.y
  { metric := p.metric + (if b == decide (llr < 0) || llr == 0 then 0 else llr.natAbs), u := b :: p.u,
    info := if isInfo then b :: p.info else p.info, y := if isInfo then pcAdd y b else y }

/-- Keep the `n` paths with the smallest metrics: candidates in parent order, bit 0 before bit 1 of all parents, so
that ties go to bit 0 and then to the lower parent (R407). -/
def keepBest (n : Nat) (l : List PolarPath) : List PolarPath :=
  (l.mergeSort (fun a b => decide (a.metric ≤ b.metric))).take n

/-- Decide bit `i` on every path. -/
def Polar.stepAll (c : Polar) (list : Nat) (q pc : List Nat) (llr : List Int) (paths : List PolarPath) (i : Nat) :
    List PolarPath :=
  let at_ (p : PolarPath) : Int := polarLlr (Nat.log2 c.n) llr p.u.reverse
  if !q.contains i then paths.map (fun p => p.step (at_ p) false false)
  else if pc.contains i then paths.map (fun p => p.step (at_ p) ((pcTurn p.y).headD false) false)
  else keepBest list (paths.map (fun p => p.step (at_ p) false true) ++ paths.map (fun p => p.step (at_ p) true true))

/-- The channel LLRs of the mother code: received LLRs added at their positions with saturation; a shortened bit is a
known 0, and a punctured one has LLR 0 (R400). -/
def Polar.derate (c : Polar) (llr : List Int) : List Int :=
  let short := decide (c.e < c.n) && decide (7 * c.e < 16 * c.kp)
  let init := (Array.range c.n).map (fun i =>
    if short && ((List.range (c.n - c.e)).any (fun k => decide (subIdx c.n (c.e + k) = i))) then (127 : Int) else 0)
  ((c.positions.zip llr).foldl (fun a e => a.setIfInBounds e.1 (sat8 (a.getD e.1 0 + e.2))) init).toList

/-- The bits of a path in their order before interleaving. -/
def Polar.deinterleave (c : Polar) (b : List Bool) : List Bool :=
  ((c.inOrder.zip b).foldl (fun (a : Array Bool) e => a.setIfInBounds e.1 e.2) (Array.replicate c.kp false)).toList

/-- CRC-aided list decoding (R407): the bits without the CRC, and whether the CRC passed. -/
def Polar.decode (c : Polar) (list : Nat) (llr : List Int) : List Bool × Bool :=
  let q := c.infoSet
  let pc := c.pcSet
  let ch := c.derate llr
  let start : PolarPath := { metric := 0, u := [], info := [], y := List.replicate 5 false }
  let paths := (List.range c.n).foldl (c.stepAll (2 ^ list) q pc ch) [start]
  let words := (paths.mergeSort (fun a b => decide (a.metric ≤ b.metric))).map (fun p => c.deinterleave p.info.reverse)
  let k := crcKind c.crck
  match words.find? (fun w => crcOk k w) with
  | some w => (w.take (c.kp - k.1), true)
  | none => ((words.headD []).take (c.kp - k.1), false)

/-! ### The pseudo-random sequence (R416) -/

/-- Turn a 31-bit shift register `n` times, each time taking the XOR of its bits `taps` in. -/
def lfsr (taps : List Nat) : Nat → Nat → Nat
  | 0, x => x
  | n + 1, x => lfsr taps n (x / 2 + 2 ^ 30 * ((taps.foldl (fun a t => a + ofBool (bitAt x t)) 0) % 2))

/-- c(n) of 3GPP TS 38.211 clause 5.2.1 with an initial value. -/
def prbs (init n : Nat) : Bool :=
  bitAt (lfsr [3, 0] (n + 1600) 1) 0 != bitAt (lfsr [3, 2, 1, 0] (n + 1600) (init % 2 ^ 31)) 0

end Sys2Proof.Machine
end

