-- ==== Sys2Proof/Machine/Fields.lean ====
section
/-! DEFINITION. The register fields: one `Fld` per field of the spec's page tables (R52, R54 and the tables of the
blocks' chapters), with its offset, bits, class (R57), seal group (R66), reset value and the side that may write
it (R77). -/

namespace Sys2Proof.Machine

/-- The field classes of R57. -/
inductive Cls where
  | s | h | d | ro | w1c
deriving DecidableEq, Repr

/-- Which side may write a field (R77). -/
inductive Who where
  | any | mgr | tenant
deriving DecidableEq, Repr

/-- A register field, or an array of `count` fields `stride` bytes apart. `grp` is the SEAL bit of the field's seal
group, 16 for a field without one. -/
structure Fld where
  off : Nat
  lo : Nat
  w : Nat
  cls : Cls
  grp : Nat
  reset : Nat
  who : Who
  stride : Nat
  count : Nat
deriving DecidableEq, Repr

/-- The `k`-th field of an array of fields. -/
def Fld.ix (f : Fld) (k : Nat) : Fld := { f with off := f.off + f.stride * k, count := 1 }

namespace F

/-! ### The common header (R51, R52) -/

/-- STATUS [2:0] EXPERT_ACTIVE, ARMED, UNIT_DOWN and the block-specific bits. -/
def STATUS : Fld := ⟨0x00C, 0, 32, .ro, 16, 0, .any, 0, 1⟩
/-- ERR_STATUS, R52. -/
def ERR_STATUS : Fld := ⟨0x010, 0, 32, .w1c, 16, 0, .any, 0, 1⟩
/-- ERR_ENABLE, R52. -/
def ERR_ENABLE : Fld := ⟨0x014, 0, 32, .d, 16, 0, .any, 0, 1⟩
/-- EVT_STATUS, R52. -/
def EVT_STATUS : Fld := ⟨0x018, 0, 32, .w1c, 16, 0, .any, 0, 1⟩
/-- EVT_ENABLE, R52. -/
def EVT_ENABLE : Fld := ⟨0x01C, 0, 32, .d, 16, 0, .any, 0, 1⟩
/-- SEAL: the armed groups, R52. -/
def SEAL : Fld := ⟨0x020, 0, 16, .d, 16, 0, .any, 0, 1⟩
/-- SEAL_STATUS.GROUPS, R52. -/
def SEAL_GROUPS : Fld := ⟨0x024, 0, 16, .ro, 16, 0, .any, 0, 1⟩
/-- SEAL_STATUS.RESULT, R70. -/
def SEAL_RESULT : Fld := ⟨0x024, 16, 4, .ro, 16, 0, .any, 0, 1⟩
/-- SEAL_STATUS.CHECK, R52. -/
def SEAL_CHECK : Fld := ⟨0x024, 24, 8, .ro, 16, 0, .any, 0, 1⟩
/-- INJECT.FAULT, R569. -/
def FAULT : Fld := ⟨0x028, 0, 16, .d, 16, 0, .mgr, 0, 1⟩
/-- INJECT.ARM, R568. -/
def INJ_ARM : Fld := ⟨0x028, 31, 1, .d, 16, 0, .mgr, 0, 1⟩
/-- OWNER, R78. -/
def OWNER : Fld := ⟨0x02C, 0, 8, .s, 16, 0xFF, .mgr, 0, 1⟩
/-- CTRL_COMMON.EXPERT_EN, R73. -/
def EXPERT_EN : Fld := ⟨0x030, 0, 1, .h, 15, 0, .any, 0, 1⟩
/-- CTRL_COMMON.QUIESCE_REQ, R74. -/
def QUIESCE_REQ : Fld := ⟨0x030, 1, 1, .d, 16, 1, .any, 0, 1⟩
/-- CTRL_COMMON.QUIESCED, R52. -/
def QUIESCED : Fld := ⟨0x030, 2, 1, .ro, 16, 1, .any, 0, 1⟩

/-- The header fields that a write can reach or that hardware sets. -/
def headerTable : List Fld :=
  [STATUS, ERR_STATUS, ERR_ENABLE, EVT_STATUS, EVT_ENABLE, SEAL, SEAL_GROUPS, SEAL_RESULT, SEAL_CHECK, FAULT,
    INJ_ARM, OWNER, EXPERT_EN, QUIESCE_REQ, QUIESCED]

/-! ### PTN page (R110, R204, R279, R351, R411, R537, R572, R598) -/

/-- BIND_NAME at 0x600 + 4k, bits 31:0, class D, R110. -/
def ptn_BIND_NAME : Fld := ⟨0x600, 0, 32, .d, 16, 0, .any, 4, 4⟩
/-- BIND_STATION at 0x610, bits 7:0, class D, R110. -/
def ptn_BIND_STATION : Fld := ⟨0x610, 0, 8, .d, 16, 255, .mgr, 0, 1⟩
/-- BIND_PAIR at 0x610, bits 8:8, class D, R110. -/
def ptn_BIND_PAIR : Fld := ⟨0x610, 8, 1, .d, 16, 0, .mgr, 0, 1⟩
/-- BIND_GO at 0x614, bits 0:0, class D, R110. -/
def ptn_BIND_GO : Fld := ⟨0x614, 0, 1, .d, 16, 0, .mgr, 0, 1⟩
/-- BIND_LOOKUP at 0x614, bits 1:1, class D, R110. -/
def ptn_BIND_LOOKUP : Fld := ⟨0x614, 1, 1, .d, 16, 0, .any, 0, 1⟩
/-- BIND_RESULT at 0x618, bits 3:0, class RO, R110. -/
def ptn_BIND_RESULT : Fld := ⟨0x618, 0, 4, .ro, 16, 0, .any, 0, 1⟩
/-- BIND_INDEX at 0x618, bits 15:8, class RO, R110. -/
def ptn_BIND_INDEX : Fld := ⟨0x618, 8, 8, .ro, 16, 255, .any, 0, 1⟩
/-- BIND_PHYS at 0x618, bits 23:16, class RO, R110. -/
def ptn_BIND_PHYS : Fld := ⟨0x618, 16, 8, .ro, 16, 255, .any, 0, 1⟩
/-- BIND_COUNT at 0x618, bits 31:24, class RO, R110. -/
def ptn_BIND_COUNT : Fld := ⟨0x618, 24, 8, .ro, 16, 0, .any, 0, 1⟩
/-- DST_FLOOR at 0x200, bits 15:0, class H M, R204. -/
def ptn_DST_FLOOR : Fld := ⟨0x200, 0, 16, .h, 12, 0, .mgr, 0, 1⟩
/-- DST_QUOTA at 0x200, bits 31:16, class H M, R204. -/
def ptn_DST_QUOTA : Fld := ⟨0x200, 16, 16, .h, 12, 0, .mgr, 0, 1⟩
/-- HBM_FLOOR at 0x204, bits 23:0, class H M, R204. -/
def ptn_HBM_FLOOR : Fld := ⟨0x204, 0, 24, .h, 12, 0, .mgr, 0, 1⟩
/-- TOTAL_QUOTA at 0x208, bits 31:0, class H M, R204. -/
def ptn_TOTAL_QUOTA : Fld := ⟨0x208, 0, 32, .h, 12, 0, .mgr, 0, 1⟩
/-- MODEL_MODE at 0x20C, bits 0:0, class H M, R204. -/
def ptn_MODEL_MODE : Fld := ⟨0x20C, 0, 1, .h, 12, 0, .mgr, 0, 1⟩
/-- HOTSET_TILES at 0x20C, bits 30:16, class H M, R204. -/
def ptn_HOTSET_TILES : Fld := ⟨0x20C, 16, 15, .h, 12, 0, .mgr, 0, 1⟩
/-- DST_USED at 0x210, bits 15:0, class RO, R204. -/
def ptn_DST_USED : Fld := ⟨0x210, 0, 16, .ro, 16, 0, .any, 0, 1⟩
/-- DST_PINNED at 0x210, bits 31:16, class RO, R204. -/
def ptn_DST_PINNED : Fld := ⟨0x210, 16, 16, .ro, 16, 0, .any, 0, 1⟩
/-- HBM_USED at 0x214, bits 23:0, class RO, R204. -/
def ptn_HBM_USED : Fld := ⟨0x214, 0, 24, .ro, 16, 0, .any, 0, 1⟩
/-- HBM_PINNED at 0x218, bits 23:0, class RO, R204. -/
def ptn_HBM_PINNED : Fld := ⟨0x218, 0, 24, .ro, 16, 0, .any, 0, 1⟩
/-- HOST_USED at 0x21C, bits 31:0, class RO, R204. -/
def ptn_HOST_USED : Fld := ⟨0x21C, 0, 32, .ro, 16, 0, .any, 0, 1⟩
/-- TOTAL_USED at 0x220, bits 31:0, class RO, R204. -/
def ptn_TOTAL_USED : Fld := ⟨0x220, 0, 32, .ro, 16, 0, .any, 0, 1⟩
/-- PINNED at 0x224, bits 7:0, class RO, R204. -/
def ptn_PINNED : Fld := ⟨0x224, 0, 8, .ro, 16, 0, .any, 0, 1⟩
/-- PINNING at 0x224, bits 15:8, class RO, R204. -/
def ptn_PINNING : Fld := ⟨0x224, 8, 8, .ro, 16, 0, .any, 0, 1⟩
/-- RT_READY at 0x224, bits 16:16, class RO, R204. -/
def ptn_RT_READY : Fld := ⟨0x224, 16, 1, .ro, 16, 0, .any, 0, 1⟩
/-- MGR_WINDOW_OK at 0x228, bits 0:0, class D, R204. -/
def ptn_MGR_WINDOW_OK : Fld := ⟨0x228, 0, 1, .d, 16, 0, .tenant, 0, 1⟩
/-- VF_WIN_BASE at 0x22C, bits 17:0, class D, R204. -/
def ptn_VF_WIN_BASE : Fld := ⟨0x22C, 0, 18, .d, 16, 0, .any, 0, 1⟩
/-- FREE_BASE at 0x230, bits 63:0, class D, R204. -/
def ptn_FREE_BASE : Fld := ⟨0x230, 0, 64, .d, 16, 0, .any, 0, 1⟩
/-- FREE_TILES at 0x238, bits 31:0, class D, R204. -/
def ptn_FREE_TILES : Fld := ⟨0x238, 0, 32, .d, 16, 0, .any, 0, 1⟩
/-- FREE_GO at 0x23C, bits 0:0, class D, R204. -/
def ptn_FREE_GO : Fld := ⟨0x23C, 0, 1, .d, 16, 0, .any, 0, 1⟩
/-- FREE_RESULT at 0x23C, bits 7:4, class RO, R204. -/
def ptn_FREE_RESULT : Fld := ⟨0x23C, 4, 4, .ro, 16, 0, .any, 0, 1⟩
/-- RANGE_BASE at 0x240 + 16k, bits 63:0, class H N, R204. -/
def ptn_RANGE_BASE : Fld := ⟨0x240, 0, 64, .h, 13, 0, .any, 16, 8⟩
/-- RANGE_TILES at 0x248 + 16k, bits 31:0, class H N, R204. -/
def ptn_RANGE_TILES : Fld := ⟨0x248, 0, 32, .h, 13, 0, .any, 16, 8⟩
/-- RANGE_KIND at 0x24C + 16k, bits 1:0, class H N, R204. -/
def ptn_RANGE_KIND : Fld := ⟨0x24C, 0, 2, .h, 13, 0, .any, 16, 8⟩
/-- RANGE_STRIPE at 0x24C + 16k, bits 2:2, class H N, R204. -/
def ptn_RANGE_STRIPE : Fld := ⟨0x24C, 2, 1, .h, 13, 0, .any, 16, 8⟩
/-- PIN_TIER at 0x24C + 16k, bits 4:3, class H N, R204. -/
def ptn_PIN_TIER : Fld := ⟨0x24C, 3, 2, .h, 13, 0, .any, 16, 8⟩
/-- TILE_QUERY at 0x2C0, bits 63:0, class D, R204. -/
def ptn_TILE_QUERY : Fld := ⟨0x2C0, 0, 64, .d, 16, 0, .any, 0, 1⟩
/-- TILE_TIER at 0x2C8, bits 1:0, class RO, R204. -/
def ptn_TILE_TIER : Fld := ⟨0x2C8, 0, 2, .ro, 16, 0, .any, 0, 1⟩
/-- TILE_FLAGS at 0x2C8, bits 6:2, class RO, R204. -/
def ptn_TILE_FLAGS : Fld := ⟨0x2C8, 2, 5, .ro, 16, 0, .any, 0, 1⟩
/-- TILE_AGE at 0x2C8, bits 14:7, class RO, R204. -/
def ptn_TILE_AGE : Fld := ⟨0x2C8, 7, 8, .ro, 16, 0, .any, 0, 1⟩
/-- PQ_FLOOR at 0x400, bits 19:0, class H L, R279. -/
def ptn_PQ_FLOOR : Fld := ⟨0x400, 0, 20, .h, 11, 0, .mgr, 0, 1⟩
/-- PQ_QUOTA at 0x404, bits 19:0, class H L, R279. -/
def ptn_PQ_QUOTA : Fld := ⟨0x404, 0, 20, .h, 11, 0, .mgr, 0, 1⟩
/-- PQ_USED at 0x408, bits 19:0, class RO, R279. -/
def ptn_PQ_USED : Fld := ⟨0x408, 0, 20, .ro, 16, 0, .any, 0, 1⟩
/-- STAKE_FLOOR at 0x480, bits 16:0, class H K, R351. -/
def ptn_STAKE_FLOOR : Fld := ⟨0x480, 0, 17, .h, 10, 0, .mgr, 0, 1⟩
/-- STAKE_QUOTA at 0x484, bits 16:0, class H K, R351. -/
def ptn_STAKE_QUOTA : Fld := ⟨0x484, 0, 17, .h, 10, 0, .mgr, 0, 1⟩
/-- BE_JOB_LIMIT at 0x488, bits 15:0, class H K, R351. -/
def ptn_BE_JOB_LIMIT : Fld := ⟨0x488, 0, 16, .h, 10, 0, .mgr, 0, 1⟩
/-- METERED at 0x48C, bits 0:0, class H J, R351. -/
def ptn_METERED : Fld := ⟨0x48C, 0, 1, .h, 9, 0, .mgr, 0, 1⟩
/-- METER_RANK at 0x48C, bits 15:8, class H J, R351. -/
def ptn_METER_RANK : Fld := ⟨0x48C, 8, 8, .h, 9, 0, .mgr, 0, 1⟩
/-- METER_STN_UJ at 0x490, bits 19:0, class H J, R351. -/
def ptn_METER_STN_UJ : Fld := ⟨0x490, 0, 20, .h, 9, 500, .mgr, 0, 1⟩
/-- STAKE_USED at 0x494, bits 16:0, class RO, R351. -/
def ptn_STAKE_USED : Fld := ⟨0x494, 0, 17, .ro, 16, 0, .any, 0, 1⟩
/-- BE_JOBS_INFLIGHT at 0x498, bits 15:0, class RO, R351. -/
def ptn_BE_JOBS_INFLIGHT : Fld := ⟨0x498, 0, 16, .ro, 16, 0, .any, 0, 1⟩
/-- RADIO_LOAD at 0x49C, bits 9:0, class RO, R351. -/
def ptn_RADIO_LOAD : Fld := ⟨0x49C, 0, 10, .ro, 16, 0, .any, 0, 1⟩
/-- BE_JOBS_STARTED at 0x4A0, bits 63:0, class RO, R351. -/
def ptn_BE_JOBS_STARTED : Fld := ⟨0x4A0, 0, 64, .ro, 16, 0, .any, 0, 1⟩
/-- BE_JOBS_ENDED at 0x4A8, bits 63:0, class RO, R351. -/
def ptn_BE_JOBS_ENDED : Fld := ⟨0x4A8, 0, 64, .ro, 16, 0, .any, 0, 1⟩
/-- SLOTS_DONE at 0x4B0, bits 63:0, class RO, R351. -/
def ptn_SLOTS_DONE : Fld := ⟨0x4B0, 0, 64, .ro, 16, 0, .any, 0, 1⟩
/-- SLOTS_DROPPED at 0x4B8, bits 31:0, class RO, R351. -/
def ptn_SLOTS_DROPPED : Fld := ⟨0x4B8, 0, 32, .ro, 16, 0, .any, 0, 1⟩
/-- METER_HELD at 0x4BC, bits 31:0, class RO, R351. -/
def ptn_METER_HELD : Fld := ⟨0x4BC, 0, 32, .ro, 16, 0, .any, 0, 1⟩
/-- STAKE_WAITS at 0x4C0, bits 31:0, class RO, R351. -/
def ptn_STAKE_WAITS : Fld := ⟨0x4C0, 0, 32, .ro, 16, 0, .any, 0, 1⟩
/-- CPL_MISSED at 0x4C4, bits 31:0, class RO, R351. -/
def ptn_CPL_MISSED : Fld := ⟨0x4C4, 0, 32, .ro, 16, 0, .any, 0, 1⟩
/-- FB_BASE at 0x500, bits 17:0, class H I, R411. -/
def ptn_FB_BASE : Fld := ⟨0x500, 0, 18, .h, 8, 0, .mgr, 0, 1⟩
/-- FB_COUNT at 0x504, bits 18:0, class H I, R411. -/
def ptn_FB_COUNT : Fld := ⟨0x504, 0, 19, .h, 8, 0, .mgr, 0, 1⟩
/-- HARQ_BASE at 0x508, bits 17:0, class H I, R411. -/
def ptn_HARQ_BASE : Fld := ⟨0x508, 0, 18, .h, 8, 0, .mgr, 0, 1⟩
/-- HARQ_COUNT at 0x50C, bits 18:0, class H I, R411. -/
def ptn_HARQ_COUNT : Fld := ⟨0x50C, 0, 19, .h, 8, 0, .mgr, 0, 1⟩
/-- FB_REQ_Q at 0x510, bits 13:0, class S, R411. -/
def ptn_FB_REQ_Q : Fld := ⟨0x510, 0, 14, .s, 16, 0, .any, 0, 1⟩
/-- FB_REQS at 0x514, bits 31:0, class RO, R411. -/
def ptn_FB_REQS : Fld := ⟨0x514, 0, 32, .ro, 16, 0, .any, 0, 1⟩
/-- LB_EN at 0x040, bits 0:0, class H C, R537. -/
def ptn_LB_EN : Fld := ⟨0x040, 0, 1, .h, 2, 0, .any, 0, 1⟩
/-- RECOVER at 0x040, bits 1:1, class H C, R537. -/
def ptn_RECOVER : Fld := ⟨0x040, 1, 1, .h, 2, 0, .any, 0, 1⟩
/-- MIRROR_BASE at 0x048, bits 63:0, class H C, R537. -/
def ptn_MIRROR_BASE : Fld := ⟨0x048, 0, 64, .h, 2, 0, .any, 0, 1⟩
/-- MIRROR_LOG2 at 0x050, bits 4:0, class H C, R537. -/
def ptn_MIRROR_LOG2 : Fld := ⟨0x050, 0, 5, .h, 2, 10, .any, 0, 1⟩
/-- LOG_BASE at 0x058, bits 63:0, class H C, R537. -/
def ptn_LOG_BASE : Fld := ⟨0x058, 0, 64, .h, 2, 0, .any, 0, 1⟩
/-- LOG_PAGES at 0x060, bits 31:0, class H C, R537. -/
def ptn_LOG_PAGES : Fld := ⟨0x060, 0, 32, .h, 2, 32, .any, 0, 1⟩
/-- NEXT_SEQ at 0x068, bits 63:0, class RO, R537. -/
def ptn_NEXT_SEQ : Fld := ⟨0x068, 0, 64, .ro, 16, 1, .any, 0, 1⟩
/-- DONE_SEQ at 0x070, bits 63:0, class RO, R537. -/
def ptn_DONE_SEQ : Fld := ⟨0x070, 0, 64, .ro, 16, 0, .any, 0, 1⟩
/-- LB_PENDING at 0x078, bits 16:0, class RO, R537. -/
def ptn_LB_PENDING : Fld := ⟨0x078, 0, 17, .ro, 16, 0, .any, 0, 1⟩
/-- LB_STATE at 0x078, bits 21:20, class RO, R537. -/
def ptn_LB_STATE : Fld := ⟨0x078, 20, 2, .ro, 16, 0, .any, 0, 1⟩
/-- RERUN_N at 0x07C, bits 31:0, class RO, R537. -/
def ptn_RERUN_N : Fld := ⟨0x07C, 0, 32, .ro, 16, 0, .any, 0, 1⟩
/-- INPUT_LOST_N at 0x080, bits 31:0, class RO, R537. -/
def ptn_INPUT_LOST_N : Fld := ⟨0x080, 0, 32, .ro, 16, 0, .any, 0, 1⟩
/-- PSTATE at 0x090, bits 1:0, class RO, R537. -/
def ptn_PSTATE : Fld := ⟨0x090, 0, 2, .ro, 16, 0, .any, 0, 1⟩
/-- VF at 0x090, bits 14:8, class RO, R537. -/
def ptn_VF : Fld := ⟨0x090, 8, 7, .ro, 16, 0, .any, 0, 1⟩
/-- BME at 0x090, bits 16:16, class RO, R537. -/
def ptn_BME : Fld := ⟨0x090, 16, 1, .ro, 16, 0, .any, 0, 1⟩
/-- JOBQ_BASE at 0x094, bits 13:0, class H D, R537. -/
def ptn_JOBQ_BASE : Fld := ⟨0x094, 0, 14, .h, 3, 0, .any, 0, 1⟩
/-- CQ_BASE at 0x100 + 16k, bits 63:0, class H B, R537. -/
def ptn_CQ_BASE : Fld := ⟨0x100, 0, 64, .h, 1, 0, .any, 16, 16⟩
/-- CQ_SIZE_LOG2 at 0x108 + 16k, bits 4:0, class H B, R537. -/
def ptn_CQ_SIZE_LOG2 : Fld := ⟨0x108, 0, 5, .h, 1, 4, .any, 16, 16⟩
/-- CQ_EN at 0x108 + 16k, bits 8:8, class H B, R537. -/
def ptn_CQ_EN : Fld := ⟨0x108, 8, 1, .h, 1, 0, .any, 16, 16⟩
/-- IRQ_EN at 0x108 + 16k, bits 9:9, class H B, R537. -/
def ptn_IRQ_EN : Fld := ⟨0x108, 9, 1, .h, 1, 0, .any, 16, 16⟩
/-- VECTOR at 0x108 + 16k, bits 21:16, class H B, R537. -/
def ptn_VECTOR : Fld := ⟨0x108, 16, 6, .h, 1, 2, .any, 16, 16⟩
/-- CQ_HEAD at 0x10C + 16k, bits 15:0, class D, R537. -/
def ptn_CQ_HEAD : Fld := ⟨0x10C, 0, 16, .d, 16, 0, .any, 16, 16⟩
/-- CQ_TAIL at 0x10C + 16k, bits 31:16, class RO, R537. -/
def ptn_CQ_TAIL : Fld := ⟨0x10C, 16, 16, .ro, 16, 0, .any, 16, 16⟩
/-- NAME_STATE at 0x620 + 1k, bits 7:0, class RO, R537. -/
def ptn_NAME_STATE : Fld := ⟨0x620, 0, 8, .ro, 16, 0, .any, 1, 144⟩
/-- SQ_BASE at 0x700 + 16k, bits 63:0, class H A, R537. -/
def ptn_SQ_BASE : Fld := ⟨0x700, 0, 64, .h, 0, 0, .any, 16, 16⟩
/-- SQ_SIZE_LOG2 at 0x708 + 16k, bits 4:0, class H A, R537. -/
def ptn_SQ_SIZE_LOG2 : Fld := ⟨0x708, 0, 5, .h, 0, 4, .any, 16, 16⟩
/-- SQ_EN at 0x708 + 16k, bits 8:8, class H A, R537. -/
def ptn_SQ_EN : Fld := ⟨0x708, 8, 1, .h, 0, 0, .any, 16, 16⟩
/-- JOURNAL at 0x708 + 16k, bits 9:9, class H A, R537. -/
def ptn_JOURNAL : Fld := ⟨0x708, 9, 1, .h, 0, 0, .any, 16, 16⟩
/-- SQ_CQ at 0x708 + 16k, bits 15:12, class H A, R537. -/
def ptn_SQ_CQ : Fld := ⟨0x708, 12, 4, .h, 0, 0, .any, 16, 16⟩
/-- SQ_TAIL at 0x70C + 16k, bits 15:0, class D, R537. -/
def ptn_SQ_TAIL : Fld := ⟨0x70C, 0, 16, .d, 16, 0, .any, 16, 16⟩
/-- SQ_HEAD at 0x70C + 16k, bits 31:16, class RO, R537. -/
def ptn_SQ_HEAD : Fld := ⟨0x70C, 16, 16, .ro, 16, 0, .any, 16, 16⟩
/-- CAP_VIEW at 0x6B0, bits 0:0, class D, R572. -/
def ptn_CAP_VIEW : Fld := ⟨0x6B0, 0, 1, .d, 16, 0, .any, 0, 1⟩
/-- CAP_EPOCH at 0x6B4, bits 31:0, class RO, R572. -/
def ptn_CAP_EPOCH : Fld := ⟨0x6B4, 0, 32, .ro, 16, 0, .any, 0, 1⟩
/-- CAP_LATE at 0x6B8, bits 0:0, class RO, R572. -/
def ptn_CAP_LATE : Fld := ⟨0x6B8, 0, 1, .ro, 16, 0, .any, 0, 1⟩
/-- INJ_OK at 0x6BC, bits 0:0, class D, R572. -/
def ptn_INJ_OK : Fld := ⟨0x6BC, 0, 1, .d, 16, 0, .tenant, 0, 1⟩
/-- NONCE at 0x6C0 + 4k, bits 31:0, class D, R598. -/
def ptn_NONCE : Fld := ⟨0x6C0, 0, 32, .d, 16, 0, .any, 4, 8⟩
/-- ATTEST_Q at 0x6E0, bits 13:0, class D, R598. -/
def ptn_ATTEST_Q : Fld := ⟨0x6E0, 0, 14, .d, 16, 0, .any, 0, 1⟩
/-- ATTEST_GO at 0x6E4, bits 0:0, class D, R598. -/
def ptn_ATTEST_GO : Fld := ⟨0x6E4, 0, 1, .d, 16, 0, .any, 0, 1⟩
/-- ATTEST_BUSY at 0x6E4, bits 1:1, class RO, R598. -/
def ptn_ATTEST_BUSY : Fld := ⟨0x6E4, 1, 1, .ro, 16, 0, .any, 0, 1⟩
/-- ATTEST_RESULT at 0x6E4, bits 7:4, class RO, R598. -/
def ptn_ATTEST_RESULT : Fld := ⟨0x6E4, 4, 4, .ro, 16, 0, .any, 0, 1⟩
/-- ATTESTS at 0x6E8, bits 31:0, class RO, R598. -/
def ptn_ATTESTS : Fld := ⟨0x6E8, 0, 32, .ro, 16, 0, .any, 0, 1⟩

/-! ### STN page (R113, R128, R148) -/

/-- MODE at 0x040, bits 1:0, class S, R113. -/
def stn_MODE : Fld := ⟨0x040, 0, 2, .s, 16, 0, .any, 0, 1⟩
/-- LEND_RES at 0x044, bits 0:0, class S, R113. -/
def stn_LEND_RES : Fld := ⟨0x044, 0, 1, .s, 16, 0, .mgr, 0, 1⟩
/-- SEQ_STATE at 0x048, bits 2:0, class RO, R113. -/
def stn_SEQ_STATE : Fld := ⟨0x048, 0, 3, .ro, 16, 0, .any, 0, 1⟩
/-- NEXT at 0x048, bits 14:4, class RO, R113. -/
def stn_NEXT : Fld := ⟨0x048, 4, 11, .ro, 16, 0, .any, 0, 1⟩
/-- NAME_IDX at 0x048, bits 23:16, class RO, R113. -/
def stn_NAME_IDX : Fld := ⟨0x048, 16, 8, .ro, 16, 255, .any, 0, 1⟩
/-- PAIRED at 0x048, bits 24:24, class RO, R113. -/
def stn_PAIRED : Fld := ⟨0x048, 24, 1, .ro, 16, 0, .any, 0, 1⟩
/-- STAKE at 0x04C, bits 15:0, class RO, R113. -/
def stn_STAKE : Fld := ⟨0x04C, 0, 16, .ro, 16, 0, .any, 0, 1⟩
/-- SLOT_STATE at 0x050 + 4k, bits 31:0, class RO, R113. -/
def stn_SLOT_STATE : Fld := ⟨0x050, 0, 32, .ro, 16, 0, .any, 4, 4⟩
/-- BUSY_CYC at 0x060, bits 63:0, class RO, R113. -/
def stn_BUSY_CYC : Fld := ⟨0x060, 0, 64, .ro, 16, 0, .any, 0, 1⟩
/-- ROWS at 0x068, bits 63:0, class RO, R113. -/
def stn_ROWS : Fld := ⟨0x068, 0, 64, .ro, 16, 0, .any, 0, 1⟩
/-- LDW_STALL at 0x070, bits 63:0, class RO, R113. -/
def stn_LDW_STALL : Fld := ⟨0x070, 0, 64, .ro, 16, 0, .any, 0, 1⟩
/-- PREEMPTS at 0x078, bits 31:0, class RO, R113. -/
def stn_PREEMPTS : Fld := ⟨0x078, 0, 32, .ro, 16, 0, .any, 0, 1⟩
/-- LENT_RUNS at 0x07C, bits 31:0, class RO, R113. -/
def stn_LENT_RUNS : Fld := ⟨0x07C, 0, 32, .ro, 16, 0, .any, 0, 1⟩
/-- X_MOVER_BW at 0x100, bits 1:0, class H A, R113. -/
def stn_X_MOVER_BW : Fld := ⟨0x100, 0, 2, .h, 0, 2, .any, 0, 1⟩
/-- X_SELFCHECK at 0x104, bits 15:0, class H A, R113. -/
def stn_X_SELFCHECK : Fld := ⟨0x104, 0, 16, .h, 0, 4096, .any, 0, 1⟩
/-- ARITH_SAT at 0x400, bits 31:0, class RO, R128. -/
def stn_ARITH_SAT : Fld := ⟨0x400, 0, 32, .ro, 16, 0, .any, 0, 1⟩
/-- ARITH_INF at 0x404, bits 31:0, class RO, R128. -/
def stn_ARITH_INF : Fld := ⟨0x404, 0, 32, .ro, 16, 0, .any, 0, 1⟩
/-- ARITH_NAN at 0x408, bits 31:0, class RO, R128. -/
def stn_ARITH_NAN : Fld := ⟨0x408, 0, 32, .ro, 16, 0, .any, 0, 1⟩
/-- TBL_BASE at 0x200, bits 14:0, class H B, R148. -/
def stn_TBL_BASE : Fld := ⟨0x200, 0, 15, .h, 1, 0, .any, 0, 1⟩
/-- TBL_SETS at 0x200, bits 22:16, class H B, R148. -/
def stn_TBL_SETS : Fld := ⟨0x200, 16, 7, .h, 1, 0, .any, 0, 1⟩
/-- SAT_THRESH at 0x204, bits 15:0, class H C, R148. -/
def stn_SAT_THRESH : Fld := ⟨0x204, 0, 16, .h, 2, 0, .any, 0, 1⟩
/-- STAT_EN at 0x208, bits 0:0, class H D, R148. -/
def stn_STAT_EN : Fld := ⟨0x208, 0, 1, .h, 3, 0, .any, 0, 1⟩
/-- STAT_SET at 0x208, bits 14:8, class H D, R148. -/
def stn_STAT_SET : Fld := ⟨0x208, 8, 7, .h, 3, 127, .any, 0, 1⟩
/-- STAT_CLR at 0x208, bits 16:16, class D, R148. -/
def stn_STAT_CLR : Fld := ⟨0x208, 16, 1, .d, 16, 0, .any, 0, 1⟩
/-- LEND_TBL_BASE at 0x20C, bits 14:0, class H E, R148. -/
def stn_LEND_TBL_BASE : Fld := ⟨0x20C, 0, 15, .h, 4, 24576, .mgr, 0, 1⟩
/-- LEND_TBL_SETS at 0x20C, bits 22:16, class H E, R148. -/
def stn_LEND_TBL_SETS : Fld := ⟨0x20C, 16, 7, .h, 4, 0, .mgr, 0, 1⟩
/-- RQ_SAT at 0x210, bits 31:0, class RO, R148. -/
def stn_RQ_SAT : Fld := ⟨0x210, 0, 32, .ro, 16, 0, .any, 0, 1⟩
/-- RQ_NAN at 0x214, bits 31:0, class RO, R148. -/
def stn_RQ_NAN : Fld := ⟨0x214, 0, 32, .ro, 16, 0, .any, 0, 1⟩
/-- RQ_SAT_HITS at 0x218, bits 31:0, class RO, R148. -/
def stn_RQ_SAT_HITS : Fld := ⟨0x218, 0, 32, .ro, 16, 0, .any, 0, 1⟩
/-- RQ_MAXABS at 0x21C, bits 31:0, class RO, R148. -/
def stn_RQ_MAXABS : Fld := ⟨0x21C, 0, 32, .ro, 16, 0, .any, 0, 1⟩
/-- RQ_STAT_ROWS at 0x220, bits 63:0, class RO, R148. -/
def stn_RQ_STAT_ROWS : Fld := ⟨0x220, 0, 64, .ro, 16, 0, .any, 0, 1⟩
/-- RQ_ELEMS at 0x228, bits 63:0, class RO, R148. -/
def stn_RQ_ELEMS : Fld := ⟨0x228, 0, 64, .ro, 16, 0, .any, 0, 1⟩
/-- X_STAT_STRIDE at 0x300, bits 8:0, class H F, R148. -/
def stn_X_STAT_STRIDE : Fld := ⟨0x300, 0, 9, .h, 5, 1, .any, 0, 1⟩

/-! ### BPR page (R160) -/

/-- SHAPE at 0x040, bits 0:0, class S, R160. -/
def bpr_SHAPE : Fld := ⟨0x040, 0, 1, .s, 16, 0, .any, 0, 1⟩
/-- JOINED at 0x044, bits 0:0, class RO, R160. -/
def bpr_JOINED : Fld := ⟨0x044, 0, 1, .ro, 16, 0, .any, 0, 1⟩
/-- EVEN_DOWN at 0x044, bits 1:1, class RO, R160. -/
def bpr_EVEN_DOWN : Fld := ⟨0x044, 1, 1, .ro, 16, 0, .any, 0, 1⟩
/-- ODD_DOWN at 0x044, bits 2:2, class RO, R160. -/
def bpr_ODD_DOWN : Fld := ⟨0x044, 2, 1, .ro, 16, 0, .any, 0, 1⟩
/-- PAIR_JOBS at 0x048, bits 31:0, class RO, R160. -/
def bpr_PAIR_JOBS : Fld := ⟨0x048, 0, 32, .ro, 16, 0, .any, 0, 1⟩
/-- PAIR_PREEMPTS at 0x04C, bits 31:0, class RO, R160. -/
def bpr_PAIR_PREEMPTS : Fld := ⟨0x04C, 0, 32, .ro, 16, 0, .any, 0, 1⟩

/-! ### TIR page (R206) -/

/-- PROFILE at 0x040, bits 1:0, class H A, R206. -/
def tir_PROFILE : Fld := ⟨0x040, 0, 2, .h, 0, 0, .any, 0, 1⟩
/-- HOST_EN at 0x044, bits 0:0, class S, R206. -/
def tir_HOST_EN : Fld := ⟨0x044, 0, 1, .s, 16, 0, .any, 0, 1⟩
/-- HOST_BASE at 0x048, bits 63:0, class S, R206. -/
def tir_HOST_BASE : Fld := ⟨0x048, 0, 64, .s, 16, 0, .any, 0, 1⟩
/-- HOST_TILES at 0x050, bits 31:0, class S, R206. -/
def tir_HOST_TILES : Fld := ⟨0x050, 0, 32, .s, 16, 0, .any, 0, 1⟩
/-- DST_FREE at 0x060, bits 15:0, class RO, R206. -/
def tir_DST_FREE : Fld := ⟨0x060, 0, 16, .ro, 16, 16384, .any, 0, 1⟩
/-- HBM_FREE at 0x064, bits 23:0, class RO, R206. -/
def tir_HBM_FREE : Fld := ⟨0x064, 0, 24, .ro, 16, 0, .any, 0, 1⟩
/-- HOST_FREE at 0x068, bits 31:0, class RO, R206. -/
def tir_HOST_FREE : Fld := ⟨0x068, 0, 32, .ro, 16, 0, .any, 0, 1⟩
/-- PROMOTIONS at 0x070, bits 63:0, class RO, R206. -/
def tir_PROMOTIONS : Fld := ⟨0x070, 0, 64, .ro, 16, 0, .any, 0, 1⟩
/-- DEMOTIONS at 0x078, bits 63:0, class RO, R206. -/
def tir_DEMOTIONS : Fld := ⟨0x078, 0, 64, .ro, 16, 0, .any, 0, 1⟩
/-- SPILLS at 0x080, bits 63:0, class RO, R206. -/
def tir_SPILLS : Fld := ⟨0x080, 0, 64, .ro, 16, 0, .any, 0, 1⟩
/-- REFILLS at 0x088, bits 63:0, class RO, R206. -/
def tir_REFILLS : Fld := ⟨0x088, 0, 64, .ro, 16, 0, .any, 0, 1⟩
/-- MIG_ABANDONED at 0x090, bits 31:0, class RO, R206. -/
def tir_MIG_ABANDONED : Fld := ⟨0x090, 0, 32, .ro, 16, 0, .any, 0, 1⟩
/-- PROMOTE_SKIPPED at 0x094, bits 31:0, class RO, R206. -/
def tir_PROMOTE_SKIPPED : Fld := ⟨0x094, 0, 32, .ro, 16, 0, .any, 0, 1⟩
/-- TILE_QUERY at 0x0A0, bits 63:0, class D, R206. -/
def tir_TILE_QUERY : Fld := ⟨0x0A0, 0, 64, .d, 16, 0, .any, 0, 1⟩
/-- TILE_INFO at 0x0A8, bits 63:0, class RO, R206. -/
def tir_TILE_INFO : Fld := ⟨0x0A8, 0, 64, .ro, 16, 0, .any, 0, 1⟩
/-- WIN_BASE at 0x0C0 + 4k, bits 15:0, class D, R206. -/
def tir_WIN_BASE : Fld := ⟨0x0C0, 0, 16, .d, 16, 0, .any, 4, 16⟩
/-- WIN_PTN at 0x0C0 + 4k, bits 21:16, class D, R206. -/
def tir_WIN_PTN : Fld := ⟨0x0C0, 16, 6, .d, 16, 0, .any, 4, 16⟩
/-- WIN_VALID at 0x0C0 + 4k, bits 31:31, class D, R206. -/
def tir_WIN_VALID : Fld := ⟨0x0C0, 31, 1, .d, 16, 0, .any, 4, 16⟩
/-- X_PROMOTE_READS at 0x100, bits 3:0, class H B, R206. -/
def tir_X_PROMOTE_READS : Fld := ⟨0x100, 0, 4, .h, 1, 2, .any, 0, 1⟩
/-- X_AGE_PERIOD at 0x104, bits 31:0, class H B, R206. -/
def tir_X_AGE_PERIOD : Fld := ⟨0x104, 0, 32, .h, 1, 1000000, .any, 0, 1⟩
/-- X_MIG_SHARE at 0x108, bits 3:0, class H B, R206. -/
def tir_X_MIG_SHARE : Fld := ⟨0x108, 0, 4, .h, 1, 2, .any, 0, 1⟩
/-- X_ZERO_SHARE at 0x10C, bits 3:0, class H B, R206. -/
def tir_X_ZERO_SHARE : Fld := ⟨0x10C, 0, 4, .h, 1, 2, .any, 0, 1⟩
/-- X_HOST_SHARE at 0x110, bits 3:0, class H B, R206. -/
def tir_X_HOST_SHARE : Fld := ⟨0x110, 0, 4, .h, 1, 4, .any, 0, 1⟩

/-! ### DST and HBC pages (R208) -/

/-- SCRUB at 0x040, bits 1:0, class H A, R208. -/
def mem_SCRUB : Fld := ⟨0x040, 0, 2, .h, 0, 1, .any, 0, 1⟩
/-- CE_COUNT at 0x044, bits 31:0, class RO, R208. -/
def mem_CE_COUNT : Fld := ⟨0x044, 0, 32, .ro, 16, 0, .any, 0, 1⟩
/-- UE_COUNT at 0x048, bits 31:0, class RO, R208. -/
def mem_UE_COUNT : Fld := ⟨0x048, 0, 32, .ro, 16, 0, .any, 0, 1⟩
/-- ZERO_PENDING at 0x04C, bits 23:0, class RO, R208. -/
def mem_ZERO_PENDING : Fld := ⟨0x04C, 0, 24, .ro, 16, 0, .any, 0, 1⟩
/-- LOST_TILES at 0x050, bits 23:0, class RO, R208. -/
def mem_LOST_TILES : Fld := ⟨0x050, 0, 24, .ro, 16, 0, .any, 0, 1⟩
/-- X_SCRUB_PERIOD at 0x100, bits 31:0, class H B, R208. -/
def mem_X_SCRUB_PERIOD : Fld := ⟨0x100, 0, 32, .h, 1, 10000, .any, 0, 1⟩

/-! ### MOV page (R247) -/

/-- FAULT_MODE at 0x040, bits 1:0, class H A, R247. -/
def mov_FAULT_MODE : Fld := ⟨0x040, 0, 2, .h, 0, 0, .any, 0, 1⟩
/-- CONC at 0x040, bits 11:8, class H A, R247. -/
def mov_CONC : Fld := ⟨0x040, 8, 4, .h, 0, 1, .any, 0, 1⟩
/-- FAULT_TIMEOUT at 0x044, bits 31:0, class H A, R247. -/
def mov_FAULT_TIMEOUT : Fld := ⟨0x044, 0, 32, .h, 0, 10000, .any, 0, 1⟩
/-- CTX_EN at 0x048, bits 0:0, class H A, R247. -/
def mov_CTX_EN : Fld := ⟨0x048, 0, 1, .h, 0, 0, .any, 0, 1⟩
/-- CTX_ROOT at 0x050, bits 63:0, class H A, R247. -/
def mov_CTX_ROOT : Fld := ⟨0x050, 0, 64, .h, 0, 0, .any, 0, 1⟩
/-- CLASS at 0x058, bits 0:0, class H D, R247. -/
def mov_CLASS : Fld := ⟨0x058, 0, 1, .h, 3, 0, .mgr, 0, 1⟩
/-- TMPL_BASE at 0x060, bits 63:0, class H B, R247. -/
def mov_TMPL_BASE : Fld := ⟨0x060, 0, 64, .h, 1, 0, .any, 0, 1⟩
/-- TMPL_COUNT at 0x068, bits 6:0, class H B, R247. -/
def mov_TMPL_COUNT : Fld := ⟨0x068, 0, 7, .h, 1, 0, .any, 0, 1⟩
/-- SUBMIT_Q at 0x06C, bits 13:0, class S, R247. -/
def mov_SUBMIT_Q : Fld := ⟨0x06C, 0, 14, .s, 16, 0, .any, 0, 1⟩
/-- CPL_Q at 0x070, bits 13:0, class S, R247. -/
def mov_CPL_Q : Fld := ⟨0x070, 0, 14, .s, 16, 0, .any, 0, 1⟩
/-- FLT_VALID at 0x080, bits 0:0, class RO, R247. -/
def mov_FLT_VALID : Fld := ⟨0x080, 0, 1, .ro, 16, 0, .any, 0, 1⟩
/-- FLT_KIND at 0x080, bits 3:1, class RO, R247. -/
def mov_FLT_KIND : Fld := ⟨0x080, 1, 3, .ro, 16, 0, .any, 0, 1⟩
/-- FLT_SIDE at 0x080, bits 4:4, class RO, R247. -/
def mov_FLT_SIDE : Fld := ⟨0x080, 4, 1, .ro, 16, 0, .any, 0, 1⟩
/-- FLT_TABLE at 0x080, bits 5:5, class RO, R247. -/
def mov_FLT_TABLE : Fld := ⟨0x080, 5, 1, .ro, 16, 0, .any, 0, 1⟩
/-- FLT_LEVEL at 0x080, bits 7:6, class RO, R247. -/
def mov_FLT_LEVEL : Fld := ⟨0x080, 6, 2, .ro, 16, 0, .any, 0, 1⟩
/-- FLT_OUTCOME at 0x080, bits 9:8, class RO, R247. -/
def mov_FLT_OUTCOME : Fld := ⟨0x080, 8, 2, .ro, 16, 0, .any, 0, 1⟩
/-- FLT_PENDING at 0x080, bits 25:16, class RO, R247. -/
def mov_FLT_PENDING : Fld := ⟨0x080, 16, 10, .ro, 16, 0, .any, 0, 1⟩
/-- FLT_ADDR at 0x088, bits 63:0, class RO, R247. -/
def mov_FLT_ADDR : Fld := ⟨0x088, 0, 64, .ro, 16, 0, .any, 0, 1⟩
/-- FLT_ENTRY at 0x090, bits 63:0, class RO, R247. -/
def mov_FLT_ENTRY : Fld := ⟨0x090, 0, 64, .ro, 16, 0, .any, 0, 1⟩
/-- FLT_PROGRESS at 0x098, bits 63:0, class RO, R247. -/
def mov_FLT_PROGRESS : Fld := ⟨0x098, 0, 64, .ro, 16, 0, .any, 0, 1⟩
/-- FLT_STAKE at 0x0A0, bits 15:0, class RO, R247. -/
def mov_FLT_STAKE : Fld := ⟨0x0A0, 0, 16, .ro, 16, 0, .any, 0, 1⟩
/-- FLT_TAG at 0x0A4, bits 31:0, class RO, R247. -/
def mov_FLT_TAG : Fld := ⟨0x0A4, 0, 32, .ro, 16, 0, .any, 0, 1⟩
/-- FLT_CMD at 0x0A8, bits 1:0, class D, R247. -/
def mov_FLT_CMD : Fld := ⟨0x0A8, 0, 2, .d, 16, 0, .any, 0, 1⟩
/-- INV_BASE at 0x0B0, bits 63:0, class D, R247. -/
def mov_INV_BASE : Fld := ⟨0x0B0, 0, 64, .d, 16, 0, .any, 0, 1⟩
/-- INV_TILES at 0x0B8, bits 31:0, class D, R247. -/
def mov_INV_TILES : Fld := ⟨0x0B8, 0, 32, .d, 16, 0, .any, 0, 1⟩
/-- INV_GO at 0x0BC, bits 0:0, class D, R247. -/
def mov_INV_GO : Fld := ⟨0x0BC, 0, 1, .d, 16, 0, .any, 0, 1⟩
/-- INV_DONE at 0x0BC, bits 1:1, class RO, R247. -/
def mov_INV_DONE : Fld := ⟨0x0BC, 1, 1, .ro, 16, 1, .any, 0, 1⟩
/-- BYTES_MOVED at 0x0C0, bits 63:0, class RO, R247. -/
def mov_BYTES_MOVED : Fld := ⟨0x0C0, 0, 64, .ro, 16, 0, .any, 0, 1⟩
/-- DESCS_DONE at 0x0C8, bits 31:0, class RO, R247. -/
def mov_DESCS_DONE : Fld := ⟨0x0C8, 0, 32, .ro, 16, 0, .any, 0, 1⟩
/-- FAULTS at 0x0CC, bits 31:0, class RO, R247. -/
def mov_FAULTS : Fld := ⟨0x0CC, 0, 32, .ro, 16, 0, .any, 0, 1⟩
/-- WALKS at 0x0D0, bits 31:0, class RO, R247. -/
def mov_WALKS : Fld := ⟨0x0D0, 0, 32, .ro, 16, 0, .any, 0, 1⟩
/-- YIELDS at 0x0D4, bits 31:0, class RO, R247. -/
def mov_YIELDS : Fld := ⟨0x0D4, 0, 32, .ro, 16, 0, .any, 0, 1⟩
/-- X_CHUNK at 0x100, bits 1:0, class H C, R247. -/
def mov_X_CHUNK : Fld := ⟨0x100, 0, 2, .h, 2, 2, .any, 0, 1⟩
/-- X_INFLIGHT at 0x104, bits 2:0, class H C, R247. -/
def mov_X_INFLIGHT : Fld := ⟨0x104, 0, 3, .h, 2, 4, .any, 0, 1⟩

/-! ### PQ group page (R273) -/

/-- OP_CODE at 0x040, bits 2:0, class D, R273. -/
def pq_OP_CODE : Fld := ⟨0x040, 0, 3, .d, 16, 0, .any, 0, 1⟩
/-- OP_PRIO at 0x040, bits 6:4, class D, R273. -/
def pq_OP_PRIO : Fld := ⟨0x040, 4, 3, .d, 16, 0, .any, 0, 1⟩
/-- OP_QIDX at 0x040, bits 11:8, class D, R273. -/
def pq_OP_QIDX : Fld := ⟨0x040, 8, 4, .d, 16, 0, .any, 0, 1⟩
/-- OP_ARG at 0x044, bits 31:0, class D, R273. -/
def pq_OP_ARG : Fld := ⟨0x044, 0, 32, .d, 16, 0, .any, 0, 1⟩
/-- OP_HANDLE at 0x048, bits 31:0, class D, R273. -/
def pq_OP_HANDLE : Fld := ⟨0x048, 0, 32, .d, 16, 0, .any, 0, 1⟩
/-- OP_STATUS at 0x04C, bits 7:0, class RO, R273. -/
def pq_OP_STATUS : Fld := ⟨0x04C, 0, 8, .ro, 16, 0, .any, 0, 1⟩
/-- OP_OUT at 0x050, bits 31:0, class RO, R273. -/
def pq_OP_OUT : Fld := ⟨0x050, 0, 32, .ro, 16, 0, .any, 0, 1⟩
/-- OP_LEN at 0x054, bits 15:0, class RO, R273. -/
def pq_OP_LEN : Fld := ⟨0x054, 0, 16, .ro, 16, 0, .any, 0, 1⟩
/-- OP_OUT_PRIO at 0x054, bits 18:16, class RO, R273. -/
def pq_OP_OUT_PRIO : Fld := ⟨0x054, 16, 3, .ro, 16, 0, .any, 0, 1⟩
/-- OP_REDELIV at 0x054, bits 19:19, class RO, R273. -/
def pq_OP_REDELIV : Fld := ⟨0x054, 19, 1, .ro, 16, 0, .any, 0, 1⟩
/-- WIN_HANDLE at 0x058, bits 31:0, class D, R273. -/
def pq_WIN_HANDLE : Fld := ⟨0x058, 0, 32, .d, 16, 0, .any, 0, 1⟩
/-- WIN_OFF at 0x05C, bits 15:0, class D, R273. -/
def pq_WIN_OFF : Fld := ⟨0x05C, 0, 16, .d, 16, 0, .any, 0, 1⟩
/-- ENABLE at 0x100 + 32k, bits 0:0, class S, R273. -/
def pq_ENABLE : Fld := ⟨0x100, 0, 1, .s, 16, 0, .any, 32, 16⟩
/-- HW_PRIO at 0x100 + 32k, bits 3:1, class S, R273. -/
def pq_HW_PRIO : Fld := ⟨0x100, 1, 3, .s, 16, 7, .any, 32, 16⟩
/-- STATE at 0x100 + 32k, bits 5:4, class RO, R273. -/
def pq_STATE : Fld := ⟨0x100, 4, 2, .ro, 16, 0, .any, 32, 16⟩
/-- CELL_LIMIT at 0x104 + 32k, bits 19:0, class S, R273. -/
def pq_CELL_LIMIT : Fld := ⟨0x104, 0, 20, .s, 16, 1024, .any, 32, 16⟩
/-- WAIT_LIMIT at 0x108 + 32k, bits 31:0, class D, R273. -/
def pq_WAIT_LIMIT : Fld := ⟨0x108, 0, 32, .d, 16, 0, .any, 32, 16⟩
/-- ABORT at 0x10C + 32k, bits 0:0, class D, R273. -/
def pq_ABORT : Fld := ⟨0x10C, 0, 1, .d, 16, 0, .any, 32, 16⟩
/-- CLEAR at 0x10C + 32k, bits 1:1, class D, R273. -/
def pq_CLEAR : Fld := ⟨0x10C, 1, 1, .d, 16, 0, .any, 32, 16⟩
/-- CELLS at 0x110 + 32k, bits 19:0, class RO, R273. -/
def pq_CELLS : Fld := ⟨0x110, 0, 20, .ro, 16, 0, .any, 32, 16⟩
/-- PARCELS at 0x114 + 32k, bits 19:0, class RO, R273. -/
def pq_PARCELS : Fld := ⟨0x114, 0, 20, .ro, 16, 0, .any, 32, 16⟩
/-- RESERVED_N at 0x114 + 32k, bits 28:20, class RO, R273. -/
def pq_RESERVED_N : Fld := ⟨0x114, 20, 9, .ro, 16, 0, .any, 32, 16⟩
/-- COMMITS at 0x118 + 32k, bits 31:0, class RO, R273. -/
def pq_COMMITS : Fld := ⟨0x118, 0, 32, .ro, 16, 0, .any, 32, 16⟩
/-- STALLS at 0x11C + 32k, bits 31:0, class RO, R273. -/
def pq_STALLS : Fld := ⟨0x11C, 0, 32, .ro, 16, 0, .any, 32, 16⟩

/-! ### pool page (R278) -/

/-- MGR_FLOOR at 0x040, bits 19:0, class H A, R278. -/
def pool_MGR_FLOOR : Fld := ⟨0x040, 0, 20, .h, 0, 0, .any, 0, 1⟩
/-- MGR_USED at 0x044, bits 19:0, class RO, R278. -/
def pool_MGR_USED : Fld := ⟨0x044, 0, 20, .ro, 16, 0, .any, 0, 1⟩
/-- FREE_CELLS at 0x048, bits 19:0, class RO, R278. -/
def pool_FREE_CELLS : Fld := ⟨0x048, 0, 20, .ro, 16, 524288, .any, 0, 1⟩
/-- FLOOR_HELD at 0x04C, bits 19:0, class RO, R278. -/
def pool_FLOOR_HELD : Fld := ⟨0x04C, 0, 20, .ro, 16, 0, .any, 0, 1⟩
/-- ZERO_PENDING at 0x050, bits 19:0, class RO, R278. -/
def pool_ZERO_PENDING : Fld := ⟨0x050, 0, 20, .ro, 16, 0, .any, 0, 1⟩
/-- RESERVES at 0x058, bits 63:0, class RO, R278. -/
def pool_RESERVES : Fld := ⟨0x058, 0, 64, .ro, 16, 0, .any, 0, 1⟩
/-- RELEASED_CELLS at 0x060, bits 63:0, class RO, R278. -/
def pool_RELEASED_CELLS : Fld := ⟨0x060, 0, 64, .ro, 16, 0, .any, 0, 1⟩

/-! ### MER page (R309) -/

/-- FREQ_SRC at 0x040, bits 1:0, class H A, R309. -/
def mer_FREQ_SRC : Fld := ⟨0x040, 0, 2, .h, 0, 0, .any, 0, 1⟩
/-- SYNCE_LANE at 0x040, bits 12:8, class H A, R309. -/
def mer_SYNCE_LANE : Fld := ⟨0x040, 8, 5, .h, 0, 0, .any, 0, 1⟩
/-- PPS_OUT_EN at 0x044, bits 0:0, class D, R309. -/
def mer_PPS_OUT_EN : Fld := ⟨0x044, 0, 1, .d, 16, 0, .any, 0, 1⟩
/-- PPS_IN_EN at 0x044, bits 1:1, class D, R309. -/
def mer_PPS_IN_EN : Fld := ⟨0x044, 1, 1, .d, 16, 0, .any, 0, 1⟩
/-- TDR at 0x048, bits 0:0, class S, R309. -/
def mer_TDR : Fld := ⟨0x048, 0, 1, .s, 16, 0, .any, 0, 1⟩
/-- FRC at 0x050, bits 63:0, class RO, R309. -/
def mer_FRC : Fld := ⟨0x050, 0, 64, .ro, 16, 0, .any, 0, 1⟩
/-- NOW_LIN at 0x058, bits 63:0, class RO, R309. -/
def mer_NOW_LIN : Fld := ⟨0x058, 0, 64, .ro, 16, 0, .any, 0, 1⟩
/-- NOW_NSF at 0x060, bits 63:0, class RO, R309. -/
def mer_NOW_NSF : Fld := ⟨0x060, 0, 64, .ro, 16, 0, .any, 0, 1⟩
/-- NOW_SEC at 0x068, bits 63:0, class RO, R309. -/
def mer_NOW_SEC : Fld := ⟨0x068, 0, 64, .ro, 16, 0, .any, 0, 1⟩
/-- RATE at 0x070, bits 63:0, class D, R309. -/
def mer_RATE : Fld := ⟨0x070, 0, 64, .d, 16, 0, .any, 0, 1⟩
/-- ADJ at 0x078, bits 63:0, class D, R309. -/
def mer_ADJ : Fld := ⟨0x078, 0, 64, .d, 16, 0, .any, 0, 1⟩
/-- STEP_SEC at 0x080, bits 63:0, class D, R309. -/
def mer_STEP_SEC : Fld := ⟨0x080, 0, 64, .d, 16, 0, .any, 0, 1⟩
/-- STEP_NS at 0x088, bits 31:0, class D, R309. -/
def mer_STEP_NS : Fld := ⟨0x088, 0, 32, .d, 16, 0, .any, 0, 1⟩
/-- STEP_AT at 0x090, bits 63:0, class D, R309. -/
def mer_STEP_AT : Fld := ⟨0x090, 0, 64, .d, 16, 0, .any, 0, 1⟩
/-- STEP_GO at 0x098, bits 0:0, class D, R309. -/
def mer_STEP_GO : Fld := ⟨0x098, 0, 1, .d, 16, 0, .any, 0, 1⟩
/-- PPS_IN_LIN at 0x0A0, bits 63:0, class RO, R309. -/
def mer_PPS_IN_LIN : Fld := ⟨0x0A0, 0, 64, .ro, 16, 0, .any, 0, 1⟩
/-- PPS_IN_FRAC at 0x0A8, bits 31:0, class RO, R309. -/
def mer_PPS_IN_FRAC : Fld := ⟨0x0A8, 0, 32, .ro, 16, 0, .any, 0, 1⟩
/-- PLAT_PHASE at 0x0B0, bits 31:0, class RO, R309. -/
def mer_PLAT_PHASE : Fld := ⟨0x0B0, 0, 32, .ro, 16, 0, .any, 0, 1⟩
/-- CAPTURE_EPOCH at 0x0B4, bits 31:0, class RO, R309. -/
def mer_CAPTURE_EPOCH : Fld := ⟨0x0B4, 0, 32, .ro, 16, 0, .any, 0, 1⟩
/-- LOCK_LOSSES at 0x0B8, bits 31:0, class RO, R309. -/
def mer_LOCK_LOSSES : Fld := ⟨0x0B8, 0, 32, .ro, 16, 0, .any, 0, 1⟩
/-- TSQ_SEL at 0x0C0, bits 5:0, class D, R309. -/
def mer_TSQ_SEL : Fld := ⟨0x0C0, 0, 6, .d, 16, 0, .any, 0, 1⟩
/-- TSQ_POP_ID at 0x0C8, bits 15:0, class RO, R309. -/
def mer_TSQ_POP_ID : Fld := ⟨0x0C8, 0, 16, .ro, 16, 0, .any, 0, 1⟩
/-- TSQ_POP_VALID at 0x0C8, bits 16:16, class RO, R309. -/
def mer_TSQ_POP_VALID : Fld := ⟨0x0C8, 16, 1, .ro, 16, 0, .any, 0, 1⟩
/-- TSQ_POP_LEFT at 0x0C8, bits 21:17, class RO, R309. -/
def mer_TSQ_POP_LEFT : Fld := ⟨0x0C8, 17, 5, .ro, 16, 0, .any, 0, 1⟩
/-- TSQ_POP_FRAC at 0x0C8, bits 63:32, class RO, R309. -/
def mer_TSQ_POP_FRAC : Fld := ⟨0x0C8, 32, 32, .ro, 16, 0, .any, 0, 1⟩
/-- TSQ_POP_T at 0x0D0, bits 63:0, class RO, R309. -/
def mer_TSQ_POP_T : Fld := ⟨0x0D0, 0, 64, .ro, 16, 0, .any, 0, 1⟩
/-- TSQ_OVF at 0x0D8, bits 39:0, class W1C, R309. -/
def mer_TSQ_OVF : Fld := ⟨0x0D8, 0, 40, .w1c, 16, 0, .any, 0, 1⟩
/-- TSQ_DROPS at 0x0E0, bits 31:0, class RO, R309. -/
def mer_TSQ_DROPS : Fld := ⟨0x0E0, 0, 32, .ro, 16, 0, .any, 0, 1⟩
/-- X_LEAD at 0x100, bits 19:0, class H B, R309. -/
def mer_X_LEAD : Fld := ⟨0x100, 0, 20, .h, 1, 10000, .any, 0, 1⟩
/-- X_PPS_OUT_COMP at 0x104, bits 15:0, class H B, R309. -/
def mer_X_PPS_OUT_COMP : Fld := ⟨0x104, 0, 16, .h, 1, 0, .any, 0, 1⟩
/-- X_PPS_IN_COMP at 0x108, bits 15:0, class H B, R309. -/
def mer_X_PPS_IN_COMP : Fld := ⟨0x108, 0, 16, .h, 1, 0, .any, 0, 1⟩
/-- X_PHASE_LIMIT at 0x10C, bits 19:0, class H B, R309. -/
def mer_X_PHASE_LIMIT : Fld := ⟨0x10C, 0, 20, .h, 1, 100, .any, 0, 1⟩
/-- AT at 0x400 + 16k, bits 63:0, class D, R309. -/
def mer_AT : Fld := ⟨0x400, 0, 64, .d, 16, 0, .any, 16, 64⟩
/-- PERIOD at 0x408 + 16k, bits 31:0, class D, R309. -/
def mer_PERIOD : Fld := ⟨0x408, 0, 32, .d, 16, 0, .any, 16, 64⟩
/-- ARM at 0x40C + 16k, bits 0:0, class D, R309. -/
def mer_ARM : Fld := ⟨0x40C, 0, 1, .d, 16, 0, .any, 16, 64⟩
/-- LATE at 0x40C + 16k, bits 1:1, class RO, R309. -/
def mer_LATE : Fld := ⟨0x40C, 1, 1, .ro, 16, 0, .any, 16, 64⟩
/-- FIRES at 0x40C + 16k, bits 31:16, class RO, R309. -/
def mer_FIRES : Fld := ⟨0x40C, 16, 16, .ro, 16, 0, .any, 16, 64⟩

/-! ### PLT page (R348) -/

/-- NEXT_PATTERN at 0x040, bits 1:0, class H A, R348. -/
def plt_NEXT_PATTERN : Fld := ⟨0x040, 0, 2, .h, 0, 0, .any, 0, 1⟩
/-- TRIM at 0x044, bits 15:0, class D, R348. -/
def plt_TRIM : Fld := ⟨0x044, 0, 16, .d, 16, 0, .any, 0, 1⟩
/-- TRIM_ARM at 0x044, bits 31:31, class D, R348. -/
def plt_TRIM_ARM : Fld := ⟨0x044, 31, 1, .d, 16, 0, .any, 0, 1⟩
/-- CMD at 0x048, bits 1:0, class D, R348. -/
def plt_CMD : Fld := ⟨0x048, 0, 2, .d, 16, 0, .any, 0, 1⟩
/-- CMD_PATTERN at 0x048, bits 5:4, class D, R348. -/
def plt_CMD_PATTERN : Fld := ⟨0x048, 4, 2, .d, 16, 0, .any, 0, 1⟩
/-- CMD_RESULT at 0x04C, bits 3:0, class RO, R348. -/
def plt_CMD_RESULT : Fld := ⟨0x04C, 0, 4, .ro, 16, 0, .any, 0, 1⟩
/-- BUSY at 0x04C, bits 4:4, class RO, R348. -/
def plt_BUSY : Fld := ⟨0x04C, 4, 1, .ro, 16, 0, .any, 0, 1⟩
/-- FAIL_ROW at 0x04C, bits 15:8, class RO, R348. -/
def plt_FAIL_ROW : Fld := ⟨0x04C, 8, 8, .ro, 16, 255, .any, 0, 1⟩
/-- FAIL_INDEX at 0x04C, bits 31:16, class RO, R348. -/
def plt_FAIL_INDEX : Fld := ⟨0x04C, 16, 16, .ro, 16, 0, .any, 0, 1⟩
/-- ACTIVE_PATTERN at 0x050, bits 1:0, class RO, R348. -/
def plt_ACTIVE_PATTERN : Fld := ⟨0x050, 0, 2, .ro, 16, 0, .any, 0, 1⟩
/-- RUNNING at 0x050, bits 2:2, class RO, R348. -/
def plt_RUNNING : Fld := ⟨0x050, 2, 1, .ro, 16, 0, .any, 0, 1⟩
/-- COMMITTED at 0x050, bits 7:4, class RO, R348. -/
def plt_COMMITTED : Fld := ⟨0x050, 4, 4, .ro, 16, 0, .any, 0, 1⟩
/-- ROW at 0x054, bits 7:0, class RO, R348. -/
def plt_ROW : Fld := ⟨0x054, 0, 8, .ro, 16, 0, .any, 0, 1⟩
/-- FRAME at 0x058, bits 63:0, class RO, R348. -/
def plt_FRAME : Fld := ⟨0x058, 0, 64, .ro, 16, 0, .any, 0, 1⟩
/-- LOAD at 0x060, bits 9:0, class RO, R348. -/
def plt_LOAD : Fld := ⟨0x060, 0, 10, .ro, 16, 0, .any, 0, 1⟩
/-- LEND_LEAD at 0x064, bits 15:0, class RO, R348. -/
def plt_LEND_LEAD : Fld := ⟨0x064, 0, 16, .ro, 16, 0, .any, 0, 1⟩
/-- HEADROOM at 0x068, bits 31:0, class RO, R348. -/
def plt_HEADROOM : Fld := ⟨0x068, 0, 32, .ro, 16, 0, .any, 0, 1⟩
/-- HEADROOM_LATE at 0x06C, bits 31:0, class RO, R348. -/
def plt_HEADROOM_LATE : Fld := ⟨0x06C, 0, 32, .ro, 16, 0, .any, 0, 1⟩
/-- STAKE_RT at 0x070, bits 16:0, class H B, R348. -/
def plt_STAKE_RT : Fld := ⟨0x070, 0, 17, .h, 1, 0, .any, 0, 1⟩
/-- MGR_STAKE_FLOOR at 0x074, bits 16:0, class H B, R348. -/
def plt_MGR_STAKE_FLOOR : Fld := ⟨0x074, 0, 17, .h, 1, 0, .any, 0, 1⟩
/-- STAKES_FREE at 0x078, bits 16:0, class RO, R348. -/
def plt_STAKES_FREE : Fld := ⟨0x078, 0, 17, .ro, 16, 65536, .any, 0, 1⟩
/-- STAKE_FLOOR_HELD at 0x07C, bits 16:0, class RO, R348. -/
def plt_STAKE_FLOOR_HELD : Fld := ⟨0x07C, 0, 17, .ro, 16, 0, .any, 0, 1⟩
/-- SLOTS_DONE at 0x080, bits 63:0, class RO, R348. -/
def plt_SLOTS_DONE : Fld := ⟨0x080, 0, 64, .ro, 16, 0, .any, 0, 1⟩
/-- SLOTS_DROPPED at 0x088, bits 31:0, class RO, R348. -/
def plt_SLOTS_DROPPED : Fld := ⟨0x088, 0, 32, .ro, 16, 0, .any, 0, 1⟩
/-- GRANT_OVERRUNS at 0x08C, bits 31:0, class RO, R348. -/
def plt_GRANT_OVERRUNS : Fld := ⟨0x08C, 0, 32, .ro, 16, 0, .any, 0, 1⟩
/-- LENDS at 0x090, bits 63:0, class RO, R348. -/
def plt_LENDS : Fld := ⟨0x090, 0, 64, .ro, 16, 0, .any, 0, 1⟩
/-- STAKE_QUERY at 0x098, bits 15:0, class D, R348. -/
def plt_STAKE_QUERY : Fld := ⟨0x098, 0, 16, .d, 16, 0, .any, 0, 1⟩
/-- STAKE_STATE at 0x09C, bits 1:0, class RO, R348. -/
def plt_STAKE_STATE : Fld := ⟨0x09C, 0, 2, .ro, 16, 0, .any, 0, 1⟩
/-- STAKE_PTN at 0x09C, bits 13:8, class RO, R348. -/
def plt_STAKE_PTN : Fld := ⟨0x09C, 8, 6, .ro, 16, 0, .any, 0, 1⟩
/-- STAKE_KIND at 0x09C, bits 18:16, class RO, R348. -/
def plt_STAKE_KIND : Fld := ⟨0x09C, 16, 3, .ro, 16, 0, .any, 0, 1⟩
/-- X_HEADROOM_MARGIN at 0x100, bits 19:0, class H C, R348. -/
def plt_X_HEADROOM_MARGIN : Fld := ⟨0x100, 0, 20, .h, 2, 2000, .any, 0, 1⟩

/-! ### TEN page (R382) -/

/-- PROFILE at 0x040, bits 1:0, class H A, R382. -/
def ten_PROFILE : Fld := ⟨0x040, 0, 2, .h, 0, 0, .any, 0, 1⟩
/-- STATE at 0x044, bits 2:0, class RO, R382. -/
def ten_STATE : Fld := ⟨0x044, 0, 3, .ro, 16, 0, .any, 0, 1⟩
/-- PC at 0x044, bits 26:16, class RO, R382. -/
def ten_PC : Fld := ⟨0x044, 16, 11, .ro, 16, 0, .any, 0, 1⟩
/-- CUR_PTN at 0x048, bits 5:0, class RO, R382. -/
def ten_CUR_PTN : Fld := ⟨0x048, 0, 6, .ro, 16, 0, .any, 0, 1⟩
/-- CUR_CELL at 0x048, bits 25:16, class RO, R382. -/
def ten_CUR_CELL : Fld := ⟨0x048, 16, 10, .ro, 16, 0, .any, 0, 1⟩
/-- CUR_STAKE at 0x04C, bits 15:0, class RO, R382. -/
def ten_CUR_STAKE : Fld := ⟨0x04C, 0, 16, .ro, 16, 0, .any, 0, 1⟩
/-- ISSUE_CYC at 0x050, bits 63:0, class RO, R382. -/
def ten_ISSUE_CYC : Fld := ⟨0x050, 0, 64, .ro, 16, 0, .any, 0, 1⟩
/-- BANK_STALLS at 0x058, bits 31:0, class RO, R382. -/
def ten_BANK_STALLS : Fld := ⟨0x058, 0, 32, .ro, 16, 0, .any, 0, 1⟩
/-- WAIT_CYC at 0x05C, bits 31:0, class RO, R382. -/
def ten_WAIT_CYC : Fld := ⟨0x05C, 0, 32, .ro, 16, 0, .any, 0, 1⟩
/-- ITEMS_DONE at 0x060, bits 31:0, class RO, R382. -/
def ten_ITEMS_DONE : Fld := ⟨0x060, 0, 32, .ro, 16, 0, .any, 0, 1⟩
/-- ITEMS_FAILED at 0x064, bits 31:0, class RO, R382. -/
def ten_ITEMS_FAILED : Fld := ⟨0x064, 0, 32, .ro, 16, 0, .any, 0, 1⟩
/-- SAT_COUNT at 0x068, bits 31:0, class RO, R382. -/
def ten_SAT_COUNT : Fld := ⟨0x068, 0, 32, .ro, 16, 0, .any, 0, 1⟩
/-- IRQS at 0x06C, bits 31:0, class RO, R382. -/
def ten_IRQS : Fld := ⟨0x06C, 0, 32, .ro, 16, 0, .any, 0, 1⟩
/-- IRQ_MAXLAT at 0x070, bits 15:0, class RO, R382. -/
def ten_IRQ_MAXLAT : Fld := ⟨0x070, 0, 16, .ro, 16, 0, .any, 0, 1⟩
/-- CE_COUNT at 0x074, bits 31:0, class RO, R382. -/
def ten_CE_COUNT : Fld := ⟨0x074, 0, 32, .ro, 16, 0, .any, 0, 1⟩
/-- UE_COUNT at 0x078, bits 31:0, class RO, R382. -/
def ten_UE_COUNT : Fld := ⟨0x078, 0, 32, .ro, 16, 0, .any, 0, 1⟩
/-- X_WARN at 0x100, bits 16:0, class H B, R382. -/
def ten_X_WARN : Fld := ⟨0x100, 0, 17, .h, 1, 2000, .any, 0, 1⟩
/-- X_STAGE_MAX at 0x104, bits 6:0, class H B, R382. -/
def ten_X_STAGE_MAX : Fld := ⟨0x104, 0, 7, .h, 1, 32, .any, 0, 1⟩

/-! ### CDP page (R425) -/

/-- HARQ_FMT at 0x040, bits 0:0, class H A, R425. -/
def cdp_HARQ_FMT : Fld := ⟨0x040, 0, 1, .h, 0, 1, .any, 0, 1⟩
/-- FB_HITS at 0x048, bits 63:0, class RO, R425. -/
def cdp_FB_HITS : Fld := ⟨0x048, 0, 64, .ro, 16, 0, .any, 0, 1⟩
/-- FB_MISSES at 0x050, bits 63:0, class RO, R425. -/
def cdp_FB_MISSES : Fld := ⟨0x050, 0, 64, .ro, 16, 0, .any, 0, 1⟩
/-- FB_ZERO_PENDING at 0x058, bits 18:0, class RO, R425. -/
def cdp_FB_ZERO_PENDING : Fld := ⟨0x058, 0, 19, .ro, 16, 0, .any, 0, 1⟩
/-- HARQ_ZERO_PENDING at 0x05C, bits 18:0, class RO, R425. -/
def cdp_HARQ_ZERO_PENDING : Fld := ⟨0x05C, 0, 19, .ro, 16, 0, .any, 0, 1⟩
/-- HARQ_BUSY_N at 0x060, bits 31:0, class RO, R425. -/
def cdp_HARQ_BUSY_N : Fld := ⟨0x060, 0, 32, .ro, 16, 0, .any, 0, 1⟩
/-- CE_COUNT at 0x064, bits 31:0, class RO, R425. -/
def cdp_CE_COUNT : Fld := ⟨0x064, 0, 32, .ro, 16, 0, .any, 0, 1⟩
/-- UE_COUNT at 0x068, bits 31:0, class RO, R425. -/
def cdp_UE_COUNT : Fld := ⟨0x068, 0, 32, .ro, 16, 0, .any, 0, 1⟩

/-! ### coding-pool unit page (R426) -/

/-- STATE at 0x040, bits 2:0, class RO, R426. -/
def cdu_STATE : Fld := ⟨0x040, 0, 3, .ro, 16, 0, .any, 0, 1⟩
/-- CUR_PTN at 0x044, bits 5:0, class RO, R426. -/
def cdu_CUR_PTN : Fld := ⟨0x044, 0, 6, .ro, 16, 0, .any, 0, 1⟩
/-- CUR_CELL at 0x044, bits 25:16, class RO, R426. -/
def cdu_CUR_CELL : Fld := ⟨0x044, 16, 10, .ro, 16, 0, .any, 0, 1⟩
/-- CUR_STAKE at 0x048, bits 15:0, class RO, R426. -/
def cdu_CUR_STAKE : Fld := ⟨0x048, 0, 16, .ro, 16, 0, .any, 0, 1⟩
/-- BUSY_CYC at 0x050, bits 63:0, class RO, R426. -/
def cdu_BUSY_CYC : Fld := ⟨0x050, 0, 64, .ro, 16, 0, .any, 0, 1⟩
/-- JOBS at 0x058, bits 63:0, class RO, R426. -/
def cdu_JOBS : Fld := ⟨0x058, 0, 64, .ro, 16, 0, .any, 0, 1⟩
/-- ITERS at 0x060, bits 63:0, class RO, R426. -/
def cdu_ITERS : Fld := ⟨0x060, 0, 64, .ro, 16, 0, .any, 0, 1⟩
/-- CRC_FAILS at 0x068, bits 31:0, class RO, R426. -/
def cdu_CRC_FAILS : Fld := ⟨0x068, 0, 32, .ro, 16, 0, .any, 0, 1⟩
/-- ITEMS_DONE at 0x06C, bits 31:0, class RO, R426. -/
def cdu_ITEMS_DONE : Fld := ⟨0x06C, 0, 32, .ro, 16, 0, .any, 0, 1⟩
/-- ITEMS_FAILED at 0x070, bits 31:0, class RO, R426. -/
def cdu_ITEMS_FAILED : Fld := ⟨0x070, 0, 32, .ro, 16, 0, .any, 0, 1⟩
/-- CE_COUNT at 0x074, bits 31:0, class RO, R426. -/
def cdu_CE_COUNT : Fld := ⟨0x074, 0, 32, .ro, 16, 0, .any, 0, 1⟩
/-- UE_COUNT at 0x078, bits 31:0, class RO, R426. -/
def cdu_UE_COUNT : Fld := ⟨0x078, 0, 32, .ro, 16, 0, .any, 0, 1⟩

/-! ### fronthaul port page (R455) -/

/-- WIDTH at 0x040, bits 1:0, class S, R455. -/
def fhp_WIDTH : Fld := ⟨0x040, 0, 2, .s, 16, 0, .any, 0, 1⟩
/-- LEARN_ALL at 0x040, bits 8:8, class D, R455. -/
def fhp_LEARN_ALL : Fld := ⟨0x040, 8, 1, .d, 16, 0, .any, 0, 1⟩
/-- MAC_ADDR at 0x048, bits 47:0, class S, R455. -/
def fhp_MAC_ADDR : Fld := ⟨0x048, 0, 48, .s, 16, 0, .any, 0, 1⟩
/-- MAX_FRAME at 0x050, bits 13:0, class H A, R455. -/
def fhp_MAX_FRAME : Fld := ⟨0x050, 0, 14, .h, 0, 1518, .any, 0, 1⟩
/-- EXC_Q at 0x054, bits 13:0, class S, R455. -/
def fhp_EXC_Q : Fld := ⟨0x054, 0, 14, .s, 16, 0, .any, 0, 1⟩
/-- PTP_Q at 0x058, bits 13:0, class S, R455. -/
def fhp_PTP_Q : Fld := ⟨0x058, 0, 14, .s, 16, 0, .any, 0, 1⟩
/-- DISC_Q at 0x05C, bits 13:0, class S, R455. -/
def fhp_DISC_Q : Fld := ⟨0x05C, 0, 14, .s, 16, 0, .any, 0, 1⟩
/-- RU_TIMEOUT at 0x060, bits 15:0, class D, R455. -/
def fhp_RU_TIMEOUT : Fld := ⟨0x060, 0, 16, .d, 16, 1000, .any, 0, 1⟩
/-- WIN_NS at 0x064, bits 23:0, class H A, R455. -/
def fhp_WIN_NS : Fld := ⟨0x064, 0, 24, .h, 0, 0, .any, 0, 1⟩
/-- LINK_UP at 0x068, bits 0:0, class RO, R455. -/
def fhp_LINK_UP : Fld := ⟨0x068, 0, 1, .ro, 16, 0, .any, 0, 1⟩
/-- AVAILABLE at 0x068, bits 1:1, class RO, R455. -/
def fhp_AVAILABLE : Fld := ⟨0x068, 1, 1, .ro, 16, 0, .any, 0, 1⟩
/-- RU_COUNT at 0x068, bits 15:8, class RO, R455. -/
def fhp_RU_COUNT : Fld := ⟨0x068, 8, 8, .ro, 16, 0, .any, 0, 1⟩
/-- RX_FRAMES at 0x070, bits 63:0, class RO, R455. -/
def fhp_RX_FRAMES : Fld := ⟨0x070, 0, 64, .ro, 16, 0, .any, 0, 1⟩
/-- TX_FRAMES at 0x078, bits 63:0, class RO, R455. -/
def fhp_TX_FRAMES : Fld := ⟨0x078, 0, 64, .ro, 16, 0, .any, 0, 1⟩
/-- FEC_CORR at 0x080, bits 63:0, class RO, R455. -/
def fhp_FEC_CORR : Fld := ⟨0x080, 0, 64, .ro, 16, 0, .any, 0, 1⟩
/-- FEC_UNCORR at 0x088, bits 31:0, class RO, R455. -/
def fhp_FEC_UNCORR : Fld := ⟨0x088, 0, 32, .ro, 16, 0, .any, 0, 1⟩
/-- RX_FCS_ERR at 0x08C, bits 31:0, class RO, R455. -/
def fhp_RX_FCS_ERR : Fld := ⟨0x08C, 0, 32, .ro, 16, 0, .any, 0, 1⟩
/-- RX_DROPS at 0x090, bits 31:0, class RO, R455. -/
def fhp_RX_DROPS : Fld := ⟨0x090, 0, 32, .ro, 16, 0, .any, 0, 1⟩
/-- RX_BAD_ECPRI at 0x094, bits 31:0, class RO, R455. -/
def fhp_RX_BAD_ECPRI : Fld := ⟨0x094, 0, 32, .ro, 16, 0, .any, 0, 1⟩
/-- RX_SEQ_GAPS at 0x098, bits 31:0, class RO, R455. -/
def fhp_RX_SEQ_GAPS : Fld := ⟨0x098, 0, 32, .ro, 16, 0, .any, 0, 1⟩
/-- RX_NO_CELLS at 0x09C, bits 31:0, class RO, R455. -/
def fhp_RX_NO_CELLS : Fld := ⟨0x09C, 0, 32, .ro, 16, 0, .any, 0, 1⟩
/-- RX_DENIED at 0x0A0, bits 31:0, class RO, R455. -/
def fhp_RX_DENIED : Fld := ⟨0x0A0, 0, 32, .ro, 16, 0, .any, 0, 1⟩
/-- DISC_FULL at 0x0A4, bits 31:0, class RO, R455. -/
def fhp_DISC_FULL : Fld := ⟨0x0A4, 0, 32, .ro, 16, 0, .any, 0, 1⟩
/-- X_TX_LAT at 0x100, bits 31:0, class H B, R455. -/
def fhp_X_TX_LAT : Fld := ⟨0x100, 0, 32, .h, 1, 22016, .any, 0, 1⟩
/-- X_RX_LAT at 0x104, bits 31:0, class H B, R455. -/
def fhp_X_RX_LAT : Fld := ⟨0x104, 0, 32, .h, 1, 28672, .any, 0, 1⟩

/-! ### transmit queue page (R457) -/

/-- PORT at 0x040, bits 4:0, class S, R457. -/
def fhq_PORT : Fld := ⟨0x040, 0, 5, .s, 16, 0, .mgr, 0, 1⟩
/-- CLASS at 0x040, bits 9:8, class S, R457. -/
def fhq_CLASS : Fld := ⟨0x040, 8, 2, .s, 16, 3, .mgr, 0, 1⟩
/-- WINDOWED at 0x040, bits 12:12, class S, R457. -/
def fhq_WINDOWED : Fld := ⟨0x040, 12, 1, .s, 16, 0, .mgr, 0, 1⟩
/-- SRC_Q at 0x044, bits 13:0, class S, R457. -/
def fhq_SRC_Q : Fld := ⟨0x044, 0, 14, .s, 16, 0, .any, 0, 1⟩
/-- RU_MAC at 0x048, bits 47:0, class H C, R457. -/
def fhq_RU_MAC : Fld := ⟨0x048, 0, 48, .h, 2, 0, .mgr, 0, 1⟩
/-- VLAN_ID at 0x050, bits 11:0, class H C, R457. -/
def fhq_VLAN_ID : Fld := ⟨0x050, 0, 12, .h, 2, 0, .mgr, 0, 1⟩
/-- PCP at 0x050, bits 14:12, class H C, R457. -/
def fhq_PCP : Fld := ⟨0x050, 12, 3, .h, 2, 0, .mgr, 0, 1⟩
/-- TAGGED at 0x050, bits 15:15, class H C, R457. -/
def fhq_TAGGED : Fld := ⟨0x050, 15, 1, .h, 2, 0, .mgr, 0, 1⟩
/-- RATE_CAP at 0x054, bits 31:0, class H C, R457. -/
def fhq_RATE_CAP : Fld := ⟨0x054, 0, 32, .h, 2, 0, .mgr, 0, 1⟩
/-- RATE at 0x058, bits 31:0, class H B, R457. -/
def fhq_RATE : Fld := ⟨0x058, 0, 32, .h, 1, 0, .any, 0, 1⟩
/-- BURST at 0x05C, bits 23:0, class H B, R457. -/
def fhq_BURST : Fld := ⟨0x05C, 0, 24, .h, 1, 9600, .any, 0, 1⟩
/-- WEIGHT at 0x060, bits 7:0, class H D, R457. -/
def fhq_WEIGHT : Fld := ⟨0x060, 0, 8, .h, 3, 1, .any, 0, 1⟩
/-- LATE_NS at 0x064, bits 31:0, class H D, R457. -/
def fhq_LATE_NS : Fld := ⟨0x064, 0, 32, .h, 3, 10000, .any, 0, 1⟩
/-- COMP_METH at 0x068, bits 3:0, class H E, R457. -/
def fhq_COMP_METH : Fld := ⟨0x068, 0, 4, .h, 4, 1, .any, 0, 1⟩
/-- IQ_WIDTH at 0x068, bits 7:4, class H E, R457. -/
def fhq_IQ_WIDTH : Fld := ⟨0x068, 4, 4, .h, 4, 9, .any, 0, 1⟩
/-- STATIC_HDR at 0x068, bits 8:8, class H E, R457. -/
def fhq_STATIC_HDR : Fld := ⟨0x068, 8, 1, .h, 4, 0, .any, 0, 1⟩
/-- MC_SCALE at 0x068, bits 31:16, class H E, R457. -/
def fhq_MC_SCALE : Fld := ⟨0x068, 16, 16, .h, 4, 1, .any, 0, 1⟩
/-- TX_FRAMES at 0x070, bits 63:0, class RO, R457. -/
def fhq_TX_FRAMES : Fld := ⟨0x070, 0, 64, .ro, 16, 0, .any, 0, 1⟩
/-- TX_BYTES at 0x078, bits 63:0, class RO, R457. -/
def fhq_TX_BYTES : Fld := ⟨0x078, 0, 64, .ro, 16, 0, .any, 0, 1⟩
/-- LATE_DROPS at 0x080, bits 31:0, class RO, R457. -/
def fhq_LATE_DROPS : Fld := ⟨0x080, 0, 32, .ro, 16, 0, .any, 0, 1⟩
/-- BAD_PARCELS at 0x084, bits 31:0, class RO, R457. -/
def fhq_BAD_PARCELS : Fld := ⟨0x084, 0, 32, .ro, 16, 0, .any, 0, 1⟩
/-- BFP_SAT at 0x088, bits 31:0, class RO, R457. -/
def fhq_BFP_SAT : Fld := ⟨0x088, 0, 32, .ro, 16, 0, .any, 0, 1⟩
/-- DELAY_MAX at 0x08C, bits 31:0, class D, R457. -/
def fhq_DELAY_MAX : Fld := ⟨0x08C, 0, 32, .d, 16, 0, .any, 0, 1⟩
/-- TOKENS at 0x090, bits 31:0, class RO, R457. -/
def fhq_TOKENS : Fld := ⟨0x090, 0, 32, .ro, 16, 0, .any, 0, 1⟩
/-- START_TAG at 0x098, bits 63:0, class RO, R457. -/
def fhq_START_TAG : Fld := ⟨0x098, 0, 64, .ro, 16, 0, .any, 0, 1⟩
/-- DELAY at 0x200 + 8k, bits 31:0, class RO, R457. -/
def fhq_DELAY : Fld := ⟨0x200, 0, 32, .ro, 16, 0, .any, 8, 32⟩
/-- DEPTH at 0x200 + 8k, bits 57:32, class RO, R457. -/
def fhq_DEPTH : Fld := ⟨0x200, 32, 26, .ro, 16, 0, .any, 8, 32⟩

/-! ### traverse channel page (R503) -/

/-- JOB at 0x040, bits 5:0, class S, R503. -/
def trc_JOB : Fld := ⟨0x040, 0, 6, .s, 16, 0, .any, 0, 1⟩
/-- SUBMIT_Q at 0x044, bits 13:0, class S, R503. -/
def trc_SUBMIT_Q : Fld := ⟨0x044, 0, 14, .s, 16, 0, .any, 0, 1⟩
/-- CPL_Q at 0x048, bits 13:0, class S, R503. -/
def trc_CPL_Q : Fld := ⟨0x048, 0, 14, .s, 16, 0, .any, 0, 1⟩
/-- RETRIES at 0x04C, bits 3:0, class H A, R503. -/
def trc_RETRIES : Fld := ⟨0x04C, 0, 4, .h, 0, 3, .any, 0, 1⟩
/-- RETRY_US at 0x050, bits 31:0, class H A, R503. -/
def trc_RETRY_US : Fld := ⟨0x050, 0, 32, .h, 0, 20, .any, 0, 1⟩
/-- BUSY_LIMIT_US at 0x054, bits 31:0, class H A, R503. -/
def trc_BUSY_LIMIT_US : Fld := ⟨0x054, 0, 32, .h, 0, 10000, .any, 0, 1⟩
/-- OUTSTANDING at 0x058, bits 15:0, class RO, R503. -/
def trc_OUTSTANDING : Fld := ⟨0x058, 0, 16, .ro, 16, 0, .any, 0, 1⟩
/-- OPS_DONE at 0x060, bits 63:0, class RO, R503. -/
def trc_OPS_DONE : Fld := ⟨0x060, 0, 64, .ro, 16, 0, .any, 0, 1⟩
/-- OPS_FAILED at 0x068, bits 31:0, class RO, R503. -/
def trc_OPS_FAILED : Fld := ⟨0x068, 0, 32, .ro, 16, 0, .any, 0, 1⟩
/-- RESENDS at 0x06C, bits 31:0, class RO, R503. -/
def trc_RESENDS : Fld := ⟨0x06C, 0, 32, .ro, 16, 0, .any, 0, 1⟩
/-- BYTES_PUT at 0x070, bits 63:0, class RO, R503. -/
def trc_BYTES_PUT : Fld := ⟨0x070, 0, 64, .ro, 16, 0, .any, 0, 1⟩
/-- BYTES_GOT at 0x078, bits 63:0, class RO, R503. -/
def trc_BYTES_GOT : Fld := ⟨0x078, 0, 64, .ro, 16, 0, .any, 0, 1⟩

/-! ### traverse job page (R504) -/

/-- JOB_ID at 0x040, bits 15:0, class RO, R504. -/
def trj_JOB_ID : Fld := ⟨0x040, 0, 16, .ro, 16, 0, .any, 0, 1⟩
/-- STATE at 0x040, bits 17:16, class RO, R504. -/
def trj_STATE : Fld := ⟨0x040, 16, 2, .ro, 16, 0, .any, 0, 1⟩
/-- EXPOSE_BASE at 0x048, bits 63:0, class H A, R504. -/
def trj_EXPOSE_BASE : Fld := ⟨0x048, 0, 64, .h, 0, 0, .any, 0, 1⟩
/-- EXPOSE_TILES at 0x050, bits 31:0, class H A, R504. -/
def trj_EXPOSE_TILES : Fld := ⟨0x050, 0, 32, .h, 0, 0, .any, 0, 1⟩
/-- EXPOSE_RO at 0x054, bits 0:0, class H A, R504. -/
def trj_EXPOSE_RO : Fld := ⟨0x054, 0, 1, .h, 0, 0, .any, 0, 1⟩
/-- WATCH_Q at 0x058, bits 13:0, class S, R504. -/
def trj_WATCH_Q : Fld := ⟨0x058, 0, 14, .s, 16, 0, .any, 0, 1⟩
/-- INBOUND_OPS at 0x060, bits 63:0, class RO, R504. -/
def trj_INBOUND_OPS : Fld := ⟨0x060, 0, 64, .ro, 16, 0, .any, 0, 1⟩
/-- INBOUND_REFUSED at 0x068, bits 31:0, class RO, R504. -/
def trj_INBOUND_REFUSED : Fld := ⟨0x068, 0, 32, .ro, 16, 0, .any, 0, 1⟩
/-- COUNTER at 0x100 + 16k, bits 63:0, class D, R504. -/
def trj_COUNTER : Fld := ⟨0x100, 0, 64, .d, 16, 0, .any, 16, 64⟩
/-- WATCH at 0x108 + 16k, bits 63:0, class D, R504. -/
def trj_WATCH : Fld := ⟨0x108, 0, 64, .d, 16, 0, .any, 16, 64⟩

/-! ### traverse global page (R505) -/

/-- LOCAL_PEER at 0x040, bits 13:0, class RO, R505. -/
def trg_LOCAL_PEER : Fld := ⟨0x040, 0, 14, .ro, 16, 0, .any, 0, 1⟩
/-- LEASE_STATE at 0x040, bits 17:16, class RO, R505. -/
def trg_LEASE_STATE : Fld := ⟨0x040, 16, 2, .ro, 16, 0, .any, 0, 1⟩
/-- LEASE_EPOCH at 0x044, bits 31:0, class RO, R505. -/
def trg_LEASE_EPOCH : Fld := ⟨0x044, 0, 32, .ro, 16, 0, .any, 0, 1⟩
/-- LEASE_EXPIRY at 0x048, bits 63:0, class RO, R505. -/
def trg_LEASE_EXPIRY : Fld := ⟨0x048, 0, 64, .ro, 16, 0, .any, 0, 1⟩
/-- LEASE_PERIOD_MS at 0x050, bits 6:0, class RO, R505. -/
def trg_LEASE_PERIOD_MS : Fld := ⟨0x050, 0, 7, .ro, 16, 0, .any, 0, 1⟩
/-- LEASE_GUARD_US at 0x054, bits 9:0, class H A, R505. -/
def trg_LEASE_GUARD_US : Fld := ⟨0x054, 0, 10, .h, 0, 100, .any, 0, 1⟩
/-- DISC_Q at 0x058, bits 13:0, class S, R505. -/
def trg_DISC_Q : Fld := ⟨0x058, 0, 14, .s, 16, 0, .any, 0, 1⟩
/-- WIT_Q at 0x05C, bits 13:0, class S, R505. -/
def trg_WIT_Q : Fld := ⟨0x05C, 0, 14, .s, 16, 0, .any, 0, 1⟩
/-- WIT_COLLECTOR at 0x060, bits 15:0, class H B, R505. -/
def trg_WIT_COLLECTOR : Fld := ⟨0x060, 0, 16, .h, 1, 65535, .any, 0, 1⟩
/-- WIT_WINDOW_US at 0x064, bits 19:0, class H B, R505. -/
def trg_WIT_WINDOW_US : Fld := ⟨0x064, 0, 20, .h, 1, 1000, .any, 0, 1⟩
/-- REPLAY_HOLD_MS at 0x068, bits 9:0, class H C, R505. -/
def trg_REPLAY_HOLD_MS : Fld := ⟨0x068, 0, 10, .h, 2, 50, .any, 0, 1⟩
/-- TIME_TOL_US at 0x06C, bits 9:0, class H C, R505. -/
def trg_TIME_TOL_US : Fld := ⟨0x06C, 0, 10, .h, 2, 10, .any, 0, 1⟩
/-- REPLAY_SINCE at 0x070, bits 63:0, class RO, R505. -/
def trg_REPLAY_SINCE : Fld := ⟨0x070, 0, 64, .ro, 16, 0, .any, 0, 1⟩
/-- REPLAY_USED at 0x078, bits 18:0, class RO, R505. -/
def trg_REPLAY_USED : Fld := ⟨0x078, 0, 19, .ro, 16, 0, .any, 0, 1⟩
/-- PORT_STATE at 0x07C, bits 31:0, class RO, R505. -/
def trg_PORT_STATE : Fld := ⟨0x07C, 0, 32, .ro, 16, 0, .any, 0, 1⟩
/-- REPLAYED_N at 0x080, bits 31:0, class RO, R505. -/
def trg_REPLAYED_N : Fld := ⟨0x080, 0, 32, .ro, 16, 0, .any, 0, 1⟩
/-- UNKNOWN_N at 0x084, bits 31:0, class RO, R505. -/
def trg_UNKNOWN_N : Fld := ⟨0x084, 0, 32, .ro, 16, 0, .any, 0, 1⟩
/-- HA_STALL_CYC at 0x088, bits 63:0, class RO, R505. -/
def trg_HA_STALL_CYC : Fld := ⟨0x088, 0, 64, .ro, 16, 0, .any, 0, 1⟩
/-- AUTH_DROPS at 0x090, bits 31:0, class RO, R505. -/
def trg_AUTH_DROPS : Fld := ⟨0x090, 0, 32, .ro, 16, 0, .any, 0, 1⟩
/-- LATE_RENEWS at 0x094, bits 31:0, class RO, R505. -/
def trg_LATE_RENEWS : Fld := ⟨0x094, 0, 32, .ro, 16, 0, .any, 0, 1⟩
/-- FENCES at 0x098, bits 31:0, class RO, R505. -/
def trg_FENCES : Fld := ⟨0x098, 0, 32, .ro, 16, 0, .any, 0, 1⟩
/-- WIT_OPENED at 0x09C, bits 31:0, class RO, R505. -/
def trg_WIT_OPENED : Fld := ⟨0x09C, 0, 32, .ro, 16, 0, .any, 0, 1⟩
/-- WIT_UNTRACKED at 0x0A0, bits 31:0, class RO, R505. -/
def trg_WIT_UNTRACKED : Fld := ⟨0x0A0, 0, 32, .ro, 16, 0, .any, 0, 1⟩
/-- BAR_LATE at 0x0A4, bits 31:0, class RO, R505. -/
def trg_BAR_LATE : Fld := ⟨0x0A4, 0, 32, .ro, 16, 0, .any, 0, 1⟩
/-- BAR_JOB at 0x200 + 16k, bits 5:0, class H D, R505. -/
def trg_BAR_JOB : Fld := ⟨0x200, 0, 6, .h, 3, 0, .any, 16, 16⟩
/-- BAR_ROOT at 0x200 + 16k, bits 29:16, class H D, R505. -/
def trg_BAR_ROOT : Fld := ⟨0x200, 16, 14, .h, 3, 0, .any, 16, 16⟩
/-- BAR_MEMBERS at 0x204 + 16k, bits 13:0, class H D, R505. -/
def trg_BAR_MEMBERS : Fld := ⟨0x204, 0, 14, .h, 3, 0, .any, 16, 16⟩
/-- BAR_LEAD_US at 0x208 + 16k, bits 15:0, class H D, R505. -/
def trg_BAR_LEAD_US : Fld := ⟨0x208, 0, 16, .h, 3, 100, .any, 16, 16⟩
/-- BAR_TIMEOUT_MS at 0x20C + 16k, bits 15:0, class H D, R505. -/
def trg_BAR_TIMEOUT_MS : Fld := ⟨0x20C, 0, 16, .h, 3, 1000, .any, 16, 16⟩

/-! ### HIF page (R540) -/

/-- LINK_SPEED at 0x040, bits 3:0, class RO, R540. -/
def hif_LINK_SPEED : Fld := ⟨0x040, 0, 4, .ro, 16, 0, .any, 0, 1⟩
/-- LINK_WIDTH at 0x040, bits 9:4, class RO, R540. -/
def hif_LINK_WIDTH : Fld := ⟨0x040, 4, 6, .ro, 16, 0, .any, 0, 1⟩
/-- FLIT at 0x040, bits 16:16, class RO, R540. -/
def hif_FLIT : Fld := ⟨0x040, 16, 1, .ro, 16, 0, .any, 0, 1⟩
/-- CPL_TIMEOUT_US at 0x044, bits 31:0, class H A, R540. -/
def hif_CPL_TIMEOUT_US : Fld := ⟨0x044, 0, 32, .h, 0, 10000, .any, 0, 1⟩
/-- NUM_VFS at 0x048, bits 6:0, class RO, R540. -/
def hif_NUM_VFS : Fld := ⟨0x048, 0, 7, .ro, 16, 0, .any, 0, 1⟩
/-- PART_CMD at 0x04C, bits 2:0, class D, R540. -/
def hif_PART_CMD : Fld := ⟨0x04C, 0, 3, .d, 16, 0, .any, 0, 1⟩
/-- PART_PTN at 0x04C, bits 13:8, class D, R540. -/
def hif_PART_PTN : Fld := ⟨0x04C, 8, 6, .d, 16, 0, .any, 0, 1⟩
/-- PART_VF at 0x04C, bits 22:16, class D, R540. -/
def hif_PART_VF : Fld := ⟨0x04C, 16, 7, .d, 16, 0, .any, 0, 1⟩
/-- PART_RESULT at 0x050, bits 3:0, class RO, R540. -/
def hif_PART_RESULT : Fld := ⟨0x050, 0, 4, .ro, 16, 0, .any, 0, 1⟩
/-- PART_BUSY at 0x050, bits 4:4, class RO, R540. -/
def hif_PART_BUSY : Fld := ⟨0x050, 4, 1, .ro, 16, 0, .any, 0, 1⟩
/-- SUBMITS at 0x058, bits 63:0, class RO, R540. -/
def hif_SUBMITS : Fld := ⟨0x058, 0, 64, .ro, 16, 0, .any, 0, 1⟩
/-- RERUNS at 0x060, bits 63:0, class RO, R540. -/
def hif_RERUNS : Fld := ⟨0x060, 0, 64, .ro, 16, 0, .any, 0, 1⟩
/-- INPUT_LOST_N at 0x068, bits 31:0, class RO, R540. -/
def hif_INPUT_LOST_N : Fld := ⟨0x068, 0, 32, .ro, 16, 0, .any, 0, 1⟩
/-- CPL_TIMEOUTS at 0x06C, bits 31:0, class RO, R540. -/
def hif_CPL_TIMEOUTS : Fld := ⟨0x06C, 0, 32, .ro, 16, 0, .any, 0, 1⟩
/-- LOG_WAITS at 0x070, bits 31:0, class RO, R540. -/
def hif_LOG_WAITS : Fld := ⟨0x070, 0, 32, .ro, 16, 0, .any, 0, 1⟩

/-! ### HLT page (R560, R571) -/

/-- K_LIVE at 0x200 + 64k, bits 31:0, class RO, R560. -/
def hlt_K_LIVE : Fld := ⟨0x200, 0, 32, .ro, 16, 0, .any, 64, 13⟩
/-- K_MIN at 0x208 + 64k, bits 63:0, class RO, R560. -/
def hlt_K_MIN : Fld := ⟨0x208, 0, 64, .ro, 16, 0, .any, 64, 13⟩
/-- K_HOUR at 0x210 + 64k, bits 63:0, class RO, R560. -/
def hlt_K_HOUR : Fld := ⟨0x210, 0, 64, .ro, 16, 0, .any, 64, 13⟩
/-- K_DAY at 0x218 + 64k, bits 63:0, class RO, R560. -/
def hlt_K_DAY : Fld := ⟨0x218, 0, 64, .ro, 16, 0, .any, 64, 13⟩
/-- K_TOTAL at 0x220 + 64k, bits 63:0, class RO, R560. -/
def hlt_K_TOTAL : Fld := ⟨0x220, 0, 64, .ro, 16, 0, .any, 64, 13⟩
/-- K_INJ at 0x228 + 64k, bits 31:0, class RO, R560. -/
def hlt_K_INJ : Fld := ⟨0x228, 0, 32, .ro, 16, 0, .any, 64, 13⟩
/-- RESET_LEVEL at 0x040, bits 2:0, class D, R571. -/
def hlt_RESET_LEVEL : Fld := ⟨0x040, 0, 3, .d, 16, 0, .any, 0, 1⟩
/-- RESET_TARGET at 0x040, bits 15:8, class D, R571. -/
def hlt_RESET_TARGET : Fld := ⟨0x040, 8, 8, .d, 16, 0, .any, 0, 1⟩
/-- RESET_GO at 0x040, bits 31:31, class D, R571. -/
def hlt_RESET_GO : Fld := ⟨0x040, 31, 1, .d, 16, 0, .any, 0, 1⟩
/-- RESET_RESULT at 0x044, bits 3:0, class RO, R571. -/
def hlt_RESET_RESULT : Fld := ⟨0x044, 0, 4, .ro, 16, 0, .any, 0, 1⟩
/-- RESET_BUSY at 0x044, bits 4:4, class RO, R571. -/
def hlt_RESET_BUSY : Fld := ⟨0x044, 4, 1, .ro, 16, 0, .any, 0, 1⟩
/-- ESCALATED at 0x044, bits 5:5, class RO, R571. -/
def hlt_ESCALATED : Fld := ⟨0x044, 5, 1, .ro, 16, 0, .any, 0, 1⟩
/-- READY at 0x048, bits 0:0, class RO, R571. -/
def hlt_READY : Fld := ⟨0x048, 0, 1, .ro, 16, 0, .any, 0, 1⟩
/-- LINK_LOW at 0x048, bits 1:1, class RO, R571. -/
def hlt_LINK_LOW : Fld := ⟨0x048, 1, 1, .ro, 16, 0, .any, 0, 1⟩
/-- DRAINING at 0x048, bits 2:2, class RO, R571. -/
def hlt_DRAINING : Fld := ⟨0x048, 2, 1, .ro, 16, 0, .any, 0, 1⟩
/-- DRAINED at 0x048, bits 3:3, class RO, R571. -/
def hlt_DRAINED : Fld := ⟨0x048, 3, 1, .ro, 16, 0, .any, 0, 1⟩
/-- EXPELLED at 0x048, bits 4:4, class RO, R571. -/
def hlt_EXPELLED : Fld := ⟨0x048, 4, 1, .ro, 16, 0, .any, 0, 1⟩
/-- LAST_RESET at 0x04C, bits 2:0, class RO, R571. -/
def hlt_LAST_RESET : Fld := ⟨0x04C, 0, 3, .ro, 16, 5, .any, 0, 1⟩
/-- LAST_CAUSE at 0x04C, bits 15:8, class RO, R571. -/
def hlt_LAST_CAUSE : Fld := ⟨0x04C, 8, 8, .ro, 16, 0, .any, 0, 1⟩
/-- TRAIN_MS at 0x050, bits 15:0, class RO, R571. -/
def hlt_TRAIN_MS : Fld := ⟨0x050, 0, 16, .ro, 16, 0, .any, 0, 1⟩
/-- GRADE at 0x054, bits 1:0, class RO, R571. -/
def hlt_GRADE : Fld := ⟨0x054, 0, 2, .ro, 16, 0, .any, 0, 1⟩
/-- CANDIDATE at 0x054, bits 5:4, class RO, R571. -/
def hlt_CANDIDATE : Fld := ⟨0x054, 4, 2, .ro, 16, 0, .any, 0, 1⟩
/-- GRADE_SINCE at 0x058, bits 63:0, class RO, R571. -/
def hlt_GRADE_SINCE : Fld := ⟨0x058, 0, 64, .ro, 16, 0, .any, 0, 1⟩
/-- CAP_VIEW at 0x060, bits 0:0, class D, R571. -/
def hlt_CAP_VIEW : Fld := ⟨0x060, 0, 1, .d, 16, 0, .any, 0, 1⟩
/-- CAP_EPOCH at 0x064, bits 31:0, class RO, R571. -/
def hlt_CAP_EPOCH : Fld := ⟨0x064, 0, 32, .ro, 16, 0, .any, 0, 1⟩
/-- CAP_LATE at 0x068 + 4k, bits 31:0, class RO, R571. -/
def hlt_CAP_LATE : Fld := ⟨0x068, 0, 32, .ro, 16, 0, .any, 4, 4⟩
/-- INJ_REQ at 0x080, bits 0:0, class D, R571. -/
def hlt_INJ_REQ : Fld := ⟨0x080, 0, 1, .d, 16, 0, .any, 0, 1⟩
/-- INJ_GRANTED at 0x080, bits 1:1, class RO, R571. -/
def hlt_INJ_GRANTED : Fld := ⟨0x080, 1, 1, .ro, 16, 0, .any, 0, 1⟩
/-- INJ_LIMIT_S at 0x080, bits 27:16, class D, R571. -/
def hlt_INJ_LIMIT_S : Fld := ⟨0x080, 16, 12, .d, 16, 60, .any, 0, 1⟩
/-- INJ_COUNT at 0x084, bits 31:0, class RO, R571. -/
def hlt_INJ_COUNT : Fld := ⟨0x084, 0, 32, .ro, 16, 0, .any, 0, 1⟩
/-- LAST_FM_SEQ at 0x088, bits 63:0, class RO, R571. -/
def hlt_LAST_FM_SEQ : Fld := ⟨0x088, 0, 64, .ro, 16, 0, .any, 0, 1⟩
/-- FM_RESULT at 0x090, bits 3:0, class RO, R571. -/
def hlt_FM_RESULT : Fld := ⟨0x090, 0, 4, .ro, 16, 0, .any, 0, 1⟩
/-- FM_OP at 0x090, bits 7:4, class RO, R571. -/
def hlt_FM_OP : Fld := ⟨0x090, 4, 4, .ro, 16, 0, .any, 0, 1⟩
/-- SIG_REJECTS at 0x094, bits 31:0, class RO, R571. -/
def hlt_SIG_REJECTS : Fld := ⟨0x094, 0, 32, .ro, 16, 0, .any, 0, 1⟩
/-- PROFILE at 0x100, bits 1:0, class H A, R571. -/
def hlt_PROFILE : Fld := ⟨0x100, 0, 2, .h, 0, 0, .any, 0, 1⟩
/-- X_COND_DAY at 0x104, bits 7:0, class H B, R571. -/
def hlt_X_COND_DAY : Fld := ⟨0x104, 0, 8, .h, 1, 4, .any, 0, 1⟩
/-- X_UE_HOUR at 0x108, bits 15:0, class H B, R571. -/
def hlt_X_UE_HOUR : Fld := ⟨0x108, 0, 16, .h, 1, 10, .any, 0, 1⟩
/-- X_LINK_HOUR at 0x10C, bits 15:0, class H B, R571. -/
def hlt_X_LINK_HOUR : Fld := ⟨0x10C, 0, 16, .h, 1, 6, .any, 0, 1⟩
/-- X_CE_HOUR at 0x110, bits 31:0, class H B, R571. -/
def hlt_X_CE_HOUR : Fld := ⟨0x110, 0, 32, .h, 1, 10000, .any, 0, 1⟩
/-- X_THROTTLE_HOUR at 0x114, bits 15:0, class H B, R571. -/
def hlt_X_THROTTLE_HOUR : Fld := ⟨0x114, 0, 16, .h, 1, 60, .any, 0, 1⟩

/-! ### MON page (R597) -/

/-- BOOT_STATE at 0x040, bits 2:0, class RO, R597. -/
def mon_BOOT_STATE : Fld := ⟨0x040, 0, 3, .ro, 16, 0, .any, 0, 1⟩
/-- BOOT_SLOT at 0x040, bits 8:8, class RO, R597. -/
def mon_BOOT_SLOT : Fld := ⟨0x040, 8, 1, .ro, 16, 0, .any, 0, 1⟩
/-- FALLBACK at 0x040, bits 9:9, class RO, R597. -/
def mon_FALLBACK : Fld := ⟨0x040, 9, 1, .ro, 16, 0, .any, 0, 1⟩
/-- SVN_IMAGE at 0x044, bits 15:0, class RO, R597. -/
def mon_SVN_IMAGE : Fld := ⟨0x044, 0, 16, .ro, 16, 0, .any, 0, 1⟩
/-- SVN_FUSED at 0x044, bits 31:16, class RO, R597. -/
def mon_SVN_FUSED : Fld := ⟨0x044, 16, 16, .ro, 16, 0, .any, 0, 1⟩
/-- BOOT_COUNT at 0x048, bits 15:0, class RO, R597. -/
def mon_BOOT_COUNT : Fld := ⟨0x048, 0, 16, .ro, 16, 0, .any, 0, 1⟩
/-- DEVICE_ID at 0x050 + 4k, bits 31:0, class RO, R597. -/
def mon_DEVICE_ID : Fld := ⟨0x050, 0, 32, .ro, 16, 0, .any, 4, 4⟩
/-- DEBUG_STATE at 0x064, bits 1:0, class RO, R597. -/
def mon_DEBUG_STATE : Fld := ⟨0x064, 0, 2, .ro, 16, 0, .any, 0, 1⟩
/-- DEBUG_COUNT at 0x064, bits 13:8, class RO, R597. -/
def mon_DEBUG_COUNT : Fld := ⟨0x064, 8, 6, .ro, 16, 0, .any, 0, 1⟩
/-- INJ_POLICY at 0x068, bits 1:0, class RO, R597. -/
def mon_INJ_POLICY : Fld := ⟨0x068, 0, 2, .ro, 16, 0, .any, 0, 1⟩
/-- ANCHORS at 0x06C, bits 2:0, class RO, R597. -/
def mon_ANCHORS : Fld := ⟨0x06C, 0, 3, .ro, 16, 0, .any, 0, 1⟩
/-- DBG_REJECTS at 0x070, bits 31:0, class RO, R597. -/
def mon_DBG_REJECTS : Fld := ⟨0x070, 0, 32, .ro, 16, 0, .any, 0, 1⟩
/-- DBG_CHALLENGE at 0x0A0 + 4k, bits 31:0, class RO, R597. -/
def mon_DBG_CHALLENGE : Fld := ⟨0x0A0, 0, 32, .ro, 16, 0, .any, 4, 8⟩
/-- NONCE at 0x0C0 + 4k, bits 31:0, class D, R597. -/
def mon_NONCE : Fld := ⟨0x0C0, 0, 32, .d, 16, 0, .any, 4, 8⟩
/-- ATTEST_Q at 0x0E0, bits 13:0, class D, R597. -/
def mon_ATTEST_Q : Fld := ⟨0x0E0, 0, 14, .d, 16, 0, .any, 0, 1⟩
/-- ATTEST_GO at 0x0E4, bits 0:0, class D, R597. -/
def mon_ATTEST_GO : Fld := ⟨0x0E4, 0, 1, .d, 16, 0, .any, 0, 1⟩
/-- ATTEST_BUSY at 0x0E4, bits 1:1, class RO, R597. -/
def mon_ATTEST_BUSY : Fld := ⟨0x0E4, 1, 1, .ro, 16, 0, .any, 0, 1⟩
/-- ATTEST_RESULT at 0x0E4, bits 7:4, class RO, R597. -/
def mon_ATTEST_RESULT : Fld := ⟨0x0E4, 4, 4, .ro, 16, 0, .any, 0, 1⟩
/-- M at 0x100 + 4k, bits 31:0, class RO, R597. -/
def mon_M : Fld := ⟨0x100, 0, 32, .ro, 16, 0, .any, 4, 64⟩

/-! ### power window (R613) -/

/-- PL_SET at 0x000, bits 15:0, class D, R613. -/
def pwr_PL_SET : Fld := ⟨0x000, 0, 16, .d, 16, 0, .any, 0, 1⟩
/-- LEVEL at 0x004, bits 3:0, class RO, R613. -/
def pwr_LEVEL : Fld := ⟨0x004, 0, 4, .ro, 16, 0, .any, 0, 1⟩
/-- CORE_MHZ at 0x004, bits 27:16, class RO, R613. -/
def pwr_CORE_MHZ : Fld := ⟨0x004, 16, 12, .ro, 16, 0, .any, 0, 1⟩
/-- P_ROW at 0x008, bits 15:0, class RO, R613. -/
def pwr_P_ROW : Fld := ⟨0x008, 0, 16, .ro, 16, 0, .any, 0, 1⟩
/-- P_AVG at 0x008, bits 31:16, class RO, R613. -/
def pwr_P_AVG : Fld := ⟨0x008, 16, 16, .ro, 16, 0, .any, 0, 1⟩
/-- HEADROOM_PUB at 0x00C, bits 31:0, class RO, R613. -/
def pwr_HEADROOM_PUB : Fld := ⟨0x00C, 0, 32, .ro, 16, 0, .any, 0, 1⟩
/-- TJ_SEC at 0x010, bits 31:0, class RO, R613. -/
def pwr_TJ_SEC : Fld := ⟨0x010, 0, 32, .ro, 16, 0, .any, 0, 1⟩
/-- TJ_HUB at 0x014, bits 7:0, class RO, R613. -/
def pwr_TJ_HUB : Fld := ⟨0x014, 0, 8, .ro, 16, 0, .any, 0, 1⟩
/-- TJ_HBM at 0x018, bits 63:0, class RO, R613. -/
def pwr_TJ_HBM : Fld := ⟨0x018, 0, 64, .ro, 16, 0, .any, 0, 1⟩
/-- BRAKE at 0x020, bits 0:0, class RO, R613. -/
def pwr_BRAKE : Fld := ⟨0x020, 0, 1, .ro, 16, 0, .any, 0, 1⟩
/-- CRIT at 0x020, bits 1:1, class RO, R613. -/
def pwr_CRIT : Fld := ⟨0x020, 1, 1, .ro, 16, 0, .any, 0, 1⟩
/-- STEPS_DOWN at 0x024, bits 31:0, class RO, R613. -/
def pwr_STEPS_DOWN : Fld := ⟨0x024, 0, 32, .ro, 16, 0, .any, 0, 1⟩
/-- ENERGY_MJ at 0x028, bits 63:0, class RO, R613. -/
def pwr_ENERGY_MJ : Fld := ⟨0x028, 0, 64, .ro, 16, 0, .any, 0, 1⟩

/-! ### Fronthaul global page (R458) -/

/-- SAMPLE_US at 0x040, bits 13:0, class H A, R458. -/
def fhg_SAMPLE_US : Fld := ⟨0x040, 0, 14, .h, 0, 1000, .any, 0, 1⟩
/-- SAMPLE_SEQ at 0x044, RO, R458. -/
def fhg_SAMPLE_SEQ : Fld := ⟨0x044, 0, 32, .ro, 16, 0, .any, 0, 1⟩

/-- Every block field of the PTN page (R110, R204, R279, R351, R411, R537, R572, R598). -/
def ptnTable : List Fld :=
  [ptn_BIND_NAME, ptn_BIND_STATION, ptn_BIND_PAIR, ptn_BIND_GO, ptn_BIND_LOOKUP, ptn_BIND_RESULT, ptn_BIND_INDEX, ptn_BIND_PHYS, ptn_BIND_COUNT, ptn_DST_FLOOR, ptn_DST_QUOTA, ptn_HBM_FLOOR]
  ++ [ptn_TOTAL_QUOTA, ptn_MODEL_MODE, ptn_HOTSET_TILES, ptn_DST_USED, ptn_DST_PINNED, ptn_HBM_USED, ptn_HBM_PINNED, ptn_HOST_USED, ptn_TOTAL_USED, ptn_PINNED, ptn_PINNING, ptn_RT_READY]
  ++ [ptn_MGR_WINDOW_OK, ptn_VF_WIN_BASE, ptn_FREE_BASE, ptn_FREE_TILES, ptn_FREE_GO, ptn_FREE_RESULT, ptn_RANGE_BASE, ptn_RANGE_TILES, ptn_RANGE_KIND, ptn_RANGE_STRIPE, ptn_PIN_TIER, ptn_TILE_QUERY]
  ++ [ptn_TILE_TIER, ptn_TILE_FLAGS, ptn_TILE_AGE, ptn_PQ_FLOOR, ptn_PQ_QUOTA, ptn_PQ_USED, ptn_STAKE_FLOOR, ptn_STAKE_QUOTA, ptn_BE_JOB_LIMIT, ptn_METERED, ptn_METER_RANK, ptn_METER_STN_UJ]
  ++ [ptn_STAKE_USED, ptn_BE_JOBS_INFLIGHT, ptn_RADIO_LOAD, ptn_BE_JOBS_STARTED, ptn_BE_JOBS_ENDED, ptn_SLOTS_DONE, ptn_SLOTS_DROPPED, ptn_METER_HELD, ptn_STAKE_WAITS, ptn_CPL_MISSED, ptn_FB_BASE, ptn_FB_COUNT]
  ++ [ptn_HARQ_BASE, ptn_HARQ_COUNT, ptn_FB_REQ_Q, ptn_FB_REQS, ptn_LB_EN, ptn_RECOVER, ptn_MIRROR_BASE, ptn_MIRROR_LOG2, ptn_LOG_BASE, ptn_LOG_PAGES, ptn_NEXT_SEQ, ptn_DONE_SEQ]
  ++ [ptn_LB_PENDING, ptn_LB_STATE, ptn_RERUN_N, ptn_INPUT_LOST_N, ptn_PSTATE, ptn_VF, ptn_BME, ptn_JOBQ_BASE, ptn_CQ_BASE, ptn_CQ_SIZE_LOG2, ptn_CQ_EN, ptn_IRQ_EN]
  ++ [ptn_VECTOR, ptn_CQ_HEAD, ptn_CQ_TAIL, ptn_NAME_STATE, ptn_SQ_BASE, ptn_SQ_SIZE_LOG2, ptn_SQ_EN, ptn_JOURNAL, ptn_SQ_CQ, ptn_SQ_TAIL, ptn_SQ_HEAD, ptn_CAP_VIEW]
  ++ [ptn_CAP_EPOCH, ptn_CAP_LATE, ptn_INJ_OK, ptn_NONCE, ptn_ATTEST_Q, ptn_ATTEST_GO, ptn_ATTEST_BUSY, ptn_ATTEST_RESULT, ptn_ATTESTS]

/-- Every block field of the STN page (R113, R128, R148). -/
def stnTable : List Fld :=
  [stn_MODE, stn_LEND_RES, stn_SEQ_STATE, stn_NEXT, stn_NAME_IDX, stn_PAIRED, stn_STAKE, stn_SLOT_STATE, stn_BUSY_CYC, stn_ROWS, stn_LDW_STALL, stn_PREEMPTS]
  ++ [stn_LENT_RUNS, stn_X_MOVER_BW, stn_X_SELFCHECK, stn_ARITH_SAT, stn_ARITH_INF, stn_ARITH_NAN, stn_TBL_BASE, stn_TBL_SETS, stn_SAT_THRESH, stn_STAT_EN, stn_STAT_SET, stn_STAT_CLR]
  ++ [stn_LEND_TBL_BASE, stn_LEND_TBL_SETS, stn_RQ_SAT, stn_RQ_NAN, stn_RQ_SAT_HITS, stn_RQ_MAXABS, stn_RQ_STAT_ROWS, stn_RQ_ELEMS, stn_X_STAT_STRIDE]

/-- Every block field of the BPR page (R160). -/
def bprTable : List Fld :=
  [bpr_SHAPE, bpr_JOINED, bpr_EVEN_DOWN, bpr_ODD_DOWN, bpr_PAIR_JOBS, bpr_PAIR_PREEMPTS]

/-- Every block field of the TIR page (R206). -/
def tirTable : List Fld :=
  [tir_PROFILE, tir_HOST_EN, tir_HOST_BASE, tir_HOST_TILES, tir_DST_FREE, tir_HBM_FREE, tir_HOST_FREE, tir_PROMOTIONS, tir_DEMOTIONS, tir_SPILLS, tir_REFILLS, tir_MIG_ABANDONED]
  ++ [tir_PROMOTE_SKIPPED, tir_TILE_QUERY, tir_TILE_INFO, tir_WIN_BASE, tir_WIN_PTN, tir_WIN_VALID, tir_X_PROMOTE_READS, tir_X_AGE_PERIOD, tir_X_MIG_SHARE, tir_X_ZERO_SHARE, tir_X_HOST_SHARE]

/-- Every block field of the DST and HBC pages (R208). -/
def memTable : List Fld :=
  [mem_SCRUB, mem_CE_COUNT, mem_UE_COUNT, mem_ZERO_PENDING, mem_LOST_TILES, mem_X_SCRUB_PERIOD]

/-- Every block field of the MOV page (R247). -/
def movTable : List Fld :=
  [mov_FAULT_MODE, mov_CONC, mov_FAULT_TIMEOUT, mov_CTX_EN, mov_CTX_ROOT, mov_CLASS, mov_TMPL_BASE, mov_TMPL_COUNT, mov_SUBMIT_Q, mov_CPL_Q, mov_FLT_VALID, mov_FLT_KIND]
  ++ [mov_FLT_SIDE, mov_FLT_TABLE, mov_FLT_LEVEL, mov_FLT_OUTCOME, mov_FLT_PENDING, mov_FLT_ADDR, mov_FLT_ENTRY, mov_FLT_PROGRESS, mov_FLT_STAKE, mov_FLT_TAG, mov_FLT_CMD, mov_INV_BASE]
  ++ [mov_INV_TILES, mov_INV_GO, mov_INV_DONE, mov_BYTES_MOVED, mov_DESCS_DONE, mov_FAULTS, mov_WALKS, mov_YIELDS, mov_X_CHUNK, mov_X_INFLIGHT]

/-- Every block field of the PQ group page (R273). -/
def pqTable : List Fld :=
  [pq_OP_CODE, pq_OP_PRIO, pq_OP_QIDX, pq_OP_ARG, pq_OP_HANDLE, pq_OP_STATUS, pq_OP_OUT, pq_OP_LEN, pq_OP_OUT_PRIO, pq_OP_REDELIV, pq_WIN_HANDLE, pq_WIN_OFF]
  ++ [pq_ENABLE, pq_HW_PRIO, pq_STATE, pq_CELL_LIMIT, pq_WAIT_LIMIT, pq_ABORT, pq_CLEAR, pq_CELLS, pq_PARCELS, pq_RESERVED_N, pq_COMMITS, pq_STALLS]

/-- Every block field of the pool page (R278). -/
def poolTable : List Fld :=
  [pool_MGR_FLOOR, pool_MGR_USED, pool_FREE_CELLS, pool_FLOOR_HELD, pool_ZERO_PENDING, pool_RESERVES, pool_RELEASED_CELLS]

/-- Every block field of the MER page (R309). -/
def merTable : List Fld :=
  [mer_FREQ_SRC, mer_SYNCE_LANE, mer_PPS_OUT_EN, mer_PPS_IN_EN, mer_TDR, mer_FRC, mer_NOW_LIN, mer_NOW_NSF, mer_NOW_SEC, mer_RATE, mer_ADJ, mer_STEP_SEC]
  ++ [mer_STEP_NS, mer_STEP_AT, mer_STEP_GO, mer_PPS_IN_LIN, mer_PPS_IN_FRAC, mer_PLAT_PHASE, mer_CAPTURE_EPOCH, mer_LOCK_LOSSES, mer_TSQ_SEL, mer_TSQ_POP_ID, mer_TSQ_POP_VALID, mer_TSQ_POP_LEFT]
  ++ [mer_TSQ_POP_FRAC, mer_TSQ_POP_T, mer_TSQ_OVF, mer_TSQ_DROPS, mer_X_LEAD, mer_X_PPS_OUT_COMP, mer_X_PPS_IN_COMP, mer_X_PHASE_LIMIT, mer_AT, mer_PERIOD, mer_ARM, mer_LATE]
  ++ [mer_FIRES]

/-- Every block field of the PLT page (R348). -/
def pltTable : List Fld :=
  [plt_NEXT_PATTERN, plt_TRIM, plt_TRIM_ARM, plt_CMD, plt_CMD_PATTERN, plt_CMD_RESULT, plt_BUSY, plt_FAIL_ROW, plt_FAIL_INDEX, plt_ACTIVE_PATTERN, plt_RUNNING, plt_COMMITTED]
  ++ [plt_ROW, plt_FRAME, plt_LOAD, plt_LEND_LEAD, plt_HEADROOM, plt_HEADROOM_LATE, plt_STAKE_RT, plt_MGR_STAKE_FLOOR, plt_STAKES_FREE, plt_STAKE_FLOOR_HELD, plt_SLOTS_DONE, plt_SLOTS_DROPPED]
  ++ [plt_GRANT_OVERRUNS, plt_LENDS, plt_STAKE_QUERY, plt_STAKE_STATE, plt_STAKE_PTN, plt_STAKE_KIND, plt_X_HEADROOM_MARGIN]

/-- Every block field of the TEN page (R382). -/
def tenTable : List Fld :=
  [ten_PROFILE, ten_STATE, ten_PC, ten_CUR_PTN, ten_CUR_CELL, ten_CUR_STAKE, ten_ISSUE_CYC, ten_BANK_STALLS, ten_WAIT_CYC, ten_ITEMS_DONE, ten_ITEMS_FAILED, ten_SAT_COUNT]
  ++ [ten_IRQS, ten_IRQ_MAXLAT, ten_CE_COUNT, ten_UE_COUNT, ten_X_WARN, ten_X_STAGE_MAX]

/-- Every block field of the CDP page (R425). -/
def cdpTable : List Fld :=
  [cdp_HARQ_FMT, cdp_FB_HITS, cdp_FB_MISSES, cdp_FB_ZERO_PENDING, cdp_HARQ_ZERO_PENDING, cdp_HARQ_BUSY_N, cdp_CE_COUNT, cdp_UE_COUNT]

/-- Every block field of the coding-pool unit page (R426). -/
def cduTable : List Fld :=
  [cdu_STATE, cdu_CUR_PTN, cdu_CUR_CELL, cdu_CUR_STAKE, cdu_BUSY_CYC, cdu_JOBS, cdu_ITERS, cdu_CRC_FAILS, cdu_ITEMS_DONE, cdu_ITEMS_FAILED, cdu_CE_COUNT, cdu_UE_COUNT]

/-- Every block field of the fronthaul port page (R455). -/
def fhpTable : List Fld :=
  [fhp_WIDTH, fhp_LEARN_ALL, fhp_MAC_ADDR, fhp_MAX_FRAME, fhp_EXC_Q, fhp_PTP_Q, fhp_DISC_Q, fhp_RU_TIMEOUT, fhp_WIN_NS, fhp_LINK_UP, fhp_AVAILABLE, fhp_RU_COUNT]
  ++ [fhp_RX_FRAMES, fhp_TX_FRAMES, fhp_FEC_CORR, fhp_FEC_UNCORR, fhp_RX_FCS_ERR, fhp_RX_DROPS, fhp_RX_BAD_ECPRI, fhp_RX_SEQ_GAPS, fhp_RX_NO_CELLS, fhp_RX_DENIED, fhp_DISC_FULL, fhp_X_TX_LAT]
  ++ [fhp_X_RX_LAT]

/-- Every block field of the transmit queue page (R457). -/
def fhqTable : List Fld :=
  [fhq_PORT, fhq_CLASS, fhq_WINDOWED, fhq_SRC_Q, fhq_RU_MAC, fhq_VLAN_ID, fhq_PCP, fhq_TAGGED, fhq_RATE_CAP, fhq_RATE, fhq_BURST, fhq_WEIGHT]
  ++ [fhq_LATE_NS, fhq_COMP_METH, fhq_IQ_WIDTH, fhq_STATIC_HDR, fhq_MC_SCALE, fhq_TX_FRAMES, fhq_TX_BYTES, fhq_LATE_DROPS, fhq_BAD_PARCELS, fhq_BFP_SAT, fhq_DELAY_MAX, fhq_TOKENS]
  ++ [fhq_START_TAG, fhq_DELAY, fhq_DEPTH]

/-- Every block field of the fronthaul global page (R458). -/
def fhgTable : List Fld := [fhg_SAMPLE_US, fhg_SAMPLE_SEQ]

/-- Every block field of the traverse channel page (R503). -/
def trcTable : List Fld :=
  [trc_JOB, trc_SUBMIT_Q, trc_CPL_Q, trc_RETRIES, trc_RETRY_US, trc_BUSY_LIMIT_US, trc_OUTSTANDING, trc_OPS_DONE, trc_OPS_FAILED, trc_RESENDS, trc_BYTES_PUT, trc_BYTES_GOT]

/-- Every block field of the traverse job page (R504). -/
def trjTable : List Fld :=
  [trj_JOB_ID, trj_STATE, trj_EXPOSE_BASE, trj_EXPOSE_TILES, trj_EXPOSE_RO, trj_WATCH_Q, trj_INBOUND_OPS, trj_INBOUND_REFUSED, trj_COUNTER, trj_WATCH]

/-- Every block field of the traverse global page (R505). -/
def trgTable : List Fld :=
  [trg_LOCAL_PEER, trg_LEASE_STATE, trg_LEASE_EPOCH, trg_LEASE_EXPIRY, trg_LEASE_PERIOD_MS, trg_LEASE_GUARD_US, trg_DISC_Q, trg_WIT_Q, trg_WIT_COLLECTOR, trg_WIT_WINDOW_US, trg_REPLAY_HOLD_MS, trg_TIME_TOL_US]
  ++ [trg_REPLAY_SINCE, trg_REPLAY_USED, trg_PORT_STATE, trg_REPLAYED_N, trg_UNKNOWN_N, trg_HA_STALL_CYC, trg_AUTH_DROPS, trg_LATE_RENEWS, trg_FENCES, trg_WIT_OPENED, trg_WIT_UNTRACKED, trg_BAR_LATE]
  ++ [trg_BAR_JOB, trg_BAR_ROOT, trg_BAR_MEMBERS, trg_BAR_LEAD_US, trg_BAR_TIMEOUT_MS]

/-- Every block field of the HIF page (R540). -/
def hifTable : List Fld :=
  [hif_LINK_SPEED, hif_LINK_WIDTH, hif_FLIT, hif_CPL_TIMEOUT_US, hif_NUM_VFS, hif_PART_CMD, hif_PART_PTN, hif_PART_VF, hif_PART_RESULT, hif_PART_BUSY, hif_SUBMITS, hif_RERUNS]
  ++ [hif_INPUT_LOST_N, hif_CPL_TIMEOUTS, hif_LOG_WAITS]

/-- Every block field of the HLT page (R560, R571). -/
def hltTable : List Fld :=
  [hlt_K_LIVE, hlt_K_MIN, hlt_K_HOUR, hlt_K_DAY, hlt_K_TOTAL, hlt_K_INJ, hlt_RESET_LEVEL, hlt_RESET_TARGET, hlt_RESET_GO, hlt_RESET_RESULT, hlt_RESET_BUSY, hlt_ESCALATED]
  ++ [hlt_READY, hlt_LINK_LOW, hlt_DRAINING, hlt_DRAINED, hlt_EXPELLED, hlt_LAST_RESET, hlt_LAST_CAUSE, hlt_TRAIN_MS, hlt_GRADE, hlt_CANDIDATE, hlt_GRADE_SINCE, hlt_CAP_VIEW]
  ++ [hlt_CAP_EPOCH, hlt_CAP_LATE, hlt_INJ_REQ, hlt_INJ_GRANTED, hlt_INJ_LIMIT_S, hlt_INJ_COUNT, hlt_LAST_FM_SEQ, hlt_FM_RESULT, hlt_FM_OP, hlt_SIG_REJECTS, hlt_PROFILE, hlt_X_COND_DAY]
  ++ [hlt_X_UE_HOUR, hlt_X_LINK_HOUR, hlt_X_CE_HOUR, hlt_X_THROTTLE_HOUR]

/-- Every block field of the MON page (R597). -/
def monTable : List Fld :=
  [mon_BOOT_STATE, mon_BOOT_SLOT, mon_FALLBACK, mon_SVN_IMAGE, mon_SVN_FUSED, mon_BOOT_COUNT, mon_DEVICE_ID, mon_DEBUG_STATE, mon_DEBUG_COUNT, mon_INJ_POLICY, mon_ANCHORS, mon_DBG_REJECTS]
  ++ [mon_DBG_CHALLENGE, mon_NONCE, mon_ATTEST_Q, mon_ATTEST_GO, mon_ATTEST_BUSY, mon_ATTEST_RESULT, mon_M]

/-- Every block field of the power window (R613). -/
def pwrTable : List Fld :=
  [pwr_PL_SET, pwr_LEVEL, pwr_CORE_MHZ, pwr_P_ROW, pwr_P_AVG, pwr_HEADROOM_PUB, pwr_TJ_SEC, pwr_TJ_HUB, pwr_TJ_HBM, pwr_BRAKE, pwr_CRIT, pwr_STEPS_DOWN]
  ++ [pwr_ENERGY_MJ]

end F

end Sys2Proof.Machine
end

