-- ==== Sys2Proof/Machine/Types.lean ====
section
/-! DEFINITION. The hidden state of each subsystem, as plain data: what the spec gives a block beside the registers
that Machine/Fields.lean names. -/

namespace Sys2Proof.Machine

/-! ### Parcel queues (R250 to R279) -/

/-- A parcel: its queue and list, the `n` payload bytes reserved, the header fields of R253, its payload, and the
cells it holds with the generation of the first (R255). -/
structure Parcel where
  q : Nat
  prio : Nat
  n : Nat
  len : Nat
  committed : Bool
  redelivered : Bool
  delivered : Bool
  srcPtn : Nat
  srcStake : Nat
  since : Nat
  data : NMap Byte
  cells : List Nat
  gen : Nat
deriving DecidableEq, Repr

/-- One list of a queue: parcels not yet released in reservation order, with READ and MARK as positions after HEAD
(R262). -/
structure PList where
  items : List Nat
  read : Nat
  mark : Nat
deriving DecidableEq, Repr

/-- A read stalled with WAIT, and the tick at which WAIT_LIMIT ends it (R261). -/
structure StalledRead where
  agent : Agent
  deadline : Option Nat
deriving DecidableEq, Repr

/-- What the end of an item still owes until its completion is posted (R264, R343, R346): the parcel that carried it with
the status that its release posts, its stake, and for a station job the partition and pair page that count its end. -/
structure Owed where
  pid : Option Nat
  status : Nat
  stake : Option Nat
  job : Option (Nat × Option Nat)
  inj : Bool
deriving DecidableEq, Repr

/-- A reservation that is held back (R268): who made it, its size and list, the payload to commit at once (R259; none:
reserve only), the producer's marks (R615), a token that says what it is for, its place in the order of stalls, and what
the item whose completion it is still owes. -/
structure ResWait where
  agent : Agent
  n : Nat
  prio : Nat
  payload : Option (List Byte)
  srcPtn : Nat
  srcStake : Nat
  token : Nat
  order : Nat
  owed : Option Owed
deriving DecidableEq, Repr

/-- A queue: its eight lists, stalled reads in stall order, its reservation line, and whether it is aborted. -/
structure Queue where
  lists : NMap PList
  stalls : List StalledRead
  line : List ResWait
  aborted : Bool
deriving DecidableEq, Repr

/-- The pool: parcels by an internal number, queues, cell generations, cells waiting for zeroing, parcels handed to
waiting units, and reservations granted to or ended for waiting units. -/
structure Pool where
  parcels : NMap Parcel
  queues : NMap Queue
  nextId : Nat
  gens : NMap Nat
  zeroing : List Nat
  stallSeq : Nat
  inbox : List (Agent × Nat × Nat)
  granted : List (Agent × Nat × Nat)
  ended : List (Agent × Nat × Nat)
deriving DecidableEq, Repr

/-! ### Stations (R80 to R113) -/

/-- The job a station runs: the fields of R535 or R334, the stake, the MODE it started under, and the plat work item
when the run is lent. `shape` is 0 for a single station, 1 for a ROW pair, 2 for a COL pair. -/
structure Job where
  ptn : Nat
  q : Nat
  pid : Option Nat
  stake : Nat
  nameIdx : Nat
  cplEn : Bool
  tag : Nat
  cplQ : Nat
  qh : List Nat
  mode : Nat
  shape : Nat
  lent : Option Nat
deriving DecidableEq, Repr

/-- The last LDW: TSA, FMT, T (R102). -/
structure Ldw where
  tsa : Nat
  fmt : Nat
  t : Bool
deriving DecidableEq, Repr

/-- An RQO handed to the requantisation stage: its instruction word and fields with the register values it took (R98), and the
ACC words it reads, in each member of a pair. R99 lets no later MMA change a word before the RQO has read it, and lets
the RQO read none before every earlier MMA result is usable, so they are the words at the hand-off. -/
structure Rqo where
  word : Nat
  words : List (List Nat)
  row : Nat
  tsa : Nat
  gc : Nat
  ofmt : Nat
  mode : Nat
  skew : Bool
  rows : Nat
  rqset : Nat
deriving DecidableEq, Repr

/-- A saved station job: the sequencer image of R102 and the CAUSE of R242. -/
structure SaveRec where
  cause : Nat
  next : Nat
  g : NMap Nat
  job : Job
  ldw : Option Ldw
  waiting : Option Rqo
  waitt : Option Nat
  fence : Bool
deriving DecidableEq, Repr

/-- A station. ACC words are keyed 128 × row + column; the tile store by byte address; slot states by slot (R89). `bad` are
the 64-byte lines of the tile store that hold an uncorrectable error (R200), `statSkip` the rows of the running RQO that a
STAT_CLR found read (R152).
`blk` is the stationary block with its scale lines, keyed by byte from its base. `drain` is the CAUSE of a save that has
been requested, `ended` the status of a job that has ended and not yet completed, `array` the array instructions since
the last self-check, `lentPending` the stake and the parcel of the lent run that waits for the station. -/
structure Station where
  store : NMap Byte
  acc : NMap Nat
  blk : NMap Byte
  imem : NMap Nat
  next : Nat
  g : NMap Nat
  job : Option Job
  ldw : Option Ldw
  rqoRun : Option Rqo
  rqoRec : List Byte
  rqoWait : Option Rqo
  waitt : Option Nat
  fence : Bool
  ended : Option Nat
  drain : Option Nat
  saved : Option SaveRec
  slots : NMap Nat
  lent : Bool
  lentPending : Option (Nat × List Byte)
  lentPtn : Option Nat
  array : Nat
  zeroStore : Bool
  zeroLend : Option Nat
  carry : Bool
  bad : NMap Bool
  statSkip : Nat
deriving DecidableEq, Repr

/-! ### Memory tiers (R171 to R208) -/

/-- A tile that has storage: its tier (1 datum store, 2 HBM, 3 host) and unit (for host the slot of the spill area), AGE,
the mover reads of this age period, and its flags (R182, R183, R204). -/
structure Tile where
  tier : Nat
  unit : Nat
  age : Nat
  reads : Nat
  pinned : Bool
  migrating : Bool
  stuck : Bool
  lost : Bool
deriving DecidableEq, Repr

/-- A migration (R185): the source, the target tier, the target unit (a slot of the host spill area) once a zeroed
location has been taken for it, whether its commit has happened, whether it serves a pin, whether it has its place in
its engine's queue (R183, R192), and the tile whose demotion must commit before it, where that tile gives it its place
(R183, R196). Source tier 0: a ZERO tile that a pin gives storage. -/
structure Migration where
  ptn : Nat
  tile : Nat
  srcTier : Nat
  srcUnit : Nat
  dstTier : Nat
  dstUnit : Option Nat
  committed : Bool
  pin : Bool
  queued : Bool
  after : Option Nat
deriving DecidableEq, Repr

/-- The pooled locations of one bank, stack or the host spill area: zeroed and free, and waiting for zeroing. -/
structure Locations where
  free : Nat
  pending : Nat
deriving DecidableEq, Repr

/-! ### Movers (R209 to R249) -/

/-- The descriptor fields of R213. -/
structure Desc where
  op : Nat
  sx : Bool
  dx : Bool
  order : Bool
  packed6 : Bool
  fmt : Nat
  tag : Nat
  src : Nat
  dst : Nat
  rows : Nat
  rowBytes : Nat
  srcStride : Nat
  dstStride : Nat
  src2 : Nat
  dst2 : Nat
  reservedOk : Bool
deriving DecidableEq, Repr

/-- The channel configuration a descriptor keeps from its acceptance (R212). -/
structure ChanCfg where
  faultMode : Nat
  timeout : Nat
  ctxEn : Bool
  ctxRoot : Nat
  cls : Nat
  cplQ : Nat
  chunk : Nat
  conc : Nat
deriving DecidableEq, Repr

/-- Where a descriptor stands: waiting to start, running on an engine, stopped on a fault, saved with the CAUSE of its record
(R242: 1 a yield, 2 a fault whose command has come, 3 a quiesce), or finished with a status. -/
inductive DescSt where
  | waiting | running (e : Nat) | stopped | yielded (cause : Nat) | finished (status : Nat)
deriving DecidableEq, Repr

/-- The fault a descriptor stopped on (R234, R247). -/
structure FaultRec where
  kind : Nat
  side : Nat
  table : Bool
  level : Nat
  addr : Nat
  entry : Nat
deriving DecidableEq, Repr

/-- An accepted mover parcel. `slots` are the (station, slot) pairs it claimed; `reads` those it reads. `buf` is the matrix
that an XPOSE has read, with the number of its pieces written (R220); `kept` the original bytes, by partition address, that
a COPY has overwritten and may still read (R221). -/
structure MovItem where
  pid : Nat
  stake : Nat
  cpl : Nat
  desc : Desc
  cfg : ChanCfg
  st : DescSt
  progress : Nat
  fault : Option FaultRec
  slots : List (Nat × Nat)
  reads : List (Nat × Nat)
  lostCarry : Bool
  buf : Option (List Byte × Nat)
  kept : NMap Byte
deriving DecidableEq, Repr

/-- A channel: accepted parcels in acceptance order, the parcel whose fault the fault record shows, the tick at which that
fault times out (or the ticks left while the page is quiesced), whether an invalidation is running, and the parcel whose
completion reservation ended without being admitted (R210). -/
structure Channel where
  items : List MovItem
  shown : Option Nat
  fltDeadline : Option Nat
  fltLeft : Nat
  inv : Bool
  blocked : Option Nat
deriving DecidableEq, Repr

/-- A cached translation of a section's walker (R229): the partition and CTX_ROOT it is tagged with, whether it is a
leaf, its level, the job address bits above that level's index, and the entry. -/
structure XEntry where
  sec : Nat
  ptn : Nat
  root : Nat
  leaf : Bool
  level : Nat
  tag : Nat
  entry : Nat
deriving DecidableEq, Repr

/-! ### Meridian (R280 to R311) -/

/-- A transmit stamp: identifier, linear time and fraction (R294). -/
structure Stamp where
  id : Nat
  lin : Nat
  frac : Nat
deriving DecidableEq, Repr

/-- The timekeeper. Time is in units of 2⁻⁴⁸ ns (R282); `rem` is the adjustment still to run in units of 2⁻³² ns;
`ppsSec` is the latest whole second that the time of the 1PPS output has reached, and `ppsDue` says that the tick just passed
reached it (R293). -/
structure Meridian where
  frc : Nat
  anchorN : Int
  anchorT : Int
  slewed : Int
  rem : Int
  ppsSec : Int
  ppsDue : Bool
  timeValid : Bool
  stepUsed : Bool
  locked : Bool
  holdover : Bool
  fireAt : NMap Nat
  stopAfter : NMap Bool
  tsq : NMap (List Stamp)
deriving DecidableEq, Repr

/-! ### The plat and stakes (R312 to R352) -/

/-- One dispatched work item of a grant (R319). -/
structure WorkItem where
  grant : Nat
  pattern : Nat
  frame : Nat
  row : Nat
  rowStart : Nat
  stake : Nat
  done : Option Nat
deriving DecidableEq, Repr

/-- A slot of a cell that has begun: the grants still to end, the status of the grant that ended first with
another one than DONE with the tick at which it ended, and the completion parcel reserved for it (R337, R338). `inj`: that
status followed from an injected fault (R561). -/
structure SlotRun where
  cell : Nat
  slot : Nat
  frame : Nat
  pattern : Nat
  left : List Nat
  status : Option Nat
  endedAt : Nat
  inj : Bool
  cpl : Option Nat
deriving DecidableEq, Repr

/-- A stake in use: its state (1 latency-critical, 2 partition, 3 manager), partition and kind (R348). -/
structure Stake where
  state : Nat
  ptn : Nat
  kind : Nat
deriving DecidableEq, Repr

/-- The plat. Images are bytes keyed 2²⁰ × image + offset. `waiting` holds the agents that wait for a stake with
their account and kind, oldest first; `granted` the stakes taken for them and not yet used (R346). `sent` are the grants of
the row that have been dispatched or dropped, `trim` the trims armed for the frames to come (R331), `rtClear` the partitions whose RT_READY was clear at its boundary. -/
structure Plat where
  images : NMap Byte
  committed : NMap Bool
  row : Nat
  frame : Nat
  rowStart : Nat
  startTick : Nat
  startNs : Int
  trims : Int
  trim : List (Nat × Int)
  stopReq : Bool
  stopping : Bool
  cmd : Option Nat
  items : List WorkItem
  slots : List SlotRun
  published : Option Nat
  admitted : List Nat
  sent : List Nat
  rtClear : List Nat
  phaseHigh : Bool
  stakes : NMap Stake
  waiting : List (Agent × Nat × Nat)
  granted : List (Agent × Nat)
deriving DecidableEq, Repr

/-! ### Transit engines (R353 to R386) -/

/-- A vector register: 32 lanes, real part then imaginary part, and its exponent (R353). -/
structure TVec where
  parts : List Int
  ev : Int
deriving DecidableEq, Repr

/-- What a result in flight will change when it lands. -/
inductive TWrite where
  | k (d v : Nat)
  | v (d : Nat) (x : TVec)
  | a (d : Nat) (x : TVec)
  | bytes (addr : Nat) (data : List Byte) (exp : Option Nat)
deriving DecidableEq, Repr

/-- A result in flight: bundles still to issue before it lands (R358). -/
structure TPend where
  left : Nat
  wr : TWrite
deriving DecidableEq, Repr

/-- A repeat in progress (R363). -/
structure TRep where
  first : Nat
  len : Nat
  left : Nat
deriving DecidableEq, Repr

/-- A transit engine. `prog` holds half bundles of 64 bits; `bad` are the 128-byte lines of data memory that hold an
uncorrectable error (R353), `soft` those that hold a correctable one (R200); `slots` are the slots of the current bundle that have issued,
in the order S, L, M, C; `branch` a target with the bundles still to issue before it; `ret` says that the branch is an
RTI's; `ending` that the bundle holds END; `pend` the pending interrupt causes, `repPend` those that came during a repeat of
the program (R375); `fault` the code with which a slot of the bundle ends the item (R354). -/
structure Engine where
  prog : NMap Nat
  dm : NMap Byte
  exps : NMap Nat
  k : NMap Nat
  v : NMap TVec
  a : NMap TVec
  q2 : Option Nat
  q3 : Option Nat
  pc : Nat
  slots : List Nat
  inflight : List TPend
  branch : Option (Nat × Nat)
  rep : Option TRep
  item : Option WorkItem
  ptn : Nat
  cell : Nat
  slot : Nat
  qin : Nat
  qout : Nat
  startTick : Nat
  endTick : Nat
  ie : Nat
  ivec : Nat
  icause : Nat
  pend : Nat
  repPend : Nat
  fault : Option Nat
  tcmp : Option Nat
  handler : Option Nat
  warned : Bool
  ret : Bool
  ending : Bool
  staged : List Nat
  taken : List Nat
  zeroing : Bool
  stageMax : Nat
  warnTicks : Nat
  bad : NMap Bool
  soft : NMap Bool
deriving DecidableEq, Repr

/-! ### Coding pool and field book (R387 to R426) -/

/-- A HARQ soft buffer: two copies, the selector, stored NDI, written flag, Ncb and format (R401). -/
structure HarqBuf where
  copy0 : List Int
  copy1 : List Int
  sel : Nat
  ndi : Bool
  written : Bool
  ncb : Nat
  fmt : Nat
deriving DecidableEq, Repr

/-- A job a coding-pool unit holds: its header and payload bytes, further parcels of a receive job, and its output
parcels once computed, those already staged removed. -/
structure CdJob where
  bytes : List Byte
  extra : List (List Byte)
  out : Option (List (List Byte))
  status : Nat
deriving DecidableEq, Repr

/-- A coding-pool unit. `held` are the jobs it holds, at most two, the one that computes first (R391);
`bad` that its internal memory holds an uncorrectable error (R31), `soft` a correctable one (R200). -/
structure CdUnit where
  item : Option WorkItem
  entry : Nat
  ptn : Nat
  cell : Nat
  arg : Nat
  qin : Nat
  qout : Nat
  jobs : Nat
  held : List CdJob
  staged : List Nat
  taken : List Nat
  harqWr : List (Nat × HarqBuf)
  last : Bool
  bad : Bool
  soft : Bool
deriving DecidableEq, Repr

/-- The field book and the HARQ pool: context bytes keyed 256 × context + offset, buffers, locks (buffer to unit),
the cached contexts with the most recently used first, the partition to be served next, and the locked buffers whose
HARQ_RESET waits for their release; `bad` and `soft` are the 64-byte lines of the cache, 4 × context + line, that hold an
uncorrectable and a correctable error (R200, R425). -/
structure FieldBook where
  ctx : NMap Byte
  harq : NMap HarqBuf
  locks : NMap Nat
  cache : List Nat
  turn : Nat
  resets : List Nat
  bad : List Nat
  soft : List Nat
deriving DecidableEq, Repr

/-! ### Fronthaul (R427 to R459) -/

/-- A discovery entry (R444, R447): source address, VLAN ID (0xFFFF untagged), FIRST_SEEN, and the tick of the last
sighting. -/
structure DiscEntry where
  mac : Nat
  vlan : Nat
  firstSeen : Nat
  seen : Nat
deriving DecidableEq, Repr

/-- A fronthaul port: link state, discovery table and undelivered events, the Meridian instant at which the window
closes, the virtual time of each class, and the queues that were eligible at the last selection. -/
structure FhPort where
  up : Bool
  disc : NMap DiscEntry
  events : List (List Byte)
  winEnd : Option Int
  vtime : NMap Nat
  lastElig : List Nat
deriving DecidableEq, Repr

/-- A transmit queue's hidden state: finish tag F (R450) and sequence counter (R432). -/
structure FhQueue where
  finish : Nat
  seq : Nat
deriving DecidableEq, Repr

/-! ### The traverse (R460 to R507) -/

/-- An outstanding request of an operation (R475, R476): its number, the bytes it covers, when it was last sent, how often
it was resent after a time-out, and whether its last reply said BUSY. -/
structure TrvPkt where
  id : Nat
  off : Nat
  len : Nat
  sentAt : Nat
  tries : Nat
  busy : Bool
deriving DecidableEq, Repr

/-- An accepted descriptor of a traverse channel (R466, R467). `next` is how many bytes requests have been sent for, `got`
how many have been answered; `started` that a request has been sent; `done` the status, flags and result once decided;
`attached` the operation whose reply answers this combined LOAD (R478). -/
structure TrvItem where
  id : Nat
  pid : Nat
  stake : Nat
  cpl : Nat
  req : TrvReq
  laddr : Nat
  tsReq : Bool
  tsId : Nat
  next : Nat
  got : Nat
  started : Bool
  port : Nat
  pkts : List TrvPkt
  done : Option (Nat × Nat × Nat)
  attached : Option Nat
deriving DecidableEq, Repr

/-- A peer table entry (R492). -/
structure Peer where
  st : Nat
  ports : Nat
  changes : Nat
deriving DecidableEq, Repr

/-- A replay table entry (R481): its key, the result, the request it answers, and the Meridian time of its application in µs. -/
structure Replay where
  src : Nat
  job : Nat
  tag : Nat
  result : Nat
  check : Nat
  at_ : Nat
deriving DecidableEq, Repr

/-- An open witness entry (R491): its key, count, the linear time of the first report and its tick. -/
structure Witness where
  subject : Nat
  cls : Nat
  injected : Bool
  count : Nat
  first : Nat
  opened : Nat
deriving DecidableEq, Repr

/-- A barrier epoch that a root counts (R496). -/
structure BarEpoch where
  k : Nat
  epoch : Nat
  arrived : List Nat
  first : Nat
deriving DecidableEq, Repr

/-- The BARRIER operation outstanding on a barrier (R495): its channel and number, its epoch, the tick it began, the release
time once received, whether that came late, and whether its trigger has fired. -/
structure BarWait where
  c : Nat
  id : Nat
  epoch : Nat
  since : Nat
  rel : Option Nat
  late : Bool
  fired : Bool
deriving DecidableEq, Repr

/-- An inbound request that the home agent holds: the port it came on, its source, and the request (R471, R479). -/
structure InReq where
  port : Nat
  src : Nat
  req : TrvReq
deriving DecidableEq, Repr

/-- A reply whose data wait for a place at LADDR: the request's number, the reply, and whether it answers attached LOADs
(R473, R478). -/
structure Landing where
  id : Nat
  reply : TrvReply
  shared : Bool
deriving DecidableEq, Repr

/-- The traverse block. `inbound` holds the requests not applied yet, in the order in which they entered; `streams` holds one
plus the port of each stream, keyed 16,384 × channel + peer, and 9 for a stream whose port went down (R461); `putSeen` the bytes seen of an inbound PUT by job, source,
stream and number (R473); `watchWait` the (slot, counter) whose watch parcel
was not admitted (R474); `dropped` the barrier epochs discarded (R502). -/
structure Traverse where
  chans : NMap (List TrvItem)
  peers : NMap Peer
  replay : List Replay
  witness : List Witness
  events : List (List Byte)
  trafficKeys : NMap (List Byte)
  leaseKey : Option (List Byte)
  barCount : NMap Nat
  barWait : NMap BarWait
  epochs : List BarEpoch
  dropped : List (Nat × Nat)
  nextId : Nat
  linkUp : NMap Bool
  streams : NMap Nat
  watchWait : List (Nat × Nat)
  putSeen : NMap Nat
  inbound : List InReq
  landing : List Landing
deriving DecidableEq, Repr

/-! ### Host link, partitions, level book (R508 to R540) -/

/-- A name binding (R109): the name's bytes, the station (the even member of a pair), and PAIR. -/
structure Binding where
  name : List Byte
  station : Nat
  pair : Bool
deriving DecidableEq, Repr

/-- Level book states (R524). -/
inductive LbSt where
  | absent | accepted | committing | complete
deriving DecidableEq, Repr

/-- An accepted host submission and its level book entry (R516, R524): its SQ ring index and CQ position (counted without
wrap), the stake and parcel while it has them, a pending confirming read (R525, R526), and whether a reset stopped it, so
that recovery must treat it (R528). -/
structure HostItem where
  sq : Nat
  sqi : Nat
  cq : Nat
  pos : Nat
  cid : Nat
  stake : Option Nat
  seq : Nat
  journal : Bool
  targetQ : Nat
  prio : Nat
  logOff : Nat
  logLen : Nat
  check : Nat
  pid : Option Nat
  lb : LbSt
  rerun : Bool
  status : Option Nat
  confirm : Bool
  redo : Bool
deriving DecidableEq, Repr

/-- An entry an SQ has fetched and not yet accepted: its stake, the CQ in which it holds room, its parcel and whether the
payload has been copied into it, a status decided early (R518), and whether LOG_WAITS has counted it. -/
structure SqHeld where
  bytes : List Byte
  stake : Option Nat
  room : Option Nat
  pid : Option Nat
  copied : Bool
  status : Option Nat
  counted : Bool
deriving DecidableEq, Repr

/-- A submission ring's hidden state: a fetched entry, and whether a failed read of an entry stopped it (R518). -/
structure Sq where
  held : Option SqHeld
  stopped : Bool
deriving DecidableEq, Repr

/-- A completion ring's hidden state: positions reserved and released so far, and written, counted without wrap. -/
structure Cq where
  reserved : Nat
  released : Nat
  written : Nat
deriving DecidableEq, Repr

/-- The storage of a destroyed partition that still waits for zeroing (R512): stations whose stores are being zeroed, cells of
the pool, and for a tier and unit how many locations, in the order of their freeing. -/
structure Wipe where
  stns : List Nat
  cells : List Nat
  locs : List ((Nat × Nat) × Nat)
deriving DecidableEq, Repr

/-- A partition: binding table, its pair of SM4 keys (R179), tile map, the bytes of its tiered region as its consumers read them,
the 64-byte lines that hold an uncorrectable error and those that hold a correctable one (R200), slot map, rings and items.
`recoveryDue`: a reset stopped it, and recovery follows the clear of QUIESCE_REQ (R550); `mirrorDue`: recovery has still
to read the mirror (R533); `recovered`: it has been recovered since it was created (R583). `lbBad`: the sequence numbers whose
level book entry lies in a line with an uncorrectable error (R200, R528); `lbLost`: no level book was kept, and recovery reads
the mirror alone (R533); `wipe`: what a DESTROY waits for. -/
structure Partition where
  names : NMap Binding
  keys : Option (List Byte)
  tiles : NMap Tile
  mem : NMap Byte
  bad : NMap Bool
  soft : NMap Bool
  slotMap : NMap Nat
  sqs : NMap Sq
  cqs : NMap Cq
  items : List HostItem
  logTail : Nat
  recovering : Bool
  recoveryDue : Bool
  mirrorDue : Bool
  recovered : Bool
  lbBad : List Nat
  lbLost : Bool
  wipe : Wipe
deriving DecidableEq, Repr

/-! ### Health, Monument, power (R541 to R613) -/

/-- The device's stage between a reset and READY. -/
inductive Stage where
  | training | warm | ready | recovery | erased | tripped
deriving DecidableEq, Repr

/-- Health windows: the counts of the closed windows of each kind with the newest first, the tick at which the open window
began, once the part has been ready, the tick at which injection consent ends, and the partitions whose reset waits for replies
to traverse operations that were sent before (R549). -/
structure Health where
  windows : NMap (List Nat)
  openTick : Option Nat
  injEnd : Option Nat
  resetWait : List Nat
deriving DecidableEq, Repr

/-- Monument: nonvolatile store, one-time-programmable records and what it holds while powered. `debugRecord` maps an
entry's number to its 69 bits: ERASE_STARTED, ERASE_DONE, SCOPE in 3 bits, BOOT_COUNT, FRC[63:16]. `nextSlot` is the flash
slot that the next boot tries first, `bootSlot` the one booted. `attests` are the requests that wait, oldest first, with
the NONCE of each. `keyGen` counts partition keys made, `dskGen` storage keys, `draws` random draws; `dsk` is the storage key pair under
which the device reserve lies (R180). `warmAfterErase` is the
cause of a warm reset that waits for a debug erase. -/
structure Monument where
  bootCount : Nat
  lastFmSeq : Nat
  anchors : NMap (List Byte)
  injPolicy : Nat
  debugRecord : NMap Nat
  svnFused : Nat
  slotSvn : NMap Nat
  slotImage : NMap (List Byte)
  bootSlot : Nat
  challenge : Option (List Byte × Nat)
  draws : Nat
  keyGen : Nat
  dskGen : Nat
  dsk : List Byte
  attests : List (Page × List Byte)
  eid : Option Nat
  dusBlocked : Bool
  eraseScope : Nat
  eraseTick : Nat
  warmAfterErase : Option Nat
  nextSlot : Nat
  deviceId : Nat
deriving DecidableEq, Repr

/-- Power: the state of PWROK and PERST# (R605, R606), and the governor (R609): the level, the energies of the last rows with the newest first, rows counted, the row
of the last step down and up, rows in a row that met the step-up condition, a decided change (level, row boundaries
until it takes effect), and PL_EFF once a decision has been made. -/
structure Power where
  level : Nat
  energies : List Nat
  meters : List Nat
  rows : Nat
  lastDown : Option Nat
  lastUp : Option Nat
  calm : Nat
  pending : Option (Nat × Nat)
  plEff : Option Nat
  brake : Bool
  crit : Bool
  trip : Bool
  micro : Nat
  pwrok : Bool
  perst : Bool
deriving DecidableEq, Repr

/-- What is fixed for a part at manufacture (R1, R4, R25): grade code of FP_GRADE and the stations fused off. -/
structure Part where
  grade : Nat
  fuseBad : List Nat
deriving DecidableEq, Repr

/-- The floor plan record (R26 to R40): FP_GEN, unit entries by index, field defect entries, and for each unit the
ticks of its latest uncorrectable errors (2 × tick, plus 1 for an injected one), and the condemnations that wait for a
reset to complete (R553): unit, cause and whether injected. -/
structure FloorPlan where
  gen : Nat
  units : NMap Nat
  fdr : NMap Nat
  ues : NMap (List Nat)
  deferred : List (Nat × Nat × Bool)
deriving DecidableEq, Repr

/-- What leaves the block: interrupts, PCIe writes and answers, frames, packets, management messages and pins. -/
inductive Emit where
  | msix (fn vec : Nat)
  | hostWrite (vf addr : Nat) (data : List Byte)
  | readData (data : List Byte)
  | completerAbort
  | retryStatus
  | configOk
  | frame (port : Nat) (bytes : List Byte)
  | packet (port dst : Nat) (key : Option (List Byte)) (r : TrvReq)
  | trvReply (port dst : Nat) (key : Option (List Byte)) (stream seq : Nat) (status : Nat) (busy : Bool) (data : List Byte)
  | barArrive (port peer : Nat) (key : Option (List Byte)) (k epoch : Nat)
  | barRelease (peer : Nat) (key : Option (List Byte)) (k epoch tRel : Nat)
  | fenceNotice (port : Nat)
  | witnessPacket (peer subject cls : Nat) (injected : Bool)
  | mgmtReply (status : Nat) (data : List Byte)
  | pldm (name : String)
  | pin (name : String) (level : Bool)
  | avs (rail mv : Nat)
deriving DecidableEq, Repr

end Sys2Proof.Machine
end

