-- ==== Sys2Proof/Machine/State.lean ====
section
/-! DEFINITION. The state of the block, the reasons a step can stop, and the state right after a cold device reset
at power-on. -/

namespace Sys2Proof.Machine

/-- Why a step faults. -/
inductive Fault where
  /-- Raised by every meaning whose command names a unit, page, queue or partition number that the spec's numbering
  (R21 to R29, R48, R209, R251, R511) does not have. Safe: no such command exists on the hardware. -/
  | noSuchUnit
deriving DecidableEq, Repr

/-- Why a command is refused. -/
inductive Refusal where
  /-- Raised only by an arm of the dispatch whose command has no meaning yet. Safe: nothing is claimed of it. -/
  | notModelled (mnemonic : String)
deriving DecidableEq, Repr

/-- Everything the spec gives the part, plus `pending` (the commands that wait, first in, first out), `emitted` (what
has left the block), `hostMem` (host memory as the block's PCIe accesses see it, keyed 2⁶⁴ × function + address) and
`fresh` (the MODEL's own counter: each free value is taken at the counter's value, which then advances).

`regs` holds every register field's value, and for a class H field its shadow (R59); `eff` holds the values in effect
of class H fields; `cap` the captured values (R554). `sealAt` holds the tick at which each armed seal group was
accepted, keyed 16 × page offset + group (R63). All three are keyed by bit address in physical function BAR0; a
field that is not listed reads as its reset value (`regs`, `eff`) or as 0 (`cap`). -/
structure State where
  pending : List Instr
  part : Part
  stage : Stage
  regs : NMap Nat
  eff : NMap Nat
  cap : NMap Nat
  sealAt : NMap Nat
  fp : FloorPlan
  stns : NMap Station
  ptns : NMap Partition
  migs : List Migration
  locs : NMap Locations
  spillNext : Nat
  spillFreed : List Nat
  tierHeld : List (Nat × Nat × Access)
  movs : NMap Channel
  xlate : List XEntry
  pool : Pool
  mer : Meridian
  plat : Plat
  tens : NMap Engine
  cdus : NMap CdUnit
  book : FieldBook
  fhps : NMap FhPort
  fhqs : NMap FhQueue
  flows : NMap Byte
  flowSeq : NMap Nat
  trv : Traverse
  hlt : Health
  mon : Monument
  pwr : Power
  hostMem : NMap Byte
  bme : NMap Bool
  msixOff : NMap Bool
  msixHeld : List (Nat × Nat)
  emitted : List Emit
  fresh : Nat
deriving DecidableEq, Repr

/-- An idle station: empty store, instruction memory and ACC (R95, R199). -/
def Station.idle : Station :=
  { store := [], acc := [], blk := [], imem := [], next := 0, g := [], job := none, ldw := none, rqoRun := none,
    rqoRec := [], rqoWait := none, waitt := none, fence := false, ended := none, drain := none, saved := none,
    slots := [], lent := false, lentPending := none, lentPtn := none, array := 0, zeroStore := false,
    zeroLend := none, carry := false, bad := [], statSkip := 0 }

/-- A partition that is FREE (R511). -/
def Partition.free : Partition :=
  { names := [], keys := none, tiles := [], mem := [], bad := [], soft := [], slotMap := [], sqs := [], cqs := [], items := [],
    logTail := 0, recovering := false, recoveryDue := false, mirrorDue := false, recovered := false, lbBad := [],
    lbLost := false, wipe := { stns := [], cells := [], locs := [] } }

/-- An empty queue (R269). -/
def Queue.empty : Queue := { lists := [], stalls := [], line := [], aborted := false }

/-- An empty list of a queue (R262). -/
def PList.empty : PList := { items := [], read := 0, mark := 0 }

/-- A vector register of zeros (R376, R379). -/
def TVec.zero : TVec := { parts := [], ev := 0 }

/-- A transit engine in IDLE: data memory and registers zero (R379), program memory empty. -/
def Engine.idle : Engine :=
  { prog := [], dm := [], exps := [], k := [], v := [], a := [], q2 := none, q3 := none, pc := 0, slots := [],
    inflight := [], branch := none, rep := none, item := none, ptn := 0, cell := 0, slot := 0, qin := 0, qout := 0,
    startTick := 0, endTick := 0, ie := 0, ivec := 0, icause := 0, pend := 0, repPend := 0, fault := none,
    tcmp := none, handler := none,
    warned := false, ret := false, ending := false, staged := [], taken := [], zeroing := false, stageMax := 32, warnTicks := 2000, bad := [],
    soft := [] }

/-- A coding-pool unit in IDLE (R390). -/
def CdUnit.idle : CdUnit :=
  { item := none, entry := 0, ptn := 0, cell := 0, arg := 0, qin := 0, qout := 0, jobs := 0, held := [],
    staged := [], taken := [], harqWr := [], last := false, bad := false, soft := false }

/-- A HARQ buffer that has never been written (R401). -/
def HarqBuf.blank : HarqBuf :=
  { copy0 := [], copy1 := [], sel := 0, ndi := false, written := false, ncb := 0, fmt := 0 }

/-- A fronthaul port with no link and an empty discovery table. -/
def FhPort.idle : FhPort := { up := false, disc := [], events := [], winEnd := none, vtime := [], lastElig := [] }

/-- A transmit queue's tags and counter at reset (R457). -/
def FhQueue.idle : FhQueue := { finish := 0, seq := 0 }

/-- An empty channel of the mover block. -/
def Channel.idle : Channel :=
  { items := [], shown := none, fltDeadline := none, fltLeft := 0, inv := false, blocked := none }

/-- A peer the table shows UNKNOWN (R492). -/
def Peer.unknown : Peer := { st := 0, ports := 0, changes := 0 }

/-- A ring with nothing fetched. -/
def Sq.idle : Sq := { held := none, stopped := false }

/-- A completion ring with nothing reserved. -/
def Cq.idle : Cq := { reserved := 0, released := 0, written := 0 }

/-- No pooled location. -/
def Locations.none : Locations := { free := 0, pending := 0 }

/-- The pool with no parcel (R278). -/
def Pool.empty : Pool :=
  { parcels := [], queues := [], nextId := 0, gens := [], zeroing := [], stallSeq := 0, inbox := [], granted := [],
    ended := [] }

/-- Meridian after a cold device reset: FRC 0, time 0 and invalid (R280, R284). -/
def Meridian.reset : Meridian :=
  { frc := 0, anchorN := 0, anchorT := 0, slewed := 0, rem := 0, ppsSec := 0, ppsDue := false, timeValid := false, stepUsed := false,
    locked := false, holdover := false, fireAt := [], stopAfter := [], tsq := [] }

/-- The plat with every image OPEN and zero, nothing running, and every stake free (R313, R345). -/
def Plat.reset : Plat :=
  { images := [], committed := [], row := 0, frame := 0, rowStart := 0, startTick := 0, startNs := 0, trims := 0,
    trim := [], stopReq := false, stopping := false, cmd := none, items := [], slots := [], published := none,
    admitted := [], sent := [], rtClear := [], phaseHigh := false, stakes := [], waiting := [], granted := [] }

/-- The traverse with no lease, every peer UNKNOWN and every job slot UNBOUND (R487, R492). -/
def Traverse.reset : Traverse :=
  { chans := [], peers := [], replay := [], witness := [], events := [], trafficKeys := [], leaseKey := none,
    barCount := [], barWait := [], epochs := [], dropped := [], nextId := 0, linkUp := [], streams := [],
    watchWait := [], putSeen := [], inbound := [], landing := [] }

/-- The field book cleared (R541, device reserve initialisation). -/
def FieldBook.reset : FieldBook :=
  { ctx := [], harq := [], locks := [], cache := [], turn := 0, resets := [], bad := [], soft := [] }

/-- Health history after a cold reset. -/
def Health.reset : Health := { windows := [], openTick := none, injEnd := none, resetWait := [] }

/-- Monument with a new nonvolatile store (R593: INJ_POLICY 0). -/
def Monument.reset : Monument :=
  { bootCount := 0, lastFmSeq := 0, anchors := [], injPolicy := 0, debugRecord := [], svnFused := 0, slotSvn := [],
    slotImage := [], bootSlot := 0, challenge := none, draws := 0, keyGen := 0, dskGen := 0, dsk := [], attests := [],
    eid := none, dusBlocked := false, eraseScope := 0, eraseTick := 0, warmAfterErase := none, nextSlot := 0,
    deviceId := 0 }

/-- The governor at level 0 (R609). -/
def Power.reset : Power :=
  { level := 0, energies := [], meters := [], rows := 0, lastDown := none, lastUp := none, calm := 0,
    pending := none, plEff := none, brake := false, crit := false, trip := false, micro := 0, pwrok := true,
    perst := false }

/-- The record that Monument is building: FP_GEN is 1 (R27). -/
def FloorPlan.reset : FloorPlan := { gen := 1, units := [], fdr := [], ues := [], deferred := [] }

/-- The locations of the pools after a cold reset (R544): every datum-store location zeroed, every HBM location
waiting for zeroing, no host spill area. Keys 0 to 63 are banks, 64 to 71 stacks, 72 the host spill area. -/
def resetLocs : NMap Locations :=
  (List.range 64).map (fun b => (b, { free := 256, pending := 0 }))
    ++ (List.range 8).map (fun h => (64 + h, { free := 0, pending := 1966080 }))

/-- The machine right after power-on, in the training sequence of R541. -/
def State.reset : State :=
  { pending := [], part := { grade := 1, fuseBad := [] }, stage := .training, regs := [], eff := [], cap := [],
    sealAt := [], fp := FloorPlan.reset, stns := [], ptns := [], migs := [], locs := resetLocs,
    spillNext := 0, spillFreed := [], tierHeld := [], movs := [], xlate := [], pool := Pool.empty,
    mer := Meridian.reset, plat := Plat.reset, tens := [], cdus := [], book := FieldBook.reset, fhps := [],
    fhqs := [], flows := [], flowSeq := [], trv := Traverse.reset, hlt := Health.reset, mon := Monument.reset,
    pwr := Power.reset, hostMem := [], bme := [], msixOff := [], msixHeld := [], emitted := [], fresh := 0 }

end Sys2Proof.Machine
end

