-- ==== Sys2Proof/WellFormed.lean ====
section
/-! DEFINITION. Well-formed commands: every unit, page, queue, slot, partition or function number that a command
names is one that the spec's numbering has. -/

namespace Sys2Proof

/-- Function numbers: the physical function, and virtual functions 1 to 64 (R508). -/
def Func.ok : Func → Bool
  | .pf => true
  | .vf n => decide (1 ≤ n) && decide (n ≤ 64)

/-- Page numbers: R48, R209, R273, R278, R426, R455, R457, R458, R503, R504, R505. -/
def Page.ok : Page → Bool
  | .stn n => decide (n < 144)
  | .bpr m => decide (m < 72)
  | .dst n => decide (n < 64)
  | .hbc n => decide (n < 8)
  | .mov k => decide (k < 1024)
  | .pq g => decide (g < 1024)
  | .ten n => decide (n < 256)
  | .cdu i => decide (i < 144)
  | .fhp q => decide (q < 32)
  | .fhq j => decide (j < 512)
  | .trc c => decide (c < 256)
  | .trj j => decide (j < 64)
  | .ptn n => decide (n < 64)
  | .pwr => false
  | _ => true

/-- The numbers of the units that use parcel queues. -/
def Agent.ok : Agent → Bool
  | .station n => decide (n < 144)
  | .mover k => decide (k < 1024)
  | .ten t => decide (t < 256)
  | .cdu i => decide (i < 144)
  | .fieldBook p => decide (p < 64)
  | .fhPort q => decide (q < 32)
  | .fhQueue j => decide (j < 512)
  | .trvChan c => decide (c < 256)
  | .trvJob j => decide (j < 64)
  | .hif p k => decide (p < 64) && decide (k < 17)
  | _ => true

/-- Who asks the pool for an operation. -/
def Requester.ok : Requester → Bool
  | .page f => f.ok
  | .hw a _ => a.ok

/-- Links: fronthaul port slots 0 to 31 and traverse ports 0 to 7 (R24). -/
def LinkId.ok : LinkId → Bool
  | .fh q => decide (q < 32)
  | .tv n => decide (n < 8)

/-- What a timed-out read was for. -/
def PcieRead.ok : PcieRead → Bool
  | .mover k => decide (k < 1024)
  | .sqEntry p k => decide (p < 64) && decide (k < 16)
  | .payload p k => decide (p < 64) && decide (k < 16)
  | .confirm p => decide (p < 64)
  | .record p n => decide (p < 64) && decide (n < 2 ^ 64)
  | .tierCopy p t => decide (p < 64) && decide (t < 2 ^ 26)

/-- Stations S000 to S143 (R22). -/
def stnOk (n : Nat) : Bool := decide (n < 144)
/-- Partitions P00 to P63. -/
def ptnOk (p : Nat) : Bool := decide (p < 64)
/-- Queues 0 to 16,383 (R251). -/
def queueOk (q : Nat) : Bool := decide (q < 16384)
/-- Mover channels (R209). -/
def movOk (k : Nat) : Bool := decide (k < 1024)
/-- Mover engines (R209). -/
def engOk (e : Nat) : Bool := decide (e < 64)
/-- A transit engine and a slot of its bundles (R354). -/
def tenOk (t slot : Nat) : Bool := decide (t < 256) && decide (slot < 4)
/-- Coding-pool units by FP_UNIT index less 472 (R426). -/
def cduOk (i : Nat) : Bool := decide (i < 144)
/-- Traverse channels (R466). -/
def trcOk (c : Nat) : Bool := decide (c < 256)
/-- Fronthaul port slots (R427). -/
def fhpOk (q : Nat) : Bool := decide (q < 32)
/-- A partition and one of its 16 rings (R514, R515). -/
def ringOk (p k : Nat) : Bool := decide (p < 64) && decide (k < 16)
/-- Meridian triggers (R297). -/
def trigOk (k : Nat) : Bool := decide (k < 64)
/-- Barriers (R495). -/
def barOk (k : Nat) : Bool := decide (k < 16)
/-- Units of the floor plan record (R29). -/
def unitOk (u : Nat) : Bool := decide (u < 712)

/-- Does the command name only units that exist. -/
def Instr.wf : Instr → Bool
  | .registerWrite f _ _ _ => f.ok
  | .seal f p _ | .expertEnWrite f p _ | .quiesceRequest f p | .quiesceClear f p | .ownerWrite f p _ => f.ok && p.ok
  | .sealCommit p | .quiesceComplete p | .patrolScrub p | .attestReport p => p.ok
  | .arraySelfCheck n _ => stnOk n
  | .stationReset n | .clusterReset n _ | .partitionReset n => decide (n < 256)
  | .sequencerWatchdog u | .lockLossTimeout u => unitOk u
  | .stationJobStart n | .nop n | .seti n | .addi n | .loop n | .jmp n | .ldw n | .mma n | .rqo n | .rqoStart n
  | .rqoComplete n | .waitt n | .relt n | .post n | .fence n | .stnEnd n | .stationJobComplete n | .stationSave n
  | .lendResZeroingDone n | .stationStoreZeroed n | .carryComplete n | .lentJobStart n => stnOk n
  | .instructionMemoryWrite f n i _ => f.ok && stnOk n && decide (i < 2048)
  | .statClr f n => f.ok && stnOk n
  | .bindGo f p | .lookup f p | .freeGo f p => f.ok && ptnOk p
  | .uncommit f p | .patternCommit f p => f.ok && decide (p < 4)
  | .bar2Access f _ _ => f.ok
  | .migrationCommit p _ | .migrationSourceFreed p _ => ptnOk p
  | .locationZeroed t u => (decide (t = 1) && decide (u < 64)) || (decide (t = 2) && decide (u < 8)) || decide (t = 3)
  | .pinComplete p k => ptnOk p && decide (k < 8)
  | .tileQuery f p _ => f.ok && ptnOk p
  | .moverAccept k | .cplReserveRetry k | .descriptorComplete k | .faultTimeout k | .invalidationDone k => movOk k
  | .copy k e | .skew k e | .xpose k e => movOk k && engOk e
  | .fltCmdResume f k | .fltCmdAbort f k | .invGo f k => f.ok && movOk k
  | .reserve r q _ prio => r.ok && queueOk q && decide (prio < 8)
  | .commit r g _ _ | .releaseH r g _ => r.ok && decide (g < 1024)
  | .read r q | .mark r q | .rewind r q | .release r q => r.ok && queueOk q
  | .waitLimitExpiry q => queueOk q
  | .abort f q | .clear f q | .queueEnable f q _ => f.ok && queueOk q
  | .dataWindowAccess f g off _ => f.ok && decide (g < 1024) && decide (off < 4096)
  | .stepGo f | .rateWrite f _ | .adjWrite f _ | .tdr f | .nowNsfRead f | .tsqPop f | .patternImageWrite f _ _ _
  | .stop f | .trimArm f _ | .stakeQuery f _ | .plSetWrite f _ | .injReq f _ _ => f.ok
  | .arm f k | .disarm f k => f.ok && trigOk k
  | .triggerConversion k | .triggerFire k => trigOk k
  | .tenNop t k | .tenSeti t k | .seth t k | .tenAddi t k | .alu t k | .rdt t k | .br t k | .brz t k | .brnz t k
  | .rep t k | .sqh t k | .stc t k | .setiv t k | .rdi t k | .rti t k | .prd t k | .pwr t k | .tenEnd t k | .sld t k
  | .sst t k | .vld t k | .vst t k | .vmv t k | .vpk t k | .vmac t k | .vmacb t k | .vada t k => tenOk t k
  | .warn t | .tick t | .interruptEntry t | .engineZeroingDone t => decide (t < 256)
  | .programWindowWrite f t off _ => f.ok && decide (t < 256) && decide (off < 0x8000)
  | .codingJobStart i | .ldpcDecode i | .ldpcEncode i | .polarDecode i | .polarEncode i | .fixedLinkTransmit i
  | .fixedLinkReceive i | .codingJobDone i => cduOk i
  | .fbRead p | .fbWrite p | .harqReset p => ptnOk p
  | .frameReceive q _ | .portSelection q | .windowClose q | .discEventRetry q => fhpOk q
  | .lateDrop j => decide (j < 512)
  | .ruTimeout q i => fhpOk q && decide (i < 64)
  | .discEntryClear f q i => f.ok && fhpOk q && decide (i < 64)
  | .linkDown l | .linkUp l => l.ok
  | .jobBind _ slot _ _ => decide (slot < 64)
  | .peerUp _ peer _ | .peerDown _ peer => decide (peer < 16384)
  | .tearDown _ (some slot) _ => decide (slot < 64)
  | .load c | .store c | .flag c | .atomic c | .merge c | .put c | .get c | .barrier c => trcOk c
  | .inboundRequest port _ _ _ | .inboundAtomic port _ _ _ => decide (port < 8)
  | .counterWrite f j i _ => f.ok && decide (j < 64) && decide (i < 64)
  | .watchRetry j i => decide (j < 64) && decide (i < 64)
  | .barrierArrive k _ _ | .barrierReleaseReceive k _ _ | .barrierRelease k | .barrierTimeout k
  | .barrierEpochDiscard k _ => barOk k
  | .create f _ _ => f.ok
  | .destroy f p | .abortPending f p => f.ok && ptnOk p
  | .partitionFreed p | .recoveryEnd p | .confirmReadDone p _ => ptnOk p
  | .sqDoorbell f p k _ | .cqHeadWrite f p k _ => f.ok && ringOk p k
  | .sqFetch p k _ | .parcel p k _ | .sqNop p k | .cqEntryWrite p k => ringOk p k
  | .functionLevelReset vf | .busMasterEnable vf _ => decide (1 ≤ vf) && decide (vf ≤ 64)
  | .cplTimeout r => r.ok
  | .injectCorrectable f p | .injectUncorrectable f p | .injectCondemn f p | .injectLockLoss f p | .attestGo f p =>
    f.ok && p.ok
  | .setEndpointId e => decide (e < 256)
  | .coldDeviceReset _ _ | .pwrokDeassert | .trainingComplete _ _ _ _ | .configRequest _ | .linkRetrain _ _
  | .warmDeviceReset _ | .warmResetComplete | .managerWindowAccess _ _ | .ageBoundary | .tirTileQuery _
  | .cellsFreed _ | .sourceLost | .relock | .ppsInEdge | .ppsOutPulse | .rowBoundary | .grantDispatch _
  | .grantOverrun _ | .platStopped | .commitValidation | .headroomPublish | .governorDecision _ _ | .pwrbrk | .tCrit _
  | .thermtrip _ | .tokenRefill | .depthSample | .grant _ _ _ _ | .renew _ _ | .tearDown _ none _ | .leaseFence
  | .peerEventRetry | .replyArrival _ _ _ | .retryTimeout _ | .replayEntryExpiry _ _ _ | .witnessPacket _ _ _
  | .witnessClose _ _ _ | .healthWindowClose | .drain _ | .drainComplete | .undrain _ | .expel _
  | .injConsentExpiry | .monumentWatchdog | .anchorSet _ _ _ | .injPolicy _ | .dbgChallenge | .challengeExpiry
  | .dbgUnlock _ | .debugEraseComplete | .firmwareUpdate _ _ _ | .getCertificate _ _ _ | .challenge _ _
  | .getMeasurements _ | .perstDeassert | .tCritRelease _ | .pwrbrkDeassert => true

end Sys2Proof
end

