-- ==== Sys2Proof/Machine/Pages.lean ====
section
/-! DEFINITION. Where the register pages lie, which fields each page has, and how the value of a field is read from
and written into the state (R47 to R62, R72). -/

namespace Sys2Proof.Machine

/-- The offset of a page in physical function BAR0: R48, R209, R273, R278, R348, R425, R426, R455, R457, R458, R503 to
R505, R540, R571, R597, R613. -/
def pageBase : Page → Nat
  | .mon => 0x0000_0000
  | .hlt => 0x0000_1000
  | .mer => 0x0001_0000
  | .pwr => 0x0002_8000
  | .ptn n => 0x0004_0000 + 0x1000 * n
  | .stn n => 0x0100_0000 + 0x1_0000 * n
  | .bpr m => 0x0100_0000 + 0x1_0000 * (2 * m) + 0x1000
  | .dst n => 0x0200_0000 + 0x1000 * n
  | .hbc n => 0x0204_0000 + 0x1000 * n
  | .tir => 0x0210_0000
  | .mov k => 0x0300_0000 + 0x1000 * k
  | .pq g => 0x0400_0000 + 0x1000 * g
  | .pool => 0x0480_0000
  | .plt => 0x0500_0000
  | .ten n => 0x0600_0000 + 0x1_0000 * n
  | .cdp => 0x0700_0000
  | .cdu i => 0x0701_0000 + 0x1000 * i
  | .fhp q => 0x0800_0000 + 0x1000 * q
  | .fhq j => 0x0810_0000 + 0x1000 * j
  | .fhg => 0x0808_0000
  | .trc c => 0x0900_0000 + 0x1000 * c
  | .trj j => 0x0910_0000 + 0x1000 * j
  | .trg => 0x0918_0000
  | .hif => 0x0A00_0000

/-- The block fields of a page's table. -/
def blockTable : Page → List Fld
  | .stn _ => F.stnTable
  | .bpr _ => F.bprTable
  | .dst _ => F.memTable
  | .hbc _ => F.memTable
  | .tir => F.tirTable
  | .mov _ => F.movTable
  | .pq _ => F.pqTable
  | .pool => F.poolTable
  | .mer => F.merTable
  | .plt => F.pltTable
  | .ten _ => F.tenTable
  | .cdp => F.cdpTable
  | .cdu _ => F.cduTable
  | .fhp _ => F.fhpTable
  | .fhq _ => F.fhqTable
  | .fhg => F.fhgTable
  | .trc _ => F.trcTable
  | .trj _ => F.trjTable
  | .trg => F.trgTable
  | .hif => F.hifTable
  | .ptn _ => F.ptnTable
  | .hlt => F.hltTable
  | .mon => F.monTable
  | .pwr => F.pwrTable

/-- Every field of a page: the common header (R51) and the block fields. The power window has no header (R613). -/
def pageTable (p : Page) : List Fld := if p = .pwr then F.pwrTable else F.headerTable ++ blockTable p

/-- PAGE_ID.TYPE (R54). -/
def pageType : Page → Nat
  | .stn _ => 0x01
  | .bpr _ => 0x02
  | .dst _ => 0x03
  | .hbc _ => 0x04
  | .tir => 0x05
  | .mov _ => 0x06
  | .pq _ | .pool => 0x07
  | .mer => 0x08
  | .plt => 0x09
  | .ten _ => 0x0A
  | .cdp | .cdu _ => 0x0B
  | .fhp _ | .fhq _ | .fhg => 0x0C
  | .trc _ | .trj _ | .trg => 0x0D
  | .hif => 0x0E
  | .ptn _ => 0x0F
  | .hlt => 0x10
  | .mon => 0x11
  | .pwr => 0

/-- PAGE_ID.INSTANCE (R52 and the pages' own rules). -/
def pageInstance : Page → Nat
  | .stn n | .dst n | .hbc n | .mov n | .pq n | .ten n | .cdu n | .fhp n | .fhq n | .trc n | .ptn n => n
  | .bpr m => 2 * m
  | .pool | .fhg | .trg => 1024
  | .cdp => 144
  | .trj j => 256 + j
  | .tir | .mer | .plt | .hif | .hlt | .mon | .pwr => 0

/-- Each expert field of a page type with its profile-derived value, given the value in effect of the page's
profile field (R72; R113, R148, R206, R208, R247, R309, R348, R382, R443, R455, R571). -/
def expertFields : Page → List (Fld × (Nat → Nat))
  | .stn _ => [(F.stn_X_MOVER_BW, fun _ => 2), (F.stn_X_SELFCHECK, fun _ => 4096), (F.stn_X_STAT_STRIDE, fun _ => 1)]
  | .dst _ => [(F.mem_X_SCRUB_PERIOD, fun p => if p = 2 then 1000 else 10000)]
  | .hbc _ => [(F.mem_X_SCRUB_PERIOD, fun p => if p = 2 then 3600000 else 86400000)]
  | .tir => [(F.tir_X_PROMOTE_READS, fun p => if p = 1 then 1 else if p = 2 then 4 else 2),
      (F.tir_X_AGE_PERIOD, fun _ => 1000000), (F.tir_X_MIG_SHARE, fun _ => 2), (F.tir_X_ZERO_SHARE, fun _ => 2),
      (F.tir_X_HOST_SHARE, fun _ => 4)]
  | .mov _ => [(F.mov_X_CHUNK, fun _ => 2), (F.mov_X_INFLIGHT, fun _ => 4)]
  | .mer => [(F.mer_X_LEAD, fun _ => 10000), (F.mer_X_PPS_OUT_COMP, fun _ => 0), (F.mer_X_PPS_IN_COMP, fun _ => 0),
      (F.mer_X_PHASE_LIMIT, fun _ => 100)]
  | .plt => [(F.plt_X_HEADROOM_MARGIN, fun _ => 2000)]
  | .ten _ => [(F.ten_X_WARN, fun p => if p = 1 then 8000 else if p = 2 then 500 else 2000),
      (F.ten_X_STAGE_MAX, fun _ => 32)]
  | .fhp _ => [(F.fhp_X_TX_LAT, fun p => if p = 0 then 22016 else if p = 1 then 24064 else 28160),
      (F.fhp_X_RX_LAT, fun p => if p = 0 then 28672 else if p = 1 then 32768 else 40960)]
  | .hlt => [(F.hlt_X_COND_DAY, fun p => if p = 1 then 2 else if p = 2 then 8 else 4),
      (F.hlt_X_UE_HOUR, fun p => if p = 1 then 4 else if p = 2 then 30 else 10),
      (F.hlt_X_LINK_HOUR, fun p => if p = 1 then 3 else if p = 2 then 20 else 6),
      (F.hlt_X_CE_HOUR, fun p => if p = 1 then 2000 else if p = 2 then 100000 else 10000),
      (F.hlt_X_THROTTLE_HOUR, fun p => if p = 1 then 20 else if p = 2 then 600 else 60)]
  | _ => []

/-- The profile field that a page's expert values follow, where the page has one (SCRUB and WIDTH play that part on
their pages: R208, R443). -/
def profileField : Page → Option Fld
  | .dst _ => some F.mem_SCRUB
  | .hbc _ => some F.mem_SCRUB
  | .tir => some F.tir_PROFILE
  | .ten _ => some F.ten_PROFILE
  | .fhp _ => some F.fhp_WIDTH
  | .hlt => some F.hlt_PROFILE
  | _ => none

/-- The package power limit PL of a grade in watts (R1). -/
def gradePL (g : Nat) : Nat := if g = 1 then 2200 else if g = 2 then 1600 else 1100

/-- LEND_LEAD of a grade in ticks (R335). -/
def gradeLendLead (g : Nat) : Nat := if g = 1 then 2400 else if g = 2 then 2880 else 3600

/-- The reset value of a field on a page (R52, R53, R78, R208, R335, R443, R613). -/
def fldReset (part : Part) (p : Page) (f : Fld) : Nat :=
  match p with
  | .mon => if f = F.QUIESCE_REQ || f = F.QUIESCED then 0 else f.reset
  | .hlt => if f = F.QUIESCE_REQ || f = F.QUIESCED then 0 else f.reset
  | .ptn n => if f = F.OWNER then n else f.reset
  | .hbc _ => if f = F.mem_X_SCRUB_PERIOD then 86400000 else f.reset
  | .plt => if f = F.plt_LEND_LEAD then gradeLendLead part.grade else f.reset
  | .pwr => if f = F.pwr_PL_SET then gradePL part.grade else f.reset
  | _ => f.reset

/-- The key of a field: its bit address in physical function BAR0. -/
def fldKey (p : Page) (f : Fld) : Nat := 8 * (pageBase p + f.off) + f.lo

/-- The stored value of a field: for class H, the shadow (R59). -/
def rd (s : State) (p : Page) (f : Fld) : Nat := mapGet (fldReset s.part p f) s.regs (fldKey p f)

/-- Store a field's value, cut to its width; for class H, the shadow. -/
def wr (s : State) (p : Page) (f : Fld) (v : Nat) : State :=
  { s with regs := mapSet (fldReset s.part p f) s.regs (fldKey p f) (v % 2 ^ f.w) }

/-- The applied value of an H field, before the choice between profile and expert values. -/
def rdApplied (s : State) (p : Page) (f : Fld) : Nat := mapGet (fldReset s.part p f) s.eff (fldKey p f)

/-- Set the applied value of an H field. -/
def wrApplied (s : State) (p : Page) (f : Fld) (v : Nat) : State :=
  { s with eff := mapSet (fldReset s.part p f) s.eff (fldKey p f) (v % 2 ^ f.w) }

/-- The stored value that is in effect once its class is taken into account: the applied value of an H field, the
stored value of any other. -/
def rdClass (s : State) (p : Page) (f : Fld) : Nat := if f.cls = .h then rdApplied s p f else rd s p f

/-- The page whose profile field a page's expert values follow: a fronthaul group's WIDTH is that of its first slot
(R427, R443). -/
def profilePage : Page → Page
  | .fhp q => .fhp (4 * (q / 4))
  | p => p

/-- The profile-derived value of an expert field, if `f` is one of page `p` (R72). -/
def profileValue (s : State) (p : Page) (f : Fld) : Option Nat :=
  match (expertFields p).find? (fun e => decide (e.1 = f)) with
  | none => none
  | some e => some (e.2 (match profileField p with
    | none => 0
    | some pf => rdClass s (profilePage p) pf))

/-- EXPERT_ACTIVE: the value of EXPERT_EN in effect (R52, R73). -/
def expertActive (s : State) (p : Page) : Bool := rdApplied s p F.EXPERT_EN == 1

/-- The value of a field in effect (R59, R72): an expert field takes its profile-derived value while EXPERT_ACTIVE is
clear. -/
def ef (s : State) (p : Page) (f : Fld) : Nat :=
  match profileValue s p f with
  | some v => if expertActive s p then rdClass s p f else v
  | none => rdClass s p f

/-- Add to a counter of `f.w` bits that saturates at its maximum. -/
def addSat (s : State) (p : Page) (f : Fld) (n : Nat) : State := wr s p f (satTo (2 ^ f.w - 1) (rd s p f + n))

/-- Does a page have group `g`: one of its fields is in it, or the page's rule lists it without a field (R457: group A of
a transmit queue's page). -/
def hasGroup (p : Page) (g : Nat) : Bool :=
  (blockTable p).any (fun f => f.grp == g) || match p with
    | .fhq _ => g == 0
    | _ => false

/-- The seal groups of a page as CAPS.GROUPS has them, and group X (R52). -/
def capsGroups (p : Page) : Nat := forUpTo 15 (fun g a => if hasGroup p g then a + 2 ^ g else a) 0x8000

/-- CAPS.ASSIGNABLE: the pages that a partition can own (R6, R111, R209, R273, R457, R503, R504). -/
def assignable : Page → Bool
  | .stn _ | .mov _ | .pq _ | .fhq _ | .trc _ | .trj _ => true
  | _ => false

/-- CAPS.INJECTABLE: the pages that R569 lists for some fault. -/
def injectable : Page → Bool
  | .stn _ | .dst _ | .hbc _ | .ten _ | .cdu _ | .fhp _ => true
  | _ => false

/-- The CAPS register (R52). -/
def capsOf (p : Page) : Nat :=
  capsGroups p + 2 ^ 16 * ofBool (!(expertFields p).isEmpty) + 2 ^ 17 * ofBool (assignable p)
    + 2 ^ 18 * ofBool (injectable p)

/-- The page whose 4 KiB lie at a physical function BAR0 offset (R47, R48). -/
def pageOf (addr : Nat) : Option Page :=
  let n := addr / 0x1000
  if n = 0x0 then some .mon else if n = 0x1 then some .hlt else if n = 0x10 then some .mer
  else if n = 0x28 then some .pwr
  else if 0x40 ≤ n ∧ n < 0x80 then some (.ptn (n - 0x40))
  else if 0x1000 ≤ n ∧ n < 0x1000 + 16 * 144 then
    if (n - 0x1000) % 16 = 0 then some (.stn ((n - 0x1000) / 16))
    else if (n - 0x1000) % 32 = 1 then some (.bpr ((n - 0x1000) / 32)) else none
  else if 0x2000 ≤ n ∧ n < 0x2040 then some (.dst (n - 0x2000))
  else if 0x2040 ≤ n ∧ n < 0x2048 then some (.hbc (n - 0x2040))
  else if n = 0x2100 then some .tir
  else if 0x3000 ≤ n ∧ n < 0x3400 then some (.mov (n - 0x3000))
  else if 0x4000 ≤ n ∧ n < 0x4400 then some (.pq (n - 0x4000))
  else if n = 0x4800 then some .pool
  else if n = 0x5000 then some .plt
  else if 0x6000 ≤ n ∧ n < 0x7000 then if n % 16 = 0 then some (.ten ((n - 0x6000) / 16)) else none
  else if n = 0x7000 then some .cdp
  else if 0x7010 ≤ n ∧ n < 0x7010 + 144 then some (.cdu (n - 0x7010))
  else if 0x8000 ≤ n ∧ n < 0x8020 then some (.fhp (n - 0x8000))
  else if n = 0x8080 then some .fhg
  else if 0x8100 ≤ n ∧ n < 0x8300 then some (.fhq (n - 0x8100))
  else if 0x9000 ≤ n ∧ n < 0x9100 then some (.trc (n - 0x9000))
  else if 0x9100 ≤ n ∧ n < 0x9140 then some (.trj (n - 0x9100))
  else if n = 0x9180 then some .trg
  else if n = 0xA000 then some .hif
  else none

/-- Every page that a partition can own (R50: register pages with an OWNER field). -/
def assignablePages : List Page :=
  (List.range 144).map .stn ++ (List.range 1024).map .mov ++ (List.range 1024).map .pq
    ++ (List.range 512).map .fhq ++ (List.range 256).map .trc ++ (List.range 64).map .trj

/-- Every register page other than the PTN, MON and HLT pages. -/
def blockPages : List Page :=
  assignablePages ++ (List.range 72).map .bpr ++ (List.range 64).map .dst ++ (List.range 8).map .hbc
    ++ (List.range 256).map .ten ++ (List.range 144).map .cdu ++ (List.range 32).map .fhp
    ++ [.tir, .pool, .mer, .plt, .cdp, .fhg, .trg, .hif]

/-- Every register page. -/
def allPages : List Page := blockPages ++ (List.range 64).map .ptn ++ [.hlt, .mon]

/-- The owner of a page: OWNER, which on a BPR page reads the even member's and on a PTN page the partition (R78,
R160). -/
def ownerOf (s : State) (p : Page) : Nat :=
  match p with
  | .bpr m => rd s (.stn (2 * m)) F.OWNER
  | .ptn n => n
  | _ => rd s p F.OWNER

end Sys2Proof.Machine
end

