-- ==== Sys2Proof/Machine/Ops.lean ====
section
/-! DEFINITION. The named operations over registers that every block uses: error and event bits and their interrupts
(R52, R614, R520), a block's activity (R57, R74, R75), access rights (R49, R50, R77), the health counters' live counts
(R559), units of the floor plan record (R29, R30), and outputs. -/

namespace Sys2Proof.Machine

/-- The commands that still act when a thermal trip has stopped every clock but the management and time clocks
(R608): resets and power, the timing sources, triggers and pins, sensors, the health windows, and Monument with its management
endpoint. -/
def runsTripped : Instr → Bool
  | .coldDeviceReset _ _ | .pwrokDeassert | .perstDeassert | .sourceLost | .relock | .ppsInEdge | .ppsOutPulse
  | .tCrit _ | .tCritRelease _ | .thermtrip _ | .pwrbrk | .pwrbrkDeassert | .setEndpointId _ | .getCertificate _ _ _
  | .challenge _ _ | .getMeasurements _ | .anchorSet _ _ _ | .injPolicy _ | .dbgChallenge | .challengeExpiry
  | .firmwareUpdate _ _ _ | .drain _ | .undrain _ | .expel _ | .drainComplete | .dbgUnlock _ | .healthWindowClose
  | .injConsentExpiry | .governorDecision _ _ | .triggerConversion _ | .triggerFire _ => true
  | _ => false

/-- The outcome of a command with effect `s'` in state `s`: a command that names a unit the spec does not have faults,
and while the part is tripped a command of a stopped clock changes nothing. -/
def act (i : Instr) (s s' : State) : Host.Outcome State Fault Refusal :=
  if i.wf then .next (if s.stage = .tripped && !runsTripped i then s else s') else .fault .noSuchUnit

/-! ### Outputs -/

/-- Append to what has left the block. -/
def emit (s : State) (e : Emit) : State := { s with emitted := s.emitted ++ [e] }

/-- The virtual function bound to a partition, if any (R511). -/
def vfOf (s : State) (p : Nat) : Option Nat :=
  let v := rd s (.ptn p) F.ptn_VF
  if v = 0 then none else some v

/-- The partition bound to a virtual function, if any. -/
def ptnOfVf (s : State) (v : Nat) : Option Nat :=
  (List.range 64).find? (fun p => decide (rd s (.ptn p) F.ptn_VF = v) && decide (v ≠ 0))

/-- Bus Master Enable of a virtual function (R510). -/
def bmeOn (s : State) (v : Nat) : Bool := mapGet false s.bme v

/-- Raise an MSI-X vector. A virtual function's message waits while its Bus Master Enable is clear (R510) and is not
sent while its MSI-X table is at its reset value (R521). Function 0 is the physical function. -/
def raiseMsix (s : State) (fn vec : Nat) : State :=
  if fn = 0 then emit s (.msix 0 vec)
  else if mapGet false s.msixOff fn then s
  else if bmeOn s fn then emit s (.msix fn vec)
  else { s with msixHeld := s.msixHeld ++ [(fn, vec)] }

/-- Raise vector `vec` (0 errors, 1 events) for a page's owner, and for a PTN page also to the manager (R520). -/
def raiseOwner (s : State) (p : Page) (vec : Nat) : State :=
  let o := ownerOf s p
  let s1 := if o = 0xFF then raiseMsix s 0 vec else
    match vfOf s o with
    | some v => raiseMsix s v vec
    | none => s
  match p with
  | .ptn n => raiseMsix s1 0 (2 + 2 * n + vec)
  | _ => s1

/-- Set a bit of ERR_STATUS, and raise the error interrupt when it and its enable become both set (R614). -/
def setErr (s : State) (p : Page) (bit : Nat) : State :=
  let old := rd s p F.ERR_STATUS
  let s1 := wr s p F.ERR_STATUS (setBits old bit 1 1)
  if !bitAt old bit && bitAt (rd s p F.ERR_ENABLE) bit then raiseOwner s1 p 0 else s1

/-- Set a bit of EVT_STATUS, and raise the event interrupt when it and its enable become both set (R614). -/
def setEvt (s : State) (p : Page) (bit : Nat) : State :=
  let old := rd s p F.EVT_STATUS
  let s1 := wr s p F.EVT_STATUS (setBits old bit 1 1)
  if !bitAt old bit && bitAt (rd s p F.EVT_ENABLE) bit then raiseOwner s1 p 1 else s1

/-- Write an enable register; an enable bit written to 1 over a set bit of `status` raises the interrupt (R614). -/
def wrEnable (s : State) (p : Page) (en : Fld) (status vec v : Nat) : State :=
  let old := rd s p en
  let s1 := wr s p en v
  if (List.range 32).any (fun n => bitAt v n && !bitAt old n && bitAt status n) then raiseOwner s1 p vec else s1

/-! ### Units of the floor plan record (R29, R30) -/

/-- The FP_UNIT entry of a unit. -/
def unitEntry (s : State) (u : Nat) : Nat := mapGet 0 s.fp.units u

/-- STATE reads ENABLED. -/
def unitUp (s : State) (u : Nat) : Bool := unitEntry s u % 4 == 0

/-- The FP_UNIT index of a page's unit, where the page is a unit's (R29). -/
def unitOf : Page → Option Nat
  | .stn n => some n
  | .dst n => some (144 + n)
  | .hbc n => some (208 + n)
  | .ten n => some (216 + n)
  | .cdu i => some (472 + i)
  | _ => none

/-- UNIT_DOWN: the page's unit is DISABLED or CONDEMNED (R52, R60). -/
def unitDown (s : State) (p : Page) : Bool :=
  match unitOf p with
  | some u => !unitUp s u
  | none => false

/-- The number of ENABLED stations. -/
def stationsUp (s : State) : Nat := ((List.range 144).filter (fun n => unitUp s n)).length

/-- The number of ENABLED datum store banks. -/
def banksUp (s : State) : Nat := ((List.range 64).filter (fun n => unitUp s (144 + n))).length

/-- The number of ENABLED HBM stacks. -/
def stacksUp (s : State) : Nat := ((List.range 8).filter (fun n => unitUp s (208 + n))).length

/-! ### Activity (R57, R60, R74, R75) -/

/-- The QUIESCED bit as it reads: a page of a unit that is down reads quiesced (R60), a BPR page is active only while
its pair is joined and both members are active (R160). -/
def quiesced (s : State) (p : Page) : Bool :=
  match p with
  | .bpr m =>
    rd s p F.bpr_JOINED == 0 || rd s (.stn (2 * m)) F.QUIESCED == 1 || rd s (.stn (2 * m + 1)) F.QUIESCED == 1
      || unitDown s (.stn (2 * m)) || unitDown s (.stn (2 * m + 1))
  | _ => rd s p F.QUIESCED == 1 || unitDown s p

/-- A page is held quiesced while its own QUIESCE_REQ or its partition's is set (R75). -/
def heldQuiesced (s : State) (p : Page) : Bool :=
  rd s p F.QUIESCE_REQ == 1 ||
    match p with
    | .ptn _ => false
    | _ => if ownerOf s p < 64 then rd s (.ptn (ownerOf s p)) F.QUIESCE_REQ == 1 else false

/-- Has the block of a page stopped taking new work: it is quiesced, or a quiesce of it has begun (R53, R74). -/
def heldBlock (s : State) (p : Page) : Bool := quiesced s p || heldQuiesced s p

/-! ### Access rights (R5, R6, R49, R50, R77) -/

/-- Does the slot map of partition `q` name the 4 KiB page at `base` (R49, R513). -/
def slotNames (s : State) (q base : Nat) : Bool :=
  match mapFind s.ptns q with
  | none => false
  | some pt => pt.slotMap.any (fun e => bitAt e.2 31 && decide (bits e.2 0 16 * 0x1000 = base))

/-- Is a page served at this stage: every page from READY on, while READY is clear for a poor link only MON and HLT
(R543), and likewise during a debug erase (R590; log entry 117), in RECOVERY only MON (R575), and none during training and a warm
reset. -/
def pageServed (s : State) (p : Page) : Bool :=
  match s.stage with
  | .ready => true
  | .erased => decide (p = .mon) || decide (p = .hlt)
  | .training => rd s .hlt F.hlt_LINK_LOW == 1 && (decide (p = .mon) || decide (p = .hlt))
  | .recovery => decide (p = .mon)
  | _ => false

/-- Is an access by function `f` to a page served (R50): the physical function reaches every page; a virtual function
reaches its partition's PTN page, and the pages its partition owns that its slot map names. -/
def reach (s : State) (f : Func) (p : Page) : Bool :=
  pageServed s p && match f with
  | .pf => true
  | .vf v =>
    match ptnOfVf s v with
    | none => false
    | some q => decide (p = .ptn q) || (decide (ownerOf s p = q) && slotNames s q (pageBase p))

/-- Record an access that R50 turns away: OWNER_DENIED in the partition's PTN page. -/
def denyAccess (s : State) (f : Func) : State :=
  match f with
  | .pf => s
  | .vf v =>
    match ptnOfVf s v with
    | none => s
    | some q => if pageServed s (.ptn q) then setErr s (.ptn q) 2 else s

/-- May a function write a field (R77). -/
def sideOk (f : Func) (who : Who) : Bool :=
  match who, f with
  | .any, _ => true
  | .mgr, .pf => true
  | .mgr, .vf _ => false
  | .tenant, .pf => false
  | .tenant, .vf _ => true

/-- Run `k` when function `f` may write field `fl` of page `p` with value `v`: the access is served, the unit is not
down (R60), and the field is one that side may write; a change by the wrong side sets OWNER_DENIED (R77). -/
def withWrite (s : State) (f : Func) (p : Page) (fl : Fld) (v : Nat) (k : State → State) : State :=
  if reach s f p then
    if sideOk f fl.who then
      if unitDown s p then s else k s
    else if v = rd s p fl then s else setErr s p 2
  else denyAccess s f

/-- Run `k` when a class S field may change: while the block is active a write is ignored, and sets STALE_WRITE when
it differs from the field's value (R57). -/
def withS (s : State) (p : Page) (fl : Fld) (v : Nat) (k : State → State) : State :=
  if quiesced s p then k s else if v = rd s p fl then s else setErr s p 0

/-- Is an access by `f` to a page without a header served, where the page takes the OWNER of page `p` (R50). -/
def reachWindow (s : State) (f : Func) (p : Page) (base : Nat) : Bool :=
  pageServed s p && match f with
  | .pf => true
  | .vf v =>
    match ptnOfVf s v with
    | none => false
    | some q => decide (ownerOf s p = q) && slotNames s q base

/-- Is an access of `n` bytes at `a` naturally aligned, of 1, 2, 4 or 8 bytes (R62). -/
def aligned (a n : Nat) : Bool := (n == 1 || n == 2 || n == 4 || n == 8) && a % n == 0

/-! ### Health counters (R559, R561) -/

/-- Count one event of health kind `k`; an event that an injected fault caused counts in INJ alone. -/
def bumpHealth (s : State) (k : Nat) (inj : Bool) : State :=
  if inj then addSat s .hlt (F.hlt_K_INJ.ix k) 1 else addSat s .hlt (F.hlt_K_LIVE.ix k) 1

/-! ### The record maps of units -/

/-- Station `n`. -/
def stn (s : State) (n : Nat) : Station := mapGet Station.idle s.stns n
/-- Store station `n`. -/
def setStn (s : State) (n : Nat) (x : Station) : State := { s with stns := mapSet Station.idle s.stns n x }
/-- Partition `p`. -/
def ptn (s : State) (p : Nat) : Partition := mapGet Partition.free s.ptns p
/-- Store partition `p`. -/
def setPtn (s : State) (p : Nat) (x : Partition) : State := { s with ptns := mapSet Partition.free s.ptns p x }
/-- Mover channel `k`. -/
def mov (s : State) (k : Nat) : Channel := mapGet Channel.idle s.movs k
/-- Store mover channel `k`. -/
def setMov (s : State) (k : Nat) (x : Channel) : State := { s with movs := mapSet Channel.idle s.movs k x }
/-- Transit engine `t`. -/
def ten (s : State) (t : Nat) : Engine := mapGet Engine.idle s.tens t
/-- Store transit engine `t`. -/
def setTen (s : State) (t : Nat) (x : Engine) : State := { s with tens := mapSet Engine.idle s.tens t x }
/-- Coding-pool unit `i`. -/
def cdu (s : State) (i : Nat) : CdUnit := mapGet CdUnit.idle s.cdus i
/-- Store coding-pool unit `i`. -/
def setCdu (s : State) (i : Nat) (x : CdUnit) : State := { s with cdus := mapSet CdUnit.idle s.cdus i x }
/-- Fronthaul port slot `q`. -/
def fhp (s : State) (q : Nat) : FhPort := mapGet FhPort.idle s.fhps q
/-- Store fronthaul port slot `q`. -/
def setFhp (s : State) (q : Nat) (x : FhPort) : State := { s with fhps := mapSet FhPort.idle s.fhps q x }
/-- Transmit queue `j`. -/
def fhq (s : State) (j : Nat) : FhQueue := mapGet FhQueue.idle s.fhqs j
/-- Store transmit queue `j`. -/
def setFhq (s : State) (j : Nat) (x : FhQueue) : State := { s with fhqs := mapSet FhQueue.idle s.fhqs j x }
/-- The items of traverse channel `c`. -/
def trc (s : State) (c : Nat) : List TrvItem := mapGet [] s.trv.chans c
/-- Store the items of traverse channel `c`. -/
def setTrc (s : State) (c : Nat) (x : List TrvItem) : State :=
  { s with trv := { s.trv with chans := mapSet [] s.trv.chans c x } }

/-- The value of the counter of free values, with the counter advanced. -/
def nextFresh (s : State) : State := { s with fresh := s.fresh + 1 }

/-- The bytes of measurement registers M0 to M(n − 1) (R576). -/
def measured (s : State) (n : Nat) : List Byte := (List.range (8 * n)).flatMap (fun k => natLE 4 (rd s .mon (F.mon_M.ix k)))

/-- Is the debug port open (R591). -/
def debugOpen (s : State) : Bool := rd s .mon F.mon_DEBUG_STATE == 2

/-- What the alias key derives from, beside the fused secret: M0 to M4 and the debug bit (R578). -/
def akInput (s : State) : List Byte := measured s 5 ++ natLE 1 (ofBool (debugOpen s))

/-- The state of a partition: 0 FREE, 1 ACTIVE, 2 DESTROYING (R511). -/
def pstate (s : State) (p : Nat) : Nat := rd s (.ptn p) F.ptn_PSTATE

/-- The partition on whose behalf a page's items run: its owner, 0xFF for the manager (R615). -/
def pageSrc (s : State) (p : Page) : Nat := ownerOf s p

end Sys2Proof.Machine
end

