-- ==== Sys2Proof/Machine/Mirror.lean ====
section
/-! DEFINITION. Writes to host memory, and the mirror of the level book (R523 to R526). -/

namespace Sys2Proof.Machine

/-- A posted write to host memory on behalf of a virtual function (R508). -/
def hostPut (s : State) (v a : Nat) (d : List Byte) : State :=
  emit { s with hostMem := storeBytes s.hostMem (2 ^ 64 * v + a % 2 ^ 64) d } (.hostWrite v (a % 2 ^ 64) d)

/-- A read of host memory on behalf of a virtual function (R508). -/
def hostGet (s : State) (v a n : Nat) : List Byte := loadBytes s.hostMem (2 ^ 64 * v + a % 2 ^ 64) n

/-- A read of `n` bytes of host memory that the tenant writes from outside the block (R508): `b` are the bytes there of which
the host has changed the first ones since; the answer, and the state that holds them. -/
def hostLoad (s : State) (v a n : Nat) (b : List Byte) : List Byte × State :=
  let s1 := { s with hostMem := storeBytes s.hostMem (2 ^ 64 * v + a % 2 ^ 64) (b.take n) }
  (hostGet s1 v a n, s1)

/-- The virtual function of a partition whose Bus Master Enable is set (R510). -/
def busOf (s : State) (p : Nat) : Option Nat :=
  match vfOf s p with
  | some v => if bmeOn s v then some v else none
  | none => none

/-- Where the mirror entry of sequence number `n` lies (R524). -/
def mirrorAddr (s : State) (p n : Nat) : Nat :=
  ef s (.ptn p) F.ptn_MIRROR_BASE + 32 * (n % 2 ^ ef s (.ptn p) F.ptn_MIRROR_LOG2)

/-- The two bits of a level book state in a mirror entry. -/
def LbSt.code : LbSt → Nat
  | .absent => 0
  | .accepted => 1
  | .committing => 2
  | .complete => 3

/-- The level book state that two bits spell. -/
def lbOf : Nat → LbSt
  | 1 => .accepted
  | 2 => .committing
  | 3 => .complete
  | _ => .absent

/-- The 32 bytes of an item's mirror entry (R524), in the model's own layout (log entry 44): bits [49:0] SEQ/1,024 (its low
ten bits are those of the position in the ring), [113:50] CHECK, [145:114] CID, [177:146] CQ position, [179:178] state,
[183:180] SQ, [187:184] CQ, [190:188] PRIO, [204:191] TARGET_Q, [228:205] log offset/64, [239:229] log length/64 in
ACCEPTED and the status in the later states, [255:240] SQ ring index. -/
def mirrorBytes (it : HostItem) (st : LbSt) : List Byte :=
  let f := [(it.seq / 1024, 50), (it.check, 64), (it.cid, 32), (it.pos, 32), (st.code, 2), (it.sq, 4), (it.cq, 4),
    (it.prio, 3), (it.targetQ, 14), (it.logOff / 64, 24),
    (if st = .accepted then it.logLen / 64 else it.status.getD 0, 11), (it.sqi, 16)]
  natLE 32 (f.foldr (fun e a => e.1 % 2 ^ e.2 + a * 2 ^ e.2) 0)

/-- The item that a mirror entry records; `i` is its place in the ring. -/
def mirrorItem (b : List Byte) (i : Nat) : HostItem :=
  let w := leNat b
  let st := lbOf (bits w 178 2)
  { sq := bits w 180 4, sqi := bits w 240 16, cq := bits w 184 4, pos := bits w 146 32, cid := bits w 114 32,
    stake := none, seq := 1024 * bits w 0 50 + i % 1024, journal := true, targetQ := bits w 191 14,
    prio := bits w 188 3, logOff := 64 * bits w 205 24, logLen := if st = .accepted then 64 * bits w 229 11 else 0,
    check := bits w 50 64, pid := none, lb := st, rerun := false,
    status := if st = .accepted then none else some (bits w 229 8), confirm := false, redo := true }

/-- Write the mirror entry of a journaled item in a state (R524), while the function may master the bus; otherwise the
write waits (R510, R521). -/
def writeMirror (s : State) (p : Nat) (it : HostItem) (st : LbSt) : State :=
  match busOf s p with
  | some v => if it.journal then hostPut s v (mirrorAddr s p it.seq) (mirrorBytes it st) else s
  | none => s

end Sys2Proof.Machine
end

