-- ==== Sys2Proof/Machine/Pool.lean ====
section
/-! DEFINITION. Stakes (R345, R346) and the parcel-queue pool's operations (R250 to R271), as the commands of every
block use them. -/

namespace Sys2Proof.Machine

/-- What destroyed partitions still wait for changes (R512). -/
def wipeAll (s : State) (f : Wipe → Wipe) : State :=
  { s with ptns := mapAll Partition.free s.ptns (fun _ x => { x with wipe := f x.wipe }) }

/-! ### Stakes (R345, R346) -/

/-- The stake account of the latency-critical items; accounts 0 to 63 are partitions', 255 the manager's. -/
def lcAcct : Nat := 256

/-- The account that a stake in use counts in. -/
def Stake.acct (k : Stake) : Nat := if k.state = 1 then lcAcct else if k.state = 3 then 255 else k.ptn

/-- Stakes held by an account. -/
def stakesUsed (s : State) (a : Nat) : Nat := (s.plat.stakes.filter (fun e => decide (e.2.acct = a))).length

/-- Free stakes of the pool of 65,536. -/
def stakesFree (s : State) : Nat := 65536 - s.plat.stakes.length

/-- The floor of an account (R345). -/
def stakeFloor (s : State) (a : Nat) : Nat :=
  if a = lcAcct then ef s .plt F.plt_STAKE_RT
  else if a < 64 then ef s (.ptn a) F.ptn_STAKE_FLOOR
  else ef s .plt F.plt_MGR_STAKE_FLOOR

/-- May an account that uses `u` stakes take one more: the manager's account has no quota (R345). -/
def stakeQuotaOk (s : State) (a u : Nat) : Bool :=
  if a = lcAcct then decide (u + 1 ≤ ef s .plt F.plt_STAKE_RT)
  else if a < 64 then decide (u + 1 ≤ ef s (.ptn a) F.ptn_STAKE_QUOTA)
  else true

/-- STAKE_FLOOR_HELD (R345). -/
def stakeFloorHeld (s : State) : Nat :=
  (lcAcct :: 255 :: List.range 64).foldl (fun n a => n + (stakeFloor s a - stakesUsed s a)) 0

/-- May account `a` take a stake (R345). -/
def stakeOk (s : State) (a : Nat) : Bool :=
  let u := stakesUsed s a
  decide (0 < stakesFree s) && stakeQuotaOk s a u &&
    (decide (u + 1 ≤ stakeFloor s a) || decide (stakeFloorHeld s + 1 ≤ stakesFree s))

/-- The lowest number from `i` on that a rising map does not list. -/
def lowestFree {α : Type} : Nat → NMap α → Nat
  | i, [] => i
  | i, (k, _) :: r => if k = i then lowestFree (i + 1) r else i

/-- The record of a stake in an account. -/
def mkStake (a kind : Nat) : Stake :=
  { state := if a = lcAcct then 1 else if a < 64 then 2 else 3, ptn := if a < 64 then a else 0, kind := kind }

/-- Take the lowest-numbered free stake for account `a` (R346), if R345 lets it. -/
def takeStake (s : State) (a kind : Nat) : Option (Nat × State) :=
  if stakeOk s a then
    let k := lowestFree 0 s.plat.stakes
    some (k, { s with plat := { s.plat with stakes := mapPut s.plat.stakes k (mkStake a kind) } })
  else none

/-- Retry the waiting heads, oldest first (R346). -/
def retryStakes (s : State) : List (Agent × Nat × Nat) → State
  | [] => s
  | (ag, a, kind) :: r =>
    match takeStake s a kind with
    | some (k, s1) =>
      retryStakes { s1 with plat := { s1.plat with
        waiting := removeFirst (fun e => decide (e.1 = ag)) s1.plat.waiting
        granted := s1.plat.granted ++ [(ag, k)] } } r
    | none => retryStakes s r

/-- Free a stake, and retry the waiting heads (R346). -/
def freeStake (s : State) (k : Nat) : State :=
  let s1 := { s with plat := { s.plat with stakes := mapErase s.plat.stakes k } }
  retryStakes s1 s1.plat.waiting

/-- The stake for an agent's next item: one already granted to it, or one taken now; else the agent waits at the head
of its queue and STAKE_WAITS counts it once (R346). -/
def acquireStake (s : State) (ag : Agent) (a kind : Nat) : Option Nat × State :=
  match s.plat.granted.find? (fun e => decide (e.1 = ag)) with
  | some (_, k) =>
    (some k, { s with plat := { s.plat with granted := removeFirst (fun e => decide (e.1 = ag)) s.plat.granted } })
  | none =>
    if s.plat.waiting.any (fun e => decide (e.1 = ag)) then (none, s)
    else match takeStake s a kind with
      | some (k, s1) => (some k, s1)
      | none =>
        let s1 := { s with plat := { s.plat with waiting := s.plat.waiting ++ [(ag, a, kind)] } }
        (none, if a < 64 then addSat s1 (.ptn a) F.ptn_STAKE_WAITS 1 else s1)

/-- An agent no longer waits for a stake, and one granted and not used is freed. -/
def dropStakeWait (s : State) (ag : Agent) : State :=
  let s1 := { s with plat := { s.plat with waiting := s.plat.waiting.filter (fun e => decide (e.1 ≠ ag)) } }
  match s1.plat.granted.find? (fun e => decide (e.1 = ag)) with
  | some (_, k) =>
    freeStake { s1 with plat := { s1.plat with granted := removeFirst (fun e => decide (e.1 = ag)) s1.plat.granted } } k
  | none => s1

/-! ### Queues (R251, R273) -/

/-- The PQ page of a queue's group. -/
def qPage (q : Nat) : Page := .pq (q / 16)

/-- A per-queue field of the group's page. -/
def qf (s : State) (q : Nat) (f : Fld) : Nat := rd s (qPage q) (f.ix (q % 16))

/-- Write a per-queue field. -/
def setQf (s : State) (q : Nat) (f : Fld) (v : Nat) : State := wr s (qPage q) (f.ix (q % 16)) v

/-- The owner of a queue (R251). -/
def qOwner (s : State) (q : Nat) : Nat := ownerOf s (qPage q)

/-- Queue `q` of the pool. -/
def queue (s : State) (q : Nat) : Queue := mapGet Queue.empty s.pool.queues q

/-- Store queue `q`. -/
def setQueue (s : State) (q : Nat) (x : Queue) : State :=
  { s with pool := { s.pool with queues := mapSet Queue.empty s.pool.queues q x } }

/-- List `l` of a queue. -/
def Queue.list (x : Queue) (l : Nat) : PList := mapGet PList.empty x.lists l

/-- Store list `l` of a queue. -/
def Queue.setList (x : Queue) (l : Nat) (y : PList) : Queue := { x with lists := mapSet PList.empty x.lists l y }

/-- The parcel with internal number `pid`. -/
def parcelOf (s : State) (pid : Nat) : Option Parcel := mapFind s.pool.parcels pid

/-- Store a parcel. -/
def setParcel (s : State) (pid : Nat) (x : Parcel) : State :=
  { s with pool := { s.pool with parcels := mapPut s.pool.parcels pid x } }

/-- The cells that `n` payload bytes take (R253). -/
def cellsFor (n : Nat) : Nat := ceilDiv (n + 8) 64

/-- CELLS of a queue (R266). -/
def qCells (s : State) (q : Nat) : Nat :=
  s.pool.parcels.foldl (fun n e => if e.2.q = q then n + e.2.cells.length else n) 0

/-- RESERVED_N of a queue (R273). -/
def qReserved (s : State) (q : Nat) : Nat :=
  (s.pool.parcels.filter (fun e => decide (e.2.q = q) && !e.2.committed)).length

/-- PARCELS of a queue (R273). -/
def qParcels (s : State) (q : Nat) : Nat :=
  (s.pool.parcels.filter (fun e => decide (e.2.q = q) && e.2.committed)).length

/-- USED of an account: a partition's PQ_USED, or MGR_USED for account 0xFF (R266). -/
def pqUsed (s : State) (a : Nat) : Nat :=
  s.pool.parcels.foldl (fun n e => if qOwner s e.2.q = a then n + e.2.cells.length else n) 0

/-- Cells held by parcels. -/
def cellsHeld (s : State) : Nat := s.pool.parcels.foldl (fun n e => n + e.2.cells.length) 0

/-- FREE_CELLS: zeroed free cells (R278). -/
def freeCells (s : State) : Nat := 524288 - cellsHeld s - s.pool.zeroing.length

/-- FLOOR of a pool account (R267). -/
def pqFloor (s : State) (a : Nat) : Nat := if a < 64 then ef s (.ptn a) F.ptn_PQ_FLOOR else ef s .pool F.pool_MGR_FLOOR

/-- FLOOR_HELD (R267). -/
def pqFloorHeld (s : State) : Nat :=
  (0xFF :: List.range 64).foldl (fun n a => n + (pqFloor s a - pqUsed s a)) 0

/-- Is a reservation of `n` cells for queue `q` admitted (R267), with fewer than 256 parcels whose length is not
written (R256). -/
def pqAdmit (s : State) (q n : Nat) : Bool :=
  let a := qOwner s q
  let u := pqUsed s a
  decide (qCells s q + n ≤ qf s q F.pq_CELL_LIMIT)
    && (if a < 64 then decide (u + n ≤ ef s (.ptn a) F.ptn_PQ_QUOTA) else true)
    && decide (n ≤ freeCells s)
    && (decide (u + n ≤ pqFloor s a) || decide (pqFloorHeld s + n ≤ freeCells s))
    && decide (qReserved s q < 256)

/-- The first cell at or after `c`, modulo the pool, that is not in use; `fuel` bounds the search by the number of
cells in use. -/
def freeFrom (used : List Nat) : Nat → Nat → Nat
  | 0, c => c % 524288
  | fuel + 1, c => if used.contains (c % 524288) then freeFrom used fuel (c + 1) else c % 524288

/-- Take `n` free cells, each at the pool's own choice. -/
def pickCells (used : List Nat) (seed : Nat) : Nat → List Nat
  | 0 => []
  | n + 1 =>
    let c := freeFrom used used.length (Config.cellChoice (seed + n))
    c :: pickCells (c :: used) seed n

/-- The generation of a cell (R255). -/
def cellGen (s : State) (c : Nat) : Nat := mapGet 0 s.pool.gens c

/-- The handle of a parcel (R255). -/
def handleOf (x : Parcel) : Nat := x.cells.headD 0 + 2 ^ 19 * x.gen

/-- The parcel that a handle names now, if it is current (R255). -/
def byHandle (s : State) (h : Nat) : Option (Nat × Parcel) :=
  s.pool.parcels.find? (fun e => decide (handleOf e.2 = h % 2 ^ 32))

/-- Free cells: each one's generation rises, and it waits for zeroing (R252, R255). -/
def freeCellsOf (s : State) (cs : List Nat) : State :=
  { s with pool := { s.pool with
    zeroing := s.pool.zeroing ++ cs
    gens := cs.foldl (fun g c => mapSet 0 g c ((mapGet 0 g c + 1) % 2 ^ 13)) s.pool.gens } }

/-- The next parcel that a READ of the queue would deliver: its list and number (R260). -/
def nextDeliverable (s : State) (q : Nat) : Option (Nat × Nat) :=
  (List.range 8).findSome? (fun l =>
    let y := (queue s q).list l
    match y.items[y.read]? with
    | none => none
    | some pid =>
      match parcelOf s pid with
      | some x => if x.committed then some (l, pid) else none
      | none => none)

/-- An interrupt cause reaches an engine: it becomes pending when its enable is set, and is not kept otherwise (R372). Whether
it came while a repeat of the program ran decides its bound (R375). -/
def raiseCause (e : Engine) (c : Nat) : Engine :=
  if bitAt e.ie c && !bitAt e.pend c then
    { e with pend := setBits e.pend c 1 1, repPend := setBits e.repPend c 1 (ofBool (e.rep.isSome && e.handler.isNone)) }
  else e

/-- Raise NONEMPTY, and the QIN cause of the engine whose item reads the queue, when the queue has passed from no
deliverable parcel to at least one (R277, R372). -/
def noteNonempty (s : State) (q : Nat) (before : Bool) : State :=
  if before || (nextDeliverable s q).isNone then s
  else
    let s1 := setEvt s (qPage q) (16 + q % 16)
    { s1 with tens := mapAll Engine.idle s1.tens (fun _ e =>
        if e.item.isSome && decide (e.qin = q) then raiseCause e 2 else e) }

/-- Hand the next deliverable parcel over: READ moves past it, and a second delivery sets REDELIVERED (R254, R260). -/
def deliver (s : State) (q l pid : Nat) : State :=
  let x := queue s q
  let y := x.list l
  let s1 := setQueue s q (x.setList l { y with read := y.read + 1 })
  match parcelOf s1 pid with
  | none => s1
  | some p => setParcel s1 pid { p with delivered := true, redelivered := p.redelivered || p.delivered }

/-- Does an agent read a parcel only when it holds a stake for it, so that the parcel stays at the head of its queue until
then (R210, R346, R466, R535). -/
def readsWithStake : Agent → Bool
  | .station _ | .mover _ | .trvChan _ => true
  | _ => false

/-- Serve stalled readers in stall order, one parcel each (R261); none while the group page is quiesced (R270). A reader that
needs a stake takes its parcel from the head by itself, and those behind it wait. -/
def wakeReaders (s : State) (q : Nat) : Nat → State
  | 0 => s
  | fuel + 1 =>
    match (queue s q).stalls, nextDeliverable s q with
    | st :: rest, some (l, pid) =>
      if quiesced s (qPage q) || readsWithStake st.agent then s
      else
        let s1 := deliver (setQueue s q { queue s q with stalls := rest }) q l pid
        wakeReaders { s1 with pool := { s1.pool with inbox := s1.pool.inbox ++ [(st.agent, q, pid)] } } q fuel
    | _, _ => s

/-- Wake as many stalled readers of a queue as have parcels. -/
def wake (s : State) (q : Nat) : State := wakeReaders s q (queue s q).stalls.length

/-- What an operation of the pool answers: a parcel, the operation stalls, or a completion status. -/
inductive PqRes where
  | parcel (pid : Nat)
  | stalled
  | status (c : Nat)
deriving DecidableEq, Repr

/-- Link a new parcel at the tail of its list (R256). -/
def linkParcel (s : State) (q prio n srcPtn srcStake : Nat) : Nat × State :=
  let used := s.pool.parcels.flatMap (fun e => e.2.cells) ++ s.pool.zeroing
  let k := cellsFor n
  let cs := pickCells used s.fresh k
  let pid := s.pool.nextId
  let x := queue s q
  let y := x.list prio
  let s1 := setQueue s q (x.setList prio { y with items := y.items ++ [pid] })
  let s2 := setParcel s1 pid
    { q := q, prio := prio, n := n, len := 0, committed := false, redelivered := false, delivered := false,
      srcPtn := srcPtn, srcStake := srcStake, since := s.mer.frc, data := [], cells := cs,
      gen := cellGen s (cs.headD 0) }
  let s3 := addSat { s2 with pool := { s2.pool with nextId := pid + 1 }, fresh := s.fresh + k } .pool F.pool_RESERVES 1
  (pid, s3)

/-- The tests of RESERVE in their order (R256): a status when one applies. -/
def reserveTest (s : State) (q n : Nat) : Option Nat :=
  if qf s q F.pq_ENABLE = 0 then some 0x85
  else if (queue s q).aborted then some 0x0A
  else if n = 0 || decide (65528 < n) || decide (qf s q F.pq_CELL_LIMIT < cellsFor n)
      || (decide (qOwner s q < 64) && decide (ef s (.ptn (qOwner s q)) F.ptn_PQ_QUOTA < cellsFor n)) then some 0x83
  else none

/-- RESERVE without WAIT (R256, R268). A reservation never overtakes its queue's line. -/
def reserveNow (s : State) (q n prio srcPtn srcStake : Nat) : PqRes × State :=
  match reserveTest s q n with
  | some c => (.status c, s)
  | none =>
    if (queue s q).line.isEmpty && pqAdmit s q (cellsFor n) then
      let r := linkParcel s q prio n srcPtn srcStake
      (.parcel r.1, r.2)
    else (.status 0x80, s)

/-- A read or reservation has stalled: STALLS counts it (R273). -/
def countStall (s : State) (q : Nat) : State := addSat s (qPage q) (F.pq_STALLS.ix (q % 16)) 1

/-- RESERVE with WAIT: admitted, or placed at the end of the queue's line (R268). -/
def reserveWait (s : State) (q : Nat) (w : ResWait) : PqRes × State :=
  match reserveTest s q w.n with
  | some c => (.status c, s)
  | none =>
    if (queue s q).line.isEmpty && pqAdmit s q (cellsFor w.n) then
      let r := linkParcel s q w.prio w.n w.srcPtn w.srcStake
      (.parcel r.1, r.2)
    else
      let s1 := setQueue s q { queue s q with line := (queue s q).line ++ [{ w with order := s.pool.stallSeq }] }
      (.stalled, countStall { s1 with pool := { s1.pool with stallSeq := s.pool.stallSeq + 1 } } q)

/-- Store payload bytes of a parcel from offset `o` on. -/
def writePayload (s : State) (pid o : Nat) (bytes : List Byte) : State :=
  match parcelOf s pid with
  | none => s
  | some x => setParcel s pid { x with data := storeBytes x.data o bytes }

/-- Remove a parcel from its list, keeping READ and MARK on the same parcels. -/
def unlink (y : PList) (pid : Nat) : PList :=
  match y.items.findIdx? (fun i => decide (i = pid)) with
  | none => y
  | some k =>
    { items := y.items.eraseIdx k, read := if k < y.read then y.read - 1 else y.read,
      mark := if k < y.mark then y.mark - 1 else y.mark }

/-- Free a whole parcel: it leaves its list, its cells wait for zeroing and its handles become stale. -/
def freeParcel (s : State) (pid : Nat) : State :=
  match parcelOf s pid with
  | none => s
  | some x =>
    let qx := queue s x.q
    let s1 := setQueue s x.q (qx.setList x.prio (unlink (qx.list x.prio) pid))
    freeCellsOf { s1 with pool := { s1.pool with
      parcels := mapErase s1.pool.parcels pid
      inbox := s1.pool.inbox.filter (fun e => decide (e.2.2 ≠ pid))
      granted := s1.pool.granted.filter (fun e => decide (e.2.2 ≠ pid)) } } x.cells

/-- The length is written: the surplus cells are freed and the parcel becomes deliverable (R258). -/
def commitParcel (s : State) (pid len : Nat) : State :=
  match parcelOf s pid with
  | none => s
  | some x =>
    let before := (nextDeliverable s x.q).isSome
    let keep := cellsFor len
    let s1 := setParcel s pid { x with len := len, committed := true, since := s.mer.frc, cells := x.cells.take keep }
    let s2 := freeCellsOf s1 (x.cells.drop keep)
    let s3 := addSat s2 (qPage x.q) (F.pq_COMMITS.ix (x.q % 16)) 1
    wake (noteNonempty s3 x.q before) x.q

/-- Is the queue ready for an operation: the status that turns it away otherwise (R262, R269). -/
def queueStop (s : State) (q : Nat) : Option Nat :=
  if qf s q F.pq_ENABLE = 0 then some 0x85 else if (queue s q).aborted then some 0x0A else none

/-- An accepted host item whose parcel is released becomes COMMITTING with the status (R517, R524). -/
def hostItemRelease (pid status : Nat) (it : HostItem) : HostItem :=
  if it.pid = some pid && decide (it.lb = .accepted) then
    { it with lb := .committing, status := some status, pid := none } else it

/-- The partition and item that wait for the release of a parcel. -/
def itemOfPid (s : State) (pid : Nat) : Option (Nat × HostItem) :=
  s.ptns.findSome? (fun e =>
    (e.2.items.find? (fun it => decide (it.pid = some pid) && decide (it.lb = .accepted))).map (fun it => (e.1, it)))

/-- The status and release of a host submission's item when its consumer releases its parcel: the level book entry, written
whole (R200), and the mirror entry become COMMITTING with the status (R517, R524, R526). -/
def hostRelease (s : State) (pid status : Nat) : State :=
  match itemOfPid s pid with
  | none => s
  | some (p, it) =>
    let s1 := setPtn s p { ptn s p with
      items := (ptn s p).items.map (hostItemRelease pid status), lbBad := (ptn s p).lbBad.filter (fun n => n ≠ it.seq) }
    writeMirror s1 p (hostItemRelease pid status it) .committing

/-- A consumer releases parcel `pid`, posting `status` for its item: the parcel is freed (R264), RELEASED_CELLS counts
its cells, and a host submission's item takes the status (R517). -/
def releaseAs (s : State) (pid status : Nat) : State :=
  match parcelOf s pid with
  | none => s
  | some x => addSat (freeParcel (hostRelease s pid status) pid) .pool F.pool_RELEASED_CELLS x.cells.length

/-- A hardware consumer's RELEASE_H of the parcel that its item carried (R264): while the queue's ENABLE is clear the
operation has no effect (R262), and a parcel that an abort freed is ignored (R269). -/
def hwRelease (s : State) (pid status : Nat) : State :=
  match parcelOf s pid with
  | none => s
  | some x => if (queueStop s x.q).isSome then s else releaseAs s pid status

/-! ### What an item's end owes until its completion is posted (R259, R264) -/

/-- The completion of an item is posted, or ends without being posted: its parcel is released, its stake freed, and a
station job's end counted (R264, R343, R346, R559). A host item takes the status of the completion that was posted, or DONE
where none was (R517). -/
def settleOwed (s : State) (posted : Bool) (o : Owed) : State :=
  let s1 := match o.pid with
    | some pid => hwRelease s pid (if posted then o.status else 0x00)
    | none => s
  let s2 := match o.stake with
    | some k => freeStake s1 k
    | none => s1
  match o.job with
  | none => s2
  | some (p, pr) =>
    let s3 := addSat s2 (.ptn p) F.ptn_BE_JOBS_ENDED 1
    let s4 := match pr with
      | some m => addSat s3 (.bpr m) F.bpr_PAIR_JOBS 1
      | none => s3
    if o.status = 0x02 then bumpHealth s4 5 o.inj else s4

/-- Settle what a held-back reservation's item owes, if it carries an item's end: its completion has been posted, or the
reservation has ended without it. -/
def settleWait (posted : Bool) (s : State) (w : ResWait) : State :=
  match w.owed with
  | some o => settleOwed s posted o
  | none => s

/-- The station jobs of a partition that have ended and whose completions are held back. -/
def owedJobs (s : State) (p : Nat) : Nat :=
  s.pool.queues.foldl (fun n e => n + (e.2.line.filter (fun w => match w.owed with
    | some o => (match o.job with
      | some (q, _) => decide (q = p)
      | none => false)
    | none => false)).length) 0

/-- Admit the head of a queue's line, if R267 lets it; the parcel is linked, and committed at once when the producer
had its payload ready (R259). -/
def admitHead (s : State) (q : Nat) : Option State :=
  match (queue s q).line with
  | [] => none
  | w :: rest =>
    if pqAdmit s q (cellsFor w.n) then
      let s1 := setQueue s q { queue s q with line := rest }
      let r := linkParcel s1 q w.prio w.n w.srcPtn w.srcStake
      let s2 := if w.owed.isSome then r.2
        else { r.2 with pool := { r.2.pool with granted := r.2.pool.granted ++ [(w.agent, w.token, r.1)] } }
      some (settleWait true (match w.payload with
        | none => s2
        | some b => commitParcel (writePayload s2 r.1 0 b) r.1 b.length) w)
    else none

/-- The queues whose lines are not empty, with the order of their heads' stalls, oldest first. -/
def lineHeads (s : State) : List (Nat × Nat) :=
  (s.pool.queues.filterMap (fun e => match e.2.line with
    | [] => none
    | w :: _ => some (w.order, e.1))).mergeSort (fun a b => decide (a.1 ≤ b.1))

/-- The number of reservations held back. -/
def lineTotal (s : State) : Nat := s.pool.queues.foldl (fun n e => n + e.2.line.length) 0

/-- Retry the head of each line, oldest stall first, passing over a line whose head cannot be admitted (R268). -/
def retryLines (s : State) : Nat → State
  | 0 => s
  | fuel + 1 =>
    match (lineHeads s).findSome? (fun e => admitHead s e.2) with
    | some s1 => retryLines s1 fuel
    | none => s

/-- A parcel that has not been committed is withdrawn (R258). A committed one behind it may become deliverable: NONEMPTY and
QIN are raised, and stalled readers are served (R260, R261, R277, R372). -/
def withdrawParcel (s : State) (pid : Nat) : State :=
  match parcelOf s pid with
  | none => s
  | some x => wake (noteNonempty (freeParcel s pid) x.q (nextDeliverable s x.q).isSome) x.q

/-- COMMIT of parcel `pid` by its producer (R258): answers the status. -/
def commitOp (s : State) (pid len : Nat) : Nat × State :=
  match parcelOf s pid with
  | none => (0x81, s)
  | some x =>
    match queueStop s x.q with
    | some c => (c, s)
    | none =>
      if x.committed then (0x81, s)
      else if x.n < len then (0x82, s)
      else if len = 0 then (0x00, withdrawParcel s pid)
      else
        let s1 := commitParcel s pid len
        (0x00, match admitHead s1 x.q with
          | some s2 => s2
          | none => s1)

/-- The next deliverable parcel of a queue, where agent `ag` is the one to get it: no reader that stalled before waits, and
the group page is not quiesced (R260, R261, R270). -/
def nextFor (s : State) (ag : Agent) (q : Nat) : Option (Nat × Nat) :=
  if quiesced s (qPage q) then none
  else match (queue s q).stalls with
    | st :: _ => if st.agent = ag then nextDeliverable s q else none
    | [] => nextDeliverable s q

/-- A parcel is taken back before a consumer has it: one that is not committed is withdrawn by its producer, which has no
effect on a queue that is off (R258, R262), and a committed one is freed. -/
def recallParcel (s : State) (pid : Nat) : State :=
  match parcelOf s pid with
  | none => s
  | some x => if x.committed then withdrawParcel s pid else (commitOp s pid 0).2

/-- A hardware consumer's READ with WAIT (R260, R261): a parcel already handed to it, the next deliverable parcel, or
a stall. -/
def hwRead (s : State) (ag : Agent) (q : Nat) : PqRes × State :=
  match s.pool.inbox.find? (fun e => decide (e.1 = ag) && decide (e.2.1 = q)) with
  | some (_, _, pid) =>
    (.parcel pid, { s with pool := { s.pool with
      inbox := removeFirst (fun e => decide (e.1 = ag) && decide (e.2.1 = q)) s.pool.inbox } })
  | none =>
    match queueStop s q with
    | some c => (.status c, s)
    | none =>
      match nextFor s ag q with
      | some (l, pid) =>
        let s1 := setQueue s q { queue s q with stalls := (queue s q).stalls.filter (fun st => decide (st.agent ≠ ag)) }
        (.parcel pid, wake (deliver s1 q l pid) q)
      | none =>
        if (queue s q).stalls.any (fun st => decide (st.agent = ag)) then (.stalled, s)
        else
          let lim := qf s q F.pq_WAIT_LIMIT
          let st : StalledRead := { agent := ag, deadline := if lim = 0 then none else some (s.mer.frc + lim) }
          (.stalled, countStall (setQueue s q { queue s q with stalls := (queue s q).stalls ++ [st] }) q)

/-- The parcel that a hardware reader would get now, without taking it. -/
def peekPid (s : State) (ag : Agent) (q : Nat) : Option Nat :=
  match s.pool.inbox.find? (fun e => decide (e.1 = ag) && decide (e.2.1 = q)) with
  | some (_, _, pid) => some pid
  | none =>
    if (queueStop s q).isSome then none else (nextFor s ag q).map (fun e => e.2)

/-- The payload of a parcel that a hardware producer has reserved is written and committed (R259). -/
def fillParcel (r : PqRes × State) (bytes : List Byte) : PqRes × State :=
  match r with
  | (.parcel pid, s1) => (.parcel pid, commitParcel (writePayload s1 pid 0 bytes) pid bytes.length)
  | other => other

/-- A hardware producer posts a parcel of `bytes` in one operation (R259) at the queue's HW_PRIO. With `wait` false a
reservation that is not admitted answers NO_SPACE. -/
def hwPost (s : State) (ag : Agent) (q : Nat) (bytes : List Byte) (srcPtn srcStake token : Nat) (wait : Bool) :
    PqRes × State :=
  let prio := qf s q F.pq_HW_PRIO
  fillParcel (if wait then
      reserveWait s q { agent := ag, n := bytes.length, prio := prio, payload := some bytes,
                        srcPtn := srcPtn, srcStake := srcStake, token := token, order := 0, owed := none }
    else reserveNow s q bytes.length prio srcPtn srcStake) bytes

/-- The last post of an item that has ended: what it owes is settled when the parcel is posted or its reservation ends, and
not before (R259, R264). -/
def lastPost (s : State) (ag : Agent) (q : Nat) (bytes : List Byte) (srcPtn srcStake token : Nat) (o : Owed) : State :=
  let w : ResWait :=
    { agent := ag, n := bytes.length, prio := qf s q F.pq_HW_PRIO, payload := some bytes,
      srcPtn := srcPtn, srcStake := srcStake, token := token, order := 0, owed := some o }
  match fillParcel (reserveWait s q w) bytes with
  | (.stalled, s1) => s1
  | (.parcel _, s1) => settleOwed s1 true o
  | (.status _, s1) => settleOwed s1 false o

/-- The payload bytes of a parcel: LENGTH bytes once committed. -/
def payload (s : State) (pid : Nat) : List Byte :=
  match parcelOf s pid with
  | none => []
  | some x => loadBytes x.data 0 (if x.committed then x.len else x.n)

/-- Take the parcel that a held-back reservation of an agent was granted under `token`, if it has been. -/
def takeGranted (s : State) (ag : Agent) (token : Nat) : Option Nat × State :=
  match s.pool.granted.find? (fun e => decide (e.1 = ag) && decide (e.2.1 = token)) with
  | none => (none, s)
  | some (_, _, pid) =>
    (some pid, { s with pool := { s.pool with
      granted := removeFirst (fun e => decide (e.1 = ag) && decide (e.2.1 = token)) s.pool.granted } })

/-- Take the status with which a stalled operation of an agent ended, if it has. -/
def takeEnded (s : State) (ag : Agent) (token : Nat) : Option Nat × State :=
  match s.pool.ended.find? (fun e => decide (e.1 = ag) && decide (e.2.1 = token)) with
  | none => (none, s)
  | some (_, _, c) =>
    (some c, { s with pool := { s.pool with
      ended := removeFirst (fun e => decide (e.1 = ag) && decide (e.2.1 = token)) s.pool.ended } })

/-- The token under which the end of an agent's stalled read of queue `q` is recorded; reservations use smaller
tokens. -/
def readToken (q : Nat) : Nat := 1048576 + q

/-! ### Error bits that stand while a condition holds (R207, R249, R457, R503) -/

/-- HOST_CFG: the host tier is enabled and misconfigured (R207). -/
def hostBad (s : State) : Bool :=
  rd s .tir F.tir_HOST_EN == 1 && (rd s .tir F.tir_HOST_BASE % 65536 != 0 || rd s .tir F.tir_HOST_TILES == 0)

/-- CPL_BLOCKED: the parcel at the head of SUBMIT_Q waits because its completion reservation ended without being admitted
(R210, R249). -/
def cplBlocks (s : State) (k : Nat) : Bool :=
  match (mov s k).blocked with
  | some pid => decide ((nextDeliverable s (rd s (.mov k) F.mov_SUBMIT_Q)).map (fun e => e.2) = some pid)
  | none => false

/-- Does a page's owner not own a queue that the page names. -/
def queueForeign (s : State) (p : Page) (f : Fld) : Bool := decide (qOwner s (rd s p f) ≠ ownerOf s p)

/-- The bits of ERR_STATUS that are set while a condition holds, where it holds now: no write clears them (R207, R249, R457,
R503). -/
def levelErrs (s : State) (p : Page) : List Nat :=
  let on (b : Bool) (n : Nat) : List Nat := if b then [n] else []
  match p with
  | .mov k =>
    on (queueForeign s p F.mov_SUBMIT_Q || queueForeign s p F.mov_CPL_Q) 16 ++ on (cplBlocks s k) 18
      ++ on (decide (ownerOf s p = 0xFF)) 19
  | .trc _ =>
    on (queueForeign s p F.trc_SUBMIT_Q || queueForeign s p F.trc_CPL_Q) 16
      ++ on (decide (ownerOf s (.trj (rd s p F.trc_JOB)) ≠ ownerOf s p)) 17
  | .fhq _ => on (queueForeign s p F.fhq_SRC_Q) 16
  | .tir => on (hostBad s) 16
  | _ => []

/-- ERR_STATUS as it reads. -/
def errStatus (s : State) (p : Page) : Nat := (levelErrs s p).foldl (fun v b => setBits v b 1 1) (rd s p F.ERR_STATUS)

/-- A condition that holds now and did not hold in `old` raises the error interrupt of its bit (R614). -/
def levelsRise (old s : State) (p : Page) : State :=
  (levelErrs s p).foldl (fun s b =>
    if (levelErrs old p).contains b || bitAt (rd s p F.ERR_STATUS) b || !bitAt (rd s p F.ERR_ENABLE) b then s
    else raiseOwner s p 0) s

/-- The pages whose error bits follow the owner of a queue group or a job slot. -/
def queuePages : List Page :=
  (List.range 1024).map Page.mov ++ (List.range 256).map Page.trc ++ (List.range 512).map Page.fhq

/-- The bits that an owner change of page `p` may set: those of the page, and for a queue group or a job slot those of every
page that may name it. -/
def ownerLevels (old s : State) (p : Page) : State :=
  match p with
  | .pq _ | .trj _ => queuePages.foldl (levelsRise old) s
  | _ => levelsRise old s p

/-- The completion reservation of the parcel at the head of a channel's SUBMIT_Q ended without being admitted: the stake taken
for it is freed, and a mover's channel sets CPL_BLOCKED (R210, R249, R466). -/
def cplEnded (s : State) (ag : Agent) : State :=
  let s1 := dropStakeWait s ag
  match ag with
  | .mover k =>
    (match nextDeliverable s1 (rd s1 (.mov k) F.mov_SUBMIT_Q) with
      | some (_, pid) => levelsRise s (setMov s1 k { mov s1 k with blocked := some pid }) (.mov k)
      | none => s1)
  | _ => s1

/-- Is a held-back reservation the completion reservation of a channel (R210, R466). -/
def cplWait (w : ResWait) : Bool :=
  match w.agent with
  | .mover _ | .trvChan _ => w.token == 1
  | _ => false

/-- A held-back reservation has ended without being admitted: what its item owes is settled. -/
def lineEnded (s : State) (w : ResWait) : State := if cplWait w then cplEnded s w.agent else settleWait false s w

/-! ### Ending what is stalled -/

/-- End every stalled operation of a queue with a status (R261, R268, R269). -/
def endStalled (s : State) (q status : Nat) : State :=
  let x := queue s q
  let ends := x.stalls.map (fun st => (st.agent, readToken q, status))
    ++ (x.line.filter (fun w => w.owed.isNone && !cplWait w)).map (fun w => (w.agent, w.token, status))
  let s1 := setQueue s q { x with stalls := [], line := [] }
  x.line.foldl lineEnded { s1 with pool := { s1.pool with ended := s1.pool.ended ++ ends } }

/-- The parcels of a queue. -/
def parcelsOf (s : State) (q : Nat) : List Nat :=
  (s.pool.parcels.filter (fun e => decide (e.2.q = q))).map (fun e => e.1)

/-- Free every parcel of a queue and empty its lists. -/
def dropParcels (s : State) (q : Nat) : State := (parcelsOf s q).foldl freeParcel s

/-- Abort a queue (R269). -/
def abortQueue (s : State) (q : Nat) : State :=
  let s1 := dropParcels (endStalled s q 0x0A) q
  setQueue s1 q { queue s1 q with lists := [], aborted := true }

/-- A parcel that was handed to a stalled reader and not yet taken by it goes back to its list, where it is the last
one delivered; other stalled readers are served (R261, R277). -/
def unread (s : State) (e : Agent × Nat × Nat) : State :=
  match parcelOf s e.2.2 with
  | none => s
  | some x =>
    let qx := queue s x.q
    let y := qx.list x.prio
    if y.items[y.read - 1]? = some e.2.2 && decide (0 < y.read) then
      let s1 := setParcel (setQueue s x.q (qx.setList x.prio { y with read := y.read - 1 })) e.2.2
        { x with delivered := x.redelivered, redelivered := false }
      let s2 := { s1 with pool := { s1.pool with inbox := removeFirst (fun i => decide (i = e)) s1.pool.inbox } }
      wake (noteNonempty s2 x.q (nextDeliverable s x.q).isSome) x.q
    else s

/-- Withdraw what an agent has stalled: its reads, and of its held-back reservations those that `p` chooses. No parcel is
consumed, and the readers that had stalled behind it are served. -/
def withdrawWhere (s : State) (ag : Agent) (p : ResWait → Bool) : State :=
  let mine (w : ResWait) : Bool := decide (w.agent = ag) && p w
  let gone := s.pool.queues.flatMap (fun e => e.2.line.filter mine)
  let left := s.pool.queues.filter (fun e => e.2.stalls.any (fun st => decide (st.agent = ag)))
  let s1 := gone.foldl (settleWait false) { s with pool := { s.pool with
    queues := mapAll Queue.empty s.pool.queues (fun _ x => { x with
      stalls := x.stalls.filter (fun st => decide (st.agent ≠ ag)),
      line := x.line.filter (fun w => !mine w) })
    ended := s.pool.ended.filter (fun e => decide (e.1 ≠ ag)) } }
  let s2 := (s1.pool.inbox.filter (fun e => decide (e.1 = ag))).foldr (fun e s => unread s e) s1
  left.foldl (fun s e => wake s e.1) s2

/-- A quiesce or reset of an agent's block withdraws all that it has stalled (R261, R268). -/
def withdrawAgent (s : State) (ag : Agent) : State := withdrawWhere s ag (fun _ => true)

/-- The run of an agent ends or is saved: what it has stalled is withdrawn. The completion of an item before it, held back in
its queue's line, is none of it and stays (R259). -/
def withdrawRun (s : State) (ag : Agent) : State := withdrawWhere s ag (fun w => w.owed.isNone)

/-- The completions held back of items that run again are dropped with what they owe: an interrupted run leaves no completion
parcel (R531, R548). -/
def dropOwed (s : State) (quiet : Nat → Bool) : State :=
  let hit (w : ResWait) : Bool := match w.owed with
    | some o => (match o.pid with
      | some pid => quiet pid
      | none => false)
    | none => false
  let gone := (s.pool.queues.flatMap (fun e => e.2.line.filter hit)).filterMap (fun w => w.owed)
  let s1 := { s with pool := { s.pool with
    queues := mapAll Queue.empty s.pool.queues (fun _ x => { x with line := x.line.filter (fun w => !hit w) }) } }
  gone.foldl (fun s o =>
    let s1 := match o.pid with
      | some pid => freeParcel s pid
      | none => s
    match o.stake with
      | some k => freeStake s1 k
      | none => s1) s1

/-- Does an agent wait for the pool: a read or a reservation of its own stalls there, or what it was handed or granted is not
taken yet. -/
def agentHeld (s : State) (ag : Agent) : Bool :=
  s.pool.queues.any (fun e => e.2.stalls.any (fun st => decide (st.agent = ag)) || e.2.line.any (fun w => decide (w.agent = ag)))
    || s.pool.inbox.any (fun e => decide (e.1 = ag)) || s.pool.granted.any (fun e => decide (e.1 = ag))

/-- An agent's record of parcels that it was granted goes with the run that reserved them. -/
def dropGrants (s : State) (ag : Agent) : State :=
  { s with pool := { s.pool with granted := s.pool.granted.filter (fun e => decide (e.1 ≠ ag)) } }

/-- The agents that `f` names and that have something stalled in the pool, or a parcel handed to them and not taken. -/
def stalledAgents (s : State) (f : Agent → Bool) : List Agent :=
  ((s.pool.queues.flatMap (fun e => e.2.stalls.map (fun st => st.agent) ++ e.2.line.map (fun w => w.agent))
    ++ s.pool.inbox.map (fun e => e.1)).filter f).eraseDups

/-- Withdraw what the agents that `f` names have stalled (R261, R268). -/
def withdrawAll (s : State) (f : Agent → Bool) : State := (stalledAgents s f).foldl withdrawAgent s

/-- The agents that act for partition `p` without a page of its own: the field book and the HIF. -/
def servesPtn (p : Nat) : Agent → Bool
  | .fieldBook q => decide (q = p)
  | .hif q _ => decide (q = p)
  | _ => false

/-- ENABLE is cleared (R262). -/
def disableQueue (s : State) (q : Nat) : State := setQf (endStalled s q 0x85) q F.pq_ENABLE 0

/-- ENABLE goes from 0 to 1: READ and MARK take the value of HEAD in every list (R262). -/
def enableQueue (s : State) (q : Nat) : State :=
  let before := (nextDeliverable s q).isSome && qf s q F.pq_ENABLE == 1
  let x := queue s q
  let s1 := setQueue (setQf s q F.pq_ENABLE 1) q
    { x with lists := x.lists.map (fun e => (e.1, { e.2 with read := 0, mark := 0 })) }
  wake (noteNonempty s1 q before) q

/-- A reset of a group page, or a change of its owner, on one queue (R271). -/
def resetQueue (s : State) (q : Nat) : State :=
  let s1 := dropParcels (endStalled s q 0x01) q
  setQf (setQueue s1 q { queue s1 q with lists := [], aborted := false }) q F.pq_ENABLE 0

/-! ### The pool's statuses in other blocks' completions (R18) -/

/-- The codes of R17 whose meanings may hold of an item that a queue turned away: QUOTA_EXCEEDED, ABORTED and STALE_CONFIG. -/
def failCodes : List Nat := [0x07, 0x0A, 0x0C]

/-- The status of an item whose operation on the pool ended with `c`. A code of R17 is the item's too. A code of the pool's own
carries its meaning in the pool's completions only (R18), and the spec names none in its place: a free value chooses among
the codes of R17 whose meanings may hold and `own`, those of the item's block (log entry 143). -/
def itemCode (s : State) (own : List Nat) (c : Nat) : Nat × State :=
  if c < 0x80 then (c, s)
  else
    let l := failCodes ++ own
    (l.getD (Config.freeValue s.fresh % l.length) 0x0A, nextFresh s)

/-- Why the parcels that an item staged cannot all be committed: a queue that is off or aborted, or a parcel that an abort or a
reset of its queue freed (R262, R269, R271). -/
def stagedStop (s : State) (staged : List Nat) : Option Nat :=
  staged.findSome? (fun pid => match parcelOf s pid with
    | some x => queueStop s x.q
    | none => some 0x81)

/-- The status with which an item ends: DONE only where its outputs can all be committed (R17, R19). -/
def endStatus (s : State) (staged : List Nat) (status : Nat) : Nat × State :=
  if status ≠ 0 then (status, s)
  else match stagedStop s staged with
    | some c => itemCode s [] c
    | none => (0, s)

/-- The parcels that an item staged are committed in order where it is DONE, and withdrawn otherwise (R371, R389). -/
def endStaged (s : State) (staged : List Nat) (status : Nat) : State :=
  staged.foldl (fun s pid => match parcelOf s pid with
    | some x => (commitOp s pid (if status = 0 then x.n else 0)).2
    | none => s) s

/-- An item's completion goes into the parcel reserved for it at acceptance; then its own parcel is released and its stake freed
(R232, R259, R264). A host item takes the status where the completion was posted, and DONE where its queue turned it away
(R517). -/
def postReserved (s : State) (cpl : Nat) (bytes : List Byte) (pid stake status : Nat) : State :=
  let r := commitOp (writePayload s cpl 0 bytes) cpl bytes.length
  freeStake (hwRelease r.2 pid (if r.1 = 0x00 then status else 0x00)) stake

end Sys2Proof.Machine
end

