-- ==== Sys2Proof/Machine/PlatCore.lean ====
section
/-! DEFINITION. The pattern images as the plat reads them (R313 to R318), and the slots: reserving, ending grants and
completing (R337 to R339). -/

namespace Sys2Proof.Machine

/-- A cell entry (R315). -/
structure Cell where
  valid : Bool
  config : Nat
  ptn : Nat
  cplQ : Nat
  tag : Nat
deriving DecidableEq, Repr

/-- A row header (R317). -/
structure RowHdr where
  first : Nat
  count : Nat
  dst : Nat
  hbm : Nat
  rt : Nat
deriving DecidableEq, Repr

/-- A grant entry (R318). -/
structure Grant where
  kind : Nat
  shape : Nat
  unit : Nat
  cell : Nat
  slot : Nat
  startOff : Nat
  endOff : Nat
  entry : Nat
  qin : Nat
  qout : Nat
  arg : Nat
deriving DecidableEq, Repr

/-- `n` bytes of a pattern image at an offset, as a number. -/
def imgNat (s : State) (p o n : Nat) : Nat := leNat (loadBytes s.plat.images (0x100000 * p + o) n)

/-- Cell entry `c` of image `p` (R314, R315). -/
def cellOf (s : State) (p c : Nat) : Cell :=
  let o := 32 * c
  { valid := bitAt (imgNat s p o 1) 0, config := imgNat s p (o + 1) 1, ptn := bits (imgNat s p (o + 2) 1) 0 6,
    cplQ := bits (imgNat s p (o + 4) 2) 0 14, tag := imgNat s p (o + 8) 4 }

/-- Row header `r` of image `p` (R314, R317). -/
def rowOf (s : State) (p r : Nat) : RowHdr :=
  let o := 0x8000 + 64 * r
  { first := bits (imgNat s p o 2) 0 14, count := bits (imgNat s p (o + 2) 2) 0 13, dst := imgNat s p (o + 4) 2,
    hbm := imgNat s p (o + 8) 4, rt := bits (imgNat s p (o + 12) 3) 0 20 }

/-- Grant entry `i` of image `p` (R314, R318). -/
def grantOf (s : State) (p i : Nat) : Grant :=
  let o := 0x10000 + 32 * i
  { kind := bits (imgNat s p o 1) 0 3, shape := bits (imgNat s p (o + 1) 1) 0 1,
    unit := bits (imgNat s p (o + 2) 2) 0 10, cell := bits (imgNat s p (o + 4) 2) 0 10, slot := imgNat s p (o + 6) 1,
    startOff := bits (imgNat s p (o + 8) 4) 0 17, endOff := bits (imgNat s p (o + 12) 4) 0 17,
    entry := bits (imgNat s p (o + 16) 2) 0 11, qin := bits (imgNat s p (o + 18) 2) 0 14,
    qout := bits (imgNat s p (o + 20) 2) 0 14, arg := imgNat s p (o + 24) 8 }

/-- The slot length in rows of a configuration code, and 0 for a reserved code (R316). -/
def slotLen (c : Nat) : Nat :=
  if c = 0x0A then 16 else if c = 0x0B then 2 else if c = 0x04 then 4 else if 1 ≤ c ∧ c ≤ 9 then 8 else 0

/-- The weight in half-units of a configuration code (R316). -/
def cellWeight : Nat → Nat
  | 0x01 => 2 | 0x02 => 20 | 0x03 => 1 | 0x04 => 4 | 0x05 => 3 | 0x06 => 10 | 0x07 => 14 | 0x08 => 1 | 0x09 => 1
  | 0x0A => 1 | 0x0B => 4 | _ => 0

/-- The half-units of the valid cells of an image (R11, R344), all of them or those of one partition. -/
def imageLoad (s : State) (p : Nat) (only : Option Nat) : Nat :=
  (List.range 1024).foldl (fun n c =>
    let x := cellOf s p c
    if x.valid && (match only with
      | none => true
      | some q => decide (x.ptn = q)) then n + cellWeight x.config else n) 0

/-- The grants of row `r` of an image, by index. -/
def rowGrants (s : State) (p r : Nat) : List Nat :=
  let h := rowOf s p r
  (List.range h.count).map (fun k => h.first + k)

/-- The stations that a grant uses: one for KIND 6, the even and the odd member for KIND 7. -/
def grantStations (g : Grant) : List Nat :=
  if g.kind = 6 then [g.unit] else if g.kind = 7 then [g.unit, g.unit + 1] else []

/-- The FP_UNIT indexes that a grant uses. -/
def grantUnits (g : Grant) : List Nat := if g.kind = 7 then [g.unit, g.unit + 1] else [g.unit]

/-- The rows that a slot of a cell covers (R316). -/
def slotRows (config slot : Nat) : List Nat := (List.range (slotLen config)).map (fun k => slotLen config * slot + k)

/-- The grants of an image that serve a slot of a cell. -/
def slotGrants (s : State) (p c slot : Nat) : List Nat :=
  ((slotRows (cellOf s p c).config slot).flatMap (fun r => rowGrants s p r)).filter (fun i =>
    decide ((grantOf s p i).cell = c) && decide ((grantOf s p i).slot = slot))

/-- Is a pattern image COMMITTED. -/
def committed (s : State) (p : Nat) : Bool := mapGet false s.plat.committed p

/-- RUNNING (R328, R330). -/
def platRunning (s : State) : Bool := rd s .plt F.plt_RUNNING == 1

/-- ACTIVE_PATTERN (R329). -/
def activePattern (s : State) : Nat := rd s .plt F.plt_ACTIVE_PATTERN

/-- Does any COMMITTED image, running or not, hold a grant that satisfies `p` (R327). -/
def committedGrant (s : State) (p : Nat → Grant → Bool) : Bool :=
  (List.range 4).any (fun im => committed s im && (List.range 160).any (fun r =>
    (rowGrants s im r).any (fun i => p im (grantOf s im i))))

/-- Is a unit used by the committed plat (R327). -/
def unitUsed (s : State) (u : Nat) : Bool := committedGrant s (fun _ g => (grantUnits g).contains u)

/-- Does a COMMITTED image hold a valid cell of partition `q`. -/
def cellCommitted (s : State) (q : Nat) : Bool :=
  (List.range 4).any (fun im => committed s im && (List.range 1024).any (fun c =>
    (cellOf s im c).valid && decide ((cellOf s im c).ptn = q)))

/-- Does a COMMITTED image hold a grant whose cell belongs to partition `q` (check 0x47). -/
def ptnGranted (s : State) (q : Nat) : Bool := committedGrant s (fun im g => decide ((cellOf s im g.cell).ptn = q))

/-- Has the unit of a grant been condemned by an injected fault (R561, R570). -/
def unitInjected (s : State) (u : Nat) : Bool := bitAt (unitEntry s u) 6

/-- The agent under which the plat uses the pool. -/
def platAgent : Agent := .plat

/-- A slot's first grant: the plat reserves a 16-byte completion parcel on SLOT_CPL_Q; a reservation that is not
admitted counts in CPL_MISSED (R338), and so does one that is not made because the queue is not the cell's partition's any
longer (R251, log entry 167). -/
def slotBegin (s : State) (p frame c slot : Nat) : State :=
  if s.plat.slots.any (fun x => decide (x.cell = c) && decide (x.slot = slot) && decide (x.frame = frame)) then s
  else
    let x := cellOf s p c
    let run (cpl : Option Nat) : SlotRun :=
      { cell := c, slot := slot, frame := frame, pattern := p, left := slotGrants s p c slot, status := none,
        endedAt := 0, inj := false, cpl := cpl }
    match (if qOwner s x.cplQ = x.ptn then reserveNow s x.cplQ 16 (qf s x.cplQ F.pq_HW_PRIO) x.ptn 0xFFFF
      else (.status 0x80, s)) with
    | (.parcel pid, s1) => { s1 with plat := { s1.plat with slots := s1.plat.slots ++ [run (some pid)] } }
    | (_, s1) =>
      addSat { s1 with plat := { s1.plat with slots := s1.plat.slots ++ [run none] } } (.ptn x.ptn) F.ptn_CPL_MISSED 1

/-- The 16 bytes of a slot completion (R338). -/
def slotBytes (st c tag frame slot : Nat) : List Byte :=
  natLE 1 st ++ natLE 1 0 ++ natLE 2 c ++ natLE 4 tag ++ natLE 4 frame ++ natLE 1 slot ++ natLE 3 0

/-- A slot completes: its completion parcel is posted, and the counters of the plat and of its partition count it
(R337, R338, R348, R351, R559). -/
def slotComplete (s : State) (x : SlotRun) : State :=
  let st := x.status.getD 0x00
  let ce := cellOf s x.pattern x.cell
  let s1 := match x.cpl with
    | none => s
    | some pid => (commitOp (writePayload s pid 0 (slotBytes st x.cell ce.tag x.frame x.slot)) pid 16).2
  if st = 0x00 then
    addSat (addSat s1 .plt F.plt_SLOTS_DONE 1) (.ptn ce.ptn) F.ptn_SLOTS_DONE 1
  else if st = 0x08 then
    bumpHealth (setEvt (addSat (addSat s1 .plt F.plt_SLOTS_DROPPED 1) (.ptn ce.ptn) F.ptn_SLOTS_DROPPED 1) .plt 18)
      6 x.inj
  else s1

/-- The rank of a completion code among conditions detected in one cycle, lowest first: by its precedence value, then the
block-specific codes by value (R17, R20). -/
def codeRank (c : Nat) : Nat :=
  match c with
  | 0x0B => 1 | 0x02 => 2 | 0x04 => 3 | 0x03 => 4 | 0x09 => 5 | 0x08 => 6 | 0x07 => 7 | 0x0C => 8 | 0x0A => 9
  | _ => 16 + c

/-- Settle a grant that ends at tick `t` in its slot: of the statuses other than DONE the one of the grant that ended first
stays, and of grants that end in the same cycle the one that R20 ranks first (R337). -/
def SlotRun.settle (x : SlotRun) (t i st : Nat) (inj : Bool) : SlotRun :=
  let y := { x with left := x.left.filter (fun k => decide (k ≠ i)) }
  let first : Bool := match x.status with
    | none => true
    | some c => decide (x.endedAt = t) && decide (codeRank st < codeRank c)
  if st ≠ 0 && first then { y with status := some st, endedAt := t, inj := inj } else y

/-- Grant `i` of a frame ends with a status: its slot settles, and completes with its last grant (R337). -/
def settleGrant (s : State) (c slot frame i st : Nat) (inj : Bool) : State :=
  match s.plat.slots.find? (fun x => decide (x.cell = c) && decide (x.slot = slot) && x.left.contains i
      && (decide (x.frame = frame) || decide (x.frame + 1 = frame))) with
  | none => s
  | some x =>
    let y := x.settle s.mer.frc i st inj
    if y.left.isEmpty then
      slotComplete { s with plat := { s.plat with slots := removeFirst (fun z => decide (z = x)) s.plat.slots } } y
    else { s with plat := { s.plat with slots := replaceFirst (fun z => decide (z = x)) (fun _ => y) s.plat.slots } }

/-- The work item that holds a stake (R319). -/
def itemOfStake (s : State) (k : Nat) : Option WorkItem := s.plat.items.find? (fun w => decide (w.stake = k))

/-- A dispatched work item ends: its stake is freed and its grant settles with the status (R319, R337, R346). -/
def endWork (s : State) (w : WorkItem) (st : Nat) (inj : Bool) : State :=
  let g := grantOf s w.pattern w.grant
  let s1 := { s with plat := { s.plat with items := removeFirst (fun x => decide (x = w)) s.plat.items } }
  settleGrant (freeStake s1 w.stake) g.cell g.slot w.frame w.grant st inj

end Sys2Proof.Machine
end

