-- ==== Sys2Proof/Machine/CduCore.lean ====
section
/-! DEFINITION. Coding-pool units and the field book: contexts (R410), HARQ buffers and their locks
(R401 to R405), and starting and ending an item (R388 to R390, R403). -/

namespace Sys2Proof.Machine

/-! ### The field book (R409, R410) -/

/-- The 256 bytes of context `c`. -/
def ctxBytes (s : State) (c : Nat) : List Byte := loadBytes s.book.ctx (256 * c) 256

/-- HARQ buffer `b`. -/
def harqBuf (s : State) (b : Nat) : HarqBuf := mapGet HarqBuf.blank s.book.harq b

/-- Store HARQ buffer `b`. -/
def setHarq (s : State) (b : Nat) (x : HarqBuf) : State :=
  { s with book := { s.book with harq := mapSet HarqBuf.blank s.book.harq b x } }

/-- The current copy of a buffer. -/
def HarqBuf.current (x : HarqBuf) : List Int := if x.sel = 0 then x.copy0 else x.copy1

/-- Clear the written flag of a buffer (R412). -/
def clearWritten (s : State) (b : Nat) : State := setHarq s b { harqBuf s b with written := false }

/-- HARQ_RESET of a buffer: at once, or after its lock is released (R405). -/
def resetHarq (s : State) (b : Nat) : State :=
  if (mapFind s.book.locks b).isSome then { s with book := { s.book with resets := s.book.resets ++ [b] } }
  else clearWritten s b

/-- Zero the contexts from `lo` to `hi − 1`, and the buffers from `blo` to `bhi − 1` with their written flags (R414). -/
def zeroBook (s : State) (lo hi blo bhi : Nat) : State :=
  { s with book := { s.book with
    ctx := mapDrop s.book.ctx (256 * lo) (256 * hi)
    harq := mapDrop s.book.harq blo bhi
    cache := s.book.cache.filter (fun c => !(decide (lo ≤ c) && decide (c < hi)))
    bad := s.book.bad.filter (fun k => !(decide (lo ≤ k / 4) && decide (k / 4 < hi)))
    soft := s.book.soft.filter (fun k => !(decide (lo ≤ k / 4) && decide (k / 4 < hi)))
    resets := s.book.resets.filter (fun b => !(decide (blo ≤ b) && decide (b < bhi))) } }

/-- A number of a range that is no longer in another range, as bounds to zero: what lies in `[b, b+n)` and not in
`[b', b'+n')`, below and above it. -/
def lostRanges (b n b' n' : Nat) : List (Nat × Nat) :=
  if n' = 0 then [(b, b + n)] else [(b, min (b + n) b'), (max b (b' + n'), b + n)]

/-- What follows the apply of group I (R414): the contexts and buffers that left the partition's ranges are zeroed. -/
def bookApplied (old s : State) (p : Nat) : State :=
  let c := lostRanges (ef old (.ptn p) F.ptn_FB_BASE) (ef old (.ptn p) F.ptn_FB_COUNT)
    (ef s (.ptn p) F.ptn_FB_BASE) (ef s (.ptn p) F.ptn_FB_COUNT)
  let h := lostRanges (ef old (.ptn p) F.ptn_HARQ_BASE) (ef old (.ptn p) F.ptn_HARQ_COUNT)
    (ef s (.ptn p) F.ptn_HARQ_BASE) (ef s (.ptn p) F.ptn_HARQ_COUNT)
  let s1 := c.foldl (fun s e => zeroBook s e.1 e.2 0 0) s
  h.foldl (fun s e => zeroBook s 0 0 e.1 e.2) s1

/-! ### Items (R388 to R390, R403) -/

/-- The agent of a coding-pool unit. -/
def cduAg (i : Nat) : Agent := .cdu i

/-- Release the locks that unit `i` holds, and act on the HARQ_RESETs that waited for them (R405). -/
def unlockAll (s : State) (i : Nat) : State :=
  let mine := (s.book.locks.filter (fun e => decide (e.2 = i))).map (fun e => e.1)
  let s1 := { s with book := { s.book with locks := s.book.locks.filter (fun e => decide (e.2 ≠ i)) } }
  mine.foldl (fun s b =>
    if s.book.resets.contains b then
      clearWritten { s with book := { s.book with resets := s.book.resets.filter (fun x => decide (x ≠ b)) } } b
    else s) s1

/-- A coding-pool item starts (R388, R389). -/
def cduStart (s : State) (i : Nat) (g : Grant) (w : WorkItem) : State :=
  setCdu s i { CdUnit.idle with
    item := some w, entry := g.entry, ptn := (cellOf s w.pattern g.cell).ptn, cell := g.cell, arg := g.arg,
    qin := g.qin, qout := g.qout }

/-- The item of a unit ends with a status (R389, R390, R403): with DONE the staged parcels are committed in job order and
the HARQ write-backs applied, otherwise both are discarded, with a parcel that was granted and not filled; the parcels it
read are released, and no completion is posted at that (R517). -/
def cduFinish (s : State) (i status : Nat) (inj : Bool) : State :=
  let u := cdu s i
  match u.item with
  | none => s
  | some w =>
    let g := takeGranted (withdrawAgent s (cduAg i)) (cduAg i) 1
    let s1 := match g.1 with
      | some pid => (commitOp g.2 pid 0).2
      | none => g.2
    let r := endStatus s1 u.staged status
    let st := r.1
    let s2 := endStaged r.2 u.staged st
    let s3 := if st = 0 then u.harqWr.foldl (fun s e => setHarq s e.1 e.2) s2 else s2
    let s4 := u.taken.foldl (fun s pid => hwRelease s pid 0x00) (unlockAll s3 i)
    let s5 := setCdu s4 i CdUnit.idle
    let s6 := if st = 0 then addSat s5 (.cdu i) F.cdu_ITEMS_DONE 1
      else setEvt (addSat s5 (.cdu i) F.cdu_ITEMS_FAILED 1) (.cdu i) 16
    endWork s6 w st inj

/-- The item ends with the status of its operation on the pool (R18, R394). -/
def cduPoolEnd (s : State) (i c : Nat) : State :=
  let r := itemCode s [] c
  cduFinish r.2 i r.1 false

end Sys2Proof.Machine
end

