-- ==== Sys2Proof/Machine/Arith.lean ====
section
/-! DEFINITION. Exact binary arithmetic: decoding of the number formats (R115, R116), the rounding RN and the special
values (R120, R126), conversion to the narrow formats (R145, R146), RI and CR (R124, R144), and EXP2 (R147). -/

namespace Sys2Proof.Machine

/-- A floating-point value: NaN, an infinity, or (−1)^neg × mag × 2^e exactly. -/
inductive FV where
  | nan
  | inf (neg : Bool)
  | fin (neg : Bool) (mag : Nat) (e : Int)
deriving DecidableEq, Repr

/-- The parameters of a floating-point format: exponent and mantissa field widths, bias, and how its top exponent is
used: 0 none special, 1 Inf and NaN as in IEEE 754, 2 NaN only in the all-ones code (E4M3). -/
structure FFmt where
  eb : Nat
  mb : Nat
  bias : Nat
  special : Nat
deriving DecidableEq, Repr

/-- The floating-point station formats by FMT code (R115), and binary32. -/
def ffmt : Nat → Option FFmt
  | 0x0 => some ⟨4, 3, 7, 2⟩
  | 0x1 => some ⟨5, 2, 15, 1⟩
  | 0x3 => some ⟨2, 3, 1, 0⟩
  | 0x4 => some ⟨3, 2, 3, 0⟩
  | 0x5 => some ⟨2, 1, 1, 0⟩
  | 0x7 => some ⟨8, 7, 127, 1⟩
  | 0x8 => some ⟨5, 10, 15, 1⟩
  | _ => none

/-- binary32. -/
def b32 : FFmt := ⟨8, 23, 127, 1⟩

/-- The value of a code (R115). -/
def decodeF (f : FFmt) (c : Nat) : FV :=
  let neg := bitAt c (f.eb + f.mb)
  let ex := bits c f.mb f.eb
  let m := bits c 0 f.mb
  if f.special = 1 && ex == 2 ^ f.eb - 1 then (if m = 0 then .inf neg else .nan)
  else if f.special = 2 && ex == 2 ^ f.eb - 1 && m == 2 ^ f.mb - 1 then .nan
  else if ex = 0 then .fin neg m (1 - (f.bias : Int) - f.mb)
  else .fin neg (2 ^ f.mb + m) ((ex : Int) - f.bias - f.mb)

/-- The signed integer `mag × 2^(e − q)` of a finite value, for a common exponent `q ≤ e`. -/
def alignI (neg : Bool) (mag : Nat) (e q : Int) : Int :=
  let x : Int := (mag * 2 ^ (e - q).toNat : Nat)
  if neg then -x else x

/-- The exact sum of a list of values with the special-value rules of R126; a zero sum is +0 unless every addend is
−0 (R120). -/
def sumFV (l : List FV) : FV :=
  if l.any (fun v => decide (v = .nan)) then .nan
  else
    let pinf := l.any (fun v => decide (v = .inf false))
    let ninf := l.any (fun v => decide (v = .inf true))
    if pinf && ninf then .nan
    else if pinf then .inf false
    else if ninf then .inf true
    else
      let es := l.filterMap (fun v => match v with
        | .fin _ _ e => some e
        | _ => none)
      let q := es.foldl (fun a b => if b < a then b else a) (es.headD 0)
      let t : Int := l.foldl (fun a v => match v with
        | .fin n m e => a + alignI n m e q
        | _ => a) 0
      if t = 0 then .fin (l.all (fun v => match v with
        | .fin true 0 _ => true
        | _ => false)) 0 0
      else .fin (decide (t < 0)) t.natAbs q

/-- The exact product of two values (R118); a product of an infinity and zero is NaN (R126). -/
def mulFV (a b : FV) : FV :=
  match a, b with
  | .nan, _ => .nan
  | _, .nan => .nan
  | .inf x, .inf y => .inf (xor x y)
  | .inf x, .fin y m _ => if m = 0 then .nan else .inf (xor x y)
  | .fin x m _, .inf y => if m = 0 then .nan else .inf (xor x y)
  | .fin x m e, .fin y n g => .fin (xor x y) (m * n) (e + g)

/-- `mag × 2^e` rounded to a multiple of `2^q`, ties to even: the multiple. -/
def roundQuantum (mag : Nat) (e q : Int) : Nat :=
  if q ≤ e then mag * 2 ^ (e - q).toNat
  else
    let d := 2 ^ (q - e).toNat
    let k := mag / d
    let r := mag % d
    if d < 2 * r then k + 1 else if 2 * r = d then (if k % 2 = 0 then k else k + 1) else k

/-- The exponent of the last place that a format gives a nonzero magnitude, with gradual underflow. -/
def quantumOf (f : FFmt) (mag : Nat) (e : Int) : Int :=
  let top : Int := (Nat.log2 mag : Int) + e
  let q := top - f.mb
  let qmin : Int := 1 - (f.bias : Int) - f.mb
  if q < qmin then qmin else q

/-- The code of `k × 2^q`, where `q` is the format's quantum for it. -/
def packF (f : FFmt) (neg : Bool) (k : Nat) (q : Int) : Nat :=
  let s := ofBool neg * 2 ^ (f.eb + f.mb)
  if k < 2 ^ f.mb then s + k
  else s + ((q + f.bias + f.mb).toNat * 2 ^ f.mb + (k - 2 ^ f.mb))

/-- The largest finite code's magnitude bits of a format. -/
def maxCode (f : FFmt) : Nat :=
  let all := 2 ^ (f.eb + f.mb)
  if f.special = 1 then (2 ^ f.eb - 1) * 2 ^ f.mb - 1 else if f.special = 2 then all - 2 else all - 1

/-- Round a finite value to a format: the magnitude code, which may lie above the largest finite code. -/
def roundMag (f : FFmt) (mag : Nat) (e : Int) : Nat :=
  if mag = 0 then 0
  else
    let q := quantumOf f mag e
    packF f false (roundQuantum mag e q) q

/-- RN: round to binary32 (R120). Every NaN is 0x7FC0_0000: R127 says so of ACC. DESIGN CHOICE (log entry 154): so is a NaN that the
stage writes for RAW32 or as a row sum of ROWEXP, whose bits the spec does not give. -/
def rn (v : FV) : Nat :=
  match v with
  | .nan => 0x7FC00000
  | .inf neg => ofBool neg * 0x80000000 + 0x7F800000
  | .fin neg mag e =>
    let c := roundMag b32 mag e
    ofBool neg * 0x80000000 + (if c < 0x7F800000 then c else 0x7F800000)

/-- A binary32 word as a value. -/
def fv (w : Nat) : FV := decodeF b32 w

/-- RN of a sum of binary32 words. -/
def addB (a b : Nat) : Nat := rn (sumFV [fv a, fv b])

/-- RN of a product of binary32 words. -/
def mulB (a b : Nat) : Nat := rn (mulFV (fv a) (fv b))

/-- The negation of a value. -/
def negFV : FV → FV
  | .nan => .nan
  | .inf n => .inf (!n)
  | .fin n m e => .fin (!n) m e

/-- The value of an integer. -/
def ofInt (x : Int) : FV := .fin (decide (x < 0)) x.natAbs 0

/-- A quotient with a sticky bit: exact enough for every rounding to binary32. -/
def divFV (a b : FV) : FV :=
  match a, b with
  | .nan, _ => .nan
  | _, .nan => .nan
  | .inf _, .inf _ => .nan
  | .inf x, .fin y _ _ => .inf (xor x y)
  | .fin x _ _, .inf y => .fin (xor x y) 0 0
  | .fin x m e, .fin y n g =>
    if n = 0 then (if m = 0 then .nan else .inf (xor x y))
    else
      let sh := 64 + Nat.log2 n
      let num := m * 2 ^ sh
      let q := num / n
      .fin (xor x y) (2 * q + ofBool (num % n != 0)) (e - g - sh - 1)

/-- Is the value NaN. -/
def isNan (v : FV) : Bool := decide (v = .nan)

/-- Is the value negative or −0. -/
def isNeg : FV → Bool
  | .nan => false
  | .inf n => n
  | .fin n _ _ => n

/-- Compare magnitudes of two values that are not NaN. -/
def absLt (a b : FV) : Bool :=
  match a, b with
  | .fin _ m e, .fin _ n g =>
    let q := if e < g then e else g
    decide (m * 2 ^ (e - q).toNat < n * 2 ^ (g - q).toNat)
  | .fin _ _ _, .inf _ => true
  | _, _ => false

/-- Is `a` less than `b`, as numbers that are not NaN; −0 counts below +0, as IEEE 754 maximum has it. -/
def numLt (a b : FV) : Bool :=
  match isNeg a, isNeg b with
  | true, true => absLt b a
  | false, false => absLt a b
  | true, false => true
  | false, true => false

/-- IEEE 754 maximum of two values: NaN when either is (R147). -/
def maxFV (a b : FV) : FV := if isNan a || isNan b then .nan else if numLt a b then b else a

/-- Round to an integer under RI: 0 nearest even, 1 nearest away, 2 toward zero, 3 toward −∞ (R144); the argument is
`mag × 2^e` with a sign. -/
def roundRI (mode : Nat) (neg : Bool) (mag : Nat) (e : Int) : Int :=
  if 0 ≤ e then alignI neg mag e 0
  else
    let d := 2 ^ (-e).toNat
    let k := mag / d
    let r := mag % d
    let a := if mode = 0 then
        (if d < 2 * r then k + 1 else if 2 * r = d then (if k % 2 = 0 then k else k + 1) else k)
      else if mode = 1 then (if d ≤ 2 * r then k + 1 else k)
      else if mode = 2 then k
      else (if neg && r != 0 then k + 1 else k)
    if neg then -(a : Int) else (a : Int)

/-- CR: divide by 2¹⁵, to nearest, halves to even (R124). -/
def cr (v : Int) : Int := roundRI 0 (decide (v < 0)) v.natAbs (-15)

/-- SAT: clamp to 32 bits (R123). -/
def sat32 (v : Int) : Int := clampI (-2147483648) 2147483647 v

/-- The words `2^(2^−i)` for `i` from 1 to `n`, as integers over `2^prec`, by repeated square roots. -/
def rootsOf2 (prec : Nat) : Nat → Nat → List Nat
  | 0, _ => []
  | n + 1, c =>
    let r := Nat.sqrt (c * 2 ^ prec)
    r :: rootsOf2 prec n r

/-- The fraction bits that EXP2 is computed with before its one rounding. -/
def expPrec : Nat := 320

/-- 2^x correctly rounded to binary32 (R147). `x` is an integer part and a fraction `frac ÷ 2^fb`. A whole `x` is exact;
no other binary32 `x` gives a value within 2⁻³⁰⁰ of a rounding boundary, relatively, so the truncated product rounds as
the exact power does. -/
def exp2Parts (n : Int) (frac fb : Nat) : FV :=
  if frac = 0 then .fin false 1 n
  else
    let roots := rootsOf2 expPrec fb (2 * 2 ^ expPrec)
    let p := (roots.zipIdx).foldl (fun a e => if bitAt frac (fb - 1 - e.2) then a * e.1 / 2 ^ expPrec else a)
      (2 ^ expPrec)
    .fin false (2 * p + 1) (n - expPrec - 1)

/-- EXP2 of a binary32 word (R147). -/
def exp2 (w : Nat) : Nat :=
  match fv w with
  | .nan => 0x7FC00000
  | .inf true => 0
  | .inf false => 0x7F800000
  | .fin neg mag e =>
    if mag = 0 then 0x3F800000
    else if 0 ≤ e || decide ((8 : Int) ≤ Nat.log2 mag + e) then
      (if 8 ≤ (Nat.log2 mag : Int) + e then (if neg then 0 else 0x7F800000)
        else rn (exp2Parts (alignI neg mag e 0) 0 0))
    else
      let fb := (-e).toNat
      let x : Int := if neg then -(mag : Int) else mag
      let n := x / ((2 ^ fb : Nat) : Int)
      rn (exp2Parts n (x % ((2 ^ fb : Nat) : Int)).toNat fb)

/-- CV: a value to a narrow float code (R145), and whether it counts as saturated (R150). -/
def cvFloat (f : FFmt) (satFp : Bool) (v : FV) : Nat × Bool :=
  let sb := 2 ^ (f.eb + f.mb)
  let ovf (neg : Bool) : Nat :=
    if f.special = 1 && !satFp then ofBool neg * sb + (2 ^ f.eb - 1) * 2 ^ f.mb else ofBool neg * sb + maxCode f
  match v with
  | .nan => (if f.special = 2 then 0x7F else (2 ^ f.eb - 1) * 2 ^ f.mb + 2 ^ (f.mb - 1), false)
  | .inf neg => (ovf neg, true)
  | .fin neg mag e =>
    let c := roundMag f mag e
    if c ≤ maxCode f then (ofBool neg * sb + c, false) else (ovf neg, true)

/-- The scale byte of an MX block of values (R146): EMAX is the element format's. -/
def mxScale (emax : Int) (l : List FV) : Nat :=
  if l.any isNan then 0xFF
  else
    let mx := l.foldl (fun a v => if absLt a v then v else a) (.fin false 0 0)
    match mx with
    | .inf _ => 254
    | .fin _ m e => if m = 0 then 0 else (clampI 0 254 ((Nat.log2 m : Int) + e - emax + 127)).toNat
    | .nan => 0xFF

/-- An MX element code under scale byte `x`, and whether it saturated (R146, R150). -/
def mxElem (f : FFmt) (x : Nat) (v : FV) : Nat × Bool :=
  let sb := 2 ^ (f.eb + f.mb)
  if x = 0xFF then (0, false)
  else match v with
    | .nan => (0, false)
    | .inf neg => (ofBool neg * sb + maxCode f, true)
    | .fin neg mag e =>
      let c := roundMag f mag (e - ((x : Int) - 127))
      if c ≤ maxCode f then (ofBool neg * sb + c, false) else (ofBool neg * sb + maxCode f, true)

end Sys2Proof.Machine
end

