-- ==== Sys2Proof/Machine/Operands.lean ====
section
/-! DEFINITION. The operand forms of the stations: pass geometry (R81), the streaming and stationary layouts (R85 to
R88), the fields of an instruction (R97), and the slots that an access touches (R89 to R93). -/

namespace Sys2Proof.Machine

/-! ### Geometry (R81, R116) -/

/-- Core cycles per streaming row. -/
def fmtC (f : Nat) : Nat := if f = 7 || f = 8 then 2 else if f = 9 || f = 10 then 4 else 1
/-- Line bytes of the store images. -/
def fmtLB (f : Nat) : Nat := if f ≤ 6 then 128 else 256
/-- Bytes from one lane to the next in a line. -/
def fmtE (f : Nat) : Nat := if f = 10 then 4 else if 7 ≤ f then 2 else 1
/-- Array rows, and columns, that the format uses: 128, or 64 for CINT16. -/
def fmtD (f : Nat) : Nat := if f = 10 then 64 else 128
/-- The microscaled formats. -/
def fmtMX (f : Nat) : Bool := f == 3 || f == 4 || f == 5
/-- The 4-bit formats. -/
def fmtNib (f : Nat) : Bool := f == 5 || f == 6
/-- The integer formats with INT32 results. -/
def fmtInt (f : Nat) : Bool := f == 2 || f == 6 || f == 9
/-- Scale lines that follow a stationary block (R88). -/
def fmtScaleLines (f : Nat) : Nat := if f = 5 then 8 else if fmtMX f then 4 else 0
/-- Lines of the scale image from one block of a row to the next (R87). -/
def fmtScaleStep (f : Nat) : Nat := if f = 5 then 16 else 32

/-! ### Instruction fields (R97) -/

/-- OPC. -/
def iOpc (w : Nat) : Nat := bits w 56 8
/-- Ga, a register number. -/
def iA (w : Nat) : Nat := bits w 52 4
/-- Gb. -/
def iB (w : Nat) : Nat := bits w 48 4
/-- Gc. -/
def iC (w : Nat) : Nat := bits w 20 4
/-- FMT or OFMT. -/
def iFmt (w : Nat) : Nat := bits w 44 4
/-- The bits that an instruction of a known OPC may set, OPC apart; `none` for any other OPC. -/
def usedBits (w : Nat) : Option (List (Nat × Nat)) :=
  let mx := fmtMX (iFmt w)
  match iOpc w with
  | 0x00 => some []
  | 0x01 => some [(52, 4), (0, 32)]
  | 0x02 => some [(52, 4), (48, 4), (0, 32)]
  | 0x03 => some [(52, 4), (0, 11)]
  | 0x04 => some [(0, 11)]
  | 0x10 => some [(52, 4), (44, 4), (40, 1)]
  | 0x11 => some ([(52, 4), (48, 4), (44, 4), (43, 1), (32, 8)] ++ if mx then [(20, 4)] else [])
  | 0x20 => some ([(52, 4), (48, 4), (44, 4), (42, 2), (41, 1), (32, 8), (24, 6)]
      ++ if mx || bits w 42 2 == 1 || bits w 42 2 == 2 then [(20, 4)] else [])
  | 0x30 => some [(16, 6)]
  | 0x31 => some [(16, 6)]
  | 0x32 => some [(52, 4), (48, 4), (8, 8), (0, 2)]
  | 0x33 => some []
  | 0x3F => some []
  | _ => none

/-- The word with the listed bit fields cleared. -/
def clearBits (w : Nat) (l : List (Nat × Nat)) : Nat := l.foldl (fun a e => setBits a e.1 e.2 0) w

/-- Does the instruction break a rule of R97 that its word alone shows: an unknown OPC, an unused field that is not 0,
or a reserved FMT of an LDW or MMA. -/
def wordIllegal (w : Nat) : Bool :=
  match usedBits w with
  | none => true
  | some l => decide (clearBits w ((56, 8) :: l) ≠ 0) || ((iOpc w == 0x10 || iOpc w == 0x11) && decide (10 < iFmt w))

/-! ### Registers, members and the store -/

/-- Register Gk. -/
def greg (st : Station) (k : Nat) : Nat := mapGet 0 st.g k
/-- Set register Gk. -/
def setG (st : Station) (k v : Nat) : Station := { st with g := mapSet 0 st.g k (v % 2 ^ 32) }
/-- The members of a run: the station, and the odd member of a pair (R155). -/
def members (n : Nat) (j : Job) : List Nat := if j.shape = 0 then [n] else [n, n + 1]
/-- The members whose stores a run's MMA streams from (R157). -/
def streamMembers (n : Nat) (j : Job) : List Nat := if j.shape = 1 then [n, n + 1] else [n]
/-- The members whose ACC and requantisation stage a run uses (R157, R162). -/
def outMembers (n : Nat) (j : Job) : List Nat := if j.shape = 2 then [n, n + 1] else [n]
/-- `k` bytes of a tile store as a number. -/
def storeNat (st : Station) (a k : Nat) : Nat := leNat (loadBytes st.store a k)

/-- Streaming element `A[g][k]` of a format from an image at byte `base` (R85): its code. -/
def streamCode (st : Station) (f base g k : Nat) : Nat :=
  if fmtNib f then
    bits (storeNat st (base + fmtLB f * (g + k / 2) + k / 2) 1) (4 * (k % 2)) 4
  else storeNat st (base + fmtLB f * (g + k) + fmtE f * k) (fmtE f)

/-- Scale byte of block `j` of streaming row `g`, from a scale image at byte `base` (R87). -/
def streamScale (st : Station) (f base g j : Nat) : Nat :=
  storeNat st (base + 8 * (g + fmtScaleStep f * j) + j) 1

/-- Stationary element for reduction index `i` and column `n` (R88): its code. -/
def blockCode (blk : NMap Byte) (f : Nat) (t : Bool) (i n : Nat) : Nat :=
  if fmtNib f then
    let a := if t then fmtLB f * n + i / 2 else fmtLB f * (i / 2) + n
    bits (leNat (loadBytes blk a 1)) (4 * (i % 2)) 4
  else
    let a := if t then fmtLB f * n + fmtE f * i else fmtLB f * i + fmtE f * n
    leNat (loadBytes blk a (fmtE f))

/-- Scale byte of block `j` of stationary column `n` (R88). -/
def blockScale (blk : NMap Byte) (f j n : Nat) : Nat :=
  leNat (loadBytes blk (fmtD f * fmtLB f + 128 * j + n) 1)

/-- The value of an element code of a floating-point format under its scale byte (R115, R117). -/
def scaledFV (f code x : Nat) : FV :=
  match ffmt f with
  | none => .nan
  | some q =>
    if fmtMX f then
      (if x = 0xFF then .nan else mulFV (decodeF q (code % 2 ^ (1 + q.eb + q.mb))) (.fin false 1 ((x : Int) - 127)))
    else decodeF q code

/-- The signed value of an integer element code (R116). -/
def intCode (f code : Nat) : Int := if f = 2 then signed 8 code else if f = 6 then signed 4 code else signed 16 code

/-! ### Slots (R89 to R93) -/

/-- The state of a slot: 0 FREE, 1 FILL, 2 READY, 3 HELD (R89). -/
def slotState (st : Station) (k : Nat) : Nat := mapGet 0 st.slots k
/-- Set a slot's state. -/
def setSlot (st : Station) (k v : Nat) : Station := { st with slots := mapSet 0 st.slots k v }
/-- May a run of this kind address the slot on station `n` (R93). -/
def slotAllowed (s : State) (n : Nat) (lent : Bool) (k : Nat) : Bool :=
  if lent then decide (48 ≤ k) && decide (k ≤ 61)
  else if rd s (.stn n) F.stn_LEND_RES = 1 then decide (k < 48) else decide (k < 62)

/-- Slots from the one that holds unit `lo` to the one that holds unit `hi`. -/
def slotsOf (lo hi : Nat) : List Nat := (List.range (hi / 512 + 1 - lo / 512)).map (fun i => lo / 512 + i)

/-- Where an access to units `lo` to `hi` of station `n`'s store, by a run on the members `ms`, first meets each slot that
ends the job, as the unit after `lo` with the status: TSA_RANGE for a slot that R93 does not leave to it in every member
(R159), SLOT_NOT_READY for one that cannot be read yet (R90). -/
def spanFaults (s : State) (ms : List Nat) (n : Nat) (lent : Bool) (lo hi : Nat) : List (Nat × Nat) :=
  (slotsOf lo hi).filterMap (fun k =>
    let u := max lo (512 * k) - lo
    if ms.any (fun m => !slotAllowed s m lent k) then some (u, 0x82)
    else if slotState (stn s n) k < 2 then some (u, 0x83)
    else none)

/-- The status of the fault that is met first, and of those met together the lowest (R20, R100). -/
def firstFault (l : List (Nat × Nat)) : Option Nat := (minList (l.map (fun e => 256 * e.1 + e.2))).map (fun v => v % 256)

/-! ### Requantisation forms (R98, R140) -/

/-- Line bytes of an output format. -/
def outLB (f : Nat) : Nat := if f = 11 then 512 else if 7 ≤ f then 256 else 128

/-- The unit spans that an RQO writes: its rows, its scales, and its row sums. -/
def outSpans (r : Rqo) : List (Nat × Nat) :=
  if r.rows = 0 then [] else
  let lanes := if r.ofmt = 10 then 64 else 128
  let n := if r.skew then outLB r.ofmt * (r.rows + lanes - 1) else outLB r.ofmt * r.rows
  let step := fmtScaleStep r.ofmt
  [(r.tsa, r.tsa + (n - 1) / 128)]
    ++ (if fmtMX r.ofmt then
          [(r.gc, r.gc + (8 * (if r.skew then r.rows + 3 * step else r.rows) - 1) / 128)] else [])
    ++ (if r.mode = 1 then [(r.gc, r.gc + (4 * r.rows - 1) / 128)] else [])

/-- The unit spans that row `j` of an RQO writes. -/
def rowSpans (r : Rqo) (j : Nat) : List (Nat × Nat) :=
  let lanes := if r.ofmt = 10 then 64 else 128
  let lb := outLB r.ofmt
  let step := fmtScaleStep r.ofmt
  (r.tsa + lb * j / 128, r.tsa + (lb * (if r.skew then j + lanes else j + 1) - 1) / 128)
    :: (if fmtMX r.ofmt then
          [(r.gc + 8 * j / 128, r.gc + (8 * (if r.skew then j + 1 + 3 * step else j + 1) - 1) / 128)] else [])
    ++ (if r.mode = 1 then [(r.gc + 4 * j / 128, r.gc + 4 * j / 128)] else [])

/-- The unit that holds the sum which row `j` of a ROWDIV reads. -/
def sumUnit (r : Rqo) (j : Nat) : Nat := r.gc + 4 * j / 128

/-- Core cycles per row of an RQO mode (R98). -/
def rqoM (mode : Nat) : Nat := if mode = 1 then 2 else 1

/-- Where the accesses of an RQO's rows first end the job on member `m`, as the core cycle after its start with the row and
the status (R90, R93, R98, R100): the read of a ROWDIV sum, or a write outside the slots that the run may use. -/
def rowFaults (s : State) (ms : List Nat) (m : Nat) (lent : Bool) (r : Rqo) : List (Nat × Nat × Nat) :=
  (List.range r.rows).flatMap (fun j =>
    (if r.mode = 2 then (spanFaults s ms m lent (sumUnit r j) (sumUnit r j)).map (fun e => (rqoM r.mode * j, j, e.2))
      else [])
    ++ (if (rowSpans r j).any (fun e => (slotsOf e.1 e.2).any (fun k => ms.any (fun x => !slotAllowed s x lent k))) then
          [(rqoM r.mode * (j + 1) + 15, j, 0x82)] else []))

/-- Lines that an RQO handed to the stage has still to write. -/
def pendingSpans (st : Station) : List (Nat × Nat) :=
  (match st.rqoRun with
    | some r => outSpans r
    | none => []) ++
  (match st.rqoWait with
    | some r => outSpans r
    | none => [])

/-- Does a read of units `lo` to `hi` meet lines that an earlier RQO has not yet written (R90). -/
def readHeld (st : Station) (lo hi : Nat) : Bool :=
  (pendingSpans st).any (fun e => decide (e.1 ≤ hi) && decide (lo ≤ e.2))

end Sys2Proof.Machine
end

