-- ==== Sys2Proof/Machine/StationCore.lean ====
section
/-! DEFINITION. Station jobs: starting, ending and completing a run (R95, R107, R343, R535, R536), saving and resuming
it (R101 to R105, R164, R165), and the slots' states at a job's end (R91). -/

namespace Sys2Proof.Machine

/-! ### Pairs and bindings (R109, R155, R161) -/

/-- Is station `m` a member of a joined pair. -/
def pairJoined (s : State) (m : Nat) : Bool := rd s (.bpr (m / 2)) F.bpr_JOINED == 1

/-- The station whose sequencer runs the owner's jobs of station `m` (R161). -/
def seqOf (s : State) (m : Nat) : Nat := if pairJoined s m then 2 * (m / 2) else m

/-- The members of the run that sequencer `n` holds. -/
def runMembers (s : State) (n : Nat) : List Nat :=
  match (stn s n).job with
  | some j => members n j
  | none => []

/-- Is a station at its commit point (R106): between two instructions, with no RQO of a run that it is a member of running. -/
def stnAtCommit (s : State) (m : Nat) : Bool :=
  [m, m - 1].all (fun n => (stn s n).rqoRun.isNone || !(runMembers s n).contains m)

/-- The stations that station `m`'s owner's jobs use: itself, or both members of its joined pair. -/
def pairMembers (s : State) (m : Nat) : List Nat := if pairJoined s m then [2 * (m / 2), 2 * (m / 2) + 1] else [m]

/-- The name index and binding of the station that is bound as `n`, in the partition that owns it (R109). -/
def bindingOf (s : State) (n : Nat) : Option (Nat × Binding) :=
  (ptn s (ownerOf s (.stn n))).names.find? (fun e => decide (e.2.station = n))

/-- The owner's job of a sequencer, running or saved. -/
def ownerJob (st : Station) : Option Job :=
  match st.job with
  | some j => if j.lent.isSome then st.saved.map (fun r => r.job) else some j
  | none => st.saved.map (fun r => r.job)

/-- BE_JOBS_INFLIGHT of a partition, up to the posting of each completion (R343). -/
def beInflight (s : State) (p : Nat) : Nat :=
  (s.stns.filter (fun e => match ownerJob e.2 with
    | some j => decide (j.ptn = p)
    | none => false)).length + owedJobs s p

/-! ### Slots and descriptors (R89, R91) -/

/-- Is an accepted descriptor that has not finished filling the slot of station `m`. -/
def slotFilling (s : State) (m k : Nat) : Bool :=
  s.movs.any (fun e => e.2.items.any (fun it => it.slots.contains (m, k) && (match it.st with
    | .finished _ => false
    | _ => true)))

/-- Is a descriptor that has not finished reading the slot of station `m` out. -/
def slotReading (s : State) (m k : Nat) : Bool :=
  s.movs.any (fun e => e.2.items.any (fun it => it.reads.contains (m, k) && (match it.st with
    | .finished _ => false
    | .waiting => false
    | _ => true)))

/-- At a job's end or a reset, every FILL slot that no descriptor is filling becomes FREE (R91). -/
def freeFills (s : State) (m : Nat) : State :=
  forUpTo 64 (fun k s => if slotState (stn s m) k = 1 && !slotFilling s m k then setStn s m (setSlot (stn s m) k 0)
    else s) s

/-! ### Issue (R96, R100, R106) -/

/-- The job ends with a status: nothing further issues, a waiting RQO is dropped, and the completion follows (R95). The
status of the first condition stays (R20). -/
def endJob (s : State) (n status : Nat) : State :=
  let st := stn s n
  if st.job.isNone then s
  else setStn s n { st with
    ended := some (st.ended.getD status), drain := none, rqoWait := none, waitt := none, fence := false }

/-- May the sequencer issue: a job runs, no save has been requested, and no group is armed on the page (R101, R106). -/
def canIssue (s : State) (n : Nat) : Bool :=
  let st := stn s n
  match st.job with
  | none => false
  | some j => st.drain.isNone && st.ended.isNone
      && (members n j).all (fun m => unitUp s m && rd s (.stn m) F.SEAL == 0)

/-- The instruction that the sequencer would issue next. -/
def instrAt (st : Station) : Nat := mapGet 0 st.imem st.next

/-- Would the instruction at 2,047 continue past it (R97). -/
def pastEnd (st : Station) : Bool :=
  let w := instrAt st
  st.next == 2047 && !(iOpc w == 0x04 || iOpc w == 0x3F
    || (iOpc w == 0x03 && (greg st (iA w) + 2 ^ 32 - 1) % 2 ^ 32 != 0))

/-- Issue the next instruction when it has operation code `op`: an illegal one ends the job (R97), a command for
another kind of instruction than the next one changes nothing. The conditions of an RQO are met at its hand-off, which waits
while the stage is full (R96, R100). -/
def issue (s : State) (n op : Nat) (body : Job → Nat → Station → State) : State :=
  let st := stn s n
  match st.job with
  | none => s
  | some j =>
    if canIssue s n then
      let w := instrAt st
      if (usedBits w).isNone then endJob s n 0x80
      else if iOpc w = op then (if op = 0x20 && st.rqoWait.isSome then s
        else if wordIllegal w || pastEnd st then endJob s n 0x80 else body j w st)
      else s
    else s

/-- The sequencer goes on to the next instruction. -/
def advance (st : Station) : Station := { st with next := st.next + 1, waitt := none, fence := false }

/-! ### Starting and completing -/

/-- A run starts: G, NEXT and the stationary block are set, and ACC is zero (R95, R125). -/
def startRun (s : State) (n : Nat) (j : Job) (entry : Nat) (g : NMap Nat) : State :=
  let s1 := (members n j).foldl (fun s m => setStn s m { stn s m with acc := [], blk := [], rqoRec := [] }) s
  setStn s1 n { stn s1 n with
    job := some j, next := entry, g := g, ldw := none, rqoRun := none, rqoWait := none, waitt := none, fence := false,
    ended := none, drain := none }

/-- The 16 bytes of a station completion (R536). -/
def stationCplBytes (j : Job) (status next : Nat) : List Byte :=
  natLE 1 status ++ natLE 1 0 ++ natLE 2 j.stake ++ natLE 4 j.tag ++ natLE 1 j.nameIdx ++ natLE 1 0 ++ natLE 2 next
    ++ natLE 4 0

/-- Does the job post a completion: CPL_EN is set and CPL_Q is the partition's (R251, R536). -/
def postsCpl (s : State) (j : Job) : Bool := j.lent.isNone && j.cplEn && decide (qOwner s j.cplQ = j.ptn)

/-- Was a member of the run condemned by an injected fault (R561). -/
def runInjected (s : State) (n : Nat) (j : Job) : Bool := (members n j).any (fun m => unitInjected s m)

/-- What a job of a station's owner owes until its completion is posted (R264, R343, R346). -/
def owedOf (n : Nat) (j : Job) (status : Nat) (inj : Bool) : Owed :=
  { pid := j.pid, status := status, stake := some j.stake,
    job := some (j.ptn, if j.shape = 0 then none else some (n / 2)), inj := inj }

/-- The end of a run that posts no completion: FILL slots that are not being filled become FREE, what the job owes is
settled, and a lent run's grant ends (R91, R264, R334, R343). -/
def finishJob (s : State) (n : Nat) (j : Job) (status : Nat) (inj : Bool) : State :=
  let s1 := (members n j).foldl freeFills s
  match j.lent with
  | some _ =>
    let s2 := (members n j).foldl (fun s m => addSat s (.stn m) F.stn_LENT_RUNS 1) s1
    (match itemOfStake s2 j.stake with
      | some w => endWork s2 w status inj
      | none => s2)
  | none => settleOwed s1 false (owedOf n j status inj)

/-- A job ends with its completion still to be posted (R536): a reservation that is held back holds back what the job owes
(R259, R264). -/
def postEnd (s : State) (n : Nat) (j : Job) (status next : Nat) : State :=
  let inj := runInjected s n j
  if postsCpl s j then
    lastPost ((members n j).foldl freeFills s) (.station n) j.cplQ (stationCplBytes j status next) j.ptn j.stake 3
      (owedOf n j status inj)
  else finishJob s n j status inj

/-- Is the completion of a job that ended on sequencer `n` held back: the station stalls until it is posted (R259, R536). -/
def cplHeld (s : State) (n : Nat) : Bool :=
  s.pool.queues.any (fun e => e.2.line.any (fun w => decide (w.agent = .station n) && w.owed.isSome))

/-- The sequencer holds no run. -/
def clearRun (st : Station) : Station :=
  { st with job := none, ended := none, drain := none, rqoRun := none, rqoWait := none, waitt := none, fence := false,
            ldw := none, rqoRec := [] }

/-- End at once, with a status, the run that sequencer `n` holds and the owner's job saved on it (R41, R107, R167,
R547): the array's and the started RQO's work stays, ACC and the image are discarded. A job that had ended keeps its
own status. -/
def dropRun (s : State) (n status : Nat) : State :=
  let st := stn s n
  match st.job with
  | none => s
  | some j =>
    let c := st.ended.getD status
    postEnd (setStn (dropGrants (withdrawRun s (.station n)) (.station n)) n (clearRun st)) n j c st.next

/-- End at once, with a status, the job saved on sequencer `n`. -/
def dropSaved (s : State) (n status : Nat) : State :=
  match (stn s n).saved with
  | none => s
  | some r =>
    postEnd (setStn s n { stn s n with saved := none }) n r.job status r.next

/-- The sequencers whose runs or saved jobs use station `m`. -/
def runsOn (s : State) (m : Nat) : List Nat :=
  let uses (n : Nat) : Bool :=
    let st := stn s n
    (match st.job with
      | some j => (members n j).contains m
      | none => false)
    || (match st.saved with
      | some r => (members n r.job).contains m
      | none => false)
  [m, m - 1].eraseDups.filter uses

/-! ### Save and resume (R101 to R105, R164, R165) -/

/-- Where the save area begins: slot 62 (R93). -/
def saveArea : Nat := 62 * 65536

/-- Bytes written into a tile store from offset `o` on; a line that they cover whole loses any error in it (R200). -/
def putStore (st : Station) (o : Nat) (d : List Byte) : Station :=
  { st with store := storeBytes st.store o d, bad := mapDrop st.bad ((o + 63) / 64) ((o + d.length) / 64) }

/-- ACC copied into slots 62 and 63 (R101). -/
def accToStore (st : Station) : Station :=
  let rest := mapDrop st.store saveArea (saveArea + 131072)
  { st with
    bad := mapDrop st.bad (saveArea / 64) ((saveArea + 131072) / 64)
    store := st.acc.foldl (fun m e => storeBytes m (saveArea + 4 * e.1) (natLE 4 e.2)) rest }

/-- ACC reloaded from slots 62 and 63 (R103). -/
def storeToAcc (st : Station) : Station :=
  let put (m : NMap Nat) (e : Nat × Byte) : NMap Nat :=
    let k := (e.1 - saveArea) / 4
    mapSet 0 m k (mapGet 0 m k + e.2.toNat * 256 ^ ((e.1 - saveArea) % 4))
  { st with acc := (mapSlice st.store saveArea (saveArea + 131072)).foldl put [] }

/-- A save is requested of station `m`, with the CAUSE of R242: its owner's run issues nothing further (R101). A
station that runs no job of its owner, or whose run has ended, saves nothing. -/
def requestSave (s : State) (m cause : Nat) : State :=
  let n := seqOf s m
  let st := stn s n
  match st.job with
  | none => s
  | some j =>
    if j.lent.isSome || st.ended.isSome || st.drain.isSome then s
    else setStn s n { st with drain := some cause }

/-- Has the POST that the sequencer stalled on been posted: its reservation was admitted meanwhile (R259). -/
def postedNow (s : State) (n : Nat) : Bool :=
  s.pool.granted.any (fun e => decide (e.1 = .station n) && decide (e.2.1 = 1))

/-- The save itself (R101, R102, R164): ACC of every member to its slots 62 and 63, the sequencer image to the state
file. -/
def saveRun (s : State) (n : Nat) (j : Job) (cause : Nat) : State :=
  let st := stn s n
  let img : SaveRec :=
    { cause := cause, next := if postedNow s n then st.next + 1 else st.next, g := st.g, job := j, ldw := st.ldw, waiting := st.rqoWait, waitt := st.waitt,
      fence := st.fence }
  let s1 := (members n j).foldl (fun s m =>
    addSat (setStn s m (accToStore (stn s m))) (.stn m) F.stn_PREEMPTS 1) (dropGrants (withdrawRun s (.station n)) (.station n))
  let s2 := if j.shape = 0 then s1 else addSat s1 (.bpr (n / 2)) F.bpr_PAIR_PREEMPTS 1
  setStn s2 n { clearRun (stn s2 n) with saved := some img }

/-- The 128 bytes of the save record of a station job on sequencer `n` (R242). No register returns it. -/
def SaveRec.bytes (r : SaveRec) : List Byte :=
  natLE 1 1 ++ natLE 1 r.cause ++ natLE 1 r.job.ptn ++ natLE 1 1 ++ natLE 2 r.job.stake ++ natLE 2 r.job.nameIdx
    ++ natLE 8 r.next ++ (List.range 16).flatMap (fun k => natLE 4 (mapGet 0 r.g k)) ++ natLE 8 (2 ^ 21 * r.job.mode + match r.ldw with
      | some l => l.tsa + 2 ^ 16 * l.fmt + 2 ^ 20 * ofBool l.t + 2 ^ 23
      | none => 0)
    ++ natLE 8 (match r.waiting with
      | some q => q.word
      | none => 0)
    ++ natLE 8 (ofBool r.waitt.isSome + 2 * ofBool r.fence + 4 * r.waitt.getD 0) ++ natLE 24 0

/-- May the saved job go on: no member is lent or held quiesced, and a faulted job's slot has become READY (R103,
R166, R238, R333). -/
def mayResume (s : State) (n : Nat) (r : SaveRec) : Bool :=
  (members n r.job).all (fun m => unitUp s m && !(stn s m).lent && !heldQuiesced s (.stn m)
    && (stn s m).zeroLend.isNone && !(stn s m).carry)
    && (r.job.shape == 0 || !heldQuiesced s (.bpr (n / 2)))
    && (stn s n).job.isNone
    && (r.cause != 2 || (match r.waitt with
        | none => true
        | some k => (streamMembers n r.job).all (fun m => decide (2 ≤ slotState (stn s m) k))))

/-- Units that a stationary block of a format takes, with its scale lines (R88). -/
def blockUnits (f : Nat) : Nat := fmtD f * fmtLB f / 128 + fmtScaleLines f

/-- The stationary block of a store at a TSA, keyed from its base. -/
def blockAt (st : Station) (tsa f : Nat) : NMap Byte :=
  (mapSlice st.store (128 * tsa) (128 * (tsa + blockUnits f))).map (fun e => (e.1 - 128 * tsa, e.2))

/-- The saved LDW is replayed: the stationary block, which no save holds, is loaded again (R102, R103). DESIGN CHOICE (log
entry 132): the spec does not say whether LDW_STALL counts the replay; the model does not count it (R113, R165). -/
def replayLdw (st : Station) (l : Option Ldw) : Station :=
  match l with
  | some l => { st with blk := blockAt st l.tsa l.fmt }
  | none => { st with blk := [] }

/-- Resume the job saved on sequencer `n`, if it may go on (R103, R165). The waiting RQO of the image takes the empty
running place. -/
def resumeSaved (s : State) (n : Nat) : State :=
  match (stn s n).saved with
  | none => s
  | some r =>
    if mayResume s n r then
      let s1 := (members n r.job).foldl (fun s m =>
        setStn s m { replayLdw (storeToAcc (stn s m)) r.ldw with rqoRec := [] }) s
      setStn s1 n { stn s1 n with
        job := some r.job, next := r.next, g := r.g, ldw := r.ldw, rqoRun := r.waiting, rqoWait := none,
        waitt := none, fence := false, ended := none, drain := none, saved := none }
    else s

/-- Resume whatever job station `m`'s sequencer has saved. -/
def resumeStation (s : State) (m : Nat) : State := resumeSaved s (seqOf s m)

/-- Is a station held quiesced: by its own page or its partition, and in a joined pair by either member or the BPR page
(R75, R166). -/
def stationHeld (s : State) (m : Nat) : Bool :=
  (pairMembers s m).any (fun k => heldQuiesced s (.stn k)) || (pairJoined s m && heldQuiesced s (.bpr (m / 2)))

/-- QUIESCED goes from 1 to 0, and RESUMED is raised (R74). -/
def leaveQuiesced (s : State) (p : Page) : State := if rd s p F.QUIESCED = 1 then setEvt (wr s p F.QUIESCED 0) p 2 else s

/-- A station, with the other member of its pair, leaves quiesce and its saved job goes on, once nothing holds it and no
zeroing or carry is under way (R74, R104, R107, R166, R199, R243). -/
def resumeStnPage (s : State) (m : Nat) : State :=
  let ms := pairMembers s m
  if stationHeld s m || ms.any (fun k => (stn s k).zeroStore || (stn s k).zeroLend.isSome || (stn s k).carry) then s
  else
    let s1 := ms.foldl (fun s k => if unitDown s (.stn k) then s else leaveQuiesced s (.stn k)) s
    let s2 := if pairJoined s m then leaveQuiesced s1 (.bpr (m / 2)) else s1
    resumeStation s2 m

/-- After a lent run, the members that are no longer lent go back to their owners' jobs (R333). -/
def resumeOwner (s : State) (n : Nat) (j : Job) : State :=
  if j.lent.isSome then
    (members n j).foldl (fun s m => if (stn s m).lent then s else resumeStation s m) s
  else s

/-- Zero the lend region, slots 48 to 61, before a lent run of another partition (R104); no slot's state changes (R89). -/
def zeroLendData (st : Station) : Station :=
  { st with store := mapDrop st.store (48 * 65536) (62 * 65536), bad := mapDrop st.bad (48 * 1024) (62 * 1024) }

/-- Zero the lend region and set its slots FREE, as a change of LEND_RES does (R104). -/
def zeroLendRegion (st : Station) : Station := { zeroLendData st with slots := mapDrop st.slots 48 62 }

/-! ### The governor's hold (R609) -/

/-- The number of core-clock points of a grade (R607). -/
def clockPoints (g : Nat) : Nat := if g = 1 then 7 else if g = 2 then 6 else 5

/-- BE_HOLD, the last level: the lowest clock point, with no station of any partition taking a job parcel. -/
def beHold (s : State) : Bool := decide (clockPoints s.part.grade ≤ s.pwr.level)

/-! ### News of a slot for the job that waits on it (R238) -/

/-- Does the run of sequencer `n` wait on slots of station `m` in WAITT: those whose stores its MMA streams from (R159,
R238). -/
def waitsOn (m n : Nat) (j : Job) : Bool := (streamMembers n j).contains m

/-- A slot of station `m` has become READY: a faulted job that waits for it resumes. -/
def slotReady (s : State) (m k : Nat) : State :=
  (runsOn s m).foldl (fun s n => match (stn s n).saved with
    | some r => if r.cause = 2 && r.waitt = some k && waitsOn m n r.job then resumeSaved s n else s
    | none => s) s

/-- The descriptor that fills a slot of station `m` has stopped on a fault: a job of the owner that waits on the slot
in WAITT is saved with the CAUSE of a translation fault (R105, R238). -/
def slotStopped (s : State) (m k : Nat) : State :=
  (runsOn s m).foldl (fun s n => match (stn s n).job with
    | some j => if (stn s n).waitt = some k && waitsOn m n j then requestSave s n 2 else s
    | none => s) s

/-- The descriptor that fills a slot ended with another status than DONE: the job that waits on the slot ends with
that status (R238). A job that has been saved out of its wait finds the slot on its resume and ends with SLOT_NOT_READY (DESIGN
CHOICE, log entry 176). -/
def slotFailed (s : State) (m k status : Nat) : State :=
  (runsOn s m).foldl (fun s n =>
    let st := stn s n
    let here : Bool := match st.job with
      | some j => st.waitt = some k && st.ended.isNone && waitsOn m n j
      | none => false
    if here then endJob s n status
    else
      match st.saved with
      | some r => if r.cause = 2 && r.waitt = some k && waitsOn m n r.job then dropSaved s n status else s
      | none => s) s

end Sys2Proof.Machine
end

