-- ==== Sys2Proof/Machine/TierCore.lean ====
section
/-! DEFINITION. The tiers: placement (R177), accounting (R187), migration, promotion and eviction (R183 to R192),
reads and writes of the tiered region (R173, R181, R186, R188, R200, R201), and zeroing (R198). -/

namespace Sys2Proof.Machine

/-! ### Locations (R175, R177, R198) -/

/-- The key of a unit's pooled locations: banks, stacks, and the host spill area. -/
def locKey (tier unit : Nat) : Nat := if tier = 1 then unit else if tier = 2 then 64 + unit else 72

/-- The pooled locations of a unit. -/
def locsAt (s : State) (tier unit : Nat) : Locations := mapGet Locations.none s.locs (locKey tier unit)

/-- Store a unit's pooled locations. -/
def setLocs (s : State) (tier unit : Nat) (x : Locations) : State :=
  { s with locs := mapSet Locations.none s.locs (locKey tier unit) x }

/-- The FP_UNIT index of a bank or stack. -/
def tierUnit (tier unit : Nat) : Nat := if tier = 1 then 144 + unit else 208 + unit

/-- The page of a bank or stack. -/
def tierPage (tier unit : Nat) : Page := if tier = 1 then .dst unit else .hbc unit

/-- Is the host tier present. -/
def hostOn (s : State) : Bool := rd s .tir F.tir_HOST_EN == 1 && !hostBad s

/-- Is a unit of a tier usable: ENABLED, or the host tier present. -/
def tierUp (s : State) (tier unit : Nat) : Bool := if tier = 3 then hostOn s else unitUp s (tierUnit tier unit)

/-- The sections with a station of the partition's pool, or all four when the pool is empty (R177, R22). -/
def localSections (s : State) (p : Nat) : List Nat :=
  let l := (List.range 4).filter (fun x => (List.range 36).any (fun i => ownerOf s (.stn (36 * x + i)) == p))
  if l.isEmpty then [0, 1, 2, 3] else l

/-- The range of a partition that an address lies in: its number (R204). -/
def rangeOf (s : State) (p addr : Nat) : Option Nat :=
  (List.range 8).find? (fun k =>
    let b := ef s (.ptn p) (F.ptn_RANGE_BASE.ix k)
    ef s (.ptn p) (F.ptn_RANGE_KIND.ix k) != 0 && decide (b ≤ addr)
      && decide (addr < b + 65536 * ef s (.ptn p) (F.ptn_RANGE_TILES.ix k)))

/-- Does a tile lie in a range of KIND model. -/
def inModel (s : State) (p t : Nat) : Bool :=
  match rangeOf s p (65536 * t) with
  | some k => ef s (.ptn p) (F.ptn_RANGE_KIND.ix k) == 2
  | none => false

/-- Is a tile a hot-set model tile (R187, R196). -/
def modelTile (s : State) (p t : Nat) : Bool := ef s (.ptn p) F.ptn_MODEL_MODE == 1 && inModel s p t

/-- Is a tile placed by STRIPE in a tier (R177): a model range in SINGLE mode always in HBM (R196). -/
def striped (s : State) (p t tier : Nat) : Bool :=
  match rangeOf s p (65536 * t) with
  | some k => ef s (.ptn p) (F.ptn_RANGE_STRIPE.ix k) == 1
      || (decide (tier = 2) && ef s (.ptn p) (F.ptn_RANGE_KIND.ix k) == 2 && ef s (.ptn p) F.ptn_MODEL_MODE == 0)
  | none => false

/-- The units of a tier in the order in which a tile's placement tries them (R177). -/
def placement (s : State) (p t tier : Nat) : List Nat :=
  if tier = 3 then [0]
  else
    let per := if tier = 1 then 16 else 2
    let l := if striped s p t tier then List.range (4 * per)
      else (localSections s p).flatMap (fun x => (List.range per).map (fun i => per * x + i))
    let i := t % l.length
    l.drop i ++ l.take i

/-- The slots of the host spill area that a tile or a migration holds. -/
def slotsHeld (s : State) : List Nat :=
  s.ptns.flatMap (fun e => (e.2.tiles.filter (fun t => decide (t.2.tier = 3))).map (fun t => t.2.unit))
    ++ s.migs.flatMap (fun m =>
      if m.committed then (if m.srcTier = 3 then [m.srcUnit] else [])
      else if m.dstTier = 3 then m.dstUnit.toList else [])

/-- The first slot from `k` on that is not among `l`. -/
def slotFrom (l : List Nat) (k : Nat) : Nat :=
  ((List.range (l.length + 1)).find? (fun i => !l.contains (k + i))).getD 0 + k

/-- The slot of the spill area that the next tile takes. DESIGN CHOICE (log entry 159): the lowest that is free and zeroed. -/
def freeSlot (s : State) : Nat := slotFrom (slotsHeld s ++ s.spillFreed) 0

/-- The free slots of a spill area of `n` tiles: those that hold none (R198, R206). -/
def openSlots (s : State) (n : Nat) : Nat := n - ((slotsHeld s).filter (fun k => decide (k < n))).length

/-- The first usable unit of the placement with a free zeroed location, or the slot that a spilled tile takes. -/
def chooseUnit (s : State) (p t tier : Nat) : Option Nat :=
  if tier = 3 then (if tierUp s 3 0 && decide (0 < (locsAt s 3 0).free) then some (freeSlot s) else none)
  else (placement s p t tier).find? (fun u => tierUp s tier u && decide (0 < (locsAt s tier u).free))

/-- Take a free location of a unit. -/
def takeLoc (s : State) (tier unit : Nat) : State :=
  let x := locsAt s tier unit
  setLocs s tier unit { x with free := x.free - 1 }

/-- A location is freed, and waits for zeroing (R198). The locations of a unit that is down are gone, and slots past
HOST_TILES. A slot that the zeroing of the spill area has not reached yet is zeroed with the rest. -/
def freeLoc (s : State) (tier unit : Nat) : State :=
  if !tierUp s tier unit || (decide (tier = 3) && decide (rd s .tir F.tir_HOST_TILES ≤ unit)) then s
  else
    let x := locsAt s tier unit
    let s1 := setLocs s tier unit { x with pending := x.pending + 1 }
    if tier = 3 && decide (unit < s1.spillNext) then { s1 with spillFreed := s1.spillFreed ++ [unit] } else s1

/-! ### Tiles and accounting (R176, R187) -/

/-- The tile `t` of partition `p`, when it has storage. -/
def tileOf (s : State) (p t : Nat) : Option Tile := mapFind (ptn s p).tiles t

/-- Store a tile. -/
def setTile (s : State) (p t : Nat) (x : Tile) : State := setPtn s p { ptn s p with tiles := mapPut (ptn s p).tiles t x }

/-- A tile that has just received storage. -/
def newTile (tier unit : Nat) : Tile :=
  { tier := tier, unit := unit, age := 0, reads := 0, pinned := false, migrating := false, stuck := false,
    lost := false }

/-- The migration of a tile that has not committed. -/
def migOf (s : State) (p t : Nat) : Option Migration :=
  s.migs.find? (fun m => decide (m.ptn = p) && decide (m.tile = t) && !m.committed)

/-- Is a range of a partition pinned by its attributes (R192). -/
def rangePinned (s : State) (p k : Nat) : Bool :=
  let v := ef s (.ptn p) (F.ptn_PIN_TIER.ix k)
  ef s (.ptn p) (F.ptn_RANGE_KIND.ix k) != 0 && (v == 1 || v == 2)

/-- The tier that a tile's range pins it to, if its range is pinned. -/
def pinTier (s : State) (p t : Nat) : Option Nat :=
  match rangeOf s p (65536 * t) with
  | some k => if rangePinned s p k then some (ef s (.ptn p) (F.ptn_PIN_TIER.ix k)) else none
  | none => none

/-- The tier in which a tile counts: its own, or the pin tier from the pin's apply on (R187, R192). LOST and STUCK tiles
keep counting where they are (R201). -/
def countTier (s : State) (p t : Nat) (x : Tile) : Nat :=
  if x.lost || x.stuck then x.tier else (pinTier s p t).getD x.tier

/-- The tiles of a partition that count in a tier: those with storage, and the ZERO tiles that a pin is to give it. -/
def tierUsed (s : State) (p tier : Nat) : Nat :=
  ((ptn s p).tiles.filter (fun e => decide (countTier s p e.1 e.2 = tier))).length
    + (s.migs.filter (fun m => decide (m.ptn = p) && decide (m.srcTier = 0) && decide (m.dstTier = tier)
        && !m.committed)).length

/-- The tiles of a partition that queued migrations will take out of a tier. -/
def leaving (s : State) (p tier : Nat) : Nat :=
  (s.migs.filter (fun m => decide (m.ptn = p) && decide (m.srcTier = tier) && !m.committed && !m.pin)).length

/-- The tiles of a partition that queued promotions will bring into the datum store, of a class that `c` tells, beside those
that only take the place of a tile that leaves (R183). -/
def arriving (s : State) (p : Nat) (c : Nat → Bool) : Nat :=
  (s.migs.filter (fun m => decide (m.ptn = p) && decide (m.dstTier = 1) && !m.committed && !m.pin && m.after.isNone
    && c m.tile)).length

/-- TOTAL_USED (R187). -/
def totalUsed (s : State) (p : Nat) : Nat := tierUsed s p 1 + tierUsed s p 2 + tierUsed s p 3

/-- The floor of a partition in a tier. -/
def tierFloor (s : State) (p tier : Nat) : Nat :=
  if tier = 1 then ef s (.ptn p) F.ptn_DST_FLOOR else ef s (.ptn p) F.ptn_HBM_FLOOR

/-! ### Migration (R185, R186) -/

/-- The section that holds a unit of a tier, by whose engine a migration runs. -/
def unitSection (tier unit : Nat) : Nat := if tier = 1 then unit / 16 else if tier = 2 then unit / 2 else 0

/-- Is the migration engine of a section full: 64 migrations queued (R183). -/
def engineFull (s : State) (x : Nat) : Bool :=
  decide (64 ≤ (s.migs.filter (fun m => !m.committed && m.queued && decide (m.srcTier ≠ 0)
    && decide (unitSection m.srcTier m.srcUnit = x))).length)

/-- Is the migration of a tile queued by the engine of the section that holds it (R183). -/
def engineOf (x : Tile) : Nat := unitSection x.tier x.unit

/-- A zeroed location for a migration that starts: none while the tier manager is to be quiesced (R74). -/
def migUnit (s : State) (p t dst : Nat) : Option Nat := if heldBlock s .tir then none else chooseUnit s p t dst

/-- Queue a migration of a tile to a tier, taking a location when one is free (R185). A pin's waits for its place when
the engine's queue is full (R192). -/
def startMig (s : State) (p t : Nat) (x : Tile) (dst : Nat) (pin : Bool) : State :=
  let q := !engineFull s (engineOf x)
  let u := if q then migUnit s p t dst else none
  let s1 := match u with
    | some v => takeLoc s dst v
    | none => s
  let s2 := setTile s1 p t { x with migrating := true }
  { s2 with migs := s2.migs ++ [{ ptn := p, tile := t, srcTier := x.tier, srcUnit := x.unit, dstTier := dst,
                                  dstUnit := u, committed := false, pin := pin, queued := q, after := none }] }

/-- Drop a migration that has not committed; its target location is freed for zeroing. -/
def dropMig (s : State) (m : Migration) : State :=
  let s1 := { s with migs := removeFirst (fun x => decide (x = m)) s.migs }
  match m.dstUnit with
  | some u => freeLoc s1 m.dstTier u
  | none => s1

/-- A migration is dropped, and its tile stays at its source. -/
def stayMig (s : State) (m : Migration) : State :=
  let s1 := dropMig s m
  match tileOf s1 m.ptn m.tile with
  | some x => setTile s1 m.ptn m.tile { x with migrating := false }
  | none => s1

/-- A migration of the tile ends before its commit: the tile stays at its source, and MIG_ABANDONED counts it (R186). -/
def endMig (s : State) (p t : Nat) : State :=
  match migOf s p t with
  | none => s
  | some m => addSat (stayMig s m) .tir F.tir_MIG_ABANDONED 1

/-- A migration of the tile is not made after all, since no room can be made for it (R184): a promotion counts as skipped
(R183). -/
def giveUpMig (s : State) (p t : Nat) : State :=
  match migOf s p t with
  | none => s
  | some m => if m.dstTier = 1 then addSat (stayMig s m) .tir F.tir_PROMOTE_SKIPPED 1 else stayMig s m

/-- Tile `v` has left the datum store: what takes its place no longer waits for it (R183, R196). -/
def releaseSwap (s : State) (p v : Nat) : State :=
  { s with migs := s.migs.map (fun m => if m.ptn = p ∧ m.after = some v then { m with after := none } else m) }

/-- Has a promotion lost the place that it was to take: the demotion of that tile has been abandoned (R183, R196). -/
def swapLost (s : State) (m : Migration) : Bool :=
  match m.after with
  | some v => (migOf s m.ptn v).isNone
  | none => false

/-! ### Eviction (R184, R189) -/

/-- A candidate victim: partition, tile number, the tile, and how far its partition is above its floor. -/
structure Victim where
  ptn : Nat
  tile : Nat
  x : Tile
  above : Nat
deriving DecidableEq, Repr

/-- Is `a` a better victim than `b`: higher AGE, then furthest above the floor, then the lower tile number (R189). -/
def Victim.before (a b : Victim) : Bool :=
  decide (b.x.age < a.x.age) || (decide (a.x.age = b.x.age) && (decide (b.above < a.above)
    || (decide (a.above = b.above) && (decide (a.tile < b.tile) || (decide (a.tile = b.tile) && decide (a.ptn < b.ptn))))))

/-- The best of a list of candidates. -/
def bestVictim : List Victim → Option Victim
  | [] => none
  | a :: r => match bestVictim r with
    | none => some a
    | some b => some (if b.before a then b else a)

/-- The candidates of a tier for a tile of partition `req` (R189). `hot`: the tile to be placed is a hot-set model
tile; `any`: victims are taken at any age (R192). In HBM, tiles that are already queued to leave do not count towards their
partition's use, so that HBM_FLOOR is never passed (R190). -/
def candidates (s : State) (tier req : Nat) (hot any : Bool) : List Victim :=
  let needAge := !any && decide (tierFloor s req tier ≤ tierUsed s req tier)
  s.ptns.flatMap (fun e =>
    let above := tierUsed s e.1 tier - tierFloor s e.1 tier
    if above ≤ (if tier = 2 then leaving s e.1 tier else 0) then []
    else e.2.tiles.filterMap (fun t =>
      let model := modelTile s e.1 t.1
      if t.2.tier == tier && !t.2.pinned && !t.2.migrating && !t.2.stuck && !t.2.lost
          && !(model && (decide (e.1 ≠ req) || !hot)) && (!needAge || decide (2 ≤ t.2.age)) then
        some { ptn := e.1, tile := t.1, x := t.2, above := above }
      else none))

/-- Make room in a tier by moving a victim down; in HBM first for a victim that finds none there (R184). Room cannot be
made while the queue of the engine that must move the victim is full, nor while the tier manager takes no new work (R74).
DESIGN CHOICE (log entry 163): a victim that needs room in HBM makes it for its own partition. -/
def makeRoom (s : State) (tier req : Nat) (hot any : Bool) : Nat → Option State
  | 0 => none
  | fuel + 1 =>
    if heldBlock s .tir || (tier = 2 && !hostOn s) then none
    else match bestVictim (candidates s tier req hot any) with
      | none => none
      | some v =>
        let dst := tier + 1
        if engineFull s (engineOf v.x) then none
        else match chooseUnit s v.ptn v.tile dst with
        | some _ => some (startMig s v.ptn v.tile v.x dst false)
        | none =>
          if dst = 2 then
            match makeRoom s 2 v.ptn (modelTile s v.ptn v.tile) any fuel with
            | some s1 => some (startMig s1 v.ptn v.tile v.x dst false)
            | none => none
          else none

/-- Is a location on its way that a tile's placement in a tier can take: one waits for zeroing, or a victim leaves. -/
def coming (s : State) (p t tier : Nat) : Nat :=
  ((placement s p t tier).foldl (fun n u => n + (if tierUp s tier u then (locsAt s tier u).pending else 0)) 0)
    + (s.migs.filter (fun m => decide (m.srcTier = tier) && decide (m.dstTier = tier + 1)
        && (placement s p t tier).contains m.srcUnit)).length

/-- The migrations to a tier that wait for a location. -/
def waitingFor (s : State) (tier : Nat) : Nat :=
  (s.migs.filter (fun m => !m.committed && m.queued && decide (m.dstTier = tier) && m.dstUnit.isNone)).length

/-- Make room for one more tile that waits, unless a location is on its way to each of those that wait (R184, R192). -/
def roomFor (s : State) (p t tier : Nat) (any : Bool) : State :=
  if (chooseUnit s p t tier).isSome || decide (waitingFor s tier < coming s p t tier) then s
  else (makeRoom s tier p (modelTile s p t) any 3).getD s

/-- Is `x` the migration of `m`'s tile that has not committed. -/
def sameMig (m x : Migration) : Bool := decide (x.ptn = m.ptn) && decide (x.tile = m.tile) && !x.committed

/-- The migrations before `m` that wait for a location in the same tier. -/
def aheadOf (s : State) (m : Migration) : Nat :=
  ((s.migs.takeWhile (fun x => !sameMig m x)).filter (fun x => !x.committed && x.queued && decide (x.dstTier = m.dstTier)
    && x.dstUnit.isNone)).length

/-- Does a migration wait for a location although no room can be made: a pin's (R192), and the promotion of a partition below
its floor (R190). -/
def stillWaits (s : State) (m : Migration) : Bool :=
  m.pin || (decide (m.dstTier = 1) && decide (tierUsed s m.ptn 1 < tierFloor s m.ptn 1))

/-- A queued migration without a location takes one, or room is made for it while none is on its way; where that cannot be,
it is not made (R184). -/
def placeMig (s : State) (m : Migration) : State :=
  match chooseUnit s m.ptn m.tile m.dstTier with
  | some u => { takeLoc s m.dstTier u with
      migs := replaceFirst (sameMig m) (fun x => { x with dstUnit := some u }) s.migs }
  | none =>
    if aheadOf s m < coming s m.ptn m.tile m.dstTier then s
    else match makeRoom s m.dstTier m.ptn (modelTile s m.ptn m.tile) m.pin 3 with
      | some s1 => s1
      | none => if stillWaits s m then s else giveUpMig s m.ptn m.tile

/-- A migration that waits goes on: a pin's takes its place in its engine's queue, and a queued one a location (R184, R192).
One whose place is lost is not made. -/
def serveMig (s : State) (m0 : Migration) : State :=
  match migOf s m0.ptn m0.tile with
  | none => s
  | some m =>
    let full := decide (m.srcTier ≠ 0) && engineFull s (unitSection m.srcTier m.srcUnit)
    if swapLost s m then giveUpMig s m.ptn m.tile
    else if m.dstUnit.isSome || (!m.queued && full) then s
    else placeMig { s with migs := replaceFirst (sameMig m) (fun x => { x with queued := true }) s.migs } m

/-- Migrations that wait for their place or a location go on, oldest first, unless the tier manager takes no new work
(R74). -/
def serveMigs (s : State) : State := if heldBlock s .tir then s else s.migs.foldl serveMig s

/-! ### Promotion (R183, R190, R191, R196) -/

/-- The oldest own tile of a class in the datum store, at least as old as `age`: the victim at quota (R183), or the
tile that leaves a full hot set (R196). -/
def oldestOwn (s : State) (p : Nat) (model : Bool) (age : Nat) : Option Victim :=
  bestVictim ((ptn s p).tiles.filterMap (fun t =>
    if t.2.tier == 1 && !t.2.pinned && !t.2.migrating && !t.2.stuck && !t.2.lost && modelTile s p t.1 == model
        && decide (age ≤ t.2.age) then
      some { ptn := p, tile := t.1, x := t.2, above := 0 } else none))

/-- Tiles of a class that a partition has in the datum store, or that its queued promotions bring there. -/
def classUsed (s : State) (p : Nat) (model : Bool) : Nat :=
  ((ptn s p).tiles.filter (fun e => decide (countTier s p e.1 e.2 = 1) && modelTile s p e.1 == model)).length
    + arriving s p (fun t => modelTile s p t == model)

/-- Move a victim of the datum store to HBM, making room there if need be. -/
def demote (s : State) (v : Victim) : Option State :=
  if heldBlock s .tir || engineFull s (engineOf v.x) then none
  else match chooseUnit s v.ptn v.tile 2 with
  | some _ => some (startMig s v.ptn v.tile v.x 2 false)
  | none => match makeRoom s 2 v.ptn (modelTile s v.ptn v.tile) false 2 with
    | some s1 => some (startMig s1 v.ptn v.tile v.x 2 false)
    | none => none

/-- Has a partition no room for one more tile of the class of tile `t` in the datum store (R196). -/
def classFull (s : State) (p t : Nat) : Bool :=
  let hot := ef s (.ptn p) F.ptn_HOTSET_TILES
  if modelTile s p t then decide (hot ≤ classUsed s p true)
  else ef s (.ptn p) F.ptn_MODEL_MODE == 1 && decide (ef s (.ptn p) F.ptn_DST_QUOTA - hot ≤ classUsed s p false)

/-- Queue the promotion of a tile in a state in which its room has been made. -/
def queueUp (r : Option State) (p t : Nat) : Option State :=
  match r with
  | none => none
  | some s1 => match tileOf s1 p t with
    | some y => some (startMig s1 p t y 1 false)
    | none => none

/-- Queue the promotion of a tile that takes the place of tile `v`: its commit waits for that tile's (R183, R196). -/
def queueAfter (r : Option State) (p t v : Nat) : Option State :=
  (queueUp r p t).map (fun s => { s with
    migs := s.migs.map (fun m => if m.ptn = p ∧ m.tile = t ∧ m.committed = false then { m with after := some v } else m) })

/-- The state in which a tile's promotion has been queued, if it is admitted (R183, R196). Promotions that are queued count
towards the quota. A partition below its floor is always admitted, and waits for a location (R190). DESIGN CHOICE (log
entry 164): a promotion in place of another tile commits after that tile's demotion, and is skipped with it. -/
def promotion (s : State) (p t : Nat) (x : Tile) : Option State :=
  let quota := ef s (.ptn p) F.ptn_DST_QUOTA
  let used := tierUsed s p 1
  let model := modelTile s p t
  let full := classFull s p t
  if quota < used || engineFull s (engineOf x) then none
  else if used < quota && used + arriving s p (fun _ => true) < quota && !full then
    if (chooseUnit s p t 1).isSome then queueUp (some s) p t
    else match queueUp (makeRoom s 1 p model false 3) p t with
      | some s1 => some s1
      | none => if used < tierFloor s p 1 then queueUp (some s) p t else none
  else match oldestOwn s p model (if model && full then 0 else 2) with
    | some v => queueAfter (demote s v) p t v.tile
    | none => none

/-- A promotion trigger (R183): queued, or skipped and counted; a STUCK tile cannot be moved. A quiesced tier manager takes
no new work (R53, R74). -/
def promote (s : State) (p t : Nat) (x : Tile) : State :=
  if heldBlock s .tir then s
  else match (if x.stuck then none else promotion s p t x) with
    | some s1 => s1
    | none => addSat s .tir F.tir_PROMOTE_SKIPPED 1

/-- A mover read of an HBM tile counts, and triggers its promotion (R183, R196). DESIGN CHOICE (log entry 165): a tile that is
MIGRATING or pinned triggers none, and PROMOTE_SKIPPED does not count it. -/
def countRead (s : State) (p t : Nat) (x : Tile) : State :=
  let y := { x with reads := x.reads + 1 }
  let s1 := setTile s p t y
  if x.tier ≠ 2 || x.migrating || x.pinned then s1
  else if inModel s p t then (if modelTile s p t then promote s1 p t y else s1)
  else if y.reads = ef s .tir F.tir_X_PROMOTE_READS then promote s1 p t y
  else s1

/-! ### Errors (R200, R569) -/

/-- The one-shot memory fault armed on a page (R569), taken by this access: 1 correctable, 2 uncorrectable. -/
def takeFault (s : State) (p : Page) : Nat × State :=
  if rd s p F.INJ_ARM = 1 && (rd s p F.FAULT = 1 || rd s p F.FAULT = 2) then
    (rd s p F.FAULT, wr s p F.INJ_ARM 0)
  else (0, s)

/-- The CE_COUNT field of a page that has one (R559). -/
def ceField : Page → Option Fld
  | .dst _ | .hbc _ => some F.mem_CE_COUNT
  | .ten _ => some F.ten_CE_COUNT
  | .cdp => some F.cdp_CE_COUNT
  | .cdu _ => some F.cdu_CE_COUNT
  | _ => none

/-- The UE_COUNT field of a page that has one (R559). -/
def ueField : Page → Option Fld
  | .dst _ | .hbc _ => some F.mem_UE_COUNT
  | .ten _ => some F.ten_UE_COUNT
  | .cdp => some F.cdp_UE_COUNT
  | .cdu _ => some F.cdu_UE_COUNT
  | _ => none

/-- A corrected error on a page's unit (R200, R559). -/
def countCe (s : State) (p : Page) (inj : Bool) : State :=
  match ceField p with
  | some f => bumpHealth (addSat s p f 1) 0 inj
  | none => s

/-- An uncorrectable error that an access met: the page of the unit, and whether it was injected. -/
abbrev UeHit := Option (Page × Bool)

/-! ### Reads and writes of one tile (R173, R181, R186, R188, R200, R201) -/

/-- What an access to the range answers: data, a wait for a zeroed location, or a status, with the unit whose memory
reported an uncorrectable error. -/
inductive TRes where
  | ok (d : List Byte)
  | wait
  | fail (c : Nat) (ue : UeHit)
deriving DecidableEq, Repr

/-- Does any 64-byte line of the bytes hold an uncorrectable error. -/
def badLine (s : State) (p a n : Nat) : Bool :=
  (List.range ((a + n - 1) / 64 + 1 - a / 64)).any (fun i => mapGet false (ptn s p).bad (a / 64 + i))

/-! #### Encryption (R178 to R180) -/

/-- The two SM4 keys of a partition (R179). -/
def tileKeys (s : State) (p : Nat) : List Byte := (ptn s p).keys.getD []

/-- The ciphertext of a 64-byte line under a pair of keys, as it is held in HBM and in host memory: the data unit is the
line, and the tweak bits [47:6] of its partition-range address (R178, R179). -/
def cipherLine (keys : List Byte) (a : Nat) (line : List Byte) : List Byte :=
  fitBytes 64 (Config.sm4Xts keys (a / 64 % 2 ^ 42) line)

/-- What a 64-byte line that is read from HBM or from host memory decrypts to (R178). -/
def plainLine (keys : List Byte) (a : Nat) (line : List Byte) : List Byte :=
  fitBytes 64 (Config.sm4XtsInv keys (a / 64 % 2 ^ 42) line)

/-- The ciphertext in which HBM holds the line at `a` of a partition's range. `Partition.mem` holds what its consumers
read; the tweak does not depend on where the line is stored, so a move between HBM and host leaves it unchanged (R179). -/
def heldLine (s : State) (p a : Nat) : List Byte := cipherLine (tileKeys s p) a (loadBytes (ptn s p).mem a 64)

/-- The ciphertext in which the device reserve holds its line `a`, under the device's storage keys (R180, R401). DESIGN CHOICE (log
entry 144): the spec names no tweak for the reserve; the model takes the line's number in it. -/
def reserveLine (s : State) (a : Nat) (line : List Byte) : List Byte := cipherLine s.mon.dsk (64 * a) line

/-- The host address of byte `o` of a slot of the spill area (R206). -/
def spillAddr (s : State) (slot o : Nat) : Nat := rd s .tir F.tir_HOST_BASE + 65536 * slot + o

/-- The line at `a` of a tile that slot `slot` holds, as a consumer reads it: what host memory holds there, decrypted. It
has no integrity check, so what the host changed or replayed reaches the reader (R180). -/
def spillLine (s : State) (p slot a : Nat) : List Byte :=
  let held := hostGet s 0 (spillAddr s slot (a % 65536)) 64
  if held = heldLine s p a then loadBytes (ptn s p).mem a 64 else plainLine (tileKeys s p) a held

/-- `n` bytes at `a` of a spilled tile. -/
def spillBytes (s : State) (p slot a n : Nat) : List Byte :=
  ((((List.range ((a + n - 1) / 64 + 1 - a / 64)).flatMap (fun i => spillLine s p slot (64 * (a / 64 + i)))).drop (a % 64))).take n

/-- The ciphertext of the lines that bytes `a` to `a + n − 1` touch is written to their slot. -/
def spillStore (s : State) (p slot a n : Nat) : State :=
  let lo := a / 64 * 64
  hostPut s 0 (spillAddr s slot (lo % 65536))
    ((List.range ((a + n - 1) / 64 + 1 - a / 64)).flatMap (fun i => heldLine s p (lo + 64 * i)))

/-- The bytes of a tile as a consumer reads them: from host memory where the tile is spilled. -/
def tileBytes (s : State) (p : Nat) (x : Tile) (a n : Nat) : List Byte :=
  if x.tier = 3 then spillBytes s p x.unit a n else loadBytes (ptn s p).mem a n

/-! #### One access -/

/-- Is a 64-byte line one of those that `n` bytes at `a` touch. -/
def onLines (a n k : Nat) : Bool := decide (a / 64 ≤ k) && decide (64 * k < a + n)

/-- A read of `n` bytes at `a` of a tile corrects the correctable errors of its lines, each counted on the page of its unit
(R200, R559). DESIGN CHOICE (log entry 168): the line holds the error no longer. -/
def softTier (s : State) (p : Nat) (x : Tile) (a n : Nat) : State :=
  let y := ptn s p
  if x.tier = 3 then s
  else (y.soft.filter (fun e => onLines a n e.1)).foldl (fun s _ => countCe s (tierPage x.tier x.unit) false)
    (setPtn s p { y with soft := y.soft.filter (fun e => !onLines a n e.1) })

/-- A read of a spilled tile crosses PCIe (R178, R232). Whether it ends as Completer Abort, and whether for want of a completion,
which CPL_TIMEOUTS counts (R509), is free (log entries 105 and 170). -/
def hostTierRead (s : State) : Nat × State :=
  if Config.hostAborts s.fresh then (2, addSat (nextFresh s) .hif F.hif_CPL_TIMEOUTS (Config.freeValue s.fresh % 2))
  else (0, nextFresh s)

/-- The fault that an access to a tile's storage meets: an injected one (R569), or in host memory, which no unit page injects,
the end of the read as Completer Abort, an uncorrectable error on a link (R200). -/
def tierFault (s : State) (x : Tile) : Nat × State :=
  if x.tier = 3 then hostTierRead s else takeFault s (tierPage x.tier x.unit)

/-- The unit that reports an uncorrectable error of a tile's storage. -/
def tierHit (x : Tile) (inj : Bool) : UeHit := if x.tier = 3 then none else some (tierPage x.tier x.unit, inj)

/-- Read `n` bytes at address `a`, all in one tile; a read sets AGE to 0 (R182). -/
def readTile (s : State) (p a n : Nat) (mover : Bool) : TRes × State :=
  let t := a / 65536
  match tileOf s p t with
  | none => (.ok (List.replicate n 0), s)
  | some x =>
    let y := { x with age := 0 }
    if x.lost then (.fail 0x0B none, setTile s p t y)
    else
      let r := tierFault s x
      let s1 := setTile r.2 p t y
      if r.1 = 2 then (.fail 0x0B (tierHit x true), s1)
      else if badLine s p a n then (.fail 0x0B (tierHit x false), s1)
      else
        let s2 := if r.1 = 1 then countCe s1 (tierPage x.tier x.unit) true else softTier s1 p x a n
        (.ok (tileBytes s p x a n), if mover then countRead s2 p t y else s2)

/-- A zeroed HBM location for tile `t` (R188): the unit, a wait for one that is being zeroed or freed or for the tier manager to
take up its work, or no room. -/
def findRoom (s : State) (p t : Nat) : Option Nat × TRes × State :=
  match chooseUnit s p t 2 with
  | some u => (some u, .ok [], s)
  | none =>
    if (placement s p t 2).any (fun u => tierUp s 2 u && decide (0 < (locsAt s 2 u).pending)) then (none, .wait, s)
    else if s.migs.any (fun m => decide (m.srcTier = 2) && decide (m.dstTier = 3) && (placement s p t 2).contains m.srcUnit) then
      (none, .wait, s)
    else if heldBlock s .tir then (none, .wait, s)
    else match makeRoom s 2 p (modelTile s p t) false 1 with
      | some s1 => (none, .wait, s1)
      | none => (none, .fail 0x07 none, s)

/-- Put bytes into a partition's range; a line covered whole loses any error in it (R200). -/
def putBytes (s : State) (p a : Nat) (d : List Byte) : State :=
  let x := ptn s p
  let lo := (a + 63) / 64
  let hi := (a + d.length) / 64
  setPtn s p { x with mem := storeBytes x.mem a d, bad := mapDrop x.bad lo hi, soft := mapDrop x.soft lo hi }

/-- Does a write of `n` bytes at `a` cover part of a line, which it then reads to merge (R200). -/
def merges (a n : Nat) : Bool := a % 64 != 0 || (a + n) % 64 != 0

/-- Does a write that covers part of a line with an error meet that error in its merge (R200). -/
def mergeError (s : State) (p a n : Nat) : Bool :=
  (a % 64 != 0 && mapGet false (ptn s p).bad (a / 64))
    || ((a + n) % 64 != 0 && mapGet false (ptn s p).bad ((a + n) / 64))

/-- Write bytes to a tile's storage: a spilled one's lines are read, decrypted and written back as ciphertext (R178). -/
def storeTile (s : State) (p : Nat) (x : Tile) (a : Nat) (d : List Byte) : State :=
  if x.tier = 3 then
    let lo := a / 64 * 64
    let hi := ceilDiv (a + d.length) 64 * 64
    let s1 := putBytes (putBytes s p lo (spillBytes s p x.unit lo (hi - lo))) p a d
    spillStore s1 p x.unit a d.length
  else putBytes s p a d

/-! ### Pins (R192 to R194) -/

/-- Bit `k` of PINNED, set or cleared. -/
def setPinned (s : State) (p k v : Nat) : State :=
  wr s (.ptn p) F.ptn_PINNED (setBits (rd s (.ptn p) F.ptn_PINNED) k 1 v)

/-- Bit `k` of PINNING, set or cleared. -/
def setPinning (s : State) (p k v : Nat) : State :=
  wr s (.ptn p) F.ptn_PINNING (setBits (rd s (.ptn p) F.ptn_PINNING) k 1 v)

/-- The tiles of a range. -/
def rangeTiles (s : State) (p k : Nat) : List Nat :=
  let b := ef s (.ptn p) (F.ptn_RANGE_BASE.ix k) / 65536
  (List.range (ef s (.ptn p) (F.ptn_RANGE_TILES.ix k))).map (fun i => b + i)

/-- Bring one tile of a range towards its pin tier (R192), unless the tier manager takes no new work (R74). A tile that is
MIGRATING waits, and one that is STUCK elsewhere or LOST stays as it is until it is rewritten (R186, R201). -/
def pinTile (s : State) (p t tier : Nat) : State :=
  match tileOf s p t with
  | none =>
    if heldBlock s .tir || (migOf s p t).isSome then s
    else
      let s1 := roomFor s p t tier true
      match chooseUnit s1 p t tier with
      | some u => setTile (takeLoc s1 tier u) p t { newTile tier u with pinned := true }
      | none => { s1 with migs := s1.migs ++ [{ ptn := p, tile := t, srcTier := 0, srcUnit := 0, dstTier := tier,
                                                dstUnit := none, committed := false, pin := true, queued := true,
                                                after := none }] }
  | some x =>
    if heldBlock s .tir || x.migrating || x.lost then s
    else if x.tier = tier then setTile s p t { x with pinned := true }
    else if x.stuck then s
    else
      let s1 := roomFor s p t tier true
      match tileOf s1 p t with
      | some y => startMig s1 p t y tier true
      | none => s1

/-- The pin of range `k` starts (R192). -/
def pinStart (s : State) (p k : Nat) : State :=
  (rangeTiles s p k).foldl (fun s t => pinTile s p t (ef s (.ptn p) (F.ptn_PIN_TIER.ix k))) (setPinning s p k 1)

/-- The pins that are under way go on, once the tier manager takes up its work (R74, R192). -/
def pinsResume (s : State) (p : Nat) : State :=
  forUpTo 8 (fun k s => if bitAt (rd s (.ptn p) F.ptn_PINNING) k then pinStart s p k else s) s

/-- After a migration of a tile ended, or a ZERO tile was written, a pin of its range proceeds (R186, R192). -/
def pinFollow (s : State) (p t : Nat) : State :=
  match rangeOf s p (65536 * t) with
  | some k => if bitAt (rd s (.ptn p) F.ptn_PINNING) k then pinTile s p t (ef s (.ptn p) (F.ptn_PIN_TIER.ix k)) else s
  | none => s

/-- Demote the oldest general tiles until DST_USED no longer exceeds DST_QUOTA (R191). -/
def quotaDemote (s : State) (p : Nat) : Nat → State
  | 0 => s
  | fuel + 1 =>
    if tierUsed s p 1 ≤ ef s (.ptn p) F.ptn_DST_QUOTA + leaving s p 1 then s
    else match oldestOwn s p false 0 with
      | none => s
      | some v => match demote s v with
        | some s1 => quotaDemote s1 p fuel
        | none => s

/-- The demotions that a quota asks for are queued as far as they can be now. -/
def quotaFollow (s : State) (p : Nat) : State := quotaDemote s p (ptn s p).tiles.length

/-- What waited for the end of a tile's migration goes on: a pin of the range (R186), the demotions that a quota asks for
(R191), and migrations that wait. -/
def migEnded (s : State) (p t : Nat) : State := serveMigs (quotaFollow (pinFollow s p t) p)

/-- A migration of the tile is abandoned (R186), and what waited for its end goes on. -/
def abandonMig (s : State) (p t : Nat) : State :=
  if (migOf s p t).isSome then migEnded (endMig s p t) p t else s

/-! ### Writes (R173, R186, R188, R200, R201) -/

/-- A tile receives storage in unit `u` of HBM and its first bytes; a location that its pin waited for is not needed, and
the pin of its range goes on from HBM (R173, R192). -/
def firstWrite (s : State) (p t u a : Nat) (d : List Byte) : State :=
  let s1 := match migOf s p t with
    | some m => dropMig s m
    | none => s
  pinFollow (putBytes (setTile (takeLoc s1 2 u) p t (newTile 2 u)) p a d) p t

/-- A write to a ZERO tile allocates storage (R173, R188). -/
def writeZero (s : State) (p t a : Nat) (d : List Byte) : TRes × State :=
  if (migOf s p t).isNone && decide (ef s (.ptn p) F.ptn_TOTAL_QUOTA ≤ totalUsed s p) then (.fail 0x07 none, s)
  else match findRoom s p t with
    | (some u, _, s1) => (.ok [], firstWrite s1 p t u a d)
    | (none, r, s1) => (r, s1)

/-- The bytes that a tile held and the errors among them are gone. -/
def dropData (s : State) (p t : Nat) : State :=
  let y := ptn s p
  setPtn s p { y with
    mem := mapDrop y.mem (65536 * t) (65536 * (t + 1))
    bad := mapDrop y.bad (1024 * t) (1024 * (t + 1))
    soft := mapDrop y.soft (1024 * t) (1024 * (t + 1)) }

/-- A LOST or STUCK tile that is to be written whole, from bytes `d` at `a` on, gets new storage; its old location is freed
(R201). It waits for a location as a first write does (R188). DESIGN CHOICE (log entry 166): where its range is pinned, the tile
is pinned again at the next apply of group N, unless the pin is still under way. -/
def renewTile (s : State) (p t : Nat) (x : Tile) (a : Nat) (d : List Byte) : TRes × State :=
  match findRoom s p t with
  | (some u, _, s1) => (.ok [], firstWrite (dropData (if x.lost then s1 else freeLoc s1 x.tier x.unit) p t) p t u a d)
  | (none, r, s1) => (r, s1)

/-- A write that covers a LOST or STUCK tile whole gives it new storage, and a partial one meets DATA_ERROR (R201). -/
def rewriteTile (s : State) (p t : Nat) (x : Tile) (a : Nat) (d : List Byte) : TRes × State :=
  if a % 65536 = 0 && d.length = 65536 then renewTile s p t x a d
  else (.fail 0x0B none, setTile s p t { x with age := 0 })

/-- Write bytes at address `a`, all in one tile: a migration of the tile is abandoned (R186), AGE becomes 0 (R182), and a
line of which part is written is read to merge (R200). -/
def writeTile (s : State) (p a : Nat) (d : List Byte) : TRes × State :=
  let t := a / 65536
  match tileOf s p t with
  | none => writeZero s p t a d
  | some x =>
    if x.lost || x.stuck then rewriteTile s p t x a d
    else
      let s1 := setTile (endMig s p t) p t { x with age := 0, migrating := false }
      let r := if merges a d.length then tierFault s1 x else (0, s1)
      let follow (s : State) : State := if x.migrating then migEnded s p t else s
      if r.1 = 2 then (.fail 0x0B (tierHit x true), follow r.2)
      else if mergeError s p a d.length then (.fail 0x0B (tierHit x false), follow r.2)
      else
        let s2 := if r.1 = 1 then countCe r.2 (tierPage x.tier x.unit) true
          else if a % 64 = 0 then r.2 else softTier r.2 p x a 1
        let s2 := if (a + d.length) % 64 = 0 then s2 else softTier s2 p x (a + d.length - 1) 1
        (.ok [], follow (storeTile s2 p x a d))

/-! ### Freeing (R195, R198) -/

/-- A tile becomes ZERO: its migration is abandoned, its storage freed for zeroing, and its bytes read zero. -/
def freeTile (s : State) (p t : Nat) : State :=
  let s1 := endMig s p t
  match tileOf s1 p t with
  | none => s1
  | some x =>
    let s2 := dropData (releaseSwap (if x.lost then s1 else freeLoc s1 x.tier x.unit) p t) p t
    setPtn s2 p { ptn s2 p with tiles := mapErase (ptn s2 p).tiles t }

/-- Free every tile of a partition (R186, R511). -/
def freeAllTiles (s : State) (p : Nat) : State :=
  let s1 := (ptn s p).tiles.foldl (fun s e => freeTile s p e.1) s
  (s1.migs.filter (fun m => decide (m.ptn = p) && !m.committed)).foldl dropMig s1

/-! ### The end of a pin, and the apply of group N (R192, R194) -/

/-- A range is no longer pinned: its bits clear, its tiles are no longer pinned, and its pin's migrations are dropped. -/
def pinEnd (s : State) (p k b n : Nat) : State :=
  let s1 := setPinned (setPinning s p k 0) p k 0
  let inR (t : Nat) : Bool := decide (b / 65536 ≤ t) && decide (t < b / 65536 + n)
  let pins := s1.migs.filter (fun m => decide (m.ptn = p) && inR m.tile && m.pin && !m.committed)
  let s2 := setPtn s1 p { ptn s1 p with tiles := (ptn s1 p).tiles.map (fun e =>
    if inR e.1 then (e.1, { e.2 with
      pinned := false, migrating := e.2.migrating && !pins.any (fun m => decide (m.tile = e.1)) }) else e) }
  pins.foldl dropMig s2

/-- RT_READY: every real-time range of the partition is PINNED (R194). -/
def rtReady (s : State) (p : Nat) : Bool :=
  (List.range 8).all (fun k => ef s (.ptn p) (F.ptn_RANGE_KIND.ix k) != 3 || bitAt (rd s (.ptn p) F.ptn_PINNED) k)

/-- Does range `k` keep its place and its pin through an apply of group N. -/
def rangeKept (old s : State) (p k : Nat) : Bool :=
  rangePinned old p k == rangePinned s p k
    && ef old (.ptn p) (F.ptn_RANGE_BASE.ix k) == ef s (.ptn p) (F.ptn_RANGE_BASE.ix k)
    && ef old (.ptn p) (F.ptn_RANGE_TILES.ix k) == ef s (.ptn p) (F.ptn_RANGE_TILES.ix k)
    && ef old (.ptn p) (F.ptn_PIN_TIER.ix k) == ef s (.ptn p) (F.ptn_PIN_TIER.ix k)

/-- What follows the apply of group N (R192): the ranges whose place or pin changed end their old pins, and then every pinned
range whose tiles are not all in place brings them in. `old` is the state before the apply. -/
def rangesApplied (old s : State) (p : Nat) : State :=
  let s1 := forUpTo 8 (fun k s => if rangePinned old p k && !rangeKept old s p k then
      pinEnd s p k (ef old (.ptn p) (F.ptn_RANGE_BASE.ix k)) (ef old (.ptn p) (F.ptn_RANGE_TILES.ix k)) else s) s
  forUpTo 8 (fun k s => if rangePinned s p k && !bitAt (rd s (.ptn p) F.ptn_PINNED) k then pinStart s p k else s) s1

/-! ### A bank or stack is lost (R186, R201) -/

/-- Every tile in a condemned unit becomes LOST; migrations from it and to it are abandoned, and a pinned tile's range
is no longer PINNED. -/
def loseUnit (s : State) (tier unit : Nat) : State :=
  let s0 := setLocs s tier unit Locations.none
  let from_ := s0.migs.filter (fun m => !m.committed && decide (m.srcTier = tier) && decide (m.srcUnit = unit))
  let s0 := from_.foldl (fun s m => endMig s m.ptn m.tile) s0
  let to_ := s0.migs.filter (fun m => !m.committed && decide (m.dstTier = tier) && decide (m.dstUnit = some unit))
  let s1 := to_.foldl (fun s m => abandonMig s m.ptn m.tile) s0
  serveMigs (s1.ptns.foldl (fun s e => e.2.tiles.foldl (fun s t =>
    if t.2.tier = tier && t.2.unit = unit && !t.2.lost then
      let s2 := addSat (setTile s e.1 t.1 { t.2 with lost := true, migrating := false }) (tierPage tier unit)
        F.mem_LOST_TILES 1
      if t.2.pinned then
        match rangeOf s2 e.1 (65536 * t.1) with
        | some k => setPinned s2 e.1 k 0
        | none => s2
      else s2
    else s) s) s1)

end Sys2Proof.Machine
end

