-- ==== Sys2Proof/Machine/MovCore.lean ====
section
/-! DEFINITION. Mover descriptors: station windows (R171, R174), the fault record (R234 to R237), and how a descriptor
ends and posts its completion (R215, R223, R233, R241). -/

namespace Sys2Proof.Machine

/-! ### The partition range (R171, R174) -/

/-- The end of the tiered region. -/
def tieredEnd : Nat := 0xFF00_0000_0000
/-- The end of the station windows. -/
def windowEnd : Nat := 0xFF00_4800_0000

/-- Does an address lie in the station windows. -/
def inWindows (a : Nat) : Bool := decide (tieredEnd ≤ a) && decide (a < windowEnd)

/-- The station and the byte of its tile store that a station-window address reaches; none where R174 refuses it. -/
def windowAt (s : State) (p a : Nat) : Option (Nat × Nat) :=
  let i := (a - tieredEnd) / 0x80_0000
  let o := (a - tieredEnd) % 0x80_0000
  match mapFind (ptn s p).names i with
  | none => none
  | some b =>
    let m := if o < 0x40_0000 then b.station else b.station + 1
    let off := o % 0x40_0000
    if (o < 0x40_0000 || b.pair) && slotAllowed s m false (off / 65536) then some (m, off) else none

/-- Is a partition address in a PINNED range (R245). -/
def pinnedAt (s : State) (p a : Nat) : Bool :=
  match rangeOf s p a with
  | some k => bitAt (rd s (.ptn p) F.ptn_PINNED) k
  | none => false

/-! ### Items -/

/-- The accepted parcel with number `pid` of channel `k`. -/
def movItem (s : State) (k pid : Nat) : Option MovItem := (mov s k).items.find? (fun it => decide (it.pid = pid))

/-- Change an accepted parcel. -/
def setItem (s : State) (k : Nat) (it : MovItem) : State :=
  let c := mov s k
  setMov s k { c with items := replaceFirst (fun x => decide (x.pid = it.pid)) (fun _ => it) c.items }

/-- Is the parcel's completion decided. -/
def MovItem.isFinished (it : MovItem) : Bool := match it.st with
  | .finished _ => true
  | _ => false

/-- Does it run on an engine. -/
def MovItem.isRunning (it : MovItem) : Bool := match it.st with
  | .running _ => true
  | _ => false

/-- The bytes of a streaming line of a SKEW's format, its skew lanes, and the scale bytes of a row (R85, R87, R213). -/
def Desc.lineBytes (d : Desc) : Nat := fmtLB d.fmt
/-- K of R219. -/
def Desc.lanes (d : Desc) : Nat := if d.fmt = 10 then 64 else 128
/-- Scale bytes per source row. -/
def Desc.scaleBytes (d : Desc) : Nat := if d.op ≠ 2 then 0 else if d.fmt = 5 then 8 else if fmtMX d.fmt then 4 else 0

/-- PROGRESS of the whole descriptor (R215). -/
def Desc.total (d : Desc) : Nat := if d.op = 1 then d.rows * d.rowBytes else d.rows

/-- Source rows of a scale block (R87). -/
def Desc.scaleStep (d : Desc) : Nat := if d.fmt = 5 then 16 else 32

/-- Does scale line `t` of the image hold the scale of a row (R87): a line that holds none is left unwritten (R219). -/
def Desc.scaleHeld (d : Desc) (t : Nat) : Bool :=
  (List.range d.scaleBytes).any (fun j => decide (d.scaleStep * j ≤ t) && decide (t - d.scaleStep * j < d.rows))

/-- The lines of a SKEW's image (R219). -/
def Desc.lines (d : Desc) : Nat := d.rows + d.lanes - 1

/-- The bytes that a descriptor writes. -/
def Desc.bytesWritten (d : Desc) : Nat :=
  if d.op = 2 then d.lines * d.lineBytes + 8 * ((List.range d.lines).filter d.scaleHeld).length else d.rows * d.rowBytes

/-- The 16 bytes of a mover completion (R215). -/
def movCplBytes (it : MovItem) (status : Nat) : List Byte :=
  natLE 1 status ++ natLE 1 (match it.fault with
    | some f => f.kind
    | none => 0) ++ natLE 2 it.stake ++ natLE 4 it.desc.tag ++ natLE 8 it.progress

/-! ### The fault record (R235 to R237, R247) -/

/-- Descriptors of a channel that are stopped. -/
def stoppedItems (s : State) (k : Nat) : List MovItem := (mov s k).items.filter (fun it => decide (it.st = .stopped))

/-- Write FLT_PENDING: stopped descriptors behind the one shown. -/
def setPendingCount (s : State) (k : Nat) : State := wr s (.mov k) F.mov_FLT_PENDING ((stoppedItems s k).length - 1)

/-- Show the oldest stopped descriptor in the fault record when none is shown (R236). -/
def showFault (s : State) (k : Nat) : State :=
  match (mov s k).shown, stoppedItems s k with
  | none, it :: _ =>
    let f := it.fault.getD { kind := 0, side := 0, table := false, level := 0, addr := 0, entry := 0 }
    let w := fun (s : State) (e : Fld × Nat) => wr s (.mov k) e.1 e.2
    let s1 := [(F.mov_FLT_VALID, 1), (F.mov_FLT_KIND, f.kind), (F.mov_FLT_SIDE, f.side),
      (F.mov_FLT_TABLE, ofBool f.table), (F.mov_FLT_LEVEL, f.level), (F.mov_FLT_OUTCOME, 0), (F.mov_FLT_ADDR, f.addr),
      (F.mov_FLT_ENTRY, f.entry), (F.mov_FLT_PROGRESS, it.progress), (F.mov_FLT_STAKE, it.stake),
      (F.mov_FLT_TAG, it.desc.tag)].foldl w s
    let left := 1000 * it.cfg.timeout
    let held := heldQuiesced s (.mov k)
    setPendingCount (setMov s1 k { mov s1 k with
      shown := some it.pid, fltDeadline := if held then none else some (s.mer.frc + left), fltLeft := left }) k
  | _, _ => setPendingCount s k

/-- The descriptor shown leaves the fault record. -/
def unshow (s : State) (k : Nat) : State :=
  wr (setMov s k { mov s k with shown := none, fltDeadline := none, fltLeft := 0 }) (.mov k) F.mov_FLT_VALID 0

/-! ### Ending (R215, R223, R233) -/

/-- The effect of a DONE descriptor on its slots: claimed slots become READY and HELD slots that it read FREE, and the
jobs that wait for the slots go on (R223, R238). -/
def slotsDone (s : State) (it : MovItem) : State :=
  let s1 := it.slots.foldl (fun s e => slotReady (setStn s e.1 (setSlot (stn s e.1) e.2 2)) e.1 e.2) s
  it.reads.foldl (fun s e =>
    if slotState (stn s e.1) e.2 = 3 then setStn s e.1 (setSlot (stn s e.1) e.2 0) else s) s1

/-- Was a station that the descriptor uses condemned by an injected fault (R561). -/
def itemInjected (s : State) (it : MovItem) : Bool := (it.slots ++ it.reads).any (fun e => unitInjected s e.1)

/-- A descriptor's completion is decided. -/
def finishItem (s : State) (k : Nat) (it : MovItem) (status : Nat) : State :=
  let y : MovItem := { it with
    st := .finished status
    progress := if status = 0x00 then it.desc.total else it.progress }
  let s1 := setItem s k y
  let s2 := if status = 0x00 then
      addSat (addSat (slotsDone s1 y) (.mov k) F.mov_DESCS_DONE 1) (.mov k) F.mov_BYTES_MOVED y.desc.bytesWritten
    else y.slots.foldl (fun s e => slotFailed s e.1 e.2 status) s1
  let s3 := if status = 0x02 then bumpHealth s2 5 (itemInjected s2 y) else s2
  if (mov s3 k).shown = some it.pid then showFault (unshow s3 k) k else setPendingCount s3 k

/-- Post the completions of a channel in acceptance order, as far as they are decided: the reserved parcel is
committed, the parcel released and the stake freed (R232, R233, R264). -/
def postItems (s : State) (k : Nat) : Nat → State
  | 0 => s
  | fuel + 1 =>
    match (mov s k).items with
    | it :: rest =>
      match it.st with
      | .finished c =>
        let s1 := setMov s k { mov s k with items := rest }
        postItems (postReserved s1 it.cpl (movCplBytes it c) it.pid it.stake c) k fuel
      | _ => s
    | [] => s

/-- Post what can be posted. -/
def postAll (s : State) (k : Nat) : State := postItems s k (mov s k).items.length

/-- The agent of a channel. -/
def movAg (k : Nat) : Agent := .mover k

/-- A channel gives up an acceptance that has not finished: its stalled read and reservation are withdrawn, a stake
taken for it is freed, and an admitted completion parcel is withdrawn (R240, R268). -/
def dropAccept (s : State) (k : Nat) : State :=
  let s1 := dropStakeWait (withdrawAgent s (movAg k)) (movAg k)
  match takeGranted s1 (movAg k) 1 with
  | (some pid, s2) => (commitOp s2 pid 0).2
  | (none, s2) => s2

/-- The registers of the fault record return to 0. -/
def clearFaultRecord (s : State) (k : Nat) : State :=
  [F.mov_FLT_VALID, F.mov_FLT_KIND, F.mov_FLT_SIDE, F.mov_FLT_TABLE, F.mov_FLT_LEVEL, F.mov_FLT_OUTCOME,
    F.mov_FLT_PENDING, F.mov_FLT_ADDR, F.mov_FLT_ENTRY, F.mov_FLT_PROGRESS, F.mov_FLT_STAKE, F.mov_FLT_TAG].foldl
    (fun s f => wr s (.mov k) f 0) s

/-- A reset of a MOV page or a change of its owner: every accepted descriptor that has not completed completes with
NOT_DONE and its PROGRESS, and the completions are posted (R241). -/
def movReset (s : State) (k : Nat) : State :=
  let s1 := (mov s k).items.foldl (fun s it => if it.isFinished then s else finishItem s k it 0x01) (dropAccept s k)
  clearFaultRecord (setMov (postAll s1 k) k { mov (postAll s1 k) k with
    shown := none, fltDeadline := none, inv := false, blocked := none }) k

/-- Descriptors whose windows reach station `m`, or a joined pair that it is a member of, and which are not finished end
with STATION_LOST (R224). -/
def movStationLost (s : State) (m : Nat) : State :=
  s.movs.foldl (fun s e => e.2.items.foldl (fun s it =>
    if !it.isFinished && (it.slots ++ it.reads).any (fun x => (pairMembers s m).contains x.1) then finishItem s e.1 it 0x02
    else s) s) s

/-- Has a descriptor begun the writes that it goes on with: those of an XPOSE are made to their end (R220, R239). -/
def MovItem.midWrite (it : MovItem) : Bool := match it.buf with
  | some (_, n) => decide (0 < n)
  | none => false

/-- A descriptor saved with a CAUSE: the engine discards what it has read (R209, R239, R242). -/
def MovItem.save (it : MovItem) (cause : Nat) : MovItem := { it with st := .yielded cause, buf := none }

/-- Every running descriptor of the channel stops at a chunk boundary and is saved with a CAUSE, 1 for a yield, which YIELDS
counts, and 3 for a quiesce (R239, R240, R242). One whose writes are all made completes instead. -/
def yieldItems (s : State) (k : Nat) (p : Nat → MovItem → Bool) (cause : Nat) : State :=
  (mov s k).items.foldl (fun s it => match it.st with
    | .running e =>
      if p e it && decide (it.progress < it.desc.total) && !it.midWrite then
        let s1 := setItem s k (it.save cause)
        if cause = 1 then addSat s1 (.mov k) F.mov_YIELDS 1 else s1
      else s
    | _ => s) s

/-! ### Save records (R242) -/

/-- The descriptor as accepted, in the 64 bytes of R213, with a trigger expanded. -/
def Desc.bytes (d : Desc) : List Byte :=
  natLE 1 d.op ++ natLE 1 (ofBool d.sx + 2 * ofBool d.dx + 4 * ofBool d.order + 8 * ofBool d.packed6) ++ natLE 2 d.fmt
    ++ natLE 4 d.tag ++ natLE 8 d.src ++ natLE 8 d.dst ++ natLE 4 d.rows ++ natLE 4 d.rowBytes ++ natLE 4 d.srcStride
    ++ natLE 4 d.dstStride ++ natLE 8 d.src2 ++ natLE 8 d.dst2 ++ natLE 8 0

/-- FLT_STATUS as a fault leaves it for its descriptor (R235, R247). -/
def FaultRec.status (f : FaultRec) : Nat :=
  [(F.mov_FLT_VALID, 1), (F.mov_FLT_KIND, f.kind), (F.mov_FLT_SIDE, f.side), (F.mov_FLT_TABLE, ofBool f.table),
    (F.mov_FLT_LEVEL, f.level)].foldl (fun n e => setBits n e.1.lo e.1.w e.2) 0

/-- The CAUSE of a saved descriptor, and 0 for one that is not saved. -/
def MovItem.cause (it : MovItem) : Nat := match it.st with
  | .yielded c => c
  | .stopped => 2
  | _ => 0

/-- The 128 bytes of the save record of a descriptor of channel `k` (R242). No register returns it. -/
def movRecord (s : State) (k : Nat) (it : MovItem) : List Byte :=
  natLE 1 2 ++ natLE 1 it.cause ++ natLE 1 (ownerOf s (.mov k)) ++ natLE 1 1 ++ natLE 2 it.stake ++ natLE 2 k
    ++ natLE 8 it.progress ++ it.desc.bytes ++ natLE 8 (match it.fault with
      | some f => f.status
      | none => 0) ++ natLE 8 (match it.fault with
      | some f => f.addr
      | none => 0) ++ natLE 8 (it.cfg.cplQ + 2 ^ 32 * it.desc.tag) ++ natLE 24 0

end Sys2Proof.Machine
end

