-- ==== Sys2Proof/Machine/TenCore.lean ====
section
/-! DEFINITION. Transit engines: slot fields and the legality of a bundle (R354 to R356, R363), the exposed pipeline
(R357 to R363), block-exponent arithmetic (R364 to R368), starting and ending an item (R376 to R379). -/

namespace Sys2Proof.Machine

/-! ### Slot fields (R354, R355) -/

/-- OP of a slot word. -/
def tOp (w : Nat) : Nat := bits w 24 8
/-- D. -/
def tD (w : Nat) : Nat := bits w 20 4
/-- A. -/
def tA (w : Nat) : Nat := bits w 16 4
/-- B. -/
def tB (w : Nat) : Nat := bits w 12 4
/-- F. -/
def tF (w : Nat) : Nat := bits w 0 12

/-- Slot `k` of the bundle at index `i`: 0 S, 1 L, 2 M, 3 C. -/
def slotWord (e : Engine) (i k : Nat) : Nat := bits (mapGet 0 e.prog (2 * i + k / 2)) (32 * (k % 2)) 32

/-- The bits that a slot's operation uses, OP apart; none for an operation the slot may not hold (R355). -/
def slotUsed (k w : Nat) : Option (List (Nat × Nat)) :=
  let d := (20, 4)
  let a := (16, 4)
  let b := (12, 4)
  if tOp w = 0 then some []
  else if k = 0 then
    match tOp w with
    | 0x01 => some [d, (0, 16)]
    | 0x02 => some [d, (0, 16)]
    | 0x03 => some [d, a, (0, 12)]
    | 0x04 => if bits w 0 4 ≤ 9 then some [d, a, b, (0, 4)] else none
    | 0x05 => some [d]
    | 0x10 => some [(0, 11)]
    | 0x11 => some [a, (0, 11)]
    | 0x12 => some [a, (0, 11)]
    | 0x14 => some (if bitAt w 20 then [(20, 1), a, (0, 4)] else [(4, 8), (0, 4)])
    | 0x18 => some [a, (0, 1)]
    | 0x19 => some [a]
    | 0x1A => some [a, (0, 3)]
    | 0x1B => some [d]
    | 0x1C => some []
    | 0x20 => some [d, a, b, (0, 2), (4, 8)]
    | 0x21 => some [a, b, (0, 2), (2, 3)]
    | 0x3F => some []
    | _ => none
  else if k = 3 then
    match tOp w with
    | 0x80 => some [(20, 2), a, b, (0, 2)]
    | 0x81 => some [(20, 2), a, b, (0, 7)]
    | 0x82 => some [(20, 2), a, (0, 2)]
    | _ => none
  else
    match tOp w with
    | 0x40 => some [d, a, (0, 12)]
    | 0x41 => some [d, a, (0, 12)]
    | 0x42 => some [d, a, (11, 1), (0, 10)]
    | 0x43 => some [d, a, (0, 12)]
    | 0x44 => if bits w 0 2 = 3 then none else some ([d, a, (0, 2)] ++ if bits w 0 2 = 2 then [b] else [])
    | 0x45 => some ([d, (16, 2), (0, 1)] ++ if bitAt w 0 then [b] else [])
    | _ => none

/-- Does a slot word break R355. -/
def slotBad (k w : Nat) : Bool :=
  match slotUsed k w with
  | none => true
  | some l => decide (((24, 8) :: l).foldl (fun a e => setBits a e.1 e.2 0) w ≠ 0)

/-- The K, V and A registers (classes 0, 1, 2) that a slot writes, an INC base included (R356). -/
def slotWrites (w : Nat) : List (Nat × Nat) :=
  let op := tOp w
  let inc := if 0x40 ≤ op && op ≤ 0x43 && bitAt w 11 then [(0, tA w)] else []
  if op = 0x01 || op = 0x02 || op = 0x03 || op = 0x04 || op = 0x05 || op = 0x1B || op = 0x20 then [(0, tD w)]
  else if op = 0x40 then (0, tD w) :: inc
  else if op = 0x42 then (1, tD w) :: inc
  else if op = 0x44 || op = 0x45 then [(1, tD w)]
  else if 0x80 ≤ op then [(2, tD w % 4)]
  else inc

/-- Do two of the slots write one register. -/
def writesClash (l : List (List (Nat × Nat))) : Bool :=
  match l with
  | [] => false
  | a :: r => a.any (fun x => r.any (fun b => b.contains x)) || writesClash r

/-- Register Kk as landed. -/
def kReg (e : Engine) (k : Nat) : Nat := mapGet 0 e.k k
/-- Register Vk as landed. -/
def vReg (e : Engine) (k : Nat) : TVec := mapGet TVec.zero e.v k
/-- Accumulator Ak as landed. -/
def aReg (e : Engine) (k : Nat) : TVec := mapGet TVec.zero e.a k
/-- Part `i` of a vector register: real parts at even `i`. -/
def TVec.part (x : TVec) (i : Nat) : Int := x.parts.getD i 0

/-- COUNT of a REP (R363). -/
def repCount (e : Engine) (w : Nat) : Nat := if bitAt w 20 then kReg e (tA w) else bits w 4 8 + 1
/-- LEN of a REP. -/
def repLen (w : Nat) : Nat := bits w 0 4 + 1

/-- Does the bundle at PC break R356 or R363. -/
def bundleIllegal (e : Engine) : Bool :=
  let ws := (List.range 4).map (slotWord e e.pc)
  let op := tOp (ws.getD 0 0)
  decide (2048 ≤ e.pc)
    || (List.range 4).any (fun k => slotBad k (ws.getD k 0))
    || writesClash (ws.map slotWrites)
    || (e.branch.isSome && (op == 0x10 || op == 0x11 || op == 0x12 || op == 0x14 || op == 0x1C))
    || (e.rep.isSome && (op == 0x10 || op == 0x11 || op == 0x12 || op == 0x14 || op == 0x1C || op == 0x3F || op == 0x20
          || op == 0x21 || op == 0x1A || op == 0x19))
    || (op == 0x1C && (e.handler.isNone || e.ret))
    || (op == 0x14 && (decide (256 < repCount e (ws.getD 0 0))
          || decide (4096 < repCount e (ws.getD 0 0) * repLen (ws.getD 0 0))))

/-! ### Arithmetic (R364 to R368) -/

/-- RSH: divide by 2^k, to nearest with ties to even; exact for `k ≤ 0` (R365). -/
def rsh (v k : Int) : Int := if 0 < k then roundRI 0 (decide (v < 0)) v.natAbs (-k) else v * 2 ^ (-k).toNat

/-- SAT16 (R366). -/
def sat16 (v : Int) : Int := clampI (-32768) 32767 v
/-- SAT40 (R366). -/
def sat40 (v : Int) : Int := clampI (-549755813888) 549755813887 v

/-- Is an exponent in its range (R364). -/
def expOk (e : Int) : Bool := decide (-128 ≤ e) && decide (e ≤ 127)

/-- The parts of a vector of 64 parts. -/
def parts64 (f : Nat → Int) : List Int := (List.range 64).map f

/-- Does every part scaled by `k` fit 16 bits: s(k) (R368). -/
def fits (x : TVec) (k : Int) : Bool :=
  (List.range 64).all (fun i => decide (-32768 ≤ rsh (x.part i) k) && decide (rsh (x.part i) k ≤ 32767))

/-- The least `k` from `lo` to `hi` for which s(k) holds, and 0 when every part is zero (R368). -/
def leastScale (x : TVec) (lo hi : Int) : Int :=
  if (List.range 64).all (fun i => x.part i == 0) then 0
  else (((List.range (hi - lo + 1).toNat).map (fun (i : Nat) => lo + (i : Int))).find? (fun k => fits x k)).getD hi

/-- Scale by `k` with SAT16: the parts, and how many were changed (R366, R368). -/
def scaleSat (x : TVec) (k : Int) : List Int × Nat :=
  (parts64 (fun i => sat16 (rsh (x.part i) k)),
    ((List.range 64).filter (fun i => decide (sat16 (rsh (x.part i) k) ≠ rsh (x.part i) k))).length)

/-- VMV by its MODE, given Ka: the vector written and the parts saturated (R368). -/
def moveVec (x : TVec) (mode ka : Nat) : TVec × Nat :=
  if mode = 1 then
    let k := leastScale x (-15) 0
    ({ parts := parts64 (fun i => rsh (x.part i) k), ev := x.ev + k }, 0)
  else if mode = 2 then
    let r := scaleSat x (signed 8 ka - x.ev)
    ({ parts := r.1, ev := signed 8 ka }, r.2)
  else (x, 0)

/-- VPK: accumulator to vector (R368). -/
def packVec (x : TVec) (fixed : Bool) (ka : Nat) : TVec × Nat :=
  if fixed then
    let k := signed 8 ka
    let r := scaleSat x k
    ({ parts := r.1, ev := x.ev - 15 + k }, r.2)
  else
    let k := leastScale x (-24) 25
    ({ parts := parts64 (fun i => rsh (x.part i) k), ev := x.ev - 15 + k }, 0)

/-- Add parts `p` of exponent `ep` to an accumulator (R367): the new value, and the parts saturated. -/
def accumulate (old : TVec) (z : Bool) (p : Nat → Int) (ep : Int) : TVec × Nat :=
  let ea := if z then ep else old.ev
  let d := ep - ea
  let inner (i : Nat) : Int := rsh (p i) (-d)
  let outer (i : Nat) : Int := (if z then 0 else old.part i) + sat40 (inner i)
  let n := (List.range 64).foldl (fun n i =>
    n + ofBool (decide (sat40 (inner i) ≠ inner i)) + ofBool (decide (sat40 (outer i) ≠ outer i))) 0
  ({ parts := parts64 (fun i => sat40 (outer i)), ev := ea }, n)

/-- Part `i` of the lane-by-lane complex product of `x` and `y`, `y` conjugated when `cj`; `lane` broadcasts one lane
of `y` (R367). -/
def prodPart (x y : TVec) (cj : Bool) (lane : Option Nat) (i : Nat) : Int :=
  let l := i / 2
  let m := lane.getD l
  let xr := x.part (2 * l)
  let xi := x.part (2 * l + 1)
  let yr := y.part (2 * m)
  let yi := if cj then -(y.part (2 * m + 1)) else y.part (2 * m + 1)
  if i % 2 = 0 then xr * yr - xi * yi else xr * yi + xi * yr

/-! ### Data memory (R353, R359) -/

/-- The exponent byte of a line. -/
def lineExp (e : Engine) (line : Nat) : Int := signed 8 (mapGet 0 e.exps line)

/-- The line at an address as a vector. -/
def loadVec (e : Engine) (a : Nat) : TVec :=
  { parts := parts64 (fun i => signed 16 (leNat (loadBytes e.dm (a + 2 * i) 2))), ev := lineExp e (a / 128) }

/-- The 128 bytes of a vector. -/
def vecBytes (x : TVec) : List Byte := (List.range 64).flatMap (fun i => natLE 2 (unsigned 16 (x.part i)))

/-- Store bytes from an address on: a line covered whole loses any error in it (R200). -/
def storeDm (e : Engine) (a : Nat) (d : List Byte) : Engine :=
  let lo := (a + 127) / 128
  let hi := (a + d.length) / 128
  { e with dm := storeBytes e.dm a d, bad := mapDrop e.bad lo hi, soft := mapDrop e.soft lo hi }

/-- Set the exponent byte of a line. -/
def setExp (e : Engine) (line v : Nat) : Engine := { e with exps := mapSet 0 e.exps line (v % 256) }

/-- The bytes that a memory operation moves: 4, or a line. -/
def memUnit (w : Nat) : Nat := if tOp w = 0x40 || tOp w = 0x41 then 4 else 128

/-- The offset of a memory operation in bytes. -/
def memOff (w : Nat) : Nat := if memUnit w = 4 then 4 * bits w 0 11 else 128 * bits w 0 10

/-- The address of a memory operation (R359). -/
def memAddr (e : Engine) (w : Nat) : Nat := if bitAt w 11 then kReg e (tA w) else kReg e (tA w) + memOff w

/-- Is an address one that a memory operation may use (R359). -/
def memOk (e : Engine) (w : Nat) : Bool :=
  decide (memAddr e w % memUnit w = 0) && decide (memAddr e w < 0x40000)

/-- Is a slot word a memory operation. -/
def isMem (w : Nat) : Bool := 0x40 ≤ tOp w && tOp w ≤ 0x43

/-! ### Results in flight (R357, R358) -/

/-- A result lands. -/
def landOne (e : Engine) (x : TWrite) : Engine :=
  match x with
  | .k d v => { e with k := mapSet 0 e.k d (v % 2 ^ 32) }
  | .v d y => { e with v := mapSet TVec.zero e.v d y }
  | .a d y => { e with a := mapSet TVec.zero e.a d y }
  | .bytes a b ex => match ex with
    | none => storeDm e a b
    | some v => setExp (storeDm e a b) (a / 128) v

/-- Every result in flight lands, in issue order. -/
def landAll (e : Engine) : Engine := e.inflight.foldl (fun e p => landOne e p.wr) { e with inflight := [] }

/-- One bundle has issued: every distance shortens by one, and the results at 0 land. -/
def landStep (e : Engine) : Engine :=
  let l := e.inflight.map (fun p => { p with left := p.left - 1 })
  (l.filter (fun p => p.left == 0)).foldl (fun e p => landOne e p.wr)
    { e with inflight := l.filter (fun p => p.left != 0) }

/-- Put a result in flight with a latency in bundles. -/
def fly (e : Engine) (lat : Nat) (x : TWrite) : Engine := { e with inflight := e.inflight ++ [{ left := lat, wr := x }] }

/-- The value of an accumulator through the chain inside slot C: the latest result in flight, or the register (R361). -/
def chainVal (e : Engine) (d : Nat) : TVec :=
  e.inflight.foldl (fun x p => match p.wr with
    | .a d' y => if d' = d then y else x
    | _ => x) (aReg e d)

/-! ### PC (R362, R363) -/

/-- PC after the bundle at PC has issued. -/
def nextPc (e : Engine) : Engine :=
  match e.branch with
  | some (t, 1) =>
    if e.ret then { landAll e with pc := t, branch := none, ret := false, handler := none }
    else { e with pc := t, branch := none }
  | some (t, k) => { e with pc := e.pc + 1, branch := some (t, k - 1) }
  | none =>
    match e.rep with
    | some r =>
      if e.pc + 1 = r.first then
        (if r.left = 0 then { e with pc := r.first + r.len, rep := none } else { e with pc := e.pc + 1 })
      else if e.pc + 1 = r.first + r.len then
        (if 1 < r.left then { e with pc := r.first, rep := some { r with left := r.left - 1 } }
          else { e with pc := e.pc + 1, rep := none })
      else { e with pc := e.pc + 1 }
    | none => { e with pc := e.pc + 1 }

/-! ### Items (R376 to R379) -/

/-- The agent of an engine. -/
def tenAg (t : Nat) : Agent := .ten t

/-- An engine item starts: its registers are set from the grant, and bundle ENTRY is next (R376). -/
def engineStart (s : State) (t : Nat) (g : Grant) (w : WorkItem) : State :=
  let e := ten s t
  let put (m : NMap Nat) (x : Nat × Nat) : NMap Nat := mapSet 0 m x.1 (x.2 % 2 ^ 32)
  setTen s t { Engine.idle with
    prog := e.prog
    k := [(0, g.arg), (1, g.arg / 2 ^ 32), (2, w.frame), (3, g.slot + 65536 * g.cell),
          (4, g.endOff - g.startOff)].foldl put []
    pc := g.entry
    item := some w
    ptn := (cellOf s w.pattern g.cell).ptn
    cell := g.cell
    slot := g.slot
    qin := g.qin
    qout := g.qout
    startTick := w.rowStart + g.startOff
    endTick := w.rowStart + g.endOff
    stageMax := ef s (.ten t) F.ten_X_STAGE_MAX
    warnTicks := ef s (.ten t) F.ten_X_WARN }

/-- Radio cycles in WAIT are counted. The spec does not fix how many a wait takes: a free value (R370, R382). -/
def countWait (s : State) (t : Nat) : State :=
  nextFresh (addSat s (.ten t) F.ten_WAIT_CYC (Config.freeValue s.fresh % 2 ^ 32))

/-- A PRD or PWR in WAIT is withdrawn without consuming or reserving anything (R374, R378). -/
def withdrawWait (s : State) (t : Nat) : State :=
  let s1 := withdrawAgent (if agentHeld s (tenAg t) then countWait s t else s) (tenAg t)
  match takeGranted s1 (tenAg t) 1 with
  | (some pid, s2) => (commitOp s2 pid 0).2
  | (none, s2) => s2

/-- The item of an engine ends with a status (R371, R377, R378): with DONE its staged parcels are committed in order,
otherwise they are withdrawn; the parcels it read are released, and no completion is posted at that (R517); and the engine
zeroes itself (R379). -/
def engineFinish (s : State) (t status : Nat) (inj : Bool) : State :=
  let e := ten s t
  match e.item with
  | none => s
  | some w =>
    let r := endStatus (withdrawWait s t) e.staged status
    let st := r.1
    let s3 := e.taken.foldl (fun s pid => hwRelease s pid 0x00) (endStaged r.2 e.staged st)
    let s4 := setTen s3 t { Engine.idle with prog := e.prog, zeroing := true }
    let s5 := if st = 0 then addSat s4 (.ten t) F.ten_ITEMS_DONE 1
      else setEvt (addSat s4 (.ten t) F.ten_ITEMS_FAILED 1) (.ten t) 16
    endWork s5 w st inj

end Sys2Proof.Machine
end

