-- ==== Sys2Proof/Machine/Condemn.lean ====
section
/-! DEFINITION. Condemnation of a unit in service (R31, R37 to R42, R169, R201) and the uncorrectable errors that lead to
it (R200, R559). -/

namespace Sys2Proof.Machine

/-! ### The record (R36 to R40) -/

/-- An entry of the field defect region (R36). -/
def fdrEntry (unit source cause boots : Nat) : Nat :=
  unit + 2 ^ 10 * source + 2 ^ 12 * cause + 2 ^ 32 * satTo 0xFFFF boots

/-- Is an entry valid: its SOURCE is not 0b00 and its unit exists (R37). -/
def fdrValid (e : Nat) : Bool := decide (bits e 10 2 ≠ 0) && decide (bits e 0 10 < 712)

/-- The first valid entry that names a unit, by its number (R37). -/
def fdrFind (s : State) (u : Nat) : Option Nat :=
  (s.fp.fdr.find? (fun e => fdrValid e.2 && decide (bits e.2 0 10 = u))).map (fun e => e.1)

/-- FDR_FULL: no entry whose 64 bits are all zero remains (R38). -/
def fdrFull (s : State) : Bool := decide (1024 ≤ lowestFree 0 s.fp.fdr)

/-- Append an entry for a unit, unless it has one or the region is full; the number of the unit's entry (R37, R38). -/
def fdrAppend (s : State) (u source cause : Nat) : Option Nat × State :=
  match fdrFind s u with
  | some i => (some i, s)
  | none =>
    let i := lowestFree 0 s.fp.fdr
    if i < 1024 then
      (some i, { s with fp := { s.fp with fdr := mapPut s.fp.fdr i (fdrEntry u source cause s.mon.bootCount) } })
    else (none, s)

/-- The FP_UNIT entry of a condemned unit (R30, R39). -/
def condemnedEntry (old cause : Nat) (inj : Bool) (idx : Option Nat) : Nat :=
  let base := old - old % 4 + 2
  let b5 := setBits (setBits (setBits base 5 1 1) 6 1 (ofBool inj)) 26 6 cause
  match idx with
  | some i => setBits (setBits b5 4 1 1) 16 10 i
  | none => b5

/-- STATE and the source bits of the unit, its field defect entry, and FP_GEN raised by two (R27, R40). -/
def condemnRecord (s : State) (u cause : Nat) (inj : Bool) : State :=
  let r := if inj then (none, s) else fdrAppend s u 2 cause
  { r.2 with fp := { r.2.fp with
    gen := (r.2.fp.gen + 2) % 2 ^ 32
    units := mapSet 0 r.2.fp.units u (condemnedEntry (unitEntry s u) cause inj r.1) } }

/-! ### The items (R41, R169, R224) -/

/-- Is a run one that uses station `m`: it names it among its members (R41, R169). A run that a save of its pair's job left
the sequencer to is lost only with a station of its own grant. -/
def runUses (m n : Nat) (j : Job) : Bool := (members n j).contains m

/-- The run and the saved job of sequencer `n` that use station `m` end: a lent run with SLOT_DROPPED, its owner's jobs with
STATION_LOST (R41). -/
def loseRuns (s : State) (m n : Nat) : State :=
  let s1 := match (stn s n).job with
    | some j => if runUses m n j then dropRun s n (if j.lent.isSome then 0x08 else 0x02) else s
    | none => s
  match (stn s1 n).saved with
  | some r => if runUses m n r.job then dropSaved s1 n 0x02 else s1
  | none => s1

/-- What the loss of a station ends: its runs, its owner's jobs, and descriptors that use it. -/
def loseStation (s : State) (m : Nat) : State :=
  let s1 := (runsOn s m).foldl (fun s n => loseRuns s m n) s
  let s3 := movStationLost s1 m
  if pairJoined s3 m then setEvt s3 (.bpr (m / 2)) 16 else s3

/-- A dispatched work item that waits for its unit is given up. -/
def unhandItem (s : State) (w : WorkItem) (g : Grant) : State :=
  if g.kind ≤ 5 then s
  else match (stn s g.unit).lentPending with
    | some (k, _) => if k = w.stake then setStn s g.unit { stn s g.unit with lentPending := none } else s
    | none => s

/-- The dispatched work items whose grants name a unit that is lost end with SLOT_DROPPED, those too that wait for it (R40,
R41, R45). -/
def loseWork (s : State) (u : Nat) (inj : Bool) : State :=
  s.plat.items.foldl (fun s w =>
    let g := grantOf s w.pattern w.grant
    if s.plat.items.contains w && (grantUnits g).contains u then endWork (unhandItem s w g) w 0x08 inj else s) s

/-- The code with which an engine's item ends on a condition: a slot of the bundle that issues may have met another in the same
radio cycle, and R20 ranks the two. -/
def firstCode (e : Engine) (c : Nat) : Nat :=
  match e.fault with
  | some d => if codeRank d < codeRank c then d else c
  | none => c

/-- What the loss of a unit ends: stations, banks, stacks, transit engines and coding-pool units. A lane's loss acts
through its link. -/
def loseItems (s : State) (u : Nat) (inj : Bool) : State :=
  if u < 144 then loseWork (loseStation s u) u inj
  else if u < 208 then loseUnit s 1 (u - 144)
  else if u < 216 then loseUnit s 2 (u - 208)
  else if u < 472 then loseWork (engineFinish s (u - 216) (firstCode (ten s (u - 216)) 0x08) inj) u inj
  else if u < 616 then loseWork (cduFinish s (u - 472) 0x08 inj) u inj
  else s

/-- NAME_STATE of a name becomes down when the first of its stations is lost (R537, R539). -/
def namesDown (s : State) (u : Nat) : State :=
  forUpTo 64 (fun p s =>
    if (ptn s p).names.any (fun e => (decide (e.2.station = u) && (!e.2.pair || unitUp s (u + 1)))
        || (e.2.pair && decide (e.2.station + 1 = u) && unitUp s e.2.station)) then setEvt s (.ptn p) 16 else s) s

/-- Condemn a unit (R40): its items end, the record changes, UNIT_CONDEMNED is raised, and kind 4 counts it (R559). A
unit that is not ENABLED is not condemned; before READY there is no condemnation (R542), and one that falls during a
warm reset waits for its end (R553). A condemned block's page reads QUIESCED (R60) without having been quiesced: armed groups stay
armed, and no QUIESCED_SET is raised (DESIGN CHOICE, log entry 178). -/
def condemn (s : State) (u cause : Nat) (inj : Bool) : State :=
  if !unitUp s u then s
  else match s.stage with
    | .warm => { s with fp := { s.fp with deferred := s.fp.deferred ++ [(u, cause, inj)] } }
    | .ready =>
      let c := if inj then 0x3F else cause
      let s1 := condemnRecord s u c inj
      let s2 := loseItems s1 u inj
      let s3 := if u < 144 then namesDown s2 u else s2
      bumpHealth (emit (setEvt s3 .hlt 18) (.pldm "UNIT_CONDEMNED")) 4 inj
    | _ => s

/-! ### Uncorrectable errors (R31, R200, R559) -/

/-- The cause that three errors within a second meet: 0x06 for a stack, 0x04 for another unit. -/
def ueCause (u : Nat) : Nat := if 208 ≤ u && u < 216 then 0x06 else 0x04

/-- Do the latest three errors of a unit lie within 10⁹ ticks (R31). -/
def threeUes (l : List Nat) : Bool :=
  match l with
  | [c, _, a] => decide (c / 2 - a / 2 ≤ 1000000000)
  | _ => false

/-- An uncorrectable error of a page's unit is detected: UE_COUNT and kind 1 count it, and the unit's latest errors note
it. -/
def ueError (s : State) (p : Page) (inj : Bool) : State :=
  let s1 := match ueField p with
    | some f => bumpHealth (addSat s p f 1) 1 inj
    | none => s
  match unitOf p with
  | none => s1
  | some u =>
    let l := ((2 * s1.mer.frc + ofBool inj) :: mapGet [] s1.fp.ues u).take 3
    { s1 with fp := { s1.fp with ues := mapSet [] s1.fp.ues u l } }

/-- Units whose latest three errors lie within a second are condemned (R31). This follows the end of the item that read
the error: its DATA_ERROR was detected first, and R20 ranks it first too. -/
def condemnDue (s : State) : State :=
  s.fp.ues.foldl (fun s e =>
    if threeUes e.2 && unitUp s e.1 then
      condemn { s with fp := { s.fp with ues := mapErase s.fp.ues e.1 } } e.1 (ueCause e.1) (e.2.any (fun x => x % 2 == 1))
    else s) s

/-- The outcome of a command that may read memory: the condemnations that its errors lead to follow its effect. -/
def actMem (i : Instr) (s s' : State) : Host.Outcome State Fault Refusal := act i s (condemnDue s')

/-- Count the error that an access of the tiers met, if it met one. -/
def ueHit (s : State) (h : UeHit) : State :=
  match h with
  | some (p, inj) => ueError s p inj
  | none => s

/-- Does any of the byte ranges touch an SRAM line of a page's unit that holds an uncorrectable error (R31, R200): the
64-byte lines of a tile store, the 128-byte lines of data memory, a coding-pool unit's memory. -/
def sramBad (s : State) (p : Page) (rs : List (Nat × Nat)) : Bool :=
  let hit (bad : NMap Bool) (w : Nat) : Bool :=
    rs.any (fun r => bad.any (fun e => e.2 && decide (r.1 / w ≤ e.1) && decide (e.1 * w < r.1 + r.2)))
  match p with
  | .stn n => hit (stn s n).bad 64
  | .ten t => hit (ten s t).bad 128
  | .cdu i => (cdu s i).bad
  | _ => false

/-- A read of byte ranges of a unit's memory corrects the correctable errors of its lines, each counted (R200, R559). DESIGN
CHOICE (log entry 168): the line holds the error no longer. -/
def softRead (s : State) (p : Page) (rs : List (Nat × Nat)) : State :=
  let hit (k : Nat) : Bool := rs.any (fun r => decide (r.1 / 128 ≤ k) && decide (k * 128 < r.1 + r.2))
  match p with
  | .ten t =>
    let e := ten s t
    (e.soft.filter (fun x => hit x.1)).foldl (fun s _ => countCe s p false)
      (setTen s t { e with soft := e.soft.filter (fun x => !hit x.1) })
  | .cdu i => if (cdu s i).soft then countCe (setCdu s i { cdu s i with soft := false }) p false else s
  | _ => s

/-- A read of byte ranges of a unit's memory: the page's armed fault (R569), else an error that a line holds. A correctable
error is counted and the data are good; an uncorrectable one is counted and reported. -/
def unitRead (s : State) (p : Page) (rs : List (Nat × Nat)) : Bool × State :=
  let r := takeFault s p
  if r.1 = 1 then (false, countCe r.2 p true)
  else if r.1 = 2 then (true, ueError r.2 p true)
  else if sramBad r.2 p rs then (true, ueError r.2 p false)
  else (false, softRead r.2 p rs)

/-- The lines at the ends of `n` bytes at `a` of which a write covers only part (R200). -/
def edgeLines (a n : Nat) : List (Nat × Nat) :=
  (if a % 64 = 0 then [] else [(a / 64 * 64, 64)]) ++ (if (a + n) % 64 = 0 then [] else [((a + n) / 64 * 64, 64)])

/-! ### Accesses to a tile store (R104, R199, R200) -/

/-- Write bytes to a tile store through a window: a line of which part is written is read to merge (R200). -/
def writeWindow (s : State) (m off : Nat) (d : List Byte) : TRes × State :=
  let r := if merges off d.length then unitRead s (.stn m) (edgeLines off d.length) else (false, s)
  if r.1 then (.fail 0x0B none, r.2) else (.ok [], setStn r.2 m (putStore (stn r.2 m) off d))

/-- Is a slot served: no zeroing of its store, or of the lend region with it, is under way (R104, R199). -/
def slotServed (s : State) (e : Nat × Nat) : Bool :=
  !(stn s e.1).zeroStore && !((stn s e.1).zeroLend.isSome && decide (48 ≤ e.2) && decide (e.2 < 62))

end Sys2Proof.Machine
end

