-- ==== Sys2Proof/Machine/FixedLink.lean ====
section
/-! DEFINITION. The fixed-link air profile (R415 to R424): its grid, preamble, symbols and bit loading, the samples of a
burst, and the detection and measurement of a received one. Real numbers are fixed-point with 96 fraction bits. -/

namespace Sys2Proof.Machine

/-! ### Fixed-point numbers -/

/-- One, in fixed point. -/
def fxOne : Int := 2 ^ 96

/-- Product. -/
def fxMul (a b : Int) : Int := a * b / fxOne

/-- Quotient; 0 for a divisor of 0. -/
def fxDiv (a b : Int) : Int := a * fxOne / b

/-- A complex number. -/
structure Cx where
  re : Int
  im : Int
deriving DecidableEq, Repr

/-- Sum. -/
def Cx.add (a b : Cx) : Cx := { re := a.re + b.re, im := a.im + b.im }
/-- Difference. -/
def Cx.sub (a b : Cx) : Cx := { re := a.re - b.re, im := a.im - b.im }
/-- Product. -/
def Cx.mul (a b : Cx) : Cx :=
  { re := fxMul a.re b.re - fxMul a.im b.im, im := fxMul a.re b.im + fxMul a.im b.re }
/-- Conjugate. -/
def Cx.conj (a : Cx) : Cx := { re := a.re, im := -a.im }
/-- Squared magnitude. -/
def Cx.sq (a : Cx) : Int := fxMul a.re a.re + fxMul a.im a.im
/-- Quotient; 0 for a divisor of 0. -/
def Cx.div (a b : Cx) : Cx :=
  let n := a.mul b.conj
  { re := fxDiv n.re b.sq, im := fxDiv n.im b.sq }
/-- Nought. -/
def Cx.zero : Cx := { re := 0, im := 0 }
/-- Scale by a real number. -/
def Cx.scale (k : Int) (a : Cx) : Cx := { re := fxMul k a.re, im := fxMul k a.im }
/-- Sum of a list. -/
def Cx.sum (l : List Cx) : Cx := l.foldl Cx.add Cx.zero

/-- 2π in fixed point. -/
def twoPi : Int := 628318530717958647692528676655900576839433879875 * fxOne / 10 ^ 47

/-- Terms of the exponential series from term `k`. -/
def cisTerms (x : Int) : Nat → Int → Int → Cx → Cx
  | 0, _, _, acc => acc
  | fuel + 1, k, t, acc =>
    let acc2 : Cx := match (k % 4).toNat with
      | 0 => { acc with re := acc.re + t }
      | 1 => { acc with im := acc.im + t }
      | 2 => { acc with re := acc.re - t }
      | _ => { acc with im := acc.im - t }
    cisTerms x fuel (k + 1) (fxMul t x / (k + 1)) acc2

/-- e^(2πi × a ÷ b). -/
def cis (a b : Int) : Cx := cisTerms (twoPi * (a % b) / b) 64 0 fxOne Cx.zero

/-- The argument of a complex number in turns, in fixed point, from −1/2 to 1/2: 64 halvings of the half turn. -/
def argTurns (a : Cx) : Int :=
  let neg := decide (a.im < 0)
  let im := if neg then -a.im else a.im
  let go (x : Int × Int) (_ : Nat) : Int × Int :=
    let mid := (x.1 + x.2) / 2
    let c := cis mid fxOne
    if 0 < fxMul im c.re - fxMul a.re c.im then (mid, x.2) else (x.1, mid)
  let t := if a.im = 0 then (if a.re < 0 then fxOne / 2 else 0) else ((List.range 64).foldl go (0, fxOne / 2)).1
  if neg then -t else t

/-- The largest integer whose `k`-th power does not exceed `n`. -/
def natRoot (k n : Nat) : Nat :=
  let bitsN := Nat.log2 n / k + 1
  (List.range (bitsN + 1)).foldl (fun r i =>
    let c := r + 2 ^ (bitsN - i)
    if c ^ k ≤ n then c else r) 0

/-- Square root of a fixed-point number that is not negative. -/
def fxSqrt (a : Int) : Int := (Nat.sqrt (a * fxOne).toNat : Int)

/-- Round a fixed-point number to the nearest integer, ties to even. -/
def fxRound (a : Int) : Int := rshEven a 96

/-! ### The grid (R415, R416) -/

/-- The subcarrier index k of used subcarrier `u`. -/
def subK (u : Nat) : Int := if u < 1800 then (u : Int) - 1800 else (u : Int) - 1799

/-- Is used subcarrier `u` a pilot. -/
def isPilot (u : Nat) : Bool := subK u % 24 == 0

/-- The pilots' subcarriers, ascending. -/
def pilots : List Nat := (List.range 3600).filter isPilot

/-- The data subcarriers, ascending. -/
def dataSubs : List Nat := (List.range 3600).filter (fun u => !isPilot u)

/-- The preamble's subcarriers, ascending. -/
def preSubs : List Nat := (List.range 3600).filter (fun u => subK u % 4 == 0)

/-- ±1 from a pseudo-random bit. -/
def pm (init n : Nat) : Int := if prbs init n then -1 else 1

/-- The value of the `m`-th preamble subcarrier (R416). -/
def preValue (sector m : Nat) : Cx :=
  let r := fxSqrt (2 * fxOne)
  { re := pm (sector * 2 ^ 10) (2 * m) * r, im := pm (sector * 2 ^ 10) (2 * m + 1) * r }

/-- The value of the `p`-th pilot of symbol `l`. -/
def pilotValue (sector l p : Nat) : Int := pm (sector * 2 ^ 10 + l) p

/-- Group `g`'s bits per subcarrier in a bit-loading table that starts at byte `o` of a context's bytes (R410). -/
def bltAt (ctx : List Byte) (g : Nat) : Nat := bits (leAt ctx (0x80 + g / 2) 1) (4 * (g % 2)) 4

/-- NB (R419). -/
def burstBits (ctx : List Byte) : Nat := 115 * ((List.range 150).foldl (fun n g => n + bltAt ctx g) 0)

/-- The binary value of a Gray word, first bit most significant. -/
def grayVal (w : List Bool) : Nat := (w.foldl (fun (x : Nat × Bool) b => (2 * x.1 + ofBool (x.2 != b), x.2 != b)) (0, false)).1

/-- The level of one axis (R417). -/
def pamLevel (w : List Bool) : Int := 2 * (grayVal w : Int) - (2 ^ w.length - 1)

/-- The scale of a constellation of `b` bits: 1 ÷ √(((4^nI − 1) + (4^nQ − 1)) ÷ 3). -/
def pamScale (b : Nat) : Int :=
  let nI := (b + 1) / 2
  fxDiv fxOne (fxSqrt (((4 ^ nI - 1) + (4 ^ (b - nI) - 1)) * fxOne / 3))

/-- The point of a symbol of bits (R417). -/
def pamPoint (w : List Bool) : Cx :=
  let nI := (w.length + 1) / 2
  let k := if w.isEmpty then 0 else pamScale w.length
  { re := pamLevel (w.take nI) * k, im := pamLevel (w.drop nI) * k }

/-! ### Bit loading (R418) -/

/-- TQ_b (R418). -/
def tq : List Nat := [0, 0, 20, 34, 48, 60, 72, 85, 97, 109, 121, 133, 145]

/-- b_g: the largest b from 1 to MAXB whose threshold the SNR meets, and 0 when none does. -/
def bitLoad (maxb snr gap margin : Nat) : Nat :=
  (((List.range 13).filter (fun b => decide (1 ≤ b) && decide (b ≤ maxb) && decide (tq.getD b 0 + gap + margin ≤ snr))).getLast?).getD 0

/-! ### Transmission (R419, R421) -/

/-- The values of the subcarriers of data symbol `l` (1 to 5), from the burst's bits. -/
def symbolValues (ctx : List Byte) (sector l : Nat) (burst : Array Bool) : List (Nat × Cx) :=
  let per := burstBits ctx / 5
  let d := (dataSubs.foldl (fun (x : List (Nat × Cx) × Nat) u =>
    let b := bltAt ctx (u / 24)
    ((u, pamPoint ((List.range b).map (fun i => burst.getD (x.2 + i) false))) :: x.1, x.2 + b)) ([], (l - 1) * per)).1
  pilots.zipIdx.map (fun e => (e.1, { re := pilotValue sector l e.2 * fxOne, im := 0 })) ++ d

/-- Sample `n` of a symbol's body: A ÷ 60 × Σ X_k e^(2πikn ÷ 4,096) (R421). -/
def bodySample (a : Int) (vals : List (Nat × Cx)) (n : Nat) : Cx :=
  (Cx.sum (vals.map (fun e => e.2.mul (cis (subK e.1 * n) 4096)))).scale (a / 60)

/-- A for a BACKOFF (R421). -/
def fullScale (backoff : Nat) : Int := 32767 * (natRoot 80 (2 ^ (96 * 80) / 10 ^ backoff) : Int)

/-- One part of a sample: within 1 LSB of its exact value rounded, at the hardware's own choice, saturated to INT16. -/
def txPart (v : Int) (fresh : Nat) : Int :=
  clampI (-32768) 32767 (fxRound v + ((Config.freeValue fresh % 3 : Nat) : Int) - 1)

/-- The body of a symbol as INT16 pairs; `fresh` numbers its free values. -/
def bodySamples (a : Int) (vals : List (Nat × Cx)) (fresh : Nat) : List (Int × Int) :=
  (List.range 4096).map (fun n =>
    let c := bodySample a vals n
    (txPart c.re (fresh + 2 * n), txPart c.im (fresh + 2 * n + 1)))

/-- The slot's 30,720 samples: for each symbol its last 288 samples and its body, then the guard (R415, R421). -/
def slotSamples (ctx : List Byte) (sector backoff : Nat) (burst : List Bool) (fresh : Nat) : List (Int × Int) :=
  let a := fullScale backoff
  let b := burst.toArray
  (List.range 6).flatMap (fun l =>
    let vals := if l = 0 then preSubs.zipIdx.map (fun e => (e.1, preValue sector e.2)) else symbolValues ctx sector l b
    let body := bodySamples a vals (fresh + 8192 * l)
    body.drop 3808 ++ body) ++ List.replicate 4416 (0, 0)

/-- The bytes of samples: INT16 real part, then imaginary part. -/
def sampleBytes (l : List (Int × Int)) : List Byte :=
  l.flatMap (fun e => natLE 2 (unsigned 16 e.1) ++ natLE 2 (unsigned 16 e.2))

/-! ### Detection (R422) -/

/-- Received samples. -/
abbrev Samples := Array (Int × Int)

/-- The samples that a list of bytes holds. -/
def samplesOf (l : List Byte) : Samples :=
  let b := l.toArray
  let h (i : Nat) : Int := signed 16 ((b.getD i 0).toNat + 256 * (b.getD (i + 1) 0).toNat)
  (Array.range 30720).map (fun n => (h (4 * n), h (4 * n + 2)))

/-- Energy of one sample. -/
def energyAt (x : Samples) (n : Nat) : Int :=
  let e := x.getD n (0, 0)
  e.1 * e.1 + e.2 * e.2

/-- Energy of `n` samples from `from_`. -/
def energy (x : Samples) (from_ n : Nat) : Int := (List.range n).foldl (fun a i => a + energyAt x (from_ + i)) 0

/-- t_e: the least n ≤ SEARCH with P(n) ≥ 256 × NF × 10^(ETHR ÷ 40), compared as 40th powers. -/
def trigger (x : Samples) (search nf ethr : Nat) : Option Nat :=
  (List.range (search + 1)).find? (fun n => decide ((256 * nf) ^ 40 * 10 ^ ethr ≤ (energy x n 256).toNat ^ 40))

/-- A sample in fixed point; 0 outside the slot. -/
def sampleCx (x : Samples) (n : Int) : Cx :=
  if n < 0 then Cx.zero
  else
    let e := x.getD n.toNat (0, 0)
    { re := e.1 * fxOne, im := e.2 * fxOne }

/-- The preamble body. -/
def preBody (sector : Nat) : List Cx :=
  let vals := preSubs.zipIdx.map (fun e => (e.1, preValue sector e.2))
  (List.range 4096).map (fun n => Cx.sum (vals.map (fun e => e.2.mul (cis (subK e.1 * n) 4096))))

/-- Q(n) as a numerator and a denominator; 0 ÷ 1 where the window is all zero. -/
def qual (x : Samples) (p : List Cx) (n : Nat) : Int × Int :=
  let c := Cx.sum (p.zipIdx.map (fun e => (sampleCx x (n + e.2 : Nat)).mul e.1.conj))
  let d := energy x n 4096 * p.foldl (fun a v => a + v.sq) 0
  if d = 0 then (0, 1) else (c.sq, d)

/-- The first n with the largest Q of the window, and that Q. -/
def bestQual (x : Samples) (p : List Cx) (te : Nat) : Nat × Int × Int :=
  let lo := te - 288
  let r := (List.range (te + 1025 - lo)).map (fun i => (lo + i, qual x p (lo + i)))
  match r with
  | [] => (lo, 0, 1)
  | a :: rest => rest.foldl (fun b c => if b.2.1 * c.2.2 < c.2.1 * b.2.2 then c else b) a

/-! ### Measurement (R423) -/

/-- −f × 1,024 ÷ fs: the angle of the preamble's correlation at a lag of 1,024, in turns. -/
def cfoTurns (x : Samples) (t : Nat) : Int :=
  argTurns (Cx.sum ((List.range 3072).map (fun i =>
    (sampleCx x (t + i : Nat)).mul (sampleCx x (t + i + 1024 : Nat)).conj)))

/-- The transform of symbol `l` at subcarrier `k`, from 16 samples before its body start, with the carrier offset and
the phase ramp removed. -/
def spectrumAt (x : Samples) (t : Nat) (turns : Int) (l : Nat) (k : Int) : Cx :=
  let s0 : Int := (t : Int) + 4384 * l - 16
  (Cx.sum ((List.range 4096).map (fun (i : Nat) =>
    ((sampleCx x (s0 + (i : Int))).mul (cis (turns * (s0 + (i : Int))) (1024 * fxOne))).mul (cis (-(k * (i : Int))) 4096)))).mul (cis (16 * k) 4096)

/-- Ĥ at subcarrier `k`: linear between the nearest preamble subcarriers, and held beyond the outermost (R423). -/
def channelAt (h : List (Int × Cx)) (k : Int) : Cx :=
  let below := (h.filter (fun e => decide (e.1 ≤ k))).getLast?
  let above := h.find? (fun e => decide (k ≤ e.1))
  match below, above with
  | some a, some b => if a.1 = b.1 then a.2
      else a.2.add ((b.2.sub a.2).scale ((k - a.1) * fxOne / (b.1 - a.1)))
  | some a, none => a.2
  | none, some b => b.2
  | none, none => Cx.zero

/-- The least-squares line through points (k, φ): θ and τ, in turns. -/
def fitLine (pts : List (Int × Int)) : Int × Int :=
  let n : Int := pts.length
  let sx := pts.foldl (fun a e => a + e.1) 0
  let sy := pts.foldl (fun a e => a + e.2) 0
  let sxx := pts.foldl (fun a e => a + e.1 * e.1) 0
  let sxy := pts.foldl (fun a e => a + e.1 * e.2) 0
  let d := n * sxx - sx * sx
  let tau := (n * sxy - sx * sy) / d
  ((sy - tau * sx) / n, tau)

/-- What the measurement of a qualified burst gives: the equalised bins of the five data symbols with their channel,
and σ²_g and S_g by group. -/
structure FlMeas where
  bins : List (List (Cx × Cx))
  noise : List Int
  power : List Int
deriving DecidableEq, Repr

/-- Track and measure a burst (R423, 1 to 5). -/
def flMeasure (x : Samples) (t sector : Nat) (turns : Int) : FlMeas :=
  let h0 := preSubs.zipIdx.map (fun e => (subK e.1, (spectrumAt x t turns 0 (subK e.1)).div (preValue sector e.2)))
  let h := (List.range 3600).map (fun u => channelAt h0 (subK u))
  let ha := h.toArray
  let bins := (List.range 5).map (fun i =>
    let l := i + 1
    let y := ((List.range 3600).map (fun u => spectrumAt x t turns l (subK u))).toArray
    let pts := pilots.zipIdx.map (fun e =>
      let d := (y.getD e.1 Cx.zero).div ((ha.getD e.1 Cx.zero).scale (pilotValue sector l e.2 * fxOne))
      (subK e.1, argTurns d))
    let f := fitLine pts
    (List.range 3600).map (fun u =>
      (y.getD u Cx.zero, (ha.getD u Cx.zero).mul (cis (f.1 + subK u * f.2) fxOne))))
  let err (i p : Nat) : Int :=
    let b := (bins.getD i []).getD (pilots.getD p 0) (Cx.zero, Cx.zero)
    (b.1.sub (b.2.scale (pilotValue sector (i + 1) p * fxOne))).sq
  let noise := (List.range 150).map (fun g =>
    let ps := (List.range 150).filter (fun p =>
      decide (pilots.getD p 0 / 24 + 1 ≥ g) && decide (pilots.getD p 0 / 24 ≤ g + 1))
    let es := (List.range 5).flatMap (fun i => ps.map (err i))
    es.foldl (fun a b => a + b) 0 / (es.length : Int))
  let power := (List.range 150).map (fun g =>
    (List.range 24).foldl (fun a i => a + (ha.getD (24 * g + i) Cx.zero).sq) 0 / 24)
  { bins := bins, noise := noise, power := power }

/-- round(40 × log10(S ÷ σ²)) clamped to 0 to 255, compared as 80th powers; 255 when σ² is 0 (R423). -/
def snrQ (s n : Int) : Nat :=
  if n ≤ 0 then 255
  else ((List.range 255).filter (fun i => decide (10 ^ (2 * (i + 1) - 1) * n.toNat ^ 80 ≤ s.toNat ^ 80))).length

/-- The least squared distance on one axis from `z` to the levels of `n` bits whose bit `i` is `b`. -/
def axisDist (z k : Int) (n i : Nat) (b : Bool) : Int :=
  let ws := (List.range (2 ^ n)).map (fun j => (List.range n).map (fun m => bitAt j (n - 1 - m)))
  let ds := (ws.filter (fun w => w.getD i false == b)).map (fun w =>
    let d := z - pamLevel w * k
    (fxMul d d).toNat)
  ((minList ds).getD 0 : Nat)

/-- The LLRs of one data subcarrier of `b` bits (R423, 6); a noise of 0 leaves them open. -/
def subLlrs (yh : Cx × Cx) (b : Nat) (noise : Int) (fresh : Nat) : List Int :=
  let z := yh.1.div yh.2
  let nI := (b + 1) / 2
  let k := if b = 0 then 0 else pamScale b
  (List.range b).map (fun i =>
    if noise ≤ 0 then ((Config.freeValue (fresh + i) % 255 : Nat) : Int) - 127
    else
      let d := if i < nI then axisDist z.re k nI i true - axisDist z.re k nI i false
        else axisDist z.im k (b - nI) (i - nI) true - axisDist z.im k (b - nI) (i - nI) false
      sat8 (fxRound (fxDiv (fxMul (8 * yh.2.sq) d) noise)))

/-- Every LLR of a burst in the order of R419. -/
def flLlrs (ctx : List Byte) (m : FlMeas) (fresh : Nat) : List Int :=
  m.bins.zipIdx.flatMap (fun e => dataSubs.flatMap (fun u =>
    subLlrs (e.1.getD u (Cx.zero, Cx.zero)) (bltAt ctx (u / 24)) (m.noise.getD (u / 24) 0) (fresh + 43200 * e.2 + 12 * u)))

/-! ### The report (R424) -/

/-- A table of nibbles packed as BLT. -/
def packNibbles (l : List Nat) : List Byte :=
  (List.range (ceilDiv l.length 2)).map (fun i => BitVec.ofNat 8 (l.getD (2 * i) 0 + 16 * l.getD (2 * i + 1) 0))

/-- The 256-byte report. -/
def flReport (t : Nat) (f : Int) (q noise crc : Nat) (snr bl : List Nat) : List Byte :=
  natLE 2 t ++ natLE 2 0 ++ natLE 4 (unsigned 32 f) ++ natLE 1 q ++ natLE 3 0 ++ natLE 4 noise ++ natLE 8 crc
    ++ snr.map (fun x => BitVec.ofNat 8 x) ++ packNibbles bl ++ List.replicate 7 0

/-- A value that the spec does not say how to round: one of its two neighbours. -/
def eitherRound (num den : Int) (fresh : Nat) : Int :=
  if num % den = 0 then num / den else num / den + ((Config.freeValue fresh % 2 : Nat) : Int)

/-- Noise power per sample over the guard (R424). -/
def guardNoise (x : Samples) (fresh : Nat) : Nat := (eitherRound (energy x 26304 4416) 4416 fresh).toNat

end Sys2Proof.Machine
end

