-- ==== Sys2Proof/Machine/Coding.lean ====
section
/-! DEFINITION. The commands of the coding pool and the field book (R387 to R426). -/

namespace Sys2Proof.Machine

/-! ### Job headers (R392 to R395, R420) -/

/-- OP of a job. -/
def jOp (b : List Byte) : Nat := leAt b 0 1
/-- Flag `i` of byte 1. -/
def jFlag (b : List Byte) (i : Nat) : Bool := bitAt (leAt b 1 1) i
/-- KP of an NR job. -/
def jKp (b : List Byte) : Nat := leAt b 6 2
/-- E. -/
def jE (b : List Byte) : Nat := leAt b 8 4
/-- QM. -/
def jQm (b : List Byte) : Nat := bits (leAt b 12 1) 4 4
/-- RV or NPC. -/
def jRv (b : List Byte) : Nat := bits (leAt b 12 1) 0 2
/-- CTX. -/
def jCtx (b : List Byte) : Nat := bits (leAt b 16 3) 0 18
/-- NREF. -/
def jNref (b : List Byte) : Nat := leAt b 24 4
/-- The LDPC code of an NR job. -/
def jLdpc (b : List Byte) : Ldpc := { bg := leAt b 2 1, z := leAt b 4 2, kp := jKp b }
/-- Ncb of an NR job (R396). -/
def jNcb (b : List Byte) : Nat := if jFlag b 5 then min (jLdpc b).n (jNref b) else (jLdpc b).n
/-- The polar code of an NR job. -/
def jPolar (b : List Byte) : Polar :=
  { n := leAt b 4 2, kp := jKp b, e := jE b, npc := jRv b, crck := leAt b 3 1, iil := jFlag b 6, ibil := jFlag b 7 }

/-- The operation that unit `i` runs under an ENTRY (R387, R388). -/
def unitOp (i entry : Nat) : Nat :=
  if i < 64 then (if entry = 1 then 0x11 else 0x01)
  else if i < 96 then (if entry = 1 then 0x12 else 0x02)
  else if i < 128 then 0x03 else 0x04

/-- Are the parameters of an LDPC job out of R392's and R396's ranges. -/
def ldpcBad (b : List Byte) : Bool :=
  let c := jLdpc b
  let lay := leAt b 13 1
  decide (c.bg ≠ 1 ∧ c.bg ≠ 2) || (liftSet c.z).isNone || decide (c.kp < (if jFlag b 1 then 25 else 1)) || decide (c.k < c.kp)
    || decide (jE b = 0) || decide (65496 < jE b) || !([1, 2, 4, 6, 8, 10].contains (jQm b)) || decide (jE b % jQm b ≠ 0)
    || (jFlag b 5 && (decide (jNref b < c.kp) || decide (c.n < jNref b)))
    || (jOp b == 0x01 && (decide (lay < 4) || decide (c.rows < lay) || decide (leAt b 3 1 = 0) || decide (32 < leAt b 3 1)))

/-- Are the parameters of a polar job out of R392's and R406's ranges. -/
def polarBad (b : List Byte) : Bool :=
  let c := jPolar b
  decide (3 < c.crck) || decide (c.npc = 3) || (jOp b == 0x03 && decide (3 < leAt b 2 1))
    || decide (c.kp < 12) || decide (c.n < c.kp) || decide (c.e < c.kp) || decide (8192 < c.e)
    || decide (c.n ≠ polarN c.kp c.e (if c.ibil then 10 else 9)) || decide (c.kp ≤ (crcKind c.crck).1)

/-- The bytes that the payload of an NR job must have (R395). -/
def nrPayload (b : List Byte) : Nat :=
  match jOp b with
  | 0x01 => jE b
  | 0x03 => jE b
  | _ => ceilDiv (jKp b - if jFlag b 1 then 24 else 0) 8

/-- The bytes of information that a fixed-link job carries: C × ceil((KP − 24) ÷ 8). -/
def flInfoBytes (b : List Byte) : Nat := leAt b 6 1 * ceilDiv (leAt b 4 2 - 24) 8

/-- Is a fixed-link header outside R420. -/
def flBad (b : List Byte) : Bool :=
  let rx := jOp b == 0x11
  decide (2 ≤ leAt b 1 1) || (rx && decide (4000 < leAt b 2 2)) || decide (leAt b 4 2 < 25) || decide (8448 < leAt b 4 2)
    || decide (leAt b 6 1 = 0) || decide (64 < leAt b 6 1)
    || (rx && (decide (leAt b 7 1 = 0) || decide (32 < leAt b 7 1)))
    || decide (4 ≤ leAt b 18 1) || !zeroBytes b 19 20 || decide (4 ≤ leAt b 21 1) || !zeroBytes b 25 28
    || decide (b.length ≠ if rx then 32 else 32 + flInfoBytes b)
    || (rx && decide (65528 < 16 + 256 + flInfoBytes b))

/-- BAD_JOB (R395). -/
def jobBad (i entry : Nat) (b : List Byte) : Bool :=
  if b.length < 32 || jOp b ≠ unitOp i entry then true
  else if entry = 1 then flBad b
  else
    decide (leAt b 12 1 / 4 % 4 ≠ 0) || decide (4 ≤ leAt b 18 1) || decide (16 ≤ leAt b 19 1) || !zeroBytes b 21 24
      || (if jOp b ≤ 2 then ldpcBad b else polarBad b)
      || decide (b.length ≠ 32 + nrPayload b) || decide (65528 < 16 + ceilDiv (jE b) 8)

/-- The 16-byte header of an output parcel (R393). -/
def outHeader (b : List Byte) (arg st iters : Nat) : List Byte :=
  natLE 1 st ++ natLE 1 iters ++ natLE 2 (leAt b 14 2) ++ natLE 4 arg ++ natLE 4 (leAt b 28 4) ++ natLE 4 0

/-! ### Reading contexts (R409, R200) -/

/-- A read of the stack that holds item `n` of the device reserve, H(n mod 8) (R401, R409): an uncorrectable error, or a
condemned stack, is DATA_ERROR for the reader (R41, R200). -/
def stackRead (s : State) (n : Nat) : Bool × State :=
  let r := unitRead s (.hbc (n % 8)) []
  (r.1 || !unitUp s (208 + n % 8), r.2)

/-- The lines of the cache among `l` that byte ranges of context `c` touch. -/
def cacheLines (l : List Nat) (c : Nat) (rs : List (Nat × Nat)) : List Nat :=
  l.filter (fun k => decide (k / 4 = c) && rs.any (fun r => onLines r.1 r.2 (k % 4)))

/-- A read of byte ranges of a cached context: an uncorrectable error is counted and reported, correctable ones are corrected and
counted (R200, R425). DESIGN CHOICE (log entry 168): a corrected line holds the error no longer. -/
def cacheRead (s : State) (c : Nat) (rs : List (Nat × Nat)) : Bool × State :=
  if (cacheLines s.book.bad c rs).isEmpty then
    let l := cacheLines s.book.soft c rs
    (false, l.foldl (fun s _ => countCe s .cdp false)
      { s with book := { s.book with soft := s.book.soft.filter (fun k => !l.contains k) } })
  else (true, ueError s .cdp false)

/-- The byte ranges of a context whose lines an operation of the field book reads: a WRITE reads the lines of which it covers only
part, to merge (R200, R412). -/
def fbRanges (op off n : Nat) : List (Nat × Nat) :=
  if op = 2 then edgeLines off n else if op = 3 then [(0x40 + 4 * (off % 16), 4)] else [(off, n)]

/-- A WRITE that covers a line of the cache whole clears any error in it (R200). -/
def clearLines (b : FieldBook) (c off n : Nat) : FieldBook :=
  let whole (k : Nat) : Bool := decide (k / 4 = c) && decide (off ≤ 64 * (k % 4)) && decide (64 * (k % 4) + 64 ≤ off + n)
  { b with bad := b.bad.filter (fun k => !whole k), soft := b.soft.filter (fun k => !whole k) }

/-- A request or lookup of context `c` goes through the cache of 131,072 contexts, of which it reads the byte ranges `rs`, and
a miss reads its stack: whether that met an uncorrectable error, which brings nothing into the cache (R409, R425). -/
def touchCtx (s : State) (c : Nat) (rs : List (Nat × Nat)) : Bool × State :=
  let used (s : State) : State :=
    let l := (c :: s.book.cache.filter (fun x => decide (x ≠ c))).take 131072
    { s with book := { s.book with
      cache := l, bad := s.book.bad.filter (fun k => l.contains (k / 4)), soft := s.book.soft.filter (fun k => l.contains (k / 4)) } }
  if s.book.cache.contains c then cacheRead (used (addSat s .cdp F.cdp_FB_HITS 1)) c rs
  else
    let r := stackRead (addSat s .cdp F.cdp_FB_MISSES 1) c
    (r.1, if r.1 then r.2 else used r.2)

/-! ### Taking jobs (R389, R391, R422) -/

/-- Does the unit's newest job still take sample parcels (R422). -/
def wantsSamples (u : CdUnit) : Bool :=
  match u.held.getLast? with
  | some j => jOp j.bytes == 0x11 && j.out.isNone && decide (j.extra.length < 4)
  | none => false

/-- Change the newest job of a unit. -/
def CdUnit.setLast (u : CdUnit) (f : CdJob → CdJob) : CdUnit :=
  { u with held := u.held.dropLast ++ (u.held.getLast?.map f).toList }

/-- Does the partition of the unit's item own a queue: the unit makes no operation on another (R251). -/
def cduOwns (s : State) (i q : Nat) : Bool := decide (qOwner s q = (cdu s i).ptn)

/-- Take the sample parcels of a receive job: one of another length ends the job and is not consumed (R422). -/
def takeSamples (i : Nat) : Nat → State → State
  | 0, s => s
  | fuel + 1, s =>
    let u := cdu s i
    if wantsSamples u then
      match peekPid s (cduAg i) u.qin with
      | none =>
        match hwRead s (cduAg i) u.qin with
        | (.status c, s1) => cduPoolEnd s1 i c
        | (_, s1) => s1
      | some pid =>
        if (payload s pid).length = 30720 then
          let s1 := (hwRead s (cduAg i) u.qin).2
          takeSamples i fuel (setCdu s1 i { u.setLast (fun j => { j with extra := j.extra ++ [payload s pid] }) with
            taken := u.taken ++ [pid] })
        else setCdu s i (u.setLast (fun j => { j with out := some [outHeader j.bytes u.arg 0xA1 0], status := 0xA1 }))
    else s

/-- CODING_JOB_START. -/
def effCodingJobStart (i : Nat) (s : State) : State :=
  let u := cdu s i
  let ag := cduAg i
  if u.item.isNone || !cduOwns s i u.qin then s
  else match takeEnded s ag (readToken u.qin) with
    | (some c, s1) => cduPoolEnd s1 i c
    | (none, _) =>
      if wantsSamples u then takeSamples i 4 s
      else if u.last || 2 ≤ u.held.length then s
      else match hwRead s ag u.qin with
        | (.stalled, s1) => s1
        | (.status c, s1) => cduPoolEnd s1 i c
        | (.parcel pid, s1) =>
          let b := payload s1 pid
          let u1 := { u with taken := u.taken ++ [pid] }
          if 256 ≤ u.jobs + u.held.length then cduFinish (setCdu s1 i u1) i 0xA8 false
          else
            let bad := jobBad i u.entry b
            let j : CdJob := { bytes := b, extra := [], status := if bad then 0xA1 else 0
                               out := if bad then some [outHeader b u.arg 0xA1 0] else none }
            takeSamples i 4 (setCdu s1 i { u1 with held := u.held ++ [j], last := jFlag b 0 })
/-- A unit takes its next job parcel from QIN (R389, R391, R395). -/
def execCodingJobStart (i : Nat) (s : State) : Host.Outcome State Fault Refusal :=
  act (Instr.codingJobStart i) s (effCodingJobStart i s)

/-! ### Computing -/

/-- Store the output of the unit's oldest job not computed yet, with the radio cycles that it computed. -/
def setOut (s : State) (i st : Nat) (out : List (List Byte)) (cyc : Nat) : State :=
  let u := cdu s i
  addSat (setCdu s i { u with
    held := replaceFirst (fun j => j.out.isNone) (fun j => { j with out := some out, status := st }) u.held })
    (.cdu i) F.cdu_BUSY_CYC cyc

/-- Run `k` on the unit's oldest job not computed yet when it has the operation, whether or not an earlier job's output still
waits for QOUT (R391). The unit's memory is read first: an uncorrectable error ends the item (R390, R200). -/
def compute (s : State) (i op : Nat) (k : CdJob → State → State) : State :=
  let u := cdu s i
  match u.held.find? (fun j => j.out.isNone) with
  | some j =>
    if u.item.isSome && jOp j.bytes == op && (op != 0x11 || decide (j.extra.length = 4)) then
      let r := unitRead s (.cdu i) []
      if r.1 then cduFinish r.2 i 0x0B false else k j r.2
    else s
  | none => s

/-- A job ends with a status and no result. -/
def jobFail (s : State) (i : Nat) (j : CdJob) (st : Nat) : State :=
  setOut s i st [outHeader j.bytes (cdu s i).arg st 0] 0

/-- What the HARQ lookup of R402 answers: a job status, a memory error, or the buffer. -/
inductive HarqRes where
  | fail (st : Nat)
  | error
  | buf (b : Nat)
deriving DecidableEq, Repr

/-- The status with which an NR job's HARQ flag stops it, whatever its operation, with the context read for it: FB_RANGE, or
FB_KIND of a context that is not an NR UE's (R410); `none` for a memory error (R200). -/
def nrContext (s : State) (i : Nat) (b : List Byte) : Option Nat × State :=
  let p := (cdu s i).ptn
  if ef s (.ptn p) F.ptn_FB_COUNT ≤ jCtx b then (some 0xA6, s)
  else
    let ctx := ef s (.ptn p) F.ptn_FB_BASE + jCtx b
    let r := touchCtx s ctx [(0, 256)]
    if r.1 then (none, r.2)
    else (some (if leAt (ctxBytes r.2 ctx) 0 1 % 4 = 1 then 0x00 else 0xA7), r.2)

/-- HARQ_LOOKUP (R402, R405, R410). -/
def harqLookup (s : State) (i : Nat) (b : List Byte) : HarqRes × State :=
  let p := (cdu s i).ptn
  match nrContext s i b with
  | (none, s1) => (.error, s1)
  | (some (st + 1), s1) => (.fail (st + 1), s1)
  | (some 0, s1) =>
    let e := leAt (ctxBytes s1 (ef s (.ptn p) F.ptn_FB_BASE + jCtx b)) (0x40 + 4 * leAt b 19 1) 4
    let rel := bits e 0 18 + leAt b 20 1
    if !bitAt e 31 || bits e 18 8 ≤ leAt b 20 1 || ef s (.ptn p) F.ptn_HARQ_COUNT ≤ rel then (.fail 0xA2, s1)
    else
      let n := ef s (.ptn p) F.ptn_HARQ_BASE + rel
      if (mapFind s1.book.locks n).any (fun o => decide (o ≠ i)) then (.fail 0xA3, addSat s1 .cdp F.cdp_HARQ_BUSY_N 1)
      else
        let r := stackRead { s1 with book := { s1.book with locks := mapPut s1.book.locks n i } } n
        (if r.1 then .error else .buf n, r.2)

/-- The soft values that a buffer holds for a retransmission, or zeros (R402). -/
def harqOld (x : HarqBuf) (b : List Byte) : List Int :=
  if x.written && x.ndi == jFlag b 4 && decide (x.ncb = jNcb b) then x.current else List.replicate (jNcb b) 0

/-- The buffer as the item's end will leave it: the other copy written, and the selector flipped (R403). -/
def harqNew (x : HarqBuf) (b : List Byte) (fmt : Nat) (soft : List Int) : HarqBuf :=
  { copy0 := if x.sel = 0 then x.copy0 else soft, copy1 := if x.sel = 0 then soft else x.copy1, sel := 1 - x.sel,
    ndi := jFlag b 4, written := true, ncb := jNcb b, fmt := fmt }

/-- The signed LLRs of a payload. -/
def llrsOf (b : List Byte) (e : Nat) : List Int := (List.range e).map (fun i => sat8 (signed 8 (leAt b (32 + i) 1)))

/-- Decode an LDPC job from its soft values, and note the buffer to write back. -/
def ldpcRun (s : State) (i : Nat) (j : CdJob) (buf : Option Nat) : State :=
  let b := j.bytes
  let c := jLdpc b
  let lay := leAt b 13 1
  let old := match buf with
    | some n => harqOld (harqBuf s n) b
    | none => List.replicate (jNcb b) 0
  let soft := c.combine (jNcb b) (jRv b) (jQm b) old.toArray (llrsOf b (jE b))
  let r := c.decode lay (leAt b 3 1) (jFlag b 2) (jFlag b 1) soft
  let ok := !jFlag b 1 || crcOk (24, crc24b) r.1
  let st := if ok then 0x00 else 0xA0
  let res := bytesOfBits (if jFlag b 1 then r.1.take (c.kp - 24) else r.1)
  let s1 := match buf with
    | none => s
    | some n =>
      let fmt := ef s .cdp F.cdp_HARQ_FMT
      let u := cdu s i
      let y := harqNew (harqBuf s n) b fmt (c.stored fmt soft.toList)
      setCdu s i { u with harqWr := u.harqWr.filter (fun e => decide (e.1 ≠ n)) ++ [(n, y)] }
  addSat (setOut s1 i st [outHeader b (cdu s i).arg st r.2 ++ res] (104 + r.2 * lay * ceilDiv c.z 32)) (.cdu i)
    F.cdu_ITERS r.2

/-- LDPC_DECODE. -/
def effLdpcDecode (i : Nat) (s : State) : State :=
  compute s i 0x01 (fun j s =>
    if jFlag j.bytes 3 then
      match harqLookup s i j.bytes with
      | (.fail st, s1) => jobFail s1 i j st
      | (.error, s1) => cduFinish s1 i 0x0B false
      | (.buf n, s1) => ldpcRun s1 i j (some n)
    else ldpcRun s i j none)
/-- An LDPC decode job: de-rate-matching, HARQ combining and layered decoding (R397, R399, R402). -/
def execLdpcDecode (i : Nat) (s : State) : Host.Outcome State Fault Refusal :=
  actMem (Instr.ldpcDecode i) s (effLdpcDecode i s)

/-- An NR job other than an LDPC decode: its HARQ flag has only its context's KIND tested (R410), and it uses no buffer. -/
def computeKind (s : State) (i op : Nat) (k : CdJob → State → State) : State :=
  compute s i op (fun j s =>
    if jFlag j.bytes 3 then
      match nrContext s i j.bytes with
      | (none, s1) => cduFinish s1 i 0x0B false
      | (some (st + 1), s1) => jobFail s1 i j (st + 1)
      | (some 0, s1) => k j s1
    else k j s)

/-- LDPC_ENCODE. -/
def effLdpcEncode (i : Nat) (s : State) : State :=
  computeKind s i 0x02 (fun j s =>
    let b := j.bytes
    let c := jLdpc b
    let info := bitsOf (b.drop 32) (c.kp - if jFlag b 1 then 24 else 0)
    let cw := c.codeword (if jFlag b 1 then withCrc (24, crc24b) info else info)
    let out := c.rateMatch (jNcb b) (jRv b) (jE b) (jQm b) cw s.fresh
    setOut { s with fresh := s.fresh + jE b } i 0x00 [outHeader b (cdu s i).arg 0x00 0 ++ bytesOfBits out]
      (50 + (if c.bg = 1 then 24 else 14) * ceilDiv c.z 32))
/-- An LDPC encode job: CRC, code and rate matching (R396, R398, R399). -/
def execLdpcEncode (i : Nat) (s : State) : Host.Outcome State Fault Refusal :=
  actMem (Instr.ldpcEncode i) s (effLdpcEncode i s)

/-- POLAR_DECODE. -/
def effPolarDecode (i : Nat) (s : State) : State :=
  computeKind s i 0x03 (fun j s =>
    let b := j.bytes
    let c := jPolar b
    let r := c.decode (leAt b 2 1) (llrsOf b (jE b))
    let st := if r.2 then 0x00 else 0xA0
    setOut s i st [outHeader b (cdu s i).arg st 0 ++ bytesOfBits r.1]
      (64 + c.n * Nat.log2 c.n * 2 ^ leAt b 2 1 / 32))
/-- A polar decode job by CRC-aided list decoding (R400, R407). -/
def execPolarDecode (i : Nat) (s : State) : Host.Outcome State Fault Refusal :=
  actMem (Instr.polarDecode i) s (effPolarDecode i s)

/-- The information bits of a polar encode job: KP less the bits of its CRC (R406). R395 asks of the payload the bytes of
KP − 24 × CRC bits; where that is fewer the spec states no value for the rest, and each is free (log entry 145). -/
def polarInfo (b : List Byte) (fresh : Nat) : List Bool :=
  let n := jKp b - (crcKind (leAt b 3 1)).1
  let m := min n (8 * (b.length - 32))
  bitsOf (b.drop 32) m ++ (List.range (n - m)).map (fun k => decide (Config.freeValue (fresh + k) % 2 = 1))

/-- POLAR_ENCODE. -/
def effPolarEncode (i : Nat) (s : State) : State :=
  computeKind s i 0x04 (fun j s =>
    let b := j.bytes
    let c := jPolar b
    let out := c.encode (polarInfo b s.fresh)
    setOut { s with fresh := s.fresh + jKp b } i 0x00 [outHeader b (cdu s i).arg 0x00 0 ++ bytesOfBits out] (32 + c.n / 4))
/-- A polar encode job (R400, R406). -/
def execPolarEncode (i : Nat) (s : State) : Host.Outcome State Fault Refusal :=
  actMem (Instr.polarEncode i) s (effPolarEncode i s)

/-! ### The fixed link (R419 to R424) -/

/-- The context of a fixed-link job: a job status, or its bytes (R410). A memory error is DATA_ERROR, 0x0B (R200). -/
def flContext (s : State) (i : Nat) (b : List Byte) : (Nat ⊕ List Byte) × State :=
  let p := (cdu s i).ptn
  if ef s (.ptn p) F.ptn_FB_COUNT ≤ jCtx b then (.inl 0xA6, s)
  else
    let c := ef s (.ptn p) F.ptn_FB_BASE + jCtx b
    let r := touchCtx s c [(0, 256)]
    let s1 := r.2
    let x := ctxBytes s1 c
    if r.1 then (.inl 0x0B, s1)
    else if leAt x 0 1 % 4 ≠ 2 then (.inl 0xA7, s1)
    else
      let e := burstBits x / leAt b 6 1
      if e < leAt b 4 2 || 65496 < e then (.inl 0xA1, s1) else (.inr x, s1)

/-- The code of a fixed-link block. -/
def flCode (b : List Byte) : Ldpc := { bg := 1, z := 384, kp := leAt b 4 2 }

/-- SECTOR_ID. -/
def flSector (b : List Byte) : Nat := bits (leAt b 20 2) 0 10

/-- The bits of a burst: the code blocks, each rate-matched to E_r bits, and zeros (R419). -/
def flBurst (b x : List Byte) (fresh : Nat) : List Bool :=
  let c := flCode b
  let n := ceilDiv (c.kp - 24) 8
  let e := burstBits x / leAt b 6 1
  let cw := (List.range (leAt b 6 1)).flatMap (fun r =>
    c.rateMatch c.n 0 e 1 (c.codeword (withCrc (24, crc24b) (bitsOf ((b.drop (32 + n * r)).take n) (c.kp - 24)))) fresh)
  cw ++ List.replicate (burstBits x - cw.length) false

/-- A fixed-link job ends on a status of `flContext`: DATA_ERROR ends the item (R390), another ends the job. -/
def flFail (s : State) (i : Nat) (j : CdJob) (st : Nat) : State :=
  if st = 0x0B then cduFinish s i 0x0B false else jobFail s i j st

/-- FIXED_LINK_TRANSMIT. -/
def effFixedLinkTransmit (i : Nat) (s : State) : State :=
  compute s i 0x12 (fun j s =>
    let b := j.bytes
    match flContext s i b with
    | (.inl st, s1) => flFail s1 i j st
    | (.inr x, s1) =>
      let o := sampleBytes (slotSamples x (flSector b) (leAt b 24 1) (flBurst b x s1.fresh) s1.fresh)
      setOut { s1 with fresh := s1.fresh + 49152 } i 0x00
        ((List.range 4).map (fun k => (o.drop (30720 * k)).take 30720)) (6000 + leAt b 6 1 * (50 + 24 * 12)))
/-- A fixed-link transmit job: the burst and the slot's samples in four parcels (R419, R421). -/
def execFixedLinkTransmit (i : Nat) (s : State) : Host.Outcome State Fault Refusal :=
  actMem (Instr.fixedLinkTransmit i) s (effFixedLinkTransmit i s)

/-- A list of `n` values below `m` that the spec leaves open. -/
def freeList (fresh n m : Nat) : List Nat := (List.range n).map (fun i => Config.freeValue (fresh + i) % m)

/-- The report of a job that found no burst: what was measured, and open values where nothing was. -/
def emptyReport (s : State) (q : Option Nat) (noise : Nat) : List Byte :=
  let f := s.fresh + 8
  flReport (Config.freeValue f % 65536) (Config.freeValue (f + 1)) (q.getD (Config.freeValue (f + 2) % 256)) noise 0
    (freeList (f + 3) 150 256) (freeList (f + 153) 150 16)

/-- Decode the blocks of a qualified burst: for each its bits, whether its CRC passed, and its iterations. -/
def flDecode (b x : List Byte) (llr : List Int) : List (List Bool × Bool × Nat) :=
  let c := flCode b
  let e := burstBits x / leAt b 6 1
  (List.range (leAt b 6 1)).map (fun r =>
    let soft := c.combine c.n 0 1 (Array.replicate c.n 0) ((llr.drop (e * r)).take e)
    let d := c.decode (c.touched e) (leAt b 7 1) false true soft
    (d.1.take (c.kp - 24), crcOk (24, crc24b) d.1, d.2))

/-- The output of a qualified burst whose preamble body starts at `t`. -/
def flQualified (s : State) (i : Nat) (b x : List Byte) (y : Samples) (t q noise : Nat) : State :=
  let turns := cfoTurns y t
  let m := flMeasure y t (flSector b) turns
  let dec := flDecode b x (flLlrs x m (s.fresh + 512))
  let crc := dec.zipIdx.foldl (fun a e => if e.1.2.1 then a + 2 ^ e.2 else a) 0
  let snr := (m.power.zip m.noise).map (fun e => snrQ e.1 e.2)
  let bl := snr.map (fun v => bitLoad (leAt x 0xCB 1) v (leAt b 22 1) (leAt b 23 1))
  let f := eitherRound (-1920000 * turns) fxOne s.fresh
  let st := if dec.all (fun d => d.2.1) then 0x00 else 0xA0
  let its := dec.foldl (fun a d => a + d.2.2) 0
  let lay := (flCode b).touched (burstBits x / leAt b 6 1)
  addSat (setOut { s with fresh := s.fresh + 216512 } i st
    [outHeader b (cdu s i).arg st 0 ++ flReport t f q noise crc snr bl ++ dec.flatMap (fun d => bytesOfBits d.1)]
    (8000 + ceilDiv (leAt b 2 2) 4 + leAt b 6 1 * 104 + its * lay * 12)) (.cdu i) F.cdu_ITERS its

/-- FIXED_LINK_RECEIVE. -/
def effFixedLinkReceive (i : Nat) (s : State) : State :=
  compute s i 0x11 (fun j s =>
    let b := j.bytes
    match flContext s i b with
    | (.inl st, s1) => flFail s1 i j st
    | (.inr x, s1) =>
      let y := samplesOf j.extra.flatten
      let noise := guardNoise y (s1.fresh + 1)
      let none_ (st : Nat) (q : Option Nat) : State :=
        setOut { s1 with fresh := s1.fresh + 512 } i st [outHeader b (cdu s1 i).arg st 0 ++ emptyReport s1 q noise]
          (8000 + ceilDiv (leAt b 2 2) 4)
      match trigger y (leAt b 2 2) (leAt b 8 4) (leAt b 12 1) with
      | none => none_ 0xA4 none
      | some te =>
        let r := bestQual y (preBody (flSector b)) te
        let q := (255 * r.2.1 / r.2.2).toNat
        if 256 * r.2.1 < leAt b 13 1 * r.2.2 then none_ 0xA5 (some q) else flQualified s1 i b x y r.1 q noise)
/-- A fixed-link receive job: detection, measurement and decoding (R422 to R424). -/
def execFixedLinkReceive (i : Nat) (s : State) : Host.Outcome State Fault Refusal :=
  actMem (Instr.fixedLinkReceive i) s (effFixedLinkReceive i s)

/-! ### Job ends (R389 to R391) -/

/-- Reserve a parcel on QOUT for one output and copy the bytes into it: staged, or the unit waits, or the item ends. -/
def stageOut (s : State) (i : Nat) (bytes : List Byte) : Option State × State :=
  let u := cdu s i
  let ag := cduAg i
  let put (s : State) (pid : Nat) : State :=
    let v := cdu s i
    setCdu (writePayload s pid 0 bytes) i { v with staged := v.staged ++ [pid] }
  match takeGranted s ag 1 with
  | (some pid, s1) => (some (put s1 pid), s1)
  | (none, _) =>
    match takeEnded s ag 1 with
    | (some c, s1) => (none, cduPoolEnd s1 i c)
    | (none, _) =>
      if !cduOwns s i u.qout || (queue s u.qout).line.any (fun w => decide (w.agent = ag)) then (none, s)
      else
        let w : ResWait := { agent := ag, n := bytes.length, prio := qf s u.qout F.pq_HW_PRIO, payload := none,
                             srcPtn := u.ptn, srcStake := (u.item.map (fun w => w.stake)).getD 0xFFFF, token := 1, order := 0,
                             owed := none }
        match reserveWait s u.qout w with
        | (.parcel pid, s1) => (some (put s1 pid), s1)
        | (.stalled, s1) => (none, s1)
        | (.status c, s1) => (none, cduPoolEnd s1 i c)

/-- Stage the output parcels of the oldest job in order; then the job is done, and after a job with LAST the item. -/
def jobDone (i : Nat) : Nat → State → State
  | 0, s => s
  | fuel + 1, s =>
    let u := cdu s i
    match u.held with
    | [] => s
    | j :: rest =>
      match j.out with
      | none => s
      | some [] =>
        let s1 := addSat (setCdu s i { u with held := rest, jobs := u.jobs + 1 }) (.cdu i) F.cdu_JOBS 1
        let s2 := if j.status = 0xA0 then addSat s1 (.cdu i) F.cdu_CRC_FAILS 1 else s1
        if jFlag j.bytes 0 then cduFinish s2 i 0x00 false else s2
      | some (o :: os) =>
        match stageOut s i o with
        | (some s1, _) =>
          let v := cdu s1 i
          jobDone i fuel (setCdu s1 i { v with held := { j with out := some os } :: rest })
        | (none, s1) => s1

/-- CODING_JOB_DONE. -/
def effCodingJobDone (i : Nat) (s : State) : State := if (cdu s i).item.isNone then s else jobDone i 5 s
/-- A job's output is staged, and after a job with LAST the item commits, writes back and completes (R389, R391, R403). -/
def execCodingJobDone (i : Nat) (s : State) : Host.Outcome State Fault Refusal :=
  act (Instr.codingJobDone i) s (effCodingJobDone i s)

/-! ### Field book requests (R412, R413) -/

/-- The agent of a partition's requests. -/
def fbAg (p : Nat) : Agent := .fieldBook p

/-- The partition's request queue, when the partition owns it and neither it nor the field book's page is quiesced (R53,
R74). -/
def fbQueue (s : State) (p : Nat) : Option Nat :=
  let q := rd s (.ptn p) F.ptn_FB_REQ_Q
  if pstate s p = 1 && qOwner s q = p && !heldBlock s (.ptn p) && !heldBlock s .cdp then some q else none

/-- The next request of a partition. -/
def fbNext (s : State) (p : Nat) : Option Nat :=
  match fbQueue s p with
  | none => none
  | some q => peekPid s (fbAg p) q

/-- Does an earlier reply of the partition still wait for its reservation. -/
def fbReplying (s : State) (p : Nat) : Bool :=
  s.pool.queues.any (fun e => e.2.line.any (fun w => decide (w.agent = fbAg p)))

/-- Is it the partition's turn: no partition between the one served last and this one has a request (R412). -/
def fbTurn (s : State) (p : Nat) : Bool :=
  ((List.range 64).map (fun i => (s.book.turn + i) % 64)).find? (fun q => (fbNext s q).isSome && !fbReplying s q) == some p

/-- The operation of a request: 2 and 3 are WRITE and HARQ_RESET; every other value is served with the reads. -/
def fbOp (b : List Byte) : Nat := if leAt b 0 1 = 2 then 2 else if leAt b 0 1 = 3 then 3 else 1

/-- The status of a request. -/
def fbStatus (s : State) (p : Nat) (b : List Byte) : Nat :=
  let op := leAt b 0 1
  let n := leAt b 6 1 + 1
  if b.length < 16 || op = 0 || 3 < op || (op ≠ 3 && 256 < leAt b 5 1 + n) || (op = 2 && b.length ≠ 16 + n) then 0xA1
  else if ef s (.ptn p) F.ptn_FB_COUNT ≤ bits (leAt b 2 3) 0 18 then 0xA6
  else 0x00

/-- The buffers of a context's process that lie in the partition's range. -/
def fbBuffers (s : State) (p ctx proc : Nat) : List Nat :=
  let e := leAt (ctxBytes s ctx) (0x40 + 4 * proc) 4
  if bitAt e 31 then
    ((List.range (bits e 18 8)).map (fun k => bits e 0 18 + k)).filterMap (fun r =>
      if r < ef s (.ptn p) F.ptn_HARQ_COUNT then some (ef s (.ptn p) F.ptn_HARQ_BASE + r) else none)
  else []

/-- Apply a request to its context in one step: the status and the data of its reply, and the state. A context whose stack or
cache line meets an uncorrectable error is not served: DATA_ERROR, with no effect (R200). -/
def fbApply (s : State) (p : Nat) (b : List Byte) : Nat × List Byte × State :=
  let ctx := ef s (.ptn p) F.ptn_FB_BASE + bits (leAt b 2 3) 0 18
  let off := leAt b 5 1
  let n := leAt b 6 1 + 1
  let r := touchCtx s ctx (fbRanges (fbOp b) off n)
  let s1 := r.2
  if r.1 then (0x0B, [], s1)
  else match fbOp b with
  | 2 => (0x00, [], { s1 with book := { clearLines s1.book ctx off n with ctx := storeBytes s1.book.ctx (256 * ctx + off) ((b.drop 16).take n) } })
  | 3 => (0x00, [], (fbBuffers s1 p ctx (off % 16)).foldl resetHarq s1)
  | _ => (0x00, (ctxBytes s1 ctx).drop off |>.take n, s1)

/-- Serve the next request of a partition when it has the operation `op` and it is the partition's turn. -/
def fbServe (s : State) (p op : Nat) : State :=
  match fbQueue s p, fbNext s p with
  | none, _ => s
  | some q, none => (hwRead (takeEnded s (fbAg p) (readToken q)).2 (fbAg p) q).2
  | some q, some pid =>
    let b := payload s pid
    if fbOp b ≠ op || !fbTurn s p || fbReplying s p then s
    else
      let st := fbStatus s p b
      let s1 := (hwRead s (fbAg p) q).2
      let r := if st = 0 then fbApply s1 p b else (st, [], s1)
      let rq := bits (leAt b 8 2) 0 14
      let done : Owed := { pid := some pid, status := r.1, stake := none, job := none, inj := false }
      let s2 := if qOwner r.2.2 rq = p then
          lastPost r.2.2 (fbAg p) rq (natLE 1 r.1 ++ natLE 1 0 ++ natLE 2 (leAt b 10 2) ++ natLE 4 0 ++ natLE 4 (leAt b 12 4)
            ++ natLE 4 0 ++ r.2.1) 0xFF 0xFFFF 1 done
        else settleOwed (setErr r.2.2 .cdp 16) false done
      let s3 := addSat s2 (.ptn p) F.ptn_FB_REQS 1
      { s3 with book := { s3.book with turn := (p + 1) % 64 } }

/-- FB_READ. -/
def effFbRead (p : Nat) (s : State) : State := fbServe s p 1
/-- A READ request returns bytes of a context (R412). -/
def execFbRead (p : Nat) (s : State) : Host.Outcome State Fault Refusal := actMem (Instr.fbRead p) s (effFbRead p s)

/-- FB_WRITE. -/
def effFbWrite (p : Nat) (s : State) : State := fbServe s p 2
/-- A WRITE request writes bytes of a context in one step (R412, R413). -/
def execFbWrite (p : Nat) (s : State) : Host.Outcome State Fault Refusal := actMem (Instr.fbWrite p) s (effFbWrite p s)

/-- HARQ_RESET. -/
def effHarqReset (p : Nat) (s : State) : State := fbServe s p 3
/-- A HARQ_RESET request clears the written flags of one process (R405, R412). -/
def execHarqReset (p : Nat) (s : State) : Host.Outcome State Fault Refusal := actMem (Instr.harqReset p) s (effHarqReset p s)

end Sys2Proof.Machine
end

