-- ==== Sys2Proof/Machine/MerCore.lean ====
section
/-! DEFINITION. Meridian time (R280 to R290): the counter, the time it carries, slewing, stamps, and the passing of one
time tick. -/

namespace Sys2Proof.Machine

/-- RATE as a signed number (R286). -/
def merRate (s : State) : Int := signed 64 (rd s .mer F.mer_RATE)

/-- T at tick `n`, from the anchor and the adjustment applied so far (R282); 0 until a step has been made (R284). -/
def timeAt (s : State) (n : Int) : Int :=
  if s.mer.stepUsed then s.mer.anchorT + (n - s.mer.anchorN) * (2 ^ 48 + merRate s) + s.mer.slewed else 0

/-- Meridian time now, in units of 2⁻⁴⁸ ns. -/
def timeNow (s : State) : Int := timeAt s s.mer.frc

/-- The whole nanoseconds of a time (R283). -/
def nsTotal (t : Int) : Int := t / 2 ^ 48

/-- The linear form (R283). -/
def linForm (t : Int) : Nat := (nsTotal t % 2 ^ 64).toNat

/-- The binary fraction of a nanosecond, 32 bits (R283). -/
def fracForm (t : Int) : Nat := (t / 2 ^ 16 % 2 ^ 32).toNat

/-- The nanoseconds field of the full form (R283). -/
def nanosForm (t : Int) : Nat := (nsTotal t % 1000000000).toNat

/-- The seconds field of the full form (R283). -/
def secondsForm (t : Int) : Nat := (nsTotal t / 1000000000 % 2 ^ 64).toNat

/-- The linear form now. -/
def linNow (s : State) : Nat := linForm (timeNow s)

/-- Meridian time moved by a signed number of ticks that a compensation field holds. -/
def compensated (s : State) (f : Fld) : Int := timeNow s + signed 16 (ef s .mer f) * (2 ^ 48 + merRate s)

/-- The whole second of the time of the 1PPS output: Meridian time moved later by X_PPS_OUT_COMP ticks (R293). -/
def ppsSecond (s : State) : Int := nsTotal (2 * timeNow s - compensated s F.mer_X_PPS_OUT_COMP) / 1000000000

/-- The time of the 1PPS output has passed a tick: a whole second that it had not reached before is due (R293). -/
def notePps (s : State) : State :=
  { s with mer := { s.mer with ppsDue := decide (s.mer.ppsSec < ppsSecond s), ppsSec := max s.mer.ppsSec (ppsSecond s) } }

/-- The part of the remaining adjustment that one tick applies: sign × min(2²², |remainder|), in 2⁻³² ns (R287). -/
def slewStep (rem : Int) : Int := clampI (-(2 ^ 22)) (2 ^ 22) rem

/-- One time tick passes: FRC counts it and the adjustment slews (R280, R287). -/
def timeTick (s : State) : State :=
  notePps { s with mer := { s.mer with
    frc := (s.mer.frc + 1) % 2 ^ 64
    slewed := if s.mer.stepUsed then s.mer.slewed + slewStep s.mer.rem * 2 ^ 16 else s.mer.slewed
    rem := s.mer.rem - slewStep s.mer.rem } }

/-- The number of ticks from now until T first reaches `target`, as the RATE in effect and the adjustment still to run
predict it (R299); 0 when it has reached it. -/
def ticksUntil (s : State) (target : Int) : Nat :=
  let t := timeNow s
  if target ≤ t then 0
  else
    let full := s.mer.rem.natAbs / 2 ^ 22
    let slope := 2 ^ 48 + merRate s
    let sg : Int := if s.mer.rem < 0 then -1 else 1
    let d1 := (-((t - target) / (slope + sg * 2 ^ 38))).toNat
    let d2 := (-((t + s.mer.rem * 2 ^ 16 - target) / slope)).toNat
    if d1 ≤ full then d1 else if d2 ≤ full + 1 then full + 1 else d2

/-- Trigger `k` is disarmed: no conversion and no firing is pending. -/
def disarmTrigger (s : State) (k : Nat) : State :=
  let s1 := wr s .mer (F.mer_ARM.ix k) 0
  { s1 with mer := { s1.mer with fireAt := mapErase s1.mer.fireAt k, stopAfter := mapErase s1.mer.stopAfter k } }

/-- Every trigger is disarmed (R290). -/
def disarmAll (s : State) : State := forUpTo 64 (fun k s => disarmTrigger s k) s

/-- A trigger that is LATE is not fired: ARM clears, LATE is set and TRG_LATE is raised (R299). -/
def lateTrigger (s : State) (k : Nat) : State :=
  setEvt (wr (disarmTrigger s k) .mer (F.mer_LATE.ix k) 1) .mer 19

/-- A time-domain reset by TDR: R284 applies, with RATE and the adjustment 0 and every trigger disarmed; FRC, the lock
and the stamp queues stay (R290). -/
def timeDomainReset (s : State) : State :=
  let s1 := wr (disarmAll s) .mer F.mer_RATE 0
  { s1 with mer := { s1.mer with
    anchorN := s1.mer.frc, anchorT := 0, slewed := 0, rem := 0, timeValid := false, stepUsed := false } }

/-- A stamp of now, moved by a port's fixed latency (R443): within ±1.5 ns of that time, at the hardware's own choice
(R292). -/
def stampTime (s : State) (moved : Int) : Int :=
  timeNow s + moved + ((Config.stampError s.fresh % (3 * 2 ^ 48 + 1) : Nat) : Int) - 3 * 2 ^ 47

/-- An entry arrives at transmit time-stamp queue `q` (R294, R296). -/
def pushStamp (s : State) (q id : Nat) (moved : Int) : State :=
  let l := mapGet [] s.mer.tsq q
  if l.length < 32 then
    let t := stampTime s moved
    let e : Stamp := { id := id, lin := linForm t, frac := fracForm t }
    nextFresh { s with mer := { s.mer with tsq := mapSet [] s.mer.tsq q (l ++ [e]) } }
  else
    let s1 := addSat s .mer F.mer_TSQ_DROPS 1
    setErr (wr s1 .mer F.mer_TSQ_OVF (setBits (rd s1 .mer F.mer_TSQ_OVF) q 1 1)) .mer 20

end Sys2Proof.Machine
end

