-- ==== Sys2Proof/Machine/FhCore.lean ====
section
/-! DEFINITION. Fronthaul ports: which exist and are available (R427, R429), compression (R436 to R438), flows (R459), the
discovery table and its events (R444 to R447), and the transmit window (R451). -/

namespace Sys2Proof.Machine

/-- The `n` big-endian bytes of a number. -/
def natBE (n x : Nat) : List Byte := (natLE n x).reverse

/-- The big-endian number that a list of bytes spells. -/
def beNat (l : List Byte) : Nat := leNat l.reverse

/-! ### Ports (R427, R429) -/

/-- WIDTH of the four lanes that hold slot `q`. -/
def fhWidth (s : State) (q : Nat) : Nat := rd s (.fhp (4 * (q / 4))) F.fhp_WIDTH

/-- The lanes of the port of slot `q` under WIDTH; none where no port begins at that lane. -/
def fhLanes (s : State) (q : Nat) : List Nat :=
  match fhWidth s q with
  | 0 => if q % 4 = 0 then [q, q + 1, q + 2, q + 3] else []
  | 1 => if q % 2 = 0 then [q, q + 1] else []
  | 2 => [q]
  | _ => []

/-- AVAILABLE: a port begins at lane `q`, and every lane of it is ENABLED (R46, R429). -/
def fhAvailable (s : State) (q : Nat) : Bool :=
  !(fhLanes s q).isEmpty && (fhLanes s q).all (fun l => unitUp s (616 + l))

/-- The line rate of the port of slot `q`, in Mbit/s (R427). -/
def fhLineRate (s : State) (q : Nat) : Nat :=
  match fhWidth s q with
  | 0 => 400000
  | 1 => 200000
  | _ => 100000

/-- Is the port's link up, on an available port. -/
def fhUp (s : State) (q : Nat) : Bool := (fhp s q).up && fhAvailable s q

/-- A fixed latency of a port, X_TX_LAT or X_RX_LAT in units of 2⁻⁸ ns, as a time (R443). -/
def portLat (s : State) (q : Nat) (f : Fld) : Int := ((ef s (.fhp q) f * 2 ^ 40 : Nat) : Int)

/-- The port's transmit window opens for WIN_NS, or its length restarts; WIN_NS 0 keeps it shut (R451). -/
def openWindow (s : State) (q : Nat) : State :=
  let w := ef s (.fhp q) F.fhp_WIN_NS
  setFhp s q { fhp s q with winEnd := if w = 0 then none else some (timeNow s + ((w * 2 ^ 48 : Nat) : Int)) }

/-- Is the port's transmit window open. -/
def windowOpen (s : State) (q : Nat) : Bool :=
  match (fhp s q).winEnd with
  | none => false
  | some e => decide (timeNow s < e)

/-! ### Compression (R436 to R438) -/

/-- Is a udCompHdr one that the port transmits (R436): method in bits [3:0], iqWidth in bits [7:4], 0 meaning 16. -/
def compOk (h : Nat) : Bool :=
  match h % 16 with
  | 0 => decide (h / 16 = 0)
  | 1 => true
  | 4 => decide (1 ≤ h / 16) && decide (h / 16 ≤ 4)
  | _ => false

/-- The width that an iqWidth stands for. -/
def iqBits (h : Nat) : Nat := if h / 16 % 16 = 0 then 16 else h / 16 % 16

/-- Values of `w` bits packed in order, most significant bit first, without gaps. -/
def packBits (w : Nat) (l : List Int) : List Byte :=
  natBE (l.length * w / 8) (l.foldl (fun a v => a * 2 ^ w + unsigned w v) 0)

/-- The signed values of `w` bits that a list of bytes holds, most significant bit first. -/
def unpackBits (w : Nat) (b : List Byte) : List Int :=
  let x := beNat b
  let n := 8 * b.length / w
  (List.range n).map (fun i => signed w (x / 2 ^ (8 * b.length - w * (i + 1))))

/-- Is a value within the range of `w` bits. -/
def fitsBits (w : Nat) (v : Int) : Bool := decide (-(2 ^ (w - 1) : Int) ≤ v) && decide (v ≤ 2 ^ (w - 1) - 1)

/-- The exponent of a block (R437): the least from 0 to 16 − w for which every part fits, else 16 − w. -/
def bfpExp (w : Nat) (v : List Int) : Nat :=
  ((List.range (17 - w)).find? (fun (e : Nat) => v.all (fun x => fitsBits w (rsh x (e : Int))))).getD (16 - w)

/-- The 24 parts of a PRB of a U-plane parcel: 12 CINT16 elements of 4 bytes, real part first. -/
def prbParts (b : List Byte) (k : Nat) : List Int :=
  (List.range 24).map (fun i => signed 16 (leAt b (48 * k + 2 * i) 2))

/-- One PRB compressed under a udCompHdr: its bytes, and the parts that block floating point clamped. -/
def compressPrb (h mcScale : Nat) (v : List Int) : List Byte × Nat :=
  match h % 16 with
  | 0 => (packBits 16 v, 0)
  | 1 =>
    let w := iqBits h
    let e := bfpExp w v
    let m := v.map (fun x => rsh x e)
    (natLE 1 e ++ packBits w (m.map (clampI (-(2 ^ (w - 1) : Int)) (2 ^ (w - 1) - 1))),
      (m.filter (fun x => !fitsBits w x)).length)
  | _ =>
    let w := iqBits h
    (packBits w (v.map (fun x => clampI (-(2 ^ (w - 1) : Int)) (2 ^ (w - 1) - 1) (x / ((2 * mcScale : Nat) : Int)))), 0)

/-- Bytes of a PRB under a udCompHdr that the port decompresses. -/
def prbBytes (h : Nat) : Nat := if h % 16 = 0 then 48 else 1 + 3 * iqBits h

/-- A decompressed part as CINT16 bytes (R437). The spec gives no code for a value that 16 bits cannot hold: such a
part is a free value. -/
def partBytes (seed : Nat) (v : Int) : List Byte :=
  natLE 2 (if fitsBits 16 v then unsigned 16 v else Config.freeValue seed)

/-- One PRB decompressed (R437). -/
def decompressPrb (h seed : Nat) (b : List Byte) : List Byte :=
  let parts := if h % 16 = 0 then unpackBits 16 b
    else (unpackBits (iqBits h) (b.drop 1)).map (fun m => m * 2 ^ (leAt b 0 1 % 16))
  parts.zipIdx.flatMap (fun e => partBytes (seed + e.2) e.1)

/-- Does the port decompress a received section under this udCompHdr: no compression at 16 bits, or block floating
point (R436, R439). -/
def rxKnown (h : Nat) : Bool := decide (h % 256 = 0) || decide (h % 16 = 1)

/-- The payload of a received section, decompressed. -/
def decompress (h seed : Nat) (b : List Byte) : List Byte :=
  (List.range (b.length / prbBytes h)).flatMap (fun k => decompressPrb h (2 ^ 40 * (seed + 1) + 24 * k) ((b.drop (prbBytes h * k)).take (prbBytes h)))

/-! ### Received frames (R427, R428, R430, R431) -/

/-- The tags before the EtherType: how many there are, and what follows them. -/
def tagWalk : Nat → List Byte → Nat × List Byte
  | 0, b => (0, b)
  | fuel + 1, b =>
    if beNat (b.take 2) = 0x8100 then
      let r := tagWalk fuel (b.drop 4)
      (r.1 + 1, r.2)
    else (0, b)

/-- A received frame's source address. -/
def rxSrc (f : RxFrame) : Nat := beNat ((f.raw.drop 6).take 6)
/-- Its 802.1Q tags, and the bytes from its EtherType on. -/
def rxTail (f : RxFrame) : Nat × List Byte := tagWalk 3 (f.raw.drop 12)
/-- The control field of its first tag. -/
def rxTag (f : RxFrame) : Option Nat :=
  if (rxTail f).1 = 0 then none else some (beNat ((f.raw.drop 14).take 2))
/-- Its EtherType. -/
def rxType (f : RxFrame) : Nat := beNat ((rxTail f).2.take 2)
/-- What its EtherType carries. -/
def rxData (f : RxFrame) : List Byte := (rxTail f).2.drop 2
/-- Its length with the FCS. -/
def rxLength (f : RxFrame) : Nat := f.raw.length + 4
/-- Is it a PAUSE frame, of a link or of a priority (R427): MAC control with opcode 0x0001 or 0x0101. -/
def rxPause (f : RxFrame) : Bool :=
  rxType f == 0x8808 && (beNat ((rxData f).take 2) == 0x0001 || beNat ((rxData f).take 2) == 0x0101)
/-- Is its first eCPRI message followed by another: the concatenation bit. -/
def rxConcat (f : RxFrame) : Bool := bitAt (beNat ((rxData f).take 1)) 0

/-- One eCPRI message: the revision, the type and the payload of its common header. -/
structure RxMsg where
  rev : Nat
  msgType : Nat
  body : List Byte
deriving DecidableEq, Repr

/-- PC_ID or RTC_ID of a message of type 0 or 2. -/
def RxMsg.pcId (m : RxMsg) : Nat := beNat (m.body.take 2)
/-- Its sequence number. -/
def RxMsg.seqId (m : RxMsg) : Nat := leAt m.body 2 1
/-- What follows the PC_ID and sequence fields. -/
def RxMsg.load (m : RxMsg) : List Byte := m.body.drop 4

/-- Split the data of an eCPRI frame into its messages; each that is followed by another ends on a 4-byte boundary. A message
that overruns the frame is `none`, and nothing follows it (R430). -/
def splitMsgs : Nat → List Byte → List (Option RxMsg)
  | 0, _ => []
  | fuel + 1, b =>
    let n := 4 + beNat ((b.drop 2).take 2)
    if b.length < 4 || b.length < n then [none]
    else
      some { rev := leAt b 0 1 / 16, msgType := leAt b 1 1, body := (b.take n).drop 4 }
        :: if bitAt (leAt b 0 1) 0 then splitMsgs fuel (b.drop (4 * ceilDiv n 4)) else []

/-- One section of a U-plane message (R431). -/
structure RxSection where
  sectionId : Nat
  rbSyminc : Nat
  startPrb : Nat
  numPrb : Nat
  comp : Nat
  payload : List Byte
deriving DecidableEq, Repr

/-- The bytes of a PRB under a udCompHdr, none for a method whose size R436 does not give. -/
def rxPrbBytes (h : Nat) : Option Nat :=
  match h % 16 with
  | 0 => some (3 * iqBits h)
  | 1 => some (1 + 3 * iqBits h)
  | 4 => some (3 * iqBits h)
  | _ => none

/-- Split the sections of a U-plane message after its common header (R431, R436). With a static header a section carries no
udCompHdr, and `static` is the flow's. A section whose PRBs R436 does not size, or with NUM_PRB 0, is the rest of the
message (log entry 146). -/
def splitSections (static : Option Nat) : Nat → List Byte → List RxSection
  | 0, _ => []
  | fuel + 1, b =>
    let k := if static.isSome then 4 else 6
    if b.length < k then []
    else
      let w := beNat (b.take 4)
      let h := static.getD (leAt b 4 1)
      let n := bits w 0 8
      let len := match rxPrbBytes h with
        | some per => if n = 0 then b.length - k else min (b.length - k) (n * per)
        | none => b.length - k
      { sectionId := bits w 20 12, rbSyminc := bits w 19 1 + 2 * bits w 18 1, startPrb := bits w 8 10, numPrb := n, comp := h
        payload := (b.drop k).take len } :: splitSections static fuel (b.drop (k + len))

/-! ### The flow table (R439, R459) -/

/-- A flow entry. -/
structure Flow where
  mac : Nat
  pcId : Nat
  slot : Nat
  flags : Nat
  destQ : Nat
  ptn : Nat
  comp : Nat
  staticHdr : Bool
deriving DecidableEq, Repr

/-- `n` bytes of the flow table at offset `o` of entry `i`. -/
def flowNat (s : State) (i o n : Nat) : Nat := leNat (loadBytes s.flows (16 * i + o) n)

/-- Entry `i` of the flow table. -/
def flowAt (s : State) (i : Nat) : Flow :=
  { mac := flowNat s i 0 6, pcId := flowNat s i 6 2, slot := flowNat s i 8 1 % 32, flags := flowNat s i 9 1,
    destQ := flowNat s i 10 2 % 16384, ptn := flowNat s i 12 1 % 64, comp := flowNat s i 13 1,
    staticHdr := bitAt (flowNat s i 14 1) 0 }

/-- The VALID entries of the flow table, by index. -/
def validFlows (s : State) : List Nat :=
  ((s.flows.filter (fun e => decide (e.1 % 16 = 9) && bitAt e.2.toNat 0)).map (fun e => e.1 / 16)).filter (fun i => decide (i < 4096))

/-- Does an entry match a message of type 0 or 2 (R439). -/
def flowMatch (s : State) (q mac pcId type : Nat) (anyPc : Bool) (i : Nat) : Bool :=
  let x := flowAt s i
  decide (x.slot = q) && decide (x.mac = mac) && bitAt x.flags (if type = 0 then 1 else 2) && (bitAt x.flags 3 == anyPc)
    && (anyPc || decide (x.pcId = pcId))

/-- The flow that a message of type 0 or 2 matches: an entry with ANY_PC clear first, then the lowest index (R439). -/
def matchFlow (s : State) (q mac pcId type : Nat) : Option Nat :=
  match (validFlows s).find? (flowMatch s q mac pcId type false) with
  | some i => some i
  | none => (validFlows s).find? (flowMatch s q mac pcId type true)

/-! ### Discovery (R444 to R447) -/

/-- A discovery event as its parcel (R446). -/
def discParcel (s : State) (ev reason q i mac vlan : Nat) : List Byte :=
  natLE 1 ev ++ natLE 1 reason ++ natLE 1 q ++ natLE 1 i ++ natLE 6 mac ++ natLE 2 vlan ++ natLE 4 0 ++ natLE 8 (linNow s)

/-- Deliver the port's held events in order, as far as DISC_Q admits them (R446). -/
def drainEvents (q : Nat) : Nat → State → State
  | 0, s => s
  | fuel + 1, s =>
    match (fhp s q).events with
    | [] => s
    | b :: rest =>
      if qOwner s (rd s (.fhp q) F.fhp_DISC_Q) ≠ ownerOf s (.fhp q) then s
      else match hwPost s (.fhPort q) (rd s (.fhp q) F.fhp_DISC_Q) b 0xFF 0xFFFF 0 false with
      | (.parcel _, s1) => drainEvents q fuel (setFhp s1 q { fhp s1 q with events := rest })
      | _ => s

/-- Raise a discovery event (R446): EVT bit 17 or 18 and its parcel; a 129th that waits is not raised, and sets
DISC_OVERFLOW. -/
def raiseDisc (s : State) (q ev reason i mac vlan : Nat) : State :=
  let x := fhp s q
  if x.events.length < 128 then
    let s1 := setFhp s q { x with events := x.events ++ [discParcel s ev reason q i mac vlan] }
    let s2 := setEvt s1 (.fhp q) (16 + ev)
    if x.events.isEmpty then drainEvents q 1 s2 else s2
  else setErr s (.fhp q) 16

/-- A sighting of an address (R444): a known one restarts its timer, a new one takes the lowest free entry. -/
def sighting (s : State) (q mac vlan : Nat) : State :=
  let x := fhp s q
  match x.disc.find? (fun e => decide (e.2.mac = mac)) with
  | some (i, e) => setFhp s q { x with disc := mapPut x.disc i { e with seen := s.mer.frc } }
  | none =>
    let i := lowestFree 0 x.disc
    if i < 64 then
      let e : DiscEntry := { mac := mac, vlan := vlan, firstSeen := linNow s, seen := s.mer.frc }
      raiseDisc (setFhp s q { x with disc := mapPut x.disc i e }) q 1 0 i mac vlan
    else addSat s (.fhp q) F.fhp_DISC_FULL 1

/-- An entry is cleared, with a LOST event (R445). -/
def discLost (s : State) (q i reason : Nat) : State :=
  match mapFind (fhp s q).disc i with
  | none => s
  | some e => raiseDisc (setFhp s q { fhp s q with disc := mapErase (fhp s q).disc i }) q 2 reason i e.mac e.vlan

/-- The link of a fronthaul port goes down (R445): its entries are cleared in rising order, LINK_CHANGE is raised, and
health kind 3 counts it. -/
def fhLinkDown (s : State) (q : Nat) (inj : Bool) : State :=
  let s1 := setEvt (setFhp s q { fhp s q with up := false }) (.fhp q) 16
  forUpTo 64 (fun i s => discLost s q i 2) (bumpHealth s1 3 inj)

/-- A change of WIDTH takes the links of the four lanes down (R456). -/
def widthChanged (s : State) (n : Nat) : State :=
  forUpTo 4 (fun k s => if (fhp s (4 * n + k)).up then fhLinkDown s (4 * n + k) false else s) s

end Sys2Proof.Machine
end

