-- ==== Sys2Proof/Machine/Fronthaul.lean ====
section
/-! DEFINITION. The fronthaul commands (R427 to R459): received frames, selection and transmission, refills, samples and
the discovery timers. -/

namespace Sys2Proof.Machine

/-! ### Receiving (R428, R430, R439 to R443) -/

/-- The 32-byte header of a receive parcel (R441). -/
def rxHeader (t : Int) (q type pcId seq flags flow oran sec startPrb numPrb comp : Nat) : List Byte :=
  natLE 8 (linForm t) ++ natLE 4 (fracForm t) ++ natLE 1 q ++ natLE 1 type ++ natLE 2 pcId ++ natLE 1 seq ++ natLE 1 flags
    ++ natLE 2 flow ++ natLE 4 oran ++ natLE 2 sec ++ natLE 2 startPrb ++ natLE 1 numPrb ++ natLE 1 comp ++ natLE 2 0

/-- Deliver the parcels of a frame in order to their queues, without WAIT; one that is not admitted drops it and every
later one, and counts in RX_NO_CELLS (R442). -/
def deliverRx (q : Nat) : List (Nat × List Byte) → State → State
  | [], s => s
  | (dest, b) :: rest, s =>
    match hwPost s (.fhPort q) dest b 0xFF 0xFFFF 0 false with
    | (.parcel _, s1) => deliverRx q rest s1
    | _ => addSat s (.fhp q) F.fhp_RX_NO_CELLS 1

/-- What handling one message adds: the parcels to deliver. -/
abbrev RxOut := List (Nat × List Byte)

/-- The frame whole, on a queue of the port (R440), when that queue is the manager's as the port's page is (R251). -/
def wholeFrame (s : State) (t : Int) (q dest : Nat) (concat : Bool) (raw : List Byte) : RxOut :=
  if qOwner s dest = ownerOf s (.fhp q) then [(dest, rxHeader t q 0 0 0 (4 * ofBool concat) 0 0 0 0 0 0 ++ raw)] else []

/-- The parcel of one received section (R439, R441). -/
def sectionParcel (s : State) (t : Int) (q : Nat) (m : RxMsg) (flags i : Nat) (x : Flow) (sec : RxSection) : Nat × List Byte :=
  let h := sec.comp
  let raw := !rxKnown h
  let body := if raw then sec.payload else decompress h s.fresh sec.payload
  (x.destQ, rxHeader t q 0 m.pcId m.seqId (flags + 2 * ofBool raw) i (leAt m.load 0 4)
    (sec.sectionId + 2 ^ 12 * sec.rbSyminc) sec.startPrb sec.numPrb h ++ body)

/-- A message that a flow places (R432, R439, R442). -/
def flowMessage (s : State) (t : Int) (q i : Nat) (concat : Bool) (m : RxMsg) : RxOut × State :=
  let x := flowAt s i
  if qOwner s x.destQ = x.ptn then
    let gap := decide (mapGet 0 s.flowSeq i ≠ m.seqId)
    let s1 := { s with flowSeq := mapSet 0 s.flowSeq i ((m.seqId + 1) % 256) }
    let s2 := if gap then addSat s1 (.fhp q) F.fhp_RX_SEQ_GAPS 1 else s1
    let flags := ofBool gap + 4 * ofBool concat
    if m.msgType = 0 then
      let secs := splitSections (if x.staticHdr then some x.comp else none) m.load.length (m.load.drop 4)
      (secs.map (sectionParcel s2 t q m flags i x), nextFresh s2)
    else ([(x.destQ, rxHeader t q 2 m.pcId m.seqId flags i 0 0 0 0 0 ++ m.load)], s2)
  else ([], addSat s (.fhp q) F.fhp_RX_DENIED 1)

/-- The Ethernet header of a frame that the port sends (R428): destination, source, tag, EtherType. -/
def ethHeader (dst src : Nat) (tag : Option Nat) (type : Nat) : List Byte :=
  natBE 6 dst ++ natBE 6 src ++ (match tag with
    | some v => natBE 2 0x8100 ++ natBE 2 v
    | none => []) ++ natBE 2 type

/-- A frame's data padded to the least length of 64 bytes with its FCS (R428). -/
def padFrame (b : List Byte) : List Byte := b ++ List.replicate (60 - b.length) 0

/-- The 10-byte PTP time of an instant: 48-bit seconds and 32-bit nanoseconds. -/
def ptpTime (t : Int) : List Byte := natBE 6 (secondsForm t) ++ natBE 4 (nanosForm t)

/-- The answer to a One-Way Delay Measurement request of action type 0x00 (R430). -/
def delayReply (s : State) (t : Int) (q : Nat) (fr : RxFrame) (m : RxMsg) : State :=
  let body := m.body.take 1 ++ natBE 1 2 ++ ptpTime t ++ natBE 8 0
  let b := ethHeader (rxSrc fr) (rd s (.fhp q) F.fhp_MAC_ADDR) (rxTag fr) 0xAEFE ++ natBE 1 0x10 ++ natBE 1 5 ++ natBE 2 body.length ++ body
  addSat (emit s (.frame q (padFrame b))) (.fhp q) F.fhp_TX_FRAMES 1

/-- One eCPRI message of a frame (R430, R439). One of another revision, or too short for its type's fields, is a frame that
R430 does not place: it goes to EXC_Q. -/
def rxMessage (s : State) (t : Int) (q : Nat) (fr : RxFrame) (m : RxMsg) : RxOut × State :=
  let exc := wholeFrame s t q (rd s (.fhp q) F.fhp_EXC_Q) (rxConcat fr) fr.raw
  if m.rev ≠ 1 || ((m.msgType = 0 || m.msgType = 2) && m.body.length < 4) then (exc, s)
  else if m.msgType = 0 || m.msgType = 2 then
    match matchFlow s q (rxSrc fr) m.pcId m.msgType with
    | some i => flowMessage s t q i (rxConcat fr) m
    | none => (exc, s)
  else if m.msgType = 5 && leAt m.body 1 1 == 0 && decide (2 ≤ m.body.length) then ([], delayReply s t q fr m)
  else (exc, s)

/-- The messages of a frame up to one that overruns it, which is dropped with every later one (R430). -/
def rxMessages (t : Int) (q : Nat) (fr : RxFrame) : List (Option RxMsg) → State → RxOut × State
  | [], s => ([], s)
  | none :: _, s => ([], addSat s (.fhp q) F.fhp_RX_BAD_ECPRI 1)
  | some m :: rest, s =>
    let r := rxMessage s t q fr m
    let r2 := rxMessages t q fr rest r.2
    (r.1 ++ r2.1, r2.2)

/-- A frame dropped and counted in RX_DROPS. -/
def rxDrop (s : State) (q : Nat) : State := addSat s (.fhp q) F.fhp_RX_DROPS 1

/-- Place a frame received without error (R430, R439, R440). -/
def rxPlace (s : State) (t : Int) (q : Nat) (fr : RxFrame) : State :=
  let r := if (rxType fr) = 0x88F7 then (wholeFrame s t q (rd s (.fhp q) F.fhp_PTP_Q) false fr.raw, s)
    else if (rxType fr) = 0xAEFE then rxMessages t q fr (splitMsgs (rxData fr).length (rxData fr)) s
    else (wholeFrame s t q (rd s (.fhp q) F.fhp_EXC_Q) false fr.raw, s)
  deliverRx q r.1 r.2

/-- FRAME_RECEIVE. -/
def effFrameReceive (q : Nat) (fr : RxFrame) (s : State) : State :=
  if !fhUp s q then s
  else
    let s1 := addSat (addSat s (.fhp q) F.fhp_FEC_CORR fr.fecCorr) (.fhp q) F.fhp_FEC_UNCORR fr.fecUncorr
    let s2 := forUpTo fr.fecUncorr (fun _ s => bumpHealth s 2 false) s1
    if quiesced s2 (.fhp q) || (rxPause fr) then rxDrop s2 q
    else if fr.fecUncorr ≠ 0 then rxDrop s2 q
    else if !fr.fcsOk then rxDrop (addSat s2 (.fhp q) F.fhp_RX_FCS_ERR 1) q
    else if 1 < (rxTail fr).1 || decide (ef s2 (.fhp q) F.fhp_MAX_FRAME < (rxLength fr)) || decide ((rxLength fr) < 64) then rxDrop s2 q
    else
      let t := stampTime s2 (-portLat s2 q F.fhp_X_RX_LAT)
      let s3 := addSat (nextFresh s2) (.fhp q) F.fhp_RX_FRAMES 1
      let s4 := if (rxType fr) = 0xAEFE || (rxType fr) = 0x88F7 || rd s3 (.fhp q) F.fhp_LEARN_ALL = 1 then
          sighting s3 q (rxSrc fr) (match (rxTag fr) with
            | some v => v % 4096
            | none => 0xFFFF)
        else s3
      rxPlace s4 t q fr
/-- A received frame is stamped, checked, matched to a flow and delivered as parcels, or dropped and counted (R428). -/
def execFrameReceive (q : Nat) (fr : RxFrame) (s : State) : Host.Outcome State Fault Refusal :=
  act (Instr.frameReceive q fr) s (effFrameReceive q fr s)

/-! ### Transmit parcels (R433 to R435) -/

/-- A header field of a transmit parcel: `w` bits at bit `b` of byte `o`. -/
def txf (b : List Byte) (o lo w : Nat) : Nat := bits (leAt b o 4) lo w

/-- The udCompHdr of a U-plane section of queue `j` (R436). -/
def txComp (s : State) (j : Nat) (b : List Byte) : Nat :=
  let u := txf b 25 0 8
  if u = 0 then ef s (.fhq j) F.fhq_COMP_METH + 16 * ef s (.fhq j) F.fhq_IQ_WIDTH else u

/-- The port slot of a transmit queue. -/
def txPort (s : State) (j : Nat) : Nat := rd s (.fhq j) F.fhq_PORT

/-- The 802.1Q tag of a queue's frames, when TAGGED is set. -/
def txTag (s : State) (j : Nat) : Option Nat :=
  if ef s (.fhq j) F.fhq_TAGGED = 1 then some (2 ^ 13 * ef s (.fhq j) F.fhq_PCP + ef s (.fhq j) F.fhq_VLAN_ID) else none

/-- An eCPRI message of queue `j` around its payload (R430, R432), in its Ethernet header. -/
def ecpriFrame (s : State) (j type pcId : Nat) (pay : List Byte) : List Byte :=
  ethHeader (ef s (.fhq j) F.fhq_RU_MAC) (rd s (.fhp (txPort s j)) F.fhp_MAC_ADDR) (txTag s j) 0xAEFE
    ++ natBE 1 0x10 ++ natBE 1 type ++ natBE 2 (pay.length + 4) ++ natBE 2 pcId ++ natBE 1 (fhq s j).seq ++ natBE 1 0x80 ++ pay

/-- The section of a KIND 2 parcel as it goes into the message, with the parts that were clamped (R433, R436). -/
def txSection (s : State) (j : Nat) (b : List Byte) : List Byte × Nat :=
  let h := txComp s j b
  let data := b.drop 32
  let prbs := (List.range (txf b 24 0 8)).map (fun k => compressPrb h (ef s (.fhq j) F.fhq_MC_SCALE) (prbParts data k))
  let sec := txf b 20 0 12 * 2 ^ 20 + txf b 20 12 1 * 2 ^ 19 + txf b 20 13 1 * 2 ^ 18 + txf b 22 0 10 * 2 ^ 8 + txf b 24 0 8
  let hdr := if ef s (.fhq j) F.fhq_STATIC_HDR = 1 then [] else natBE 1 h ++ natBE 1 0
  ((b.drop 16).take 4 ++ natBE 4 sec ++ hdr ++ prbs.flatMap (fun e => e.1), prbs.foldl (fun n e => n + e.2) 0)

/-- The frame of a transmit parcel without its FCS, and the parts that were clamped. A raw frame goes as written. -/
def txFrame (s : State) (j : Nat) (b : List Byte) : List Byte × Nat :=
  match txf b 0 0 2 with
  | 0 => (padFrame (b.drop 32), 0)
  | 1 => (padFrame (ecpriFrame s j (txf b 14 0 8) (txf b 12 0 16) (b.drop 32)), 0)
  | _ =>
    let x := txSection s j b
    (padFrame (ecpriFrame s j 0 (txf b 12 0 16) x.1), x.2)

/-- The bytes that a section's frame will have, without computing it (R433, R436). -/
def txLength (s : State) (j : Nat) (b : List Byte) : Nat :=
  let eth := 14 + (if ef s (.fhq j) F.fhq_TAGGED = 1 then 4 else 0)
  let data := match txf b 0 0 2 with
    | 0 => b.length - 32
    | 1 => eth + 8 + (b.length - 32)
    | _ =>
      let h := txComp s j b
      let per := if h % 16 = 4 then 3 * iqBits h else prbBytes h
      eth + 8 + 8 + (if ef s (.fhq j) F.fhq_STATIC_HDR = 1 then 0 else 2) + txf b 24 0 8 * per
  (if data < 60 then 60 else data) + 4

/-- Is a transmit parcel one that the queue drops (R434). -/
def txBad (s : State) (j : Nat) (b : List Byte) : Bool :=
  let kind := txf b 0 0 2
  let tenant := ownerOf s (.fhq j) != 0xFF
  let oneStep := txf b 1 1 1 == 1
  decide (b.length < 32) || decide (txf b 0 2 6 ≠ 0) || decide (kind = 3) || decide (txf b 1 3 5 ≠ 0)
    || decide (txf b 20 14 2 ≠ 0) || decide (txf b 22 10 6 ≠ 0) || !zeroBytes b 26 32
    || (oneStep && (decide (kind ≠ 0) || decide (txf b 15 0 8 % 2 = 1) || decide (txf b 15 0 8 < 14)
        || decide (b.length < 32 + txf b 15 0 8 + 44)))
    || (decide (kind = 0) && decide (b.length < 32 + 14)) || (decide (kind = 1) && decide (7 < txf b 14 0 8))
    || (decide (kind = 2) && (decide (txf b 24 0 8 = 0) || decide (b.length ≠ 32 + 48 * txf b 24 0 8) || !compOk (txComp s j b)))
    || decide (ef s (.fhp (txPort s j)) F.fhp_MAX_FRAME < txLength s j b)
    || (tenant && (decide (kind = 0) || oneStep || (decide (kind = 1) && decide (txf b 14 0 8 ≠ 0) && decide (txf b 14 0 8 ≠ 2))))

/-- The instant LAUNCH of a parcel that has LAUNCH_EN set. -/
def txLaunch (b : List Byte) : Option Nat := if txf b 1 2 1 = 1 then some (leAt b 4 8) else none

/-! ### Eligibility and selection (R448 to R452) -/

/-- The source queue of transmit queue `j`. -/
def txSrc (s : State) (j : Nat) : Nat := rd s (.fhq j) F.fhq_SRC_Q

/-- QUEUE_DENIED: SRC_Q names a queue that the page's owner does not own (R457). -/
def txDenied (s : State) (j : Nat) : Bool := decide (qOwner s (txSrc s j) ≠ ownerOf s (.fhq j))

/-- The head parcel of a transmit queue that may take parcels. -/
def txHead (s : State) (j : Nat) : Option Nat :=
  if quiesced s (.fhq j) || txDenied s j then none else peekPid s (.fhQueue j) (txSrc s j)

/-- Take and release the head parcel. -/
def txRelease (s : State) (j : Nat) : State :=
  match hwRead s (.fhQueue j) (txSrc s j) with
  | (.parcel pid, s1) => hwRelease s1 pid 0x00
  | _ => s

/-- Drop the heads that R434 and R435 drop: malformed ones, and ones whose frame has not started by LAUNCH + LATE_NS. -/
def txDropHeads (j : Nat) : Nat → State → State
  | 0, s => s
  | fuel + 1, s =>
    match txHead s j with
    | none => s
    | some pid =>
      let b := payload s pid
      if txBad s j b then txDropHeads j fuel (addSat (txRelease s j) (.fhq j) F.fhq_BAD_PARCELS 1)
      else
        match txLaunch b with
        | none => s
        | some t =>
          if t + ef s (.fhq j) F.fhq_LATE_NS ≤ linNow s then
            txDropHeads j fuel (addSat (txRelease s j) (.fhq j) F.fhq_LATE_DROPS 1)
          else s

/-- Prepare a queue for a selection: the heads that must be dropped go. A queue that its page's owner does not own is left
alone (R251, R457). -/
def txPrepare (s : State) (j : Nat) : State :=
  if quiesced s (.fhq j) || txDenied s j then s
  else txDropHeads j (parcelsOf s (txSrc s j)).length s

/-- Is queue `j` eligible on port slot `q` (R448). -/
def txEligible (s : State) (q j : Nat) : Bool :=
  match txHead s j with
  | none => false
  | some pid =>
    let b := payload s pid
    (ef s (.fhq j) F.fhq_RATE == 0 || decide (8 * txLength s j b ≤ rd s (.fhq j) F.fhq_TOKENS))
      && (rd s (.fhq j) F.fhq_WINDOWED == 0 || windowOpen s q)
      && (match txLaunch b with
        | none => true
        | some t => decide (t ≤ linNow s))

/-- The transmit queues bound to a port slot. -/
def portQueues (s : State) (q : Nat) : List Nat := (List.range 512).filter (fun j => decide (txPort s j = q))

/-- V of a class of a port. -/
def vtimeOf (s : State) (q c : Nat) : Nat := mapGet 0 (fhp s q).vtime c

/-- The eligible queues wake that were not eligible at the last selection: S becomes max(F, V) (R450). -/
def wakeQueues (s : State) (q : Nat) (el : List Nat) : State :=
  let s1 := (el.filter (fun j => !(fhp s q).lastElig.contains j)).foldl (fun s j =>
    let v := vtimeOf s q (rd s (.fhq j) F.fhq_CLASS)
    wr s (.fhq j) F.fhq_START_TAG (if v ≤ (fhq s j).finish then (fhq s j).finish else v)) s
  setFhp s1 q { fhp s1 q with lastElig := el }

/-- The queue of the lowest class present with the smallest start tag, the lower number first (R450). -/
def chooseQueue (s : State) (el : List Nat) : Option Nat :=
  let key (j : Nat) : Nat × Nat := (rd s (.fhq j) F.fhq_CLASS, rd s (.fhq j) F.fhq_START_TAG)
  el.foldl (fun best j => match best with
    | none => some j
    | some b => if (key j).1 < (key b).1 || ((key j).1 == (key b).1 && decide ((key j).2 < (key b).2)) then some j else some b) none

/-- The tags after a choice: V takes S, F is S plus the frame's length over the weight, and S takes F (R450). -/
def chargeTags (s : State) (q j len : Nat) : State :=
  let st := rd s (.fhq j) F.fhq_START_TAG
  let w := ef s (.fhq j) F.fhq_WEIGHT
  let fin := st + ceilDiv (256 * len) w
  let s1 := setFhp s q { fhp s q with vtime := mapSet 0 (fhp s q).vtime (rd s (.fhq j) F.fhq_CLASS) st }
  wr (setFhq s1 j { fhq s1 j with finish := fin }) (.fhq j) F.fhq_START_TAG fin

/-- Replace bytes of a list from `o` on. -/
def overwrite (b : List Byte) (o : Nat) (x : List Byte) : List Byte := b.take o ++ x ++ b.drop (o + x.length)

/-- Start the frame of queue `j`'s head (R432, R449, R452): the frame leaves, a requested stamp enters the stamp queue, and
the parcel is released. -/
def sendHead (s : State) (q j : Nat) : State :=
  match txHead s j with
  | none => s
  | some pid =>
    let b := payload s pid
    let len := txLength s j b
    let f := txFrame s j b
    let bytes := if txf b 1 1 1 = 1 then overwrite f.1 (txf b 15 0 8 + 34) (ptpTime (stampTime s (portLat s q F.fhp_X_TX_LAT))) else f.1
    let s1 := chargeTags s q j len
    let s2 := wr s1 (.fhq j) F.fhq_TOKENS (rd s1 (.fhq j) F.fhq_TOKENS - 8 * len)
    let s3 := emit s2 (.frame q bytes)
    let s4 := if txf b 1 0 1 = 1 then pushStamp s3 q (txf b 2 0 16) (portLat s3 q F.fhp_X_TX_LAT) else nextFresh s3
    let s5 := addSat (addSat (addSat s4 (.fhp q) F.fhp_TX_FRAMES 1) (.fhq j) F.fhq_TX_FRAMES 1) (.fhq j) F.fhq_TX_BYTES len
    let s6 := addSat s5 (.fhq j) F.fhq_BFP_SAT f.2
    let s7 := if txf b 0 0 2 = 0 then s6 else setFhq s6 j { fhq s6 j with seq := ((fhq s6 j).seq + 1) % 256 }
    txRelease s7 j

/-- PORT_SELECTION. -/
def effPortSelection (q : Nat) (s : State) : State :=
  if !fhUp s q || quiesced s (.fhp q) then s
  else
    let js := portQueues s q
    let s1 := js.foldl txPrepare s
    let el := js.filter (txEligible s1 q)
    let s2 := wakeQueues s1 q el
    match chooseQueue s2 el with
    | none => s2
    | some j => sendHead s2 q j
/-- A port that can start a frame chooses among its eligible queues by class and start tag (R450). -/
def execPortSelection (q : Nat) (s : State) : Host.Outcome State Fault Refusal :=
  act (Instr.portSelection q) s (effPortSelection q s)

/-- TOKEN_REFILL. -/
def effTokenRefill (s : State) : State :=
  if s.mer.frc % 1000 ≠ 0 then s
  else forUpTo 512 (fun j s =>
    let r := ef s (.fhq j) F.fhq_RATE
    if r = 0 then s
    else wr s (.fhq j) F.fhq_TOKENS (satTo (8 * ef s (.fhq j) F.fhq_BURST) (rd s (.fhq j) F.fhq_TOKENS + r))) s
/-- Each shaped queue adds RATE to TOKENS, up to its burst (R449). -/
def execTokenRefill (s : State) : Host.Outcome State Fault Refusal := act Instr.tokenRefill s (effTokenRefill s)

/-- LATE_DROP. -/
def effLateDrop (j : Nat) (s : State) : State :=
  match txHead s j with
  | none => s
  | some pid =>
    match txLaunch (payload s pid) with
    | none => s
    | some t =>
      if t + ef s (.fhq j) F.fhq_LATE_NS ≤ linNow s then addSat (txRelease s j) (.fhq j) F.fhq_LATE_DROPS 1 else s
/-- A head parcel whose frame has not started by LAUNCH + LATE_NS is dropped, released and counted (R435). -/
def execLateDrop (j : Nat) (s : State) : Host.Outcome State Fault Refusal := act (Instr.lateDrop j) s (effLateDrop j s)

/-- WINDOW_CLOSE. -/
def effWindowClose (q : Nat) (s : State) : State :=
  match (fhp s q).winEnd with
  | none => s
  | some e => if e ≤ timeNow s then setFhp s q { fhp s q with winEnd := none } else s
/-- WIN_NS after its opening, a port's transmit window closes (R451). -/
def execWindowClose (q : Nat) (s : State) : Host.Outcome State Fault Refusal :=
  act (Instr.windowClose q) s (effWindowClose q s)

/-! ### Discovery timers and samples -/

/-- RU_TIMEOUT. -/
def effRuTimeout (q i : Nat) (s : State) : State :=
  match mapFind (fhp s q).disc i with
  | none => s
  | some e => if e.seen + rd s (.fhp q) F.fhp_RU_TIMEOUT * 1000000 ≤ s.mer.frc then discLost s q i 1 else s
/-- A discovery entry with no sighting for RU_TIMEOUT ms is cleared, with a LOST event (R445). -/
def execRuTimeout (q i : Nat) (s : State) : Host.Outcome State Fault Refusal :=
  act (Instr.ruTimeout q i) s (effRuTimeout q i s)

/-- DISC_EVENT_RETRY. -/
def effDiscEventRetry (q : Nat) (s : State) : State := drainEvents q (fhp s q).events.length s
/-- The port retries the reservation of its oldest undelivered discovery event (R446). -/
def execDiscEventRetry (q : Nat) (s : State) : Host.Outcome State Fault Refusal :=
  act (Instr.discEventRetry q) s (effDiscEventRetry q s)

/-- DISC_ENTRY_CLEAR. -/
def effDiscEntryClear (f : Func) (q i : Nat) (s : State) : State :=
  match f with
  | .vf _ => denyAccess s f
  | .pf => if pageServed s (.fhp q) then setFhp s q { fhp s q with disc := mapErase (fhp s q).disc i } else s
/-- A manager write of VALID 0 clears a discovery entry with no event (R445, R447). -/
def execDiscEntryClear (f : Func) (q i : Nat) (s : State) : Host.Outcome State Fault Refusal :=
  act (Instr.discEntryClear f q i) s (effDiscEntryClear f q i s)

/-- The committed parcels that a transmit queue has still to send. -/
def txWaiting (s : State) (j : Nat) : List Parcel :=
  if txDenied s j then []
  else (s.pool.parcels.filter (fun e => decide (e.2.q = txSrc s j) && e.2.committed)).map (fun e => e.2)

/-- Sample transmit queue `j` into ring entry `k` (R453, R454). -/
def sampleQueue (s : State) (j k : Nat) : State :=
  let l := txWaiting s j
  let depth := l.foldl (fun n x => n + x.len) 0
  let delay := match minList (l.map (fun x => x.since)) with
    | none => 0
    | some t => satTo 0xFFFFFFFF (s.mer.frc - t)
  let s1 := wr (wr s (.fhq j) (F.fhq_DELAY.ix k) delay) (.fhq j) (F.fhq_DEPTH.ix k) depth
  if rd s1 (.fhq j) F.fhq_DELAY_MAX < delay then wr s1 (.fhq j) F.fhq_DELAY_MAX delay else s1

/-- DEPTH_SAMPLE. -/
def effDepthSample (s : State) : State :=
  let per := 1000 * ef s .fhg F.fhg_SAMPLE_US
  if per = 0 || decide (s.mer.frc % per ≠ 0) then s
  else
    let n := rd s .fhg F.fhg_SAMPLE_SEQ
    wr (forUpTo 512 (fun j s => sampleQueue s j (n % 32)) s) .fhg F.fhg_SAMPLE_SEQ (n + 1)
/-- Every transmit queue records its depth and delay in its ring, and SAMPLE_SEQ counts the sample (R453). -/
def execDepthSample (s : State) : Host.Outcome State Fault Refusal := act Instr.depthSample s (effDepthSample s)

end Sys2Proof.Machine
end

