-- ==== Sys2Proof/Machine/Flags.lean ====
section
/-! DEFINITION. The counters and event flags of the arithmetic (R128 to R130) and of the requantisation stage with its
statistics (R148 to R153). -/

namespace Sys2Proof.Machine

/-- Add to a counter that saturates; event bit `bit` is set when the counter rose (R129, R151). -/
def countEvt (s : State) (p : Page) (f : Fld) (n bit : Nat) : State :=
  let s1 := addSat s p f n
  if rd s1 p f = rd s p f then s1 else setEvt s1 p bit

/-- What ACC writes and output elements did: words clamped or saturated, words written as ±Inf, and NaNs. -/
structure Tally where
  sat : Nat
  inf : Nat
  nan : Nat
deriving DecidableEq, Repr

/-- No event. -/
def Tally.zero : Tally := { sat := 0, inf := 0, nan := 0 }

/-- Two tallies together. -/
def Tally.add (a b : Tally) : Tally := { sat := a.sat + b.sat, inf := a.inf + b.inf, nan := a.nan + b.nan }

/-- ARITH_SAT, ARITH_INF and ARITH_NAN with SAT_SEEN, INF_SEEN and NAN_SEEN (R128, R129). -/
def arithCount (s : State) (m : Nat) (t : Tally) : State :=
  countEvt (countEvt (countEvt s (.stn m) F.stn_ARITH_SAT t.sat 16) (.stn m) F.stn_ARITH_INF t.inf 17)
    (.stn m) F.stn_ARITH_NAN t.nan 18

/-- The key of RQ_CHMAX[c], a word of the statistics window (R152). -/
def chmaxKey (m c : Nat) : Nat := 8 * (pageBase (.stn m) + 0x2000 + 4 * c)

/-- RQ_CHMAX[c]. -/
def chmax (s : State) (m c : Nat) : Nat := mapGet 0 s.regs (chmaxKey m c)

/-- An element of an observed row: RQ_CHMAX[c] and RQ_MAXABS take the larger magnitude; a NaN changes nothing. `w` is a
binary32 word without its sign (R152). -/
def statElem (s : State) (m c w : Nat) : State :=
  if 0x7F800000 < w then s
  else
    let s1 := { s with regs := mapSet 0 s.regs (chmaxKey m c) (max (chmax s m c) w) }
    wr s1 (.stn m) F.stn_RQ_MAXABS (max (rd s1 (.stn m) F.stn_RQ_MAXABS) w)

/-- Is a row of an RQO observed (R152). -/
def rowObserved (s : State) (m rqset row : Nat) : Bool :=
  let set := ef s (.stn m) F.stn_STAT_SET
  ef s (.stn m) F.stn_STAT_EN == 1 && (set == 0x7F || set == rqset)
    && row % ef s (.stn m) F.stn_X_STAT_STRIDE == 0

/-- An observed row with its channels and magnitudes. -/
def statRow (s : State) (m : Nat) (l : List (Nat × Nat)) : State :=
  l.foldl (fun s e => statElem s m e.1 e.2) (addSat s (.stn m) F.stn_RQ_STAT_ROWS 1)

/-- STAT_CLR (R152). The rows of a running RQO that the stage has read by then, row 0 and how many more the spec gives no
command to tell (log entry 39), will not contribute. -/
def statClear (s : State) (m : Nat) : State :=
  let s1 := wr (wr s (.stn m) F.stn_RQ_MAXABS 0) (.stn m) F.stn_RQ_STAT_ROWS 0
  let s2 := { s1 with regs := mapDrop s1.regs (chmaxKey m 0) (chmaxKey m 128) }
  let st := stn s2 m
  if st.rqoRec = [] then s2
  else nextFresh (setStn s2 m { st with statSkip := max st.statSkip (1 + Config.freeValue s2.fresh) })

/-- The counters of one RQO (R148, R150, R151). -/
def rqCount (s : State) (m elems : Nat) (t : Tally) : State :=
  let s1 := countEvt s (.stn m) F.stn_RQ_NAN t.nan 20
  let s2 := addSat (addSat s1 (.stn m) F.stn_RQ_SAT t.sat) (.stn m) F.stn_RQ_ELEMS elems
  let th := ef s (.stn m) F.stn_SAT_THRESH
  if th ≠ 0 ∧ th ≤ t.sat then countEvt s2 (.stn m) F.stn_RQ_SAT_HITS 1 19 else s2

end Sys2Proof.Machine
end

