-- ==== Sys2Proof/Machine/Power.lean ====
section
/-! DEFINITION. The power governor (R607 to R613): its levels, its decisions, and what it publishes to the plat. -/

namespace Sys2Proof.Machine

/-- PL_EFF, the smaller of PL and PL_SET, as the last decision took it (R609, R613). -/
def plEff (s : State) : Nat := s.pwr.plEff.getD (gradePL s.part.grade)

/-- The clock point of a level: the last level, BE_HOLD, stays at the lowest point (R609). -/
def clockPointOf (s : State) (l : Nat) : Nat := min l (clockPoints s.part.grade - 1)

/-- The fused voltage in mV of rail 0 to 3, VDD_SEC0 to VDD_SEC3, or rail 4, VDD_HUB, at a clock point: 650 to 800 mV
(R604). -/
def railVoltage (rail point : Nat) : Nat := 650 + Config.fusedVoltage rail point % 151

/-- Monument sets the five core rails through AVSBus to the fused voltage of a clock point (R604, R605). -/
def setRails (s : State) (point : Nat) : State := forUpTo 5 (fun k s => emit s (.avs k (railVoltage k point))) s

/-- The clock point whose voltage the core rails carry: that of the level in effect, or of a decided step up, whose higher
voltage is set first (R609). -/
def railsAt (s : State) : Nat :=
  match s.pwr.pending with
  | some (l, _) => min (clockPointOf s l) (clockPointOf s s.pwr.level)
  | none => clockPointOf s s.pwr.level

/-- The level takes a new value and no change is pending; the rails take the voltage of its clock point where they do not carry
it (R604): a step down lowers the voltage after the clock, and a step up finds it set (R609). -/
def setLevel (s : State) (l : Nat) : State :=
  let t := { s with pwr := { s.pwr with level := l, pending := none } }
  if clockPointOf s l = railsAt s then t else setRails t (clockPointOf s l)

/-- A level change takes effect: a step down counts in STEPS_DOWN and THROTTLE (R609). -/
def changeLevel (s : State) (l : Nat) : State :=
  if s.pwr.level < l then bumpHealth (addSat (setLevel s l) .pwr F.pwr_STEPS_DOWN 1) 11 false else setLevel s l

/-- A row boundary passes for a decided change: it takes effect, or waits for a later boundary (R609). -/
def levelBoundary (s : State) : State :=
  match s.pwr.pending with
  | some (l, 1) => changeLevel s l
  | some (l, k) => { s with pwr := { s.pwr with pending := some (l, k - 1) } }
  | none => s

/-- The hottest of the dies' readings. -/
def dieTemps (r : RowPower) : List Int := r.tHub :: r.tSec

/-- A die at or above `d`, or a stack at or above `h`. -/
def tempOver (r : RowPower) (d h : Int) : Bool := (dieTemps r).any (fun t => decide (d ≤ t)) || r.tHbm.any (fun t => decide (h ≤ t))

/-- The bytes of a list of temperatures, as one number. -/
def tempBytes (l : List Int) : Nat := leNat ((l.map (fun t => BitVec.ofNat 8 (unsigned 8 t))))

/-- Show the readings in the power window (R613). -/
def showTemps (s : State) (r : RowPower) : State :=
  wr (wr (wr s .pwr F.pwr_TJ_SEC (tempBytes (r.tSec.take 4))) .pwr F.pwr_TJ_HUB (unsigned 8 r.tHub))
    .pwr F.pwr_TJ_HBM (tempBytes (r.tHbm.take 8))

/-- A quotient that the spec shows as a whole number without saying how it rounds: one of its two neighbours, at the
part's own choice. -/
def freeQuot (s : State) (a b : Nat) : Nat := if a % b = 0 then a / b else a / b + Config.freeValue s.fresh % 2

/-- The energies of the last 16 rows, in µJ. -/
def sumEnergies (s : State) : Nat := s.pwr.energies.foldl (· + ·) 0

/-- P_AVG > PL_EFF, over the rows measured so far, at most 16 (R609). -/
def avgOver (s : State) : Bool := decide (plEff s * 125 * s.pwr.energies.length < 2 * sumEnergies s)

/-- P_AVG ≤ 0.95 × PL_EFF (R609). -/
def avgCalm (s : State) : Bool := decide (40 * sumEnergies s ≤ 19 * (plEff s * 125 * s.pwr.energies.length))

/-- Record a row's energy and readings: the power window's P_ROW, P_AVG and ENERGY_MJ (R609, R613). -/
def recordRow (s : State) (r : RowPower) : State :=
  let e := (r.energy :: s.pwr.energies).take 16
  let micro := s.pwr.micro + r.energy
  let s1 := { s with pwr := { s.pwr with
    energies := e, micro := micro % 1000, rows := s.pwr.rows + 1
    plEff := some (min (gradePL s.part.grade) (rd s .pwr F.pwr_PL_SET)) } }
  let s2 := addSat (showTemps s1 r) .pwr F.pwr_ENERGY_MJ (micro / 1000)
  let s3 := wr s2 .pwr F.pwr_P_ROW (satTo 65535 (freeQuot s2 (2 * r.energy) 125))
  nextFresh (wr s3 .pwr F.pwr_P_AVG (satTo 65535 (freeQuot s3 (2 * sumEnergies s3) (125 * e.length))))

/-- Is a recorded row far enough back: none, or at least `n` rows ago. -/
def rowsAgo (now : Nat) (last : Option Nat) (n : Nat) : Bool :=
  match last with
  | none => true
  | some k => decide (k + n ≤ now)

/-- Decide a change to level `l`: at once while the plat does not run and the regulator has acknowledged, otherwise at
the next boundary, one later without the acknowledgement. The higher voltage of a step up is set with the decision, and lowered
again where another decision takes its place (R609). -/
def decideLevel (s : State) (l wait : Nat) : State :=
  let n := (if rd s .plt F.plt_RUNNING = 1 then 1 else 0) + wait
  if n = 0 then changeLevel s l
  else
    let t := { s with pwr := { s.pwr with pending := some (l, n) } }
    if railsAt t = railsAt s then t else setRails t (railsAt t)

/-- The decision at the end of a row (R609). A step out of BE_HOLD raises no clock and waits for no acknowledgement. -/
def governRow (s : State) (r : RowPower) (ack : Bool) : State :=
  let p := s.pwr
  let hot := tempOver r 95 90
  let big := decide (75 * plEff s < r.energy)
  let avg := avgOver s && rowsAgo p.rows p.lastDown 16
  let calm := if avgCalm s && !tempOver r 91 86 then p.calm + 1 else 0
  let s1 := { s with pwr := { p with calm := calm } }
  let base := match p.pending with
    | some (l, _) => if p.level < l then l else p.level
    | none => p.level
  if (avg || big || hot) && decide (base < clockPoints s.part.grade) then
    decideLevel { s1 with pwr := { s1.pwr with lastDown := some p.rows } } (base + 1) 0
  else if decide (160 ≤ calm) && rowsAgo p.rows p.lastUp 160 && decide (0 < base) && p.pending.isNone && !p.brake && !p.crit
    && !hot then
    decideLevel { s1 with pwr := { s1.pwr with lastUp := some p.rows } } (base - 1)
      (if ack || decide (clockPointOf s (base - 1) = clockPointOf s base) then 0 else 1)
  else s1

/-- GOVERNOR_DECISION. -/
def effGovernorDecision (r : RowPower) (ack : Bool) (s : State) : State :=
  if !s.pwr.pwrok then s
  else
    let s0 := if rd s .plt F.plt_RUNNING = 1 then s else levelBoundary s
    governRow (recordRow s0 r) r ack
/-- GOVERNOR_DECISION (R609): a row's energy is available, and the governor steps one level down or up, or stays. `ack`
says whether the regulator acknowledges a higher voltage within 200 µs. Until PWROK the rails keep the voltage of the rated
clock, and the governor does not act (R605). -/
def execGovernorDecision (r : RowPower) (ack : Bool) (s : State) : Host.Outcome State Fault Refusal :=
  act (Instr.governorDecision r ack) s (effGovernorDecision r ack s)

/-- HEADROOM of the coming row: max(0, PL_EFF × 62.5 µs − (E − M)), with a half µJ at the part's own choice (R612). -/
def headroomOf (s : State) (e m : Nat) : Nat := freeQuot s (125 * plEff s) 2 + m - e

/-- When the current row ends (R312, R331). -/
def rowEnd (s : State) : Int :=
  (s.plat.rowStart : Int) + 62500 + (match s.plat.trim.find? (fun e => decide (e.1 = s.plat.frame)) with
    | some (_, t) => if s.plat.row = 159 then t else 0
    | none => 0)

/-- HEADROOM_PUBLISH. -/
def effHeadroomPublish (s : State) : State :=
  match s.pwr.energies with
  | [] => s
  | e :: _ =>
    let h := headroomOf s e (s.pwr.meters.getD 1 0)
    let s1 := nextFresh (wr s .pwr F.pwr_HEADROOM_PUB h)
    if rd s .plt F.plt_RUNNING = 1 && decide (rowEnd s < (s.mer.frc : Int) + 8000) then s1
    else { s1 with plat := { s1.plat with published := some h } }
/-- HEADROOM_PUBLISH (R612): Monument publishes the headroom of the next row from the last measured row and the stations
admitted in it; one that comes later than 8 µs before the row does not reach the plat in time (R341). -/
def execHeadroomPublish (s : State) : Host.Outcome State Fault Refusal :=
  act Instr.headroomPublish s (effHeadroomPublish s)

/-- PL_SET is stored, clamped to the range from 0.4 × PL to PL (R613). -/
def storePlSet (s : State) (v : Nat) : State :=
  let pl := gradePL s.part.grade
  wr s .pwr F.pwr_PL_SET (min pl (max (2 * pl / 5) (v % 65536)))

/-- PL_SET_WRITE. -/
def effPlSetWrite (f : Func) (v : Nat) (s : State) : State :=
  match f with
  | .pf => if pageServed s .pwr then storePlSet s v else s
  | .vf _ => denyAccess s f
/-- PL_SET_WRITE (R613): the manager sets the power limit for the next decision. -/
def execPlSetWrite (f : Func) (v : Nat) (s : State) : Host.Outcome State Fault Refusal :=
  act (Instr.plSetWrite f v) s (effPlSetWrite f v s)

/-- The governor goes to BE_HOLD at once (R608, R610); until PWROK the rails keep the voltage of the rated clock (R605). -/
def holdNow (s : State) : State := if s.pwr.pwrok then setLevel s (clockPoints s.part.grade) else s

/-- PWRBRK. -/
def effPwrbrk (s : State) : State := holdNow { s with pwr := { s.pwr with brake := true } }
/-- PWRBRK (R610): the assertion of PWRBRK# puts the governor at BE_HOLD. -/
def execPwrbrk (s : State) : Host.Outcome State Fault Refusal := act Instr.pwrbrk s (effPwrbrk s)

/-- PWRBRK_DEASSERT. -/
def effPwrbrkDeassert (s : State) : State := { s with pwr := { s.pwr with brake := false } }
/-- PWRBRK_DEASSERT (R610): the governor climbs again under R609. -/
def execPwrbrkDeassert (s : State) : Host.Outcome State Fault Refusal := act Instr.pwrbrkDeassert s (effPwrbrkDeassert s)

/-- T_CRIT. -/
def effTCrit (r : RowPower) (s : State) : State :=
  if s.pwr.pwrok && tempOver r 105 100 then holdNow { showTemps s r with pwr := { s.pwr with crit := true } } else s
/-- T_CRIT (R608): a sensor at or above T_CRIT puts the part at the lowest clock point and BE_HOLD. -/
def execTCrit (r : RowPower) (s : State) : Host.Outcome State Fault Refusal := act (Instr.tCrit r) s (effTCrit r s)

/-- T_CRIT_RELEASE. -/
def effTCritRelease (r : RowPower) (s : State) : State :=
  if s.pwr.crit && !tempOver r 91 86 then { showTemps s r with pwr := { s.pwr with crit := false } } else s
/-- T_CRIT_RELEASE (R608): every sensor is at or below T_GOV − 5 °C, and the governor climbs again. -/
def execTCritRelease (r : RowPower) (s : State) : Host.Outcome State Fault Refusal :=
  act (Instr.tCritRelease r) s (effTCritRelease r s)

/-- THERMTRIP. -/
def effThermtrip (r : RowPower) (s : State) : State :=
  if tempOver r 115 105 && s.stage ≠ .tripped then
    emit { showTemps s r with stage := .tripped, pwr := { s.pwr with trip := true } } (.pin "THERMTRIP#" true)
  else s
/-- THERMTRIP (R608): a sensor at T_TRIP asserts THERMTRIP#, and every clock but the management and time clocks stops; only
a cold reset leaves this state. -/
def execThermtrip (r : RowPower) (s : State) : Host.Outcome State Fault Refusal :=
  act (Instr.thermtrip r) s (effThermtrip r s)

end Sys2Proof.Machine
end

