-- ==== Sys2Proof/Machine/Movers.lean ====
section
/-! DEFINITION. The commands of the movers (R209 to R249): acceptance, translation, the three operations, faults and
invalidation. -/

namespace Sys2Proof.Machine

/-! ### Parcels (R213, R214, R217) -/

/-- A descriptor from 64 bytes. -/
def descOf (b : List Byte) : Desc :=
  let f := leAt b 1 1
  { op := leAt b 0 1, sx := bitAt f 0, dx := bitAt f 1, order := bitAt f 2, packed6 := bitAt f 3,
    fmt := bits (leAt b 2 1) 0 4, tag := leAt b 4 4, src := leAt b 8 8, dst := leAt b 16 8, rows := leAt b 24 4,
    rowBytes := leAt b 28 4, srcStride := leAt b 32 4, dstStride := leAt b 36 4, src2 := leAt b 40 8,
    dst2 := leAt b 48 8,
    reservedOk := decide (f < 16) && decide (leAt b 2 1 < 16) && zeroBytes b 3 4 && zeroBytes b 56 64 }

/-- A descriptor of nothing, for a parcel that is none, with the TAG of its completion. -/
def noDesc (tag : Nat) : Desc :=
  { op := 0, sx := false, dx := false, order := false, packed6 := false, fmt := 0, tag := tag, src := 0, dst := 0,
    rows := 0, rowBytes := 0, srcStride := 0, dstStride := 0, src2 := 0, dst2 := 0, reservedOk := false }

/-- What an accepted parcel is: a descriptor, or a status with the TAG of its completion, and the state after a
template was read (R213, R214). -/
def parseParcel (s : State) (k : Nat) (b : List Byte) : (Desc × Option Nat) × State :=
  let p := ownerOf s (.mov k)
  if b.length = 64 then ((descOf b, none), s)
  else if b.length ≠ 16 then ((noDesc 0, some 0x80), s)
  else
    let t := leAt b 8 1
    let stake := leAt b 10 2
    if ef s (.mov k) F.mov_TMPL_COUNT ≤ t || !zeroBytes b 9 10 || !zeroBytes b 12 16 then
      ((noDesc (t + 65536 * stake), some 0x80), s)
    else
      match readTile s p (ef s (.mov k) F.mov_TMPL_BASE + 64 * t) 64 true with
      | (.ok d, s1) =>
        let x := descOf d
        (({ x with src := (x.src + leAt b 0 4) % 2 ^ 64, dst := (x.dst + leAt b 4 4) % 2 ^ 64,
                   tag := x.tag % 65536 + 65536 * stake }, none), s1)
      | (.fail c ue, s1) => ((noDesc (t + 65536 * stake), some c), ueHit s1 ue)
      | (.wait, s1) => ((noDesc (t + 65536 * stake), some 0x0B), s1)

/-- The configuration that a descriptor takes from its channel (R212). -/
def chanCfg (s : State) (k : Nat) : ChanCfg :=
  let f (x : Fld) : Nat := ef s (.mov k) x
  { faultMode := f F.mov_FAULT_MODE, timeout := f F.mov_FAULT_TIMEOUT, ctxEn := f F.mov_CTX_EN == 1,
    ctxRoot := f F.mov_CTX_ROOT, cls := f F.mov_CLASS, cplQ := rd s (.mov k) F.mov_CPL_Q, chunk := f F.mov_X_CHUNK,
    conc := f F.mov_CONC }

/-! ### Acceptance (R210) -/

/-- The parcel is accepted with its stake and its completion parcel. -/
def acceptParcel (s : State) (k pid stake cpl : Nat) : State :=
  let s1 := (hwRead s (movAg k) (rd s (.mov k) F.mov_SUBMIT_Q)).2
  let r := parseParcel s1 k (payload s1 pid)
  let it : MovItem :=
    { pid := pid, stake := stake, cpl := cpl, desc := r.1.1, cfg := chanCfg s k, progress := 0, fault := none,
      slots := [], reads := [], lostCarry := false, buf := none, kept := []
      st := match r.1.2 with
        | some c => .finished c
        | none => .waiting }
  setMov r.2 k { mov r.2 k with items := (mov r.2 k).items ++ [it], blocked := none }

/-- The completion reservation of the head parcel `pid` ended without being admitted: the stake is freed and CPL_BLOCKED is
set (R210, R249). -/
def cplBlocked (s : State) (k pid stake : Nat) : State :=
  levelsRise s (setMov (freeStake s stake) k { mov (freeStake s stake) k with blocked := some pid }) (.mov k)

/-- The stake stays with the channel while its completion reservation is held back. -/
def keepStake (s : State) (ag : Agent) (stake : Nat) : State :=
  { s with plat := { s.plat with granted := s.plat.granted ++ [(ag, stake)] } }

/-- Reserve the completion parcel of the parcel at the head, for which a stake is held (R210). -/
def reserveCpl (s : State) (k pid stake : Nat) : State :=
  let ag := movAg k
  let p := ownerOf s (.mov k)
  let q := rd s (.mov k) F.mov_CPL_Q
  match takeGranted s ag 1 with
  | (some cpl, s1) => acceptParcel s1 k pid stake cpl
  | (none, _) =>
    if (queue s q).line.any (fun w => decide (w.agent = ag)) then keepStake s ag stake
    else
      let w : ResWait := { agent := ag, n := 16, prio := qf s q F.pq_HW_PRIO, payload := none, srcPtn := p,
                           srcStake := stake, token := 1, order := 0, owed := none }
      match reserveWait s q w with
      | (.parcel cpl, s1) => acceptParcel s1 k pid stake cpl
      | (.stalled, s1) => keepStake s1 ag stake
      | (.status _, s1) => cplBlocked s1 k pid stake

/-- A channel tries to accept the parcel at the head of SUBMIT_Q; one whose page names no partition, or a queue that is not its
owner's, takes none (R210, R249). -/
def tryAccept (s : State) (k : Nat) : State :=
  let ag := movAg k
  let p := ownerOf s (.mov k)
  let q := rd s (.mov k) F.mov_SUBMIT_Q
  if p = 0xFF || heldBlock s (.mov k) then s
  else if queueForeign s (.mov k) F.mov_SUBMIT_Q || queueForeign s (.mov k) F.mov_CPL_Q then s
  else
    let s0 := (takeEnded s ag (readToken q)).2
    match peekPid s0 ag q with
    | none => (hwRead s0 ag q).2
    | some pid =>
      match acquireStake s0 ag p 2 with
      | (none, s1) => s1
      | (some stake, s1) => reserveCpl s1 k pid stake

/-- MOVER_ACCEPT. -/
def effMoverAccept (k : Nat) (s : State) : State := tryAccept s k
/-- A channel accepts the parcel at the head of SUBMIT_Q once a stake and its completion parcel are its (R210). -/
def execMoverAccept (k : Nat) (s : State) : Host.Outcome State Fault Refusal :=
  actMem (Instr.moverAccept k) s (effMoverAccept k s)

/-- CPL_RESERVE_RETRY. -/
def effCplReserveRetry (k : Nat) (s : State) : State :=
  if cplBlocks s k then tryAccept s k else s
/-- A channel with CPL_BLOCKED tries its completion reservation again (R210). -/
def execCplReserveRetry (k : Nat) (s : State) : Host.Outcome State Fault Refusal :=
  actMem (Instr.cplReserveRetry k) s (effCplReserveRetry k s)

/-! ### Translation (R225 to R229, R245) -/

/-- The lowest index bit of each level. -/
def xShift (lv : Nat) : Nat := if lv = 0 then 39 else if lv = 1 then 30 else if lv = 2 then 21 else 16
/-- The index bits of each level. -/
def xWidth (lv : Nat) : Nat := if lv = 3 then 5 else 9
/-- The bytes of a table at each level. -/
def xTable (lv : Nat) : Nat := if lv = 3 then 256 else 4096

/-- Where an access goes: the tiers, host memory, a station window; or a fault, or a status. -/
inductive LRes where
  | tier (a : Nat)
  | host (a : Nat)
  | win (a : Nat)
  | fault (f : FaultRec)
  | fail (c : Nat) (ue : UeHit)
deriving DecidableEq, Repr

/-- A fault record for entry `e` at a level (R247: FLT_TABLE and FLT_ENTRY). -/
def xFault (kind lv e ja : Nat) (write : Bool) : LRes :=
  .fault { kind := kind, side := ofBool write, table := kind != 5 && decide (lv < 3) && e % 4 != 3, level := lv,
           addr := ja, entry := if kind = 5 then 0 else e }

/-- What a leaf entry answers for a job address (R227, R228, R245). -/
def leafRes (s : State) (p ja e lv : Nat) (write rt : Bool) : LRes :=
  let base := bits e 8 52 * 256
  let size := 2 ^ xShift lv
  let host := bitAt e 4
  if base % size ≠ 0 || (!host && decide (tieredEnd < base + size)) then xFault 3 lv e ja write
  else if !bitAt e (if write then 3 else 2) then xFault 2 lv e ja write
  else
    let pa := base + ja % size
    if rt && (host || !pinnedAt s p pa) then xFault 5 lv e ja write else if host then .host pa else .tier pa

/-- Walk from a level on: the answer, the entries read, and the state. -/
def walkFrom (p root sec ja : Nat) (write rt : Bool) : Nat → Nat → Nat → List XEntry → State →
    LRes × List XEntry × State
  | 0, lv, _, _, s => (xFault 3 lv 0 ja write, [], s)
  | fuel + 1, lv, tbl, got, s =>
    let ea := tbl + 8 * bits ja (xShift lv) (xWidth lv)
    if rt && !pinnedAt s p ea then (xFault 5 lv 0 ja write, [], s)
    else match readTile s p ea 8 false with
      | (.fail c ue, s1) => (.fail c ue, [], s1)
      | (.wait, s1) => (.fail 0x0B none, [], s1)
      | (.ok d, s1) =>
        let e := leNat d
        let x (leaf : Bool) : XEntry :=
          { sec := sec, ptn := p, root := root, leaf := leaf, level := lv, tag := ja / 2 ^ xShift lv, entry := e }
        if !bitAt e 0 then (xFault 1 lv e ja write, [], s1)
        else if bits e 5 3 ≠ 0 || bits e 60 4 ≠ 0 then (xFault 3 lv e ja write, [], s1)
        else if bitAt e 1 then
          if lv < 2 then (xFault 3 lv e ja write, [], s1)
          else match leafRes s1 p ja e lv write rt with
            | .fault f => (.fault f, [], s1)
            | r => (r, x true :: got, s1)
        else if lv = 3 then (xFault 3 lv e ja write, [], s1)
        else
          let nxt := bits e 8 52 * 256
          if nxt % xTable (lv + 1) ≠ 0 || tieredEnd < nxt + xTable (lv + 1) then (xFault 3 lv e ja write, [], s1)
          else walkFrom p root sec ja write rt fuel (lv + 1) nxt (x false :: got) s1

/-- A cached entry for a job address at a level (R229). -/
def xFind (s : State) (sec p root lv ja : Nat) (leaf : Bool) : Option Nat :=
  (s.xlate.find? (fun x => decide (x.sec = sec) && decide (x.ptn = p) && decide (x.root = root) && x.leaf == leaf
    && decide (x.level = lv) && decide (x.tag = ja / 2 ^ xShift lv))).map (fun x => x.entry)

/-- Cache an entry: a full cache replaces an entry of its own choice (R229). -/
def xInsert (s : State) (x : XEntry) : State :=
  let same (y : XEntry) : Bool := decide (y.sec = x.sec) && y.leaf == x.leaf
  let l := s.xlate.filter (fun y => !(same y && decide (y.ptn = x.ptn) && decide (y.root = x.root)
    && decide (y.level = x.level) && decide (y.tag = x.tag)))
  let n := (l.filter same).length
  if n < (if x.leaf then 4096 else 512) then { s with xlate := x :: l }
  else
    match (l.filter same)[Config.freeValue s.fresh % n]? with
    | some v => nextFresh { s with xlate := x :: l.erase v }
    | none => { s with xlate := x :: l }

/-- Translate a job address for channel `k` on an engine of section `sec`. -/
def translate (s : State) (k sec p ja : Nat) (cfg : ChanCfg) (write : Bool) : LRes × State :=
  let rt := cfg.cls == 1
  let root := cfg.ctxRoot
  match xFind s sec p root 3 ja true, xFind s sec p root 2 ja true with
  | some e, _ => (leafRes s p ja e 3 write rt, s)
  | none, some e => (leafRes s p ja e 2 write rt, s)
  | none, none =>
    let start : Nat × Nat := match xFind s sec p root 2 ja false, xFind s sec p root 1 ja false, xFind s sec p root 0 ja false with
      | some e, _, _ => (3, bits e 8 52 * 256)
      | none, some e, _ => (2, bits e 8 52 * 256)
      | none, none, some e => (1, bits e 8 52 * 256)
      | none, none, none => (0, root)
    let r := walkFrom p root sec ja write rt 4 start.1 start.2 [] s
    (r.1, r.2.1.foldl xInsert (addSat r.2.2 (.mov k) F.mov_WALKS 1))

/-- Where an access at an address of one side of a descriptor goes (R171, R225, R245). -/
def locate (s : State) (k sec : Nat) (it : MovItem) (write : Bool) (a : Nat) : LRes × State :=
  let p := ownerOf s (.mov k)
  let f (kind : Nat) : LRes :=
    .fault { kind := kind, side := ofBool write, table := false, level := 0, addr := a, entry := 0 }
  if (if write then it.desc.dx else it.desc.sx) then translate s k sec p (a % 2 ^ 48) it.cfg write
  else if a < tieredEnd then (if it.cfg.cls = 1 && !pinnedAt s p a then f 5 else .tier a, s)
  else if inWindows a then (.win a, s)
  else (f 4, s)

/-! ### Accesses -/

/-- Read `n` bytes from a place, all within 64 KiB. Whether the host answers with an abort is a free value (log entry 105). -/
def readLoc (s : State) (p n : Nat) : LRes → TRes × State
  | .tier a => readTile s p a n true
  | .host a => match vfOf s p with
    | none => (.fail 0x84 none, s)
    | some v =>
      if !bmeOn s v then (.wait, s)
      else if Config.hostAborts s.fresh then (.fail 0x84 none, nextFresh s)
      else (.ok (loadBytes s.hostMem (2 ^ 64 * v + a) n), nextFresh s)
  | .win a => match windowAt s p a with
    | none => (.fail 0x82 none, s)
    | some (m, off) =>
      let r := unitRead s (.stn m) [(off, n)]
      if r.1 then (.fail 0x0B none, r.2) else (.ok (loadBytes (stn r.2 m).store off n), r.2)
  | .fault _ => (.fail 0x03 none, s)
  | .fail c ue => (.fail c ue, s)

/-- Write bytes to a place, all within 64 KiB. -/
def writeLoc (s : State) (p : Nat) (d : List Byte) : LRes → TRes × State
  | .tier a => writeTile s p a d
  | .host a => match vfOf s p with
    | none => (.fail 0x84 none, s)
    | some v => if bmeOn s v then
        (.ok [], emit { s with hostMem := storeBytes s.hostMem (2 ^ 64 * v + a) d } (.hostWrite v a d)) else (.wait, s)
  | .win a => match windowAt s p a with
    | none => (.fail 0x82 none, s)
    | some (m, off) => writeWindow s m off d
  | .fault _ => (.fail 0x03 none, s)
  | .fail c ue => (.fail c ue, s)

/-- The place `o` bytes further on. -/
def LRes.shift (r : LRes) (o : Nat) : LRes :=
  match r with
  | .tier a => .tier (a + o)
  | .host a => .host (a + o)
  | .win a => .win (a + o)
  | x => x

/-- What a chunk's work answers: data, a wait, a fault or a status. -/
inductive CRes where
  | ok (d : List Byte)
  | hold
  | fault (f : FaultRec)
  | fail (c : Nat) (ue : UeHit)
deriving DecidableEq, Repr

/-- A tier's answer as a chunk's. -/
def TRes.toC : TRes → CRes
  | .ok d => .ok d
  | .wait => .hold
  | .fail c ue => .fail c ue

/-- Read pieces at offsets from a located place, in order, and join their bytes. -/
def readPieces (p : Nat) (loc : LRes) (base : Nat) : List (Nat × Nat) → State → CRes × State
  | [], s => (.ok [], s)
  | (sa, n) :: r, s =>
    match readLoc s p n (loc.shift (sa - base)) with
    | (.ok d, s1) =>
      (match readPieces p loc base r s1 with
        | (.ok d2, s2) => (.ok (d ++ d2), s2)
        | x => x)
    | (x, s1) => (x.toC, s1)

/-! ### Chunks (R218, R220, R231) -/

/-- Where byte `o` of row `r` of a COPY or XPOSE goes (R218, R220). -/
def Desc.target (d : Desc) (r o : Nat) : Nat :=
  if d.op = 1 then d.dst + r * d.dstStride + o
  else d.dst + o / 2 ^ d.fmt * d.dstStride + r * 2 ^ d.fmt + o % 2 ^ d.fmt

/-- The bytes from byte `o` of a row on that stay consecutive on both sides. -/
def Desc.run (d : Desc) (o : Nat) : Nat := if d.op = 1 then d.rowBytes - o else 2 ^ d.fmt - o % 2 ^ d.fmt

/-- The pieces (source, destination, bytes) of the chunk at progress `p`: at most `left` bytes, in one 64 KiB block of
each side. -/
def chunkPieces (d : Desc) (st tt : Nat) : Nat → Nat → Nat → List (Nat × Nat × Nat)
  | 0, _, _ => []
  | fuel + 1, p, left =>
    let r := p / d.rowBytes
    let o := p % d.rowBytes
    let sa := d.src + r * d.srcStride + o
    let ta := d.target r o
    if left = 0 || d.rows ≤ r || sa / 65536 ≠ st || ta / 65536 ≠ tt then []
    else
      let n := min (min (d.run o) left) (min (65536 - sa % 65536) (65536 - ta % 65536))
      (sa, ta, n) :: chunkPieces d st tt fuel (p + n) (left - n)

/-- The chunk at progress `p`. -/
def chunkAt (d : Desc) (x p : Nat) : List (Nat × Nat × Nat) :=
  let r := p / d.rowBytes
  let o := p % d.rowBytes
  chunkPieces d ((d.src + r * d.srcStride + o) / 65536) (d.target r o / 65536) x p x

/-- The bytes of a list of pieces. -/
def pieceBytes (l : List (Nat × Nat × Nat)) : Nat := l.foldl (fun n e => n + e.2.2) 0

/-- The source runs of a list of pieces, those that follow one another joined. -/
def sourceRuns : List (Nat × Nat × Nat) → List (Nat × Nat)
  | [] => []
  | (sa, _, n) :: r =>
    match sourceRuns r with
    | (b, m) :: l => if sa + n = b then (sa, n + m) :: l else (sa, n) :: (b, m) :: l
    | [] => [(sa, n)]

/-- Locate the start of a chunk on one side and go on. -/
def located (s : State) (k sec : Nat) (it : MovItem) (write : Bool) (a : Nat) (go : LRes → State → CRes × State) :
    CRes × State :=
  match locate s k sec it write a with
  | (.fault f, s1) => (.fault f, s1)
  | (.fail c ue, s1) => (.fail c ue, s1)
  | (loc, s1) => go loc s1

/-! ### COPY (R218, R221) -/

/-- The partition address of a place in the tiers. -/
def LRes.tierAt : LRes → Option Nat
  | .tier a => some a
  | _ => none

/-- Does a COPY read a byte that it has overwritten as it was before (R221): always, when its destination does not lie above
its source in the partition range. Where it does the spec leaves each byte open, original or as written, and a free value
says which; so too where a side is translated, whose pages may lie anywhere in that range (DESIGN CHOICE, log entry 152). -/
def readsOriginal (d : Desc) (fresh : Nat) : Bool :=
  (!d.sx && !d.dx && decide (d.dst ≤ d.src)) || decide (Config.freeValue fresh % 2 = 0)

/-- The bytes `b` read at partition address `a` of a COPY's source, with those that it has overwritten itself as R221 lets it
read them. -/
def asOriginal (it : MovItem) (fresh a : Nat) : List Byte → List Byte
  | [] => []
  | x :: r =>
    (match mapFind it.kept a with
      | some y => if readsOriginal it.desc fresh then y else x
      | none => x) :: asOriginal it (fresh + 1) (a + 1) r

/-- The bytes of a chunk with the pieces that lie in the tiers as R221 lets the COPY read them. -/
def chunkOriginal (it : MovItem) (src : LRes) (base : Nat) : List (Nat × Nat) → Nat → List Byte → List Byte
  | [], _, _ => []
  | (sa, n) :: r, fresh, b =>
    (match (src.shift (sa - base)).tierAt with
      | some a => asOriginal it fresh a (b.take n)
      | none => b.take n) ++ chunkOriginal it src base r (fresh + n) (b.drop n)

/-- May a COPY still read the byte at partition address `a`: its source is translated, or its rows span the address. -/
def mayRead (d : Desc) (a : Nat) : Bool :=
  d.sx || (decide (d.src ≤ a) && decide (a < d.src + (d.rows - 1) * d.srcStride + d.rowBytes))

/-- Note the bytes at partition address `a` on that a COPY is about to overwrite for the first time. -/
def keepBytes (d : Desc) : Nat → List Byte → NMap Byte → NMap Byte
  | _, [], m => m
  | a, x :: r, m => keepBytes d (a + 1) r (if mayRead d a && (mapFind m a).isNone then mapPut m a x else m)

/-- Note what the pieces of a chunk are about to overwrite in the tiers. -/
def keepPieces (s : State) (p : Nat) (d : Desc) (dst : LRes) (base : Nat) (ps : List (Nat × Nat × Nat)) (m : NMap Byte) :
    NMap Byte :=
  ps.foldl (fun m e => match (dst.shift (e.2.1 - base)).tierAt with
    | some a => keepBytes d a (match tileOf s p (a / 65536) with
        | some x => tileBytes s p x a e.2.2
        | none => List.replicate e.2.2 0) m
    | none => m) m

/-- The run of bytes that a COPY or XPOSE writes without a gap: its first address and its length. -/
def Desc.writeSpan (d : Desc) : Option (Nat × Nat) :=
  if d.op = 1 && (d.rows ≤ 1 || d.dstStride = d.rowBytes) then some (d.dst, d.rows * d.rowBytes)
  else if d.op = 3 && (d.rowBytes ≤ 2 ^ d.fmt || d.dstStride = d.rows * 2 ^ d.fmt) then some (d.dst, d.rows * d.rowBytes)
  else none

/-- Does a descriptor write the whole 64 KiB from its own address `b` on. -/
def Desc.coversTile (d : Desc) (b : Nat) : Bool :=
  b % 65536 == 0 && match d.writeSpan with
    | some (a, n) => decide (a ≤ b) && decide (b + 65536 ≤ a + n)
    | none => false

/-- A LOST or STUCK tile that a descriptor is to cover whole gets its new storage with the first of its bytes (R201). -/
def renewFirst (s : State) (p : Nat) (d : Desc) (own : Nat) : LRes → TRes × State
  | .tier a => match tileOf s p (a / 65536) with
    | some x => if (x.lost || x.stuck) && d.coversTile own then renewTile s p (a / 65536) x a [] else (.ok [], s)
    | none => (.ok [], s)
  | _ => (.ok [], s)

/-- Would a write to a place have to wait: what it asks for meanwhile is in the state. -/
def mustWait (s : State) (p : Nat) (d : Desc) (own : Nat) (loc : LRes) : Option State :=
  match renewFirst s p d own loc with
  | (.wait, s1) => some s1
  | (.ok _, s1) => (match writeLoc s1 p [] loc with
    | (.wait, s2) => some s2
    | _ => none)
  | _ => none

/-- Write pieces at offsets from a located place, in order. -/
def writePieces (p : Nat) (d : Desc) (loc : LRes) (base : Nat) : List (Nat × Nat × Nat) → List Byte → State → CRes × State
  | [], _, s => (.ok [], s)
  | (_, ta, n) :: r, b, s =>
    match renewFirst s p d ta (loc.shift (ta - base)) with
    | (.ok _, s1) =>
      (match writeLoc s1 p (b.take n) (loc.shift (ta - base)) with
        | (.ok _, s2) => writePieces p d loc base r (b.drop n) s2
        | (x, s2) => (x.toC, s2))
    | (x, s1) => (x.toC, s1)

/-- Move one chunk of a COPY: both sides are translated before a byte is read, and all bytes read before one is
written (R231, R235). A chunk that could not be written yet is not read. The descriptor notes what it overwrites (R221). -/
def copyChunk (s : State) (k sec : Nat) (it : MovItem) (ps : List (Nat × Nat × Nat)) : CRes × State :=
  let p := ownerOf s (.mov k)
  let a := (ps.headD (0, 0, 0)).1
  let b := (ps.headD (0, 0, 0)).2.1
  located s k sec it false a (fun src s =>
    located s k sec it true b (fun dst s =>
      match mustWait s p it.desc b dst with
      | some s1 => (.hold, s1)
      | none =>
        match readPieces p src a (sourceRuns ps) s with
        | (.ok d, s1) =>
          let s2 := setItem { s1 with fresh := s1.fresh + d.length } k
            { it with kept := keepPieces s1 p it.desc dst b ps it.kept }
          writePieces p it.desc dst b ps (chunkOriginal it src a (sourceRuns ps) s1.fresh d) s2
        | x => x))

/-- A descriptor stops on a fault (R235 to R238): at once TRANSLATION_FAULT when its channel stops on faults or the fault
is not resumable, otherwise saved with the fault record. FAULTS counts both kinds (R247; DESIGN CHOICE, log entry 175). -/
def faultItem (s : State) (k : Nat) (it : MovItem) (f : FaultRec) : State :=
  let y : MovItem := { it with fault := some f, progress := if it.desc.op = 3 then 0 else it.progress }
  let s1 := addSat s (.mov k) F.mov_FAULTS 1
  if it.cfg.faultMode ≠ 1 || 3 < f.kind then finishItem s1 k y 0x03
  else
    let s2 := setItem s1 k { y with st := .stopped }
    let s3 := y.slots.foldl (fun s e => slotStopped s e.1 e.2) s2
    showFault (setEvt s3 (.mov k) 16) k

/-- What follows a chunk that did not go through. -/
def chunkStop (s : State) (k pid : Nat) (r : CRes) : State :=
  match movItem s k pid with
  | none => s
  | some it =>
    match r with
    | .fault f => faultItem s k it f
    | .fail c ue =>
      let s1 := ueHit s ue
      (match movItem s1 k pid with
        | some y => if y.isFinished then s1 else finishItem s1 k y c
        | none => s1)
    | _ => s

/-- A descriptor's PROGRESS. -/
def progressTo (s : State) (k pid n : Nat) : State :=
  match movItem s k pid with
  | some it => setItem s k { it with progress := n }
  | none => s

/-- Run a COPY chunk by chunk until it is done or stops. -/
def runCopy (k pid sec : Nat) : Nat → State → State
  | 0, s => s
  | fuel + 1, s =>
    match movItem s k pid with
    | none => s
    | some it =>
      if it.isRunning && it.progress < it.desc.total then
        let ps := chunkAt it.desc (1024 * 2 ^ it.cfg.chunk) it.progress
        match copyChunk s k sec it ps with
        | (.ok _, s1) => runCopy k pid sec fuel (progressTo s1 k pid (it.progress + pieceBytes ps))
        | (r, s1) => chunkStop s1 k pid r
      else s

/-! ### XPOSE (R220) -/

/-- The first fault on the destination side of the pieces of a chunk, in their order. -/
def targetFault (s : State) (k sec : Nat) (it : MovItem) (ps : List (Nat × Nat × Nat)) : Option FaultRec :=
  ps.findSome? (fun e => match (locate s k sec it true e.2.1).1 with
    | .fault f => some f
    | _ => none)

/-- Read the whole matrix, chunk by chunk; the destination side of each chunk is located with its source side (R231, R235). -/
def readMatrix (k sec : Nat) (it : MovItem) : Nat → Nat → State → CRes × State
  | 0, _, s => (.ok [], s)
  | fuel + 1, p, s =>
    if it.desc.rows * it.desc.rowBytes ≤ p then (.ok [], s)
    else
      let ps := chunkAt it.desc (1024 * 2 ^ it.cfg.chunk) p
      let a := (ps.headD (0, 0, 0)).1
      match located s k sec it false a (fun loc s =>
          match targetFault s k sec it ps with
          | some f => (.fault f, s)
          | none => readPieces (ownerOf s (.mov k)) loc a (sourceRuns ps) s) with
      | (.ok d, s1) =>
        (match readMatrix k sec it fuel (p + pieceBytes ps) s1 with
          | (.ok d2, s2) => (.ok (d ++ d2), s2)
          | x => x)
      | x => x

/-- Bytes from an address on, in pieces split at 64 KiB boundaries. -/
def splitBytes : Nat → Nat → List Byte → List (Nat × List Byte)
  | 0, _, _ => []
  | fuel + 1, a, d =>
    if d.isEmpty then []
    else
      let n := min d.length (65536 - a % 65536)
      (a, d.take n) :: splitBytes fuel (a + n) (d.drop n)

/-- What an XPOSE writes: the columns of the matrix as rows of its transpose. -/
def xposeWrites (d : Desc) (m : List Byte) : List (Nat × List Byte) :=
  let es := 2 ^ d.fmt
  (List.range (d.rowBytes / es)).flatMap (fun c =>
    splitBytes 3 (d.dst + c * d.dstStride) ((List.range d.rows).flatMap (fun i => (m.drop (i * d.rowBytes + c * es)).take es)))

/-- Make writes in their order: the result, and how many of them were made. -/
def makeWrites (k sec : Nat) (it : MovItem) : List (Nat × List Byte) → Nat → State → (CRes × Nat) × State
  | [], n, s => ((.ok [], n), s)
  | (a, d) :: r, n, s =>
    match located s k sec it true a (fun loc s => writePieces (ownerOf s (.mov k)) it.desc loc a [(a, a, d.length)] d s) with
    | (.ok _, s1) => makeWrites k sec it r (n + 1) s1
    | (x, s1) => ((x, n), s1)

/-- Write the transpose of the matrix `m`, of whose pieces `n` have been written. What has been read is kept while a write
waits. -/
def xposeWrite (s : State) (k sec : Nat) (it : MovItem) (m : List Byte) (n : Nat) : State :=
  match makeWrites k sec it ((xposeWrites it.desc m).drop n) n s with
  | ((.ok _, _), s1) => setItem s1 k { it with progress := it.desc.total, buf := none }
  | ((.hold, c), s1) => setItem s1 k { it with buf := some (m, c) }
  | ((r, _), s1) => chunkStop s1 k it.pid r

/-- Run an XPOSE: the whole matrix is read before anything is written (R220). -/
def runXpose (s : State) (k pid sec : Nat) : State :=
  match movItem s k pid with
  | none => s
  | some it =>
    if it.isRunning && it.progress < it.desc.total then
      match it.buf with
      | some (m, n) => xposeWrite s k sec it m n
      | none =>
        match readMatrix k sec it (it.desc.rows * it.desc.rowBytes) 0 s with
        | (.ok m, s1) => xposeWrite s1 k sec it m 0
        | (r, s1) => chunkStop s1 k pid r
    else s

/-! ### SKEW (R219) -/

/-- Elements of a packed MXFP6 row, one to a byte. -/
def unpack6 (b : List Byte) : List Byte :=
  (List.range 32).flatMap (fun i =>
    let v := leAt b (3 * i) 3
    (List.range 4).map (fun j => BitVec.ofNat 8 (bits v (6 * j) 6)))

/-- Read `n` bytes from an address on, split at 64 KiB boundaries. -/
def readSplit (k sec : Nat) (it : MovItem) : Nat → Nat → Nat → State → CRes × State
  | 0, _, _, s => (.ok [], s)
  | fuel + 1, a, n, s =>
    if n = 0 then (.ok [], s)
    else
      let m := min n (65536 - a % 65536)
      match located s k sec it false a (fun loc s =>
          let r := readLoc s (ownerOf s (.mov k)) m loc
          (r.1.toC, r.2)) with
      | (.ok d, s1) =>
        (match readSplit k sec it fuel (a + m) (n - m) s1 with
          | (.ok d2, s2) => (.ok (d ++ d2), s2)
          | x => x)
      | x => x

/-- The window of rows that a SKEW has read: row to elements, and row to scales. -/
structure SkewWin where
  rows : NMap (List Byte)
  scales : NMap (List Byte)
deriving DecidableEq, Repr

/-- Read rows `g` to `g + n − 1` into the window. -/
def readRows (k sec : Nat) (it : MovItem) : Nat → Nat → SkewWin → State → (CRes × SkewWin) × State
  | 0, _, w, s => ((.ok [], w), s)
  | n + 1, g, w, s =>
    let d := it.desc
    match readSplit k sec it 2 (d.src + g * d.srcStride) d.rowBytes s with
    | (.ok b, s1) =>
      let w1 := { w with rows := mapPut w.rows g (if d.packed6 then unpack6 b else b) }
      if d.scaleBytes = 0 then readRows k sec it n (g + 1) w1 s1
      else
        (match readSplit k sec it 2 (d.src2 + g * d.scaleBytes) d.scaleBytes s1 with
          | (.ok b2, s2) => readRows k sec it n (g + 1) { w1 with scales := mapPut w1.scales g b2 } s2
          | (x, s2) => ((x, w), s2))
    | (x, s1) => ((x, w), s1)

/-- Line `t` of the image: lane `i` holds the element of row t − i; a lane that holds no row's element is left open by
the spec, and `fresh` numbers its bytes. -/
def skewLine (d : Desc) (w : SkewWin) (t fresh : Nat) : List Byte :=
  let e := d.lineBytes / d.lanes
  (List.range d.lanes).flatMap (fun i =>
    if i ≤ t && t - i < d.rows then ((mapGet [] w.rows (t - i)).drop (e * i)).take e
    else (List.range e).map (fun j => BitVec.ofNat 8 (Config.freeValue (fresh + e * i + j))))

/-- Scale line `t` (R87). -/
def skewScales (d : Desc) (w : SkewWin) (t fresh : Nat) : List Byte :=
  (List.range 8).map (fun j =>
    if j < d.scaleBytes && d.scaleStep * j ≤ t && t - d.scaleStep * j < d.rows then
      (mapGet [] w.scales (t - d.scaleStep * j)).getD j 0
    else BitVec.ofNat 8 (Config.freeValue (fresh + j)))

/-- Write lines `t` to `t + n − 1` of the image, and those of the scale image that hold a row (R219). -/
def writeLines (k : Nat) (it : MovItem) (w : SkewWin) : Nat → Nat → State → CRes × State
  | 0, _, s => (.ok [], s)
  | n + 1, t, s =>
    let d := it.desc
    let p := ownerOf s (.mov k)
    let s0 := { s with fresh := s.fresh + d.lineBytes + 8 }
    match writeLoc s0 p (skewLine d w t s.fresh) (.win (d.dst + t * d.lineBytes)) with
    | (.ok _, s1) =>
      if !d.scaleHeld t then writeLines k it w n (t + 1) s1
      else
        (match writeLoc s1 p (skewScales d w t (s.fresh + d.lineBytes)) (.win (d.dst2 + 8 * t)) with
          | (.ok _, s2) => writeLines k it w n (t + 1) s2
          | (x, s2) => (x.toC, s2))
    | (x, s1) => (x.toC, s1)

/-- The 64 KiB blocks in which row `g` of a SKEW and the lines of its number begin, scales among them. -/
def Desc.blocks (d : Desc) (g : Nat) : List Nat :=
  [(d.src + g * d.srcStride) / 65536, (d.dst + g * d.lineBytes) / 65536]
    ++ if d.scaleBytes = 0 then [] else [(d.src2 + g * d.scaleBytes) / 65536, (d.dst2 + 8 * g) / 65536]

/-- The number of whole rows of the chunk at row `g`: at most X_CHUNK bytes, and in one 64 KiB block of every side (R231). -/
def skewRows (d : Desc) (x g : Nat) : Nat :=
  let most := min (d.rows - g) (max 1 (x / d.rowBytes))
  ((List.range most).takeWhile (fun i => decide (d.blocks (g + i) = d.blocks g))).length

/-- Run a SKEW chunk by chunk. `w` is the window of rows read so far. -/
def runSkew (k pid sec : Nat) : Nat → SkewWin → State → State
  | 0, _, s => s
  | fuel + 1, w, s =>
    match movItem s k pid with
    | none => s
    | some it =>
      let d := it.desc
      let g := it.progress
      if it.isRunning && g < d.rows then
        let n := skewRows d (1024 * 2 ^ it.cfg.chunk) g
        match readRows k sec it n g w s with
        | ((.ok _, w1), s1) =>
          let last := if g + n < d.rows then g + n else d.lines
          (match writeLines k it w1 (last - g) g s1 with
            | (.ok _, s2) => runSkew k pid sec fuel w1 (setItem s2 k { it with progress := g + n })
            | (r, s2) => chunkStop s2 k pid r)
        | ((r, _), s1) => chunkStop s1 k pid r
      else s

/-- A SKEW that goes on from row G first reads rows max(0, G − K + 1) to G − 1 again (R237). -/
def resumeSkew (s : State) (k pid sec : Nat) : State :=
  match movItem s k pid with
  | none => s
  | some it =>
    let g := it.progress
    let lo := g - (it.desc.lanes - 1)
    match readRows k sec it (g - lo) lo { rows := [], scales := [] } s with
    | ((.ok _, w), s1) => runSkew k pid sec (it.desc.rows + 1) w s1
    | ((r, _), s1) => chunkStop s1 k pid r

/-! ### Starting (R211, R216, R217, R222 to R224) -/

/-- BAD_DESCRIPTOR (R217 to R220, R225). The DST_STRIDE of a SKEW, to which R213 gives no meaning, is not tested, and a COPY permits
no FMT but 0 (DESIGN CHOICE, log entry 174). -/
def descBad (d : Desc) (cfg : ChanCfg) : Bool :=
  let high (a : Nat) : Bool := decide (2 ^ 48 ≤ a)
  let mx := d.op == 2 && d.fmt ≤ 10 && d.scaleBytes != 0
  let es := 2 ^ d.fmt
  !(d.op == 1 || d.op == 2 || d.op == 3) || !d.reservedOk || d.rows == 0 || d.rowBytes == 0
    || decide (2 ^ 40 < d.rows * d.rowBytes)
    || (decide (1 < d.rows) && (decide (d.srcStride < d.rowBytes) || (d.op != 2 && decide (d.dstStride < d.rowBytes))))
    || high d.src || high d.dst || (mx && (high d.src2 || high d.dst2))
    || ((d.sx || d.dx) && !cfg.ctxEn) || (d.dx && d.op != 1)
    || (d.op == 1 && (d.fmt != 0 || d.packed6))
    || (d.op == 3 && (decide (2 < d.fmt) || d.packed6 || decide (256 < d.rows) || decide (256 < d.rowBytes)
        || d.rowBytes % es != 0))
    || (d.op == 2 && (decide (10 < d.fmt) || (d.packed6 && !(d.fmt == 3 || d.fmt == 4))
        || d.rowBytes != (if d.packed6 then 96 else d.lineBytes) || !inWindows d.dst || d.dst % d.lineBytes != 0
        || (mx && (!inWindows d.dst2 || d.dst2 % 8 != 0 || (d.dst2 - tieredEnd) / 0x80_0000 != (d.dst - tieredEnd) / 0x80_0000))
        || (List.range (min d.rows 65536)).any (fun g => decide (65536 < (d.src + g * d.srcStride) % 65536 + d.rowBytes))))

/-- The addresses of the station-window slots that rows of bytes touch. -/
def touchedSlots (base rows rb stride : Nat) : List Nat :=
  let lo := max base tieredEnd
  let hi := min (base + (rows - 1) * stride + rb) windowEnd
  if hi ≤ lo then []
  else ((List.range ((hi - 1) / 65536 + 1 - lo / 65536)).map (fun i => 65536 * (lo / 65536 + i))).filter (fun a =>
    let r := if a < base + rb || stride = 0 then 0 else (a - base - rb) / stride + 1
    decide (r < rows) && decide (base + r * stride < a + 65536) && decide (a < base + r * stride + rb))

/-- The slots that a descriptor writes through station windows, by address. -/
def writeSlots (d : Desc) : List Nat :=
  if d.op = 2 then
    touchedSlots d.dst 1 (d.lineBytes * d.lines) 0
      ++ (if d.scaleBytes = 0 then [] else ((List.range d.lines).filter d.scaleHeld).flatMap (fun t =>
        touchedSlots (d.dst2 + 8 * t) 1 8 0)).eraseDups
  else if d.dx then []
  else if d.op = 1 then touchedSlots d.dst d.rows d.rowBytes d.dstStride
  else touchedSlots d.dst (d.rowBytes / 2 ^ d.fmt) (d.rows * 2 ^ d.fmt) d.dstStride

/-- The slots that a descriptor reads through station windows, by address. -/
def readSlots (d : Desc) : List Nat :=
  if d.sx then []
  else touchedSlots d.src d.rows d.rowBytes d.srcStride
    ++ (if d.scaleBytes = 0 then [] else touchedSlots d.src2 1 (d.scaleBytes * d.rows) 0)

/-- Does an image pass the end of the station windows. -/
def pastWindows (d : Desc) : Bool :=
  d.op == 2 && (decide (windowEnd < d.dst + d.lineBytes * d.lines)
    || (d.scaleBytes != 0 && (List.range d.lines).any (fun t => d.scaleHeld t && decide (windowEnd < d.dst2 + 8 * t + 8))))

/-- What the start conditions answer: a status, a claim that is held until a read completes, or the slots. -/
inductive StartRes where
  | fail (c : Nat)
  | held
  | go (w r : List (Nat × Nat))
deriving DecidableEq, Repr

/-- The start conditions in the order of R216. A descriptor waits for slots that are being zeroed (R104, R199). -/
def startCheck (s : State) (k : Nat) (it : MovItem) : StartRes :=
  let p := ownerOf s (.mov k)
  let d := it.desc
  if descBad d it.cfg then .fail 0x80
  else
    let ws := (writeSlots d).map (fun a => windowAt s p a)
    let rs := (readSlots d).map (fun a => windowAt s p a)
    if pastWindows d || (ws ++ rs).any (fun x => x.isNone) then .fail 0x82
    else
      let slotOf (x : Option (Nat × Nat)) : Option (Nat × Nat) := x.map (fun e => (e.1, e.2 / 65536))
      let w := (ws.filterMap slotOf).eraseDups
      let r := (rs.filterMap slotOf).eraseDups
      if (w ++ r).any (fun e => (pairMembers s e.1).any (fun m => !unitUp s m)) then .fail 0x02
      else if !(w ++ r).all (slotServed s) then .held
      else if r.any (fun e => decide (slotState (stn s e.1) e.2 < 2)) then .fail 0x83
      else
        if w.any (fun e => decide (slotState (stn s e.1) e.2 ≠ 0) && !slotReading s e.1 e.2) then .fail 0x81
        else if w.any (fun e => slotReading s e.1 e.2) then .held
        else .go w r

/-- Is a descriptor saved. -/
def MovItem.isSaved (it : MovItem) : Bool := match it.st with
  | .yielded _ => true
  | _ => false

/-- Is engine `e` running a descriptor of some channel. -/
def engineBusy (s : State) (e : Nat) : Bool :=
  s.movs.any (fun c => c.2.items.any (fun it => decide (it.st = .running e)))

/-- Engines of section `x` reserved for latency-critical descriptors in the current row (R323). -/
def rtEngines (s : State) (x : Nat) : Nat :=
  if platRunning s && !s.plat.stopping then bits (rowOf s (activePattern s) s.plat.row).rt (5 * x) 5 else 0

/-- May a descriptor of a class run on engine `e` (R245, R323). -/
def engineServes (s : State) (e cls : Nat) : Bool :=
  if cls = 1 then decide (e % 16 < rtEngines s (e / 16)) else decide (rtEngines s (e / 16) ≤ e % 16)

/-- Is engine `e` in the section of the stations whose windows the descriptor uses (R211). Of windows in two sections the spec
names neither; the model takes the first slot's, a written one's first (DESIGN CHOICE, log entry 173). -/
def engineNear (l : List (Nat × Nat)) (e : Nat) : Bool :=
  match l with
  | [] => true
  | x :: _ => decide (x.1 / 36 = e / 16)

/-- The next descriptor of a channel to run on an engine: the first one saved, or the first waiting one that CONC, ORDER
and the stopped descriptors let start (R211, R236, R239). -/
def nextItem (s : State) (k : Nat) : Option MovItem :=
  let l := (mov s k).items
  match l.find? (fun it => it.isSaved) with
  | some it => some it
  | none =>
    match l.find? (fun it => decide (it.st = .waiting)) with
    | none => none
    | some it =>
      let before := l.takeWhile (fun x => decide (x.pid ≠ it.pid))
      if (l.any (fun x => decide (x.st = .stopped))) || decide (it.cfg.conc ≤ (l.filter (fun x => x.isRunning)).length)
          || (it.desc.order && before.any (fun x => !x.isFinished)) then none else some it

/-- Run the descriptor of channel `k` on engine `e`, from where it stands; while a slot of its is being zeroed it waits. -/
def runItem (s : State) (k pid e : Nat) : State :=
  match movItem s k pid with
  | none => s
  | some it =>
    if !(it.slots ++ it.reads).all (slotServed s) then s
    else if it.desc.op = 1 then runCopy k pid (e / 16) (it.desc.total + 1) s
    else if it.desc.op = 2 then resumeSkew s k pid (e / 16)
    else runXpose s k pid (e / 16)

/-- Start, resume or go on with a descriptor of operation `op` of channel `k` on engine `e`. -/
def moverRun (op k e : Nat) (s : State) : State :=
  match (mov s k).items.find? (fun it => decide (it.st = .running e)) with
    | some it => if it.desc.op = op then runItem s k it.pid e else s
    | none =>
      if heldBlock s (.mov k) then s
      else match nextItem s k with
      | none => s
      | some it =>
        let known := it.desc.op == 1 || it.desc.op == 2 || it.desc.op == 3
        if (known && it.desc.op ≠ op) || engineBusy s e || !engineServes s e it.cfg.cls then s
        else if it.isSaved then
          (if it.lostCarry then finishItem s k it 0x01
          else if engineNear (it.slots ++ it.reads) e then
            runItem (setItem s k { it with st := .running e }) k it.pid e
          else s)
        else match startCheck s k it with
          | .fail c => finishItem s k it c
          | .held => s
          | .go w r =>
            if engineNear (w ++ r) e then
              let s1 := w.foldl (fun s x => setStn s x.1 (setSlot (stn s x.1) x.2 1)) s
              runItem (setItem s1 k { it with st := .running e, slots := w, reads := r }) k it.pid e
            else s

/-- COPY. -/
def effCopy (k e : Nat) (s : State) : State := moverRun 1 k e s
/-- COPY copies rows (R218, R231). -/
def execCopy (k e : Nat) (s : State) : Host.Outcome State Fault Refusal := actMem (Instr.copy k e) s (effCopy k e s)

/-- SKEW. -/
def effSkew (k e : Nat) (s : State) : State := moverRun 2 k e s
/-- SKEW writes source rows as a pre-skewed image (R219). -/
def execSkew (k e : Nat) (s : State) : Host.Outcome State Fault Refusal := actMem (Instr.skew k e) s (effSkew k e s)

/-- XPOSE. -/
def effXpose (k e : Nat) (s : State) : State := moverRun 3 k e s
/-- XPOSE reads a whole matrix and writes its transpose (R220). -/
def execXpose (k e : Nat) (s : State) : Host.Outcome State Fault Refusal := actMem (Instr.xpose k e) s (effXpose k e s)

/-! ### Completion (R215, R223, R233) -/

/-- DESCRIPTOR_COMPLETE. -/
def effDescriptorComplete (k : Nat) (s : State) : State :=
  let s1 := (mov s k).items.foldl (fun s it =>
    if it.isRunning && it.desc.total ≤ it.progress then finishItem s k it 0x00 else s) s
  postAll s1 k
/-- A descriptor whose writes are visible completes, and the channel's completions are posted in acceptance order
(R223, R233). -/
def execDescriptorComplete (k : Nat) (s : State) : Host.Outcome State Fault Refusal :=
  act (Instr.descriptorComplete k) s (effDescriptorComplete k s)

/-! ### Fault commands (R236, R237) -/

/-- Settle the descriptor that the fault record shows with an outcome, and show the next one. -/
def resolveFault (s : State) (k outcome : Nat) : State :=
  match (mov s k).shown with
  | none => s
  | some pid =>
    match movItem s k pid with
    | none => s
    | some it =>
      let s1 := wr (unshow s k) (.mov k) F.mov_FLT_OUTCOME outcome
      let s2 := if outcome = 1 then setItem s1 k (it.save 2) else finishItem s1 k it 0x03
      showFault s2 k

/-- A write of FLT_CMD: while no descriptor is shown it sets BAD_CMD. -/
def fltCmd (f : Func) (k v : Nat) (s : State) : State :=
  withWrite s f (.mov k) F.mov_FLT_CMD v (fun s =>
    if (mov s k).shown.isNone then setErr s (.mov k) 17 else resolveFault s k v)

/-- FLT_CMD RESUME. -/
def effFltCmdResume (f : Func) (k : Nat) (s : State) : State := fltCmd f k 1 s
/-- RESUME repeats the walk from PROGRESS and continues the stopped descriptor (R237). -/
def execFltCmdResume (f : Func) (k : Nat) (s : State) : Host.Outcome State Fault Refusal :=
  act (Instr.fltCmdResume f k) s (effFltCmdResume f k s)

/-- FLT_CMD ABORT. -/
def effFltCmdAbort (f : Func) (k : Nat) (s : State) : State := fltCmd f k 2 s
/-- ABORT completes the stopped descriptor with TRANSLATION_FAULT (R237). -/
def execFltCmdAbort (f : Func) (k : Nat) (s : State) : Host.Outcome State Fault Refusal :=
  act (Instr.fltCmdAbort f k) s (effFltCmdAbort f k s)

/-- FAULT_TIMEOUT. -/
def effFaultTimeout (k : Nat) (s : State) : State :=
  match (mov s k).fltDeadline with
  | none => s
  | some t => if s.mer.frc < t then s else resolveFault s k 3
/-- The fault timeout expires with no command (R237). -/
def execFaultTimeout (k : Nat) (s : State) : Host.Outcome State Fault Refusal :=
  act (Instr.faultTimeout k) s (effFaultTimeout k s)

/-! ### Invalidation (R230) -/

/-- Does a cached entry cover a job address from `b` to `b + n − 1`. -/
def xCovers (x : XEntry) (b n : Nat) : Bool :=
  decide (x.tag * 2 ^ xShift x.level < b + n) && decide (b < (x.tag + 1) * 2 ^ xShift x.level)

/-- INV_GO. -/
def effInvGo (f : Func) (k : Nat) (s : State) : State :=
  withWrite s f (.mov k) F.mov_INV_GO 1 (fun s =>
    let p := ownerOf s (.mov k)
    let root := ef s (.mov k) F.mov_CTX_ROOT
    let n := rd s (.mov k) F.mov_INV_TILES
    let b := rd s (.mov k) F.mov_INV_BASE
    let hit (x : XEntry) : Bool :=
      decide (x.ptn = p) && decide (x.root = root) && (n == 0 || xCovers x b (65536 * n))
    let s1 := wr { s with xlate := s.xlate.filter (fun x => !hit x) } (.mov k) F.mov_INV_DONE 0
    setMov s1 k { mov s1 k with inv := true })
/-- INV_GO invalidates the cached translations of the channel's context (R230). -/
def execInvGo (f : Func) (k : Nat) (s : State) : Host.Outcome State Fault Refusal := act (Instr.invGo f k) s (effInvGo f k s)

/-- INVALIDATION_DONE. -/
def effInvalidationDone (k : Nat) (s : State) : State :=
  if (mov s k).inv then
    setEvt (wr (setMov s k { mov s k with inv := false }) (.mov k) F.mov_INV_DONE 1) (.mov k) 17
  else s
/-- No such entry remains: INV_DONE is set and INV_COMPLETE raised (R230). -/
def execInvalidationDone (k : Nat) (s : State) : Host.Outcome State Fault Refusal :=
  act (Instr.invalidationDone k) s (effInvalidationDone k s)

end Sys2Proof.Machine
end

