-- ==== Sys2Proof/Machine/TrvCore.lean ====
section
/-! DEFINITION. The traverse: its ports (R460), channels and completions (R466, R469), witness reports (R490, R491), peers
(R492, R494), fences (R487), tear-down (R489) and barriers (R495 to R502). -/

namespace Sys2Proof.Machine

/-! ### Ports (R460, R461) -/

/-- Are lanes `a` to `a + n - 1` of the traverse ENABLED: FP_UNIT indexes 648 to 711. -/
def lanesUp (s : State) (a n : Nat) : Bool := (List.range n).all (fun i => unitUp s (648 + a + i))

/-- The width of a traverse port: 8, 4, 2 or 0 (R460). -/
def tvWidth (s : State) (n : Nat) : Nat :=
  if lanesUp s (8 * n) 8 then 8
  else if lanesUp s (8 * n) 4 || lanesUp s (8 * n + 4) 4 then 4
  else if (List.range 4).any (fun i => lanesUp s (8 * n + 2 * i) 2) then 2 else 0

/-- Is a traverse port up: it has a width and its link is up. -/
def tvUp (s : State) (n : Nat) : Bool := decide (0 < tvWidth s n) && mapGet false s.trv.linkUp n

/-- PORT_STATE of one port (R505). -/
def tvPortState (s : State) (n : Nat) : Nat :=
  (match tvWidth s n with
    | 8 => 3
    | 4 => 2
    | 2 => 1
    | _ => 0) + 4 * ofBool (tvUp s n)

/-- A peer's table entry (R492). -/
def peerOf (s : State) (p : Nat) : Peer := mapGet Peer.unknown s.trv.peers p

/-- The ports that are up and through which the table shows a peer reachable, ascending. -/
def peerPorts (s : State) (p : Nat) : List Nat :=
  (List.range 8).filter (fun n => tvUp s n && bitAt (peerOf s p).ports n)

/-- The key of the stream of a channel to a peer. -/
def streamKey (c p : Nat) : Nat := 16384 * c + p

/-- Requests of a stream that await a reply. -/
def streamBusy (s : State) (c p : Nat) : Bool :=
  (trc s c).any (fun it => decide (it.req.peer = p) && !it.pkts.isEmpty)

/-- The port on which a stream may send now (R461): its own while that has stayed up, whatever the peer table has become;
otherwise, once nothing of it is outstanding, the one that the rule gives. -/
def streamPort (s : State) (c p : Nat) : Option Nat :=
  let cur := mapGet 0 s.trv.streams (streamKey c p)
  if 0 < cur && cur ≤ 8 && tvUp s (cur - 1) then some (cur - 1)
  else if streamBusy s c p then none
  else
    let l := peerPorts s p
    if l.isEmpty then none else l[(c + p) % l.length]?

/-- The streams of port `n` have lost it: each keeps to its outstanding requests, and then moves to the port that the rule gives
at that moment, though `n` be up again (R461). -/
def leavePort (s : State) (n : Nat) : State :=
  { s with trv := { s.trv with streams := s.trv.streams.map (fun e => if e.2 = n + 1 then (e.1, 9) else e) } }

/-! ### Lease (R485, R486) -/

/-- LEASE_STATE: 0 NONE, 1 LIVE, 2 FENCED. -/
def leaseState (s : State) : Nat := rd s .trg F.trg_LEASE_STATE

/-- LOCAL_PEER. -/
def localPeer (s : State) : Nat := rd s .trg F.trg_LOCAL_PEER

/-- Linear Meridian time in whole microseconds. -/
def microNow (s : State) : Nat := linNow s / 1000

/-- Microseconds, modulo 2³², since a FIRST_T. -/
def ageOf (s : State) (firstT : Nat) : Nat := (microNow s % 2 ^ 32 + 2 ^ 32 - firstT % 2 ^ 32) % 2 ^ 32

/-! ### Witness reports (R490, R491) -/

/-- A witness entry closes: one 32-byte parcel on WIT_Q, and health kind 8 counts it. -/
def closeWitness (s : State) (w : Witness) : State :=
  let b := natLE 2 w.subject ++ natLE 1 w.cls ++ natLE 1 (ofBool w.injected) ++ natLE 4 w.count ++ natLE 8 w.first
    ++ natLE 8 (linNow s) ++ natLE 8 0
  let s1 := { s with trv := { s.trv with witness := removeFirst (fun x => decide (x = w)) s.trv.witness } }
  let s2 := bumpHealth s1 8 w.injected
  let q := rd s2 .trg F.trg_WIT_Q
  if qOwner s2 q = ownerOf s2 .trg then (hwPost s2 .trv q b 0xFF 0xFFFF 0 true).2 else s2

/-- The open entry of a key. -/
def findWitness (s : State) (subject cls : Nat) (inj : Bool) : Option Witness :=
  s.trv.witness.find? (fun w => decide (w.subject = subject) && decide (w.cls = cls) && w.injected == inj)

/-- Has the window of a witness entry passed. -/
def witnessDue (s : State) (w : Witness) : Bool := decide (w.opened + 1000 * ef s .trg F.trg_WIT_WINDOW_US ≤ s.mer.frc)

/-- The first report of a key opens an entry, and the collector is told (R491). -/
def openWitness (s : State) (subject cls : Nat) (inj : Bool) : State :=
  if s.trv.witness.length < 1024 then
    let w : Witness := { subject := subject, cls := cls, injected := inj, count := 1, first := linNow s, opened := s.mer.frc }
    let s1 := { s with trv := { s.trv with witness := s.trv.witness ++ [w] } }
    let s2 := setEvt (addSat s1 .trg F.trg_WIT_OPENED 1) .trg 19
    let col := ef s2 .trg F.trg_WIT_COLLECTOR
    if col = 0xFFFF then s2 else emit s2 (.witnessPacket col subject cls inj)
  else addSat s .trg F.trg_WIT_UNTRACKED 1

/-- A fault report (R491): it counts in its open entry, or opens one. -/
def report (s : State) (subject cls : Nat) (inj : Bool) : State :=
  match findWitness s subject cls inj with
  | none => openWitness s subject cls inj
  | some w =>
    if witnessDue s w then openWitness (closeWitness s w) subject cls inj
    else { s with trv := { s.trv with
      witness := replaceFirst (fun x => decide (x = w)) (fun x => { x with count := x.count + 1 }) s.trv.witness } }

/-! ### Completions (R466, R469) -/

/-- The agent of a traverse channel. -/
def trvAg (c : Nat) : Agent := .trvChan c

/-- Change an operation of a channel. -/
def setTrvItem (s : State) (c : Nat) (it : TrvItem) : State :=
  setTrc s c (replaceFirst (fun x => decide (x.id = it.id)) (fun _ => it) (trc s c))

/-- The 16 bytes of a traverse completion (R469). -/
def trvCplBytes (it : TrvItem) (status flags result : Nat) : List Byte :=
  natLE 1 status ++ natLE 1 flags ++ natLE 2 it.stake ++ natLE 4 it.req.tag ++ natLE 8 result

/-- Count a completion on the channel's page (R503). -/
def countTrv (s : State) (c : Nat) (it : TrvItem) (status : Nat) : State :=
  if status = 0x00 || status = 0x05 then
    let s1 := addSat s (.trc c) F.trc_OPS_DONE 1
    if it.req.op = 6 then addSat s1 (.trc c) F.trc_BYTES_PUT it.req.len
    else if it.req.op = 7 || it.req.op = 1 then addSat s1 (.trc c) F.trc_BYTES_GOT it.req.len else s1
  else addSat s (.trc c) F.trc_OPS_FAILED 1

/-- Post the completions of a channel in acceptance order, as far as they are decided (R466). -/
def postTrv (c : Nat) : Nat → State → State
  | 0, s => s
  | fuel + 1, s =>
    match trc s c with
    | [] => s
    | it :: rest =>
      match it.done with
      | none => s
      | some (status, flags, result) =>
        let s1 := countTrv (setTrc s c rest) c it status
        postTrv c fuel (postReserved s1 it.cpl (trvCplBytes it status flags result) it.pid it.stake status)

/-- An operation's completion is decided; what it has outstanding is no longer awaited. -/
def decideTrv (s : State) (c : Nat) (it : TrvItem) (status flags result : Nat) : State :=
  setTrvItem s c { it with done := some (status, flags, result), pkts := [] }

/-- The RESULT of an operation that ends without a reply: FIRST_T for NO_REPLY, else 0 (R469). -/
def endResult (it : TrvItem) (status : Nat) : Nat := if status = 0xB0 then it.req.firstT else 0

/-- Is a LOAD attached to the operation (R478). -/
def hasAttached (s : State) (id : Nat) : Bool := s.trv.chans.any (fun e => e.2.any (fun x => decide (x.attached = some id)))

/-- The report of an operation of this Zahild's own that ends with a status: NO_REPLY, DATA_ERROR on a reply, or TARGET_FENCED in
a reply of a peer that the table shows UP (R490). -/
def trvReport (s : State) (peer status : Nat) (byReply : Bool) : State :=
  if status = 0xB0 then report s peer 1 false
  else if byReply && status = 0x0B then report s peer 2 false
  else if byReply && status = 0x04 && (peerOf s peer).st = 1 then report s peer 3 false else s

/-- End one operation with a status, and report it. -/
def endOne (s : State) (c : Nat) (it : TrvItem) (status flags : Nat) (byReply : Bool) : State :=
  decideTrv (trvReport s it.req.peer status byReply) c it status flags (endResult it status)

/-- End an operation with a status, and the LOADs attached to it (R478), each with its report (R490). COMBINED is set when one
reply answered them all: `byReply` (R469). -/
def endTrv (s : State) (c : Nat) (it : TrvItem) (status : Nat) (byReply : Bool) : State :=
  let fl := ofBool (byReply && hasAttached s it.id)
  let s1 := endOne s c it status fl byReply
  s1.trv.chans.foldl (fun s e => e.2.foldl (fun s x =>
    if x.attached = some it.id && x.done.isNone then endOne s e.1 x status fl byReply else s) s) s1

/-- Post on every channel. -/
def postTrvAll (s : State) : State := s.trv.chans.foldl (fun s e => postTrv e.1 e.2.length s) s

/-- The barrier operation of a channel is over: nothing waits on its barrier. -/
def dropBarrier (s : State) (id : Nat) : State :=
  (s.trv.barWait.filter (fun e => decide (e.2.id = id))).foldl (fun s e =>
    let s1 := disarmTrigger s (8 + e.1)
    { s1 with trv := { s1.trv with barWait := mapErase s1.trv.barWait e.1 } }) s

/-- End every undecided operation that satisfies `p`, with the status `f` gives it, and post. -/
def endWhere (s : State) (p : Nat → TrvItem → Bool) (f : TrvItem → Nat) : State :=
  postTrvAll (s.trv.chans.foldl (fun s e => e.2.foldl (fun s it =>
    if it.done.isNone && p e.1 it then endOne (dropBarrier s it.id) e.1 it (f it) 0 false else s) s) s)

/-- A reset of a channel page or a change of its owner (R477): operations never sent end with NOT_DONE, the others with
NO_REPLY. -/
def trcReset (s : State) (c : Nat) : State :=
  let s1 := dropStakeWait (withdrawAgent s (trvAg c)) (trvAg c)
  let s2 := match takeGranted s1 (trvAg c) 1 with
    | (some pid, t) => (commitOp t pid 0).2
    | (none, t) => t
  endWhere s2 (fun x _ => decide (x = c)) (fun it => if it.started then 0xB0 else 0x01)

/-! ### Peers (R492, R494) -/

/-- Deliver the held peer events in order, as far as DISC_Q admits them (R494). -/
def drainPeerEvents : Nat → State → State
  | 0, s => s
  | fuel + 1, s =>
    match s.trv.events with
    | [] => s
    | b :: rest =>
      let q := rd s .trg F.trg_DISC_Q
      if qOwner s q ≠ ownerOf s .trg then s
      else match hwPost s .trv q b 0xFF 0xFFFF 0 false with
      | (.parcel _, s1) => drainPeerEvents fuel { s1 with trv := { s1.trv with events := rest } }
      | _ => s

/-- A peer's entry has changed: PEER_CHANGE is raised, and the event posted; a 129th that waits is not, and sets EVT_OVERFLOW
(R494). -/
def raisePeer (s : State) (ev p ports : Nat) : State :=
  let s0 := setEvt s .trg 20
  if s.trv.events.length < 128 then
    let b := natLE 1 ev ++ natLE 1 0 ++ natLE 2 p ++ natLE 1 ports ++ natLE 11 0 ++ natLE 8 (linNow s)
    let s1 := { s0 with trv := { s0.trv with events := s0.trv.events ++ [b] } }
    if s.trv.events.isEmpty then drainPeerEvents 1 s1 else s1
  else setErr s0 .trg 17

/-- Set a peer's entry; a change counts, and raises an event (R492, R494). -/
def setPeer (s : State) (p st ports : Nat) : State :=
  let x := peerOf s p
  if x.st = st && x.ports = ports then s
  else
    let n := if x.st = st then x.changes else (x.changes + 1) % 2 ^ 32
    let y : Peer := { st := st, ports := ports, changes := n }
    raisePeer { s with trv := { s.trv with peers := mapSet Peer.unknown s.trv.peers p y } } st p ports

/-! ### Jobs and their keys (R463 to R465) -/

/-- Is job slot `j` BOUND. -/
def jobBound (s : State) (j : Nat) : Bool := rd s (.trj j) F.trj_STATE == 1

/-- The slot that has bound a job identifier. -/
def slotOfJob (s : State) (job : Nat) : Option Nat :=
  (List.range 64).find? (fun j => jobBound s j && decide (rd s (.trj j) F.trj_JOB_ID = job))

/-- The traffic key of job slot `j` (R465). -/
def slotKey (s : State) (j : Nat) : Option (List Byte) := mapFind s.trv.trafficKeys j

/-- The traffic key of a job, when a slot has bound it: every packet of the job is sealed under it (R465). -/
def jobKey (s : State) (job : Nat) : Option (List Byte) := (slotOfJob s job).bind (slotKey s)

/-- A packet that was sealed under another key than the slot's fails authentication: it is discarded, counted and reported
(R465, R490). -/
def authDrop (s : State) (src : Nat) : State := report (addSat s .trg F.trg_AUTH_DROPS 1) src 4 false

/-- An inbound request is answered (R480). -/
def reply (s : State) (port src : Nat) (r : TrvReq) (status : Nat) (data : List Byte) : State :=
  emit s (.trvReply port src (jobKey s r.job) r.stream r.seq status false data)

/-- A request that the home agent holds is refused: it is answered with a status and not applied (R464, R487). -/
def refuseHeld (s : State) (p : InReq → Bool) (st : Nat) : State :=
  let s1 := (s.trv.inbound.filter p).foldl (fun s x =>
    let s1 := match slotOfJob s x.req.job with
      | some j => addSat s (.trj j) F.trj_INBOUND_REFUSED 1
      | none => s
    reply s1 x.port x.src x.req st []) s
  { s1 with trv := { s1.trv with inbound := s1.trv.inbound.filter (fun x => !p x) } }

/-! ### Fence (R487) -/

/-- The Zahild fences: LEASE_STATE, its own operations, the requests it has not applied, the notices and the report. -/
def fenceNow (s : State) : State :=
  let s1 := addSat (wr s .trg F.trg_LEASE_STATE 2) .trg F.trg_FENCES 1
  let s2 := refuseHeld (endWhere s1 (fun _ _ => true) (fun _ => 0x04)) (fun _ => true) 0x04
  let s3 := ((List.range 8).filter (tvUp s2)).foldl (fun s n => emit s (.fenceNotice n)) s2
  bumpHealth (emit (setEvt s3 .trg 17) (.pldm "LEASE_FENCED")) 9 false

/-! ### Tear-down (R489) -/

/-- The channels that serve job slot `j`: JOB names it, and both pages have one owner (R503). -/
def jobChannels (s : State) (j : Nat) : List Nat :=
  (List.range 256).filter (fun c => decide (rd s (.trc c) F.trc_JOB = j) && decide (ownerOf s (.trc c) = ownerOf s (.trj j)))

/-- Abort a queue that a page's owner owns. -/
def abortOwn (s : State) (owner q : Nat) : State := if qOwner s q = owner then abortQueue s q else s

/-- Tear-down with ABORT_Q: the channel's queues are aborted, no completion is posted and its stakes are freed. -/
def abortChannel (s : State) (c : Nat) : State :=
  let o := ownerOf s (.trc c)
  let s1 := (trc s c).foldl (fun s it => freeStake (dropBarrier s it.id) it.stake) s
  let s2 := dropStakeWait (withdrawAgent (setTrc s1 c []) (trvAg c)) (trvAg c)
  abortOwn (abortOwn s2 o (rd s2 (.trc c) F.trc_SUBMIT_Q)) o (rd s2 (.trc c) F.trc_CPL_Q)

/-- The exposure of a job slot returns to 0, in the shadows and in effect. -/
def closeExposure (s : State) (j : Nat) : State :=
  [F.trj_EXPOSE_BASE, F.trj_EXPOSE_TILES, F.trj_EXPOSE_RO].foldl (fun s f => wrApplied (wr s (.trj j) f 0) (.trj j) f 0) s

/-- TEAR_DOWN of job slot `j` (R489). -/
def tearDownSlot (s : State) (j : Nat) (abortQ : Bool) : State :=
  if !jobBound s j then s
  else
    let job := rd s (.trj j) F.trj_JOB_ID
    let o := ownerOf s (.trj j)
    let s1 := refuseHeld (closeExposure s j) (fun x => decide (x.req.job = job)) 0xB3
    let cs := jobChannels s1 j
    let s2 := if abortQ then abortOwn (cs.foldl abortChannel s1) o (rd s1 (.trj j) F.trj_WATCH_Q)
      else endWhere s1 (fun c _ => cs.contains c) (fun _ => 0x0A)
    let s3 := { s2 with trv := { s2.trv with
      replay := s2.trv.replay.filter (fun e => decide (e.job ≠ job))
      trafficKeys := mapErase s2.trv.trafficKeys j
      putSeen := mapDrop s2.trv.putSeen (job * 2 ^ 92) ((job + 1) * 2 ^ 92)
      watchWait := s2.trv.watchWait.filter (fun e => decide (e.1 ≠ j)) } }
    let s4 := forUpTo 64 (fun i s => wr (wr s (.trj j) (F.trj_COUNTER.ix i) 0) (.trj j) (F.trj_WATCH.ix i) 0) s3
    setEvt (wr (wr s4 (.trj j) F.trj_STATE 0) (.trj j) F.trj_JOB_ID 0) .trg 18

/-- An entry that returns to UNKNOWN: a change of its state counts (R492). -/
def peerUnknown (x : Peer) : Peer :=
  { st := 0, ports := 0, changes := if x.st = 0 then x.changes else (x.changes + 1) % 2 ^ 32 }

/-- TEAR_DOWN of all jobs (R489, R492): every slot, every peer UNKNOWN, the lease key destroyed, and the fence left. -/
def tearDownAll (s : State) (abortQ : Bool) : State :=
  let s1 := forUpTo 64 (fun j s => tearDownSlot s j abortQ) s
  let s2 := { s1 with trv := { s1.trv with peers := mapAll Peer.unknown s1.trv.peers (fun _ x => peerUnknown x), leaseKey := none } }
  if leaseState s2 = 2 then wr s2 .trg F.trg_LEASE_STATE 0 else s2

/-! ### Arrival counters (R473, R474) -/

/-- Post the watch parcel of a counter that its threshold has been reached for; one that is not admitted waits. -/
def postWatch (s : State) (j i : Nat) : State :=
  let v := rd s (.trj j) (F.trj_COUNTER.ix i)
  let w := rd s (.trj j) (F.trj_WATCH.ix i)
  let hold := { s with trv := { s.trv with watchWait := if s.trv.watchWait.contains (j, i) then s.trv.watchWait else s.trv.watchWait ++ [(j, i)] } }
  if bitAt w 63 && decide (w % 2 ^ 63 ≤ v) then
    let q := rd s (.trj j) F.trj_WATCH_Q
    if qOwner s q ≠ ownerOf s (.trj j) then hold
    else match hwPost s (.trvJob j) q (natLE 1 i ++ natLE 7 0 ++ natLE 8 v) 0xFF 0xFFFF 0 false with
    | (.parcel _, s1) =>
      wr { s1 with trv := { s1.trv with watchWait := s1.trv.watchWait.filter (fun e => decide (e ≠ (j, i))) } } (.trj j) (F.trj_WATCH.ix i) (w % 2 ^ 63)
    | _ => hold
  else s

/-- An arrival counter of a slot is incremented, and saturates (R507); 0xFF names none. -/
def bumpCounter (s : State) (j i n : Nat) : State :=
  if 64 ≤ i then s
  else postWatch (addSat s (.trj j) (F.trj_COUNTER.ix i) n) j i

/-! ### Barriers (R495 to R502) -/

/-- The BARRIER operation of barrier `k` is released: DONE with RESULT T_rel, and LATE where it came late (R497, R501). -/
def releaseBarrier (s : State) (k : Nat) : State :=
  match mapFind s.trv.barWait k with
  | none => s
  | some w =>
    match w.rel, (trc s w.c).find? (fun it => decide (it.id = w.id)) with
    | some t, some it =>
      let s1 := { s with trv := { s.trv with barWait := mapErase s.trv.barWait k } }
      postTrvAll (decideTrv s1 w.c it 0x00 (2 * ofBool w.late) t)
    | _, _ => s

/-- RELEASE of barrier `k` reaches this Zahild (R497, R501). -/
def receiveRelease (s : State) (k epoch tRel : Nat) : State :=
  match mapFind s.trv.barWait k with
  | none => s
  | some w =>
    if w.epoch ≠ epoch || w.rel.isSome then s
    else
      let at_ : Nat := tRel - 1
      let late := decide (((at_ : Int) - (ef s .mer F.mer_X_LEAD : Nat)) * 2 ^ 48 < timeNow s)
      let s1 := wr (wr s .mer (F.mer_AT.ix (8 + k)) at_) .mer (F.mer_PERIOD.ix (8 + k)) 0
      let s2 := { s1 with trv := { s1.trv with barWait := mapPut s1.trv.barWait k { w with rel := some tRel, late := late } } }
      if late then releaseBarrier (addSat (lateTrigger s2 (8 + k)) .trg F.trg_BAR_LATE 1) k
      else wr (wr s2 .mer (F.mer_ARM.ix (8 + k)) 1) .mer (F.mer_LATE.ix (8 + k)) 0

/-- An ARRIVE is counted at the root; at MEMBERS distinct arrivals RELEASE goes to every arrived peer (R496, R502). -/
def countArrival (s : State) (k epoch src : Nat) : State :=
  let mem := ef s .trg (F.trg_BAR_MEMBERS.ix k)
  if mem = 0 || ef s .trg (F.trg_BAR_ROOT.ix k) ≠ localPeer s || s.trv.dropped.contains (k, epoch) then s
  else
    let e := (s.trv.epochs.find? (fun e => decide (e.k = k) && decide (e.epoch = epoch))).getD
      { k := k, epoch := epoch, arrived := [], first := s.mer.frc }
    let arr := if e.arrived.contains src then e.arrived else e.arrived ++ [src]
    let others := s.trv.epochs.filter (fun e => !(decide (e.k = k) && decide (e.epoch = epoch)))
    if mem ≤ arr.length then
      let tRel := linNow s + 1000 * ef s .trg (F.trg_BAR_LEAD_US.ix k)
      let s1 := { s with trv := { s.trv with
        epochs := others
        dropped := s.trv.dropped.filter (fun d => decide (d.1 ≠ k) || decide ((epoch + 65536 - d.2) % 65536 < 32768)) } }
      arr.foldl (fun s p =>
        if p = localPeer s then receiveRelease s k epoch tRel
        else emit s (.barRelease p (slotKey s (ef s .trg (F.trg_BAR_JOB.ix k))) k epoch tRel)) s1
    else { s with trv := { s.trv with epochs := others ++ [{ e with arrived := arr }] } }

end Sys2Proof.Machine
end

