-- ==== Sys2Proof/Machine/View.lean ====
section
/-! DEFINITION. What a register reads: the fields that the hardware computes live, the words of a page and of its active
view (R56, R59), and the values that a capture latched (R554, R557). -/

namespace Sys2Proof.Machine

/-- The index of a field in an array of fields. -/
def ixIn (arr f : Fld) : Option Nat :=
  let k := if arr.stride = 0 then 0 else (f.off - arr.off) / arr.stride
  if arr.ix k = { f with stride := arr.stride } && arr.off ≤ f.off && decide (k < arr.count) then some k else none

/-- Does an agent wait on the pool. -/
def agentWaits (s : State) (ag : Agent) : Bool :=
  s.pool.queues.any (fun e => e.2.stalls.any (fun x => decide (x.agent = ag)) || e.2.line.any (fun w => decide (w.agent = ag)))

/-- Does a sequencer run a job, and is it a lent run. -/
def runKind (st : Station) : Option Bool := st.job.map (fun j => j.lent.isSome)

/-- SEQ_STATE (R113): IDLE, RUN, WAIT, SAVED, LENT, FAULTED. The odd member of a joined pair reads that of the even one,
whose sequencer runs the pair's jobs (R161); a member that no lent run uses reads SAVED until the resume (R164). While a row lends a
member alone and no pair job is saved, each member shows its own (DESIGN CHOICE, log entry 177). -/
def seqState (s : State) (n : Nat) : Nat :=
  let m := seqOf s n
  let q := stn s m
  if runKind (stn s n) = some true then 4
  else if runKind q = some false then (if q.waitt.isSome || q.fence || agentWaits s (.station m) then 2 else 1)
  else if (stn s n).lent then 4
  else match q.saved with
    | some r => if r.cause = 2 then 5 else 3
    | none => 0

/-- NEXT (R113): that of the saved job while none runs; the odd member of a joined pair, whose sequencer runs no job of the
pair, reads 0 (R161). -/
def seqNext (s : State) (n : Nat) : Nat :=
  let st := stn s n
  match st.job, st.saved with
  | some _, _ => st.next
  | none, some r => r.next
  | none, none => if seqOf s n ≠ n then 0 else st.next

/-- STAKE (R113). DESIGN CHOICE (log entry 138): while a lent run uses the station it shows the stake of its owner's saved job,
where there is one, and on the odd member of a joined pair it reads 0: the spec says neither. -/
def seqStake (st : Station) : Nat :=
  match ownerJob st, st.job with
  | some j, _ => j.stake
  | none, some j => j.stake
  | none, none => 0

/-- SLOT_STATE word `k`: two bits for each of 16 slots (R89, R113). -/
def slotStates (s : State) (n k : Nat) : Nat :=
  (List.range 16).foldl (fun a i => a + slotState (stn s n) (16 * k + i) * 2 ^ (2 * i)) 0

/-- The live fields of a station's page. -/
def liveStn (s : State) (n : Nat) (f : Fld) : Option Nat :=
  if f = F.stn_SEQ_STATE then some (seqState s n)
  else if f = F.stn_NEXT then some (seqNext s n)
  else if f = F.stn_NAME_IDX then some (match bindingOf s n with
    | some e => e.1
    | none => match bindingOf s (2 * (n / 2)) with
      | some e => if e.2.pair then e.1 else 0xFF
      | none => 0xFF)
  else if f = F.stn_PAIRED then some (ofBool (pairJoined s n))
  else if f = F.stn_STAKE then some (seqStake (stn s n))
  else (ixIn F.stn_SLOT_STATE f).map (slotStates s n)

/-- Zeroed free locations of a tier. -/
def freeOf (s : State) (tier n : Nat) : Nat := (List.range n).foldl (fun a u => a + (locsAt s tier u).free) 0

/-- The live fields of a queue group's page. -/
def livePq (s : State) (g : Nat) (f : Fld) : Option Nat :=
  let q (k : Nat) : Nat := 16 * g + k
  match ixIn F.pq_STATE f, ixIn F.pq_CELLS f, ixIn F.pq_PARCELS f, ixIn F.pq_RESERVED_N f with
  | some k, _, _, _ => some (if (queue s (q k)).aborted then 2 else qf s (q k) F.pq_ENABLE)
  | _, some k, _, _ => some (qCells s (q k))
  | _, _, some k, _ => some (qParcels s (q k))
  | _, _, _, some k => some (qReserved s (q k))
  | _, _, _, _ => none

/-- STATE of a transit engine (R382). A stalled PRD keeps it in WAIT until its parcel is copied (R370). -/
def tenState (s : State) (t : Nat) : Nat :=
  let e := ten s t
  if e.item.isNone then (if e.zeroing then 4 else 0)
  else if heldQuiesced s (.ten t) then 5
  else if e.handler.isSome then 3
  else if agentHeld s (.ten t) then 2 else 1

/-- STATE of a coding-pool unit (R426). -/
def cduState (s : State) (i : Nat) : Nat :=
  let u := cdu s i
  if u.item.isNone then 0 else if heldQuiesced s (.cdu i) then 4 else if agentWaits s (.cdu i) then 2 else 1

/-- Tiles pinned in a tier. -/
def pinnedTiles (s : State) (p tier : Nat) : Nat :=
  ((ptn s p).tiles.filter (fun e => e.2.pinned && decide (e.2.tier = tier))).length

/-- NAME_STATE of a name index (R537): unbound, ready or down, and whether a pair is bound. -/
def nameState (s : State) (p i : Nat) : Nat :=
  match mapFind (ptn s p).names i with
  | none => 0
  | some b =>
    let up := unitUp s b.station && (!b.pair || unitUp s (b.station + 1))
    (if up then 1 else 2) + 4 * ofBool b.pair

/-- The journaled items of a partition that are not COMPLETE (R524). -/
def lbOpen (s : State) (p : Nat) : List HostItem :=
  (ptn s p).items.filter (fun it => it.journal && decide (it.lb ≠ .complete))

/-- DONE_SEQ: every item up to this number is COMPLETE. -/
def doneSeq (s : State) (p : Nat) : Nat :=
  match minList ((lbOpen s p).map (fun it => it.seq)) with
  | some n => n - 1
  | none => rd s (.ptn p) F.ptn_NEXT_SEQ - 1

/-- The live fields of a partition's page. -/
def livePtn (s : State) (p : Nat) (f : Fld) : Option Nat :=
  if f = F.ptn_DST_USED then some (tierUsed s p 1)
  else if f = F.ptn_HBM_USED then some (tierUsed s p 2)
  else if f = F.ptn_HOST_USED then some (tierUsed s p 3)
  else if f = F.ptn_TOTAL_USED then some (totalUsed s p)
  else if f = F.ptn_DST_PINNED then some (pinnedTiles s p 1)
  else if f = F.ptn_HBM_PINNED then some (pinnedTiles s p 2)
  else if f = F.ptn_RT_READY then some (ofBool (rtReady s p))
  else if f = F.ptn_PQ_USED then some (pqUsed s p)
  else if f = F.ptn_STAKE_USED then some (stakesUsed s p)
  else if f = F.ptn_BE_JOBS_INFLIGHT then some (beInflight s p)
  else if f = F.ptn_RADIO_LOAD then some (if platRunning s then imageLoad s (activePattern s) (some p) else 0)
  else if f = F.ptn_DONE_SEQ then some (doneSeq s p)
  else if f = F.ptn_LB_PENDING then some (lbOpen s p).length
  else if f = F.ptn_BME then some (match vfOf s p with
    | some v => ofBool (bmeOn s v)
    | none => 0)
  else if f = F.ptn_BIND_COUNT then some (ptn s p).names.length
  else (ixIn F.ptn_NAME_STATE f).map (nameState s p)

/-- The live fields of the plat's page. -/
def livePlt (s : State) (f : Fld) : Option Nat :=
  if f = F.plt_COMMITTED then some ((List.range 4).foldl (fun a p => a + ofBool (committed s p) * 2 ^ p) 0)
  else if f = F.plt_ROW then some (if platRunning s then s.plat.row else 0)
  else if f = F.plt_FRAME then some (if platRunning s then s.plat.frame else 0)
  else if f = F.plt_LOAD then some (imageLoad s (activePattern s) none)
  else if f = F.plt_STAKES_FREE then some (stakesFree s)
  else if f = F.plt_STAKE_FLOOR_HELD then some (stakeFloorHeld s)
  else none

/-- The live fields of the Meridian page. ADJ reads the adjustment still to run (R287). -/
def liveMer (s : State) (f : Fld) : Option Nat :=
  if f = F.mer_FRC then some s.mer.frc
  else if f = F.mer_NOW_LIN then some (linNow s)
  else if f = F.mer_NOW_NSF then some (2 ^ 32 * nanosForm (timeNow s) + fracForm (timeNow s))
  else if f = F.mer_ADJ then some (unsigned 64 s.mer.rem)
  else none

/-- The live fields of Monument's page (R597). -/
def liveMon (s : State) (f : Fld) : Option Nat :=
  if f = F.mon_BOOT_STATE then some (match s.stage with
    | .recovery => 4
    | .training => if s.mon.dsk.isEmpty then 0 else 2
    | _ => 3)
  else if f = F.mon_BOOT_SLOT then some s.mon.bootSlot
  else if f = F.mon_SVN_IMAGE then some (mapGet 0 s.mon.slotSvn s.mon.bootSlot)
  else if f = F.mon_SVN_FUSED then some s.mon.svnFused
  else if f = F.mon_BOOT_COUNT then some (satTo 0xFFFF s.mon.bootCount)
  else if f = F.mon_DEBUG_COUNT then some (s.mon.debugRecord.filter (fun e => bitAt e.2 1)).length
  else if f = F.mon_INJ_POLICY then some s.mon.injPolicy
  else if f = F.mon_ANCHORS then
    some ((List.range 3).foldl (fun a i => a + ofBool (mapFind s.mon.anchors i).isSome * 2 ^ i) 0)
  else match ixIn F.mon_DEVICE_ID f, ixIn F.mon_DBG_CHALLENGE f with
  | some k, _ => some (bits s.mon.deviceId (32 * k) 32)
  | _, some k => some (match s.mon.challenge with
    | some (b, _) => leAt b (4 * k) 4
    | none => 0)
  | _, _ => none

/-- Does the power window show a die at or above `d`, or a stack at or above `h`, in °C (R608, R613). -/
def shownOver (s : State) (d h : Int) : Bool :=
  (natLE 4 (rd s .pwr F.pwr_TJ_SEC) ++ natLE 1 (rd s .pwr F.pwr_TJ_HUB)).any (fun b => decide (d ≤ b.toInt))
    || (natLE 8 (rd s .pwr F.pwr_TJ_HBM)).any (fun b => decide (h ≤ b.toInt))

/-- The live fields of the power window (R613). CRIT shows the sensors, not the hold that T_CRIT leaves behind. -/
def livePwr (s : State) (f : Fld) : Option Nat :=
  if f = F.pwr_LEVEL then some s.pwr.level
  else if f = F.pwr_CORE_MHZ then
    let top := if s.part.grade = 1 then 1800 else if s.part.grade = 2 then 1500 else 1200
    some (top - 100 * min s.pwr.level (clockPoints s.part.grade - 1))
  else if f = F.pwr_BRAKE then some (ofBool s.pwr.brake)
  else if f = F.pwr_CRIT then some (ofBool (shownOver s 105 100))
  else none

/-- The live block fields of a page; none for a field that reads what is stored. -/
def liveBlock (s : State) (p : Page) (f : Fld) : Option Nat :=
  match p with
  | .stn n => liveStn s n f
  | .bpr m => if f = F.bpr_EVEN_DOWN then some (ofBool (!unitUp s (2 * m)))
      else if f = F.bpr_ODD_DOWN then some (ofBool (!unitUp s (2 * m + 1))) else none
  | .dst n => if f = F.mem_ZERO_PENDING then some (locsAt s 1 n).pending else none
  | .hbc n => if f = F.mem_ZERO_PENDING then some (locsAt s 2 n).pending else none
  | .tir => if f = F.tir_DST_FREE then some (freeOf s 1 64) else if f = F.tir_HBM_FREE then some (freeOf s 2 8)
      else if f = F.tir_HOST_FREE then some (locsAt s 3 0).free else none
  | .pq g => livePq s g f
  | .pool => if f = F.pool_MGR_USED then some (pqUsed s 0xFF) else if f = F.pool_FREE_CELLS then some (freeCells s)
      else if f = F.pool_FLOOR_HELD then some (pqFloorHeld s)
      else if f = F.pool_ZERO_PENDING then some s.pool.zeroing.length else none
  | .mer => liveMer s f
  | .plt => livePlt s f
  | .ten t => if f = F.ten_STATE then some (tenState s t) else if f = F.ten_PC then some (ten s t).pc
      else if f = F.ten_CUR_PTN then some (ten s t).ptn else if f = F.ten_CUR_CELL then some (ten s t).cell
      else if f = F.ten_CUR_STAKE then some (match (ten s t).item with
        | some w => w.stake
        | none => 0) else none
  | .cdu i => if f = F.cdu_STATE then some (cduState s i) else if f = F.cdu_CUR_PTN then some (cdu s i).ptn
      else if f = F.cdu_CUR_CELL then some (cdu s i).cell
      else if f = F.cdu_CUR_STAKE then some (match (cdu s i).item with
        | some w => w.stake
        | none => 0) else none
  | .fhp q => if f = F.fhp_LINK_UP then some (ofBool (fhUp s q)) else if f = F.fhp_AVAILABLE then some (ofBool (fhAvailable s q))
      else if f = F.fhp_RU_COUNT then some (fhp s q).disc.length else none
  | .trc c => if f = F.trc_OUTSTANDING then some ((trc s c).foldl (fun n it => n + it.pkts.length) 0) else none
  | .trg => if f = F.trg_REPLAY_USED then some s.trv.replay.length
      else if f = F.trg_PORT_STATE then some ((List.range 8).foldl (fun a n => a + tvPortState s n * 2 ^ (4 * n)) 0) else none
  | .ptn n => livePtn s n f
  | .hlt => if f = F.hlt_READY then some (ofBool (decide (s.stage = .ready)))
      else if f = F.hlt_LAST_FM_SEQ then some s.mon.lastFmSeq else none
  | .mon => liveMon s f
  | .pwr => livePwr s f
  | _ => none

/-- STATUS (R52, R309). -/
def statusWord (s : State) (p : Page) : Nat :=
  let base := ofBool (expertActive s p) + 2 * ofBool (decide (rd s p F.SEAL ≠ 0)) + 4 * ofBool (unitDown s p)
  if p = .mer then
    base + 2 ^ 16 * ofBool s.mer.timeValid + 2 ^ 17 * ofBool s.mer.locked + 2 ^ 18 * ofBool s.mer.holdover
      + 2 ^ 19 * ofBool (decide (s.mer.rem ≠ 0)) + 2 ^ 20 * ofBool s.mer.stepUsed
  else base

/-- The value of a field as it reads live. -/
def live (s : State) (p : Page) (f : Fld) : Nat :=
  if f = F.STATUS then statusWord s p
  else if f = F.QUIESCED then ofBool (quiesced s p)
  else if f = F.OWNER then ownerOf s p
  else if f = F.ERR_STATUS then errStatus s p
  else ((liveBlock s p f).getD (rd s p f)) % 2 ^ f.w

/-! ### Capture (R554 to R558) -/

/-- Does a capture latch a field: the RO block fields, the arrival counters, DELAY_MAX (R554). -/
def captured (p : Page) (f : Fld) : Bool :=
  (f.cls == .ro && decide (0x40 ≤ f.off) && p != .pwr) || (ixIn F.trj_COUNTER f).isSome && (match p with
    | .trj _ => true
    | _ => false) || (decide (f = F.fhq_DELAY_MAX) && (match p with
    | .fhq _ => true
    | _ => false))

/-- Every field of a table, arrays taken apart. -/
def expand (l : List Fld) : List Fld := l.flatMap (fun f => (List.range f.count).map f.ix)

/-- The repeater through which a page is latched (R555). -/
def repeaterOf : Page → Nat
  | .ten _ | .cdp | .cdu _ => 1
  | .mer => 2
  | .mon | .hlt => 4
  | .hbc n => 8 + n
  | .fhp q => 16 + q
  | _ => 0

/-- Is a repeater late (R556): its stack is not ENABLED, or its lane's link is down or its lane not ENABLED. Repeaters 0 to 4
have no lane, stack or unit of their own and are always clocked. -/
def repeaterLate (s : State) (i : Nat) : Bool :=
  if i < 8 then false
  else if i < 16 then !unitUp s (208 + (i - 8))
  else if i < 48 then !(unitUp s (616 + (i - 16)) && (List.range (i - 15)).any (fun q => fhUp s q && (fhLanes s q).contains (i - 16)))
  else if i < 112 then !(unitUp s (648 + (i - 48)) && tvUp s ((i - 48) / 8))
  else false

/-- One page's values are latched; a page behind a late repeater keeps what it held (R556). -/
def capturePage (s : State) (p : Page) : State :=
  if repeaterLate s (repeaterOf p) then s
  else
    let fs := (expand (blockTable p)).filter (captured p)
    { s with cap := fs.foldl (fun m f => mapSet 0 m (fldKey p f) (live s p f)) s.cap }

/-- The statistics window of a station is latched (R152, R554). -/
def captureWindow (s : State) (n : Nat) : State :=
  { s with cap := (List.range 128).foldl (fun m c => mapSet 0 m (chmaxKey n c) (chmax s n c)) s.cap }

/-- CAP_LATE of a partition: a repeater that latches a page it owns was late (R557). -/
def ptnCapLate (s : State) (q : Nat) : Bool :=
  assignablePages.any (fun p => decide (ownerOf s p = q) && repeaterLate s (repeaterOf p))

/-- A capture under a new epoch: the late repeaters show, and every unit latches, the epoch and the late bits of this capture
among its values (R303, R554, R556, R557). The new epoch is CAPTURE_EPOCH as it stands. -/
def capture (s : State) : State :=
  let e := rd s .mer F.mer_CAPTURE_EPOCH
  let s1 := wr s .hlt F.hlt_CAP_EPOCH e
  let s2 := forUpTo 4 (fun k s => wr s .hlt (F.hlt_CAP_LATE.ix k)
    ((List.range 32).foldl (fun a i => a + ofBool (repeaterLate s (32 * k + i)) * 2 ^ i) 0)) s1
  let s3 := forUpTo 64 (fun q s =>
    wr (wr s (.ptn q) F.ptn_CAP_EPOCH e) (.ptn q) F.ptn_CAP_LATE (ofBool (ptnCapLate s q))) s2
  (List.range 144).foldl captureWindow (allPages.foldl capturePage s3)

/-- The captured values of a page return to 0 (R558). -/
def clearCapture (s : State) (p : Page) : State :=
  { s with cap := mapDrop s.cap (8 * pageBase p) (8 * (pageBase p + (match p with
    | .stn _ => 0x2200
    | _ => 0x1000))) }

/-! ### Words of a page (R56, R59, R62) -/

/-- A field as a reader sees it: with `cap` the captured value where a capture latches it, in the active view the value in
effect of an H field, otherwise the live or stored value. -/
def shown (s : State) (p : Page) (f : Fld) (active cap : Bool) : Nat :=
  if cap && captured p f then mapGet 0 s.cap (fldKey p f)
  else if active && f.cls == .h then ef s p f
  else live s p f

/-- The bits of a value that starts at bit `b` which fall into the 32 bits from bit `a` on. -/
def wordBits (b v a : Nat) : Nat := if a ≤ b then v * 2 ^ (b - a) % 2 ^ 32 else v / 2 ^ (a - b) % 2 ^ 32

/-- The 32-bit word at an offset of a page (R51, R52, R56). -/
def pageWord (s : State) (p : Page) (off : Nat) (cap : Bool) : Nat :=
  let o := off % 0x1000 / 4 * 4
  let act := decide (0x840 ≤ o)
  let a := if act then o - 0x800 else o
  if p ≠ .pwr && a = 0 then pageType p + 2 ^ 16 * pageInstance p
  else if p ≠ .pwr && a = 4 then 2 ^ 16
  else if p ≠ .pwr && a = 8 then capsOf p
  else (expand (pageTable p)).foldl (fun n f =>
    let b := 8 * f.off + f.lo
    if b < 8 * a + 32 && 8 * a < b + f.w then n + wordBits b (shown s p f act cap) (8 * a) else n) 0

end Sys2Proof.Machine
end

