-- ==== Sys2Proof/Machine/HostCore.lean ====
section
/-! DEFINITION. The host interface's shared operations: rings, acceptance and the input log, the level book, completion
entries, and recovery (R514 to R534). -/

namespace Sys2Proof.Machine

/-! ### Rings and items -/

/-- SQ `k` of partition `p`. -/
def sqAt (s : State) (p k : Nat) : Sq := mapGet Sq.idle (ptn s p).sqs k

/-- Store SQ `k` of partition `p`. -/
def setSq (s : State) (p k : Nat) (x : Sq) : State := setPtn s p { ptn s p with sqs := mapSet Sq.idle (ptn s p).sqs k x }

/-- CQ `c` of partition `p`. -/
def cqAt (s : State) (p c : Nat) : Cq := mapGet Cq.idle (ptn s p).cqs c

/-- Store CQ `c` of partition `p`. -/
def setCq (s : State) (p c : Nat) (x : Cq) : State := setPtn s p { ptn s p with cqs := mapSet Cq.idle (ptn s p).cqs c x }

/-- The entries of an SQ. -/
def sqSize (s : State) (p k : Nat) : Nat := 2 ^ ef s (.ptn p) (F.ptn_SQ_SIZE_LOG2.ix k)

/-- The entries of a CQ. -/
def cqSize (s : State) (p c : Nat) : Nat := 2 ^ ef s (.ptn p) (F.ptn_CQ_SIZE_LOG2.ix c)

/-- Store an item in place of the one it was before. -/
def setHostItem (s : State) (p : Nat) (old new : HostItem) : State :=
  setPtn s p { ptn s p with items := replaceFirst (fun x => decide (x = old)) (fun _ => new) (ptn s p).items }

/-- An item is over. -/
def dropItem (s : State) (p : Nat) (it : HostItem) : State :=
  setPtn s p { ptn s p with
    items := removeFirst (fun x => decide (x = it)) (ptn s p).items, lbBad := (ptn s p).lbBad.filter (fun n => n ≠ it.seq) }

/-- Free the stake an item has, if it has one. -/
def freeItemStake (s : State) (st : Option Nat) : State :=
  match st with
  | some k => freeStake s k
  | none => s

/-- The HIF's agent for an SQ, or for recovery (16). -/
def hifAg (p k : Nat) : Agent := .hif p k

/-- Give up an entry that has not been accepted: it is fetched again later (R549). -/
def dropHeld (s : State) (p k : Nat) : State :=
  let g := takeGranted (dropStakeWait (withdrawAgent s (hifAg p k)) (hifAg p k)) (hifAg p k) 0
  let s1 := match g.1 with
    | some pid => recallParcel g.2 pid
    | none => g.2
  match (sqAt s1 p k).held with
  | none => s1
  | some h =>
    let s2 := match h.pid with
      | some pid => recallParcel s1 pid
      | none => s1
    freeItemStake (setSq s2 p k { sqAt s2 p k with held := none }) h.stake

/-- Give up every entry of a partition that has not been accepted. -/
def dropAllHeld (s : State) (p : Nat) : State := forUpTo 17 (fun k s => dropHeld s p k) s

/-! ### Fetching (R516, R518) -/

/-- Does the HIF take new work of a partition: it is ACTIVE, neither it nor the HIF's own page is quiesced (R53, R74), the
part is ready and neither draining nor expelled (R552, R567), and recovery is over (R528). -/
def hifOpen (s : State) (p : Nat) : Bool :=
  pstate s p == 1 && !heldBlock s (.ptn p) && !heldBlock s .hif && decide (s.stage = .ready) && rd s .hlt F.hlt_DRAINING == 0
    && rd s .hlt F.hlt_EXPELLED == 0 && !(ptn s p).recovering

/-- May the HIF fetch the entry at SQ_HEAD. -/
def mayFetch (s : State) (p k : Nat) : Bool :=
  hifOpen s p && (busOf s p).isSome && ef s (.ptn p) (F.ptn_SQ_EN.ix k) == 1 && (sqAt s p k).held.isNone
    && !(sqAt s p k).stopped && rd s (.ptn p) (F.ptn_SQ_HEAD.ix k) != rd s (.ptn p) (F.ptn_SQ_TAIL.ix k)

/-- Where the entry at SQ_HEAD lies in host memory (R516, R537). -/
def sqHeadAddr (s : State) (p k : Nat) : Nat :=
  ef s (.ptn p) (F.ptn_SQ_BASE.ix k) + 64 * rd s (.ptn p) (F.ptn_SQ_HEAD.ix k)

/-- The entry at SQ_HEAD arrives from host memory, or its read ends in error and the SQ stops with SQ_FAULT (R516, R518). -/
def fetchEntry (s : State) (p k : Nat) (data : Option (List Byte)) : State :=
  if mayFetch s p k then
    match data, busOf s p with
    | none, _ => setErr (setSq s p k { sqAt s p k with stopped := true }) (.ptn p) 19
    | some b, some v =>
      let r := hostLoad s v (sqHeadAddr s p k) 64 b
      let h : SqHeld := { bytes := r.1, stake := none, room := none, pid := none,
                          copied := false, status := none, counted := false }
      setSq r.2 p k { sqAt r.2 p k with held := some h }
    | some _, none => s
  else s

/-! ### Entries (R514, R518) -/

/-- OPC of an entry. -/
def entryOpc (b : List Byte) : Nat := leAt b 0 1
/-- INLINE of an entry. -/
def entryInline (b : List Byte) : Bool := bitAt (leAt b 1 1) 0
/-- PRIO of an entry. -/
def entryPrio (b : List Byte) : Nat := bits (leAt b 1 1) 1 3
/-- TARGET_Q of an entry. -/
def entryQ (b : List Byte) : Nat := bits (leAt b 2 2) 0 14
/-- DATA_ADDR of an entry: where a payload that is not inline lies in host memory. -/
def entryAddr (b : List Byte) : Nat := leAt b 16 8
/-- CID of an entry. -/
def entryCid (b : List Byte) : Nat := leAt b 4 4
/-- LEN of an entry. -/
def entryLen (b : List Byte) : Nat := leAt b 8 4

/-- The checks of an entry (R514, R518): BAD_ENTRY, DONE for a NOP, QUEUE_DENIED, or none for a parcel to deliver. -/
def entryStatus (s : State) (p : Nat) (b : List Byte) : Option Nat :=
  let opc := entryOpc b
  let unused := if entryInline b then zeroBytes b 16 24 else zeroBytes b 24 64
  if (opc ≠ 1 && opc ≠ 2) || bits (leAt b 1 1) 4 4 ≠ 0 || bits (leAt b 2 2) 14 2 ≠ 0 || !zeroBytes b 12 16 || !unused
      || (opc = 1 && (entryLen b = 0 || decide ((if entryInline b then 40 else 65528) < entryLen b))) then some 0xC0
  else if opc = 2 then some 0x00
  else if qOwner s (entryQ b) ≠ p then some 0xC1
  else none

/-! ### The level book (R523 to R526) -/

/-- A multiple of 64 bytes. -/
def pad64 (n : Nat) : Nat := 64 * ceilDiv n 64

/-- An input log record (R525): header, the SQ entry, and a payload that is not inline, padded. -/
def logRecord (seq : Nat) (entry payload : List Byte) : List Byte :=
  let body := if entryInline entry then [] else payload ++ List.replicate (pad64 payload.length - payload.length) 0
  natLE 8 seq ++ natLE 4 (128 + body.length) ++ List.replicate 52 0 ++ entry ++ body

/-- CHECK: the first 64 bits of the record's SM3 hash (R524). -/
def checkOf (r : List Byte) : Nat := leAt (Config.sm3 r) 0 8

/-- The bytes of the input log. -/
def logSpan (s : State) (p : Nat) : Nat := 4096 * ef s (.ptn p) F.ptn_LOG_PAGES

/-- Where a record of `n` bytes goes: at the tail, or whole at offset 0 when it would pass the end (R525; log entry 45). -/
def logPlace (s : State) (p n : Nat) : Nat :=
  if (ptn s p).logTail + n ≤ logSpan s p then (ptn s p).logTail else 0

/-- Must the acceptance of a record of `n` bytes wait (R525): it would overwrite a record of an item that is not
COMPLETE, or its mirror slot is not free. -/
def logBusy (s : State) (p n : Nat) : Bool :=
  let o := logPlace s p n
  let seq := rd s (.ptn p) F.ptn_NEXT_SEQ
  (lbOpen s p).any (fun it => (decide (it.logOff < o + n) && decide (o < it.logOff + it.logLen))
    || decide (it.seq + 2 ^ ef s (.ptn p) F.ptn_MIRROR_LOG2 = seq))

/-- An entry that has been accepted: its item takes the next position of the CQ, SQ_HEAD passes it and SUBMITS counts it
(R516, R540). -/
def putItem (s : State) (p k : Nat) (it : HostItem) : State :=
  let s1 := setCq s p it.cq { cqAt s p it.cq with reserved := (cqAt s p it.cq).reserved + 1 }
  let s2 := setSq s1 p k { sqAt s1 p k with held := none }
  let s3 := setPtn s2 p { ptn s2 p with items := (ptn s2 p).items ++ [it] }
  addSat (wr s3 (.ptn p) (F.ptn_SQ_HEAD.ix k) ((rd s3 (.ptn p) (F.ptn_SQ_HEAD.ix k) + 1) % sqSize s3 p k)) .hif F.hif_SUBMITS 1

/-- The item of a held entry. -/
def itemOf (s : State) (p k c : Nat) (h : SqHeld) : HostItem :=
  { sq := k, sqi := rd s (.ptn p) (F.ptn_SQ_HEAD.ix k), cq := c, pos := (cqAt s p c).reserved, cid := entryCid h.bytes,
    stake := h.stake, seq := 0, journal := false, targetQ := entryQ h.bytes, prio := entryPrio h.bytes, logOff := 0,
    logLen := 0, check := 0, pid := h.pid, lb := if h.status.isSome then .committing else .accepted, rerun := false,
    status := h.status, confirm := false, redo := false }

/-- The codes of the HIF's own that an item may take whose queue turned its parcel away: QUEUE_DENIED (R518). -/
def hifCodes : List Nat := [0xC1]

/-- An accepted item that delivers no parcel completes with a status. -/
def statusItem (s : State) (p : Nat) (it : HostItem) (status : Nat) : State :=
  let y : HostItem := { it with pid := none, status := some status, lb := .committing, redo := false, confirm := false }
  writeMirror (setHostItem s p it y) p y .committing

/-- Commit the parcel of an accepted item (R517). Where its queue turns the commit away, or has dropped the parcel, the item
delivers none and completes with a status of that (log entry 143). -/
def commitItem (s : State) (p : Nat) (it : HostItem) : State :=
  match it.pid with
  | none => s
  | some k =>
    let r := commitOp s k (match parcelOf s k with
      | some x => x.n
      | none => 0)
    if r.1 = 0x00 then r.2
    else
      let c := itemCode r.2 hifCodes r.1
      statusItem c.2 p it c.1

/-- A held entry whose steps 1 to 3 are done is accepted (R516): without a journal at once, otherwise once its record and
mirror entry can be written (R525); its parcel is then committed when the confirming read completes. -/
def acceptHeld (s : State) (p k c : Nat) (h : SqHeld) : State :=
  let it := itemOf s p k c h
  if ef s (.ptn p) (F.ptn_JOURNAL.ix k) = 0 then commitItem (putItem s p k it) p it
  else
    let data := if h.copied then (match h.pid with
      | some pid => payload s pid
      | none => []) else []
    let seq := rd s (.ptn p) F.ptn_NEXT_SEQ
    let rec_ := logRecord seq h.bytes data
    let n := rec_.length
    match busOf s p with
    | none => s
    | some v =>
      if logBusy s p n then
        if h.counted then s
        else addSat (setSq s p k { sqAt s p k with held := some { h with counted := true } }) .hif F.hif_LOG_WAITS 1
      else
        let o := logPlace s p n
        let y : HostItem := { it with
          seq := seq, journal := true, logOff := o, logLen := n, check := checkOf rec_, lb := .accepted, confirm := true }
        let s1 := hostPut s v (ef s (.ptn p) F.ptn_LOG_BASE + o) rec_
        let s2 := wr (writeMirror s1 p y .accepted) (.ptn p) F.ptn_NEXT_SEQ (seq + 1)
        putItem (setPtn s2 p { ptn s2 p with logTail := (o + n) % logSpan s2 p }) p k y

/-! ### Acceptance, step by step (R516) -/

/-- Step 1: the stake. -/
def heldStake (s : State) (p k : Nat) (h : SqHeld) : Option SqHeld × State :=
  match h.stake with
  | some _ => (some h, s)
  | none =>
    match acquireStake s (hifAg p k) p 4 with
    | (some x, s1) => (some { h with stake := some x }, s1)
    | (none, s1) => (none, s1)

/-- The positions of a CQ that are reserved and not released, with the room that held entries have taken. -/
def cqTaken (s : State) (p c : Nat) : Nat :=
  (cqAt s p c).reserved - (cqAt s p c).released
    + ((List.range 16).filter (fun k => match (sqAt s p k).held with
      | some h => decide (h.room = some c)
      | none => false)).length

/-- Step 2: room in the CQ. Its position is numbered at acceptance (R522). -/
def heldRoom (s : State) (p k : Nat) (h : SqHeld) : Option SqHeld :=
  match h.room with
  | some _ => some h
  | none =>
    let c := ef s (.ptn p) (F.ptn_SQ_CQ.ix k)
    if cqTaken s p c < cqSize s p c then some { h with room := some c } else none

/-- A held entry whose reservation ended with a status. -/
def heldStatus (s : State) (h : SqHeld) (c : Nat) : Option SqHeld × State :=
  let r := itemCode s hifCodes c
  (some { h with status := some r.1 }, r.2)

/-- Step 3: the parcel reserved in TARGET_Q with WAIT (R256, R268), or the status of an entry that fails a check or whose
reservation ends. -/
def heldParcel (s : State) (p k : Nat) (h : SqHeld) : Option SqHeld × State :=
  if h.status.isSome || h.pid.isSome then (some h, s)
  else match entryStatus s p h.bytes with
  | some c => (some { h with status := some c }, s)
  | none =>
    match takeGranted s (hifAg p k) 0 with
    | (some pid, s1) => (some { h with pid := some pid }, s1)
    | (none, s1) =>
      match takeEnded s1 (hifAg p k) 0 with
      | (some c, s2) => heldStatus s2 h c
      | (none, s2) =>
        if agentWaits s2 (hifAg p k) then (none, s2)
        else match reserveWait s2 (entryQ h.bytes)
            { agent := hifAg p k, n := entryLen h.bytes, prio := entryPrio h.bytes, payload := none, srcPtn := p,
              srcStake := h.stake.getD 0, token := 0, order := 0, owed := none } with
          | (.parcel pid, s3) => (some { h with pid := some pid }, s3)
          | (.stalled, s3) => (none, s3)
          | (.status c, s3) => heldStatus s3 h c

/-- The payload is copied into the parcel: inline bytes, or those that host memory holds at DATA_ADDR; a read that ended in
error withdraws the parcel (R514, R516, R518). -/
def heldCopy (s : State) (p : Nat) (h : SqHeld) (data : Option (List Byte)) : Option SqHeld × State :=
  match h.pid with
  | none => (some h, s)
  | some pid =>
    if h.copied then (some h, s)
    else if entryInline h.bytes then
      (some { h with copied := true }, writePayload s pid 0 ((h.bytes.drop 24).take (entryLen h.bytes)))
    else match busOf s p, data with
      | none, _ => (none, s)
      | some v, some b =>
        let r := hostLoad s v (entryAddr h.bytes) (entryLen h.bytes) b
        (some { h with copied := true }, writePayload r.2 pid 0 r.1)
      | some _, none => (some { h with pid := none, status := some 0xC2 }, recallParcel s pid)

/-- Keep what a held entry has got so far. -/
def keepHeld (s : State) (p k : Nat) (h : SqHeld) : State := setSq s p k { sqAt s p k with held := some h }

/-- The held entry of an SQ goes on through the steps of R516, as far as it can; none is accepted while the partition's page
or the HIF's is quiesced (R53, R74). -/
def workHeld (s : State) (p k : Nat) (data : Option (List Byte)) : State :=
  match (sqAt s p k).held with
  | none => s
  | some h0 =>
    if heldBlock s (.ptn p) || heldBlock s .hif then s
    else match heldStake s p k h0 with
    | (none, s1) => s1
    | (some h1, s1) =>
      let s1 := keepHeld s1 p k h1
      match heldRoom s1 p k h1 with
      | none => s1
      | some h2 =>
        let s2 := keepHeld s1 p k h2
        match heldParcel s2 p k h2 with
        | (none, s3) => s3
        | (some h3, s3) =>
          let s3 := keepHeld s3 p k h3
          match heldCopy s3 p h3 data with
          | (none, s4) => s4
          | (some h4, s4) => acceptHeld (keepHeld s4 p k h4) p k (h4.room.getD 0) h4

/-! ### Completion (R517, R522, R526) -/

/-- Raise a CQ's vector, where IRQ_EN is set (R520). -/
def cqIrq (s : State) (p c : Nat) : State :=
  if ef s (.ptn p) (F.ptn_IRQ_EN.ix c) = 1 then
    match vfOf s p with
    | some v => raiseMsix s v (ef s (.ptn p) (F.ptn_VECTOR.ix c))
    | none => s
  else s

/-- The 16 bytes of a CQ entry (R515). -/
def cqBytes (it : HostItem) (size : Nat) : List Byte :=
  natLE 1 (it.status.getD 0) ++ natLE 1 (ofBool (it.pos / size % 2 == 0) + 2 * ofBool it.rerun) ++ natLE 1 it.sq
    ++ natLE 1 0 ++ natLE 4 it.cid ++ natLE 8 it.seq

/-- The item whose entry the CQ writes next (R522): the earliest position whose entry has not been written, once its item
has completed. A position that had been written before a reset is written again (R530). Positions of items that a cold reset
lost (R532) are passed over. -/
def cqNext (s : State) (p c : Nat) : Option HostItem :=
  if ef s (.ptn p) (F.ptn_CQ_EN.ix c) = 0 then none
  else match (ptn s p).items.find? (fun it => decide (it.cq = c) && !(it.confirm && decide (it.lb = .committing))) with
  | some it => if decide (it.lb = .committing) && !it.confirm then some it else none
  | none => none

/-- Write an item's CQ entry (R522, R526): the entry, CQ_TAIL and the interrupt; a journaled item's mirror entry is
rewritten as COMPLETE and its confirming read issued, another item's stake is freed. -/
def cqWrite (s : State) (p c : Nat) (it : HostItem) : State :=
  match busOf s p with
  | none => s
  | some v =>
    let n := cqSize s p c
    let x := cqAt s p c
    let s1 := hostPut s v (ef s (.ptn p) (F.ptn_CQ_BASE.ix c) + 16 * (it.pos % n)) (cqBytes it n)
    let s2 := if x.written ≤ it.pos then
        let s2 := wr (setCq s1 p c { x with written := it.pos + 1, reserved := max x.reserved (it.pos + 1) }) (.ptn p)
          (F.ptn_CQ_TAIL.ix c) ((it.pos + 1) % n)
        if x.written = x.released then cqIrq s2 p c else s2
      else s1
    if it.journal then
      setHostItem (writeMirror s2 p it .complete) p it { it with confirm := true }
    else freeItemStake (dropItem s2 p it) it.stake

/-- A confirming read has completed for an item (R525, R526): an accepted item's parcel is committed, or an item that
delivers none completes; an item whose CQ entry is written becomes COMPLETE, and its stake and log record are freed. -/
def confirmItem (s : State) (p : Nat) (it : HostItem) : State :=
  if it.lb = .committing then freeItemStake (dropItem s p it) it.stake
  else
    match it.status with
    | some _ =>
      let y := { it with confirm := false, lb := LbSt.committing }
      writeMirror (setHostItem s p it y) p y .committing
    | none => commitItem (setHostItem s p it { it with confirm := false }) p { it with confirm := false }

/-- The items that one confirming read serves: the 32 oldest that wait for one (R525). -/
def confirmable (s : State) (p : Nat) : List HostItem := ((ptn s p).items.filter (fun it => it.confirm)).take 32

/-- An accepted item completes with a status without its consumer (R511, R512, R528): a parcel not yet committed is
withdrawn, and a release of a delivered one no longer concerns the item. -/
def forceItem (s : State) (p : Nat) (it : HostItem) (status : Nat) : State :=
  if it.lb = .accepted && it.status.isNone then
    let s1 := match it.pid with
      | some pid => if it.confirm then recallParcel s pid else s
      | none => s
    let y : HostItem := { it with pid := none, status := some status, redo := false,
                                  lb := if it.confirm then .accepted else .committing }
    let s2 := setHostItem s1 p it y
    if y.lb = .committing then writeMirror s2 p y .committing else s2
  else s

/-! ### Recovery (R528 to R533) -/

/-- An item whose input is lost completes with INPUT_LOST (R528, R533); its entry waits for its CQ to be in use. -/
def loseInput (s : State) (p : Nat) (it : HostItem) : State :=
  statusItem (addSat (addSat s (.ptn p) F.ptn_INPUT_LOST_N 1) .hif F.hif_INPUT_LOST_N 1) p it 0x09

/-- Deliver an item again under its fresh stake (R528, R529): none while the reservation waits. -/
def redeliver (s : State) (p : Nat) (it : HostItem) (entry data : List Byte) : Bool × State :=
  let go (s : State) (pid : Nat) : Bool × State :=
    let s1 := addSat (addSat s (.ptn p) F.ptn_RERUN_N 1) .hif F.hif_RERUNS 1
    let y : HostItem := { it with pid := some pid, rerun := true, redo := false, status := none, lb := .accepted }
    (true, commitItem (setHostItem (writePayload s1 pid 0 data) p it y) p y)
  match takeGranted s (hifAg p 16) 0 with
  | (some pid, s1) => go s1 pid
  | (none, s1) =>
    match takeEnded s1 (hifAg p 16) 0 with
    | (some c, s2) => (true, statusItem (itemCode s2 hifCodes c).2 p it (itemCode s2 hifCodes c).1)
    | (none, s2) =>
      if agentWaits s2 (hifAg p 16) then (false, s2)
      else match reserveWait s2 (entryQ entry)
          { agent := hifAg p 16, n := entryLen entry, prio := it.prio, payload := none, srcPtn := p,
            srcStake := it.stake.getD 0, token := 0, order := 0, owed := none } with
        | (.parcel pid, s3) => go s3 pid
        | (.stalled, s3) => (false, s3)
        | (.status c, s3) => (true, statusItem (itemCode s3 hifCodes c).2 p it (itemCode s3 hifCodes c).1)

/-- An ACCEPTED item of recovery: its log record is read and checked, and its parcel delivered again (R528). -/
def recoverAccepted (s : State) (p v : Nat) (it : HostItem) : Bool × State :=
  let rec_ := hostGet s v (ef s (.ptn p) F.ptn_LOG_BASE + it.logOff) it.logLen
  if it.logLen < 128 || checkOf rec_ ≠ it.check then (true, loseInput s p it)
  else
    let entry := (rec_.drop 64).take 64
    let data := if entryInline entry then (entry.drop 24).take (entryLen entry) else (rec_.drop 128).take (entryLen entry)
    match entryStatus s p entry with
    | some c => (true, statusItem s p it c)
    | none =>
      if data.length ≠ entryLen entry then (true, statusItem s p it 0xC2)
      else match it.stake with
        | some _ => redeliver s p it entry data
        | none =>
          match acquireStake s (hifAg p 16) p 4 with
          | (none, s1) => (false, s1)
          | (some k, s1) =>
            let y := { it with stake := some k }
            redeliver (setHostItem s1 p it y) p y entry data

/-- The mirror entry of a sequence number, as recovery reads it. -/
def mirrorRead (s : State) (p v n : Nat) : HostItem :=
  mirrorItem (hostGet s v (mirrorAddr s p n) 32) (n % 2 ^ ef s (.ptn p) F.ptn_MIRROR_LOG2)

/-- The read of an item's level book entry in the reserve of H0 (R175): false where it cannot be read, since none was kept, H0
is lost, or the line holds an uncorrectable error, by itself or injected (R200, R528, R569). -/
def lbRead (s : State) (p : Nat) (it : HostItem) : Bool × State :=
  if (ptn s p).lbLost || !unitUp s 208 then (false, s)
  else
    let r := takeFault s (.hbc 0)
    if r.1 = 1 then (true, countCe r.2 (.hbc 0) true)
    else if r.1 = 2 then (false, ueError r.2 (.hbc 0) true)
    else if (ptn s p).lbBad.contains it.seq then (false, ueError r.2 (.hbc 0) false)
    else (true, r.2)

/-- Treat one item of recovery (R528): its mirror entry stands in for a level book entry that cannot be read. False: it
waits. -/
def recoverItem (s : State) (p : Nat) (it : HostItem) : Bool × State :=
  match busOf s p with
  | none => (false, s)
  | some v =>
    let m := mirrorRead s p v it.seq
    let r := lbRead s p it
    let s := r.2
    if r.1 then
      (if it.lb = .committing then (true, setHostItem s p it { it with redo := false, confirm := false })
       else recoverAccepted s p v it)
    else if m.seq ≠ it.seq || m.lb = .absent then (true, loseInput s p it)
    else if m.lb = .complete then (true, freeItemStake (dropItem s p it) it.stake)
    else if m.lb = .committing then
      (true, setHostItem s p it { it with redo := false, confirm := false, lb := .committing, status := m.status })
    else recoverAccepted s p v { it with check := m.check }

/-- Recovery treats its items in sequence order, as far as it can. -/
def recoverRun (p : Nat) : Nat → State → State
  | 0, s => s
  | fuel + 1, s =>
    match (ptn s p).items.find? (fun it => it.redo) with
    | none => s
    | some it =>
      match recoverItem s p it with
      | (true, s1) => recoverRun p fuel s1
      | (false, s1) => s1

/-- Is a mirror entry consistent with the ring sizes in effect (R533). -/
def mirrorFits (s : State) (p : Nat) (it : HostItem) : Bool :=
  ef s (.ptn p) (F.ptn_SQ_EN.ix it.sq) == 1 && ef s (.ptn p) (F.ptn_JOURNAL.ix it.sq) == 1
    && ef s (.ptn p) (F.ptn_SQ_CQ.ix it.sq) == it.cq && ef s (.ptn p) (F.ptn_CQ_EN.ix it.cq) == 1
    && decide (it.sqi < sqSize s p it.sq)

/-- The entries that the mirror holds, in sequence order (R533). -/
def mirrorAll (s : State) (p v : Nat) : List HostItem :=
  let n := 2 ^ ef s (.ptn p) F.ptn_MIRROR_LOG2
  ((List.range n).filterMap (fun i =>
    let m := mirrorItem (hostGet s v (ef s (.ptn p) F.ptn_MIRROR_BASE + 32 * i) 32) i
    if m.lb ≠ .absent && decide (m.seq % n = i) && decide (m.seq ≠ 0) then some m else none)).mergeSort
    (fun a b => decide (a.seq ≤ b.seq))

/-- An SQ's head is restored one past the position that an entry records (R533). -/
def restoreSq (s : State) (p : Nat) (it : HostItem) : State :=
  if ef s (.ptn p) (F.ptn_SQ_EN.ix it.sq) = 1 && decide (it.sqi < sqSize s p it.sq) then
    wr s (.ptn p) (F.ptn_SQ_HEAD.ix it.sq) ((it.sqi + 1) % sqSize s p it.sq)
  else s

/-- A CQ's position is restored (R533): the next one to be reserved is one past the highest recorded. On a CQ that has reserved
nothing since, the head and the tail stand at the lowest position whose entry is still to be written, so that the first one
written raises the vector (R520; log entry 131). -/
def restoreCq (s : State) (p : Nat) (all : List HostItem) (c : Nat) : State :=
  let mine := all.filter (fun it => decide (it.cq = c))
  let x := cqAt s p c
  let n := mine.foldl (fun n it => max n (it.pos + 1)) x.reserved
  let low := (minList ((mine.filter (fun it => decide (it.lb ≠ .complete))).map (fun it => it.pos))).getD n
  if mine.isEmpty || ef s (.ptn p) (F.ptn_CQ_EN.ix c) = 0 then s
  else if x.reserved = 0 then
    wr (wr (setCq s p c { reserved := n, released := low, written := low }) (.ptn p) (F.ptn_CQ_TAIL.ix c)
      (low % cqSize s p c)) (.ptn p) (F.ptn_CQ_HEAD.ix c) (low % cqSize s p c)
  else setCq s p c { x with reserved := n }

/-- The rings are restored from the entries that the mirror holds (R533). -/
def restoreRings (s : State) (p : Nat) (all : List HostItem) : State :=
  forUpTo 16 (fun c s => restoreCq s p all c) (all.foldl (fun s it => restoreSq s p it) s)

/-- Recovery reads the mirror alone (R533): NEXT_SEQ, the rings' positions and the items that are not COMPLETE. -/
def mirrorRecover (s : State) (p v : Nat) : State :=
  let all := mirrorAll s p v
  let next := all.foldl (fun n it => max n (it.seq + 1)) (rd s (.ptn p) F.ptn_NEXT_SEQ)
  let s1 := wr (restoreRings s p all) (.ptn p) F.ptn_NEXT_SEQ next
  let open_ := all.filter (fun it => decide (it.lb ≠ .complete) && !(ptn s p).items.any (fun y => y.journal && y.seq == it.seq))
  let bad := open_.filter (fun it => !mirrorFits s1 p it)
  let s2 := setPtn s1 p { ptn s1 p with
    items := (ptn s1 p).items ++ open_
    lbLost := true
    logTail := all.foldl (fun t it => if it.seq + 1 = next && it.logLen ≠ 0 then (it.logOff + it.logLen) % logSpan s1 p else t)
      (ptn s1 p).logTail }
  bad.foldl (fun s it => loseInput s p it) s2

/-- Recovery goes on: the mirror is read first where it is due, then the items are treated (R528, R533). -/
def recoverOn (s : State) (p : Nat) : State :=
  if !(ptn s p).recovering then s
  else if (ptn s p).mirrorDue then
    match busOf s p with
    | none => s
    | some v => setPtn (mirrorRecover s p v) p { ptn (mirrorRecover s p v) p with mirrorDue := false }
  else recoverRun p ((ptn s p).items.length + 1) s

/-- Recovery of a partition begins: LB_STATE reads RECOVERING (R528). RECOVERY_END carries it on. -/
def recoverStart (s : State) (p : Nat) : State :=
  wr (setPtn s p { ptn s p with recovering := true, recoveryDue := false }) (.ptn p) F.ptn_LB_STATE 2

/-- The read of the log record of an ACCEPTED item that recovery has not yet treated ends as in R509: the item completes with
INPUT_LOST (R528). -/
def recordTimeout (s : State) (p n : Nat) : State :=
  if !(ptn s p).recovering || (ptn s p).mirrorDue then s
  else match (ptn s p).items.find? (fun it => it.redo && decide (it.seq = n)) with
    | some it =>
      if it.lb = .accepted && it.stake.isNone && (busOf s p).isSome then
        loseInput (dropStakeWait (addSat s .hif F.hif_CPL_TIMEOUTS 1) (hifAg p 16)) p it
      else s
    | none => s

/-- LB_STATE while no recovery runs. -/
def lbIdle (s : State) (p : Nat) : State := wr s (.ptn p) F.ptn_LB_STATE (ef s (.ptn p) F.ptn_LB_EN)

/-- Has recovery treated every item. -/
def recoverDone (s : State) (p : Nat) : Bool := !(ptn s p).mirrorDue && (ptn s p).items.all (fun it => !it.redo)

/-! ### Stopping items (R531, R532, R548) -/

/-- Is a parcel delivered and not released. -/
def parcelOut (s : State) (pid : Nat) : Bool :=
  match parcelOf s pid with
  | some x => x.delivered
  | none => false

/-- A reset stops a journaled item that is neither COMPLETE nor COMMITTING: it will run again (R548). An undelivered
parcel is freed; the item has no stake. -/
def stopJournaled (s : State) (p : Nat) (it : HostItem) : State :=
  let s1 := match it.pid with
    | some pid => if parcelOut s pid then s else recallParcel s pid
    | none => s
  freeItemStake (setHostItem s1 p it { it with pid := none, stake := none, status := none, confirm := false, redo := true }) it.stake

/-- The journaled items of a partition that a reset stops: accepted ones, but for those in `keep`, whose traverse
operations wait for their replies (R549). -/
def stoppable (s : State) (p : Nat) (keep : Nat → Bool) : List HostItem :=
  (ptn s p).items.filter (fun it => it.journal && decide (it.lb = .accepted) && (match it.pid with
    | some pid => !keep pid
    | none => true))

end Sys2Proof.Machine
end

