-- ==== Sys2Proof/Machine/Seals.lean ====
section
/-! DEFINITION. Seal groups: arming and applying the shadows of a page's groups (R63 to R71). -/

namespace Sys2Proof.Machine

/-- The pages whose commit point is a plat row boundary (R63). -/
def platBound : Page → Bool
  | .plt | .ten _ | .cdp | .cdu _ | .fhp _ | .fhq _ | .fhg | .dst _ | .hbc _ => true
  | _ => false

/-- The fields of a page that lie in the seal groups of a mask. -/
def groupFields (p : Page) (mask : Nat) : List Fld :=
  (pageTable p).filter (fun f => decide (f.cls = .h) && bitAt mask f.grp && decide (f.grp < 16))

/-- Copy a field's shadows into the values in effect. -/
def applyField (s : State) (p : Page) (f : Fld) : State :=
  forUpTo f.count (fun k s => wrApplied s p (f.ix k) (rd s p (f.ix k))) s

/-- The key of a page's seal group in `sealAt`. -/
def sealKey (p : Page) (g : Nat) : Nat := 16 * pageBase p + g

/-- The shadows of a set of groups of a page are applied together: they are no longer armed, SEAL_STATUS reads APPLIED
where it describes them, and SEAL_APPLIED is raised (R66, R70, R71). -/
def applyShadows (s : State) (p : Page) (mask : Nat) : State :=
  if mask % 65536 = 0 then s
  else
    let s1 := (groupFields p mask).foldl (fun s f => applyField s p f) s
    let left := forUpTo 16 (fun g a => if bitAt mask g then setBits a g 1 0 else a) (rd s1 p F.SEAL)
    let s2 := forUpTo 16 (fun g s => if bitAt mask g then { s with sealAt := mapErase s.sealAt (sealKey p g) } else s)
      (wr s1 p F.SEAL left)
    let s3 := if rd s2 p F.SEAL_RESULT = 1 && (List.range 16).any (fun g => bitAt mask g && bitAt (rd s2 p F.SEAL_GROUPS) g)
      then wr s2 p F.SEAL_RESULT 2 else s2
    setEvt s3 p 0

/-- The armed groups of plat-bound pages whose SEAL was accepted at least 1,000 ticks ago, by page and group; all of
them while no plat frame runs (R63, R64). -/
def dueGroups (s : State) (all : Bool) : List (Page × Nat) :=
  s.sealAt.filterMap (fun e => match pageOf (e.1 / 16) with
    | none => none
    | some p => if platBound p && (all || decide (e.2 + 1000 ≤ s.mer.frc)) then some (p, 2 ^ (e.1 % 16)) else none)

/-- Sealed groups of plat-bound pages reach their commit point. -/
def applyDue (s : State) (all : Bool) : State := (dueGroups s all).foldl (fun s e => applyShadows s e.1 e.2) s

end Sys2Proof.Machine
end

