-- ==== Sys2Proof/Machine/Requant.lean ====
section
/-! DEFINITION. The requantisation stage: parameter records (R137 to R139), the checks of R141, and the output of one
ACC row (R140, R142 to R147, R150). -/

namespace Sys2Proof.Machine

/-! ### The parameter record (R138, R139) -/

/-- ACC_TYPE. -/
def recAcc (b : List Byte) : Nat := bits (leAt b 0 1) 0 2
/-- GRAN. -/
def recGran (b : List Byte) : Bool := bitAt (leAt b 0 1) 2
/-- ROUND. -/
def recRound (b : List Byte) : Nat := bits (leAt b 0 1) 3 2
/-- ACT. -/
def recAct (b : List Byte) : Bool := bitAt (leAt b 0 1) 5
/-- SAT_FP. -/
def recSatFp (b : List Byte) : Bool := bitAt (leAt b 0 1) 6
/-- PATH. -/
def recPath (b : List Byte) : Nat := bits (leAt b 0 1) 7 1
/-- CLAMP_LO. -/
def recLo (b : List Byte) : Int := signed 16 (leAt b 4 2)
/-- CLAMP_HI. -/
def recHi (b : List Byte) : Int := signed 16 (leAt b 6 2)
/-- EXP_SCALE. -/
def recExpScale (b : List Byte) : Nat := leAt b 8 4
/-- The channel of ACC column `n`. -/
def recChan (b : List Byte) (n : Nat) : Nat := if recAcc b = 2 then n / 2 else n
/-- The entry that ACC column `n` uses. -/
def recEntry (b : List Byte) (n : Nat) : Nat := if recGran b then recChan b n else 0
/-- SCALE of a column. -/
def recScale (b : List Byte) (n : Nat) : Nat := leAt b (0x080 + 4 * recEntry b n) 4
/-- BIAS of a column. -/
def recBias (b : List Byte) (n : Nat) : Nat := leAt b (0x280 + 4 * recEntry b n) 4
/-- ZP of a column. -/
def recZp (b : List Byte) (n : Nat) : Int := signed 16 (leAt b (0x480 + 2 * recEntry b n) 2)
/-- SHIFT of a column. -/
def recShift (b : List Byte) (n : Nat) : Nat := bits (leAt b (0x580 + recEntry b n) 1) 0 6

/-- The range of an integer output format. -/
def outRange (f : Nat) : Int × Int := if f = 2 then (-128, 127) else if f = 6 then (-8, 7) else (-32768, 32767)

/-- Is the output format an integer one. -/
def outInt (f : Nat) : Bool := f == 2 || f == 6 || f == 9 || f == 10

/-- Are OFMT, ACC_TYPE and PATH permitted together (R140). -/
def permitted (f acc path : Nat) : Bool :=
  if f = 0 || f = 1 || f = 7 || f = 8 then path == 0 && acc != 2
  else if f = 2 || f = 6 || f = 9 then path == 0 || acc == 1
  else if fmtMX f then path == 0 && (acc == 0 || acc == 1)
  else if f = 10 then path == 1 && acc == 2
  else f == 11 && path == 0

/-- The conditions of R141 that the instruction alone shows: a reserved OFMT, SKEW with RAW32, a row mode with an MX
OFMT. -/
def formOk (r : Rqo) : Bool :=
  decide (r.ofmt ≤ 11) && !(r.skew && r.ofmt == 11) && !((r.mode == 1 || r.mode == 2) && fmtMX r.ofmt)

/-- Does R141 let the RQO run under the record. -/
def recordOk (b : List Byte) (r : Rqo) : Bool :=
  formOk r && recAcc b != 3 && permitted r.ofmt (recAcc b) (recPath b)
    && !((r.mode == 1 || r.mode == 2) && recAcc b != 0)
    && (!outInt r.ofmt || (decide (recLo b ≤ recHi b) && decide ((outRange r.ofmt).1 ≤ recLo b)
          && decide (recHi b ≤ (outRange r.ofmt).2)))

/-! ### One row -/

/-- An output element: its code, what it counts, and the magnitude that the statistics see. -/
structure Elem where
  code : Nat
  sat : Bool
  nan : Bool
  v3 : FV
  mag : Nat
deriving DecidableEq, Repr

/-- The value that enters the float path for an ACC word (R142 step 1). -/
def accWord (b : List Byte) (w : Nat) : Nat := if recAcc b = 0 then w else rn (ofInt (signed 32 w))

/-- Clamp to the record's bounds. -/
def recClamp (b : List Byte) (x : Int) : Int := clampI (recLo b) (recHi b) x

/-- The bits of an integer output. -/
def outBits (f : Nat) : Nat := if f = 2 then 8 else if f = 6 then 4 else 16

/-- Is a binary32 word ±Inf. -/
def isInfWord (w : Nat) : Bool := w % 2 ^ 31 == 0x7F800000

/-- An element of the float path but for the microscaled codes (R142, R145, R150). `v` is the binary32 word that enters
step 2, `w` the ACC word. -/
def floatElem (b : List Byte) (f n v w : Nat) : Elem :=
  let v1 := addB v (recBias b n)
  let v2 := mulB v1 (recScale b n)
  let v3w := if recAct b && isNeg (fv v2) then 0 else v2
  let v3 := fv v3w
  let mag := v1 % 2 ^ 31
  let mk (code : Nat) (sat : Bool) : Elem := { code := code, sat := sat, nan := isNan v3, v3 := v3, mag := mag }
  if f = 11 then mk v3w (isInfWord v3w && !(recAcc b == 0 && (isInfWord w || isNan (fv w))))
  else if outInt f then
    match v3 with
    | .nan => mk (unsigned (outBits f) (recClamp b (recZp b n))) false
    | .inf neg => mk (unsigned (outBits f) (if neg then recLo b else recHi b)) true
    | .fin neg mg e =>
      let q := roundRI (recRound b) neg mg e + recZp b n
      mk (unsigned (outBits f) (recClamp b q)) (decide (q < recLo b) || decide (recHi b < q))
  else
    match ffmt f with
    | some q => if fmtMX f then mk 0 false else mk (cvFloat q (recSatFp b) v3).1 (cvFloat q (recSatFp b) v3).2
    | none => mk 0 false

/-- An element, or a part of a CINT16 element, of the integer path (R143, R150). -/
def intElem (b : List Byte) (f n w : Nat) : Elem :=
  let a := signed 32 w + signed 32 (recBias b n)
  let t := a * signed 32 (recScale b n)
  let t' := if recAct b && decide (t < 0) then 0 else t
  let q := roundRI (recRound b) (decide (t' < 0)) t'.natAbs (-(recShift b n : Int)) + recZp b n
  { code := unsigned (outBits f) (recClamp b q), sat := decide (q < recLo b) || decide (recHi b < q), nan := false,
    v3 := .fin false 0 0, mag := rn (ofInt a) % 2 ^ 31 }

/-- The words that enter step 2 of R142 for a row, and its row sum (R147). `sum` is the ROWDIV divisor. -/
def rowInputs (b : List Byte) (mode : Nat) (ws : List Nat) (sum : Nat) : List Nat × Nat :=
  let vs := ws.map (accWord b)
  if mode = 1 then
    let mx := if vs.any (fun v => isNan (fv v)) then FV.nan
      else (vs.map fv).foldl (fun a v => if numLt a v then v else a) (.inf true)
    let es := vs.map (fun v => exp2 (mulB (recExpScale b) (rn (sumFV [fv v, negFV mx]))))
    (es, es.foldl addB 0)
  else if mode = 2 then (vs.map (fun v => rn (divFV (fv v) (fv sum))), 0)
  else (vs, 0)

/-- The largest exponent of an MX element format (R146). -/
def mxEmax (f : Nat) : Int := if f = 4 then 4 else 2

/-- One microscaled block of a row: its scale byte and its elements (R146, R150). -/
def mxBlock (f : Nat) (q : FFmt) (l : List Elem) : Nat × List Elem :=
  let x := mxScale (mxEmax f) (l.map (fun e => e.v3))
  (x, l.map (fun e => { e with
    code := (mxElem q x e.v3).1, sat := (mxElem q x e.v3).2, nan := decide (x = 0xFF) }))

/-- The elements of one row, its scale bytes, and its row sum. -/
def rowElems (b : List Byte) (r : Rqo) (ws : List Nat) (sum : Nat) : List Elem × List Nat × Nat :=
  let inp := rowInputs b r.mode ws sum
  let es := (List.range 128).map (fun n =>
    if recPath b = 1 then intElem b r.ofmt n (ws.getD n 0)
    else floatElem b r.ofmt n (inp.1.getD n 0) (ws.getD n 0))
  match fmtMX r.ofmt, ffmt r.ofmt with
  | true, some q =>
    let bs := (List.range 4).map (fun k => mxBlock r.ofmt q ((es.drop (32 * k)).take 32))
    (bs.flatMap (fun e => e.2), bs.map (fun e => e.1), inp.2)
  | _, _ => (es, [], inp.2)

/-- Pairs of codes as nibbles of a byte, the even column low. -/
def packNib : List Nat → List Byte
  | a :: b :: r => BitVec.ofNat 8 (a % 16 + 16 * (b % 16)) :: packNib r
  | [a] => [BitVec.ofNat 8 (a % 16)]
  | [] => []

/-- The bytes of each lane of an output row, lane 0 first (R140). -/
def laneBytes (f : Nat) (codes : List Nat) : List (List Byte) :=
  if fmtNib f then
    let l := packNib codes
    (List.range 128).map (fun i => [l.getD i 0])
  else if f = 10 then
    (List.range 64).map (fun i => natLE 2 (codes.getD (2 * i) 0) ++ natLE 2 (codes.getD (2 * i + 1) 0))
  else codes.map (natLE (if f = 11 then 4 else fmtE f))

/-- The writes of row `j`: byte addresses and bytes (R140, R146, R147). -/
def rowWrites (r : Rqo) (j : Nat) (codes scales : List Nat) (sum : Nat) : List (Nat × List Byte) :=
  let base := 128 * r.tsa
  let lanes := laneBytes r.ofmt codes
  let main := if r.skew then
      lanes.zipIdx.map (fun e => (base + outLB r.ofmt * (j + e.2) + e.1.length * e.2, e.1))
    else [(base + outLB r.ofmt * j, lanes.flatten)]
  let sc := 128 * r.gc
  let side := if fmtMX r.ofmt then
      (if r.skew then
        scales.zipIdx.flatMap (fun e =>
          let line := sc + 8 * (j + fmtScaleStep r.ofmt * e.2)
          (line + e.2, natLE 1 e.1) :: (if r.ofmt = 5 then [(line + 4, natLE 4 0)] else []))
      else [(sc + 8 * j, scales.flatMap (natLE 1) ++ natLE 4 0)])
    else if r.mode = 1 then [(sc + 4 * j, natLE 4 sum)] else []
  main ++ side

/-- The effect of one row of an RQO on one member: its writes, its tally, and the channels' magnitudes. -/
structure RqRow where
  writes : List (Nat × List Byte)
  tally : Tally
  stats : List (Nat × Nat)
deriving DecidableEq, Repr

/-- The rows of an RQO over the ACC words it took, under record `b` (R98, R147). DESIGN CHOICE (log entry 133): the spec gives
no order among an RQO's own accesses to lines that its outputs, scales and sums share; every ROWDIV sum is read from `st`
before any row is written, and a row writes its outputs before its scales and its sum. -/
def rqRun (st : Station) (b : List Byte) (r : Rqo) (words : List Nat) : List RqRow :=
  (List.range r.rows).map (fun j =>
    let sum := if r.mode = 2 then storeNat st (128 * r.gc + 4 * j) 4 else 0
    let e := rowElems b r ((words.drop (128 * j)).take 128) sum
    { writes := rowWrites r j (e.1.map (fun x => x.code)) e.2.1 e.2.2
      tally := { sat := (e.1.filter (fun x => x.sat)).length, inf := 0, nan := (e.1.filter (fun x => x.nan)).length }
      stats := e.1.zipIdx.map (fun x => (recChan b x.2, x.1.mag)) })

end Sys2Proof.Machine
end

