-- ==== Sys2Proof/Machine/Traverse.lean ====
section
/-! DEFINITION. The traverse commands (R460 to R502): descriptors, replies and time-outs, inbound requests, the fabric
manager's messages, witness reports, barriers, and links. -/

namespace Sys2Proof.Machine

/-! ### Local accesses -/

/-- The pieces of a range that lie in one 64 KiB block each. -/
def splitRange : Nat → Nat → Nat → List (Nat × Nat)
  | 0, _, _ => []
  | fuel + 1, a, n =>
    if n = 0 then []
    else
      let k := min n (65536 - a % 65536)
      (a, k) :: splitRange fuel (a + k) (n - k)

/-- The pieces of a packet's range: a packet holds at most 256 bytes. -/
def pieces (a n : Nat) : List (Nat × Nat) := splitRange 3 a n

/-- Is a window address served: its slot is not being zeroed (R104, R199). -/
def winServed (s : State) (p a : Nat) : Bool :=
  match windowAt s p a with
  | some (m, off) => slotServed s (m, off / 65536)
  | none => true

/-- A window that is refused once the operation has been accepted is a refused LADDR all the same: BAD_OP (R470). -/
def refusedAt (r : TRes) : TRes :=
  match r with
  | .fail c ue => if c = 0x82 then .fail 0xB2 ue else .fail c ue
  | x => x

/-- Read one piece of the partition range, outside mover promotion (R464). -/
def readAt (s : State) (p a n : Nat) : TRes × State :=
  if a < tieredEnd then readTile s p a n false
  else if winServed s p a then
    let r := readLoc s p n (.win a)
    (refusedAt r.1, r.2)
  else (.wait, s)

/-- Write one piece of the partition range. -/
def writeAt (s : State) (p a : Nat) (d : List Byte) : TRes × State :=
  if a < tieredEnd then writeLoc s p d (.tier a)
  else if winServed s p a then
    let r := writeLoc s p d (.win a)
    (refusedAt r.1, r.2)
  else (.wait, s)

/-- Read pieces in order and join their bytes. -/
def readAll (p : Nat) : List (Nat × Nat) → State → TRes × State
  | [], s => (.ok [], s)
  | (a, n) :: r, s =>
    match readAt s p a n with
    | (.ok d, s1) =>
      (match readAll p r s1 with
        | (.ok d2, s2) => (.ok (d ++ d2), s2)
        | x => x)
    | x => x

/-- Write bytes over pieces in order. -/
def writeAll (p : Nat) : List (Nat × Nat) → List Byte → State → TRes × State
  | [], _, s => (.ok [], s)
  | (a, n) :: r, d, s =>
    match writeAt s p a (d.take n) with
    | (.ok _, s1) => writeAll p r (d.drop n) s1
    | x => x

/-- Is every byte of a range in the tiered region, or in a station window that R174 allows (R225). -/
def rangeOk (s : State) (p a n : Nat) : Bool :=
  let lo := max a tieredEnd
  decide (a + n ≤ tieredEnd) || (decide (a + n ≤ windowEnd)
    && (List.range ((a + n - 1) / 65536 + 1 - lo / 65536)).all (fun i =>
      (windowAt s p (if i = 0 then lo else (lo / 65536 + i) * 65536)).isSome))

/-! ### Descriptors (R467, R468) -/

/-- Does an AOP of MERGE (R468). -/
def mergeAop (a : Nat) : Bool := a == 1 || a == 2 || (decide (4 ≤ a) && decide (a ≤ 7))

/-- Is a LEN one of the powers of two that LOAD and STORE allow. -/
def loadLen (n : Nat) : Bool := [1, 2, 4, 8, 16, 32, 64].contains n

/-- Does a descriptor's shape follow R467 and R468: the payload's length, LEN, its alignment, AOP and the flag bits. -/
def trvShapeOk (b : List Byte) : Bool :=
  let op := leAt b 0 1
  let fl := leAt b 1 1
  let raddr := leAt b 8 8
  let len := leAt b 24 4
  let aop := bits (leAt b 28 1) 0 4
  let ctr := leAt b 29 1
  decide (48 ≤ b.length) && zeroBytes b 36 48 && decide (fl < 16) && decide (leAt b 2 2 < 16384)
    && decide (raddr < 2 ^ 48) && decide (leAt b 16 8 < 2 ^ 48) && decide (leAt b 28 1 < 16)
    && (!bitAt fl 0 || op == 1 || op == 5) && (!bitAt fl 1 || op == 4) && (!bitAt fl 3 || op == 6 || op == 7)
    && (match op with
      | 1 => loadLen len && decide (raddr % len = 0) && decide (b.length = 48)
      | 2 => loadLen len && decide (raddr % len = 0) && decide (b.length = 48 + len)
      | 3 => decide (len = 8) && decide (raddr % 8 = 0) && decide (b.length = 56)
      | 4 => (decide (len = 4) || decide (len = 8)) && decide (raddr % len = 0) && decide (aop ≤ 10) && (decide (aop ≠ 10) || decide (len = 4)) && decide (b.length = 64)
      | 5 => (decide (len = 4) || decide (len = 8)) && decide (raddr % len = 0) && mergeAop aop && decide (b.length = 64)
      | 6 => (decide (ctr < 64) || decide (ctr = 0xFF)) && decide (b.length = 48)
      | 7 => (decide (ctr < 64) || decide (ctr = 0xFF)) && decide (b.length = 48)
      | 8 => decide (len = 0) && decide (b.length = 48)
      | _ => false)

/-- The operation that a descriptor parcel asks for; LEN 0 of a PUT or GET stands for 2³² bytes, and the peer of a BARRIER is
its ROOT (R496). -/
def trvReqOf (s : State) (c : Nat) (b : List Byte) : TrvReq :=
  let op := leAt b 0 1
  let fl := leAt b 1 1
  let len := leAt b 24 4
  { op := op, combine := bitAt fl 0,
    peer := if op = 8 then ef s .trg (F.trg_BAR_ROOT.ix (bits (leAt b 28 1) 0 4)) else leAt b 2 2 % 16384, job := rd s (.trj (rd s (.trc c) F.trc_JOB)) F.trj_JOB_ID,
    tag := leAt b 4 4, raddr := leAt b 8 8, len := if (op = 6 || op = 7) && len = 0 then 2 ^ 32 else len,
    aop := bits (leAt b 28 1) 0 4, ctr := leAt b 29 1, ctrBytes := bitAt fl 3,
    firstT := if bitAt fl 1 then leAt b 32 4 else microNow s % 2 ^ 32, stream := c, seq := 0,
    payload := if op = 2 || op = 3 then b.drop 48 else [],
    operand := if op = 4 || op = 5 then leAt b 48 8 else 0, compare := if op = 4 || op = 5 then leAt b 56 8 else 0 }

/-- Is the descriptor's LADDR refused (R470): for the operations that use it. -/
def laddrOk (s : State) (c : Nat) (r : TrvReq) (laddr : Nat) : Bool :=
  if r.op = 6 || r.op = 7 || (r.op = 1 && decide (8 < r.len)) then rangeOk s (ownerOf s (.trc c)) laddr r.len else true

/-- Is a BARRIER descriptor against a rule of the barriers (R495). -/
def barrierBad (s : State) (c k : Nat) : Bool :=
  decide (ef s .trg (F.trg_BAR_JOB.ix k) ≠ rd s (.trc c) F.trc_JOB) || decide (ef s .trg (F.trg_BAR_MEMBERS.ix k) = 0)
    || (mapFind s.trv.barWait k).isSome

/-- The status with which an accepted operation ends at once, if it does (R470, R487); of the conditions that hold together the
one that R20 ranks first. -/
def trvStop (s : State) (c : Nat) (ok : Bool) (r : TrvReq) (laddr : Nat) : Option Nat :=
  let own : Bool := r.op = 8 && decide (r.peer = localPeer s)
  let st := (peerOf s r.peer).st
  if leaseState s = 2 || (!own && st == 2) then some 0x04
  else if !ok || !laddrOk s c r laddr || (r.op = 8 && barrierBad s c r.aop) then some 0xB2
  else if own || st = 1 then none else some 0xB4

/-- May the channel send for its job: the lease is LIVE, and the slot is BOUND (R463, R486). -/
def mayServe (s : State) (c : Nat) : Bool := leaseState s == 1 && jobBound s (rd s (.trc c) F.trc_JOB)

/-- The outstanding LOAD to which a combined LOAD of channel `c` is attached (R478). -/
def attachTo (s : State) (c : Nat) (r : TrvReq) : Option Nat :=
  if r.op = 1 && r.combine && mayServe s c then
    s.trv.chans.findSome? (fun e => (e.2.find? (fun x => x.req.op == 1 && x.req.combine && x.done.isNone && x.attached.isNone
      && !x.pkts.isEmpty && decide (rd s (.trc e.1) F.trc_JOB = rd s (.trc c) F.trc_JOB) && decide (x.req.peer = r.peer) && decide (x.req.raddr = r.raddr)
      && decide (x.req.len = r.len))).map (fun x => x.id))
  else none

/-- A BARRIER begins: its epoch is this Zahild's count, and at the root its own arrival is counted at once. Elsewhere its
ARRIVE is a request of the stream to the root, still to be sent (R461, R496). -/
def beginBarrier (s : State) (c id k : Nat) : State :=
  let e := mapGet 0 s.trv.barCount k
  let w : BarWait := { c := c, id := id, epoch := e, since := s.mer.frc, rel := none, late := false, fired := false }
  let s1 := { s with trv := { s.trv with
    barCount := mapSet 0 s.trv.barCount k ((e + 1) % 65536), barWait := mapPut s.trv.barWait k w } }
  match (trc s1 c).find? (fun it => decide (it.id = id)) with
  | some it =>
    if it.req.peer = localPeer s1 then countArrival (setTrvItem s1 c { it with started := true }) k e (localPeer s1) else s1
  | none => s1

/-! ### Acceptance (R466) -/

/-- The parcel is accepted with its stake and its completion parcel. -/
def acceptTrv (s : State) (c pid stake cpl : Nat) : State :=
  let s1 := (hwRead s (trvAg c) (rd s (.trc c) F.trc_SUBMIT_Q)).2
  let b := payload s1 pid
  let r := trvReqOf s1 c b
  let stop := trvStop s1 c (trvShapeOk b) r (leAt b 16 8)
  let id := s1.trv.nextId
  let it : TrvItem :=
    { id := id, pid := pid, stake := stake, cpl := cpl, req := r, laddr := leAt b 16 8, tsReq := bitAt (leAt b 1 1) 2,
      tsId := leAt b 30 2, next := 0, got := 0, started := false, port := 0, pkts := [], attached := attachTo s1 c r
      done := stop.map (fun st => (st, 0, 0)) }
  let s2 := setTrc { s1 with trv := { s1.trv with nextId := id + 1 } } c (trc s1 c ++ [it])
  if stop.isSome then postTrv c (trc s2 c).length s2
  else if r.op = 8 then beginBarrier s2 c id r.aop
  else s2

/-- Reserve the completion parcel of the parcel at the head, for which a stake is held (R210, R466). -/
def reserveTrvCpl (s : State) (c pid stake : Nat) : State :=
  let ag := trvAg c
  let q := rd s (.trc c) F.trc_CPL_Q
  match takeGranted s ag 1 with
  | (some cpl, s1) => acceptTrv s1 c pid stake cpl
  | (none, _) =>
    if (queue s q).line.any (fun w => decide (w.agent = ag)) then keepStake s ag stake
    else
      let w : ResWait := { agent := ag, n := 16, prio := qf s q F.pq_HW_PRIO, payload := none,
                           srcPtn := ownerOf s (.trc c), srcStake := stake, token := 1, order := 0, owed := none }
      match reserveWait s q w with
      | (.parcel cpl, s1) => acceptTrv s1 c pid stake cpl
      | (.stalled, s1) => keepStake s1 ag stake
      | (.status _, s1) => freeStake s1 stake

/-- Does the parcel at the head ask for operation `op`, or for none that R467 has. -/
def headIs (s : State) (pid op : Nat) : Bool :=
  let b := payload s pid
  decide (leAt b 0 1 = op) || decide (leAt b 0 1 = 0) || decide (8 < leAt b 0 1)

/-- A channel tries to accept the parcel at the head of SUBMIT_Q, when it asks for `op` (R466, R503). -/
def tryAcceptTrv (s : State) (c op : Nat) : State :=
  let ag := trvAg c
  let o := ownerOf s (.trc c)
  let q := rd s (.trc c) F.trc_SUBMIT_Q
  if heldBlock s (.trc c) || o = 0xFF || qOwner s q ≠ o || qOwner s (rd s (.trc c) F.trc_CPL_Q) ≠ o
      || ownerOf s (.trj (rd s (.trc c) F.trc_JOB)) ≠ o then s
  else
    let s0 := (takeEnded s ag (readToken q)).2
    match peekPid s0 ag q with
    | none => (hwRead s0 ag q).2
    | some pid =>
      if !headIs s0 pid op then s0
      else match acquireStake s0 ag o 2 with
      | (none, s1) => s1
      | (some stake, s1) => reserveTrvCpl s1 c pid stake

/-! ### Sending (R461, R462, R473, R476) -/

/-- Requests of the device that await a reply. -/
def trvOutstanding (s : State) : Nat := s.trv.chans.foldl (fun n e => e.2.foldl (fun n it => n + it.pkts.length) n) 0

/-- The operation of a channel with a number. -/
def trvItem (s : State) (c id : Nat) : Option TrvItem := (trc s c).find? (fun it => decide (it.id = id))

/-- Does an operation wait for the reply of another. -/
def isAttached (s : State) (it : TrvItem) : Bool :=
  match it.attached with
  | none => false
  | some i => s.trv.chans.any (fun e => e.2.any (fun x => decide (x.id = i) && x.done.isNone))

/-- Has an operation requests still to send. -/
def hasUnsent (s : State) (it : TrvItem) : Bool :=
  it.done.isNone && !isAttached s it && if it.req.op = 8 then !it.started else decide (it.next < it.req.len)

/-- The request of an operation's bytes `off` to `off + n − 1`, for the job that the channel's slot has bound. -/
def packetOf (s : State) (c : Nat) (it : TrvItem) (id off n : Nat) (data : List Byte) : TrvReq :=
  { it.req with job := rd s (.trj (rd s (.trc c) F.trc_JOB)) F.trj_JOB_ID, raddr := it.req.raddr + off, len := if it.req.op = 7 then n else it.req.len, stream := c, seq := id, payload := data, operand := if it.req.op = 6 then it.id else it.req.operand }

/-- The key that seals what channel `c` sends and receives (R465). -/
def chanKey (s : State) (c : Nat) : Option (List Byte) := slotKey s (rd s (.trc c) F.trc_JOB)

/-- The packet of a request goes out on a port, and with TS_REQ its egress stamp is taken (R462). A BARRIER's is ARRIVE, with
the epoch that it waits for (R496). -/
def emitPacket (s : State) (c port : Nat) (it : TrvItem) (id off n : Nat) (data : List Byte) : State :=
  let s1 := emit s (if it.req.op = 8 then
      .barArrive port it.req.peer (chanKey s c) it.req.aop (match mapFind s.trv.barWait it.req.aop with
        | some w => w.epoch
        | none => 0)
    else .packet port it.req.peer (chanKey s c) (packetOf s c it id off n data))
  if it.tsReq then pushStamp s1 (32 + port) it.tsId 0 else s1

/-- A request leaves on its port. -/
def sendPacket (s : State) (c port : Nat) (it : TrvItem) (off n : Nat) (data : List Byte) : State :=
  let id := s.trv.nextId
  let k : TrvPkt := { id := id, off := off, len := n, sentAt := s.mer.frc, tries := 0, busy := false }
  let s1 := setTrvItem { s with trv := { s.trv with
    nextId := id + 1, streams := mapSet 0 s.trv.streams (streamKey c it.req.peer) (port + 1) } } c
    { it with next := off + n, started := true, port := port, pkts := it.pkts ++ [k] }
  emitPacket s1 c port it id off n data

/-- Send an operation's next request; none when it must wait. -/
def sendNext (s : State) (c id : Nat) : Option State :=
  match trvItem s c id with
  | none => none
  | some it =>
    if !hasUnsent s it || decide (16384 ≤ trvOutstanding s) then none
    else match attachTo s c it.req, streamPort s c it.req.peer with
      | some k, _ => some (setTrvItem s c { it with attached := some k })
      | none, none => none
      | none, some port =>
        let n := if it.req.op = 6 || it.req.op = 7 then min 256 (it.req.len - it.next) else it.req.len
        if it.req.op = 6 then
          match readAll (ownerOf s (.trc c)) (pieces (it.laddr + it.next) n) s with
          | (.ok d, s1) => some (sendPacket s1 c port it it.next n d)
          | (.wait, _) => none
          | (.fail st ue, s1) => some (postTrvAll (endTrv (ueHit s1 ue) c it st false))
        else some (sendPacket s c port it it.next n it.req.payload)

/-- Send an operation's requests as far as they may go. -/
def sendAll (c id : Nat) : Nat → State → State
  | 0, s => s
  | fuel + 1, s =>
    match sendNext s c id with
    | none => s
    | some s1 => sendAll c id fuel s1

/-- May an operation send: no earlier operation of its stream has requests still to send (R471). -/
def mayIssue (s : State) (c : Nat) (it : TrvItem) : Bool :=
  !((trc s c).takeWhile (fun x => decide (x.id ≠ it.id))).any (fun x => decide (x.req.peer = it.req.peer) && hasUnsent s x)

/-- Send what the channel's operations of one kind may send. -/
def sendOps (s : State) (c op : Nat) : State :=
  (trc s c).foldl (fun s it =>
    if it.req.op = op && mayServe s c && mayIssue s c it then sendAll c it.id (it.req.len / 256 + 1) s else s) s

/-- A channel takes and carries out operations of one kind. -/
def trvRun (op c : Nat) (s : State) : State := sendOps (tryAcceptTrv s c op) c op

/-- LOAD. -/
def effLoad (c : Nat) (s : State) : State := trvRun 1 c s
/-- A LOAD descriptor reads LEN bytes from a peer's exposure (R468, R478). -/
def execLoad (c : Nat) (s : State) : Host.Outcome State Fault Refusal := actMem (Instr.load c) s (effLoad c s)

/-- STORE. -/
def effStore (c : Nat) (s : State) : State := trvRun 2 c s
/-- A STORE descriptor writes its payload to a peer's exposure (R468). -/
def execStore (c : Nat) (s : State) : Host.Outcome State Fault Refusal := actMem (Instr.store c) s (effStore c s)

/-- FLAG. -/
def effFlag (c : Nat) (s : State) : State := trvRun 3 c s
/-- A FLAG descriptor writes 8 bytes after every earlier STORE and PUT of its stream (R471). -/
def execFlag (c : Nat) (s : State) : Host.Outcome State Fault Refusal := actMem (Instr.flag c) s (effFlag c s)

/-- ATOMIC. -/
def effAtomic (c : Nat) (s : State) : State := trvRun 4 c s
/-- An ATOMIC descriptor sends a tagged atomic (R468, R481). -/
def execAtomic (c : Nat) (s : State) : Host.Outcome State Fault Refusal := actMem (Instr.atomic c) s (effAtomic c s)

/-- MERGE. -/
def effMerge (c : Nat) (s : State) : State := trvRun 5 c s
/-- A MERGE descriptor applies an idempotent operation at the target (R478). -/
def execMerge (c : Nat) (s : State) : Host.Outcome State Fault Refusal := actMem (Instr.merge c) s (effMerge c s)

/-- PUT. -/
def effPut (c : Nat) (s : State) : State := trvRun 6 c s
/-- A PUT descriptor copies from LADDR to the peer's exposure in packets of at most 256 bytes (R473). -/
def execPut (c : Nat) (s : State) : Host.Outcome State Fault Refusal := actMem (Instr.put c) s (effPut c s)

/-- GET. -/
def effGet (c : Nat) (s : State) : State := trvRun 7 c s
/-- A GET descriptor copies from the peer's exposure to LADDR (R473). -/
def execGet (c : Nat) (s : State) : Host.Outcome State Fault Refusal := actMem (Instr.get c) s (effGet c s)

/-- BARRIER. -/
def effBarrier (c : Nat) (s : State) : State := trvRun 8 c s
/-- A BARRIER descriptor sends ARRIVE to the barrier's root (R496). -/
def execBarrier (c : Nat) (s : State) : Host.Outcome State Fault Refusal := actMem (Instr.barrier c) s (effBarrier c s)

/-! ### Replies and time-outs (R469, R475, R476, R478) -/

/-- The channel, operation and request with a number. -/
def findPkt (s : State) (id : Nat) : Option (Nat × TrvItem × TrvPkt) :=
  s.trv.chans.findSome? (fun e => e.2.findSome? (fun it =>
    (it.pkts.find? (fun k => decide (k.id = id))).map (fun k => (e.1, it, k))))

/-- The data of a LOAD land: in RESULT, or at LADDR. `false` when the write has to wait for a place. -/
def landLoad (s : State) (c : Nat) (it : TrvItem) (d : List Byte) (flags : Nat) : Bool × State :=
  if it.req.len ≤ 8 then (true, decideTrv s c it 0x00 flags (leNat (d.take it.req.len)))
  else match writeAll (ownerOf s (.trc c)) (pieces it.laddr it.req.len) (d.take it.req.len) s with
    | (.ok _, s1) => (true, decideTrv s1 c it 0x00 flags 0)
    | (.wait, s1) => (false, s1)
    | (.fail st ue, s1) => (true, decideTrv (ueHit s1 ue) c it st flags 0)

/-- The operations attached to a LOAD, with their channels. -/
def attachedTo (s : State) (id : Nat) : List (Nat × TrvItem) :=
  s.trv.chans.flatMap (fun e => (e.2.filter (fun x => decide (x.attached = some id) && x.done.isNone)).map (fun x => (e.1, x)))

/-- One reply answers a LOAD and every LOAD attached to it, with COMBINED set (R478): the attached ones land first, and the
first that must wait holds back the rest. -/
def landLoads (s : State) (c : Nat) (it : TrvItem) (d : List Byte) (shared : Bool) : Bool × State :=
  let r := (attachedTo s it.id ++ [(c, it)]).foldl (fun (r : Bool × State) e =>
    if r.1 then landLoad r.2 e.1 e.2 d (ofBool shared) else r) (true, s)
  (r.1, if r.1 then postTrvAll r.2 else r.2)

/-- The operation with one request answered. -/
def answered (it : TrvItem) (k : TrvPkt) : TrvItem :=
  { it with pkts := it.pkts.filter (fun x => decide (x.id ≠ k.id)), got := it.got + k.len }

/-- An operation of several requests completes when all have been answered; a GET then increments its counter (R473). -/
def answeredPart (s : State) (c : Nat) (it : TrvItem) : State :=
  if it.got < it.req.len then setTrvItem s c it
  else
    let s1 := if it.req.op = 7 then
        bumpCounter s (rd s (.trc c) F.trc_JOB) it.req.ctr (if it.req.ctrBytes then it.req.len else 1) else s
    postTrvAll (decideTrv s1 c it 0x00 0 0)

/-- A reply with data or an acknowledgement (R473, R475): `false` when its data have to wait for a place. -/
def goodReply (s : State) (c : Nat) (it : TrvItem) (k : TrvPkt) (r : TrvReply) (shared : Bool) : Bool × State :=
  match it.req.op with
  | 1 => landLoads s c it r.data shared
  | 4 => (true, postTrvAll (decideTrv s c it r.status 0 (leNat (r.data.take it.req.len))))
  | 6 => (true, answeredPart s c (answered it k))
  | 7 =>
    (match writeAll (ownerOf s (.trc c)) (pieces (it.laddr + k.off) k.len) (r.data.take k.len) s with
      | (.ok _, s1) => (true, answeredPart s1 c (answered it k))
      | (.wait, s1) => (false, s1)
      | (.fail st ue, s1) => (true, postTrvAll (endTrv (ueHit s1 ue) c it st false)))
  | _ => (true, postTrvAll (decideTrv s c it 0x00 0 0))

/-- The data of a reply land, or wait until they can (R188, R473). -/
def landReply (s : State) (l : Landing) : State :=
  let s1 := { s with trv := { s.trv with landing := s.trv.landing.filter (fun x => decide (x.id ≠ l.id)) } }
  match findPkt s1 l.id with
  | none => s1
  | some (c, it, k) =>
    let sh := l.shared || hasAttached s1 it.id
    let r := goodReply s1 c it k l.reply sh
    if r.1 then r.2 else { r.2 with trv := { r.2.trv with landing := r.2.trv.landing ++ [{ l with shared := sh }] } }

/-- Has the request been answered, by a reply whose data wait. -/
def isLanding (s : State) (id : Nat) : Bool := s.trv.landing.any (fun l => decide (l.id = id))

/-- Is a status one that a target's reply to an operation carries: a code of R17, where REPLAYED and UNKNOWN_OUTCOME belong to
ATOMICs, or TAG_CONFLICT to an ATOMIC, or OUT_OF_WINDOW (R17, R18, R464, R481). -/
def replyCode (op status : Nat) : Bool :=
  if status = 0x05 || status = 0x06 || status = 0xB1 then op == 4 else decide (status ≤ 0x0C) || status == 0xB3

/-- REPLY_ARRIVAL. -/
def effReplyArrival (id : Nat) (key : List Byte) (r : TrvReply) (s : State) : State :=
  match findPkt s id with
  | none => s
  | some (c, it, k) =>
    if chanKey s c ≠ some key then authDrop s it.req.peer
    else if it.req.op = 8 || isLanding s id || !(r.busy || replyCode it.req.op r.status) then s
    else if r.busy then
      if ef s (.trc c) F.trc_BUSY_LIMIT_US ≤ ageOf s it.req.firstT then
        postTrvAll (endTrv s c it 0xB6 false)
      else setTrvItem s c { it with pkts := it.pkts.map (fun x => if x.id = k.id then { x with busy := true, sentAt := s.mer.frc } else x) }
    else if r.status = 0x00 || (r.status = 0x05 && it.req.op = 4) then landReply s { id := id, reply := r, shared := false }
    else postTrvAll (endTrv s c it r.status true)
/-- A reply completes its request, and completions are posted in acceptance order (R475). One sealed under another key is
discarded: to this Zahild it is lost (R465), and so is one whose status no target returns (R18). -/
def execReplyArrival (id : Nat) (key : List Byte) (r : TrvReply) (s : State) : Host.Outcome State Fault Refusal :=
  actMem (Instr.replyArrival id key r) s (effReplyArrival id key r s)

/-- Send a request again (R476). A PUT is sent again only after BUSY, with the bytes read anew. -/
def resend (s : State) (c : Nat) (it : TrvItem) (k : TrvPkt) : State :=
  let n := if k.busy then k.tries else k.tries + 1
  let k2 : TrvPkt := { k with sentAt := s.mer.frc, tries := n, busy := false }
  let go (s : State) (d : List Byte) : State :=
    let s1 := setTrvItem s c { it with pkts := it.pkts.map (fun x => if x.id = k.id then k2 else x) }
    let s2 := addSat s1 (.trc c) F.trc_RESENDS 1
    if tvUp s2 it.port then emitPacket s2 c it.port it k.id k.off k.len d else s2
  if it.req.op = 6 then
    match readAll (ownerOf s (.trc c)) (pieces (it.laddr + k.off) k.len) s with
    | (.ok d, s1) => go s1 d
    | (.wait, _) => s
    | (.fail st ue, s1) => postTrvAll (endTrv (ueHit s1 ue) c it st false)
  else go s it.req.payload

/-- RETRY_TIMEOUT. -/
def effRetryTimeout (id : Nat) (s : State) : State :=
  match findPkt s id with
  | none => s
  | some (c, it, k) =>
    if it.req.op = 8 || isLanding s id || s.mer.frc < k.sentAt + 1000 * ef s (.trc c) F.trc_RETRY_US then s
    else if k.busy then
      if ef s (.trc c) F.trc_BUSY_LIMIT_US ≤ ageOf s it.req.firstT then postTrvAll (endTrv s c it 0xB6 false)
      else resend s c it k
    else if (it.req.op = 1 || it.req.op = 4 || it.req.op = 7) && decide (k.tries < ef s (.trc c) F.trc_RETRIES) then
      resend s c it k
    else postTrvAll (endTrv s c it 0xB0 false)
/-- A request with no reply within RETRY_US is resent, or completes with NO_REPLY or TARGET_BUSY (R476). -/
def execRetryTimeout (id : Nat) (s : State) : Host.Outcome State Fault Refusal :=
  actMem (Instr.retryTimeout id) s (effRetryTimeout id s)

/-! ### Inbound requests (R464, R465, R468, R473, R479 to R484) -/

/-- An inbound request is answered BUSY. -/
def replyBusy (s : State) (port src : Nat) (r : TrvReq) : State :=
  emit s (.trvReply port src (jobKey s r.job) r.stream r.seq 0 true [])

/-- The bytes of the exposure that a request acts on. -/
def reqBytes (r : TrvReq) : Nat := if r.op = 6 then r.payload.length else r.len

/-- Does a request write. -/
def reqWrites (r : TrvReq) : Bool := !(r.op == 1 || r.op == 7)

/-- Is a request one that R468 has: its LEN, alignment and operation. -/
def reqShapeOk (r : TrvReq) : Bool :=
  match r.op with
  | 1 => loadLen r.len && decide (r.raddr % r.len = 0)
  | 2 => loadLen r.len && decide (r.raddr % r.len = 0) && decide (r.payload.length = r.len)
  | 3 => decide (r.len = 8) && decide (r.raddr % 8 = 0) && decide (r.payload.length = 8)
  | 4 => (decide (r.len = 4) || decide (r.len = 8)) && decide (r.raddr % r.len = 0) && decide (r.aop ≤ 10) && (decide (r.aop ≠ 10) || decide (r.len = 4))
  | 5 => (decide (r.len = 4) || decide (r.len = 8)) && decide (r.raddr % r.len = 0) && mergeAop r.aop
  | 6 => decide (1 ≤ r.payload.length) && decide (r.payload.length ≤ 256)
  | 7 => decide (1 ≤ r.len) && decide (r.len ≤ 256)
  | _ => false

/-- The partition address of a request, when the exposure of slot `j` holds all its bytes and allows it (R464). -/
def exposed (s : State) (j : Nat) (r : TrvReq) : Option Nat :=
  if r.raddr + reqBytes r ≤ 65536 * ef s (.trj j) F.trj_EXPOSE_TILES && !(reqWrites r && ef s (.trj j) F.trj_EXPOSE_RO == 1) then
    some (ef s (.trj j) F.trj_EXPOSE_BASE + r.raddr)
  else none

/-- AOP on two values of `n` bytes (R468). -/
def applyAop (aop n old x cmp : Nat) : Nat :=
  let m := 2 ^ (8 * n)
  let so := signed (8 * n) old
  let sx := signed (8 * n) x
  let y := x % m
  match aop with
  | 0 => (old + y) % m
  | 1 => Nat.land old y
  | 2 => Nat.lor old y
  | 3 => Nat.xor old y
  | 4 => if so ≤ sx then old else y
  | 5 => if so ≤ sx then y else old
  | 6 => if old ≤ y then old else y
  | 7 => if old ≤ y then y else old
  | 8 => y
  | 9 => if old = cmp % m then y else old
  | _ => addB old y

/-- Is a packet of a job sealed under the key of the slot that has bound it (R465). A job that no slot has bound has no key,
and its request is refused whatever sealed it (R464). -/
def authentic (s : State) (job : Nat) (key : List Byte) : Bool :=
  match slotOfJob s job with
  | some j => decide (slotKey s j = some key)
  | none => true

/-- The replay entry of an inbound ATOMIC, if the table holds one (R481). -/
def replayOf (s : State) (src : Nat) (r : TrvReq) : Option Replay :=
  if r.op = 4 then
    s.trv.replay.find? (fun e => decide (e.src = src) && decide (e.job = r.job) && decide (e.tag = r.tag))
  else none

/-- The checks that every inbound request passes before it is applied (R464, R486, R487, R504): the slot and the partition
address, or the state in which it has been answered. A copy of an ATOMIC that the replay table answers acts on no address, and
goes on although the exposure has changed (R481, R482). -/
def inboundGate (s : State) (port src : Nat) (r : TrvReq) : (Nat × Nat) ⊕ State :=
  let refused (s : State) : State := match slotOfJob s r.job with
    | some j => addSat s (.trj j) F.trj_INBOUND_REFUSED 1
    | none => s
  match slotOfJob s r.job with
  | none => .inr (if leaseState s = 1 then reply s port src r 0xB3 [] else reply s port src r 0x04 [])
  | some j =>
    if leaseState s ≠ 1 then .inr (reply (refused s) port src r 0x04 [])
    else if quiesced s (.trj j) then .inr (replyBusy s port src r)
    else match exposed s j r with
      | none => if (replayOf s src r).isSome then .inl (j, 0) else .inr (reply (refused s) port src r 0xB3 [])
      | some a => .inl (j, a)

/-- A request has been applied: INBOUND_OPS counts it. -/
def applied (s : State) (j : Nat) : State := addSat s (.trj j) F.trj_INBOUND_OPS 1

/-- The stream of an inbound request, by its job and source: what a FLAG of it waits for (R471). -/
def putStream (src : Nat) (r : TrvReq) : Nat := (r.job * 2 ^ 14 + src) * 2 ^ 14 + r.stream

/-- The key of an inbound PUT among those of which bytes have been seen: its stream and its number there. -/
def putKey (src : Nat) (r : TrvReq) : Nat := putStream src r * 2 ^ 64 + r.operand

/-- Bytes of an inbound PUT become visible; when all of it is, its counter is incremented (R473). -/
def countPut (s : State) (j src : Nat) (r : TrvReq) : State :=
  let key := putKey src r
  let n := mapGet 0 s.trv.putSeen key + r.payload.length
  if r.len ≤ n then
    bumpCounter { s with trv := { s.trv with putSeen := mapErase s.trv.putSeen key } } j r.ctr (if r.ctrBytes then r.len else 1)
  else { s with trv := { s.trv with putSeen := mapSet 0 s.trv.putSeen key n } }

/-- Read, compute and write one value of an inbound MERGE or ATOMIC: the old value, a wait, or a status. -/
def applyValue (s : State) (p a : Nat) (r : TrvReq) : (TRes × Nat) × State :=
  match readAll p [(a, r.len)] s with
  | (.ok d, s1) =>
    let old := leNat d
    let w := writeAll p [(a, r.len)] (natLE r.len (applyAop r.aop r.len old r.operand r.compare)) s1
    ((w.1, old), w.2)
  | (x, s1) => ((x, 0), s1)

/-- The check value over OP, AOP, LEN, RADDR and the payload (R481). -/
def atomicCheck (r : TrvReq) : Nat :=
  r.op + 2 ^ 8 * (r.aop + 2 ^ 8 * (r.len % 2 ^ 32 + 2 ^ 32 * (r.raddr % 2 ^ 48 + 2 ^ 48 * (r.operand % 2 ^ 64 + 2 ^ 64 * (r.compare % 2 ^ 64)))))

/-- Is an ATOMIC too old, or first submitted before the table began (R481). -/
def tooOld (s : State) (firstT : Nat) : Bool :=
  let age := ageOf s firstT
  let tol := ef s .trg F.trg_TIME_TOL_US
  let since := (microNow s + 2 ^ 64 - rd s .trg F.trg_REPLAY_SINCE) % 2 ^ 64
  decide (ef s .trg F.trg_REPLAY_HOLD_MS * 1000 - tol ≤ age) || (decide (since < 2 ^ 31) && decide (since < age + tol))

/-- A PUT that the source or the target has given up: its bytes are no longer waited for. -/
def dropPut (s : State) (src : Nat) (r : TrvReq) : State :=
  { s with trv := { s.trv with putSeen := mapErase s.trv.putSeen (putKey src r) } }

/-- Apply a request other than an ATOMIC to partition address `a` of slot `j`, and count it: the data of its reply, a wait, or
a status (R468, R473). -/
def applyReq (s : State) (j a src : Nat) (r : TrvReq) : TRes × State :=
  let p := ownerOf s (.trj j)
  let l := pieces a (reqBytes r)
  let x := if r.op = 1 || r.op = 7 then readAll p l s
    else if r.op = 5 then ((applyValue s p a r).1.1, (applyValue s p a r).2)
    else writeAll p l r.payload s
  match x with
  | (.ok d, s1) =>
    let s2 := applied s1 j
    (.ok (if r.op = 1 || r.op = 7 then d else []), if r.op = 6 then countPut s2 j src r else s2)
  | (.fail st ue, s1) => (.fail st ue, if r.op = 6 then dropPut s1 src r else s1)
  | (.wait, s1) => (.wait, s1)

/-- Serve an ATOMIC at partition address `a` of slot `j`: answered from the replay table, refused by age, answered BUSY, or
applied and recorded (R481). `false` when it has to wait for a place. -/
def serveAtomic (s : State) (j a : Nat) (x : InReq) : Bool × State :=
  let r := x.req
  match replayOf s x.src r with
  | some e =>
    (true, if e.check = atomicCheck r then reply (addSat s .trg F.trg_REPLAYED_N 1) x.port x.src r 0x05 (natLE r.len e.result)
      else reply s x.port x.src r 0xB1 [])
  | none =>
    if tooOld s r.firstT then (true, reply (addSat s .trg F.trg_UNKNOWN_N 1) x.port x.src r 0x06 [])
    else if 262144 ≤ s.trv.replay.length then (true, replyBusy s x.port x.src r)
    else match applyValue s (ownerOf s (.trj j)) a r with
      | ((.ok _, old), s1) =>
        let e : Replay := { src := x.src, job := r.job, tag := r.tag, result := old, check := atomicCheck r, at_ := microNow s }
        (true, reply (applied { s1 with trv := { s1.trv with replay := s1.trv.replay ++ [e] } } j) x.port x.src r 0x00
          (natLE r.len old))
      | ((.wait, _), s1) => (false, s1)
      | ((.fail st ue, _), s1) => (true, reply (ueHit s1 ue) x.port x.src r st [])

/-! ### The home agent's order (R471, R472, R478, R479) -/

/-- Do two requests belong to one stream. -/
def sameStream (x y : InReq) : Bool := decide (x.src = y.src) && decide (x.req.stream = y.req.stream)

/-- Is a request a packet of a PUT or GET, which has no order in its stream (R472). -/
def isCopy (r : TrvReq) : Bool := r.op == 6 || r.op == 7

/-- Must `x` stay behind the earlier request `y` of its stream: a FLAG behind every byte of a PUT, and the requests that are no
copies in issue order (R471). -/
def streamBehind (x y : InReq) : Bool :=
  sameStream x y && ((!isCopy x.req && !isCopy y.req) || (x.req.op == 3 && y.req.op == 6))

/-- The partition on whose tiered region a request acts, and its first and last line there (R464, R479). -/
def reqLines (s : State) (r : TrvReq) : Option (Nat × Nat × Nat) :=
  (slotOfJob s r.job).map (fun j =>
    let a := ef s (.trj j) F.trj_EXPOSE_BASE + r.raddr
    (ownerOf s (.trj j), a / 64, (a + reqBytes r - 1) / 64))

/-- Do two requests touch one aligned 64-byte line, of one exposure or of two that overlap (R479). -/
def sameLine (s : State) (x y : InReq) : Bool :=
  match reqLines s x.req, reqLines s y.req with
  | some (p, a, b), some (q, c, d) => decide (p = q) && decide (a ≤ d) && decide (c ≤ b)
  | _, _ => false

/-- Does a FLAG wait for bytes of a PUT of its stream that have not arrived (R471). -/
def awaitsPut (s : State) (x : InReq) : Bool :=
  x.req.op == 3 && s.trv.putSeen.any (fun e => decide (e.1 / 2 ^ 64 = putStream x.src x.req))

/-- Are two requests identical, so that one read or application may serve both (R478). -/
def identical (x y : TrvReq) : Bool :=
  x.combine && y.combine && x.op == y.op && decide (x.job = y.job) && decide (x.raddr = y.raddr) && decide (x.len = y.len)
    && (x.op == 1 || (x.op == 5 && decide (x.aop = y.aop) && decide (x.operand = y.operand)))

/-- The queued requests that go with `x`: identical, and no earlier request of their own stream is queued. -/
def combinedWith (s : State) (x : InReq) : List InReq :=
  s.trv.inbound.filter (fun y => decide (y ≠ x) && identical x.req y.req
    && !(s.trv.inbound.takeWhile (fun z => decide (z ≠ y))).any (fun z => decide (z ≠ x) && streamBehind y z))

/-- Answer `x`, and from its one application every queued request that is combined with it (R478). -/
def answerAll (s : State) (j : Nat) (x : InReq) (status : Nat) (data : List Byte) : State :=
  let l := combinedWith s x
  let s1 := l.foldl (fun s y => reply (if status = 0x00 then applied s j else s) y.port y.src y.req status data)
    (reply s x.port x.src x.req status data)
  { s1 with trv := { s1.trv with inbound := s1.trv.inbound.filter (fun y => !l.contains y) } }

/-- Serve a request that has reached the head of its line: `false` when it has to wait for a place (R188). -/
def serveReq (s : State) (x : InReq) : Bool × State :=
  match inboundGate s x.port x.src x.req with
  | .inr s1 => (true, s1)
  | .inl (j, a) =>
    if x.req.op = 4 then serveAtomic s j a x
    else match applyReq s j a x.src x.req with
      | (.ok d, s1) => (true, answerAll s1 j x 0x00 d)
      | (.wait, s1) => (false, s1)
      | (.fail st ue, s1) => (true, answerAll (ueHit s1 ue) j x st [])

/-- Must a request stay queued behind the earlier ones. -/
def staysBehind (s : State) (earlier : List InReq) (x : InReq) : Bool :=
  earlier.any (fun y => streamBehind x y || sameLine s x y) || awaitsPut s x

/-- Serve, in order, the queued requests that may be applied. -/
def serveOnce (s : State) : State :=
  s.trv.inbound.foldl (fun s x =>
    if !s.trv.inbound.contains x || staysBehind s (s.trv.inbound.takeWhile (fun y => decide (y ≠ x))) x then s
    else
      let r := serveReq s x
      if r.1 then { r.2 with trv := { r.2.trv with inbound := removeFirst (fun y => decide (y = x)) r.2.trv.inbound } }
      else r.2) s

/-- Serve the queued requests for as long as any can be. -/
def serveInbound : Nat → State → State
  | 0, s => s
  | fuel + 1, s =>
    let s1 := serveOnce s
    if s1.trv.inbound.length < s.trv.inbound.length then serveInbound fuel s1 else s1

/-- What waits for a place in the tiers or a window is tried again: requests of the home agent, and the data of replies. -/
def serveTraverse (s : State) : State :=
  let s1 := serveInbound s.trv.inbound.length s
  s1.trv.landing.foldl landReply s1

/-- A request that a request slot of the home agent takes: it is served, or queued (R479). While all 16,384 slots are taken the
ports return no credit, and HA_STALL_CYC counts: by a free value, since the spec fixes no length. A port whose 2,048 credits are
all out takes none either: the switches hold the request, which may come again (R480). -/
def enterHome (s : State) (x : InReq) : State :=
  if 16384 ≤ s.trv.inbound.length then nextFresh (addSat s .trg F.trg_HA_STALL_CYC (Config.freeValue s.fresh % 2 ^ 64))
  else if 2048 ≤ (s.trv.inbound.filter (fun y => decide (y.port = x.port))).length then s
  else
    let queued (s : State) : State := { s with trv := { s.trv with inbound := s.trv.inbound ++ [x] } }
    if staysBehind s s.trv.inbound x then queued s
    else
      let r := serveReq s x
      if r.1 then serveInbound r.2.trv.inbound.length r.2 else queued r.2

/-- A request arrives on a port: discarded while the port is down or from a fenced peer (R488), where it fails authentication
(R465), and malformed; refused or answered BUSY at once where the gate says so; otherwise the home agent takes it. -/
def arrive (s : State) (port src : Nat) (key : List Byte) (r : TrvReq) : State :=
  if !tvUp s port || (peerOf s src).st = 2 then s
  else if !authentic s r.job key then authDrop s src
  else if !reqShapeOk r then s
  else match inboundGate s port src r with
    | .inr s1 => s1
    | .inl _ => enterHome s { port := port, src := src, req := r }

/-- INBOUND_REQUEST. -/
def effInboundRequest (port src : Nat) (key : List Byte) (r : TrvReq) (s : State) : State :=
  if r.op = 4 then s else arrive s port src key r
/-- An inbound request is applied to its line in the order of arrival, or refused (R464, R479). -/
def execInboundRequest (port src : Nat) (key : List Byte) (r : TrvReq) (s : State) : Host.Outcome State Fault Refusal :=
  actMem (Instr.inboundRequest port src key r) s (effInboundRequest port src key r s)

/-- INBOUND_ATOMIC. -/
def effInboundAtomic (port src : Nat) (key : List Byte) (r : TrvReq) (s : State) : State :=
  if r.op ≠ 4 then s else arrive s port src key r
/-- An inbound ATOMIC is answered from the replay table, refused by age, answered BUSY, or applied and recorded (R481). -/
def execInboundAtomic (port src : Nat) (key : List Byte) (r : TrvReq) (s : State) : Host.Outcome State Fault Refusal :=
  actMem (Instr.inboundAtomic port src key r) s (effInboundAtomic port src key r s)

/-- REPLAY_ENTRY_EXPIRY. -/
def effReplayEntryExpiry (src job tag : Nat) (s : State) : State :=
  { s with trv := { s.trv with replay := s.trv.replay.filter (fun e =>
    !(decide (e.src = src) && decide (e.job = job) && decide (e.tag = tag)
      && decide (1000 * ef s .trg F.trg_REPLAY_HOLD_MS ≤ ageOf s e.at_))) } }
/-- REPLAY_HOLD_MS of Meridian time after its application, a replay entry is freed (R481): any copy is then too old to be applied
(R482). -/
def execReplayEntryExpiry (src job tag : Nat) (s : State) : Host.Outcome State Fault Refusal :=
  act (Instr.replayEntryExpiry src job tag) s (effReplayEntryExpiry src job tag s)

/-- COUNTER_WRITE. -/
def effCounterWrite (f : Func) (j i value : Nat) (s : State) : State :=
  withWrite s f (.trj j) (F.trj_COUNTER.ix i) value (fun s => wr s (.trj j) (F.trj_COUNTER.ix i) value)
/-- A write to an arrival counter sets it (R474). -/
def execCounterWrite (f : Func) (j i value : Nat) (s : State) : Host.Outcome State Fault Refusal :=
  act (Instr.counterWrite f j i value) s (effCounterWrite f j i value s)

/-- WATCH_RETRY. -/
def effWatchRetry (j i : Nat) (s : State) : State := if s.trv.watchWait.contains (j, i) then postWatch s j i else s
/-- An armed watch whose parcel was not admitted retries its reservation (R474). -/
def execWatchRetry (j i : Nat) (s : State) : Host.Outcome State Fault Refusal :=
  act (Instr.watchRetry j i) s (effWatchRetry j i s)

/-! ### The fabric manager's messages (R463, R485 to R489, R494) -/

/-- The bytes of a control message that its signature or HMAC covers: the kind, the epoch, the fields and the body. The
spec gives no layout of these messages; this one only binds every field to the check. -/
def ctlBytes (kind : Nat) (m : CtlMsg) (fields : List Byte) : List Byte := natLE 1 kind ++ natLE 4 m.epoch ++ fields ++ m.body

/-- A message fails verification: it is discarded and sets AUTH_FAIL (R485). -/
def authFail (s : State) : State := setErr s .trg 16

/-- Does the traverse answer: the part serves pages. -/
def trvOn (s : State) : Bool := pageServed s .trg

/-- Run `k` for a message whose HMAC under the lease key and whose epoch are right (R485). -/
def withLease (s : State) (kind : Nat) (m : CtlMsg) (fields : List Byte) (k : State → State) : State :=
  if !trvOn s then s
  else match s.trv.leaseKey with
  | none => authFail s
  | some key =>
    if m.auth = Config.hmacSm3 (key.take 16) (ctlBytes kind m fields) && m.epoch = rd s .trg F.trg_LEASE_EPOCH then k s
    else authFail s

/-- GRANT. -/
def effGrant (m : CtlMsg) (peer period expiry : Nat) (s : State) : State :=
  if !trvOn s then s
  else
    let msg := ctlBytes 1 m (natLE 2 peer ++ natLE 1 period ++ natLE 8 expiry)
    match mapFind s.mon.anchors 0 with
    | none => authFail s
    | some key =>
      if !Config.sm2Verify key msg m.auth then authFail s
      else match Config.sm2Open (akInput s) m.body with
        | none => authFail s
        | some lk =>
          if leaseState s ≠ 0 || !(decide (1 ≤ period) && decide (period ≤ 100)) then s
          else
            let s1 := wr (wr (wr s .trg F.trg_LOCAL_PEER peer) .trg F.trg_LEASE_EPOCH m.epoch) .trg F.trg_LEASE_PERIOD_MS period
            let s2 := wr (wr s1 .trg F.trg_LEASE_EXPIRY expiry) .trg F.trg_LEASE_STATE 1
            setEvt { s2 with trv := { s2.trv with leaseKey := some lk } } .trg 16
/-- A verified GRANT makes the lease LIVE (R485, R585). -/
def execGrant (m : CtlMsg) (peer period expiry : Nat) (s : State) : Host.Outcome State Fault Refusal :=
  act (Instr.grant m peer period expiry) s (effGrant m peer period expiry s)

/-- Does the fence fall now: the expiry less the guard has been reached, or time is no longer valid (R486). -/
def fenceDue (s : State) : Bool :=
  leaseState s == 1 && (!s.mer.timeValid
    || decide ((rd s .trg F.trg_LEASE_EXPIRY : Int) - (1000 * ef s .trg F.trg_LEASE_GUARD_US : Nat) ≤ (linNow s : Int)))

/-- RENEW. -/
def effRenew (m : CtlMsg) (expiry : Nat) (s : State) : State :=
  withLease s 2 m (natLE 8 expiry) (fun s =>
    if leaseState s = 2 || fenceDue s then addSat s .trg F.trg_LATE_RENEWS 1
    else if leaseState s = 1 then
      let e := min expiry (linNow s + 1000000 * rd s .trg F.trg_LEASE_PERIOD_MS)
      if rd s .trg F.trg_LEASE_EXPIRY ≤ e then wr s .trg F.trg_LEASE_EXPIRY e else s
    else s)
/-- A verified RENEW moves LEASE_EXPIRY forward, bounded by the lease period (R485, R486). -/
def execRenew (m : CtlMsg) (expiry : Nat) (s : State) : Host.Outcome State Fault Refusal :=
  act (Instr.renew m expiry) s (effRenew m expiry s)

/-- JOB_BIND. -/
def effJobBind (m : CtlMsg) (slot job : Nat) (wrapped : List Byte) (s : State) : State :=
  withLease s 3 m (natLE 1 slot ++ natLE 2 job ++ wrapped) (fun s =>
    if jobBound s slot || 64 ≤ ownerOf s (.trj slot) then s
    else match Config.kwUnwrap ((s.trv.leaseKey.getD []).drop 16) wrapped with
      | none => authFail s
      | some key =>
        let s1 := wr (wr s (.trj slot) F.trj_JOB_ID job) (.trj slot) F.trj_STATE 1
        { s1 with trv := { s1.trv with trafficKeys := mapPut s1.trv.trafficKeys slot key } })
/-- A verified JOB_BIND binds a job and its traffic key to an UNBOUND slot of a partition (R463, R586). -/
def execJobBind (m : CtlMsg) (slot job : Nat) (wrapped : List Byte) (s : State) : Host.Outcome State Fault Refusal :=
  act (Instr.jobBind m slot job wrapped) s (effJobBind m slot job wrapped s)

/-- PEER_UP. -/
def effPeerUp (m : CtlMsg) (peer ports : Nat) (s : State) : State :=
  withLease s 4 m (natLE 2 peer ++ natLE 1 ports) (fun s => setPeer s peer 1 ports)
/-- A verified PEER_UP shows the peer UP with its port set (R494). -/
def execPeerUp (m : CtlMsg) (peer ports : Nat) (s : State) : Host.Outcome State Fault Refusal :=
  act (Instr.peerUp m peer ports) s (effPeerUp m peer ports s)

/-- PEER_DOWN. -/
def effPeerDown (m : CtlMsg) (peer : Nat) (s : State) : State :=
  withLease s 5 m (natLE 2 peer) (fun s =>
    let s1 := endWhere (setPeer s peer 2 (peerOf s peer).ports) (fun _ it => decide (it.req.peer = peer)) (fun _ => 0x04)
    { s1 with trv := { s1.trv with inbound := s1.trv.inbound.filter (fun x => decide (x.src ≠ peer)) } })
/-- A verified PEER_DOWN shows the peer FENCED, ends every operation to it and discards its requests (R488). -/
def execPeerDown (m : CtlMsg) (peer : Nat) (s : State) : Host.Outcome State Fault Refusal :=
  act (Instr.peerDown m peer) s (effPeerDown m peer s)

/-- TEAR_DOWN. -/
def effTearDown (m : CtlMsg) (slot : Option Nat) (abortQ : Bool) (s : State) : State :=
  withLease s 6 m (natLE 1 (slot.getD 255) ++ natLE 1 (ofBool abortQ)) (fun s => match slot with
    | some j => tearDownSlot s j abortQ
    | none => tearDownAll s abortQ)
/-- A verified TEAR_DOWN closes a job's exposure, ends its operations, destroys its key and frees its slot (R489). -/
def execTearDown (m : CtlMsg) (slot : Option Nat) (abortQ : Bool) (s : State) : Host.Outcome State Fault Refusal :=
  act (Instr.tearDown m slot abortQ) s (effTearDown m slot abortQ s)

/-- LEASE_FENCE. -/
def effLeaseFence (s : State) : State := if fenceDue s then fenceNow s else s
/-- The Zahild fences when its lease has run out or its time is no longer valid (R486, R487). -/
def execLeaseFence (s : State) : Host.Outcome State Fault Refusal := act Instr.leaseFence s (effLeaseFence s)

/-- PEER_EVENT_RETRY. -/
def effPeerEventRetry (s : State) : State := drainPeerEvents s.trv.events.length s
/-- The traverse retries the reservation of its oldest undelivered peer event (R494). -/
def execPeerEventRetry (s : State) : Host.Outcome State Fault Refusal := act Instr.peerEventRetry s (effPeerEventRetry s)

/-! ### Witness reports (R490, R491) -/

/-- WITNESS_PACKET. -/
def effWitnessPacket (subject cls : Nat) (injected : Bool) (s : State) : State :=
  if trvOn s then report s subject cls injected else s
/-- A WITNESS packet received from a partner counts as one report (R490). -/
def execWitnessPacket (subject cls : Nat) (injected : Bool) (s : State) : Host.Outcome State Fault Refusal :=
  act (Instr.witnessPacket subject cls injected) s (effWitnessPacket subject cls injected s)

/-- WITNESS_CLOSE. -/
def effWitnessClose (subject cls : Nat) (injected : Bool) (s : State) : State :=
  match findWitness s subject cls injected with
  | none => s
  | some w => if witnessDue s w then closeWitness s w else s
/-- WIT_WINDOW_US after it opened, a witness entry closes (R491). -/
def execWitnessClose (subject cls : Nat) (injected : Bool) (s : State) : Host.Outcome State Fault Refusal :=
  act (Instr.witnessClose subject cls injected) s (effWitnessClose subject cls injected s)

/-! ### Barriers (R496 to R502) -/

/-- BARRIER_ARRIVE. -/
def effBarrierArrive (k epoch : Nat) (m : Arrive) (s : State) : State :=
  if (peerOf s m.src).st = 2 then s
  else if slotKey s (ef s .trg (F.trg_BAR_JOB.ix k)) ≠ some m.key then authDrop s m.src
  else if leaseState s ≠ 1 then s
  else countArrival s k epoch m.src
/-- At the root, an ARRIVE sealed under the key of the barrier's job is counted (R465, R496). -/
def execBarrierArrive (k epoch : Nat) (m : Arrive) (s : State) : Host.Outcome State Fault Refusal :=
  act (Instr.barrierArrive k epoch m) s (effBarrierArrive k epoch m s)

/-- BARRIER_RELEASE_RECEIVE. -/
def effBarrierReleaseReceive (k epoch : Nat) (m : Release) (s : State) : State :=
  if slotKey s (ef s .trg (F.trg_BAR_JOB.ix k)) ≠ some m.key then authDrop s (ef s .trg (F.trg_BAR_ROOT.ix k))
  else if leaseState s ≠ 1 then s
  else receiveRelease s k epoch m.tRel
/-- On a RELEASE sealed under the key of the barrier's job, the traverse arms the barrier's trigger, or releases at once when
late (R465, R497, R501). -/
def execBarrierReleaseReceive (k epoch : Nat) (m : Release) (s : State) : Host.Outcome State Fault Refusal :=
  act (Instr.barrierReleaseReceive k epoch m) s (effBarrierReleaseReceive k epoch m s)

/-- BARRIER_RELEASE. -/
def effBarrierRelease (k : Nat) (s : State) : State :=
  match mapFind s.trv.barWait k with
  | none => s
  | some w => if w.fired then releaseBarrier s k else s
/-- After the barrier trigger has fired, the BARRIER completion is posted (R497). -/
def execBarrierRelease (k : Nat) (s : State) : Host.Outcome State Fault Refusal :=
  act (Instr.barrierRelease k) s (effBarrierRelease k s)

/-- BARRIER_TIMEOUT. -/
def effBarrierTimeout (k : Nat) (s : State) : State :=
  match mapFind s.trv.barWait k with
  | none => s
  | some w =>
    if w.since + 1000000 * ef s .trg (F.trg_BAR_TIMEOUT_MS.ix k) ≤ s.mer.frc then
      endWhere s (fun c it => decide (c = w.c) && decide (it.id = w.id)) (fun _ => 0xB5)
    else s
/-- A BARRIER not released within TIMEOUT_MS completes with BARRIER_TIMEOUT (R502). -/
def execBarrierTimeout (k : Nat) (s : State) : Host.Outcome State Fault Refusal :=
  act (Instr.barrierTimeout k) s (effBarrierTimeout k s)

/-- BARRIER_EPOCH_DISCARD. -/
def effBarrierEpochDiscard (k epoch : Nat) (s : State) : State :=
  match s.trv.epochs.find? (fun e => decide (e.k = k) && decide (e.epoch = epoch)) with
  | none => s
  | some e =>
    if e.first + 1000000 * ef s .trg (F.trg_BAR_TIMEOUT_MS.ix k) ≤ s.mer.frc then
      { s with trv := { s.trv with
        epochs := s.trv.epochs.filter (fun x => decide (x ≠ e)), dropped := s.trv.dropped ++ [(k, epoch)] } }
    else s
/-- TIMEOUT_MS after its first arrival, a root discards a barrier epoch (R502). -/
def execBarrierEpochDiscard (k epoch : Nat) (s : State) : Host.Outcome State Fault Refusal :=
  act (Instr.barrierEpochDiscard k epoch) s (effBarrierEpochDiscard k epoch s)

/-! ### Links (R445, R460, R461, R490) -/

/-- The uncorrectable FEC codewords that the lanes of a traverse port met while its link was up: LINK_UNCORR counts them
(R460, R559). No command brings them, and no operation sees them: their number is a free value, which is counted when the link
goes down (log entry 169). -/
def uncorrWords (s : State) : State :=
  nextFresh (addSat s .hlt (F.hlt_K_LIVE.ix 2) (Config.freeValue s.fresh % 2 ^ 64))

/-- The link of a traverse port goes down: PORT_CHANGE, health kinds 2 and 3, and a report of each peer that it led to; its
streams leave the port (R461). -/
def tvLinkDown (s : State) (n : Nat) : State :=
  let s1 := setEvt { s with trv := { s.trv with linkUp := mapSet false s.trv.linkUp n false } } .trg 21
  let s2 := uncorrWords (bumpHealth (leavePort s1 n) 3 false)
  (s2.trv.peers.filter (fun e => decide (e.2.st = 1) && bitAt e.2.ports n)).foldl (fun s e => report s e.1 5 false) s2

/-- LINK_DOWN. -/
def effLinkDown (l : LinkId) (s : State) : State :=
  match l with
  | .fh q => if (fhp s q).up then fhLinkDown s q false else s
  | .tv n => if mapGet false s.trv.linkUp n then tvLinkDown s n else s
/-- A fronthaul or traverse link goes down (R445, R461). -/
def execLinkDown (l : LinkId) (s : State) : Host.Outcome State Fault Refusal := act (Instr.linkDown l) s (effLinkDown l s)

/-- LINK_UP. -/
def effLinkUp (l : LinkId) (s : State) : State :=
  match l with
  | .fh q =>
    if fhAvailable s q && !(fhp s q).up && pageServed s (.fhp q) then setEvt (setFhp s q { fhp s q with up := true }) (.fhp q) 16
    else s
  | .tv n =>
    if 0 < tvWidth s n && !mapGet false s.trv.linkUp n && trvOn s then
      setEvt { s with trv := { s.trv with linkUp := mapSet false s.trv.linkUp n true } } .trg 21
    else s
/-- A link whose partner's signal returns trains and comes up (R460). -/
def execLinkUp (l : LinkId) (s : State) : Host.Outcome State Fault Refusal := act (Instr.linkUp l) s (effLinkUp l s)

end Sys2Proof.Machine
end

