-- ==== Sys2Proof/Machine/Stations.lean ====
section
/-! DEFINITION. The commands of the stations: jobs, the sequencer's instructions, the requantisation stage, saving,
zeroing, and the binding of names (R80 to R170). -/

namespace Sys2Proof.Machine

/-! ### Jobs -/

/-- Is a station kept from taking work: it runs or holds a job, the completion of its last one is held back (R259, R536), or,
while it is up, it is lent, quiesced, being zeroed or carried to. One that is down takes a job only to end it with STATION_LOST
(R41). -/
def stationBusy (s : State) (m : Nat) : Bool :=
  let st := stn s m
  st.job.isSome || st.saved.isSome || st.drain.isSome || cplHeld s m
    || (unitUp s m && (st.lent || st.zeroStore || st.zeroLend.isSome || st.carry
      || heldQuiesced s (.stn m) || rd s (.stn m) F.QUIESCED == 1))

/-- The stations of a binding. -/
def Binding.stations (b : Binding) : List Nat := if b.pair then [b.station, b.station + 1] else [b.station]

/-- Is a parcel there that agent `ag` could take from queue `q`. -/
def parcelWaits (s : State) (ag : Agent) (q : Nat) : Bool := (peekPid s ag q).isSome

/-- May a binding's stations take a job parcel now: none is busy, and the governor and the meter let one start (R342,
R609). -/
def mayTake (s : State) (p : Nat) (bd : Binding) : Bool :=
  let up := bd.stations.all (fun m => unitUp s m)
  !bd.stations.any (fun m => stationBusy s m)
    && !beHold s && (!up || (!(bd.pair && heldQuiesced s (.bpr (bd.station / 2)))
      && !(ef s (.ptn p) F.ptn_METERED == 1 && platRunning s && !s.plat.admitted.contains bd.station)))

/-- Does a lower-numbered station of the partition stand before station `n`: under BE_JOB_LIMIT idle stations take parcels
in ascending order (R343). -/
def lowerWaits (s : State) (p n : Nat) : Bool :=
  (ptn s p).names.any (fun e => decide (e.2.station < n) && mayTake s p e.2
    && parcelWaits s (.station e.2.station) (ef s (.ptn p) F.ptn_JOBQ_BASE + e.1))

/-- The job that a parcel of R535 describes, taken by a station from queue `q` under name index `idx`. -/
def jobOfParcel (p q pid stake idx mode shape : Nat) (b : List Byte) : Job :=
  { ptn := p, q := q, pid := some pid, stake := stake, nameIdx := idx, cplEn := bitAt (leAt b 3 1) 0,
    tag := leAt b 4 4, cplQ := bits (leAt b 48 2) 0 14,
    qh := (List.range 4).map (fun k => bits (leAt b (40 + 2 * k) 2) 0 14), mode := mode, shape := shape, lent := none }

/-- The initial G0 to G7 of a job parcel whose values start at byte `o` (R95, R535). -/
def parcelG (b : List Byte) (o : Nat) : NMap Nat := forUpTo 8 (fun k g => mapSet 0 g k (leAt b (o + 4 * k) 4)) []

/-- Does the parcel break R535. -/
def jobParcelBad (b : List Byte) (idx : Nat) : Bool :=
  decide (b.length ≠ 64) || !zeroBytes b 50 64 || decide (leAt b 2 1 ≠ idx)

/-- A station takes a job parcel (R95, R343, R535, R536). -/
def effStationJobStart (n : Nat) (s : State) : State :=
  match bindingOf s n with
  | none => s
  | some (idx, bd) =>
    let p := ownerOf s (.stn n)
    let ag := Agent.station n
    let ms := bd.stations
    let q := ef s (.ptn p) F.ptn_JOBQ_BASE + idx
    let lim := ef s (.ptn p) F.ptn_BE_JOB_LIMIT
    if ms.any (fun m => stationBusy s m) then s
    else if 16384 ≤ q || qOwner s q ≠ p then setErr s (.ptn p) 17
    else if !mayTake s p bd || (lim ≠ 0 && (decide (lim ≤ beInflight s p) || lowerWaits s p n)) then s
    else
      let s0 := (takeEnded s ag (readToken q)).2
      if parcelWaits s0 ag q then
        match acquireStake s0 ag p 1 with
        | (none, s1) => s1
        | (some k, s1) =>
          match hwRead s1 ag q with
          | (.parcel pid, s2) =>
            let b := payload s2 pid
            let shape := if bd.pair then 1 + rd s (.bpr (n / 2)) F.bpr_SHAPE else 0
            let j := jobOfParcel p q pid k idx (rd s (.stn n) F.stn_MODE) shape b
            let s3 := startRun (addSat s2 (.ptn p) F.ptn_BE_JOBS_STARTED 1) n j (bits (leAt b 0 2) 0 11) (parcelG b 8)
            if !ms.all (fun m => unitUp s m) then endJob s3 n 0x02
            else if jobParcelBad b idx then endJob s3 n 0x80 else s3
          | (_, s2) => freeStake s2 k
      else (hwRead s0 ag q).2

/-- A station job starts when the station takes a job parcel from its job queue (R95). -/
def execStationJobStart (n : Nat) (s : State) : Host.Outcome State Fault Refusal :=
  act (Instr.stationJobStart n) s (effStationJobStart n s)

/-- The completion of a job that has ended, once no RQO runs (R95, R536): its commit, the release of the job parcel and the
item's COMMITTING are one step (R526), be it now or, where the reservation is held back, when it is admitted; until then the
station takes no job (R259). -/
def effStationJobComplete (n : Nat) (s : State) : State :=
  let st := stn s n
  match st.job, st.ended with
  | some j, some c =>
    if st.rqoRun.isSome then s
    else resumeOwner (postEnd (setStn (dropGrants (withdrawRun s (.station n)) (.station n)) n (clearRun st)) n j c st.next) n j
  | _, _ => s

/-- A station job completes (R536). -/
def execStationJobComplete (n : Nat) (s : State) : Host.Outcome State Fault Refusal :=
  act (Instr.stationJobComplete n) s (effStationJobComplete n s)

/-! ### Scalar instructions (R97) -/

/-- NOP. -/
def effNop (n : Nat) (s : State) : State := issue s n 0x00 (fun _ _ st => setStn s n (advance st))
/-- NOP has no effect (R97). -/
def execNop (n : Nat) (s : State) : Host.Outcome State Fault Refusal := act (Instr.nop n) s (effNop n s)

/-- SETI. -/
def effSeti (n : Nat) (s : State) : State :=
  issue s n 0x01 (fun _ w st => setStn s n (advance (setG st (iA w) (bits w 0 32))))
/-- SETI: Ga ← IMM (R97). -/
def execSeti (n : Nat) (s : State) : Host.Outcome State Fault Refusal := act (Instr.seti n) s (effSeti n s)

/-- ADDI. -/
def effAddi (n : Nat) (s : State) : State :=
  issue s n 0x02 (fun _ w st => setStn s n (advance (setG st (iA w) (greg st (iB w) + bits w 0 32))))
/-- ADDI: Ga ← Gb + IMM modulo 2³² (R97). -/
def execAddi (n : Nat) (s : State) : Host.Outcome State Fault Refusal := act (Instr.addi n) s (effAddi n s)

/-- LOOP. -/
def effLoop (n : Nat) (s : State) : State :=
  issue s n 0x03 (fun _ w st =>
    let v := (greg st (iA w) + 2 ^ 32 - 1) % 2 ^ 32
    let st1 := setG st (iA w) v
    setStn s n (if v = 0 then advance st1 else { advance st1 with next := bits w 0 11 }))
/-- LOOP: Ga ← Ga − 1, and continue at TARGET if Ga ≠ 0 (R97). -/
def execLoop (n : Nat) (s : State) : Host.Outcome State Fault Refusal := act (Instr.loop n) s (effLoop n s)

/-- JMP. -/
def effJmp (n : Nat) (s : State) : State :=
  issue s n 0x04 (fun _ w st => setStn s n { advance st with next := bits w 0 11 })
/-- JMP: continue at TARGET (R97). -/
def execJmp (n : Nat) (s : State) : Host.Outcome State Fault Refusal := act (Instr.jmp n) s (effJmp n s)

/-! ### Array instructions (R84 to R88, R118 to R126, R133) -/

/-- Do the members' self-checks fall due before the next array instruction (R113). -/
def checkDue (s : State) (n : Nat) (j : Job) : Bool :=
  (members n j).any (fun m => decide (ef s (.stn m) F.stn_X_SELFCHECK ≤ (stn s m).array))

/-- The bytes of units `lo` to `hi` of a store, as an address and a length. -/
def unitBytes (e : Nat × Nat) : Nat × Nat := (128 * e.1, 128 * (e.2 + 1 - e.1))

/-- Reads of byte ranges of the tile stores of some stations: whether one met an uncorrectable error (R200, R569), and the
state after. -/
def storesRead (s : State) (ms : List (Nat × List (Nat × Nat))) : Bool × State :=
  ms.foldl (fun x m =>
    let r := unitRead x.2 (.stn m.1) m.2
    (r.1 || x.1, r.2)) (false, s)

/-- Go on with an instruction that has read units of the members' stores, or end its job with DATA_ERROR (R200). -/
def afterRead (s : State) (n : Nat) (ms : List Nat) (spans : List (Nat × Nat)) (k : State → State) : State :=
  let r := storesRead s (ms.map (fun m => (m, spans.map unitBytes)))
  if r.1 then endJob r.2 n 0x0B else k r.2

/-- Do the counters of station `m`'s page count a job's work: it is a job of the page's owner (R113, R130, R153). -/
def countsFor (s : State) (m : Nat) (j : Job) : Bool := j.lent.isNone && decide (ownerOf s (.stn m) = j.ptn)

/-- LDW. -/
def effLdw (n : Nat) (s : State) : State :=
  issue s n 0x10 (fun j w st =>
    let f := iFmt w
    let tsa := bits (greg st (iA w)) 0 15
    let hi := tsa + blockUnits f - 1
    if checkDue s n j || readHeld st tsa hi then s
    else
      match firstFault ((members n j).flatMap (fun m => spanFaults s (members n j) m j.lent.isSome tsa hi)) with
      | some c => endJob s n c
      | none => afterRead s n (members n j) [(tsa, hi)] (fun s =>
        let s1 := (members n j).foldl (fun s m =>
          let s1 := setStn s m { stn s m with blk := blockAt (stn s m) tsa f, array := (stn s m).array + 1 }
          if !countsFor s1 m j then s1 else addSat s1 (.stn m) F.stn_LDW_STALL (if j.shape = 1 then 256 else 128)) s
        setStn s1 n { advance (stn s1 n) with ldw := some { tsa := tsa, fmt := f, t := bitAt w 40 } }))
/-- LDW loads the stationary block at TSA Ga[14:0] (R84, R88); a slot it may not read ends the job, the one met first deciding
the status (R90, R93, R100). -/
def execLdw (n : Nat) (s : State) : Host.Outcome State Fault Refusal := actMem (Instr.ldw n) s (effLdw n s)

/-- Where an MMA's operands come from for one group of reduction indices: the store that streams and the block held. -/
structure Seg where
  st : Station
  blk : NMap Byte
deriving DecidableEq, Repr

/-- The operands of an MMA that are the same for every row and column. -/
structure MmaArg where
  f : Nat
  t : Bool
  base : Nat
  sbase : Nat
deriving DecidableEq, Repr

/-- The products that array row `r` adds for streaming row `g` and column `c` (R117 to R119). -/
def rowProducts (a : MmaArg) (sg : Seg) (g c r : Nat) : List FV :=
  (if fmtNib a.f then [2 * r, 2 * r + 1] else [r]).map (fun k =>
    mulFV (scaledFV a.f (streamCode sg.st a.f a.base g k) (streamScale sg.st a.f a.sbase g (k / 32)))
      (scaledFV a.f (blockCode sg.blk a.f a.t k c) (blockScale sg.blk a.f (k / 32) c)))

/-- The column chain through one array (R119). -/
def colChain (a : MmaArg) (g c : Nat) (p : Nat) (sg : Seg) : Nat :=
  (List.range 128).foldl (fun p r => rn (sumFV (fv p :: rowProducts a sg g c r))) p

/-- The exact column sum of one array (R121). -/
def colSum (a : MmaArg) (g c : Nat) (sg : Seg) : Int :=
  (List.range (if fmtNib a.f then 256 else 128)).foldl (fun t k =>
    t + intCode a.f (streamCode sg.st a.f a.base g k) * intCode a.f (blockCode sg.blk a.f a.t k c)) 0

/-- The exact complex column sums of one array (R122). -/
def colComplex (a : MmaArg) (g c : Nat) (sg : Seg) : Int × Int :=
  (List.range 64).foldl (fun t r =>
    let x := streamCode sg.st 10 a.base g r
    let y := blockCode sg.blk 10 a.t r c
    let xr := signed 16 x
    let xi := signed 16 (x / 65536)
    let yr := signed 16 y
    let yi := signed 16 (y / 65536)
    (t.1 + (xr * yr - xi * yi), t.2 + (xr * yi + xi * yr))) (0, 0)

/-- Write a binary32 column result (R123, R126). -/
def accFloat (add : Bool) (old p : Nat) : Nat × Tally :=
  let v := if add then addB old p else p
  (v, { sat := 0, inf := ofBool (v % 2 ^ 31 == 0x7F800000), nan := ofBool (isNan (fv v)) })

/-- Write an INT32 column result (R123). -/
def accInt (add : Bool) (old : Nat) (x : Int) : Nat × Tally :=
  let v := (if add then signed 32 old else 0) + x
  (unsigned 32 (sat32 v), { sat := ofBool (decide (sat32 v ≠ v)), inf := 0, nan := 0 })

/-- Apply a column result to the ACC word at key `k`. -/
def putAcc (st : Station) (t : Tally) (k : Nat) (f : Nat → Nat × Tally) : Station × Tally :=
  let r := f (mapGet 0 st.acc k)
  ({ st with acc := mapSet 0 st.acc k r.1 }, t.add r.2)

/-- One streaming row into one column for one group of segments (R119, R121 to R124). -/
def mmaColumn (a : MmaArg) (add : Bool) (segs : List Seg) (g row c : Nat) (x : Station × Tally) : Station × Tally :=
  if a.f = 10 then
    let t := segs.foldl (fun t sg => (t.1 + (colComplex a g c sg).1, t.2 + (colComplex a g c sg).2)) ((0 : Int), (0 : Int))
    let y := putAcc x.1 x.2 (128 * row + 2 * c) (fun old => accInt add old (cr t.1))
    putAcc y.1 y.2 (128 * row + 2 * c + 1) (fun old => accInt add old (cr t.2))
  else if fmtInt a.f then
    let t := segs.foldl (fun t sg => t + colSum a g c sg) 0
    putAcc x.1 x.2 (128 * row + c) (fun old => accInt add old t)
  else
    let p := segs.foldl (colChain a g c) 0
    putAcc x.1 x.2 (128 * row + c) (fun old => accFloat add old p)

/-- The groups of segments that are summed before ACC is written: one group, or under MODE 1 of a ROW pair one for each
half, the second added (R133). -/
def segGroups (mode : Nat) (segs : List Seg) : List (List Seg) := if mode = 1 then segs.map (fun x => [x]) else [segs]

/-- All rows and columns of an MMA into one ACC. -/
def mmaRun (a : MmaArg) (add : Bool) (groups : List (List Seg)) (rows row0 : Nat) (st : Station) : Station × Tally :=
  groups.zipIdx.foldl (fun x gr =>
    (List.range rows).foldl (fun x g =>
      (List.range (fmtD a.f)).foldl (fun x c => mmaColumn a (add || decide (0 < gr.2)) gr.1 g (row0 + g) c x) x) x)
    (st, Tally.zero)

/-- The segments whose products reach the ACC of output member `m` (R155, R157). -/
def segsFor (s : State) (n : Nat) (j : Job) (m : Nat) : List Seg :=
  if j.shape = 1 then [{ st := stn s n, blk := (stn s n).blk }, { st := stn s (n + 1), blk := (stn s (n + 1)).blk }]
  else [{ st := stn s n, blk := (stn s m).blk }]

/-- The conditions of an MMA that depend only on the instruction and its registers (R86, R97, R100, R156). -/
def mmaIssueCheck (j : Job) (w : Nat) (st : Station) : Option Nat :=
  let f := iFmt w
  let rows := bits w 32 8 + 1
  let bad := match st.ldw with
    | none => true
    | some l => decide (l.fmt ≠ f)
  if bad || (decide (fmtLB f = 256) && decide (greg st (iA w) % 2 = 1))
      || (decide (j.shape ≠ 0) && decide (f = 9) && decide (128 < rows)) then some 0x80
  else if 256 < bits (greg st (iB w)) 0 8 + rows then some 0x81 else none

/-- The unit spans that an MMA reads in a streaming member's store: the image, and the scales of an MX format (R85, R87). -/
def mmaSpans (w : Nat) (st : Station) : List (Nat × Nat) :=
  let f := iFmt w
  let lines := bits w 32 8 + fmtD f
  let b := bits (greg st (iA w)) 0 15
  let c := bits (greg st (iC w)) 0 15
  (b, b + lines * fmtLB f / 128 - 1) :: (if fmtMX f then [(c, c + (8 * lines - 1) / 128)] else [])

/-- The unit spans that the first `lines` lines of an MMA's image cover, with their scales. -/
def mmaSpansTo (w : Nat) (st : Station) (lines : Nat) : List (Nat × Nat) :=
  if lines = 0 then []
  else (mmaSpans w st).zipIdx.map (fun e =>
    (e.1.1, min e.1.2 (e.1.1 + (if e.2 = 0 then lines * fmtLB (iFmt w) - 1 else 8 * lines - 1) / 128)))

/-- The image lines whose reads meet a line of a streaming member's store that holds an uncorrectable error. -/
def mmaBadLines (w : Nat) (st m : Station) : List Nat :=
  (mmaSpans w st).zipIdx.flatMap (fun e => (mapSlice m.bad (2 * e.1.1) (2 * e.1.2 + 2)).map (fun b =>
    (64 * b.1 - 128 * e.1.1) / (if e.2 = 0 then fmtLB (iFmt w) else 8)))

/-- The streaming rows whose lines all lie before line `l` of an image: they are in the array when its access ends the job. -/
def rowsBefore (f l : Nat) : Nat := l + 1 - fmtD f

/-- The slots that an MMA may not read in member `m`'s store, each with the image line whose access meets it first: a unit
of the image holds part of a line or one line, a unit of the scales those of sixteen lines (R85, R87, R100). -/
def mmaFaults (s : State) (n : Nat) (j : Job) (w : Nat) (st : Station) (m : Nat) : List (Nat × Nat) :=
  (mmaSpans w st).zipIdx.flatMap (fun e =>
    (spanFaults s (members n j) m j.lent.isSome e.1.1 e.1.2).map (fun x =>
      (if e.2 = 0 then 128 * x.1 / fmtLB (iFmt w) else 16 * x.1, x.2)))

/-- The first `rows` rows of an MMA pass through the array: ACC, and the counters of the owner's page (R113, R118 to R130). -/
def mmaRows (s : State) (n : Nat) (j : Job) (w : Nat) (st : Station) (rows : Nat) : State :=
  let f := iFmt w
  let t := match st.ldw with
    | some l => l.t
    | none => false
  let a : MmaArg := { f := f, t := t, base := 128 * bits (greg st (iA w)) 0 15, sbase := 128 * bits (greg st (iC w)) 0 15 }
  if rows = 0 then s
  else
    let s1 := (outMembers n j).foldl (fun s1 m =>
      let r := mmaRun a (bitAt w 43) (segGroups j.mode (segsFor s n j m)) rows (bits (greg st (iB w)) 0 8) (stn s1 m)
      let s2 := setStn s1 m r.1
      if countsFor s2 m j then arithCount s2 m r.2 else s2) s
    (members n j).foldl (fun s2 m =>
      let s3 := setStn s2 m { stn s2 m with array := (stn s2 m).array + 1 }
      if countsFor s3 m j then
        addSat (addSat s3 (.stn m) F.stn_BUSY_CYC (rows * fmtC f)) (.stn m) F.stn_ROWS rows
      else s3) s1

/-- MMA. -/
def effMma (n : Nat) (s : State) : State :=
  issue s n 0x11 (fun j w st =>
    let f := iFmt w
    let rows := bits w 32 8 + 1
    match mmaIssueCheck j w st with
    | some c => endJob s n c
    | none =>
      if checkDue s n j || (mmaSpans w st).any (fun e => readHeld st e.1 e.2) then s
      else
        let faults := (streamMembers n j).flatMap (mmaFaults s n j w st)
        let lines := (minList (faults.map (fun e => e.1))).getD (rows + fmtD f - 1)
        let x := storesRead s ((streamMembers n j).map (fun m => (m, (mmaSpansTo w st lines).map unitBytes)))
        if x.1 then
          let bad := (streamMembers n j).flatMap (fun m => mmaBadLines w st (stn s m))
          endJob (mmaRows x.2 n j w st (rowsBefore f ((minList bad).getD 0))) n 0x0B
        else match firstFault faults with
          | some c => endJob (mmaRows x.2 n j w st (rowsBefore f lines)) n c
          | none =>
            let s2 := mmaRows x.2 n j w st rows
            setStn s2 n (advance (stn s2 n)))
/-- MMA streams M rows from TSA Ga[14:0] into ACC from row Gb[7:0] (R97, R118 to R127, R133). DESIGN CHOICE (log entry 134): of an
MMA whose access to a line meets a condition of R90, R93 or R200, the rows whose lines all lie before it are in the array and
complete (R95): they reach ACC and are counted (R130); the rows after them change neither. -/
def execMma (n : Nat) (s : State) : Host.Outcome State Fault Refusal := actMem (Instr.mma n) s (effMma n s)

/-! ### The requantisation stage (R98 to R100, R137 to R154) -/

/-- The ACC words of rows `row` to `row + rows − 1`. -/
def accRows (st : Station) (row rows : Nat) : List Nat :=
  (List.range (128 * rows)).map (fun i => mapGet 0 st.acc (128 * row + i))

/-- RQO. -/
def effRqo (n : Nat) (s : State) : State :=
  issue s n 0x20 (fun j w st =>
    if st.rqoWait.isSome then s
    else
      let rows := bits w 32 8 + 1
      let row := bits (greg st (iA w)) 0 8
      let mode := bits w 42 2
      if mode = 3 then endJob s n 0x80
      else if 256 < row + rows then endJob s n 0x81
      else
        let r : Rqo :=
          { word := w, words := (outMembers n j).map (fun m => accRows (stn s m) row rows), row := row,
            tsa := bits (greg st (iB w)) 0 15, gc := bits (greg st (iC w)) 0 15, ofmt := iFmt w, mode := mode,
            skew := bitAt w 41, rows := rows, rqset := bits w 24 6 }
        setStn s n (if st.rqoRun.isNone then { advance st with rqoRun := some r }
          else { advance st with rqoWait := some r }))
/-- RQO is handed to the requantisation stage (R96, R97, R98). -/
def execRqo (n : Nat) (s : State) : Host.Outcome State Fault Refusal := act (Instr.rqo n) s (effRqo n s)

/-- The TSA of an RQO's record on a member's page, or none when RQSET is not below TBL_SETS (R137). DESIGN CHOICE (log entry
135): where the members' fields differ, each member's record lies at its own page's TBL_BASE. -/
def recordTsa (s : State) (m : Nat) (lent : Bool) (rqset : Nat) : Option Nat :=
  let base := ef s (.stn m) (if lent then F.stn_LEND_TBL_BASE else F.stn_TBL_BASE)
  let sets := ef s (.stn m) (if lent then F.stn_LEND_TBL_SETS else F.stn_TBL_SETS)
  if rqset < sets then some (base + 16 * rqset) else none

/-- The statuses with which an RQO's start may end the job on one member: RQSET and the form (R137, R141), the record's lines
(R90, R93) and, where they can be read, the record (R141), output lines in a FILL slot (R91), and the sum that row 0 reads
in the same cycle (R147). -/
def rqoStartFaults (s : State) (ms : List Nat) (lent : Bool) (r : Rqo) (m : Nat) : List (Nat × Nat) :=
  match recordTsa s m lent r.rqset with
  | none => [(0, 0x80)]
  | some t =>
    let acc := (spanFaults s ms m lent t (t + 15)).map (fun e => (0, e.2))
    let ok := if acc.isEmpty then recordOk (loadBytes (stn s m).store (128 * t) 2048) r else formOk r
    let fill := (outSpans r).any (fun e => (slotsOf e.1 e.2).any (fun k => slotState (stn s m) k == 1))
    let sum := if r.mode = 2 then (spanFaults s ms m lent (sumUnit r 0) (sumUnit r 0)).map (fun e => (0, e.2)) else []
    acc ++ sum ++ (if ok then [] else [(0, 0x80)]) ++ (if fill then [(0, 0x83)] else [])

/-- What an RQO's start reads of a member's store: its record, and the sums of a ROWDIV. -/
def rqoReads (s : State) (lent : Bool) (r : Rqo) (m : Nat) : Nat × List (Nat × Nat) :=
  let t := (recordTsa s m lent r.rqset).getD 0
  (m, (128 * t, 2048) :: (if r.mode = 2 then [(128 * r.gc, 4 * r.rows)] else []))

/-- RQO_START. -/
def effRqoStart (n : Nat) (s : State) : State :=
  let st := stn s n
  match st.job, st.rqoRun with
  | some j, some r =>
    let gone (s : State) : State := setStn s n { stn s n with rqoRun := none }
    if st.rqoRec ≠ [] then s
    else
      match firstFault ((outMembers n j).flatMap (rqoStartFaults s (members n j) j.lent.isSome r)) with
      | some c => endJob (gone s) n c
      | none =>
        let x := storesRead s ((outMembers n j).map (rqoReads s j.lent.isSome r))
        if x.1 then endJob (gone x.2) n 0x0B
        else (outMembers n j).foldl (fun s m =>
          let t := (recordTsa s m j.lent.isSome r.rqset).getD 0
          setStn s m { stn s m with rqoRec := loadBytes (stn s m).store (128 * t) 2048, statSkip := 0 }) x.2
  | _, _ => s
/-- An RQO starts: its parameter record is latched, and the conditions of R141 are tested (R137, R141). -/
def execRqoStart (n : Nat) (s : State) : Host.Outcome State Fault Refusal :=
  actMem (Instr.rqoStart n) s (effRqoStart n s)

/-- Does an RQO write to a HELD slot that a mover is reading out (R91). -/
def rqoHeld (s : State) (m : Nat) (r : Rqo) : Bool :=
  (outSpans r).any (fun e => (slotsOf e.1 e.2).any (fun k => slotState (stn s m) k == 3 && slotReading s m k))

/-- The slots that an RQO wrote to become HELD (R89). DESIGN CHOICE (log entry 136): a slot that a mover claimed after the
RQO's start, of which the spec does not say what the RQO's write makes it, stays FILL. -/
def holdSlots (st : Station) (r : Rqo) : Station :=
  ((outSpans r).flatMap (fun e => slotsOf e.1 e.2)).foldl (fun st k =>
    if slotState st k = 1 then st else setSlot st k 3) st

/-- The rows of an RQO are written one by one; a row that covers part of a line reads that line to merge, and one that meets
an uncorrectable error there is not written and ends the RQO (R200). The rows written, and the state after. -/
def writeRows (m : Nat) : List RqRow → State → Nat × State
  | [], s => (0, s)
  | x :: l, s =>
    let edges := x.writes.flatMap (fun w => edgeLines w.1 w.2.length)
    let r := if edges.isEmpty then (false, s) else unitRead s (.stn m) edges
    if r.1 then (0, r.2)
    else
      let y := writeRows m l (setStn r.2 m (x.writes.foldl (fun st w => putStore st w.1 w.2) (stn r.2 m)))
      (y.1 + 1, y.2)

/-- What the rows that an RQO has written count: elements, saturations and NaNs, and the statistics of the rows that no
STAT_CLR found read (R148 to R152). -/
def countRows (s : State) (m : Nat) (r : Rqo) (skip : Nat) (l : List RqRow) : State :=
  l.zipIdx.foldl (fun s e => if skip ≤ e.2 && rowObserved s m r.rqset e.2 then statRow s m e.1.stats else s)
    (rqCount s m (128 * l.length) (l.foldl (fun t x => t.add x.tally) Tally.zero))

/-- The effect of an RQO's first `k` rows on one member: its writes, counters and statistics; the rows written. -/
def rqoFinish (s : State) (m k : Nat) (j : Job) (r : Rqo) (words : List Nat) : Nat × State :=
  let st := stn s m
  let l := rqRun st st.rqoRec { r with rows := k } words
  let x := writeRows m l s
  let s1 := setStn x.2 m { holdSlots (stn x.2 m) { r with rows := x.1 } with rqoRec := [], statSkip := 0 }
  (x.1, if !countsFor s1 m j then s1 else countRows s1 m r st.statSkip (l.take x.1))

/-- An RQO on every output member: the rows that each has written, and the state after. -/
def rqoAll (n : Nat) (j : Job) (r : Rqo) (k : Nat) (s : State) : List Nat × State :=
  ((outMembers n j).zip r.words).foldl (fun x e =>
    let y := rqoFinish x.2 e.1 k j r e.2
    (x.1 ++ [y.1], y.2)) ([], s)

/-- The requantisation stage gives up an RQO that has not started: one that takes the running place of an RQO which ends its
job does not start (R95). -/
def dropStage (s : State) (n : Nat) : State := setStn s n { stn s n with rqoRun := none }

/-- RQO_COMPLETE. -/
def effRqoComplete (n : Nat) (s : State) : State :=
  let st := stn s n
  match st.job, st.rqoRun with
  | some j, some r =>
    if st.rqoRec = [] || (outMembers n j).any (fun m => rqoHeld s m r) then s
    else
      let faults := (outMembers n j).flatMap (fun m => rowFaults s (members n j) m j.lent.isSome r)
      let k := (minList (faults.map (fun e => e.2.1))).getD r.rows
      let x := rqoAll n j r k s
      let st1 := stn x.2 n
      let s1 := if st1.drain.isSome then setStn x.2 n { st1 with rqoRun := none }
        else setStn x.2 n { st1 with rqoRun := st1.rqoWait, rqoWait := none }
      if x.1.any (fun w => decide (w < k)) then endJob (dropStage s1 n) n 0x0B
      else match firstFault (faults.map (fun e => (e.1, e.2.2))) with
        | some c => endJob (dropStage s1 n) n c
        | none => s1
  | _, _ => s
/-- An RQO completes: its output rows are written, and the counters and statistics take it in (R98, R140 to R154). A waiting
RQO takes its place, unless a save has been requested, which then saves it (R101). DESIGN CHOICE (log entry 137): where the
access of a row meets a condition of R90, R93 or R200, the rows before it are written and counted, the later ones not, and
the job ends. -/
def execRqoComplete (n : Nat) (s : State) : Host.Outcome State Fault Refusal :=
  actMem (Instr.rqoComplete n) s (effRqoComplete n s)

/-! ### Slots, posting, ending (R97) -/

/-- WAITT. -/
def effWaitt (n : Nat) (s : State) : State :=
  issue s n 0x30 (fun j w st =>
    let k := bits w 16 6
    let ms := streamMembers n j
    if (members n j).any (fun m => !slotAllowed s m j.lent.isSome k) then endJob s n 0x82
    else if ms.all (fun m => decide (2 ≤ slotState (stn s m) k)) then setStn s n (advance st)
    else if ms.any (fun m => slotState (stn s m) k == 1 && !slotFilling s m k) then endJob s n 0x83
    else
      let s1 := setStn s n { st with waitt := some k }
      if j.lent.isNone && ms.any (fun m => slotState (stn s m) k == 1 && s.movs.any (fun e => e.2.items.any (fun it =>
          it.slots.contains (m, k) && decide (it.st = .stopped)))) then requestSave s1 n 2
      else s1)
/-- WAITT holds until the slot is READY or HELD (R97, R93, R238). -/
def execWaitt (n : Nat) (s : State) : Host.Outcome State Fault Refusal := act (Instr.waitt n) s (effWaitt n s)

/-- RELT. -/
def effRelt (n : Nat) (s : State) : State :=
  issue s n 0x31 (fun j w _ =>
    let k := bits w 16 6
    if (members n j).any (fun m => !slotAllowed s m j.lent.isSome k) then endJob s n 0x82
    else
      let s1 := (members n j).foldl (fun s m =>
        if slotState (stn s m) k = 2 then setStn s m (setSlot (stn s m) k 0) else s) s
      setStn s1 n (advance (stn s1 n)))
/-- RELT: a READY slot to FREE (R97, R89). -/
def execRelt (n : Nat) (s : State) : Host.Outcome State Fault Refusal := act (Instr.relt n) s (effRelt n s)

/-- The 16 bytes of a trigger parcel (R97, R214). -/
def triggerBytes (ga gb tag stake : Nat) : List Byte :=
  natLE 4 ga ++ natLE 4 gb ++ natLE 1 tag ++ natLE 1 0 ++ natLE 2 stake ++ natLE 4 0

/-- POST. -/
def effPost (n : Nat) (s : State) : State :=
  issue s n 0x32 (fun j w st =>
    let ag := Agent.station n
    let q := j.qh.getD (bits w 0 2) 0
    let go (s : State) : State := setStn s n (advance (stn s n))
    if qOwner s q ≠ j.ptn then endJob s n 0x84
    else
      match takeGranted s ag 1 with
      | (some _, s1) => go s1
      | (none, _) =>
        match takeEnded s ag 1 with
        | (some _, s1) => endJob s1 n 0x84
        | (none, _) =>
          if (queue s q).line.any (fun e => decide (e.agent = ag) && decide (e.token = 1)) then s
          else
            match hwPost s ag q (triggerBytes (greg st (iA w)) (greg st (iB w)) (bits w 8 8) j.stake) j.ptn j.stake 1
                true with
            | (.parcel _, s1) => go s1
            | (.stalled, s1) => s1
            | (.status _, s1) => endJob s1 n 0x84)
/-- POST enqueues a 16-byte parcel on output queue QH (R97, R259). -/
def execPost (n : Nat) (s : State) : Host.Outcome State Fault Refusal := act (Instr.post n) s (effPost n s)

/-- FENCE. -/
def effFence (n : Nat) (s : State) : State :=
  issue s n 0x33 (fun _ _ st => setStn s n (if st.rqoRun.isSome then { st with fence := true } else advance st))
/-- FENCE holds until every row in the array is usable and every RQO has completed (R97). -/
def execFence (n : Nat) (s : State) : Host.Outcome State Fault Refusal := act (Instr.fence n) s (effFence n s)

/-- END. -/
def effStnEnd (n : Nat) (s : State) : State :=
  issue s n 0x3F (fun _ _ st => if st.rqoRun.isSome then setStn s n { st with fence := true } else endJob s n 0x00)
/-- END: FENCE, then the job completes with DONE (R97). -/
def execStnEnd (n : Nat) (s : State) : Host.Outcome State Fault Refusal := act (Instr.stnEnd n) s (effStnEnd n s)

/-! ### Saving and zeroing -/

/-- STATION_SAVE. -/
def effStationSave (n : Nat) (s : State) : State :=
  let st := stn s n
  match st.job, st.drain with
  | some j, some c =>
    if st.rqoRun.isSome || st.ended.isSome || j.lent.isSome then s else resumeSaved (saveRun s n j c) n
  | _, _ => s
/-- The save of R101: once the array and the running RQO have finished, ACC and the sequencer image are saved. A job
that nothing holds back any more resumes at once (R103). -/
def execStationSave (n : Nat) (s : State) : Host.Outcome State Fault Refusal :=
  act (Instr.stationSave n) s (effStationSave n s)

/-- LEND_RES_ZEROING_DONE. -/
def effLendResZeroingDone (n : Nat) (s : State) : State :=
  match (stn s n).zeroLend with
  | none => s
  | some v =>
    let st := zeroLendRegion (stn s n)
    serveTraverse (resumeStnPage (wr (setStn s n { st with imem := mapDrop st.imem 1536 2048, lentPtn := none, zeroLend := none })
      (.stn n) F.stn_LEND_RES v) n)
/-- The zeroing of a change of LEND_RES has finished, and the new value takes effect; a page whose quiesce was cleared meanwhile
resumes (R104). -/
def execLendResZeroingDone (n : Nat) (s : State) : Host.Outcome State Fault Refusal :=
  actMem (Instr.lendResZeroingDone n) s (effLendResZeroingDone n s)

/-- STATION_STORE_ZEROED. -/
def effStationStoreZeroed (n : Nat) (s : State) : State :=
  if (stn s n).zeroStore then
    serveTraverse (resumeStnPage (setStn (wipeAll s (fun w => { w with stns := w.stns.filter (fun m => m ≠ n) })) n { stn s n with
      store := [], acc := [], blk := [], imem := [], slots := [], bad := [], zeroStore := false }) n)
  else s
/-- The zeroing of tile store, ACC and instruction memory after a change of owner has finished; a page whose quiesce was cleared
meanwhile resumes (R199). -/
def execStationStoreZeroed (n : Nat) (s : State) : Host.Outcome State Fault Refusal :=
  actMem (Instr.stationStoreZeroed n) s (effStationStoreZeroed n s)

/-- INSTRUCTION_MEMORY_WRITE. -/
def effInstructionMemoryWrite (f : Func) (n idx value : Nat) (s : State) : State :=
  let p := Page.stn n
  let st := stn s n
  if !reachWindow s f p (pageBase p + 0x4000 + 0x1000 * (idx / 512)) then denyAccess s f
  else if unitDown s p || st.zeroStore then s
  else if 1536 ≤ idx && st.zeroLend.isSome then s
  else if 1536 ≤ idx && rd s p F.stn_LEND_RES = 1 && decide (f ≠ .pf) then
    (if value % 2 ^ 64 = mapGet 0 st.imem idx then s else setErr s p 2)
  else if quiesced s p then setStn s n { st with imem := mapSet 0 st.imem idx (value % 2 ^ 64) }
  else setErr s p 0
/-- A write of an instruction, served while the page is quiesced (R94). -/
def execInstructionMemoryWrite (f : Func) (n idx value : Nat) (s : State) : Host.Outcome State Fault Refusal :=
  act (Instr.instructionMemoryWrite f n idx value) s (effInstructionMemoryWrite f n idx value s)

/-- STAT_CLR. -/
def effStatClr (f : Func) (n : Nat) (s : State) : State :=
  withWrite s f (.stn n) F.stn_STAT_CLR 1 (fun s => statClear s n)
/-- STAT_CLR clears the statistics (R152). -/
def execStatClr (f : Func) (n : Nat) (s : State) : Host.Outcome State Fault Refusal :=
  act (Instr.statClr f n) s (effStatClr f n s)

/-! ### Binding (R109 to R112, R243, R244) -/

/-- The 16 bytes of NAME in the binding registers. -/
def bindName (s : State) (p : Nat) : List Byte :=
  (List.range 4).flatMap (fun k => natLE 4 (rd s (.ptn p) (F.ptn_BIND_NAME.ix k)))

/-- Is a name well formed: 1 to 15 bytes from 0x21 to 0x7E, then zeros (R109). -/
def nameOk (b : List Byte) : Bool :=
  let l := b.takeWhile (fun x => x != 0)
  decide (1 ≤ l.length) && decide (l.length ≤ 15) && zeroBytes b l.length 16
    && l.all (fun x => decide (0x21 ≤ x.toNat) && decide (x.toNat ≤ 0x7E))

/-- The binding of a name in a partition, with its index. -/
def nameEntry (s : State) (p : Nat) (name : List Byte) : Option (Nat × Binding) :=
  (ptn s p).names.find? (fun e => decide (e.2.name = name))

/-- The result of GO, the first condition of R111 that holds, in R111's order. -/
def bindResult (s : State) (p : Nat) : Nat :=
  let name := bindName s p
  let st := rd s (.ptn p) F.ptn_BIND_STATION
  let pair := rd s (.ptn p) F.ptn_BIND_PAIR == 1
  let ts := if pair then [st, st + 1] else [st]
  if rd s (.ptn p) F.QUIESCED = 0 then 0x1
  else if !nameOk name then 0x5
  else if 144 ≤ st && st ≠ 255 then 0x8
  else if pair && st % 2 = 1 then 0x6
  else if st = 255 then (if (nameEntry s p name).isNone then 0x7 else 0x0)
  else if !ts.all (fun m => unitUp s m) then 0x2
  else if !ts.all (fun m => ownerOf s (.stn m) == p) then 0x3
  else if s.ptns.any (fun e => e.2.names.any (fun b =>
      b.2.stations.any (fun m => ts.contains m) && !(decide (e.1 = p) && decide (b.2.name = name)))) then 0x4
  else 0x0

/-- Set or clear JOINED of the pair of a binding (R155, R160). -/
def setJoined (s : State) (b : Binding) (v : Nat) : State :=
  if b.pair then wr s (.bpr (b.station / 2)) F.bpr_JOINED v else s

/-- The slots that a carry takes from one station to another (R243). -/
def carrySlots (s : State) (a b : Nat) : List Nat :=
  let both := rd s (.stn a) F.stn_LEND_RES == 0 && rd s (.stn b) F.stn_LEND_RES == 0
  (List.range 48) ++ (if both then (List.range 14).map (fun k => 48 + k) else []) ++ [62, 63]

/-- Copy slots with their states from station `a` to station `b` (R243). -/
def carryCopy (s : State) (a b : Nat) (ks : List Nat) : State :=
  let sa := stn s a
  let one (x : Station) (k : Nat) : Station :=
    setSlot { x with store := (mapSlice sa.store (65536 * k) (65536 * (k + 1))).foldl (fun m e => mapPut m e.1 e.2)
                                (mapDrop x.store (65536 * k) (65536 * (k + 1)))
                     bad := (mapSlice sa.bad (1024 * k) (1024 * (k + 1))).foldl (fun m e => mapPut m e.1 e.2)
                                (mapDrop x.bad (1024 * k) (1024 * (k + 1))) } k (slotState sa k)
  setStn s b { ks.foldl one (stn s b) with carry := true }

/-- The claims and reads of descriptors follow the carried slots, and a claim that was not carried is marked (R244). -/
def carryClaims (s : State) (a b : Nat) (ks : List Nat) : State :=
  let move (l : List (Nat × Nat)) : List (Nat × Nat) :=
    l.map (fun e => if e.1 = a && ks.contains e.2 then (b, e.2) else e)
  let one (it : MovItem) : MovItem :=
    { it with slots := move it.slots, reads := move it.reads,
              lostCarry := it.lostCarry || it.slots.any (fun e => e.1 == a && !ks.contains e.2) }
  { s with movs := mapAll Channel.idle s.movs (fun _ c => { c with items := c.items.map one }) }

/-- The carry of a rebind from `old` to `new` (R243, R244): slots and claims, of a pair that becomes a single station only
the even member's, and the save record unless the shape changes or the new station alone has LEND_RES set; the job is then completed with NOT_DONE. -/
def carry (s : State) (old new : Binding) : State :=
  if old.station = new.station && old.pair = new.pair then s
  else if !old.stations.all (fun m => unitUp s m) then s
  else
    let prs := old.stations.zip new.stations
    let s0 := prs.foldl (fun s e =>
      let ks := carrySlots s e.1 e.2
      carryClaims (carryCopy s e.1 e.2 ks) e.1 e.2 ks) s
    let s1 := (old.stations.drop new.stations.length).foldl (fun s m => carryClaims s m m []) s0
    let drop := old.pair != new.pair || prs.any (fun e =>
      rd s (.stn e.1) F.stn_LEND_RES == 0 && rd s (.stn e.2) F.stn_LEND_RES == 1)
    if drop then dropSaved s1 old.station 0x01
    else
      match (stn s1 old.station).saved with
      | none => s1
      | some r =>
        let s2 := setStn s1 old.station { stn s1 old.station with saved := none }
        setStn s2 new.station { stn s2 new.station with saved := some { r with cause := if r.cause = 2 then 2 else 4 } }

/-- Show the binding of NAME in BIND_RESULT (R110). -/
def showBinding (s : State) (p : Nat) : State :=
  match nameEntry s p (bindName s p) with
  | none => wr (wr s (.ptn p) F.ptn_BIND_INDEX 0xFF) (.ptn p) F.ptn_BIND_PHYS 0xFF
  | some (i, b) => wr (wr s (.ptn p) F.ptn_BIND_INDEX i) (.ptn p) F.ptn_BIND_PHYS b.station

/-- The binding change that a GO with result 0x0 makes. -/
def bindApply (s : State) (p : Nat) : State :=
  let name := bindName s p
  let st := rd s (.ptn p) F.ptn_BIND_STATION
  let old := nameEntry s p name
  let s1 := match old with
    | some (_, b) => setJoined s b 0
    | none => s
  let x := ptn s1 p
  if st = 255 then
    match old with
    | some (i, _) => setPtn s1 p { x with names := mapErase x.names i }
    | none => s1
  else
    let new : Binding := { name := name, station := st, pair := rd s (.ptn p) F.ptn_BIND_PAIR == 1 }
    let i := match old with
      | some (i, _) => i
      | none => lowestFree 0 x.names
    let s2 := setJoined (setPtn s1 p { x with names := mapPut x.names i new }) new 1
    match old with
    | some (_, b) => carry s2 b new
    | none => s2

/-- GO (R111). -/
def bindGo (s : State) (p : Nat) : State :=
  let r := bindResult s p
  let s1 := if r = 0 then bindApply s p else setErr s (.ptn p) 16
  showBinding (wr s1 (.ptn p) F.ptn_BIND_RESULT r) p

/-- BIND_GO. -/
def effBindGo (f : Func) (p : Nat) (s : State) : State :=
  withWrite s f (.ptn p) F.ptn_BIND_GO 1 (fun s => bindGo s p)
/-- GO binds, rebinds or unbinds a name (R110, R111, R112, R243). -/
def execBindGo (f : Func) (p : Nat) (s : State) : Host.Outcome State Fault Refusal :=
  act (Instr.bindGo f p) s (effBindGo f p s)

/-- LOOKUP. -/
def effLookup (f : Func) (p : Nat) (s : State) : State :=
  withWrite s f (.ptn p) F.ptn_BIND_LOOKUP 1 (fun s => showBinding (wr s (.ptn p) F.ptn_BIND_RESULT 0) p)
/-- LOOKUP shows the name index of NAME (R110). DESIGN CHOICE (log entry 42): RESULT is 0 whether the name is bound or not; an
unbound name shows in the index 0xFF. -/
def execLookup (f : Func) (p : Nat) (s : State) : Host.Outcome State Fault Refusal :=
  act (Instr.lookup f p) s (effLookup f p s)

/-- CARRY_COMPLETE. -/
def effCarryComplete (n : Nat) (s : State) : State :=
  if (stn s n).carry then resumeStnPage (setStn s n { stn s n with carry := false }) n else s
/-- The carry to a station is complete (R243). -/
def execCarryComplete (n : Nat) (s : State) : Host.Outcome State Fault Refusal :=
  act (Instr.carryComplete n) s (effCarryComplete n s)

end Sys2Proof.Machine
end

