-- ==== Sys2Proof/Machine/PageCore.lean ====
section
/-! DEFINITION. What happens to a whole page: its return to reset values, a change of owner (R79), reaching QUIESCED (R65),
the apply of its seal groups (R66), and the stopping of the work that a reset reaches (R547 to R549). -/

namespace Sys2Proof.Machine

/-! ### Reset values (R52, R558) -/

/-- Every field of a page takes its reset value, in the shadow and in effect; its captured values return to 0 and none of
its groups is armed. A station's statistics window goes with its page (R152). -/
def clearPage (s : State) (p : Page) : State :=
  let lo := 8 * pageBase p
  let hi := lo + 8 * 0x1000
  let s1 := clearCapture { s with
    regs := mapDrop s.regs lo hi
    eff := mapDrop s.eff lo hi
    sealAt := mapDrop s.sealAt (16 * pageBase p) (16 * pageBase p + 16) } p
  match p with
  | .stn n => { s1 with regs := mapDrop s1.regs (chmaxKey n 0) (chmaxKey n 128) }
  | _ => s1

/-! ### Applying groups (R66, R191, R192, R414, R518, R533) -/

/-- What an apply of groups A and B changes in the rings: an SQ whose EN is clear fetches again once it is set (R518), and
a CQ that is newly enabled starts at position 0. -/
def ringsApplied (old s : State) (p : Nat) : State :=
  let s1 := forUpTo 16 (fun k s =>
    if ef s (.ptn p) (F.ptn_SQ_EN.ix k) = 0 then setSq s p k { sqAt s p k with stopped := false } else s) s
  forUpTo 16 (fun c s =>
    if ef old (.ptn p) (F.ptn_CQ_EN.ix c) = 0 && ef s (.ptn p) (F.ptn_CQ_EN.ix c) = 1 then
      wr (wr (setCq s p c Cq.idle) (.ptn p) (F.ptn_CQ_TAIL.ix c) 0) (.ptn p) (F.ptn_CQ_HEAD.ix c) 0
    else s) s1

/-- What an apply of group C changes: LB_STATE, and recovery from the mirror where RECOVER is set (R533, R537). -/
def levelBookApplied (s : State) (p : Nat) : State :=
  if ef s (.ptn p) F.ptn_LB_EN = 1 && ef s (.ptn p) F.ptn_RECOVER = 1 && pstate s p == 1 then
    recoverStart (setPtn s p { ptn s p with mirrorDue := true }) p
  else if (ptn s p).recovering then s else lbIdle s p

/-- A change of JOBQ_BASE ends the idle stations' reads of their old job queues; they read again from the new ones (R536). -/
def jobqApplied (old s : State) (p : Nat) : State :=
  if ef old (.ptn p) F.ptn_JOBQ_BASE = ef s (.ptn p) F.ptn_JOBQ_BASE then s
  else (ptn s p).names.foldl (fun s e => match (stn s e.2.station).job with
    | none => dropStakeWait (withdrawAgent s (.station e.2.station)) (.station e.2.station)
    | some _ => s) s

/-- The shadows of a set of groups are applied, with what follows from it in the page's block. -/
def applyGroups (s : State) (p : Page) (mask : Nat) : State :=
  let s1 := applyShadows s p mask
  match p with
  | .ptn n =>
    let s2 := if bitAt mask 0 || bitAt mask 1 then ringsApplied s s1 n else s1
    let s3 := if bitAt mask 2 then levelBookApplied s2 n else s2
    let s3 := if bitAt mask 3 then jobqApplied s s3 n else s3
    let s4 := if bitAt mask 8 then bookApplied s s3 n else s3
    let s5 := if bitAt mask 13 then rangesApplied s s4 n else s4
    if bitAt mask 12 then quotaFollow s5 n else s5
  | _ => s1

/-- A page reaches QUIESCED: its armed groups are applied, then QUIESCED is set (R65). -/
def reachQuiesced (s : State) (p : Page) : State :=
  let s1 := applyGroups s p (rd s p F.SEAL)
  if rd s1 p F.QUIESCED = 1 then s1 else setEvt (wr s1 p F.QUIESCED 1) p 1

/-- A page is left quiesced with QUIESCE_REQ set (R550). A traverse channel is QUIESCED only once no operation of it is
outstanding (R477). -/
def forceQuiesced (s : State) (p : Page) : State :=
  let busy : Bool := match p with
    | .trc c => !(trc s c).isEmpty
    | _ => false
  wr (if busy then s else reachQuiesced s p) p F.QUIESCE_REQ 1

/-! ### Stopping stations (R107, R167, R547, R549) -/

/-- An RQO in the running place counts as started, and finishes before the run stops (R101, R547). -/
def finishRqo (s : State) (n : Nat) : State :=
  match (stn s n).rqoRun with
  | some _ => effRqoComplete n (if (stn s n).rqoRec = [] then effRqoStart n s else s)
  | none => s

/-- Free the parcel and the stake of a job that produces no completion (R531). -/
def silentJob (s : State) (n : Nat) (j : Job) : State :=
  let s1 := (members n j).foldl freeFills s
  let s2 := match j.pid with
    | some pid => freeParcel s1 pid
    | none => s1
  freeStake s2 j.stake

/-- Is a job one whose item runs again, so that this run is silent (R548). -/
def jobSilent (j : Job) (quiet : Nat → Bool) : Bool :=
  match j.pid with
  | some pid => quiet pid
  | none => false

/-- The run of sequencer `n` stops: a lent run stays, a silent one goes without a completion, another ends with
NOT_DONE. -/
def stopRun (s : State) (n : Nat) (quiet : Nat → Bool) : State :=
  match (stn s n).job with
  | none => s
  | some j =>
    if j.lent.isSome then s
    else
      let s1 := finishRqo s n
      if jobSilent j quiet then
        silentJob (setStn (dropGrants (withdrawRun s1 (.station n)) (.station n)) n (clearRun (stn s1 n))) n j
      else dropRun s1 n 0x01

/-- The saved job of sequencer `n` is discarded in the same way. -/
def stopSaved (s : State) (n : Nat) (quiet : Nat → Bool) : State :=
  match (stn s n).saved with
  | none => s
  | some r =>
    if jobSilent r.job quiet then silentJob (setStn s n { stn s n with saved := none }) n r.job else dropSaved s n 0x01

/-- Give up a job parcel that a station has taken a stake for and not started. -/
def dropTake (s : State) (n : Nat) : State := dropStakeWait (withdrawAgent s (.station n)) (.station n)

/-- Everything that runs or is saved on station `m` stops, and its FILL slots that no descriptor fills become FREE. -/
def stopStation (s : State) (m : Nat) (quiet : Nat → Bool) : State :=
  let s1 := (runsOn s m).foldl (fun s n => stopSaved (stopRun s n quiet) n quiet) s
  let s2 := match (stn s1 m).job with
    | none => dropTake s1 m
    | some _ => s1
  freeFills s2 m

/-! ### Stopping movers (R241, R547) -/

/-- The descriptors of channel `k` that `sel` chooses stop at a chunk boundary and complete with NOT_DONE; those whose item
runs again leave without a completion (R548). -/
def stopDescs (s : State) (k : Nat) (sel : MovItem → Bool) (quiet : Nat → Bool) : State :=
  let s1 := (mov s k).items.foldl (fun s it => if it.isFinished || !sel it then s else finishItem s k it 0x01) s
  let gone := (mov s1 k).items.filter (fun it => quiet it.pid && sel it)
  let s2 := setMov s1 k { mov s1 k with items := (mov s1 k).items.filter (fun it => !(quiet it.pid && sel it)) }
  postAll (gone.foldl (fun s it => freeStake (freeParcel (commitOp s it.cpl 0).2 it.pid) it.stake) s2) k

/-- Does a descriptor read or write the window of station `m`. -/
def descUses (m : Nat) (it : MovItem) : Bool := (it.slots ++ it.reads).any (fun e => decide (e.1 = m))

/-- The descriptors of every channel that use station `m` stop. -/
def stopWindow (s : State) (m : Nat) (quiet : Nat → Bool) : State :=
  s.movs.foldl (fun s e => stopDescs s e.1 (descUses m) quiet) s

/-! ### Stopping traverse operations (R477, R549) -/

/-- The operations of channel `c` that were never sent stop with NOT_DONE, silently where their item runs again; those
sent wait for their replies. -/
def stopUnsent (s : State) (c : Nat) (quiet : Nat → Bool) : State :=
  let s1 := dropStakeWait (withdrawAgent s (trvAg c)) (trvAg c)
  let s2 := match takeGranted s1 (trvAg c) 1 with
    | (some pid, t) => (commitOp t pid 0).2
    | (none, t) => t
  let gone := (trc s2 c).filter (fun it => quiet it.pid && !it.started)
  let s3 := setTrc s2 c ((trc s2 c).filter (fun it => !(quiet it.pid && !it.started)))
  let s4 := gone.foldl (fun s it => freeStake (freeParcel (commitOp (dropBarrier s it.id) it.cpl 0).2 it.pid) it.stake) s3
  endWhere s4 (fun x it => decide (x = c) && !it.started) (fun _ => 0x01)

/-! ### A change of owner (R79) -/

/-- What a change of owner does in the page's block, before its fields return to reset: R107, R167, R199, R241, R271,
R455, R477. -/
def ownerLeaves (s : State) (p : Page) : State :=
  match p with
  | .stn n =>
    let s1 := if pairJoined s n && n % 2 = 1 then s else stopStation s n (fun _ => false)
    let s2 := setStn s1 n { stn s1 n with zeroStore := true, zeroLend := none, slots := [], array := 0 }
    if n % 2 = 0 then
      let j := rd s2 (.bpr (n / 2)) F.bpr_JOINED
      wr (clearPage s2 (.bpr (n / 2))) (.bpr (n / 2)) F.bpr_JOINED j
    else s2
  | .mov k => setMov (movReset s k) k { mov (movReset s k) k with inv := false }
  | .pq g => forUpTo 16 (fun i s => resetQueue s (16 * g + i)) s
  | .fhq j => setFhq s j FhQueue.idle
  | .trc c => trcReset s c
  | _ => s

/-- OWNER changes (R79): fields and counters return to reset, which sets QUIESCE_REQ and leaves the page quiesced. The error
bits that say whose a queue or a job slot is follow (R249, R457, R503). -/
def changeOwner (s : State) (p : Page) (o : Nat) : State :=
  ownerLevels s (wr (clearPage (ownerLeaves s p) p) p F.OWNER o) p

/-- The pages that a partition owns. -/
def ownedPages (s : State) (q : Nat) : List Page := assignablePages.filter (fun p => decide (rd s p F.OWNER = q))

/-! ### Partition reset (R545 to R550) -/

/-- Does the reset of a partition wait: a traverse channel of it has operations whose replies are awaited (R477, R549). -/
def resetPends (s : State) (p : Nat) : Bool :=
  (List.range 256).any (fun c => decide (ownerOf s (.trc c) = p) && heldQuiesced s (.trc c) && rd s (.trc c) F.QUIESCED == 0)

/-- RESET_RESULT (R545). -/
def resetResult (s : State) (r : Nat) : State := wr s .hlt F.hlt_RESET_RESULT r

/-- The reset of some partitions has been made: its result is written, or reads busy while replies are awaited (R545, R549). -/
def resetMade (s : State) (ps : List Nat) : State :=
  if ps.any (resetPends s) then
    wr (resetResult { s with hlt := { s.hlt with resetWait := ps } } 3) .hlt F.hlt_RESET_BUSY 1
  else resetResult s 0

/-- A reset that waited has taken effect once nothing of it is awaited any more (R545). -/
def resetSettle (s : State) : State :=
  if s.hlt.resetWait.isEmpty || s.hlt.resetWait.any (resetPends s) then s
  else resetResult (wr { s with hlt := { s.hlt with resetWait := [] } } .hlt F.hlt_RESET_BUSY 0) 0

/-- The parcels of the journaled items that a reset of partition `p` stops. Operations of the traverse that have been sent
wait for their replies. -/
def sentPids (s : State) : List Nat :=
  s.trv.chans.flatMap (fun e => (e.2.filter (fun it => it.started)).map (fun it => it.pid))

/-- The work on one page that a partition owns stops. -/
def stopPage (s : State) (p : Page) (quiet : Nat → Bool) : State :=
  match p with
  | .stn n => stopStation s n quiet
  | .mov k => stopDescs (dropAccept s k) k (fun _ => true) quiet
  | .trc c => stopUnsent s c quiet
  | _ => s

/-- The health and attestation fields of a PTN page that a partition reset returns to their reset values (R572, R598). -/
def ptnResetFields (s : State) (p : Nat) : State :=
  let s1 := [F.ptn_CAP_VIEW, F.ptn_CAP_LATE, F.ptn_INJ_OK, F.ptn_ATTEST_Q, F.ptn_ATTEST_GO, F.ptn_ATTEST_BUSY,
    F.ptn_ATTEST_RESULT, F.ptn_ATTESTS].foldl (fun s f => wr s (.ptn p) f 0) s
  forUpTo F.ptn_NONCE.count (fun k s => wr s (.ptn p) (F.ptn_NONCE.ix k) 0)
    { s1 with mon := { s1.mon with attests := s1.mon.attests.filter (fun e => decide (e.1 ≠ .ptn p)) } }

/-- The BPR pages of the pairs that a partition owns: those of its even stations (R160). -/
def pairPages (s : State) (p : Nat) : List Page :=
  ((List.range 72).filter (fun m => decide (ownerOf s (.stn (2 * m)) = p))).map Page.bpr

/-- A partition is reset (R549, R550): its pages' work stops, journaled items run again under recovery, and its pages, with
those of its pairs, are left quiesced. -/
def resetPartition (s : State) (p : Nat) : State :=
  let sent := sentPids s
  let items := stoppable s p (fun pid => sent.contains pid)
  let quiet (pid : Nat) : Bool := items.any (fun it => decide (it.pid = some pid))
  let pages := ownedPages s p
  let s0 := withdrawAll (dropOwed (dropAllHeld s p) quiet) (servesPtn p)
  let s1 := pages.foldl (fun s x => stopPage s x quiet) s0
  let s2 := items.foldl (fun s it => stopJournaled s p it) s1
  let s3 := setPtn s2 p { ptn s2 p with recovering := false, recoveryDue := true }
  let s4 := (pages ++ pairPages s p).foldl forceQuiesced s3
  lbIdle (ptnResetFields (forceQuiesced s4 (.ptn p)) p) p

end Sys2Proof.Machine
end

