-- ==== Sys2Proof/Machine/Plat.lean ====
section
/-! DEFINITION. The plat: committing a pattern (R324 to R327), frames and rows (R328 to R332), lending (R333, R334),
grants (R319, R339, R340), metered dispatch (R341, R342) and the stake query (R348). -/

namespace Sys2Proof.Machine

/-! ### Committing a pattern (R313 to R320, R324 to R327, R335) -/

/-- A grant where a row of an image names it: its row, its index and its fields. -/
structure GrantAt where
  row : Nat
  idx : Nat
  g : Grant
deriving DecidableEq, Repr

/-- The grants of an image in ascending index, one entry for each row that names it. -/
def imageGrants (s : State) (p : Nat) : List GrantAt :=
  ((List.range 160).flatMap (fun r => (rowGrants s p r).map (fun i => { row := r, idx := i, g := grantOf s p i }))).mergeSort
    (fun a b => decide (a.idx < b.idx) || (decide (a.idx = b.idx) && decide (a.row ≤ b.row)))

/-- A failure of COMMIT: CMD_RESULT, FAIL_ROW and FAIL_INDEX. -/
abbrev Fail := Nat × Nat × Nat

/-- BAD_CELL (R325). -/
def badCell (s : State) (p c : Nat) : Bool :=
  let x := cellOf s p c
  x.valid && (decide (slotLen x.config = 0) || pstate s x.ptn != 1 || qOwner s x.cplQ != x.ptn)

/-- The cell at which the sum of weights passes 640 half-units (R11). -/
def overCell (s : State) (p : Nat) : Option Nat :=
  (List.range 1024).find? (fun c => decide (640 < (List.range (c + 1)).foldl (fun n k =>
    let x := cellOf s p k
    if x.valid then n + cellWeight x.config else n) 0))

/-- Bytes of an image with the bits of a list of fields cleared, as a number. -/
def maskedNat (s : State) (p o n : Nat) (l : List (Nat × Nat)) : Nat :=
  l.foldl (fun a e => setBits a e.1 e.2 0) (imgNat s p o n)

/-- Does a row header break R317: a reserved bit set, or a range that is out of the grant table. An RT_ENGINES field
above 16 is SHARE_RANGE's. -/
def badRow (s : State) (p r : Nat) : Bool :=
  let h := rowOf s p r
  decide (maskedNat s p (0x8000 + 64 * r) 64 [(0, 14), (16, 13), (32, 16), (64, 32), (96, 20)] ≠ 0)
    || decide (4096 < h.count) || decide (16384 < h.first + h.count)

/-- The FP_UNIT indexes of a KIND: first, and one past the last (R29, R318). -/
def kindUnits : Nat → Nat × Nat
  | 1 => (216, 472) | 2 => (472, 536) | 3 => (536, 568) | 4 => (568, 600) | 5 => (600, 616) | 6 => (0, 144)
  | 7 => (0, 144) | _ => (0, 0)

/-- The bits that a grant entry's fields take (R318). -/
def grantBits : List (Nat × Nat) :=
  [(0, 3), (8, 1), (16, 10), (32, 10), (48, 8), (64, 17), (96, 17), (128, 11), (144, 14), (160, 14), (192, 64)]

/-- Does a grant break R318, R320 or R388 (BAD_GRANT). -/
def badGrant (s : State) (p : Nat) (a : GrantAt) : Bool :=
  let g := a.g
  let c := cellOf s p g.cell
  let u := kindUnits g.kind
  let k := slotLen c.config
  decide (maskedNat s p (0x10000 + 32 * a.idx) 32 grantBits ≠ 0) || decide (g.kind = 0)
    || (decide (g.shape = 1) && decide (g.kind ≠ 7)) || decide (62499 < g.startOff) || decide (g.endOff ≤ g.startOff)
    || decide (125000 < g.endOff) || !c.valid || decide (g.unit < u.1) || decide (u.2 ≤ g.unit)
    || (decide (g.kind = 7) && decide (g.unit % 2 = 1)) || decide (160 / k ≤ g.slot)
    || decide (a.row < k * g.slot) || decide (k * g.slot + k ≤ a.row)
    || (decide (2 ≤ g.kind) && decide (g.kind ≤ 5) && (decide (1 < g.entry)
          || (decide (g.entry = 1) && (decide (3 < g.kind) || decide (c.config ≠ 0x04)))
          || (decide (g.entry = 0) && decide (c.config = 0x04))))

/-- Ticks from the start of the frame at which a grant starts and ends. -/
def GrantAt.from_ (a : GrantAt) : Nat := 62500 * a.row + a.g.startOff
/-- See `from_`. -/
def GrantAt.to_ (a : GrantAt) : Nat := 62500 * a.row + a.g.endOff

/-- Do two grants use one unit. -/
def sharesUnit (a b : Grant) : Bool := (grantUnits a).any (fun u => (grantUnits b).contains u)

/-- The spacing G of a grant's unit (R326). -/
def spacing (s : State) (g : Grant) : Nat := if g.kind ≤ 5 then 1000 else gradeLendLead s.part.grade

/-- Is grant `a` too close behind another grant on one of its units, in its own frame or behind the frame before
(R326). -/
def tooClose (s : State) (l : List GrantAt) (a : GrantAt) : Bool :=
  l.any (fun b => decide (b ≠ a) && sharesUnit a.g b.g
    && (((decide (b.from_ < a.from_) || (decide (b.from_ = a.from_) && decide (b.idx < a.idx)))
          && decide (a.from_ < b.to_ + spacing s a.g))
        || decide (a.from_ + 10000000 < b.to_ + spacing s a.g + 1000)))

/-- The stations that are lent in row `r` of an image: those its grants and the spills of the row before name (R320,
R333). -/
def lentIn (l : List GrantAt) (r : Nat) : List Nat :=
  l.flatMap (fun a =>
    if decide (a.row = r) || (decide ((a.row + 1) % 160 = r) && decide (62500 < a.g.endOff)) then grantStations a.g else [])

/-- NOT_LENDABLE (R325, R335). -/
def notLendable (s : State) (l : List GrantAt) (a : GrantAt) : Bool :=
  decide (6 ≤ a.g.kind) && ((grantStations a.g).any (fun m => rd s (.stn m) F.stn_LEND_RES == 0
      || (!(lentIn l ((a.row + 159) % 160)).contains m && decide (a.g.startOff < gradeLendLead s.part.grade)))
    || decide (a.g.entry < 1536) || tooClose s l a)

/-- QUEUE_DENIED (R325). -/
def queueDenied (s : State) (p : Nat) (a : GrantAt) : Bool :=
  let q := (cellOf s p a.g.cell).ptn
  qOwner s a.g.qout != q || (decide (a.g.kind ≤ 5) && qOwner s a.g.qin != q)

/-- SHARE_RANGE of a row header (R325). -/
def shareBad (h : RowHdr) : Bool :=
  (List.range 4).any (fun k => decide (12 < bits h.dst (4 * k) 4) || decide (16 < bits h.rt (5 * k) 5))
    || (List.range 8).any (fun k => decide (12 < bits h.hbm (4 * k) 4))

/-- The stake need of a row: its grants and those of the row before it (R325). -/
def stakeNeed (s : State) (p r : Nat) : Nat := (rowOf s p r).count + (rowOf s p ((r + 159) % 160)).count

/-- The first grant that fails a test, as a failure. -/
def grantFail (l : List GrantAt) (code : Nat) (bad : GrantAt → Bool) : Option Fail :=
  (l.find? bad).map (fun a => (code, a.row, a.idx))

/-- The first row that fails a test, as a failure. -/
def rowFail (code : Nat) (bad : Nat → Bool) : Option Fail := ((List.range 160).find? bad).map (fun r => (code, r, 0))

/-- The checks of COMMIT in the order of R325: the first failure. -/
def commitFail (s : State) (p : Nat) : Option Fail :=
  if committed s p then some (0x1, 0xFF, 0)
  else
    let l := imageGrants s p
    ((List.range 1024).find? (badCell s p)).map (fun c => (0x2, 0xFF, c))
    <|> (overCell s p).map (fun c => (0x3, 0xFF, c))
    <|> rowFail 0x4 (badRow s p)
    <|> grantFail l 0x4 (badGrant s p)
    <|> grantFail l 0x5 (fun a => (grantUnits a.g).any (fun u => !unitUp s u))
    <|> grantFail l 0x6 (fun a => decide (a.g.kind ≤ 5) && tooClose s l a)
    <|> grantFail l 0x7 (notLendable s l)
    <|> grantFail l 0x8 (queueDenied s p)
    <|> grantFail l 0x9 (fun a => !rtReady s (cellOf s p a.g.cell).ptn)
    <|> rowFail 0xA (fun r => shareBad (rowOf s p r))
    <|> rowFail 0xB (fun r => decide (ef s .plt F.plt_STAKE_RT < stakeNeed s p r))

/-- Write a command's result: CMD_RESULT, FAIL_ROW, FAIL_INDEX, BUSY clear, and CMD_DONE (R324, R350). -/
def cmdResult (s : State) (f : Fail) : State :=
  setEvt (wr (wr (wr (wr s .plt F.plt_CMD_RESULT f.1) .plt F.plt_FAIL_ROW f.2.1) .plt F.plt_FAIL_INDEX f.2.2)
    .plt F.plt_BUSY 0) .plt 16

/-- Run a plat command of the manager: CMD_PATTERN is stored, and a command while BUSY is set is ignored and sets
CMD_BUSY (R324). -/
def platCmd (s : State) (f : Func) (v : Nat) (k : State → State) : State :=
  withWrite s f .plt F.plt_CMD v (fun s => if rd s .plt F.plt_BUSY = 1 then setErr s .plt 18 else k s)

/-- PATTERN_COMMIT. -/
def effPatternCommit (f : Func) (p : Nat) (s : State) : State :=
  platCmd s f 1 (fun s =>
    let s1 := wr (wr s .plt F.plt_CMD_PATTERN p) .plt F.plt_BUSY 1
    { s1 with plat := { s1.plat with cmd := some p } })
/-- PATTERN_COMMIT (R324): COMMIT is accepted, BUSY is set and validation of image `p` starts. -/
def execPatternCommit (f : Func) (p : Nat) (s : State) : Host.Outcome State Fault Refusal :=
  act (Instr.patternCommit f p) s (effPatternCommit f p s)

/-- Under injection policy 1, consent ends when a COMMIT succeeds (R593). -/
def withdrawConsent (s : State) : State :=
  if s.mon.injPolicy = 1 then
    { wr s .hlt F.hlt_INJ_GRANTED 0 with hlt := { s.hlt with injEnd := none } }
  else s

/-- COMMIT_VALIDATION. -/
def effCommitValidation (s : State) : State :=
  match s.plat.cmd with
  | none => s
  | some p =>
    let s1 := { s with plat := { s.plat with cmd := none } }
    match commitFail s1 p with
    | some e => cmdResult s1 e
    | none =>
      withdrawConsent (cmdResult { s1 with plat := { s1.plat with committed := mapSet false s1.plat.committed p true } }
        (0x0, 0xFF, 0))
/-- COMMIT_VALIDATION (R325): the checks run in order, and the image becomes COMMITTED or the first failure is
reported. -/
def execCommitValidation (s : State) : Host.Outcome State Fault Refusal :=
  act Instr.commitValidation s (effCommitValidation s)

/-- UNCOMMIT. -/
def effUncommit (f : Func) (p : Nat) (s : State) : State :=
  platCmd s f 2 (fun s =>
    let s1 := wr s .plt F.plt_CMD_PATTERN p
    if !committed s1 p || activePattern s1 == p || ef s1 .plt F.plt_NEXT_PATTERN == p then
      cmdResult s1 (0x1, 0xFF, 0)
    else cmdResult { s1 with plat := { s1.plat with committed := mapSet false s1.plat.committed p false } } (0x0, 0xFF, 0))
/-- UNCOMMIT (R324): a COMMITTED image returns to OPEN, unless it is the active or the next pattern. -/
def execUncommit (f : Func) (p : Nat) (s : State) : Host.Outcome State Fault Refusal :=
  act (Instr.uncommit f p) s (effUncommit f p s)

/-- STOP. -/
def effStop (f : Func) (s : State) : State :=
  platCmd s f 3 (fun s =>
    cmdResult (if platRunning s && !s.plat.stopping then { s with plat := { s.plat with stopReq := true } } else s)
      (0x0, 0xFF, 0))
/-- STOP (R330): takes effect at the next frame boundary. -/
def execStop (f : Func) (s : State) : Host.Outcome State Fault Refusal := act (Instr.stop f) s (effStop f s)

/-- The TRIM of a write of TRIM_ARM (R331). -/
def armTrim (s : State) (trim : Nat) : State :=
  let t := signed 16 trim
  if -1000 ≤ t && t ≤ 1000 then
    let f := if platRunning s && s.plat.row == 159 then s.plat.frame + 1
      else if platRunning s then s.plat.frame else 0
    { wr s .plt F.plt_TRIM_ARM 1 with plat := { s.plat with
        trim := s.plat.trim.filter (fun e => decide (e.1 ≠ f)) ++ [(f, t)] } }
  else setErr s .plt 17

/-- TRIM_ARM. -/
def effTrimArm (f : Func) (trim : Nat) (s : State) : State :=
  withWrite s f .plt F.plt_TRIM_ARM 1 (fun s => armTrim (wr s .plt F.plt_TRIM trim) trim)
/-- TRIM_ARM (R331): the trim of row 159 of the current frame, or of the next one when row 159 has begun. -/
def execTrimArm (f : Func) (trim : Nat) (s : State) : Host.Outcome State Fault Refusal :=
  act (Instr.trimArm f trim) s (effTrimArm f trim s)

/-- The image and offset of an address in the pattern images (R313). -/
def imageAt (addr : Nat) : Option (Nat × Nat) :=
  if 0x0510_0000 ≤ addr && addr < 0x0550_0000 then some ((addr - 0x0510_0000) / 0x10_0000, (addr - 0x0510_0000) % 0x10_0000)
  else none

/-- A write of the manager to a pattern image: ignored and PATTERN_LOCKED while the image is COMMITTED; of another width
or alignment than R62 serves, ignored and ACCESS_WIDTH. -/
def imageWrite (s : State) (p o size value : Nat) : State :=
  if !(size = 4 || size = 8) || o % size ≠ 0 then setErr s .plt 3
  else if committed s p then setErr s .plt 16
  else { s with plat := { s.plat with images := storeBytes s.plat.images (0x100000 * p + o) (natLE size value) } }

/-- PATTERN_IMAGE_WRITE. -/
def effPatternImageWrite (f : Func) (addr size value : Nat) (s : State) : State :=
  match imageAt addr with
  | none => s
  | some (p, o) =>
    match f with
    | .pf => if pageServed s .plt then imageWrite s p o size value else s
    | .vf _ => denyAccess s f
/-- PATTERN_IMAGE_WRITE (R313): the manager writes an OPEN image at a physical function BAR0 address. -/
def execPatternImageWrite (f : Func) (addr size value : Nat) (s : State) : Host.Outcome State Fault Refusal :=
  act (Instr.patternImageWrite f addr size value) s (effPatternImageWrite f addr size value s)

/-- Load STAKE_INFO for a stake number (R348). -/
def loadStake (s : State) (v : Nat) : State :=
  let k := (mapFind s.plat.stakes (v % 65536)).getD { state := 0, ptn := 0, kind := 0 }
  wr (wr (wr (wr s .plt F.plt_STAKE_QUERY v) .plt F.plt_STAKE_STATE k.state) .plt F.plt_STAKE_PTN k.ptn)
    .plt F.plt_STAKE_KIND k.kind

/-- STAKE_QUERY. -/
def effStakeQuery (f : Func) (v : Nat) (s : State) : State :=
  withWrite s f .plt F.plt_STAKE_QUERY v (fun s => loadStake s v)
/-- STAKE_QUERY (R348): loads the state, partition and kind of a stake. -/
def execStakeQuery (f : Func) (v : Nat) (s : State) : Host.Outcome State Fault Refusal :=
  act (Instr.stakeQuery f v) s (effStakeQuery f v s)

/-! ### Lending (R332, R333) -/

/-- The stations that the grants of a row name. -/
def rowStations (s : State) (p r : Nat) : List Nat := (rowGrants s p r).flatMap (fun i => grantStations (grantOf s p i))

/-- The stations into which a row's grants spill (R320). -/
def spillStations (s : State) (p r : Nat) : List Nat :=
  (rowGrants s p r).flatMap (fun i => if 62500 < (grantOf s p i).endOff then grantStations (grantOf s p i) else [])

/-- Return to its owner each station that is no longer lent (R333): order 3 of R332. -/
def returnStations (s : State) (lent : List Nat) : State :=
  let back := (s.stns.filter (fun e => e.2.lent && !lent.contains e.1)).map (fun e => e.1)
  let s1 := back.foldl (fun s m => setStn s m { stn s m with lent := false }) s
  back.foldl resumeStation s1

/-- Send a lend request to each station that becomes lent (R333): order 4 of R332. A station whose LEND_RES is clear is
never lent (R104), and one that is down has lost its work already (R42). -/
def lendStations (s : State) (lent : List Nat) : State :=
  lent.eraseDups.foldl (fun s m =>
    if (stn s m).lent || !unitUp s m || rd s (.stn m) F.stn_LEND_RES = 0 then s
    else
      requestSave (addSat (setStn s m { stn s m with lent := true }) .plt F.plt_LENDS 1) m 1) s

/-- Best-effort descriptors on the engines that the row reserves yield (R323, R239). -/
def takeBackEngines (s : State) : State :=
  s.movs.foldl (fun s e => yieldItems s e.1 (fun g it =>
    decide (it.cfg.cls = 0) && decide (g % 16 < bits (rowOf s (activePattern s) s.plat.row).rt (5 * (g / 16)) 5)) 1) s

/-! ### Metered dispatch (R341, R342) -/

/-- The headroom of the new row: the value published during the row before, or 0, which counts as late (R341). -/
def takeHeadroom (s : State) : State :=
  let s1 := { s with plat := { s.plat with published := none } }
  match s.plat.published with
  | some h => wr s1 .plt F.plt_HEADROOM h
  | none => setEvt (addSat (wr s1 .plt F.plt_HEADROOM 0) .plt F.plt_HEADROOM_LATE 1) .plt 20

/-- Metered partitions by METER_RANK, then by number. -/
def meteredOrder (s : State) : List Nat :=
  ((List.range 64).filter (fun p => ef s (.ptn p) F.ptn_METERED == 1 && pstate s p == 1)).mergeSort
    (fun a b => decide (ef s (.ptn a) F.ptn_METER_RANK < ef s (.ptn b) F.ptn_METER_RANK)
      || (decide (ef s (.ptn a) F.ptn_METER_RANK = ef s (.ptn b) F.ptn_METER_RANK) && decide (a ≤ b)))

/-- The stations of a partition's pool that metering looks at: a joined pair as its even member, none that is lent. -/
def meteredStations (s : State) (p : Nat) : List Nat :=
  (List.range 144).filter (fun m => decide (ownerOf s (.stn m) = p) && decide (seqOf s m = m)
    && (pairMembers s m).all (fun x => !(stn s x).lent))

/-- Does a station hold a running or saved job of its owner. -/
def holdsJob (s : State) (m : Nat) : Bool := (ownerJob (stn s m)).isSome

/-- The procedure of R342. -/
def meteredDispatch (s : State) : State :=
  let ord := meteredOrder s
  let uj (p : Nat) : Int := ef s (.ptn p) F.ptn_METER_STN_UJ
  let all := ord.flatMap (fun p => (meteredStations s p).map (fun m => (p, m)))
  let running := all.filter (fun e => holdsJob s e.2)
  let h0 : Int := (rd s .plt F.plt_HEADROOM : Int) - ef s .plt F.plt_X_HEADROOM_MARGIN
  let h1 := running.foldl (fun h e => h - uj e.1) h0
  let idle := all.filter (fun e => !holdsJob s e.2)
  let r := idle.foldl (fun (x : Int × List (Nat × Nat) × State) e =>
    if uj e.1 ≤ x.1 then (x.1 - uj e.1, x.2.1 ++ [e], x.2.2)
    else (x.1, x.2.1, addSat x.2.2 (.ptn e.1) F.ptn_METER_HELD 1)) (h1, [], s)
  let adm := running ++ r.2.1
  let m := adm.foldl (fun n e => n + ef s (.ptn e.1) F.ptn_METER_STN_UJ) 0
  let s1 := r.2.2
  { s1 with plat := { s1.plat with admitted := adm.map (fun e => e.2) }
            pwr := { s1.pwr with meters := (m :: s1.pwr.meters).take 2 } }

/-! ### Frames and rows (R304, R312, R328 to R332) -/

/-- PLAT_PHASE at a frame's start: T less the frame's nominal instant, in units of 2⁻⁸ ns, saturated; PHASE_ALARM when it
first passes X_PHASE_LIMIT (R304). -/
def recordPhase (s : State) : State :=
  let d := signed 112 ((timeNow s - (s.plat.startNs + s.plat.frame * 10000000) * 2 ^ 48) % 2 ^ 112).toNat
  let q := d / 2 ^ 40 + (if d % 2 ^ 40 = 0 then 0 else ((Config.freeValue s.fresh % 2 : Nat) : Int))
  let v := clampI (-(2 ^ 31)) (2 ^ 31 - 1) q
  let s1 := nextFresh (wr s .mer F.mer_PLAT_PHASE (unsigned 32 v))
  let high := decide (256 * ef s .mer F.mer_X_PHASE_LIMIT < v.natAbs)
  let s2 := { s1 with plat := { s1.plat with phaseHigh := high } }
  if high && !s.plat.phaseHigh then setEvt s2 .mer 20 else s2

/-- A frame starts: ACTIVE_PATTERN takes the value in effect of NEXT_PATTERN, and PLAT_PHASE is recorded (R329, R304). -/
def frameStart (s : State) : State :=
  let n := ef s .plt F.plt_NEXT_PATTERN
  let s1 := if activePattern s = n then s else setEvt (wr s .plt F.plt_ACTIVE_PATTERN n) .plt 17
  recordPhase s1

/-- The rest of a row boundary in the order of R332: sealed groups and a governor level change, returns, lend requests
and engine take-back, metered dispatch. `spill` are the stations that the row before spills into. -/
def rowStart (s : State) (spill : List Nat) : State :=
  let s1 := levelBoundary (applyDue s false)
  let lent := rowStations s1 (activePattern s1) s1.plat.row ++ spill
  let s2 := takeBackEngines (lendStations (returnStations s1 lent) lent)
  let s3 := meteredDispatch (takeHeadroom s2)
  { s3 with plat := { s3.plat with sent := [], rtClear := (List.range 64).filter (fun p => !rtReady s3 p) } }

/-- PLAT_START fires (R328): frame 0 starts at row 0, unless the next pattern is not COMMITTED. DESIGN CHOICE (log entry
75): a quiesced plat, which starts no work (R53, R74), does not start, and START_FAILED, which R328 gives the other case
alone, is not raised. -/
def platStart (s : State) : State :=
  if platRunning s then s
  else if !committed s (ef s .plt F.plt_NEXT_PATTERN) then setEvt s .plt 22
  else if quiesced s .plt then s
  else
    let s1 := wr s .plt F.plt_RUNNING 1
    let s2 := { s1 with
      plat := { s1.plat with
        row := 0, frame := 0, rowStart := s.mer.frc, startTick := s.mer.frc
        startNs := (rd s .mer (F.mer_AT.ix 0) : Int), trims := 0, stopReq := false, stopping := false }
      pwr := { s1.pwr with meters := [] } }
    rowStart (frameStart s2) []

/-- A boundary inside a frame. -/
def nextRow (s : State) : State :=
  let spill := spillStations s (activePattern s) s.plat.row
  rowStart { s with plat := { s.plat with row := s.plat.row + 1, rowStart := (rowEnd s).toNat } } spill

/-- A frame boundary: the trim, STOP, and the change of pattern come first. After STOP no row starts: what row 159 spills
into stays lent. -/
def nextFrame (s : State) : State :=
  let spill := spillStations s (activePattern s) 159
  let e := (rowEnd s).toNat
  let s1 := match s.plat.trim.find? (fun e => decide (e.1 = s.plat.frame)) with
    | some (f, t) =>
      let l := s.plat.trim.filter (fun (d : Nat × Int) => decide (d.1 ≠ f))
      { wr s .plt F.plt_TRIM_ARM (ofBool (!l.isEmpty)) with plat := { s.plat with trim := l, trims := s.plat.trims + t } }
    | none => s
  if s.plat.stopReq then
    let s2 := { s1 with plat := { s1.plat with stopReq := false, stopping := true } }
    returnStations (levelBoundary (applyDue s2 false)) spill
  else
    rowStart (frameStart { s1 with plat := { s1.plat with row := 0, frame := s.plat.frame + 1, rowStart := e } }) spill

/-- ROW_BOUNDARY. -/
def effRowBoundary (s : State) : State :=
  if platRunning s && !s.plat.stopping && decide (rowEnd s ≤ (s.mer.frc : Int)) then
    (if s.plat.row = 159 then nextFrame s else nextRow s)
  else s
/-- ROW_BOUNDARY (R332): the happenings of a row boundary, in their order. -/
def execRowBoundary (s : State) : Host.Outcome State Fault Refusal := act Instr.rowBoundary s (effRowBoundary s)

/-- PLAT_STOPPED. -/
def effPlatStopped (s : State) : State :=
  if platRunning s && s.plat.stopping && s.plat.items.isEmpty && s.plat.slots.isEmpty then
    let s1 := wr s .plt F.plt_RUNNING 0
    let s2 := { s1 with
      plat := { s1.plat with stopping := false, admitted := [], sent := [], rtClear := [] }
      pwr := { s1.pwr with meters := [] } }
    applyDue (returnStations (setEvt s2 .plt 21) []) true
  else s
/-- PLAT_STOPPED (R330): the last grant of row 159 has completed after a STOP. No station is admitted from then on (R612). -/
def execPlatStopped (s : State) : Host.Outcome State Fault Refusal := act Instr.platStopped s (effPlatStopped s)

/-! ### Grants (R319, R334, R339, R340) -/

/-- Does station `m` hold a lent run or wait for one. -/
def lentBusy (s : State) (m : Nat) : Bool :=
  [m, m - 1].eraseDups.any (fun n =>
    (match (stn s n).job with
      | some j => j.lent.isSome && (members n j).contains m
      | none => false)
    || (match (stn s n).lentPending with
      | some (k, _) => match itemOfStake s k with
        | some w => (grantStations (grantOf s w.pattern w.grant)).contains m
        | none => false
      | none => false))

/-- The 64 bytes of the lent job parcel of a grant (R334, R535). -/
def lentParcel (g : Grant) (frame : Nat) : List Byte :=
  natLE 2 g.entry ++ natLE 6 0 ++ natLE 4 g.arg ++ natLE 4 (g.arg / 2 ^ 32) ++ natLE 4 frame
    ++ natLE 4 (g.slot + 65536 * g.cell) ++ natLE 16 0 ++ natLE 2 g.qout ++ natLE 6 0 ++ natLE 16 0

/-- Is the unit of a grant of KIND 1 to 5 free for a new item: no item, not zeroing, and not quiesced (R74, R379). -/
def unitFree (s : State) (g : Grant) : Bool :=
  if g.kind = 1 then
    (ten s (g.unit - 216)).item.isNone && !(ten s (g.unit - 216)).zeroing && !heldBlock s (.ten (g.unit - 216))
  else (cdu s (g.unit - 472)).item.isNone && !heldBlock s (.cdu (g.unit - 472))

/-- Has the unit of a work item taken it. -/
def itemStarted (s : State) (w : WorkItem) (g : Grant) : Bool :=
  if g.kind = 1 then decide ((ten s (g.unit - 216)).item = some w)
  else if g.kind ≤ 5 then decide ((cdu s (g.unit - 472)).item = some w)
  else
    (match (stn s g.unit).job with
      | some j => j.lent.isSome && decide (j.stake = w.stake)
      | none => false)
    || (match (stn s g.unit).lentPending with
      | some (k, _) => decide (k = w.stake)
      | none => false)

/-- Hand a work item to its unit: at once where the unit is free, a station's as the lent job parcel that waits for it. An
item whose unit is down ends with SLOT_DROPPED (R41, R45). -/
def startItem (s : State) (w : WorkItem) (g : Grant) : State :=
  if (grantUnits g).any (fun u => !unitUp s u) then
    endWork s w 0x08 ((grantUnits g).any (fun u => !unitUp s u && unitInjected s u))
  else if g.kind ≤ 5 then
    if unitFree s g && decide (w.rowStart + g.startOff ≤ s.mer.frc) then
      (if g.kind = 1 then engineStart s (g.unit - 216) g w else cduStart s (g.unit - 472) g w)
    else s
  else if (grantStations g).any (lentBusy s) then s
  else setStn s g.unit { stn s g.unit with lentPending := some (w.stake, lentParcel g w.frame) }

/-- A grant of the current row is dispatched: its slot begins, it takes a latency-critical stake, and its work item is
handed to its unit (R319, R338). A down unit or a clear RT_READY ends it at START_OFF with SLOT_DROPPED (R339). -/
def dispatch (s : State) (i : Nat) : State :=
  let p := activePattern s
  let g := grantOf s p i
  let down := (grantUnits g).any (fun u => !unitUp s u)
  let drop := down || s.plat.rtClear.contains (cellOf s p g.cell).ptn
  let mark (s : State) : State := { s with plat := { s.plat with sent := i :: s.plat.sent } }
  if (g.kind ≤ 5 || drop) && s.mer.frc < s.plat.rowStart + g.startOff then s
  else if drop then
    settleGrant (mark (slotBegin s p s.plat.frame g.cell g.slot)) g.cell g.slot s.plat.frame i 0x08
      ((grantUnits g).any (fun u => !unitUp s u && unitInjected s u))
  else
    let s1 := slotBegin s p s.plat.frame g.cell g.slot
    match takeStake s1 lcAcct 3 with
    | none => s
    | some (k, s2) =>
      let w : WorkItem := { grant := i, pattern := p, frame := s.plat.frame, row := s.plat.row, rowStart := s.plat.rowStart,
                            stake := k, done := none }
      let s3 := mark { s2 with plat := { s2.plat with items := s2.plat.items ++ [w] } }
      startItem s3 w g

/-- A work item of grant `i` that its unit could not take yet is handed to it again. -/
def startAgain (s : State) (i : Nat) : State :=
  (s.plat.items.filter (fun w => decide (w.grant = i))).foldl (fun s w =>
    let g := grantOf s w.pattern i
    if itemStarted s w g then s else startItem s w g) s

/-- GRANT_DISPATCH. -/
def effGrantDispatch (i : Nat) (s : State) : State :=
  if !platRunning s then s
  else
    let s1 := startAgain s i
    if s.plat.stopping || s.plat.sent.contains i || !(rowGrants s (activePattern s) s.plat.row).contains i then s1
    else dispatch s1 i
/-- GRANT_DISPATCH (R319): grant `i` of the active pattern is dispatched in its row, KIND 1 to 5 at START_OFF and a
station's as soon as the row begins; an item that its unit could not take yet is handed to it again. -/
def execGrantDispatch (i : Nat) (s : State) : Host.Outcome State Fault Refusal :=
  act (Instr.grantDispatch i) s (effGrantDispatch i s)

/-- The lent run of a work item, if a station runs it. -/
def lentRun (s : State) (w : WorkItem) (g : Grant) : Option Job :=
  match (stn s g.unit).job with
  | some j => if j.lent.isSome && decide (j.stake = w.stake) then some j else none
  | none => none

/-- Stop a work item with GRANT_OVERRUN (R319, R340). -/
def overrunItem (s : State) (w : WorkItem) (g : Grant) : State :=
  if !itemStarted s w g then endWork s w 0x8F false
  else if g.kind = 1 then engineFinish s (g.unit - 216) 0x8F false
  else if g.kind ≤ 5 then cduFinish s (g.unit - 472) 0x8F false
  else match lentRun s w g with
    | some j => resumeOwner (dropRun s g.unit 0x8F) g.unit j
    | none => endWork (setStn s g.unit { stn s g.unit with lentPending := none }) w 0x8F false

/-- Has the lent run of a work item ended before, with a status of its own, so that no overrun stops it (R20, R95). -/
def runEnded (s : State) (w : WorkItem) (g : Grant) : Bool :=
  decide (6 ≤ g.kind) && (lentRun s w g).isSome && (stn s g.unit).ended.isSome

/-- GRANT_OVERRUN. -/
def effGrantOverrun (i : Nat) (s : State) : State :=
  match s.plat.items.find? (fun w =>
      decide (w.grant = i) && decide (w.rowStart + (grantOf s w.pattern i).endOff ≤ s.mer.frc)) with
  | none => s
  | some w =>
    let g := grantOf s w.pattern i
    let s1 := overrunItem s w g
    if runEnded s w g then s1 else bumpHealth (setEvt (addSat s1 .plt F.plt_GRANT_OVERRUNS 1) .plt 19) 7 false
/-- GRANT_OVERRUN (R319): a work item that has not completed by END_OFF is stopped, and completes with
GRANT_OVERRUN. -/
def execGrantOverrun (i : Nat) (s : State) : Host.Outcome State Fault Refusal :=
  act (Instr.grantOverrun i) s (effGrantOverrun i s)

/-- Is a station free for a lent run: lent, up, holding no run, and not being zeroed or carried to. -/
def lentFree (s : State) (m : Nat) : Bool :=
  let st := stn s m
  st.lent && unitUp s m && st.zeroLend.isNone && !st.zeroStore && !st.carry
    && [m, m - 1].eraseDups.all (fun n => match (stn s n).job with
      | some j => !(members n j).contains m
      | none => true)

/-- The job of a lent run (R334): MODE 1, output queue handle 0 from QOUT, no completion parcel. -/
def lentJob (i p stake shape qout : Nat) : Job :=
  { ptn := p, q := 0, pid := none, stake := stake, nameIdx := 0, cplEn := false, tag := 0, cplQ := 0,
    qh := [qout, 0, 0, 0], mode := 1, shape := shape, lent := some i }

/-- LENT_JOB_START. -/
def effLentJobStart (n : Nat) (s : State) : State :=
  match (stn s n).lentPending with
  | none => s
  | some (k, b) =>
    match itemOfStake s k with
    | none => s
    | some w =>
      let g := grantOf s w.pattern w.grant
      let ms := grantStations g
      if ms.all (lentFree s) then
        let p := (cellOf s w.pattern g.cell).ptn
        let s1 := ms.foldl (fun s m =>
          let st := stn s m
          let z := if st.lentPtn = some p then st else zeroLendData st
          setStn s m { z with lentPtn := some p }) s
        let s2 := setStn s1 n { stn s1 n with lentPending := none }
        startRun s2 n (lentJob w.grant p w.stake (if g.kind = 7 then 1 + g.shape else 0) (bits (leAt b 40 2) 0 14))
          (bits (leAt b 0 2) 0 11) (forUpTo 8 (fun k m => mapSet 0 m k (leAt b (8 + 4 * k) 4)) [])
      else s
/-- LENT_JOB_START (R334): the lent station takes the lent job parcel, zeroing the lend region first when the last lent run
was another partition's (R104). -/
def execLentJobStart (n : Nat) (s : State) : Host.Outcome State Fault Refusal :=
  act (Instr.lentJobStart n) s (effLentJobStart n s)

end Sys2Proof.Machine
end

