-- ==== Sys2Proof/Machine/Resets.lean ====
section
/-! DEFINITION. Training, the resets and what condemns a unit at run time: the boot chain and the floor plan record (R32 to
R38, R541 to R543, R574 to R576, R592), the five reset levels (R545 to R553), and the watchdogs (R31, R113). -/

namespace Sys2Proof.Machine

/-! ### The PCIe functions and the link (R508, R543) -/

/-- Device ID: of the physical function, or of a virtual one (R508). -/
def pciDeviceId : Func → Nat
  | .pf => 0x5A44
  | .vf _ => 0x5A45

/-- Vendor ID: the identifier that PCI-SIG assigned to Ralox (R508). -/
def pciVendorId : Nat := Config.raloxVendor % 2 ^ 16

/-- TotalVFs (R508). -/
def totalVfs : Nat := 64
/-- First VF Offset (R508). -/
def firstVfOffset : Nat := 1
/-- VF Stride (R508). -/
def vfStride : Nat := 1

/-- The routing identifier of a function whose physical function has identifier `pf`: with First VF Offset and VF Stride 1, virtual
function v lies v behind it, which for 64 of them takes ARI (R508). -/
def routingId (pf : Nat) : Func → Nat
  | .pf => pf
  | .vf v => pf + firstVfOffset + vfStride * (v - 1)

/-- MSI-X vectors of a function (R508). -/
def msixVectors : Func → Nat
  | .pf => 2048
  | .vf _ => 64

/-- The size in bytes of BAR0 and of BAR2 of a function (R508). -/
def barSizes : Func → Nat × Nat
  | .pf => (2 ^ 28, 2 ^ 36)
  | .vf _ => (2 ^ 22, 2 ^ 30)

/-- Did the link train at 32 or 64 GT/s with a width of 8 or 16 (R543). LINK_SPEED 5 is 32 GT/s and 6 is 64 GT/s (R540). -/
def linkOk (speed width : Nat) : Bool := (speed == 5 || speed == 6) && (width == 8 || width == 16)

/-- Do the LINK fields show such a link. -/
def linkGood (s : State) : Bool := linkOk (rd s .hif F.hif_LINK_SPEED) (rd s .hif F.hif_LINK_WIDTH)

/-- Store what the link trained at. -/
def storeLink (s : State) (speed width : Nat) : State :=
  wr (wr s .hif F.hif_LINK_SPEED speed) .hif F.hif_LINK_WIDTH width

/-! ### The floor plan record at a cold boot (R32 to R38) -/

/-- Is a training failure with this CAUSE one that the unit's class can have (R31, R541). -/
def trainCause (u c : Nat) : Bool :=
  if u < 144 then c == 1 || c == 2
  else if 208 ≤ u && u < 216 then c == 6
  else if u < 616 then c == 8
  else if u < 712 then c == 2 || c == 5 else false

/-- Does training run on a unit: neither the fuses nor the field defect region mark it bad (R33). -/
def trains (s : State) (u : Nat) : Bool := !s.part.fuseBad.contains u && (fdrFind s u).isNone

/-- The cause with which a unit fails the training of this boot, if it does. -/
def failsTraining (s : State) (env : BootEnv) (u : Nat) : Option Nat :=
  if trains s u then (env.trainFail.find? (fun e => decide (e.1 = u) && trainCause u e.2)).map (fun e => e.2) else none

/-- Append the entry of a unit that failed training; an entry of which only the first programming step was made is torn
(R37). -/
def appendTrain (s : State) (u cause : Nat) (torn : Bool) : State :=
  if torn then
    let i := lowestFree 0 s.fp.fdr
    if i < 1024 then
      { s with fp := { s.fp with fdr := mapPut s.fp.fdr i (fdrEntry u 0 cause s.mon.bootCount) } }
    else s
  else (fdrAppend s u 1 cause).2

/-- The FP_UNIT entry of a unit at readiness (R30, R32): the fuses, the field defect region and this boot's training. -/
def bootEntry (s : State) (env : BootEnv) (old : State) (u : Nat) : Nat :=
  let fuse := s.part.fuseBad.contains u
  let train := failsTraining old env u
  let field := fdrFind s u
  let cause := match train, field with
    | some c, _ => c
    | none, some i => bits (mapGet 0 s.fp.fdr i) 12 6
    | none, none => 0
  if fuse || train.isSome || field.isSome then
    1 + 4 * ofBool fuse + 8 * ofBool train.isSome + 16 * ofBool field.isSome
      + 2 ^ 16 * (field.getD 0) + 2 ^ 26 * cause
  else 0

/-- Steps 1 to 4 of R34: the fuses, the region, training, and an entry for each failed unit in ascending index order. -/
def buildRecord (s : State) (env : BootEnv) : State :=
  let s1 := { s with fp := { FloorPlan.reset with fdr := s.fp.fdr } }
  let s2 := forUpTo 712 (fun u s => match failsTraining s1 env u with
    | some c => appendTrain s u c (env.fdrTear.contains u)
    | none => s) s1
  { s2 with fp := { s2.fp with
    units := (List.range 712).foldl (fun m u => mapSet 0 m u (bootEntry s2 env s1 u)) [] } }

/-- The pooled locations after a cold reset (R544): those of the ENABLED units. -/
def bootLocs (s : State) : NMap Locations :=
  resetLocs.filter (fun e => if e.1 < 64 then unitUp s (144 + e.1) else unitUp s (208 + (e.1 - 64)))

/-! ### The boot chain (R574 to R576, R592) -/

/-- The security version that the ROM finds on a flash slot: what the last update wrote, or what the part came with. -/
def slotSvnOf (s : State) (env : BootEnv) (k : Nat) : Nat := (mapFind s.mon.slotSvn k).getD (env.svn.getD k 0)

/-- Do the images of a slot pass the checks of steps 2 and 3: what a firmware update wrote there has passed that of the signature
(R575, R595). -/
def slotPasses (s : State) (env : BootEnv) (k : Nat) : Bool :=
  ((mapFind s.mon.slotImage k).isSome || env.slotOk.getD k false) && decide (s.mon.svnFused ≤ slotSvnOf s env k)

/-- The digest of image `i` of a slot, by which M0 to M4 are extended (R574). -/
def slotDigest (s : State) (env : BootEnv) (k i : Nat) : List Byte :=
  match mapFind s.mon.slotImage k with
  | some b => fitBytes 32 (Config.sm3 (Config.slotPart i b))
  | none => natLE 32 (env.digests.getD (5 * k + i) 0)

/-- The slot that boots (R575): the one to try first, or once the other. -/
def bootable (s : State) (env : BootEnv) : Option Nat :=
  let k := s.mon.nextSlot % 2
  if slotPasses s env k then some k else if slotPasses s env (1 - k) then some (1 - k) else none

/-- Extend a measurement register: M ← SM3(M ‖ digest) (R576). -/
def extendM (s : State) (k : Nat) (digest : List Byte) : State :=
  let old := (List.range 8).flatMap (fun i => natLE 4 (rd s .mon (F.mon_M.ix (8 * k + i))))
  let v := Config.sm3 (old ++ digest)
  forUpTo 8 (fun i s => wr s .mon (F.mon_M.ix (8 * k + i)) (leAt v (4 * i) 4)) s

/-- The extensions of a list that name one of the registers `lo` to `hi`, in order (R576). -/
def extendAll (s : State) (lo hi : Nat) (l : List (Nat × Nat)) : State :=
  l.foldl (fun s e => if lo ≤ e.1 && e.1 ≤ hi then extendM s e.1 (natLE 32 e.2) else s) s

/-- The entry of the debug record that is complete (R590 step 6): ERASE_STARTED, ERASE_DONE, SCOPE, BOOT_COUNT, FRC[63:16]
at acceptance. -/
def debugEntry (s : State) : Nat :=
  3 + 2 ^ 2 * (s.mon.eraseScope % 8) + 2 ^ 5 * (s.mon.bootCount % 2 ^ 16) + 2 ^ 21 * bits s.mon.eraseTick 16 48

/-- Step 6 of R590: the entry that has no ERASE_DONE yet is programmed. At boot, the ROM so finishes an interrupted debug erase
(R592); that it still finds what the entry is to hold is the model's choice (log entry 172). -/
def finishRecord (s : State) : NMap Nat := s.mon.debugRecord.map (fun e => if bitAt e.2 1 then e else (e.1, debugEntry s))

/-- DEVICE_ID: the first 16 bytes of SM3 over the DIK public key (R580). -/
def deviceIdOf : Nat := leAt (Config.sm3 Config.dikPublic) 0 16

/-! ### Cold device reset (R541, R549) -/

/-- What a cold device reset leaves: the part, the field defect region, the debug record and Monument's nonvolatile store,
what lies outside the device, and the commands that wait. The core rails take the voltage of the rated clock (R605). -/
def coldState (s : State) (cause : Nat) : State :=
  let m : Monument := { Monument.reset with
    bootCount := s.mon.bootCount, lastFmSeq := s.mon.lastFmSeq, anchors := s.mon.anchors, injPolicy := s.mon.injPolicy,
    debugRecord := s.mon.debugRecord, svnFused := s.mon.svnFused, slotSvn := s.mon.slotSvn, slotImage := s.mon.slotImage,
    nextSlot := s.mon.nextSlot, draws := s.mon.draws, keyGen := s.mon.keyGen, dskGen := s.mon.dskGen
    eraseScope := s.mon.eraseScope, eraseTick := s.mon.eraseTick }
  let t : State := { State.reset with
    pending := s.pending, part := s.part, hostMem := s.hostMem, emitted := s.emitted, fresh := s.fresh, mon := m
    fp := { FloorPlan.reset with fdr := s.fp.fdr }
    pwr := { Power.reset with pwrok := s.pwr.pwrok, perst := s.pwr.perst } }
  setRails (wr (wr t .hlt F.hlt_LAST_RESET 5) .hlt F.hlt_LAST_CAUSE cause) 0

/-- The boot chain (R574 to R576): BOOT_COUNT, the slot, M0 to M4, the keys; FALLBACK once the first slot has failed, and with no
slot that passes, RECOVERY. What a failed slot extended stays in the measurements. -/
def bootChain (s : State) (env : BootEnv) : State :=
  let s1 := { s with mon := { s.mon with
    bootCount := satTo 0xFFFF (s.mon.bootCount + 1), debugRecord := finishRecord s } }
  match bootable s1 env with
  | none => extendAll (wr { s1 with stage := .recovery, mon := { s1.mon with bootSlot := 1 - s1.mon.nextSlot % 2 } }
      .mon F.mon_FALLBACK 1) 0 4 env.lost
  | some k =>
    let s2 := { s1 with mon := { s1.mon with
      bootSlot := k, slotSvn := mapPut s1.mon.slotSvn k (slotSvnOf s1 env k), dskGen := s1.mon.dskGen + 1
      dsk := fitBytes 32 (Config.randomBytes s1.mon.draws), draws := s1.mon.draws + 1, deviceId := deviceIdOf } }
    let fell := decide (k ≠ s1.mon.nextSlot % 2)
    let s3 := wr (if fell then extendAll s2 0 4 env.lost else s2) .mon F.mon_FALLBACK (ofBool fell)
    let s4 := extendAll (forUpTo 5 (fun i s => extendM s i (slotDigest s env k i)) s3) 6 7 env.microcode
    let s5 := buildRecord s4 env
    { s5 with locs := bootLocs s5 }

/-- May a reset request reach the part through RESET_GO: the HLT page is served, and no reset is busy (R545). -/
def resetOpen (s : State) : Bool := pageServed s .hlt && rd s .hlt F.hlt_RESET_BUSY == 0

/-- COLD_DEVICE_RESET. -/
def effColdDeviceReset (cause : Nat) (env : BootEnv) (s : State) : State :=
  if cause = 0 && resetOpen s then bootChain (coldState s 0) env
  else if cause = 3 || cause = 4 || cause = 5 then
    let s1 := coldState s cause
    bootChain { s1 with pwr := { s1.pwr with
      pwrok := s1.pwr.pwrok || cause == 3, perst := s1.pwr.perst || cause == 4 } } env
  else s
/-- COLD_DEVICE_RESET (R541, R545, R549, R574): `cause` is that of LAST_CAUSE, from RESET_GO (0), power-on (3), the
assertion of PERST# (4) or Monument (5); `env` is what the boot finds in flash and in training. -/
def execColdDeviceReset (cause : Nat) (env : BootEnv) (s : State) : Host.Outcome State Fault Refusal :=
  act (Instr.coldDeviceReset cause env) s (effColdDeviceReset cause env s)

/-- PWROK_DEASSERT. -/
def effPwrokDeassert (s : State) : State :=
  let s1 := coldState s 3
  emit { s1 with pwr := { s1.pwr with pwrok := false } } (.pin "RAIL_GROUPS_2_TO_5" false)
/-- PWROK_DEASSERT (R606): a cold device reset; the part draws no more from the rails of groups 2 to 5, and boots at the
next power-on. -/
def execPwrokDeassert (s : State) : Host.Outcome State Fault Refusal := act Instr.pwrokDeassert s (effPwrokDeassert s)

/-- PERST_DEASSERT. -/
def effPerstDeassert (s : State) : State := { s with pwr := { s.pwr with perst := false } }
/-- PERST_DEASSERT (R541): the training sequence may end only once PERST# is released. -/
def execPerstDeassert (s : State) : Host.Outcome State Fault Refusal := act Instr.perstDeassert s (effPerstDeassert s)

/-! ### Readiness (R542, R543, R562, R563, R595) -/

/-- Is a unit ENABLED, or condemned by an injected fault: the grade counts no injected condemnation (R562). -/
def upOrInjected (s : State) (u : Nat) : Bool := unitUp s u || unitInjected s u

/-- A health counter of kind `k`. -/
def kindOf (s : State) (f : Fld) (k : Nat) : Nat := rd s .hlt (f.ix k)

/-- The candidate grade (R562). -/
def candidateGrade (s : State) : Nat :=
  let hour := kindOf s F.hlt_K_HOUR
  let day := kindOf s F.hlt_K_DAY
  if ((List.range 144).filter (upOrInjected s)).length < 128 || (List.range 8).any (fun h => !upOrInjected s (208 + h))
      || ef s .hlt F.hlt_X_COND_DAY ≤ day 4 || ef s .hlt F.hlt_X_UE_HOUR ≤ hour 1 then 3
  else if 1 ≤ day 4 || 1 ≤ day 1 || ef s .hlt F.hlt_X_LINK_HOUR ≤ hour 3 || 1 ≤ hour 6 then 2
  else if ef s .hlt F.hlt_X_CE_HOUR ≤ hour 0 || 1 ≤ hour 2 || 1 ≤ day 10 || ef s .hlt F.hlt_X_THROTTLE_HOUR ≤ hour 11 then 1
  else 0

/-- The first READY of an image raises SVN_FUSED to its SVN (R595). -/
def raiseSvn (s : State) : State :=
  { s with mon := { s.mon with svnFused := max s.mon.svnFused (mapGet 0 s.mon.slotSvn s.mon.bootSlot) } }

/-- At READY after a cold reset, GRADE takes the candidate at once and the health windows begin (R560, R563). -/
def firstGrade (s : State) : State :=
  let c := candidateGrade s
  let s1 := wr (wr (wr s .hlt F.hlt_CANDIDATE c) .hlt F.hlt_GRADE c) .hlt F.hlt_GRADE_SINCE s.mer.frc
  { s1 with hlt := { s1.hlt with openTick := some s.mer.frc } }

/-- READY is set (R542). -/
def setReady (s : State) : State := setEvt { s with stage := .ready } .hlt 16

/-- READY stays clear: LINK_LOW is set and reported (R543). -/
def linkLow (s : State) : State :=
  emit (setErr (wr { s with stage := .training } .hlt F.hlt_LINK_LOW 1) .hlt 16) (.pldm "LINK_LOW")

/-- May the training sequence end: power is good, PERST# is released, and it has not ended yet. -/
def trainingOpen (s : State) : Bool :=
  decide (s.stage = .training) && s.pwr.pwrok && !s.pwr.perst && rd s .hlt F.hlt_LINK_LOW == 0

/-- TRAINING_COMPLETE. -/
def effTrainingComplete (speed width ms : Nat) (flit : Bool) (s : State) : State :=
  if trainingOpen s then
    let fresh := s.fp.gen == 1
    let s1 := if fresh then { s with fp := { s.fp with gen := 2 } } else s
    let s2 := wr (wr (storeLink s1 speed width) .hif F.hif_FLIT (ofBool flit)) .hlt F.hlt_TRAIN_MS (satTo 0xFFFF ms)
    if linkGood s2 then
      let s3 := raiseSvn s2
      setReady (if fresh then firstGrade s3 else s3)
    else linkLow s2
  else s
/-- TRAINING_COMPLETE (R27, R34, R542, R543): the record is published, and READY is set if the link trained at 32 or 64 GT/s
with a width of 8 or 16. `ms` is the length of the sequence. -/
def execTrainingComplete (speed width ms : Nat) (flit : Bool) (s : State) : Host.Outcome State Fault Refusal :=
  act (Instr.trainingComplete speed width ms flit) s (effTrainingComplete speed width ms flit s)

/-- Are configuration requests answered normally: READY is set, or clear for a poor link (R543). -/
def configServed (s : State) : Bool :=
  match s.stage with
  | .ready => true
  | .training => rd s .hlt F.hlt_LINK_LOW == 1
  | _ => false

/-- CONFIG_REQUEST. -/
def effConfigRequest (numVfs : Option Nat) (s : State) : State :=
  if configServed s then
    emit (match numVfs with
      | some n => if n ≤ totalVfs then wr s .hif F.hif_NUM_VFS n else s
      | none => s) .configOk
  else emit s .retryStatus
/-- CONFIG_REQUEST (R508, R543): answered with Request Retry Status until READY; `numVfs` is the value of a write of the
SR-IOV NumVFs. -/
def execConfigRequest (numVfs : Option Nat) (s : State) : Host.Outcome State Fault Refusal :=
  act (Instr.configRequest numVfs) s (effConfigRequest numVfs s)

/-- LINK_RETRAIN. -/
def effLinkRetrain (speed width : Nat) (s : State) : State :=
  if configServed s then
    let low := decide (speed < rd s .hif F.hif_LINK_SPEED) || decide (width < rd s .hif F.hif_LINK_WIDTH)
    let s1 := storeLink s speed width
    if low then setEvt s1 .hlt 21 else s1
  else s
/-- LINK_RETRAIN (R543): once the link has trained, well or poorly, a lower speed or width raises LINK_CHANGE. -/
def execLinkRetrain (speed width : Nat) (s : State) : Host.Outcome State Fault Refusal :=
  act (Instr.linkRetrain speed width) s (effLinkRetrain speed width s)

/-! ### Station, cluster and partition resets (R545 to R550) -/

/-- The operands of a RESET_GO are stored, and the reset runs unless RESET_BUSY is set (R545). -/
def resetGo (s : State) (level target : Nat) (k : State → State) : State :=
  if resetOpen s then k (wr (wr s .hlt F.hlt_RESET_LEVEL level) .hlt F.hlt_RESET_TARGET target) else s

/-- A reset is refused, as a quiesce is (R76, R546): QUIESCE_REFUSED on the pages of what the committed plat uses. -/
def resetRefused (s : State) (ps : List Page) : State := resetResult (ps.foldl (fun s p => setErr s p 6) s) 1

/-- The stations that a reset of station `m` reaches. -/
def reachedBy (s : State) (m : Nat) : List Nat := if pairJoined s m then [2 * (m / 2), 2 * (m / 2) + 1] else [m]

/-- The parcels of the jobs and descriptors that a reset of station `m` would stop. -/
def stationPids (s : State) (m : Nat) : List Nat :=
  (runsOn s m).flatMap (fun n =>
    (match (stn s n).job with
      | some j => j.pid.toList
      | none => [])
    ++ (match (stn s n).saved with
      | some r => r.job.pid.toList
      | none => []))
  ++ s.movs.flatMap (fun e => (e.2.items.filter (fun it => !it.isFinished && descUses m it)).map (fun it => it.pid))

/-- The partitions with a journaled item among the parcels: a reset that stops them is a reset of those partitions
(R548). -/
def escalated (s : State) (pids : List Nat) : List Nat :=
  (List.range 64).filter (fun p => (ptn s p).items.any (fun it => it.journal && decide (it.lb = .accepted)
    && (match it.pid with
      | some k => pids.contains k
      | none => false)))

/-- Would a reset of the partition be refused (R546): the committed plat holds a cell of it, or uses a unit of a page it
owns. -/
def partitionUsed (s : State) (p : Nat) : Bool :=
  cellCommitted s p || (List.range 144).any (fun m => decide (ownerOf s (.stn m) = p) && unitUsed s m)

/-- A reset of one station of those reached: its work ends, and its page, with a joined pair's, is left quiesced (R547, R549,
R550). -/
def resetStation (s : State) (m : Nat) : State :=
  let none_ (_ : Nat) : Bool := false
  let s1 := stopStation (stopWindow s m none_) m none_
  let s2 := forceQuiesced s1 (.stn m)
  if pairJoined s2 m then forceQuiesced s2 (.bpr (m / 2)) else s2

/-- The reset of a set of stations: refused, or escalated to their items' partitions, or done. -/
def resetStations (s : State) (ms : List Nat) : State :=
  if ms.any (unitUsed s) then resetRefused s ((ms.filter (unitUsed s)).map Page.stn)
  else
    let ps := escalated s (ms.flatMap (stationPids s))
    if ps.any (partitionUsed s) then resetRefused s ((ps.filter (partitionUsed s)).map Page.ptn)
    else
      let s1 := ps.foldl resetPartition s
      resetMade (wr (ms.foldl resetStation s1) .hlt F.hlt_ESCALATED (ofBool (!ps.isEmpty))) ps

/-- Reset station `n` (R549). -/
def stationReset (s : State) (n : Nat) : State :=
  resetGo s 1 n (fun s =>
    if 144 ≤ n then resetResult s 2
    else if !unitUp s n then resetResult s 4
    else resetStations s (reachedBy s n))

/-- STATION_RESET. -/
def effStationReset (n : Nat) (s : State) : State := stationReset s n
/-- STATION_RESET (R545 to R550): a RESET_GO of level 1 with RESET_TARGET `n`. -/
def execStationReset (n : Nat) (s : State) : Host.Outcome State Fault Refusal :=
  act (Instr.stationReset n) s (effStationReset n s)

/-- The self-check of a station after a cluster reset: a mismatch condemns under cause 0x07 (R549). -/
def clusterCheck (s : State) (failing : List Nat) (m : Nat) : State :=
  if unitUp s m then
    let s1 := setStn s m { stn s m with array := 0 }
    if failing.contains m then condemn s1 m 0x07 false else s1
  else s

/-- Reset cluster `c` (R549), its six stations and its three pairs; `failing` are the stations whose self-check finds a
mismatch. -/
def clusterReset (s : State) (c : Nat) (failing : List Nat) : State :=
  let ms := (List.range 6).map (fun k => 6 * c + k)
  resetGo s 2 c (fun s =>
    if 24 ≤ c then resetResult s 2
    else if !ms.any (unitUp s) then resetResult s 4
    else
      let s1 := resetStations s ms
      if rd s1 .hlt F.hlt_RESET_RESULT = 1 then s1
      else ms.foldl (fun s m => clusterCheck s failing m)
        (forUpTo 3 (fun k s => forceQuiesced s (.bpr (3 * c + k))) s1))

/-- CLUSTER_RESET. -/
def effClusterReset (c : Nat) (failing : List Nat) (s : State) : State := clusterReset s c failing
/-- CLUSTER_RESET (R545 to R550): a RESET_GO of level 2 with RESET_TARGET `c`. -/
def execClusterReset (c : Nat) (failing : List Nat) (s : State) : Host.Outcome State Fault Refusal :=
  act (Instr.clusterReset c failing) s (effClusterReset c failing s)

/-- Reset partition `p` (R546, R549). -/
def partitionReset (s : State) (p : Nat) : State :=
  resetGo s 3 p (fun s =>
    if 64 ≤ p then resetResult s 2
    else if pstate s p ≠ 1 then resetResult s 4
    else if partitionUsed s p then resetRefused s [.ptn p]
    else resetMade (wr (resetPartition s p) .hlt F.hlt_ESCALATED 0) [p])

/-- PARTITION_RESET. -/
def effPartitionReset (p : Nat) (s : State) : State := partitionReset s p
/-- PARTITION_RESET (R545, R546, R549, R550): a RESET_GO of level 3 with RESET_TARGET `p`. -/
def execPartitionReset (p : Nat) (s : State) : Host.Outcome State Fault Refusal :=
  act (Instr.partitionReset p) s (effPartitionReset p s)

/-! ### Warm device reset (R551 to R553) -/

/-- Does the stored value at a bit address survive a warm device reset (R551): the block fields of the PTN, HLT and MON
pages, the MER page (R290), the power window (R609), the HIF's LINK fields and NUM_VFS, and REPLAY_SINCE (R484). -/
def survivesWarm (k : Nat) : Bool :=
  let a := k / 8
  let blockOf (b : Nat) : Bool := decide (b + 0x40 ≤ a) && decide (a < b + 0x1000)
  let word (p : Page) (o : Nat) : Bool := decide (a / 4 * 4 = pageBase p + o)
  blockOf (pageBase .mon) || blockOf (pageBase .hlt)
    || (decide (pageBase (.ptn 0) ≤ a) && decide (a < pageBase (.ptn 64)) && decide (0x40 ≤ a % 0x1000))
    || (decide (pageBase .mer ≤ a) && decide (a < pageBase .mer + 0x1000))
    || (decide (pageBase .pwr ≤ a) && decide (a < pageBase .pwr + 0x1000))
    || word .hif 0x40 || word .hif 0x48 || decide (k = fldKey .trg F.trg_REPLAY_SINCE)

/-- Does the captured value at a bit address survive it: that of a page which R551 keeps (R558). -/
def capSurvives (k : Nat) : Bool :=
  let a := k / 8
  let page (p : Page) : Bool := decide (pageBase p ≤ a) && decide (a < pageBase p + 0x1000)
  page .mon || page .hlt || page .mer || page .pwr || (decide (pageBase (.ptn 0) ≤ a) && decide (a < pageBase (.ptn 64)))

/-- The pages with an armed group that return to reset, and the groups that their last SEAL named, where that SEAL was
accepted: they end DISCARDED (R70, R551). -/
def discarded (s : State) : List (Page × Nat) :=
  (s.sealAt.filterMap (fun e => pageOf (e.1 / 16))).eraseDups.filterMap (fun p =>
    if rd s p F.SEAL_RESULT = 1 then some (p, rd s p F.SEAL_GROUPS) else none)

/-- SEAL_STATUS of a page whose armed groups a reset discards. -/
def showDiscarded (s : State) (e : Page × Nat) : State := wr (wr s e.1 F.SEAL_GROUPS e.2) e.1 F.SEAL_RESULT 6

/-- A partition's items after a warm device reset (R532, R548, R549): an item whose confirming read was drained is
COMPLETE, a journaled item not yet COMMITTING runs again, another accepted item completes with NOT_DONE. -/
def warmItem (it : HostItem) : Option HostItem :=
  if it.lb = .committing then
    if it.confirm then none else some { it with stake := none, pid := none }
  else if it.journal then
    some { it with stake := none, pid := none, status := none, confirm := false, redo := true }
  else some { it with
    stake := none, pid := none, status := some (it.status.getD 0x01), lb := .committing, confirm := false, redo := false }

/-- A partition after a warm device reset: entries not accepted are fetched again, and recovery is due (R528, R549); the stores
and the pool are zeroed at once (R551). -/
def warmPtn (x : Partition) : Partition :=
  { x with
    sqs := mapAll Sq.idle x.sqs (fun _ q => { q with held := none })
    items := x.items.filterMap warmItem, recovering := false, recoveryDue := true
    wipe := { x.wipe with stns := [], cells := [] } }

/-- Migrations at a warm device reset: copies that have not committed are abandoned, those of a pin start again, and a
committed one's source is freed (R186, R551). -/
def warmMigs (s : State) : State :=
  s.migs.foldl (fun s m =>
    if m.pin then s
    else if m.committed then
      freeLoc { s with migs := removeFirst (fun x => decide (x = m)) s.migs } m.srcTier m.srcUnit
    else abandonMig s m.ptn m.tile) s

/-- The pool emptied and zeroed: the handles of the cells it held are stale (R255, R551). -/
def emptyPool (x : Pool) : Pool :=
  let cs := x.parcels.flatMap (fun e => e.2.cells)
  { Pool.empty with
    nextId := x.nextId
    gens := cs.foldl (fun g c => mapSet 0 g c ((mapGet 0 g c + 1) % 2 ^ 13)) x.gens }

/-- The work of every block ends and its logic is reset (R551, R552 step 4): what no rule keeps is as after a cold reset. -/
def blocksReset (s : State) : State :=
  { s with
    stns := [], movs := [], xlate := [], tierHeld := [], pool := emptyPool s.pool
    plat := { Plat.reset with images := s.plat.images }
    tens := mapAll Engine.idle s.tens (fun _ e => { Engine.idle with prog := e.prog })
    cdus := [], book := { FieldBook.reset with ctx := s.book.ctx, harq := s.book.harq }
    fhps := [], fhqs := [], flows := [], flowSeq := []
    trv := { Traverse.reset with replay := s.trv.replay, nextId := s.trv.nextId }
    mer := { s.mer with tsq := [] }
    pwr := { s.pwr with meters := [] }
    msixHeld := [] }

/-- The registers at a warm device reset (R52, R551, R558), with BPR JOINED of the bindings that stay. -/
def registersReset (s : State) : State :=
  let d := discarded s
  let s1 := disarmAll { s with
    regs := s.regs.filter (fun e => survivesWarm e.1)
    eff := s.eff.filter (fun e => survivesWarm e.1)
    cap := s.cap.filter (fun e => capSurvives e.1)
    sealAt := [] }
  let s2 := d.foldl showDiscarded s1
  s2.ptns.foldl (fun s x => x.2.names.foldl (fun s b => setJoined s b.2 1) s) s2

/-- A Hot Reset or a link down also resets the configuration space (R510). -/
def hotReset (s : State) : State := { wr s .hif F.hif_NUM_VFS 0 with bme := [], msixOff := [] }

/-- The warm device reset from its trigger on (R552): READY is clear until it completes. The host tier is off until it is
configured again, and a reset of a lower level that waited counts as done (R553). -/
def warmNow (s : State) (cause : Nat) : State :=
  let s0 := if leaseState s = 1 then fenceNow s else s
  let s1 := s0.book.resets.foldl clearWritten s0
  let s2 := blocksReset (warmMigs { s1 with ptns := mapAll Partition.free s1.ptns (fun _ x => warmPtn x) })
  let s3 := registersReset s2
  let s4 := forUpTo 64 (fun p s => if pstate s p = 1 then lbIdle s p else s) s3
  let s5 := if cause = 1 then hotReset s4 else s4
  let s5 := if s5.hlt.resetWait.isEmpty then s5 else resetResult { s5 with hlt := { s5.hlt with resetWait := [] } } 0
  let s6 := wr (wr (wr (setLocs s5 3 0 Locations.none) .hlt F.hlt_LAST_RESET 4) .hlt F.hlt_LAST_CAUSE cause) .hlt F.hlt_RESET_BUSY 1
  let s7 := bumpHealth (wr s6 .hlt F.hlt_INJ_GRANTED 0) 12 false
  { s7 with stage := .warm, mon := { s7.mon with challenge := none }, hlt := { s7.hlt with injEnd := none } }

/-- A warm device reset is requested: it runs at once, waits for a debug erase (R592), or is treated as done while a
higher reset or another warm one runs (R553). -/
def warmReset (s : State) (cause : Nat) : State :=
  match s.stage with
  | .ready => warmNow s cause
  | .training => if rd s .hlt F.hlt_LINK_LOW = 1 then warmNow (wr s .hlt F.hlt_LINK_LOW 0) cause else s
  | .erased => { s with mon := { s.mon with warmAfterErase := some cause } }
  | _ => s

/-- WARM_DEVICE_RESET. -/
def effWarmDeviceReset (cause : Nat) (s : State) : State :=
  if cause = 0 then (if resetOpen s then warmReset (wr s .hlt F.hlt_RESET_LEVEL 4) 0 else s)
  else if cause = 1 || cause = 2 then warmReset s cause
  else s
/-- WARM_DEVICE_RESET (R545, R549, R551, R552): `cause` is that of LAST_CAUSE: a RESET_GO of level 4 (0), a PCIe Hot Reset
or link down (1), the Monument watchdog (2). -/
def execWarmDeviceReset (cause : Nat) (s : State) : Host.Outcome State Fault Refusal :=
  act (Instr.warmDeviceReset cause) s (effWarmDeviceReset cause s)

/-- MONUMENT_WATCHDOG. -/
def effMonumentWatchdog (s : State) : State := warmReset s 2
/-- MONUMENT_WATCHDOG (R577): a warm device reset with cause 2. -/
def execMonumentWatchdog (s : State) : Host.Outcome State Fault Refusal :=
  act Instr.monumentWatchdog s (effMonumentWatchdog s)

/-- Condemnations that fell during the reset take effect (R553). -/
def condemnDeferred (s : State) : State :=
  s.fp.deferred.foldl (fun s d => condemn s d.1 d.2.1 d.2.2) { s with fp := { s.fp with deferred := [] } }

/-- WARM_RESET_COMPLETE. -/
def effWarmResetComplete (s : State) : State :=
  if s.stage = .warm then
    let s1 := wr s .hlt F.hlt_RESET_BUSY 0
    if linkGood s1 then
      let s2 := raiseSvn s1
      condemnDeferred (setReady (if s2.hlt.openTick.isNone then firstGrade s2 else s2))
    else linkLow s1
  else s
/-- WARM_RESET_COMPLETE (R552, R553): READY is set again, and condemnations that waited take effect. Where it is the first READY
since a cold reset, the grade is taken and the health windows begin (R560, R563). -/
def execWarmResetComplete (s : State) : Host.Outcome State Fault Refusal :=
  act Instr.warmResetComplete s (effWarmResetComplete s)

/-! ### Run-time criteria (R31, R113) -/

/-- Does the sequencer of a unit run, so that it ought to retire instructions: a station's job, lent or its owner's, that
waits for nothing, or a transit engine's item. -/
def sequencerRuns (s : State) (u : Nat) : Bool :=
  if u < 144 then
    let st := stn s u
    st.job.isSome && st.ended.isNone && st.waitt.isNone && !st.fence && !agentWaits s (.station u)
  else if 216 ≤ u && u < 472 then (tenState s (u - 216) == 1 || tenState s (u - 216) == 3
    || tenState s (u - 216) == 5) && !agentHeld s (.ten (u - 216))
  else false

/-- SEQUENCER_WATCHDOG. -/
def effSequencerWatchdog (u : Nat) (s : State) : State := if sequencerRuns s u then condemn s u 0x03 false else s
/-- SEQUENCER_WATCHDOG (R31, R40): the running sequencer of a unit has retired nothing for 65,536 core cycles. -/
def execSequencerWatchdog (u : Nat) (s : State) : Host.Outcome State Fault Refusal :=
  act (Instr.sequencerWatchdog u) s (effSequencerWatchdog u s)

/-- The links that have lost a lane they cannot do without go down (R46, R460). -/
def linksAfterLoss (s : State) (inj : Bool) : State :=
  let s1 := forUpTo 32 (fun q s => if (fhp s q).up && !fhAvailable s q then fhLinkDown s q inj else s) s
  forUpTo 8 (fun n s => if mapGet false s.trv.linkUp n && tvWidth s n == 0 then tvLinkDown s n else s) s1

/-- LOCK_LOSS_TIMEOUT. -/
def effLockLossTimeout (u : Nat) (s : State) : State :=
  if 616 ≤ u then linksAfterLoss (condemn s u 0x05 false) false else s
/-- LOCK_LOSS_TIMEOUT (R31, R460): a lane has been out of lock for more than 100 ms with its partner's signal present. -/
def execLockLossTimeout (u : Nat) (s : State) : Host.Outcome State Fault Refusal :=
  act (Instr.lockLossTimeout u) s (effLockLossTimeout u s)

/-- ARRAY_SELF_CHECK. -/
def effArraySelfCheck (n : Nat) (ok : Bool) (s : State) : State :=
  if unitUp s n && stnAtCommit s n && decide (ef s (.stn n) F.stn_X_SELFCHECK ≤ (stn s n).array) then
    let s1 := setStn s n { stn s n with array := 0 }
    if ok then s1 else condemn s1 n 0x07 false
  else s
/-- ARRAY_SELF_CHECK (R31, R113): once X_SELFCHECK array instructions have run, the self-check runs at the
station's commit point; a mismatch condemns. -/
def execArraySelfCheck (n : Nat) (ok : Bool) (s : State) : Host.Outcome State Fault Refusal :=
  act (Instr.arraySelfCheck n ok) s (effArraySelfCheck n ok s)

end Sys2Proof.Machine
end

