-- ==== Sys2Proof/Machine/Health.lean ====
section
/-! DEFINITION. Health and fault injection (R559 to R570): the windows and the grade, the fault manager's instructions,
consent, and the injected faults. -/

namespace Sys2Proof.Machine

/-! ### Windows and grade (R560 to R564) -/

/-- The length of a health window in FRC ticks. -/
def windowTicks : Nat := 60000000000

/-- The sum of a list of counts. -/
def sumList (l : List Nat) : Nat := l.foldl (· + ·) 0

/-- Kind `k` at a window close (R560): the count of the window enters MIN, HOUR, DAY and TOTAL, and LIVE begins again. -/
def closeKind (s : State) (k : Nat) : State :=
  let n := kindOf s F.hlt_K_LIVE k
  let ws := (n :: mapGet [] s.hlt.windows k).take 1440
  let s1 := { s with hlt := { s.hlt with windows := mapSet [] s.hlt.windows k ws } }
  let put (s : State) (f : Fld) (v : Nat) : State := wr s .hlt (f.ix k) (satTo (2 ^ 64 - 1) v)
  let s2 := put (put (put s1 F.hlt_K_MIN n) F.hlt_K_HOUR (sumList (ws.take 60))) F.hlt_K_DAY (sumList ws)
  wr (put s2 F.hlt_K_TOTAL (kindOf s2 F.hlt_K_TOTAL k + n)) .hlt (F.hlt_K_LIVE.ix k) 0

/-- The candidate is computed at the window close of tick `now`, and GRADE takes it if 600 × 10⁹ ticks have passed since
GRADE_SINCE (R562, R563). -/
def gradeAtClose (now : Nat) (s : State) : State :=
  let c := candidateGrade s
  let s1 := wr s .hlt F.hlt_CANDIDATE c
  if c ≠ rd s .hlt F.hlt_GRADE && decide (rd s .hlt F.hlt_GRADE_SINCE + 10 * windowTicks ≤ now) then
    emit (setEvt (wr (wr s1 .hlt F.hlt_GRADE c) .hlt F.hlt_GRADE_SINCE now) .hlt 17) (.pldm "GRADE_CHANGE")
  else s1

/-- HEALTH_WINDOW_CLOSE. -/
def effHealthWindowClose (s : State) : State :=
  match s.hlt.openTick with
  | none => s
  | some t =>
    if t + windowTicks ≤ s.mer.frc then
      gradeAtClose (t + windowTicks)
        (forUpTo 13 (fun k s => closeKind s k) { s with hlt := { s.hlt with openTick := some (t + windowTicks) } })
    else s
/-- HEALTH_WINDOW_CLOSE (R560, R562, R563): the open window is 60 × 10⁹ ticks long; every kind rolls, and the candidate
grade is computed. -/
def execHealthWindowClose (s : State) : Host.Outcome State Fault Refusal :=
  act Instr.healthWindowClose s (effHealthWindowClose s)

/-! ### The management endpoint (R594) -/

/-- Does Monument's endpoint serve every message type: power is good, and Monument is not in RECOVERY (R575, R594). -/
def endpointOn (s : State) : Bool := s.pwr.pwrok && decide (s.stage ≠ .recovery)

/-- A reply of the endpoint: a status byte and data (R596). -/
def mgmtAnswer (s : State) (status : Nat) (data : List Byte) : State := emit s (.mgmtReply status data)

/-! ### The fault manager's instructions (R565 to R567) -/

/-- FM_RESULT of an instruction of 100 bytes (R565, R566): 1 accepted, 2 bad signature, 3 wrong identifier, 4 stale SEQ,
5 malformed. The signature is under anchor slot 1. -/
def fmResult (s : State) (b : List Byte) : Nat :=
  if b.length ≠ 100 then 5
  else match mapFind s.mon.anchors 1 with
    | none => 2
    | some key =>
      if !Config.sm2Verify key (b.take 36) (b.drop 36) then 2
      else if leAt b 12 16 ≠ s.mon.deviceId then 3
      else if leAt b 1 1 ≠ 1 || !zeroBytes b 2 4 || !zeroBytes b 28 36 || leAt b 0 1 = 0 || 3 < leAt b 0 1 then 5
      else if leAt b 4 8 ≤ s.mon.lastFmSeq then 4
      else 1

/-- The status byte of the reply that carries an FM_RESULT (R596). -/
def fmStatus (r : Nat) : Nat := if r = 1 then 0 else if r = 2 then 1 else if r = 5 then 2 else 3

/-- An instruction reaches Monument: accepted, it sets LAST_FM_SEQ and acts; any other counts in SIG_REJECTS. `op` is the
instruction that the command stands for; a well-formed instruction with another OP is another command. -/
def fmInstruction (s : State) (op : Nat) (b : List Byte) (k : State → State) : State :=
  if !endpointOn s then s
  else if leAt b 0 1 ≠ op && decide (1 ≤ leAt b 0 1) && decide (leAt b 0 1 ≤ 3) then s
  else
    let r := fmResult s b
    let s1 := wr (wr s .hlt F.hlt_FM_RESULT r) .hlt F.hlt_FM_OP (leAt b 0 1)
    let s2 := if r = 1 then
        k (setEvt { s1 with mon := { s1.mon with lastFmSeq := leAt b 4 8 } } .hlt 22)
      else addSat s1 .hlt F.hlt_SIG_REJECTS 1
    mgmtAnswer s2 (fmStatus r) (natLE 1 r)

/-- DRAIN. -/
def effDrain (b : List Byte) (s : State) : State := fmInstruction s 1 b (fun s => wr s .hlt F.hlt_DRAINING 1)
/-- DRAIN (R565 to R567): the HIF fetches no SQ entry of any partition. -/
def execDrain (b : List Byte) (s : State) : Host.Outcome State Fault Refusal := act (Instr.drain b) s (effDrain b s)

/-- UNDRAIN. -/
def effUndrain (b : List Byte) (s : State) : State :=
  fmInstruction s 2 b (fun s =>
    if rd s .hlt F.hlt_EXPELLED = 1 then s else wr (wr s .hlt F.hlt_DRAINING 0) .hlt F.hlt_DRAINED 0)
/-- UNDRAIN (R565 to R567): DRAINING and DRAINED clear, unless EXPELLED is set. -/
def execUndrain (b : List Byte) (s : State) : Host.Outcome State Fault Refusal := act (Instr.undrain b) s (effUndrain b s)

/-- EXPELLED is set: the traverse fences, and the plat stops at the next frame boundary (R567). -/
def expelNow (s : State) : State :=
  let s1 := emit (setEvt (wr s .hlt F.hlt_EXPELLED 1) .hlt 20) (.pldm "EXPELLED")
  let s2 := if leaseState s1 = 1 then fenceNow s1 else s1
  if platRunning s2 && !s2.plat.stopping then { s2 with plat := { s2.plat with stopReq := true } } else s2

/-- EXPEL. -/
def effExpel (b : List Byte) (s : State) : State := fmInstruction s 3 b expelNow
/-- EXPEL (R565 to R567). -/
def execExpel (b : List Byte) (s : State) : Host.Outcome State Fault Refusal := act (Instr.expel b) s (effExpel b s)

/-- Has every accepted item of every partition completed. -/
def allItemsDone (s : State) : Bool := s.ptns.all (fun e => e.2.items.isEmpty)

/-- DRAIN_COMPLETE. -/
def effDrainComplete (s : State) : State :=
  if rd s .hlt F.hlt_DRAINING = 1 && rd s .hlt F.hlt_DRAINED = 0 && allItemsDone s then
    emit (setEvt (wr s .hlt F.hlt_DRAINED 1) .hlt 19) (.pldm "DRAINED")
  else s
/-- DRAIN_COMPLETE (R567): no partition has an accepted item that is not complete. -/
def execDrainComplete (s : State) : Host.Outcome State Fault Refusal := act Instr.drainComplete s (effDrainComplete s)

/-! ### Consent (R568, R593) -/

/-- Does the injection policy permit consent (R593). -/
def policyPermits (s : State) : Bool :=
  match s.mon.injPolicy with
  | 1 => !(List.range 4).any (fun im => committed s im && (List.range 1024).any (fun c => (cellOf s im c).valid))
  | 2 => true
  | _ => false

/-- Consent begins, or is withdrawn. -/
def setConsent (s : State) (until_ : Option Nat) : State :=
  { wr s .hlt F.hlt_INJ_GRANTED (ofBool until_.isSome) with hlt := { s.hlt with injEnd := until_ } }

/-- The effect of a write of INJ_REQ with the INJ_LIMIT_S that holds (R568). -/
def requestConsent (s : State) : State :=
  let n := rd s .hlt F.hlt_INJ_LIMIT_S
  if rd s .hlt F.hlt_INJ_REQ = 0 then setConsent s none
  else if 1 ≤ n && n ≤ 3600 && policyPermits s then setConsent s (some (s.mer.frc + 1000000000 * n))
  else s

/-- INJ_REQ. -/
def effInjReq (f : Func) (v : Bool) (limit : Nat) (s : State) : State :=
  withWrite s f .hlt F.hlt_INJ_REQ (ofBool v) (fun s =>
    requestConsent (wr (wr s .hlt F.hlt_INJ_LIMIT_S limit) .hlt F.hlt_INJ_REQ (ofBool v)))
/-- INJ_REQ (R568): a write of INJ_REQ and INJ_LIMIT_S. -/
def execInjReq (f : Func) (v : Bool) (limit : Nat) (s : State) : Host.Outcome State Fault Refusal :=
  act (Instr.injReq f v limit) s (effInjReq f v limit s)

/-- INJ_CONSENT_EXPIRY. -/
def effInjConsentExpiry (s : State) : State :=
  match s.hlt.injEnd with
  | none => s
  | some t => if t ≤ s.mer.frc then setConsent s none else s
/-- INJ_CONSENT_EXPIRY (R568): INJ_LIMIT_S seconds after the grant. -/
def execInjConsentExpiry (s : State) : Host.Outcome State Fault Refusal :=
  act Instr.injConsentExpiry s (effInjConsentExpiry s)

/-! ### Injection (R568 to R570) -/

/-- Does a page take a FAULT (R569). -/
def faultOn (p : Page) (fault : Nat) : Bool :=
  match p with
  | .stn _ | .dst _ | .hbc _ | .ten _ | .cdu _ => fault == 1 || fault == 2 || fault == 3
  | .fhp _ => fault == 3 || fault == 4
  | _ => false

/-- Is injection into a page consented to: Monument's consent, and the owner's on a page that a partition owns (R568). -/
def consented (s : State) (p : Page) : Bool :=
  rd s .hlt F.hlt_INJ_GRANTED == 1 && (if ownerOf s p < 64 then rd s (.ptn (ownerOf s p)) F.ptn_INJ_OK == 1 else true)

/-- Every lane of a port is condemned, and its links go down (R569). -/
def condemnLanes (s : State) (q : Nat) : State :=
  linksAfterLoss ((fhLanes s q).foldl (fun s l => condemn s (616 + l) 0x3F true) s) true

/-- The effect of an INJECT write with ARM set (R569): a memory fault waits for the next access, the others act at once. -/
def injectFault (s : State) (p : Page) (fault : Nat) : State :=
  if faultOn p fault && consented s p then
    let s1 := addSat (wr (wr s p F.FAULT fault) p F.INJ_ARM (ofBool (decide (fault < 3)))) .hlt F.hlt_INJ_COUNT 1
    match fault, p with
    | 3, .fhp q => condemnLanes s1 q
    | 3, _ => match unitOf p with
      | some u => condemn s1 u 0x3F true
      | none => s1
    | 4, .fhp q => if (fhp s1 q).up then fhLinkDown s1 q true else s1
    | _, _ => s1
  else setErr s p 4

/-- An INJECT write with ARM set by a function: only the manager's acts, and another's that would change ARM or FAULT sets
OWNER_DENIED (R52, R58, R77). -/
def inject (s : State) (f : Func) (p : Page) (fault : Nat) : State :=
  if !reach s f p then denyAccess s f
  else match f with
  | .pf => injectFault s p fault
  | .vf _ => if rd s p F.INJ_ARM = 1 && rd s p F.FAULT = fault then s else setErr s p 2

/-- INJECT_CORRECTABLE. -/
def effInjectCorrectable (f : Func) (p : Page) (s : State) : State := inject s f p 1
/-- INJECT_CORRECTABLE (R568, R569): FAULT 0x0001. -/
def execInjectCorrectable (f : Func) (p : Page) (s : State) : Host.Outcome State Fault Refusal :=
  act (Instr.injectCorrectable f p) s (effInjectCorrectable f p s)

/-- INJECT_UNCORRECTABLE. -/
def effInjectUncorrectable (f : Func) (p : Page) (s : State) : State := inject s f p 2
/-- INJECT_UNCORRECTABLE (R568, R569): FAULT 0x0002. -/
def execInjectUncorrectable (f : Func) (p : Page) (s : State) : Host.Outcome State Fault Refusal :=
  act (Instr.injectUncorrectable f p) s (effInjectUncorrectable f p s)

/-- INJECT_CONDEMN. -/
def effInjectCondemn (f : Func) (p : Page) (s : State) : State := inject s f p 3
/-- INJECT_CONDEMN (R39, R568, R569): FAULT 0x0003. -/
def execInjectCondemn (f : Func) (p : Page) (s : State) : Host.Outcome State Fault Refusal :=
  act (Instr.injectCondemn f p) s (effInjectCondemn f p s)

/-- INJECT_LOCK_LOSS. -/
def effInjectLockLoss (f : Func) (p : Page) (s : State) : State := inject s f p 4
/-- INJECT_LOCK_LOSS (R568, R569): FAULT 0x0004; the links come up again when their lanes have lock. -/
def execInjectLockLoss (f : Func) (p : Page) (s : State) : Host.Outcome State Fault Refusal :=
  act (Instr.injectLockLoss f p) s (effInjectLockLoss f p s)

end Sys2Proof.Machine
end

