-- ==== Sys2Proof/Machine/Tiers.lean ====
section
/-! DEFINITION. The commands of the memory tiers: host windows (R202, R203), ages (R182), migrations (R185, R186),
zeroing (R198), pins (R192), freeing (R195), tile queries (R204, R206) and the patrol scrub (R208). -/

namespace Sys2Proof.Machine

/-! ### Host windows (R171, R174, R202, R203) -/

/-- The station and byte that an access through BAR2 reaches in a station window: only a bound, ENABLED station whose
page reads QUIESCED, at a slot that R93 leaves to programs and that is served (R104, R199). -/
def rangeOpen (s : State) (p a : Nat) : Option (Nat × Nat) :=
  match windowAt s p a with
  | none => none
  | some (m, off) =>
    if quiesced s (.stn m) && !unitDown s (.stn m) && slotServed s (m, off / 65536) then some (m, off) else none

/-- Read `n` bytes of one 64 KiB block of a partition's range through BAR2. -/
def windowRead (s : State) (p a n : Nat) : TRes × State :=
  if a < tieredEnd then readTile s p a n false
  else if inWindows a then
    match rangeOpen s p a with
    | none => (.ok (List.replicate n 0), s)
    | some (m, off) =>
      let r := unitRead s (.stn m) [(off, n)]
      if r.1 then (.fail 0x0B none, r.2) else (.ok (loadBytes (stn r.2 m).store off n), r.2)
  else (.ok (List.replicate n 0), s)

/-- Write bytes to one 64 KiB block of a partition's range through BAR2. -/
def windowWrite (s : State) (p a : Nat) (d : List Byte) : TRes × State :=
  if a < tieredEnd then writeTile s p a d
  else if inWindows a then
    match rangeOpen s p a with
    | none => (.ok [], s)
    | some (m, off) => writeWindow s m off d
  else (.ok [], s)

/-- Read a run of bytes, block by block. -/
def windowReads (p : Nat) : Nat → Nat → Nat → State → TRes × State
  | 0, _, _, s => (.ok [], s)
  | fuel + 1, a, n, s =>
    if n = 0 then (.ok [], s)
    else
      let m := min n (65536 - a % 65536)
      match windowRead s p a m with
      | (.ok d, s1) =>
        (match windowReads p fuel (a + m) (n - m) s1 with
          | (.ok d2, s2) => (.ok (d ++ d2), s2)
          | r => r)
      | r => r

/-- Write a run of bytes, block by block; a wait leaves the bytes that are still to be written, with their address. -/
def windowWrites (p : Nat) : Nat → Nat → List Byte → State → TRes × Nat × List Byte × State
  | 0, a, d, s => (.ok [], a, d, s)
  | fuel + 1, a, d, s =>
    if d.isEmpty then (.ok [], a, d, s)
    else
      let m := min d.length (65536 - a % 65536)
      match windowWrite s p a (d.take m) with
      | (.ok _, s1) => windowWrites p fuel (a + m) (d.drop m) s1
      | (r, s1) => (r, a, d, s1)

/-- An access through BAR2 to partition address `a`: a read answers its data, or Completer Abort where it meets an
uncorrectable error or a LOST tile (R200, R201). The part of a write that must wait for a zeroed location, if any. -/
def windowTry (s : State) (p a : Nat) (x : Access) : Option (Nat × Access) × State :=
  match x with
  | .read n =>
    match windowReads p (n / 65536 + 2) a n s with
    | (.ok d, s1) => (none, emit s1 (.readData d))
    | (.fail _ ue, s1) => (none, emit (ueHit s1 ue) .completerAbort)
    | (.wait, s1) => (some (a, x), s1)
  | .write d =>
    match windowWrites p (d.length / 65536 + 2) a d s with
    | (.ok _, _, _, s1) => (none, s1)
    | (.fail _ ue, _, _, s1) => (none, ueHit s1 ue)
    | (.wait, b, e, s1) => (some (b, .write e), s1)

/-- An access through BAR2: one behind an access to the same range that waits stays behind it (PCIe order), and one that
must wait is held until a location is zeroed (R188). -/
def windowAccess (s : State) (p a : Nat) (x : Access) : State :=
  if s.tierHeld.any (fun h => decide (h.1 = p)) then { s with tierHeld := s.tierHeld ++ [(p, a, x)] }
  else match windowTry s p a x with
    | (none, s1) => s1
    | (some (b, y), s1) => { s1 with tierHeld := s1.tierHeld ++ [(p, b, y)] }

/-- The accesses that are held go on, oldest first, each range's in its order. -/
def serveHeld (s : State) : State :=
  s.tierHeld.foldl (fun s h => windowAccess s h.1 h.2.1 h.2.2) { s with tierHeld := [] }

/-- The answer of a window that does not serve an access: a read gives 0, a write does nothing. -/
def windowDenied (s : State) (x : Access) : State :=
  match x with
  | .read n => emit s (.readData (List.replicate n 0))
  | .write _ => s

/-- The number of bytes of an access. -/
def accessLen (x : Access) : Nat := match x with
  | .read n => n
  | .write d => d.length

/-- BAR2_ACCESS. -/
def effBar2Access (f : Func) (addr : Nat) (x : Access) (s : State) : State :=
  match f with
  | .pf => s
  | .vf v =>
    if 2 ^ 30 < addr + accessLen x || !pageServed s .tir then s
    else match ptnOfVf s v with
      | none => windowDenied s x
      | some p => windowAccess s p (rd s (.ptn p) F.ptn_VF_WIN_BASE * 2 ^ 30 + addr) x
/-- BAR2_ACCESS (R202): an access through a virtual function's 1 GiB window onto its partition's range. -/
def execBar2Access (f : Func) (addr : Nat) (x : Access) (s : State) : Host.Outcome State Fault Refusal :=
  actMem (Instr.bar2Access f addr x) s (effBar2Access f addr x s)

/-- MANAGER_WINDOW_ACCESS. -/
def effManagerWindowAccess (addr : Nat) (x : Access) (s : State) : State :=
  let w := addr / 2 ^ 32
  if 2 ^ 32 < addr % 2 ^ 32 + accessLen x || 16 ≤ w || !pageServed s .tir then s
  else
    let p := rd s .tir (F.tir_WIN_PTN.ix w)
    if rd s .tir (F.tir_WIN_VALID.ix w) = 1 && pstate s p = 1 && rd s (.ptn p) F.ptn_MGR_WINDOW_OK = 1 then
      windowAccess s p (rd s .tir (F.tir_WIN_BASE.ix w) * 2 ^ 32 + addr % 2 ^ 32) x
    else windowDenied (setErr s .tir 17) x
/-- MANAGER_WINDOW_ACCESS (R203): an access through one of the manager's sixteen 4 GiB windows. -/
def execManagerWindowAccess (addr : Nat) (x : Access) (s : State) : Host.Outcome State Fault Refusal :=
  actMem (Instr.managerWindowAccess addr x) s (effManagerWindowAccess addr x s)

/-! ### Ages (R182) -/

/-- AGE_BOUNDARY. A tier manager that is quiesced, or to be, begins no work (R53, R74). -/
def effAgeBoundary (s : State) : State :=
  if heldBlock s .tir then s
  else { s with ptns := s.ptns.map (fun e => (e.1, { e.2 with
      tiles := e.2.tiles.map (fun t => (t.1, { t.2 with age := satTo 255 (t.2.age + 1), reads := 0 })) })) }
/-- AGE_BOUNDARY (R182): every tile's AGE rises by one, saturating at 255, and its read count returns to 0. -/
def execAgeBoundary (s : State) : Host.Outcome State Fault Refusal := act Instr.ageBoundary s (effAgeBoundary s)

/-! ### Migrations (R185, R186) -/

/-- The counter of a committed move between two tiers (R206). -/
def moveCounter (src dst : Nat) : Option Fld :=
  if src = 2 && dst = 1 then some F.tir_PROMOTIONS
  else if src = 1 && dst = 2 then some F.tir_DEMOTIONS
  else if src = 2 && dst = 3 then some F.tir_SPILLS
  else if src = 3 && dst = 2 then some F.tir_REFILLS
  else none

/-- Does a line of the tile hold an uncorrectable error. -/
def tileBad (s : State) (p t : Nat) : Bool := badLine s p (65536 * t) 65536

/-- The bytes of a tile move with it: into host memory as ciphertext, and out of it as what that decrypts to (R178). -/
def moveBytes (s : State) (p t u : Nat) (m : Migration) : State :=
  if m.dstTier = 3 then spillStore s p u (65536 * t) 65536
  else if m.srcTier = 3 then putBytes s p (65536 * t) (spillBytes s p m.srcUnit (65536 * t) 65536)
  else s

/-- The migration of a tile commits to unit `u`; what waited for its end goes on (R186, R192). -/
def commitMig (s : State) (p t u : Nat) (m : Migration) (x : Tile) : State :=
  let s0 := if m.srcTier = 1 then releaseSwap s p t else s
  let s1 := setTile (moveBytes s0 p t u m) p t { x with tier := m.dstTier, unit := u, migrating := false, pinned := m.pin }
  let s2 := { s1 with migs := replaceFirst (fun y => decide (y = m)) (fun y => { y with committed := true }) s1.migs }
  let s3 := match moveCounter m.srcTier m.dstTier with
    | some f => addSat s2 .tir f 1
    | none => s2
  serveMigs (pinFollow s3 p t)

/-- The copy of a tile meets an uncorrectable error: the migration is abandoned, and the tile stays at its source, STUCK
(R186). -/
def stickTile (s : State) (p t : Nat) (x : Tile) : State :=
  serveMigs (setTile (endMig s p t) p t { x with migrating := false, stuck := true })

/-- MIGRATION_COMMIT. A quiesced tier manager does no work (R53, R74). -/
def effMigrationCommit (p t : Nat) (s : State) : State :=
  match migOf s p t with
  | none => s
  | some m =>
    match m.dstUnit with
    | none => s
    | some u =>
      if quiesced s .tir || m.after.isSome then s
      else match tileOf s p t with
      | none =>
        if m.srcTier = 0 then
          { setTile s p t { newTile m.dstTier u with pinned := true } with
            migs := removeFirst (fun y => decide (y = m)) s.migs }
        else s
      | some x =>
        let r := tierFault s x
        if r.1 = 2 || tileBad s p t then ueHit (stickTile r.2 p t x) (tierHit x (r.1 == 2))
        else commitMig (if r.1 = 1 then countCe r.2 (tierPage x.tier x.unit) true else softTier r.2 p x (65536 * t) 65536) p t u m x
/-- MIGRATION_COMMIT (R185): the tile-map entry changes to the target; an uncorrectable error in the copy abandons the
migration and leaves the tile STUCK at its source (R186). A ZERO tile that a pin gives storage takes its location. A promotion
in place of another tile commits after that tile's demotion (R183, R196). -/
def execMigrationCommit (p t : Nat) (s : State) : Host.Outcome State Fault Refusal :=
  actMem (Instr.migrationCommit p t) s (effMigrationCommit p t s)

/-- MIGRATION_SOURCE_FREED. -/
def effMigrationSourceFreed (p t : Nat) (s : State) : State :=
  match s.migs.find? (fun m => decide (m.ptn = p) && decide (m.tile = t) && m.committed) with
  | none => s
  | some m =>
    quotaFollow (freeLoc { s with migs := removeFirst (fun y => decide (y = m)) s.migs } m.srcTier m.srcUnit) p
/-- MIGRATION_SOURCE_FREED (R185): the last read issued before the commit has completed, and the source location is
freed for zeroing. -/
def execMigrationSourceFreed (p t : Nat) (s : State) : Host.Outcome State Fault Refusal :=
  act (Instr.migrationSourceFreed p t) s (effMigrationSourceFreed p t s)

/-- A slot of the spill area is zeroed in host memory: the oldest freed one, else the next that holds no tile and has not been
zeroed since the area was configured. -/
def zeroSlot (s : State) : State :=
  let clear (s : State) (k : Nat) : State :=
    { s with hostMem := mapDrop s.hostMem (spillAddr s k 0) (spillAddr s k 65536) }
  match s.spillFreed with
  | k :: r => { clear s k with spillFreed := r }
  | [] =>
    let k := slotFrom (slotsHeld s) s.spillNext
    { clear s k with spillNext := k + 1 }

/-- One of the locations that destroyed partitions wait for has been zeroed (R512). -/
def wipeLoc (s : State) (tier unit : Nat) : State :=
  wipeAll s (fun w => { w with locs := w.locs.map (fun e => if e.1 = (tier, unit) then (e.1, e.2 - 1) else e) })

/-- LOCATION_ZEROED. -/
def effLocationZeroed (tier unit : Nat) (s : State) : State :=
  let x := locsAt s tier unit
  if x.pending = 0 || !tierUp s tier unit then s
  else
    let s1 := wipeLoc (setLocs (if tier = 3 then zeroSlot s else s) tier unit { free := x.free + 1, pending := x.pending - 1 })
      tier unit
    serveTraverse (serveHeld (serveMigs (forUpTo 64 (fun p s => quotaFollow s p) s1)))
/-- LOCATION_ZEROED (R198): a location of a bank (tier 1), a stack (2) or the host spill area (3) has been zeroed, and
the migrations and accesses that wait for one go on. -/
def execLocationZeroed (tier unit : Nat) (s : State) : Host.Outcome State Fault Refusal :=
  actMem (Instr.locationZeroed tier unit) s (effLocationZeroed tier unit s)

/-- Is a tile in place in a pin tier. -/
def tileInPlace (s : State) (p tier t : Nat) : Bool :=
  match tileOf s p t with
  | some x => decide (x.tier = tier) && x.pinned && !x.migrating && !x.lost
  | none => false

/-- PIN_COMPLETE. -/
def effPinComplete (p k : Nat) (s : State) : State :=
  let tier := ef s (.ptn p) (F.ptn_PIN_TIER.ix k)
  if bitAt (rd s (.ptn p) F.ptn_PINNING) k && (rangeTiles s p k).all (tileInPlace s p tier) then
    setPinned (setPinning s p k 0) p k 1
  else s
/-- PIN_COMPLETE (R192): the last tile of range `k` is in place, and PINNED is set. -/
def execPinComplete (p k : Nat) (s : State) : Host.Outcome State Fault Refusal :=
  act (Instr.pinComplete p k) s (effPinComplete p k s)

/-! ### Freeing and queries (R195, R204, R206) -/

/-- FREE_RESULT for `n` tiles from address `b` (R195); no tile lies anywhere. -/
def freeResult (s : State) (p b n : Nat) : Nat :=
  if b % 65536 ≠ 0 then 1
  else if n = 0 then 0
  else if tieredEnd < b + 65536 * n then 2
  else if (List.range 8).any (fun k =>
      let b2 := ef s (.ptn p) (F.ptn_RANGE_BASE.ix k)
      rangePinned s p k && decide (b < b2 + 65536 * ef s (.ptn p) (F.ptn_RANGE_TILES.ix k))
        && decide (b2 < b + 65536 * n)) then 3
  else 0

/-- Free the tiles that FREE_BASE and FREE_TILES name. -/
def freeRange (s : State) (p : Nat) : State :=
  let b := rd s (.ptn p) F.ptn_FREE_BASE
  let n := rd s (.ptn p) F.ptn_FREE_TILES
  let r := freeResult s p b n
  let s1 := wr s (.ptn p) F.ptn_FREE_RESULT r
  if r = 0 then
    ((ptn s p).tiles.filter (fun e => decide (b / 65536 ≤ e.1) && decide (e.1 < b / 65536 + n))).foldl
      (fun s e => freeTile s p e.1) s1
  else s1

/-- FREE_GO. -/
def effFreeGo (f : Func) (p : Nat) (s : State) : State :=
  withWrite s f (.ptn p) F.ptn_FREE_GO 1 (fun s => freeRange s p)
/-- FREE_GO (R195): frees the tiles named, or refuses with a result and frees none. -/
def execFreeGo (f : Func) (p : Nat) (s : State) : Host.Outcome State Fault Refusal :=
  act (Instr.freeGo f p) s (effFreeGo f p s)

/-- TIER, FLAGS and AGE of a partition address as TILE_INFO shows them (R204). -/
def tileInfo (s : State) (p a : Nat) : Nat × Nat × Nat :=
  let t := a / 65536
  let model := 16 * ofBool (inModel s p t)
  match tileOf s p t with
  | none => (0, model, 0)
  | some x => (x.tier, ofBool x.pinned + 2 * ofBool x.migrating + 4 * ofBool x.stuck + 8 * ofBool x.lost + model, x.age)

/-- Load the TILE_INFO of a PTN page for an address. -/
def loadTileInfo (s : State) (p a : Nat) : State :=
  let i := tileInfo s p (a % 2 ^ 64)
  wr (wr (wr (wr s (.ptn p) F.ptn_TILE_QUERY a) (.ptn p) F.ptn_TILE_TIER i.1) (.ptn p) F.ptn_TILE_FLAGS i.2.1)
    (.ptn p) F.ptn_TILE_AGE i.2.2

/-- TILE_QUERY. -/
def effTileQuery (f : Func) (p a : Nat) (s : State) : State :=
  withWrite s f (.ptn p) F.ptn_TILE_QUERY a (fun s => loadTileInfo s p a)
/-- TILE_QUERY (R204): a write of an address loads TILE_INFO for its tile. -/
def execTileQuery (f : Func) (p a : Nat) (s : State) : Host.Outcome State Fault Refusal :=
  act (Instr.tileQuery f p a) s (effTileQuery f p a s)

/-- The manager's TILE_INFO for a query value: bits 47:0 the address, bits 53:48 the partition (R206). -/
def tirTileInfo (s : State) (v : Nat) : Nat :=
  let p := bits v 48 6
  let a := bits v 0 48
  let i := tileInfo s p a
  let unit := match tileOf s p (a / 65536) with
    | none => 0x3F
    | some x => if x.tier = 3 then 0x3F else x.unit
  i.1 + 4 * i.2.1 + 128 * i.2.2 + 65536 * unit

/-- TIR_TILE_QUERY. -/
def effTirTileQuery (v : Nat) (s : State) : State :=
  withWrite s .pf .tir F.tir_TILE_QUERY v (fun s =>
    wr (wr s .tir F.tir_TILE_QUERY v) .tir F.tir_TILE_INFO (tirTileInfo s v))
/-- TIR_TILE_QUERY (R206): the manager's query, which also shows the bank or stack. -/
def execTirTileQuery (v : Nat) (s : State) : Host.Outcome State Fault Refusal :=
  act (Instr.tirTileQuery v) s (effTirTileQuery v s)

/-! ### Patrol scrub (R208) -/

/-- The tier and unit of a DST or HBC page. -/
def pageTier : Page → Option (Nat × Nat)
  | .dst n => some (1, n)
  | .hbc n => some (2, n)
  | _ => none

/-- Does line `k` of a partition lie in a unit of a tier. -/
def lineOn (x : Partition) (tier unit k : Nat) : Bool :=
  match mapFind x.tiles (k / 1024) with
  | some y => decide (y.tier = tier) && decide (y.unit = unit) && !y.lost
  | none => false

/-- The lines with an uncorrectable error that a unit of a tier holds. -/
def badLines (s : State) (tier unit : Nat) : Nat :=
  s.ptns.foldl (fun n e => n + (e.2.bad.filter (fun b => lineOn e.2 tier unit b.1)).length) 0

/-- The scrub corrects the correctable errors that a unit of a tier holds, and counts each (R200, R208). -/
def scrubSoft (s : State) (p : Page) (tier unit : Nat) : State :=
  let n := s.ptns.foldl (fun n e => n + (e.2.soft.filter (fun b => lineOn e.2 tier unit b.1)).length) 0
  (List.range n).foldl (fun s _ => countCe s p false)
    { s with ptns := mapAll Partition.free s.ptns (fun _ x => { x with soft := x.soft.filter (fun b => !lineOn x tier unit b.1) }) }

/-- PATROL_SCRUB. A block that is quiesced, or to be, begins no work (R53, R74). -/
def effPatrolScrub (p : Page) (s : State) : State :=
  match pageTier p with
  | none => s
  | some (tier, unit) =>
    if ef s p F.mem_SCRUB = 0 || heldBlock s p then s
    else
      let n := badLines s tier unit
      (List.range n).foldl (fun s _ => ueError s p false) (scrubSoft (unitRead s p []).2 p tier unit)
/-- PATROL_SCRUB (R208): the scrub reads a bank or stack through once and counts the errors it finds. -/
def execPatrolScrub (p : Page) (s : State) : Host.Outcome State Fault Refusal :=
  actMem (Instr.patrolScrub p) s (effPatrolScrub p s)

end Sys2Proof.Machine
end

