-- ==== Sys2Proof/Machine/HostLink.lean ====
section
/-! DEFINITION. The commands of the host link and the partitions: CREATE, DESTROY, ABORT_PENDING, the rings, the level
book's confirming reads, recovery, and the PCIe events (R508 to R534). -/

namespace Sys2Proof.Machine

/-! ### PART_CMD (R511, R512) -/

/-- PART_RESULT is written and PART_DONE raised (R511, R540). -/
def partResult (s : State) (r : Nat) : State :=
  setEvt (wr (wr s .hif F.hif_PART_RESULT r) .hif F.hif_PART_BUSY 0) .hif 16

/-- The operands of a PART_CMD are stored, and the command acts unless PART_BUSY is set (R511). -/
def partCmd (s : State) (f : Func) (cmd p vf : Nat) (k : State → State) : State :=
  withWrite s f .hif F.hif_PART_CMD cmd (fun s =>
    let s1 := wr (wr s .hif F.hif_PART_PTN p) .hif F.hif_PART_VF vf
    if rd s1 .hif F.hif_PART_BUSY = 1 then s1 else k s1)

/-- The partition is made (R511): a new pair of keys from the key engine (R179, R573), every PTN field at its reset value, the VF bound. -/
def createPartition (s : State) (p vf : Nat) : State :=
  let s1 := clearPage s (.ptn p)
  let s2 := setPtn s1 p { Partition.free with keys := some (fitBytes 32 (Config.randomBytes s.mon.draws)) }
  let s3 := { s2 with mon := { s2.mon with keyGen := s.mon.keyGen + 1, draws := s.mon.draws + 1 } }
  wr (wr s3 (.ptn p) F.ptn_PSTATE 1) (.ptn p) F.ptn_VF vf

/-- CREATE. -/
def effCreate (f : Func) (p vf : Nat) (s : State) : State :=
  partCmd s f 1 p vf (fun s =>
    let p := p % 64
    let vf := vf % 128
    if pstate s p ≠ 0 then partResult s 1
    else if vf = 0 || decide (rd s .hif F.hif_NUM_VFS < vf) || (ptnOfVf s vf).isSome then partResult s 2
    else partResult (createPartition s p vf) 0)
/-- CREATE (R511). -/
def execCreate (f : Func) (p vf : Nat) (s : State) : Host.Outcome State Fault Refusal :=
  act (Instr.create f p vf) s (effCreate f p vf s)

/-- Every item of a partition that has not completed completes with ABORTED, in order (R511, R512). -/
def abortItems (s : State) (p : Nat) (all : Bool) : State :=
  ((ptn s p).items.filter (fun it => all || it.journal)).foldl (fun s it => forceItem s p it 0x0A) s

/-- Write every CQ entry of a ring that can be written. -/
def cqFlush (p c : Nat) : Nat → State → State
  | 0, s => s
  | fuel + 1, s =>
    match cqNext s p c with
    | some it => if (busOf s p).isSome then cqFlush p c fuel (cqWrite s p c it) else s
    | none => s

/-- Step 2 of R512: the items complete with ABORTED; their entries are written while the function may master the bus, and
the items and their stakes are then gone. -/
def destroyItems (s : State) (p : Nat) : State :=
  let s1 := abortItems (dropAllHeld s p) p true
  let s2 := setPtn s1 p { ptn s1 p with items := (ptn s1 p).items.map (fun it =>
    if it.lb = .accepted then { it with lb := .committing, confirm := false } else it) }
  let s3 := forUpTo 16 (fun c s => cqFlush p c (ptn s2 p).items.length s) s2
  let s4 := (ptn s3 p).items.foldl (fun s it => freeItemStake s it.stake) s3
  setPtn s4 p { ptn s4 p with items := [], recovering := false, recoveryDue := false, mirrorDue := false }

/-- Step 4 of R512: tiles, field-book contexts and HARQ buffers are freed for zeroing, and the partition's stakes; accesses through
BAR2 that waited for a tile are gone with them. -/
def destroyStorage (s : State) (p : Nat) : State :=
  let s1 := freeAllTiles s p
  let fb := ef s1 (.ptn p) F.ptn_FB_BASE
  let hq := ef s1 (.ptn p) F.ptn_HARQ_BASE
  let s1 := { s1 with tierHeld := s1.tierHeld.filter (fun h => decide (h.1 ≠ p)) }
  let s2 := zeroBook s1 fb (fb + ef s1 (.ptn p) F.ptn_FB_COUNT) hq (hq + ef s1 (.ptn p) F.ptn_HARQ_COUNT)
  let mine := (s2.plat.stakes.filter (fun e => decide (e.2.acct = p))).map (fun e => e.1)
  mine.foldl freeStake s2

/-- The pairs of a partition's names are no longer joined. -/
def unjoinAll (s : State) (p : Nat) : State := (ptn s p).names.foldl (fun s e => setJoined s e.2 0) s

/-- Step 5 of R512: the keys go, the VF is unbound, and what waited for it is dropped; the slot map is empty (R513). -/
def unbindVf (s : State) (p : Nat) : State :=
  let v := rd s (.ptn p) F.ptn_VF
  let s1 := setPtn (unjoinAll s p) p Partition.free
  wr { s1 with msixHeld := s1.msixHeld.filter (fun e => decide (e.1 ≠ v)) } (.ptn p) F.ptn_VF 0

/-- The partition's storage that waits for zeroing since state `old` (R512): stations whose stores are zeroed, cells, and the
locations of every tier and unit in which tiles of it lay, with all that were freed there before. -/
def wipeOf (old s : State) (p : Nat) : Wipe :=
  { stns := (List.range 144).filter (fun n => decide (ownerOf old (.stn n) = p) && (stn s n).zeroStore)
    cells := s.pool.zeroing.drop old.pool.zeroing.length
    locs := ((ptn old p).tiles.map (fun e => (e.2.tier, if e.2.tier = 3 then 0 else e.2.unit))).eraseDups.map (fun u =>
      (u, (locsAt s u.1 u.2).pending)) }

/-- Has the storage of a destroyed partition been zeroed: what was lost with its unit is gone (R198, R201, R512). -/
def wiped (s : State) (p : Nat) : Bool :=
  let w := (ptn s p).wipe
  w.stns.isEmpty && w.cells.isEmpty && w.locs.all (fun e => decide (e.2 = 0) || !tierUp s e.1.1 e.1.2)

/-- DESTROY proceeds (R512). PSTATE stays DESTROYING until the storage has been zeroed. -/
def destroyPartition (s : State) (p : Nat) : State :=
  let s1 := wr (wr (wr s .hif F.hif_PART_BUSY 1) (.ptn p) F.ptn_PSTATE 2) (.ptn p) F.QUIESCE_REQ 1
  let s2 := reachQuiesced (withdrawAll (destroyItems s1 p) (servesPtn p)) (.ptn p)
  let s3 := (ownedPages s2 p).foldl (fun s x => changeOwner s x 0xFF) s2
  let s4 := unbindVf (destroyStorage s3 p) p
  setPtn s4 p { ptn s4 p with wipe := wipeOf s s4 p }

/-- Is a DESTROY blocked: a job slot of the partition is BOUND, or a committed image holds a cell of it (R511). -/
def destroyBlocked (s : State) (p : Nat) : Bool :=
  cellCommitted s p || (List.range 64).any (fun j => decide (ownerOf s (.trj j) = p) && jobBound s j)

/-- DESTROY. -/
def effDestroy (f : Func) (p : Nat) (s : State) : State :=
  partCmd s f 2 p (rd s .hif F.hif_PART_VF) (fun s =>
    if pstate s p ≠ 1 then partResult s 1
    else if destroyBlocked s p then partResult s 3
    else destroyPartition s p)
/-- DESTROY (R511, R512). -/
def execDestroy (f : Func) (p : Nat) (s : State) : Host.Outcome State Fault Refusal :=
  act (Instr.destroy f p) s (effDestroy f p s)

/-- PARTITION_FREED. -/
def effPartitionFreed (p : Nat) (s : State) : State :=
  if pstate s p = 2 && wiped s p then partResult (wr s (.ptn p) F.ptn_PSTATE 0) 0 else s
/-- PARTITION_FREED (R512): the last of the partition's storage has been zeroed; PSTATE becomes FREE and PART_RESULT is
written. -/
def execPartitionFreed (p : Nat) (s : State) : Host.Outcome State Fault Refusal :=
  act (Instr.partitionFreed p) s (effPartitionFreed p s)

/-- ABORT_PENDING. -/
def effAbortPending (f : Func) (p : Nat) (s : State) : State :=
  partCmd s f 3 p (rd s .hif F.hif_PART_VF) (fun s =>
    if pstate s p ≠ 1 then partResult s 1 else partResult (abortItems s p false) 0)
/-- ABORT_PENDING (R511): the journaled items that have not completed complete with ABORTED. -/
def execAbortPending (f : Func) (p : Nat) (s : State) : Host.Outcome State Fault Refusal :=
  act (Instr.abortPending f p) s (effAbortPending f p s)

/-! ### Doorbells (R519) -/

/-- Write SQ_TAIL (R519). -/
def sqDoorbell (s : State) (p k v : Nat) : State :=
  if sqSize s p k ≤ v then setErr s (.ptn p) 18 else wr s (.ptn p) (F.ptn_SQ_TAIL.ix k) v

/-- SQ_DOORBELL. -/
def effSqDoorbell (f : Func) (p k v : Nat) (s : State) : State :=
  withWrite s f (.ptn p) (F.ptn_SQ_TAIL.ix k) v (fun s => sqDoorbell s p k (v % 65536))
/-- SQ_DOORBELL (R519). -/
def execSqDoorbell (f : Func) (p k v : Nat) (s : State) : Host.Outcome State Fault Refusal :=
  act (Instr.sqDoorbell f p k v) s (effSqDoorbell f p k v s)

/-- The count of positions that a CQ_HEAD write of `v` leaves released (R519): the next one at index `v`; the same index
on a ring whose positions are all written and unreleased releases them all. -/
def cqReleaseTo (s : State) (p c v : Nat) : Nat :=
  let n := cqSize s p c
  let x := cqAt s p c
  let d := (v + n - x.released % n) % n
  if d = 0 && x.written - x.released = n then x.written else x.released + d

/-- Write CQ_HEAD (R519, R520). -/
def cqHead (s : State) (p c v : Nat) : State :=
  let x := cqAt s p c
  let n := cqReleaseTo s p c v
  if cqSize s p c ≤ v || decide (x.written < n) then setErr s (.ptn p) 18
  else
    let s1 := wr (setCq s p c { x with released := n }) (.ptn p) (F.ptn_CQ_HEAD.ix c) v
    if n < x.written then cqIrq s1 p c else s1

/-- CQ_HEAD_WRITE. -/
def effCqHeadWrite (f : Func) (p c v : Nat) (s : State) : State :=
  withWrite s f (.ptn p) (F.ptn_CQ_HEAD.ix c) v (fun s => cqHead s p c (v % 65536))
/-- CQ_HEAD_WRITE (R519, R520). -/
def execCqHeadWrite (f : Func) (p c v : Nat) (s : State) : Host.Outcome State Fault Refusal :=
  act (Instr.cqHeadWrite f p c v) s (effCqHeadWrite f p c v s)

/-! ### Submission (R516 to R518) -/

/-- SQ_FETCH. -/
def effSqFetch (p k : Nat) (data : Option (List Byte)) (s : State) : State := fetchEntry s p k data
/-- SQ_FETCH (R516, R518): `data` is the entry read, none when the read ends in error. -/
def execSqFetch (p k : Nat) (data : Option (List Byte)) (s : State) : Host.Outcome State Fault Refusal :=
  act (Instr.sqFetch p k data) s (effSqFetch p k data s)

/-- OPC of the entry that an SQ holds. -/
def heldOpc (s : State) (p k : Nat) : Option Nat := ((sqAt s p k).held).map (fun h => entryOpc h.bytes)

/-- PARCEL. -/
def effParcel (p k : Nat) (data : Option (List Byte)) (s : State) : State :=
  if heldOpc s p k = some 2 then s else workHeld s p k data
/-- PARCEL (R514, R516, R517, R518, R525): the fetched entry, of OPC PARCEL or a reserved one, is taken through the steps of
acceptance as far as they go; `data` is what the read of DATA_ADDR gave, none when it ends in error. -/
def execParcel (p k : Nat) (data : Option (List Byte)) (s : State) : Host.Outcome State Fault Refusal :=
  act (Instr.parcel p k data) s (effParcel p k data s)

/-- SQ_NOP. -/
def effSqNop (p k : Nat) (s : State) : State := if heldOpc s p k = some 2 then workHeld s p k none else s
/-- SQ_NOP (R516, R517): the fetched entry of OPC NOP is taken through the steps of acceptance, and completes with DONE. -/
def execSqNop (p k : Nat) (s : State) : Host.Outcome State Fault Refusal := act (Instr.sqNop p k) s (effSqNop p k s)

/-! ### The level book (R522, R525, R526) -/

/-- CONFIRM_READ_DONE. -/
def effConfirmReadDone (p : Nat) (ok : Bool) (s : State) : State :=
  let l := confirmable s p
  if l.isEmpty then s
  else l.foldl (fun s it => confirmItem s p it) (if ok then s else addSat s .hif F.hif_CPL_TIMEOUTS 1)
/-- CONFIRM_READ_DONE (R525, R526): the oldest confirming read of a partition completes, for up to 32 items; with `ok`
clear it has timed out, which CPL_TIMEOUTS counts (R509). -/
def execConfirmReadDone (p : Nat) (ok : Bool) (s : State) : Host.Outcome State Fault Refusal :=
  act (Instr.confirmReadDone p ok) s (effConfirmReadDone p ok s)

/-- CQ_ENTRY_WRITE. -/
def effCqEntryWrite (p c : Nat) (s : State) : State :=
  if s.stage = .ready then
    match cqNext s p c with
    | some it => cqWrite s p c it
    | none => s
  else s
/-- CQ_ENTRY_WRITE (R520, R522, R526). -/
def execCqEntryWrite (p c : Nat) (s : State) : Host.Outcome State Fault Refusal :=
  act (Instr.cqEntryWrite p c) s (effCqEntryWrite p c s)

/-- RECOVERY_END. -/
def effRecoveryEnd (p : Nat) (s : State) : State :=
  if (ptn s p).recovering && decide (s.stage = .ready) && !heldBlock s .hif then
    let s1 := recoverOn s p
    if recoverDone s1 p then
      setEvt (lbIdle (setPtn s1 p { ptn s1 p with recovering := false, recovered := true, lbLost := false }) p) (.ptn p) 17
    else s1
  else s
/-- RECOVERY_END (R528): recovery treats what is left, and when every item has been treated LB_STATE leaves RECOVERING and
RECOVERED is raised; the HIF's page quiesced holds it (R53, R74). -/
def execRecoveryEnd (p : Nat) (s : State) : Host.Outcome State Fault Refusal :=
  actMem (Instr.recoveryEnd p) s (effRecoveryEnd p s)

/-! ### PCIe events (R509, R510, R521) -/

/-- FUNCTION_LEVEL_RESET. -/
def effFunctionLevelReset (vf : Nat) (s : State) : State :=
  let s1 := { s with
    bme := mapSet false s.bme vf false
    msixOff := mapSet false s.msixOff vf true
    msixHeld := s.msixHeld.filter (fun e => decide (e.1 ≠ vf)) }
  match ptnOfVf s1 vf with
  | none => s1
  | some p => forUpTo 16 (fun k s =>
      wrApplied (setSq s p k { sqAt s p k with stopped := false }) (.ptn p) (F.ptn_SQ_EN.ix k) 0) (dropAllHeld s1 p)
/-- FUNCTION_LEVEL_RESET (R521). -/
def execFunctionLevelReset (vf : Nat) (s : State) : Host.Outcome State Fault Refusal :=
  act (Instr.functionLevelReset vf) s (effFunctionLevelReset vf s)

/-- The mirror writes of COMMITTING items that waited for Bus Master Enable (R510, R521). -/
def mirrorCatchUp (s : State) (p : Nat) : State :=
  ((ptn s p).items.filter (fun it => decide (it.lb = .committing) && !it.confirm)).foldl
    (fun s it => writeMirror s p it .committing) s

/-- BUS_MASTER_ENABLE. -/
def effBusMasterEnable (vf : Nat) (on : Bool) (s : State) : State :=
  let s1 := { s with bme := mapSet false s.bme vf on }
  if on then
    let held := s1.msixHeld.filter (fun e => decide (e.1 = vf))
    let s2 := { s1 with msixOff := mapErase s1.msixOff vf, msixHeld := s1.msixHeld.filter (fun e => decide (e.1 ≠ vf)) }
    let s3 := held.foldl (fun s e => emit s (.msix e.1 e.2)) s2
    match ptnOfVf s3 vf with
    | some p => mirrorCatchUp s3 p
    | none => s3
  else s1
/-- BUS_MASTER_ENABLE (R510): the host sets or clears the bit; a set releases the messages and mirror writes that wait. -/
def execBusMasterEnable (vf : Nat) (on : Bool) (s : State) : Host.Outcome State Fault Refusal :=
  act (Instr.busMasterEnable vf on) s (effBusMasterEnable vf on s)

/-- May a descriptor have a read of host memory outstanding: it runs, has rows left, and its source is translated, which is
the only way to host memory (R225) and closed to real-time channels (R245). -/
def readsHost (it : MovItem) : Bool :=
  it.isRunning && decide (it.progress < it.desc.total) && it.desc.sx && it.cfg.cls != 1

/-- May a descriptor have a read of a spilled tile outstanding: it runs, has rows left, and its partition has one (R178). -/
def readsSpilled (s : State) (p : Nat) (it : MovItem) : Bool :=
  it.isRunning && decide (it.progress < it.desc.total) && (ptn s p).tiles.any (fun e => decide (e.2.tier = 3))

/-- The first running descriptor of a channel with a read on PCIe ends as with Completer Abort (R232, R509): HOST_ABORT for a
read of host memory, DATA_ERROR for one of a spilled tile (R200; log entry 170). -/
def moverTimeout (s : State) (k : Nat) : State :=
  match (mov s k).items.find? (fun it => readsHost it || readsSpilled s (ownerOf s (.mov k)) it) with
  | some it => postAll (finishItem (addSat s .hif F.hif_CPL_TIMEOUTS 1) k it (if readsHost it then 0x84 else 0x0B)) k
  | none => s

/-- The copy of a spilled tile that migrates ends as with Completer Abort (R509): the migration is abandoned, and the tile stays
in host memory, STUCK (R186, R200). -/
def copyTimeout (s : State) (p t : Nat) : State :=
  match migOf s p t, tileOf s p t with
  | some m, some x =>
    if m.srcTier = 3 && m.dstUnit.isSome && !quiesced s .tir then stickTile (addSat s .hif F.hif_CPL_TIMEOUTS 1) p t x else s
  | _, _ => s

/-- CPL_TIMEOUT. -/
def effCplTimeout (r : PcieRead) (s : State) : State :=
  match r with
  | .mover k => moverTimeout s k
  | .sqEntry p k => if mayFetch s p k then fetchEntry (addSat s .hif F.hif_CPL_TIMEOUTS 1) p k none else s
  | .payload p k =>
    match (sqAt s p k).held with
    | some h => if h.pid.isSome && !h.copied && !entryInline h.bytes && (busOf s p).isSome then
        workHeld (addSat s .hif F.hif_CPL_TIMEOUTS 1) p k none else s
    | none => s
  | .confirm p => effConfirmReadDone p false s
  | .record p n => recordTimeout s p n
  | .tierCopy p t => copyTimeout s p t
/-- CPL_TIMEOUT (R509): a read without a completion within CPL_TIMEOUT_US ends as with Completer Abort. -/
def execCplTimeout (r : PcieRead) (s : State) : Host.Outcome State Fault Refusal :=
  act (Instr.cplTimeout r) s (effCplTimeout r s)

end Sys2Proof.Machine
end

