-- ==== Sys2Proof/Machine/Meridian.lean ====
section
/-! DEFINITION. The Meridian commands (R280 to R305): the source, step, rate and adjustment, the stamp queues, the timing
pins and the time triggers. -/

namespace Sys2Proof.Machine

/-! ### The source (R281) -/

/-- SOURCE_LOST. -/
def effSourceLost (s : State) : State :=
  if s.mer.locked then
    let s1 := { s with mer := { s.mer with locked := false, holdover := true } }
    bumpHealth (addSat (setEvt s1 .mer 17) .mer F.mer_LOCK_LOSSES 1) 10 false
  else s
/-- The selected source is lost: the synthesiser goes into holdover (R281). -/
def execSourceLost (s : State) : Host.Outcome State Fault Refusal := act Instr.sourceLost s (effSourceLost s)

/-- RELOCK. -/
def effRelock (s : State) : State :=
  if s.mer.locked then s else setEvt { s with mer := { s.mer with locked := true, holdover := false } } .mer 18
/-- The synthesiser relocks, and LOCK_GAINED is raised (R281). -/
def execRelock (s : State) : Host.Outcome State Fault Refusal := act Instr.relock s (effRelock s)

/-! ### Step, rate and adjustment (R285 to R290) -/

/-- Is the step refused (R285). -/
def stepRefused (s : State) : Bool :=
  s.mer.stepUsed || decide (999999999 < rd s .mer F.mer_STEP_NS)
    || decide (2 ^ 32 ≤ ((rd s .mer F.mer_STEP_AT : Int) - (s.mer.frc : Int)).natAbs)

/-- The step (R285): Meridian time is STEP_SEC and STEP_NS at tick STEP_AT, and valid. The replay table's beginning is the
first time that is (R484). -/
def doStep (s : State) : State :=
  let t : Nat := (rd s .mer F.mer_STEP_SEC * 1000000000 + rd s .mer F.mer_STEP_NS) * 2 ^ 48
  let s1 := { s with mer := { s.mer with
    anchorN := (rd s .mer F.mer_STEP_AT : Int), anchorT := (t : Int), slewed := 0, rem := 0, timeValid := true, stepUsed := true } }
  let s1 := { s1 with mer := { s1.mer with ppsSec := ppsSecond s1, ppsDue := false } }
  let s2 := if rd s1 .trg F.trg_REPLAY_SINCE = 0 then wr s1 .trg F.trg_REPLAY_SINCE (microNow s1) else s1
  setEvt s2 .mer 16

/-- STEP_GO. -/
def effStepGo (f : Func) (s : State) : State :=
  withWrite s f .mer F.mer_STEP_GO 1 (fun s => if stepRefused s then setErr s .mer 16 else doStep s)
/-- The one step after a time-domain reset (R285). -/
def execStepGo (f : Func) (s : State) : Host.Outcome State Fault Refusal := act (Instr.stepGo f) s (effStepGo f s)

/-- RATE takes a value, anchored at the current tick and its time, so that time does not jump (R282, R286). -/
def setRate (s : State) (v : Nat) : State :=
  let t := timeNow s
  let s1 := wr s .mer F.mer_RATE v
  { s1 with mer := { s1.mer with anchorN := (s1.mer.frc : Int), anchorT := t, slewed := 0 } }

/-- RATE_WRITE. -/
def effRateWrite (f : Func) (v : Nat) (s : State) : State :=
  withWrite s f .mer F.mer_RATE v (fun s => if 2 ^ 36 < (signed 64 v).natAbs then setErr s .mer 17 else setRate s v)
/-- A write of RATE (R282, R286). -/
def execRateWrite (f : Func) (v : Nat) (s : State) : Host.Outcome State Fault Refusal :=
  act (Instr.rateWrite f v) s (effRateWrite f v s)

/-- ADJ_WRITE. -/
def effAdjWrite (f : Func) (v : Nat) (s : State) : State :=
  withWrite s f .mer F.mer_ADJ v (fun s =>
    if 2 ^ 52 < (s.mer.rem + signed 64 v).natAbs then setErr s .mer 17
    else { s with mer := { s.mer with rem := s.mer.rem + signed 64 v } })
/-- A write of ADJ adds to the remaining adjustment (R287). -/
def execAdjWrite (f : Func) (v : Nat) (s : State) : Host.Outcome State Fault Refusal :=
  act (Instr.adjWrite f v) s (effAdjWrite f v s)

/-- TDR. -/
def effTdr (f : Func) (s : State) : State :=
  withWrite s f .mer F.mer_TDR 1 (fun s => withS s .mer F.mer_TDR 1 timeDomainReset)
/-- A write of 1 to TDR while the page is quiesced is a time-domain reset (R284, R290). -/
def execTdr (f : Func) (s : State) : Host.Outcome State Fault Refusal := act (Instr.tdr f) s (effTdr f s)

/-! ### Reads with an effect (R289, R295) -/

/-- Run `k` for an 8-byte read of the Meridian page by function `f`; one that is turned away returns 0 (R50). -/
def withRead (s : State) (f : Func) (k : State → State) : State :=
  if reach s f .mer then k s else emit (denyAccess s f) (.readData (List.replicate 8 0))

/-- NOW_NSF_READ. -/
def effNowNsfRead (f : Func) (s : State) : State :=
  withRead s f (fun s =>
    let t := timeNow s
    emit (wr s .mer F.mer_NOW_SEC (secondsForm t)) (.readData (natLE 4 (fracForm t) ++ natLE 4 (nanosForm t))))
/-- A read of NOW_NSF latches that tick's seconds into NOW_SEC (R289). -/
def execNowNsfRead (f : Func) (s : State) : Host.Outcome State Fault Refusal :=
  act (Instr.nowNsfRead f) s (effNowNsfRead f s)

/-- The fields of TSQ_POP. -/
def setPop (s : State) (id valid left frac : Nat) : State :=
  let s1 := wr (wr s .mer F.mer_TSQ_POP_ID id) .mer F.mer_TSQ_POP_VALID valid
  let s2 := wr (wr s1 .mer F.mer_TSQ_POP_LEFT left) .mer F.mer_TSQ_POP_FRAC frac
  emit s2 (.readData (natLE 8 (id + 2 ^ 16 * valid + 2 ^ 17 * left + 2 ^ 32 * frac)))

/-- TSQ_POP. -/
def effTsqPop (f : Func) (s : State) : State :=
  withRead s f (fun s =>
    let q := rd s .mer F.mer_TSQ_SEL
    match if q < 40 then mapGet [] s.mer.tsq q else [] with
    | [] => setPop s 0 0 0 0
    | e :: rest =>
      let s1 := { s with mer := { s.mer with tsq := mapSet [] s.mer.tsq q rest } }
      setPop (wr s1 .mer F.mer_TSQ_POP_T e.lin) e.id 1 rest.length e.frac)
/-- A read of TSQ_POP takes the oldest entry of queue TSQ_SEL (R295). -/
def execTsqPop (f : Func) (s : State) : Host.Outcome State Fault Refusal := act (Instr.tsqPop f) s (effTsqPop f s)

/-! ### Timing pins (R293) -/

/-- PPS_IN_EDGE. -/
def effPpsInEdge (s : State) : State :=
  if rd s .mer F.mer_PPS_IN_EN = 1 then
    let t := compensated s F.mer_X_PPS_IN_COMP
    setEvt (wr (wr s .mer F.mer_PPS_IN_LIN (linForm t)) .mer F.mer_PPS_IN_FRAC (fracForm t)) .mer 21
  else s
/-- A rising edge of 1PPS in stores its time (R293). -/
def execPpsInEdge (s : State) : Host.Outcome State Fault Refusal := act Instr.ppsInEdge s (effPpsInEdge s)

/-- PPS_OUT_PULSE. -/
def effPpsOutPulse (s : State) : State :=
  if rd s .mer F.mer_PPS_OUT_EN = 1 && s.mer.timeValid && s.mer.ppsDue then
    emit { s with mer := { s.mer with ppsDue := false } } (.pin "1PPS_OUT" true)
  else s
/-- 1PPS out rises when Meridian time, moved by X_PPS_OUT_COMP ticks, has reached a whole second in the tick just passed (R293). -/
def execPpsOutPulse (s : State) : Host.Outcome State Fault Refusal := act Instr.ppsOutPulse s (effPpsOutPulse s)

/-! ### Time triggers (R297 to R303) -/

/-- Is trigger `k` armed. -/
def trgArmed (s : State) (k : Nat) : Bool := rd s .mer (F.mer_ARM.ix k) == 1

/-- The instant AT of a trigger, in units of 2⁻⁴⁸ ns. -/
def trgAt (s : State) (k : Nat) : Int := (rd s .mer (F.mer_AT.ix k) : Int) * 2 ^ 48

/-- AT less the lead. -/
def trgLead (s : State) (k : Nat) : Int := trgAt s k - (ef s .mer F.mer_X_LEAD : Int) * 2 ^ 48

/-- Is an ARM bad (R298). -/
def armBad (s : State) (k : Nat) : Bool :=
  let per := rd s .mer (F.mer_PERIOD.ix k)
  !s.mer.timeValid || (decide (per ≠ 0) && decide (per < ef s .mer F.mer_X_LEAD)) || (decide (k < 2) && decide (per ≠ 0))
    || (decide (24 ≤ k) && decide (k < 56) && !fhAvailable s (k - 24))

/-- An accepted ARM: the trigger is armed, or late at once (R298, R299). -/
def armTrigger (s : State) (k : Nat) : State :=
  let s1 := wr (wr s .mer (F.mer_ARM.ix k) 1) .mer (F.mer_LATE.ix k) 0
  if trgLead s1 k < timeNow s1 then lateTrigger s1 k else s1

/-- The effect of a write of 1 to ARM of trigger `k`. -/
def writeArm (s : State) (k : Nat) : State :=
  if 2 ≤ k && k < 8 then s
  else if 8 ≤ k && k < 24 then setErr s .mer 18
  else
    let s1 := if armBad s k then setErr s .mer 19 else s
    if k = 0 && platRunning s then setErr s1 .mer 18
    else if armBad s k || trgArmed s k then s1 else armTrigger s1 k

/-- ARM. -/
def effArm (f : Func) (k : Nat) (s : State) : State := withWrite s f .mer (F.mer_ARM.ix k) 1 (fun s => writeArm s k)
/-- A write of 1 to ARM (R297 to R299). -/
def execArm (f : Func) (k : Nat) (s : State) : Host.Outcome State Fault Refusal := act (Instr.arm f k) s (effArm f k s)

/-- The effect of a write of 0 to ARM of trigger `k` (R302). -/
def writeDisarm (s : State) (k : Nat) : State :=
  if 2 ≤ k && k < 8 then s
  else if 8 ≤ k && k < 24 then setErr s .mer 18
  else if !trgArmed s k then s
  else match mapFind s.mer.fireAt k with
    | none => disarmTrigger s k
    | some _ => setErr { s with mer := { s.mer with stopAfter := mapSet false s.mer.stopAfter k true } } .mer 18

/-- DISARM. -/
def effDisarm (f : Func) (k : Nat) (s : State) : State := withWrite s f .mer (F.mer_ARM.ix k) 0 (fun s => writeDisarm s k)
/-- A write of 0 to ARM (R302). -/
def execDisarm (f : Func) (k : Nat) (s : State) : Host.Outcome State Fault Refusal :=
  act (Instr.disarm f k) s (effDisarm f k s)

/-- A trigger that would convert while the page is quiesced is LATE (R305); a barrier's is released at once (R501). -/
def lateConversion (s : State) (k : Nat) : State :=
  let s1 := lateTrigger s k
  if 8 ≤ k && k < 24 then
    match mapFind s1.trv.barWait (k - 8) with
    | none => s1
    | some w => releaseBarrier (addSat { s1 with trv := { s1.trv with
        barWait := mapPut s1.trv.barWait (k - 8) { w with late := true } } } .trg F.trg_BAR_LATE 1) (k - 8)
  else s1

/-- TRIGGER_CONVERSION. -/
def effTriggerConversion (k : Nat) (s : State) : State :=
  if !trgArmed s k || (mapFind s.mer.fireAt k).isSome || decide (timeNow s < trgLead s k) then s
  else if quiesced s .mer then lateConversion s k
  else { s with mer := { s.mer with fireAt := mapPut s.mer.fireAt k (s.mer.frc + ticksUntil s (trgAt s k)) } }
/-- X_LEAD before AT, a trigger's fire tick is computed and handed to the repeaters (R299). -/
def execTriggerConversion (k : Nat) (s : State) : Host.Outcome State Fault Refusal :=
  act (Instr.triggerConversion k) s (effTriggerConversion k s)

/-- What a firing of trigger `k` does (R297). After a thermal trip the clocks of the plat and the ports stand still (R608). -/
def fireRole (s : State) (k : Nat) : State :=
  if s.stage = .tripped && (k == 0 || (decide (24 ≤ k) && decide (k < 56))) then s
  else if k = 0 then platStart s
  else if k = 1 then
    capture (setEvt (wr s .mer F.mer_CAPTURE_EPOCH (rd s .mer F.mer_CAPTURE_EPOCH + 1)) .mer 22)
  else if k < 8 then s
  else if k < 24 then
    match mapFind s.trv.barWait (k - 8) with
    | none => s
    | some w => { s with trv := { s.trv with barWait := mapPut s.trv.barWait (k - 8) { w with fired := true } } }
  else if k < 56 then openWindow s (k - 24)
  else setEvt s .mer (24 + (k - 56))

/-- The trigger after a firing (R301, R302): a periodic one moves AT by PERIOD, and stays armed unless it was disarmed meanwhile;
a one-shot one clears ARM; and FIRES counts. -/
def afterFire (s : State) (k : Nat) : State :=
  let s1 := wr s .mer (F.mer_FIRES.ix k) (rd s .mer (F.mer_FIRES.ix k) + 1)
  let per := rd s1 .mer (F.mer_PERIOD.ix k)
  let s2 := if per ≠ 0 then wr s1 .mer (F.mer_AT.ix k) (rd s1 .mer (F.mer_AT.ix k) + per) else s1
  if per ≠ 0 && !mapGet false s2.mer.stopAfter k then
    { s2 with mer := { s2.mer with fireAt := mapErase s2.mer.fireAt k } }
  else disarmTrigger s2 k

/-- TRIGGER_FIRE. -/
def effTriggerFire (k : Nat) (s : State) : State :=
  match mapFind s.mer.fireAt k with
  | none => s
  | some n => if n ≤ s.mer.frc then fireRole (afterFire s k) k else s
/-- At its fire tick, a trigger takes effect (R297, R301). -/
def execTriggerFire (k : Nat) (s : State) : Host.Outcome State Fault Refusal :=
  act (Instr.triggerFire k) s (effTriggerFire k s)

end Sys2Proof.Machine
end

