-- ==== Sys2Proof/Machine/Monument.lean ====
section
/-! DEFINITION. Monument (R573 to R598): attestation, trust anchors, the injection policy, the debug lock, firmware update,
and the answers of the management endpoint. -/

namespace Sys2Proof.Machine

/-! ### Keys (R578) -/

/-- A signature under the alias key, 64 bytes (R583). -/
def signAk (s : State) (msg : List Byte) : List Byte := fitBytes 64 (Config.sm2Sign (akInput s) s.mon.draws msg)

/-- A signature under the device identity key, 64 bytes (R578, R594). -/
def signDik (s : State) (msg : List Byte) : List Byte := fitBytes 64 (Config.sm2SignDik s.mon.draws msg)

/-- Is a debug erase under way: DEBUG_STATE is ERASING, and every key outside fuses is gone (R590). -/
def erasing (s : State) : Bool := rd s .mon F.mon_DEBUG_STATE == 1

/-- The key engine draws random bits. -/
def nextDraw (s : State) : State := { s with mon := { s.mon with draws := s.mon.draws + 1 } }

/-! ### Attestation (R582, R583) -/

/-- The attestation fields of a page: NONCE, ATTEST_Q, ATTEST_BUSY, ATTEST_RESULT. -/
def attestFields (p : Page) : Option (Fld × Fld × Fld × Fld) :=
  match p with
  | .mon => some (F.mon_NONCE, F.mon_ATTEST_Q, F.mon_ATTEST_BUSY, F.mon_ATTEST_RESULT)
  | .ptn _ => some (F.ptn_NONCE, F.ptn_ATTEST_Q, F.ptn_ATTEST_BUSY, F.ptn_ATTEST_RESULT)
  | _ => none

/-- A write of 1 to ATTEST_GO: the request waits its turn with the NONCE in effect (R582). -/
def requestReport (s : State) (p : Page) : State :=
  match attestFields p with
  | none => s
  | some (nonce, _, busy, _) =>
    if rd s p busy = 1 then s
    else
      let b := (List.range 8).flatMap (fun k => natLE 4 (rd s p (nonce.ix k)))
      { wr s p busy 1 with mon := { s.mon with attests := s.mon.attests ++ [(p, b)] } }

/-- The ATTEST_GO field of a page. -/
def attestGoField (p : Page) : Fld :=
  match p with
  | .mon => F.mon_ATTEST_GO
  | _ => F.ptn_ATTEST_GO

/-- ATTEST_GO. -/
def effAttestGo (f : Func) (p : Page) (s : State) : State :=
  match attestFields p with
  | none => s
  | some _ => withWrite s f p (attestGoField p) 1 (fun s => requestReport s p)
/-- ATTEST_GO (R582): a report is requested on the MON page or a PTN page. -/
def execAttestGo (f : Func) (p : Page) (s : State) : Host.Outcome State Fault Refusal :=
  act (Instr.attestGo f p) s (effAttestGo f p s)

/-- The values in effect of the PTN fields of class S and H in offset order, each in the fewest whole bytes (R583). -/
def ptnConfig (s : State) (p : Nat) : List Byte :=
  (((expand (blockTable (.ptn p))).filter (fun f => f.cls == .s || f.cls == .h)).mergeSort
    (fun a b => decide (8 * a.off + a.lo ≤ 8 * b.off + b.lo))).flatMap (fun f => natLE (ceilDiv f.w 8) (ef s (.ptn p) f))

/-- CONFIG of a partition report: the digest over the partition number, its VF, its pages' addresses and its fields. -/
def configDigest (s : State) (p : Nat) : List Byte :=
  let pages := ((ownedPages s p).map pageBase).mergeSort (fun a b => decide (a ≤ b))
  fitBytes 32 (Config.sm3 (natLE 1 p ++ natLE 1 (rd s (.ptn p) F.ptn_VF) ++ pages.flatMap (natLE 4) ++ ptnConfig s p))

/-- The flags byte of a report. -/
def reportFlags (s : State) (p : Option Nat) : Nat :=
  ofBool (debugOpen s) + 2 * rd s .mon F.mon_FALLBACK + 4 * ofBool s.mer.timeValid + 8 * rd s .hlt F.hlt_DRAINING
    + 16 * rd s .hlt F.hlt_EXPELLED + 32 * (match p with
      | some n => ofBool (ptn s n).recovered
      | none => 0)

/-- Bytes 0x000 to 0x1BF of a report (R583). -/
def reportBody (s : State) (p : Option Nat) (nonce : List Byte) : List Byte :=
  natLE 2 1 ++ natLE 1 (if p.isSome then 2 else 1) ++ natLE 1 (p.getD 0xFF) ++ natLE 2 s.mon.bootCount
    ++ natLE 1 (reportFlags s p) ++ natLE 1 s.part.grade ++ fitBytes 32 nonce ++ natLE 16 s.mon.deviceId
    ++ natLE 8 (linNow s) ++ measured s 8
    ++ (match p with
      | some n => configDigest s n
      | none => List.replicate 32 0)
    ++ natLE 2 (mapGet 0 s.mon.slotSvn s.mon.bootSlot) ++ natLE 2 s.mon.svnFused ++ List.replicate 28 0
    ++ fitBytes 64 (Config.akPublic (akInput s))

/-- A report with its signature. -/
def reportBytes (s : State) (p : Option Nat) (nonce : List Byte) : List Byte :=
  reportBody s p nonce ++ signAk s (reportBody s p nonce)

/-- The partition of an attestation page; none for the MON page. -/
def attestPtn : Page → Option Nat
  | .ptn n => some n
  | _ => none

/-- A request ends with a result; a report written is raised or counted, another result denied (R582, R597, R598). -/
def endReport (s : State) (p : Page) (result : Nat) : State :=
  match attestFields p with
  | none => s
  | some (_, _, busy, res) =>
    let s1 := wr (wr s p busy 0) p res result
    match attestPtn p with
    | some n => if result = 1 then addSat s1 (.ptn n) F.ptn_ATTESTS 1 else s1
    | none => if result = 1 then setEvt s1 .mon 16 else setErr s1 .mon 16

/-- Monument serves a request: the report goes to ATTEST_Q without WAIT (R582). -/
def serveReport (s : State) (p : Page) (nonce : List Byte) : State :=
  match attestFields p with
  | none => s
  | some (_, qf_, _, _) =>
    let q := rd s p qf_
    let who := (attestPtn p).getD 0xFF
    if erasing s then endReport s p 4
    else if qOwner s q ≠ who then endReport s p 2
    else match hwPost s .monument q (reportBytes s (attestPtn p) nonce) 0xFF 0xFFFF 0 false with
      | (.parcel _, s1) => endReport (nextDraw s1) p 1
      | (_, s1) => endReport s1 p 3

/-- ATTEST_REPORT. -/
def effAttestReport (p : Page) (s : State) : State :=
  match s.mon.attests with
  | [] => s
  | (x, nonce) :: rest =>
    if x = p && (pageServed s p || erasing s) then
      serveReport { s with mon := { s.mon with attests := rest } } p nonce
    else s
/-- ATTEST_REPORT (R582, R583): the oldest request, made on page `p`, is served. -/
def execAttestReport (p : Page) (s : State) : Host.Outcome State Fault Refusal :=
  act (Instr.attestReport p) s (effAttestReport p s)

/-! ### Vendor messages (R579, R587, R593, R596) -/

/-- ANCHOR_SET. -/
def effAnchorSet (slot : Nat) (key sig : List Byte) (s : State) : State :=
  if !endpointOn s then s
  else if 3 ≤ slot || key.length ≠ 64 then mgmtAnswer s 2 []
  else
    let put := mgmtAnswer { s with mon := { s.mon with anchors := mapPut s.mon.anchors slot key } } 0 []
    match mapFind s.mon.anchors slot with
    | none => put
    | some old =>
      if sig.length ≠ 64 then mgmtAnswer s 2 []
      else if Config.sm2Verify old (natLE 1 slot ++ key) sig then put else mgmtAnswer s 1 []
/-- ANCHOR_SET (R579, R596): an empty slot is written, a full one replaced under its own key's signature. -/
def execAnchorSet (slot : Nat) (key sig : List Byte) (s : State) : Host.Outcome State Fault Refusal :=
  act (Instr.anchorSet slot key sig) s (effAnchorSet slot key sig s)

/-- INJ_POLICY. -/
def effInjPolicy (v : Nat) (s : State) : State :=
  if !endpointOn s then s
  else if 2 < v then mgmtAnswer s 2 []
  else mgmtAnswer { s with mon := { s.mon with injPolicy := v } } 0 []
/-- INJ_POLICY (R593, R596): the policy is stored. -/
def execInjPolicy (v : Nat) (s : State) : Host.Outcome State Fault Refusal := act (Instr.injPolicy v) s (effInjPolicy v s)

/-- An answer to a request of the debug lock, which comes through the mailbox too: in RECOVERY only the mailbox brings one, and the
endpoint answers nothing (R575, R587). -/
def lockAnswer (s : State) (status : Nat) (data : List Byte) : State := if endpointOn s then mgmtAnswer s status data else s

/-- The challenge as the debug mailbox and MON 0x0A0 show it: 0 where none is held (R587, R597). -/
def mailboxChallenge (s : State) : List Byte :=
  match s.mon.challenge with
  | some (b, _) => b
  | none => List.replicate 32 0

/-- DBG_CHALLENGE. -/
def effDbgChallenge (s : State) : State :=
  if s.pwr.pwrok then
    let b := fitBytes 32 (Config.randomBytes s.mon.draws)
    let s1 := nextDraw s
    lockAnswer { s1 with mon := { s1.mon with challenge := some (b, s.mer.frc) } } 0 b
  else s
/-- DBG_CHALLENGE (R587, R596): 32 random bytes are drawn and held, whether the mailbox or a vendor message asks for them. -/
def execDbgChallenge (s : State) : Host.Outcome State Fault Refusal := act Instr.dbgChallenge s (effDbgChallenge s)

/-- Has a challenge drawn at tick `t` expired: 600 s have passed (R587). -/
def challengeOver (s : State) (t : Nat) : Bool := decide (t + 600000000000 ≤ s.mer.frc)

/-- CHALLENGE_EXPIRY. -/
def effChallengeExpiry (s : State) : State :=
  match s.mon.challenge with
  | none => s
  | some (_, t) => if challengeOver s t then { s with mon := { s.mon with challenge := none } } else s
/-- CHALLENGE_EXPIRY (R587): the challenge is held no longer. -/
def execChallengeExpiry (s : State) : Host.Outcome State Fault Refusal :=
  act Instr.challengeExpiry s (effChallengeExpiry s)

/-! ### The debug lock (R588 to R591) -/

/-- The reply status of a token: 0 accepted, 1 bad signature, 2 malformed, 3 refused (R588, R589, R592). In RECOVERY no device
identity has been derived that a token could name (R574). -/
def tokenStatus (s : State) (b : List Byte) : Nat :=
  if b.length ≠ 120 || leAt b 0 1 ≠ 1 || leAt b 1 1 ≠ 1 || 8 ≤ leAt b 2 2 || !zeroBytes b 52 56 then 2
  else match mapFind s.mon.anchors 2 with
    | none => 1
    | some key =>
      if !Config.sm2Verify key (b.take 56) (b.drop 56) then 1
      else match s.mon.challenge with
        | none => 3
        | some (c, t) =>
          if leAt b 4 16 ≠ s.mon.deviceId || (b.drop 20).take 32 ≠ c || challengeOver s t || leAt b 2 2 = 0
              || 32 ≤ s.mon.debugRecord.length || erasing s || s.stage = .recovery then 3 else 0

/-- Step 3 of R590: every key held outside fuses is zeroised and every partition becomes FREE, with no completion posted;
their pages return to the manager. Every block's work has ended (step 1). -/
def destroyAll (s : State) : State :=
  let s1 := blocksReset s
  let s2 := registersReset { s1 with ptns := [], migs := [], hlt := { s1.hlt with injEnd := none } }
  let s3 := forUpTo 64 (fun p s => clearPage s (.ptn p)) s2
  { s3 with plat := { s3.plat with images := [] }, trv := { s3.trv with replay := [] }, book := FieldBook.reset,
            tens := [], flows := [], tierHeld := [] }

/-- The fence of step 1 outlasts the reset of the page that shows it (R487, R590). -/
def keepFence (s old : State) : State :=
  if leaseState old = 2 then wr (wr s .trg F.trg_LEASE_STATE 2) .trg F.trg_FENCES (rd old .trg F.trg_FENCES) else s

/-- An accepted token (R590, steps 1 to 3): READY clears, the traverse fences, the record's next entry has ERASE_STARTED, and
what the port could reach is destroyed. After a thermal trip the part stays tripped (R608): no clock runs that could end the
erase, which the next boot then makes (R592). -/
def startErase (s : State) (scope : Nat) : State :=
  let s1 := if leaseState s = 1 then fenceNow s else s
  let s2 := keepFence (destroyAll s1) s1
  let i := lowestFree 0 s2.mon.debugRecord
  let m := { s2.mon with
    challenge := none, debugRecord := mapPut s2.mon.debugRecord i 1, eraseScope := scope, eraseTick := s.mer.frc
    dsk := [], dusBlocked := true }
  let s3 := wr (wr { s2 with stage := if s.stage = .tripped then .tripped else .erased, mon := m } .mon F.mon_DEBUG_STATE 1) .hlt F.hlt_INJ_GRANTED 0
  emit (setEvt s3 .mon 17) (.pldm "DEBUG_ERASING")

/-- DBG_UNLOCK. -/
def effDbgUnlock (b : List Byte) (s : State) : State :=
  if s.pwr.pwrok then
    let r := tokenStatus s b
    if r = 0 then lockAnswer (startErase s (leAt b 2 2)) 0 [] else lockAnswer (addSat s .mon F.mon_DBG_REJECTS 1) r []
  else s
/-- DBG_UNLOCK (R588 to R590, R596): an accepted token starts the debug erase, any other counts in DBG_REJECTS. -/
def execDbgUnlock (b : List Byte) (s : State) : Host.Outcome State Fault Refusal :=
  act (Instr.dbgUnlock b) s (effDbgUnlock b s)

/-- Steps 6 and 7 of R590: the entry, M5, the keys, and the port opens. -/
def openDebug (s : State) : State :=
  let m := { s.mon with
    debugRecord := finishRecord s, dskGen := s.mon.dskGen + 1, dsk := fitBytes 32 (Config.randomBytes s.mon.draws)
    draws := s.mon.draws + 1 }
  let s1 := extendM { s with mon := m } 5 (List.replicate 32 1)
  emit (setEvt (wr s1 .mon F.mon_DEBUG_STATE 2) .mon 18) (.pldm "DEBUG_OPENED")

/-- DEBUG_ERASE_COMPLETE. -/
def effDebugEraseComplete (s : State) : State :=
  if s.stage = .erased then
    let s1 := openDebug s
    let s2 := wr { s1 with stage := .training, locs := bootLocs s1 } .trg F.trg_LEASE_STATE 0
    match s2.mon.warmAfterErase with
    | none => s2
    | some c => warmNow { s2 with mon := { s2.mon with warmAfterErase := none } } c
  else s
/-- DEBUG_ERASE_COMPLETE (R590 to R592): memory is zeroed, the entry programmed, keys re-derived, the port open; training
follows, or a warm reset that waited. With the training the fence ends, since no TEAR_DOWN can verify any more (log entry 117). -/
def execDebugEraseComplete (s : State) : Host.Outcome State Fault Refusal :=
  act Instr.debugEraseComplete s (effDebugEraseComplete s)

/-! ### Firmware update (R575, R595) -/

/-- FIRMWARE_UPDATE. -/
def effFirmwareUpdate (image sig : List Byte) (svn : Nat) (s : State) : State :=
  if !s.pwr.pwrok then s
  else if !Config.sm2Verify Config.raloxKey (image ++ natLE 2 svn) sig then mgmtAnswer s 1 []
  else if svn < s.mon.svnFused || 2 ^ 16 ≤ svn then mgmtAnswer s 3 []
  else
    let k := 1 - s.mon.bootSlot % 2
    mgmtAnswer { s with mon := { s.mon with
      slotImage := mapPut s.mon.slotImage k image, slotSvn := mapPut s.mon.slotSvn k svn, nextSlot := k } } 0 []
/-- FIRMWARE_UPDATE (R595): a component whose signature and SVN pass is written to the flash slot that did not boot, for the
next cold reset. -/
def execFirmwareUpdate (image sig : List Byte) (svn : Nat) (s : State) : Host.Outcome State Fault Refusal :=
  act (Instr.firmwareUpdate image sig svn) s (effFirmwareUpdate image sig svn s)

/-! ### SPDM and MCTP (R581, R594) -/

/-- The certificate in a slot (R581, R594): 0 DIK, 1 AK, at most 4,064 bytes. -/
def certificate (s : State) (slot : Nat) : List Byte :=
  (if slot = 0 then Config.dikCert else Config.akCert (measured s 6) s.part.grade (debugOpen s)).take 4064

/-- GET_CERTIFICATE. -/
def effGetCertificate (slot off len : Nat) (s : State) : State :=
  if !endpointOn s then s
  else if 2 ≤ slot then mgmtAnswer s 2 []
  else mgmtAnswer s 0 (((certificate s slot).drop off).take len)
/-- GET_CERTIFICATE (R581, R594): a part of the DIK or AK certificate. -/
def execGetCertificate (slot off len : Nat) (s : State) : Host.Outcome State Fault Refusal :=
  act (Instr.getCertificate slot off len) s (effGetCertificate slot off len s)

/-- CHALLENGE. -/
def effChallenge (slot : Nat) (nonce : List Byte) (s : State) : State :=
  if !endpointOn s then s
  else if 2 ≤ slot || nonce.length ≠ 32 then mgmtAnswer s 2 []
  else if erasing s then mgmtAnswer s 3 []
  else mgmtAnswer (nextDraw s) 0 (if slot = 0 then signDik s nonce else signAk s nonce)
/-- CHALLENGE (R594): answered with a signature under the key of the certificate slot, 0 DIK and 1 AK; while a debug erase has
destroyed both (R578, R590), refused. -/
def execChallenge (slot : Nat) (nonce : List Byte) (s : State) : Host.Outcome State Fault Refusal :=
  act (Instr.challenge slot nonce) s (effChallenge slot nonce s)

/-- GET_MEASUREMENTS. -/
def effGetMeasurements (index : Nat) (s : State) : State :=
  if !endpointOn s then s
  else if index = 0xFF then mgmtAnswer s 0 (measured s 8)
  else if index < 8 then mgmtAnswer s 0 (((measured s 8).drop (32 * index)).take 32)
  else mgmtAnswer s 2 []
/-- GET_MEASUREMENTS (R594): one of M0 to M7, or all. -/
def execGetMeasurements (index : Nat) (s : State) : Host.Outcome State Fault Refusal :=
  act (Instr.getMeasurements index) s (effGetMeasurements index s)

/-- SET_ENDPOINT_ID. -/
def effSetEndpointId (eid : Nat) (s : State) : State :=
  if !s.pwr.pwrok then s
  else if eid = 0 || eid = 255 then mgmtAnswer s 2 []
  else mgmtAnswer { s with mon := { s.mon with eid := some eid } } 0 []
/-- SET_ENDPOINT_ID (R575, R594): the bus owner assigns the endpoint ID. -/
def execSetEndpointId (eid : Nat) (s : State) : Host.Outcome State Fault Refusal :=
  act (Instr.setEndpointId eid) s (effSetEndpointId eid s)

end Sys2Proof.Machine
end

