-- ==== Sys2Proof/Machine/ParcelQueues.lean ====
section
/-! DEFINITION. The commands of the parcel queues (R250 to R279). -/

namespace Sys2Proof.Machine

/-- An operation of a PQ page ends: OP_STATUS, and OP_REFUSED unless DONE or EMPTY (R274, R277). -/
def pageStatus (s : State) (g st : Nat) : State :=
  let s1 := wr s (.pq g) F.pq_OP_STATUS st
  if st = 0x00 || st = 0x84 then s1 else setErr s1 (.pq g) 16

/-- The partition on whose behalf an agent uses the pool (R251, R615): the owner of its page, and the partition of the grant's
cell for a lent run or a plat work item. None: the agent serves several owners (the plat's slot completions, a fronthaul port's
flows, Monument's reports). -/
def agentOwner (s : State) (a : Agent) : Option Nat :=
  match a with
  | .station n => some (match (stn s n).job with
    | some j => j.ptn
    | none => ownerOf s (.stn n))
  | .mover k => some (ownerOf s (.mov k))
  | .ten t => some (ten s t).ptn
  | .cdu i => some (cdu s i).ptn
  | .fieldBook p => some p
  | .fhQueue j => some (ownerOf s (.fhq j))
  | .trvChan c => some (ownerOf s (.trc c))
  | .trvJob j => some (ownerOf s (.trj j))
  | .hif p _ => some p
  | .trv => some (ownerOf s .trg)
  | .fhPort _ | .plat | .monument => none

/-- Does the owner for whom an agent uses queue `q` own it (R251): the partition of a cell whose SLOT_CPL_Q it is, the owner of
the port or of a flow that is delivered to it, the page whose ATTEST_Q it is (R325, R338, R439, R440, R582). -/
def agentOwns (s : State) (a : Agent) (q : Nat) : Bool :=
  match agentOwner s a with
  | some p => decide (p = qOwner s q)
  | none =>
    match a with
    | .plat => (List.range 1024).any (fun c =>
        let x := cellOf s (activePattern s) c
        x.valid && decide (x.cplQ = q) && decide (x.ptn = qOwner s q))
    | .fhPort k => decide (qOwner s q = ownerOf s (.fhp k)) || (validFlows s).any (fun i =>
        decide ((flowAt s i).destQ = q) && decide ((flowAt s i).ptn = qOwner s q))
    | _ => decide (rd s .mon F.mon_ATTEST_Q = q) && decide (qOwner s q = 0xFF)
        || (List.range 64).any (fun p => decide (rd s (.ptn p) F.ptn_ATTEST_Q = q) && decide (qOwner s q = p))

/-- The stake of the entry that a submission ring holds fetched (R516). -/
def heldStakeOf (s : State) (a : Agent) : Nat :=
  match a with
  | .hif p k => (match (mapGet Sq.idle (ptn s p).sqs k).held with
    | some h => h.stake.getD 0xFFFF
    | none => 0xFFFF)
  | _ => 0xFFFF

/-- The stake of the item that an agent runs or is about to accept, 0xFFFF for none (R615). -/
def agentStake (s : State) (a : Agent) : Nat :=
  let item (w : Option WorkItem) : Nat := match w with
    | some w => w.stake
    | none => 0xFFFF
  match a with
  | .station n => match (stn s n).job with
    | some j => j.stake
    | none => 0xFFFF
  | .ten t => item (ten s t).item
  | .cdu i => item (cdu s i).item
  | .mover _ | .trvChan _ | .hif _ _ => (match s.plat.granted.find? (fun e => decide (e.1 = a)) with
    | some e => e.2
    | none => heldStakeOf s a)
  | _ => 0xFFFF

/-- SRC_PTN of a hardware producer's parcel on queue `q` (R615): its items' partition, that of the cell for a slot completion,
0xFF for what no item produces. -/
def agentSrc (s : State) (a : Agent) (q : Nat) : Nat :=
  match a with
  | .fieldBook _ | .fhQueue _ | .trvJob _ | .fhPort _ | .trv | .monument => 0xFF
  | .plat => qOwner s q
  | _ => (agentOwner s a).getD 0xFF

/-- The partition of a PQ page's user (R253). -/
def funcSrc (s : State) (f : Func) : Nat :=
  match f with
  | .pf => 0xFF
  | .vf v => (ptnOfVf s v).getD 0xFF

/-- Run a page operation on the group of queue `q` when the access is served (R50), or a hardware operation when R251
lets it be made. -/
def withPq (s : State) (r : Requester) (g : Nat) (q : Option Nat) (page : Func → State → State)
    (hw : Agent → Bool → State → State) : State :=
  match r with
  | .page f => if reach s f (.pq g) then page f s else denyAccess s f
  | .hw a w => if (match q with
      | some q => agentOwns s a q
      | none => true) then hw a w s else s

/-- RESERVE (R256, R267, R268). A hardware unit's uses the queue's HW_PRIO (R259); the commands of the units that reserve,
write and commit in one operation do so by themselves (`hwPost`). -/
def effReserve (r : Requester) (q n prio : Nat) (s : State) : State :=
  withPq s r (q / 16) (some q)
    (fun f s => match reserveNow s q n prio (funcSrc s f) 0xFFFF with
      | (.parcel pid, s1) =>
        pageStatus (wr s1 (.pq (q / 16)) F.pq_OP_OUT (match parcelOf s1 pid with
          | some x => handleOf x
          | none => 0)) (q / 16) 0x00
      | (.status c, s1) => pageStatus s1 (q / 16) c
      | (.stalled, s1) => s1)
    (fun a w s =>
      let hp := qf s q F.pq_HW_PRIO
      let res := if w then
          reserveWait s q { agent := a, n := n, prio := hp, payload := none, srcPtn := agentSrc s a q,
                            srcStake := agentStake s a, token := 0, order := 0, owed := none }
        else reserveNow s q n hp (agentSrc s a q) (agentStake s a)
      match res with
      | (.parcel pid, s1) => { s1 with pool := { s1.pool with granted := s1.pool.granted ++ [(a, 0, pid)] } }
      | (.status c, s1) => { s1 with pool := { s1.pool with ended := s1.pool.ended ++ [(a, 0, c)] } }
      | (.stalled, s1) => s1)

/-- RESERVE reserves a parcel of N bytes, holds it back, or refuses it (R256). -/
def execReserve (r : Requester) (q n prio : Nat) (s : State) : Host.Outcome State Fault Refusal :=
  act (Instr.reserve r q n prio) s (effReserve r q n prio s)

/-- COMMIT by handle (R258, R274). -/
def effCommit (r : Requester) (g h len : Nat) (s : State) : State :=
  match byHandle s h with
  | none => withPq s r g none (fun _ s => pageStatus s g 0x81) (fun a _ s =>
      { s with pool := { s.pool with ended := s.pool.ended ++ [(a, 0, 0x81)] } })
  | some (pid, x) =>
    withPq s r g (some x.q)
      (fun _ s => if x.q / 16 = g then
          let res := commitOp s pid len
          pageStatus res.2 g res.1
        else pageStatus s g 0x81)
      (fun a _ s =>
        let res := commitOp s pid len
        if res.1 = 0x00 then res.2
        else { res.2 with pool := { res.2.pool with ended := res.2.pool.ended ++ [(a, 0, res.1)] } })

/-- COMMIT writes the length word, or withdraws the parcel when LEN is 0 (R258). -/
def execCommit (r : Requester) (g h len : Nat) (s : State) : Host.Outcome State Fault Refusal :=
  act (Instr.commit r g h len) s (effCommit r g h len s)

/-- A READ through the PQ page, which never waits (R260, R261, R270). -/
def pageRead (s : State) (q : Nat) : State :=
  let g := q / 16
  match queueStop s q with
  | some c => pageStatus s g c
  | none =>
    match (if quiesced s (.pq g) then none else nextDeliverable s q) with
    | none => pageStatus s g 0x84
    | some (l, pid) =>
      let s1 := deliver s q l pid
      match parcelOf s1 pid with
      | none => s1
      | some x =>
        pageStatus (wr (wr (wr (wr s1 (.pq g) F.pq_OP_OUT (handleOf x)) (.pq g) F.pq_OP_LEN x.len)
          (.pq g) F.pq_OP_OUT_PRIO x.prio) (.pq g) F.pq_OP_REDELIV (ofBool x.redelivered)) g 0x00

/-- READ (R260, R261). -/
def effRead (r : Requester) (q : Nat) (s : State) : State :=
  withPq s r (q / 16) (some q) (fun _ s => pageRead s q)
    (fun a _ s => match hwRead s a q with
      | (.parcel pid, s1) => { s1 with pool := { s1.pool with inbox := s1.pool.inbox ++ [(a, q, pid)] } }
      | (.status c, s1) => { s1 with pool := { s1.pool with ended := s1.pool.ended ++ [(a, readToken q, c)] } }
      | (.stalled, s1) => s1)

/-- READ delivers the next committed parcel, stalls with WAIT, or completes with EMPTY (R260). Hardware consumers
always read with WAIT (R261). -/
def execRead (r : Requester) (q : Nat) (s : State) : Host.Outcome State Fault Refusal :=
  act (Instr.read r q) s (effRead r q s)

/-- Run an operation on a queue that is on, and report its status on the page for a page operation. -/
def simpleOp (r : Requester) (q : Nat) (s : State) (k : State → State) : State :=
  withPq s r (q / 16) (some q)
    (fun _ s => match queueStop s q with
      | some c => pageStatus s (q / 16) c
      | none => pageStatus (k s) (q / 16) 0x00)
    (fun _ _ s => if (queueStop s q).isSome then s else k s)

/-- MARK takes the value of READ in every list (R262). -/
def markQueue (s : State) (q : Nat) : State :=
  setQueue s q { queue s q with lists := mapAll PList.empty (queue s q).lists (fun _ y => { y with mark := y.read }) }

/-- MARK (R262). -/
def effMark (r : Requester) (q : Nat) (s : State) : State := simpleOp r q s (fun s => markQueue s q)

/-- MARK sets MARK to READ in every list of the queue (R262). -/
def execMark (r : Requester) (q : Nat) (s : State) : Host.Outcome State Fault Refusal :=
  act (Instr.mark r q) s (effMark r q s)

/-- READ takes the value of MARK in every list, so the parcels between are delivered again (R262). -/
def rewindQueue (s : State) (q : Nat) : State :=
  let before := (nextDeliverable s q).isSome
  let s1 := setQueue s q
    { queue s q with lists := mapAll PList.empty (queue s q).lists (fun _ y => { y with read := y.mark }) }
  wake (noteNonempty s1 q before) q

/-- REWIND (R262). -/
def effRewind (r : Requester) (q : Nat) (s : State) : State := simpleOp r q s (fun s => rewindQueue s q)

/-- REWIND sets READ to MARK in every list of the queue (R262). -/
def execRewind (r : Requester) (q : Nat) (s : State) : Host.Outcome State Fault Refusal :=
  act (Instr.rewind r q) s (effRewind r q s)

/-- Free every delivered parcel from HEAD up to READ in every list (R262). -/
def releaseQueue (s : State) (q : Nat) : State :=
  (((queue s q).lists.flatMap (fun e => e.2.items.take e.2.read))).foldl (fun s pid => releaseAs s pid 0x00) s

/-- RELEASE (R262). -/
def effRelease (r : Requester) (q : Nat) (s : State) : State := simpleOp r q s (fun s => releaseQueue s q)

/-- RELEASE frees every delivered parcel from HEAD up to READ in every list (R262). -/
def execRelease (r : Requester) (q : Nat) (s : State) : Host.Outcome State Fault Refusal :=
  act (Instr.release r q) s (effRelease r q s)

/-- RELEASE_H of a parcel on a queue that is on: the status, and the state (R262). -/
def releaseH (s : State) (pid : Nat) (x : Parcel) : Nat × State :=
  match queueStop s x.q with
  | some c => (c, s)
  | none => if x.delivered then (0x00, releaseAs s pid 0x00) else (0x81, s)

/-- RELEASE_H by handle (R255, R262, R274). -/
def effReleaseH (r : Requester) (g h : Nat) (s : State) : State :=
  match byHandle s h with
  | none => withPq s r g none (fun _ s => pageStatus s g 0x81) (fun _ _ s => s)
  | some (pid, x) =>
    withPq s r g (some x.q)
      (fun _ s => if x.q / 16 = g then
          let res := releaseH s pid x
          pageStatus res.2 g res.1
        else pageStatus s g 0x81)
      (fun _ _ s => (releaseH s pid x).2)

/-- RELEASE_H frees the one delivered parcel named by its handle (R262). -/
def execReleaseH (r : Requester) (g h : Nat) (s : State) : Host.Outcome State Fault Refusal :=
  act (Instr.releaseH r g h) s (effReleaseH r g h s)

/-- Has a stalled read's WAIT_LIMIT passed. -/
def StalledRead.due (st : StalledRead) (now : Nat) : Bool :=
  match st.deadline with
  | some d => decide (d ≤ now)
  | none => false

/-- The reads of queue `q` whose WAIT_LIMIT has passed end with EMPTY (R261). -/
def effWaitLimitExpiry (q : Nat) (s : State) : State :=
  let x := queue s q
  let due := x.stalls.filter (fun st => st.due s.mer.frc)
  let s1 := setQueue s q { x with stalls := x.stalls.filter (fun st => !st.due s.mer.frc) }
  wake { s1 with pool := { s1.pool with ended := s1.pool.ended ++ due.map (fun st => (st.agent, readToken q, 0x84)) } } q

/-- A read stalled for WAIT_LIMIT ticks ends with EMPTY (R261). -/
def execWaitLimitExpiry (q : Nat) (s : State) : Host.Outcome State Fault Refusal :=
  act (Instr.waitLimitExpiry q) s (effWaitLimitExpiry q s)

/-- `count` freed cells, the oldest first, finish zeroing, and the reservation lines are retried (R252, R268). -/
def effCellsFreed (count : Nat) (s : State) : State :=
  let done := s.pool.zeroing.take count
  let s1 := wipeAll { s with pool := { s.pool with zeroing := s.pool.zeroing.drop count } }
    (fun w => { w with cells := w.cells.filter (fun c => !done.contains c) })
  retryLines s1 (lineTotal s1)

/-- Freed cells return to the free list, and the head of each reservation line is retried oldest first (R252). -/
def execCellsFreed (count : Nat) (s : State) : Host.Outcome State Fault Refusal :=
  act (Instr.cellsFreed count) s (effCellsFreed count s)

/-- A write of 1 to ABORT (R269). -/
def effAbort (f : Func) (q : Nat) (s : State) : State :=
  withWrite s f (qPage q) (F.pq_ABORT.ix (q % 16)) 1 (fun s => abortQueue s q)

/-- ABORT ends every stalled operation with ABORTED, frees all parcels and sets STATE to ABORTED (R269). -/
def execAbort (f : Func) (q : Nat) (s : State) : Host.Outcome State Fault Refusal :=
  act (Instr.abort f q) s (effAbort f q s)

/-- A write of 1 to CLEAR: an aborted queue returns to ON with empty lists (R269). -/
def effClear (f : Func) (q : Nat) (s : State) : State :=
  withWrite s f (qPage q) (F.pq_CLEAR.ix (q % 16)) 1
    (fun s => if (queue s q).aborted then setQueue s q { queue s q with lists := [], aborted := false } else s)

/-- CLEAR returns an aborted queue to ON with empty lists (R269). -/
def execClear (f : Func) (q : Nat) (s : State) : Host.Outcome State Fault Refusal :=
  act (Instr.clear f q) s (effClear f q s)

/-- A write of ENABLE, a class S field (R57, R262). -/
def effQueueEnable (f : Func) (q : Nat) (on : Bool) (s : State) : State :=
  let fl := F.pq_ENABLE.ix (q % 16)
  withWrite s f (qPage q) fl (ofBool on) (fun s =>
    withS s (qPage q) fl (ofBool on) (fun s =>
      if ofBool on = qf s q F.pq_ENABLE then s else if on then enableQueue s q else disableQueue s q))

/-- A write of ENABLE disables the queue, ending stalled operations with QUEUE_OFF, or enables it with READ and MARK
placed at HEAD (R262). -/
def execQueueEnable (f : Func) (q : Nat) (on : Bool) (s : State) : Host.Outcome State Fault Refusal :=
  act (Instr.queueEnable f q on) s (effQueueEnable f q on s)

/-- The parcel that a group's data window shows, if its handle is current and names a parcel of the group (R275). -/
def windowParcel (s : State) (g : Nat) : Option (Nat × Parcel) :=
  match byHandle s (rd s (.pq g) F.pq_WIN_HANDLE) with
  | some (pid, x) => if x.q / 16 = g then some (pid, x) else none
  | none => none

/-- An access to a group's data window (R275). -/
def effDataWindowAccess (f : Func) (g off : Nat) (a : Access) (s : State) : State :=
  let base := 0x0440_0000 + 0x1000 * g
  let o := rd s (.pq g) F.pq_WIN_OFF + off
  if !reachWindow s f (.pq g) base then
    match a with
    | .read n => emit (denyAccess s f) (.readData (List.replicate n 0))
    | .write _ => denyAccess s f
  else match a with
    | .read n =>
      match windowParcel s g with
      | some (_, x) =>
        if aligned off n && decide (o + n ≤ if x.committed then x.len else x.n) then
          emit s (.readData (loadBytes x.data o n))
        else emit s (.readData (List.replicate n 0))
      | none => emit s (.readData (List.replicate n 0))
    | .write bytes =>
      match windowParcel s g with
      | some (pid, x) =>
        if !aligned off bytes.length then s
        else if !x.committed && decide (o + bytes.length ≤ x.n) then writePayload s pid o bytes
        else setErr s (.pq g) 17
      | none => if aligned off bytes.length then setErr s (.pq g) 17 else s

/-- An access to a data window reads or writes payload bytes of parcel WIN_HANDLE, or is refused and sets WIN_DENIED
(R275). -/
def execDataWindowAccess (f : Func) (g off : Nat) (a : Access) (s : State) : Host.Outcome State Fault Refusal :=
  act (Instr.dataWindowAccess f g off a) s (effDataWindowAccess f g off a s)

end Sys2Proof.Machine
end

