-- ==== Sys2Proof/Machine/SealChecks.lean ====
section
/-! DEFINITION. The consistency checks of the seal groups, page by page (R67): R113, R148, R205, R207, R208, R248, R278,
R279, R309, R348, R352, R382, R411, R425, R455, R457, R458, R503 to R505, R538, R540, R571. -/

namespace Sys2Proof.Machine

/-- One consistency check: its number, the mask of the groups it belongs to, and whether it holds. -/
abbrev Check := Nat × Nat × Bool

/-- Does a value lie in a range. -/
def within (lo hi v : Nat) : Bool := decide (lo ≤ v) && decide (v ≤ hi)

/-- The value of a field that a check of a SEAL naming `mask` sees (R67): the shadow of a field of a named group, otherwise the
value in effect. When the SEAL sets EXPERT_EN, the value in effect of an expert field is the stored one (R73). -/
def sealVal (s : State) (p : Page) (mask : Nat) (f : Fld) : Nat :=
  if f.cls = .h && decide (f.grp < 15) && bitAt mask f.grp then rd s p f
  else if bitAt mask 15 && rd s p F.EXPERT_EN == 1 && (profileValue s p f).isSome then rdClass s p f
  else ef s p f

/-! ### Stations (R113, R148) -/

/-- The first slot that R93 does not leave to programs, in units of the tile store. -/
def programUnits (s : State) (n : Nat) : Nat := if rd s (.stn n) F.stn_LEND_RES = 1 then 48 * 512 else 62 * 512

/-- The checks of an STN page. -/
def stnChecks (s : State) (n : Nat) (v : Fld → Nat) : List Check :=
  [(0x01, 0x01, decide (v F.stn_X_MOVER_BW ≤ 2)),
   (0x02, 0x01, decide (256 ≤ v F.stn_X_SELFCHECK)),
   (0x03, 0x02, decide (v F.stn_TBL_BASE + 16 * v F.stn_TBL_SETS ≤ programUnits s n)),
   (0x04, 0x02, within 1 64 (v F.stn_TBL_SETS)),
   (0x05, 0x04, decide (v F.stn_SAT_THRESH ≤ 32768)),
   (0x06, 0x08, decide (v F.stn_STAT_SET ≤ 63) || decide (v F.stn_STAT_SET = 0x7F)),
   (0x07, 0x10, rd s (.stn n) F.stn_LEND_RES == 1 && decide (48 * 512 ≤ v F.stn_LEND_TBL_BASE)
      && decide (v F.stn_LEND_TBL_BASE + 16 * v F.stn_LEND_TBL_SETS ≤ 62 * 512)),
   (0x08, 0x10, within 1 64 (v F.stn_LEND_TBL_SETS)),
   (0x09, 0x20, within 1 256 (v F.stn_X_STAT_STRIDE))]

/-! ### Partitions (R205, R279, R352, R411, R538) -/

/-- A used range of a partition: its number, KIND, base, length in tiles and PIN_TIER. -/
structure RangeAt where
  k : Nat
  kind : Nat
  base : Nat
  tiles : Nat
  pin : Nat
deriving DecidableEq, Repr

/-- Range `k` under a view of the fields. -/
def rangeAt (v : Fld → Nat) (k : Nat) : RangeAt :=
  { k := k, kind := v (F.ptn_RANGE_KIND.ix k), base := v (F.ptn_RANGE_BASE.ix k), tiles := v (F.ptn_RANGE_TILES.ix k),
    pin := v (F.ptn_PIN_TIER.ix k) }

/-- The used ranges of a partition under a view of its fields. -/
def usedRanges (v : Fld → Nat) : List RangeAt := ((List.range 8).map (rangeAt v)).filter (fun r => decide (r.kind ≠ 0))

/-- The tiles of ranges that a view pins in a tier. -/
def pinTotal (v : Fld → Nat) (tier : Nat) : Nat :=
  ((usedRanges v).filter (fun r => decide (r.pin = tier))).foldl (fun n r => n + r.tiles) 0

/-- The sum of a field over every partition but `p`, in effect, and of the view's value for `p`. -/
def overPtns (s : State) (p : Nat) (v : Fld → Nat) (f : Fld) : Nat :=
  (List.range 64).foldl (fun n q => n + if q = p then v f else ef s (.ptn q) f) 0

/-- Are the used ranges aligned, not empty, in the tiered region and apart, with no reserved PIN_TIER (check 0x44). -/
def rangesOk (v : Fld → Nat) : Bool :=
  let l := usedRanges v
  l.all (fun r => decide (r.base % 65536 = 0) && decide (1 ≤ r.tiles) && decide (r.base + 65536 * r.tiles ≤ tieredEnd)
    && decide (r.pin ≠ 3) && l.all (fun q => decide (q.k = r.k) || decide (q.base + 65536 * q.tiles ≤ r.base)
      || decide (r.base + 65536 * r.tiles ≤ q.base)))

/-- May the partition run in HOTSET mode (R197). -/
def modelOk (s : State) (p : Nat) : Bool :=
  let pool := (List.range 144).filter (fun n => decide (ownerOf s (.stn n) = p))
  decide (pool.length ≤ 32) && (List.range 144).any (fun n => unitUp s n && decide (ownerOf s (.stn n) ≠ p))

/-- Does a view keep every real-time range in effect (check 0x47). -/
def rtKept (s : State) (p : Nat) (v : Fld → Nat) : Bool :=
  (usedRanges (ef s (.ptn p))).all (fun r =>
    let n := rangeAt v r.k
    decide (r.kind ≠ 3) || (decide (n.kind = 3) && decide (n.base = r.base) && decide (r.tiles ≤ n.tiles) && decide (n.pin = r.pin)))

/-- Do two ranges of numbers, given by base and count, share a number. -/
def meets (b n b' n' : Nat) : Bool := decide (b < b' + n') && decide (b' < b + n) && decide (0 < n) && decide (0 < n')

/-- Is a range of the field book or the HARQ pool in bounds and apart from the other partitions' (check 0x4D). -/
def bookRangeOk (s : State) (p : Nat) (v : Fld → Nat) (b n : Fld) : Bool :=
  decide (v b + v n ≤ 262144)
    && (List.range 64).all (fun q => decide (q = p) || !meets (v b) (v n) (ef s (.ptn q) b) (ef s (.ptn q) n))

/-- Does a view keep every number of a range in effect (check 0x4F). -/
def bookKept (s : State) (p : Nat) (v : Fld → Nat) (b n : Fld) : Bool :=
  decide (ef s (.ptn p) n = 0)
    || (decide (v b ≤ ef s (.ptn p) b) && decide (ef s (.ptn p) b + ef s (.ptn p) n ≤ v b + v n))

/-- A ring's size and alignment, and that a ring in use keeps its place and size (checks 0x50 and 0x51). -/
def ringKept (s : State) (p : Nat) (v : Fld → Nat) (base size en : Fld) : Bool :=
  within 4 16 (v size) && decide (v base % 4096 = 0)
    && (decide (ef s (.ptn p) en ≠ 1) || decide (v en ≠ 1)
      || (decide (v base = ef s (.ptn p) base) && decide (v size = ef s (.ptn p) size)))

/-- The checks of groups M and N (R205). -/
def ptnTierChecks (s : State) (p : Nat) (v : Fld → Nat) : List Check :=
  [(0x40, 0x1000, decide (v F.ptn_DST_FLOOR ≤ v F.ptn_DST_QUOTA) && decide (v F.ptn_DST_QUOTA ≤ 16384)
      && decide (v F.ptn_HBM_FLOOR ≤ v F.ptn_TOTAL_QUOTA) && decide (v F.ptn_HOTSET_TILES ≤ v F.ptn_DST_FLOOR)),
   (0x41, 0x1000,
      let cap := 256 * banksUp s
      let cap2 := 1966080 * stacksUp s
      let host := if rd s .tir F.tir_HOST_EN = 1 then rd s .tir F.tir_HOST_TILES else 0
      decide (overPtns s p v F.ptn_DST_FLOOR ≤ cap) && decide (overPtns s p v F.ptn_HBM_FLOOR ≤ cap2)
        && decide (overPtns s p v F.ptn_TOTAL_QUOTA ≤ cap + cap2 + host)),
   (0x42, 0x3000, decide (pinTotal v 1 ≤ v F.ptn_DST_FLOOR) && decide (pinTotal v 2 ≤ v F.ptn_HBM_FLOOR)
      && decide ((List.range 64).foldl (fun n q => n + (if q = p then pinTotal v 1 + pinTotal v 2
          else pinTotal (ef s (.ptn q)) 1 + pinTotal (ef s (.ptn q)) 2)) 0 ≤ 65536)),
   (0x43, 0x1000, decide (totalUsed s p ≤ v F.ptn_TOTAL_QUOTA)),
   (0x44, 0x2000, rangesOk v),
   (0x45, 0x3000, decide (v F.ptn_MODEL_MODE = 0) || modelOk s p),
   (0x46, 0x2000, (usedRanges v).all (fun r => decide (r.kind ≠ 3) || within 1 2 r.pin)),
   (0x47, 0x2000, !ptnGranted s p || rtKept s p v)]

/-- The checks of groups I, J, K and L (R279, R352, R411). -/
def ptnShareChecks (s : State) (p : Nat) (v : Fld → Nat) : List Check :=
  [(0x48, 0x0800, decide (v F.ptn_PQ_FLOOR ≤ v F.ptn_PQ_QUOTA) && decide (v F.ptn_PQ_QUOTA ≤ 524288)),
   (0x49, 0x0800, decide (overPtns s p v F.ptn_PQ_FLOOR + ef s .pool F.pool_MGR_FLOOR ≤ 524288)),
   (0x4A, 0x0400, decide (v F.ptn_STAKE_FLOOR ≤ v F.ptn_STAKE_QUOTA) && decide (v F.ptn_STAKE_QUOTA ≤ 65536)),
   (0x4B, 0x0400, decide (overPtns s p v F.ptn_STAKE_FLOOR + ef s .plt F.plt_STAKE_RT + ef s .plt F.plt_MGR_STAKE_FLOOR ≤ 65536)),
   (0x4C, 0x0200, within 1 10000 (v F.ptn_METER_STN_UJ)),
   (0x4D, 0x0100, bookRangeOk s p v F.ptn_FB_BASE F.ptn_FB_COUNT && bookRangeOk s p v F.ptn_HARQ_BASE F.ptn_HARQ_COUNT),
   (0x4E, 0x0100, decide (live s .cdp F.cdp_FB_ZERO_PENDING = 0) && decide (live s .cdp F.cdp_HARQ_ZERO_PENDING = 0)),
   (0x4F, 0x0100, !cellCommitted s p
      || (bookKept s p v F.ptn_FB_BASE F.ptn_FB_COUNT && bookKept s p v F.ptn_HARQ_BASE F.ptn_HARQ_COUNT))]

/-- The checks of groups A to D of a PTN page (R538). -/
def ptnHostChecks (s : State) (p : Nat) (v : Fld → Nat) : List Check :=
  [(0x50, 0x01, (List.range 16).all (fun k => ringKept s p v (F.ptn_SQ_BASE.ix k) (F.ptn_SQ_SIZE_LOG2.ix k) (F.ptn_SQ_EN.ix k))),
   (0x51, 0x02, (List.range 16).all (fun c =>
      ringKept s p v (F.ptn_CQ_BASE.ix c) (F.ptn_CQ_SIZE_LOG2.ix c) (F.ptn_CQ_EN.ix c) && within 2 63 (v (F.ptn_VECTOR.ix c))
        && (decide (cqTaken s p c = 0) || (decide (v (F.ptn_CQ_EN.ix c) = 1)
          && decide (v (F.ptn_CQ_SIZE_LOG2.ix c) = ef s (.ptn p) (F.ptn_CQ_SIZE_LOG2.ix c)))))),
   (0x52, 0x03, (List.range 16).all (fun k => decide (v (F.ptn_SQ_EN.ix k) = 0)
      || decide (v (F.ptn_CQ_EN.ix (v (F.ptn_SQ_CQ.ix k))) = 1))),
   (0x53, 0x04, within 10 17 (v F.ptn_MIRROR_LOG2) && decide (ef s (.ptn p) F.ptn_STAKE_QUOTA ≤ 2 ^ v F.ptn_MIRROR_LOG2)
      && within 32 262144 (v F.ptn_LOG_PAGES) && decide (v F.ptn_MIRROR_BASE % 4096 = 0) && decide (v F.ptn_LOG_BASE % 4096 = 0)
      && (decide (ef s (.ptn p) F.ptn_LB_EN = 0) || decide (v F.ptn_LB_EN = 1) || (lbOpen s p).isEmpty)),
   (0x54, 0x05, decide (v F.ptn_LB_EN = 1)
      || (List.range 16).all (fun k => decide (v (F.ptn_JOURNAL.ix k) = 0) || decide (v (F.ptn_SQ_EN.ix k) = 0))),
   (0x55, 0x08, decide (v F.ptn_JOBQ_BASE ≤ 16240))]

/-! ### Movers (R248) -/

/-- Does an address of a partition lie in a PINNED range of KIND 3. -/
def inRtPinned (s : State) (p a : Nat) : Bool :=
  match rangeOf s p a with
  | some k => decide (ef s (.ptn p) (F.ptn_RANGE_KIND.ix k) = 3) && bitAt (rd s (.ptn p) F.ptn_PINNED) k
  | none => false

/-- The checks of a MOV page. A channel of the manager has no partition range. -/
def movChecks (s : State) (k : Nat) (v : Fld → Nat) : List Check :=
  let root := v F.mov_CTX_ROOT
  [(0x01, 0x09, decide (v F.mov_CLASS ≠ 1) || decide (v F.mov_FAULT_MODE = 0)),
   (0x02, 0x01, decide (v F.mov_FAULT_MODE ≤ 1) && within 1 8 (v F.mov_CONC) && within 100 10000000 (v F.mov_FAULT_TIMEOUT)),
   (0x03, 0x09, decide (v F.mov_CTX_EN ≠ 1) || (decide (root % 4096 = 0) && decide (root < tieredEnd)
      && (decide (v F.mov_CLASS ≠ 1) || inRtPinned s (ownerOf s (.mov k)) root))),
   (0x04, 0x02, decide (v F.mov_TMPL_COUNT ≤ 64) && decide (v F.mov_TMPL_BASE % 64 = 0)
      && decide (v F.mov_TMPL_BASE + 64 * v F.mov_TMPL_COUNT ≤ tieredEnd)),
   (0x05, 0x04, decide (v F.mov_X_CHUNK ≤ 2) && within 1 4 (v F.mov_X_INFLIGHT))]

/-! ### Meridian and the plat (R309, R348) -/

/-- The value of a 16-bit compensation. -/
def compOkay (x : Nat) : Bool := decide ((signed 16 x).natAbs ≤ 1000)

/-- The checks of the MER page. -/
def merChecks (s : State) (v : Fld → Nat) : List Check :=
  [(0x01, 0x01, decide (v F.mer_FREQ_SRC ≠ 3)),
   (0x02, 0x01, decide (v F.mer_FREQ_SRC ≠ 1) || unitUp s (616 + v F.mer_SYNCE_LANE)),
   (0x03, 0x02, within 1000 1000000 (v F.mer_X_LEAD)),
   (0x04, 0x02, compOkay (v F.mer_X_PPS_OUT_COMP) && compOkay (v F.mer_X_PPS_IN_COMP)),
   (0x05, 0x02, within 1 1000000 (v F.mer_X_PHASE_LIMIT)),
   (0x06, 0x02, (List.range 64).all (fun k => decide (rd s .mer (F.mer_ARM.ix k) = 0)
      || decide (rd s .mer (F.mer_PERIOD.ix k) = 0) || decide (v F.mer_X_LEAD ≤ rd s .mer (F.mer_PERIOD.ix k))))]

/-- Does row 0 of image `p` keep the spacing of R326 behind row 159 of the active pattern (check 0x02). -/
def followsActive (s : State) (p : Nat) : Bool :=
  (rowGrants s (activePattern s) 159).all (fun i =>
    let a := grantOf s (activePattern s) i
    (rowGrants s p 0).all (fun j =>
      let b := grantOf s p j
      !sharesUnit a b || decide (a.endOff + spacing s a + 1000 ≤ 62500 + b.startOff)))

/-- The checks of the PLT page. -/
def pltChecks (s : State) (v : Fld → Nat) : List Check :=
  [(0x01, 0x01, committed s (v F.plt_NEXT_PATTERN)),
   (0x02, 0x01, !platRunning s || followsActive s (v F.plt_NEXT_PATTERN)),
   (0x03, 0x02, decide (v F.plt_STAKE_RT + v F.plt_MGR_STAKE_FLOOR
      + (List.range 64).foldl (fun n q => n + ef s (.ptn q) F.ptn_STAKE_FLOOR) 0 ≤ 65536)),
   (0x04, 0x02, (List.range 4).all (fun im => !committed s im
      || (List.range 160).all (fun r => decide (stakeNeed s im r ≤ v F.plt_STAKE_RT)))),
   (0x05, 0x04, decide (v F.plt_X_HEADROOM_MARGIN ≤ 100000))]

/-! ### Fronthaul and the traverse (R455, R457, R458, R503 to R505) -/

/-- The checks of a port page. -/
def fhpChecks (s : State) (q : Nat) (v : Fld → Nat) : List Check :=
  [(0x01, 0x01, within 1518 9600 (v F.fhp_MAX_FRAME)
      && (List.range 512).all (fun j => decide (rd s (.fhq j) F.fhq_PORT ≠ q)
        || decide (v F.fhp_MAX_FRAME ≤ ef s (.fhq j) F.fhq_BURST))),
   (0x02, 0x02, decide (v F.fhp_X_TX_LAT ≤ 256000) && decide (v F.fhp_X_RX_LAT ≤ 256000))]

/-- The checks of a queue page. -/
def fhqChecks (s : State) (j : Nat) (v : Fld → Nat) : List Check :=
  let q := rd s (.fhq j) F.fhq_PORT
  let m := v F.fhq_COMP_METH
  [(0x01, 0x02, decide (ef s (.fhp q) F.fhp_MAX_FRAME ≤ v F.fhq_BURST)),
   (0x02, 0x06, decide (v F.fhq_RATE ≤ v F.fhq_RATE_CAP) && decide (v F.fhq_RATE_CAP ≤ fhLineRate s q)),
   (0x03, 0x08, decide (1 ≤ v F.fhq_WEIGHT) && within 1000 10000000 (v F.fhq_LATE_NS)),
   (0x04, 0x10, compOk (m + 16 * v F.fhq_IQ_WIDTH))]

/-- The checks of a channel page. -/
def trcChecks (v : Fld → Nat) : List Check :=
  [(0x01, 0x01, within 2 100000 (v F.trc_RETRY_US) && decide (v F.trc_RETRY_US ≤ v F.trc_BUSY_LIMIT_US)
      && decide (v F.trc_BUSY_LIMIT_US ≤ 1000000))]

/-- The checks of a job page. -/
def trjChecks (v : Fld → Nat) : List Check :=
  [(0x01, 0x01, decide (v F.trj_EXPOSE_BASE % 65536 = 0)
      && decide (v F.trj_EXPOSE_BASE + 65536 * v F.trj_EXPOSE_TILES ≤ tieredEnd))]

/-- The checks of the traverse's global page. -/
def trgChecks (s : State) (v : Fld → Nat) : List Check :=
  [(0x01, 0x01, within 10 1000 (v F.trg_LEASE_GUARD_US)),
   (0x02, 0x02, within 10 1000000 (v F.trg_WIT_WINDOW_US)),
   (0x03, 0x04, within 1 1000 (v F.trg_REPLAY_HOLD_MS) && within 1 1000 (v F.trg_TIME_TOL_US)
      && decide (2 * v F.trg_TIME_TOL_US < 1000 * v F.trg_REPLAY_HOLD_MS)),
   (0x04, 0x08, (List.range 16).all (fun k => decide (v (F.trg_BAR_MEMBERS.ix k) = 0)
      || (decide (1 ≤ v (F.trg_BAR_TIMEOUT_MS.ix k))
        && decide (ef s .mer F.mer_X_LEAD + 1000 ≤ 1000 * v (F.trg_BAR_LEAD_US.ix k)))))]

/-! ### All pages -/

/-- The checks of a page under a view of its fields, in the order of their numbers. -/
def checksOf (s : State) (p : Page) (v : Fld → Nat) : List Check :=
  match p with
  | .stn n => stnChecks s n v
  | .ptn q => ptnTierChecks s q v ++ ptnShareChecks s q v ++ ptnHostChecks s q v
  | .tir => [(0x01, 0x01, decide (v F.tir_PROFILE ≠ 3)), (0x02, 0x02, within 1 15 (v F.tir_X_PROMOTE_READS)),
      (0x03, 0x02, within 10000 100000000 (v F.tir_X_AGE_PERIOD)),
      (0x04, 0x02, within 1 8 (v F.tir_X_MIG_SHARE) && within 1 8 (v F.tir_X_ZERO_SHARE) && within 1 8 (v F.tir_X_HOST_SHARE))]
  | .dst _ | .hbc _ => [(0x01, 0x01, decide (v F.mem_SCRUB ≠ 3)), (0x02, 0x02, within 100 86400000 (v F.mem_X_SCRUB_PERIOD))]
  | .mov k => movChecks s k v
  | .pool => [(0x01, 0x01, decide (v F.pool_MGR_FLOOR
      + (List.range 64).foldl (fun n q => n + ef s (.ptn q) F.ptn_PQ_FLOOR) 0 ≤ 524288))]
  | .mer => merChecks s v
  | .plt => pltChecks s v
  | .ten _ => [(0x01, 0x01, decide (v F.ten_PROFILE ≠ 3)), (0x02, 0x02, within 100 62500 (v F.ten_X_WARN)),
      (0x03, 0x02, within 1 64 (v F.ten_X_STAGE_MAX))]
  | .cdp => [(0x01, 0x01, decide (v F.cdp_HARQ_FMT ≤ 1))]
  | .fhp q => fhpChecks s q v
  | .fhq j => fhqChecks s j v
  | .fhg => [(0x01, 0x01, within 1 10000 (v F.fhg_SAMPLE_US))]
  | .trc _ => trcChecks v
  | .trj _ => trjChecks v
  | .trg => trgChecks s v
  | .hif => [(0x01, 0x01, within 50 50000 (v F.hif_CPL_TIMEOUT_US))]
  | .hlt => [(0x01, 0x01, decide (v F.hlt_PROFILE ≠ 3)),
      (0x02, 0x02, decide (1 ≤ v F.hlt_X_COND_DAY) && decide (1 ≤ v F.hlt_X_UE_HOUR) && decide (1 ≤ v F.hlt_X_LINK_HOUR)
        && decide (1 ≤ v F.hlt_X_CE_HOUR) && decide (1 ≤ v F.hlt_X_THROTTLE_HOUR))]
  | _ => []

/-- The mask of the groups of a page that hold an expert field. -/
def expertGroups (p : Page) : Nat :=
  forUpTo 15 (fun g a => if (expertFields p).any (fun e => e.1.grp == g) then a + 2 ^ g else a) 0

/-- The groups whose checks a SEAL of `mask` runs (R67, R73): the named ones, and with an EXPERT_EN that is set those of the
expert fields. -/
def checkedGroups (s : State) (p : Page) (mask : Nat) : Nat :=
  if bitAt mask 15 && rd s p F.EXPERT_EN == 1 then
    forUpTo 15 (fun g a => if bitAt mask g || bitAt (expertGroups p) g then a + 2 ^ g else a) 0
  else mask % 2 ^ 15

/-- Do two masks share a bit below 15. -/
def maskMeets (a b : Nat) : Bool := (List.range 15).any (fun g => bitAt a g && bitAt b g)

/-- CHECK: the number of the first failed check of a SEAL of `mask`, 0 when all hold (R67, R70). -/
def failedCheck (s : State) (p : Page) (mask : Nat) : Nat :=
  let run := checkedGroups s p mask
  match (checksOf s p (sealVal s p mask)).find? (fun c => maskMeets c.2.1 run && !c.2.2) with
  | some c => c.1
  | none => 0

end Sys2Proof.Machine
end

