-- ==== Sys2Proof/Machine/Transit.lean ====
section
/-! DEFINITION. The commands of the transit engines (R353 to R386): one command for the operation in one slot of the bundle
that issues, in the order S, L, M, C; the interrupt causes and entry; zeroing; and the program window. -/

namespace Sys2Proof.Machine

/-! ### Issuing (R354 to R360) -/

/-- The bank of an address (R353). -/
def dmBank (a : Nat) : Nat := a / 128 % 16

/-- Do slots L and M access one bank (R360). -/
def bankStall (e : Engine) (l m : Nat) : Bool :=
  isMem l && isMem m && decide (dmBank (memAddr e l) = dmBank (memAddr e m))

/-- All four slots of a bundle have issued: the counters, the landing of results, and the next bundle. A fault of any of its
slots ends the item (R354, R20), and END completes it (R357, R360, R377). -/
def bundleEnd (s : State) (t : Nat) : State :=
  let e := ten s t
  let stall := bankStall e (e.slots.getD 1 0) (e.slots.getD 2 0)
  let s1 := addSat s (.ten t) F.ten_ISSUE_CYC (if stall then 2 else 1)
  let s2 := if stall then addSat s1 (.ten t) F.ten_BANK_STALLS 1 else s1
  match e.fault with
  | some c => engineFinish s2 t c false
  | none =>
  if e.ending then engineFinish s2 t 0x00 false
  else setTen s2 t (nextPc { landStep e with slots := [] })

/-- Slot word `w` has issued, leaving the engine as `e`. -/
def slotIssued (s : State) (t w : Nat) (e : Engine) : State :=
  let s1 := setTen s t { e with slots := e.slots ++ [w] }
  if (ten s1 t).slots.length = 4 then bundleEnd s1 t else s1

/-- A slot of the bundle ends the item with a code. The other slots issue in the same radio cycle, so of the codes of one
bundle the one that R20 ranks first ends the item, when all four have issued (R354). -/
def slotFault (s : State) (t w : Nat) (e : Engine) (c : Nat) : State :=
  let worse : Bool := match e.fault with
    | some d => decide (codeRank c < codeRank d)
    | none => true
  slotIssued s t w (if worse then { e with fault := some c } else e)

/-- A bundle that issues no slot, or only its PRD or PWR, ends the item (R356, R370, R371). -/
def bundleFault (s : State) (t c : Nat) : State := engineFinish (addSat s (.ten t) F.ten_ISSUE_CYC 1) t c false

/-- Is the bundle boundary one at which a pending interrupt is taken: the engine issues nothing there before the entry
(R373, R374). -/
def boundaryOpen (e : Engine) : Bool :=
  e.item.isSome && e.slots.isEmpty && e.handler.isNone && e.branch.isNone && e.rep.isNone && e.pend != 0

/-- Issue slot `k` of the bundle at PC when it holds operation `op`: not from END_OFF on (R378), and not where an interrupt is
to be taken (R374). An illegal bundle ends the item when it issues (R356). -/
def issueSlot (s : State) (t k op : Nat) (body : Engine → Nat → State) : State :=
  let e := ten s t
  if e.item.isNone || k ≠ e.slots.length || 3 < k || e.endTick ≤ s.mer.frc || boundaryOpen e then s
  else if k = 0 && bundleIllegal e then bundleFault s t 0x90
  else
    let w := slotWord e e.pc k
    if tOp w = op then body e w else s

/-- A slot whose result is one write in flight. -/
def issueWrite (s : State) (t k op lat : Nat) (f : Engine → Nat → TWrite) : State :=
  issueSlot s t k op (fun e w => slotIssued s t w (fly e lat (f e w)))

/-! ### Slot S: scalars and control -/

/-- NOP. -/
def effTenNop (t k : Nat) (s : State) : State := issueSlot s t k 0x00 (fun e w => slotIssued s t w e)
/-- NOP (R355). -/
def execTenNop (t k : Nat) (s : State) : Host.Outcome State Fault Refusal :=
  act (Instr.tenNop t k) s (effTenNop t k s)

/-- SETI. -/
def effTenSeti (t k : Nat) (s : State) : State :=
  issueWrite s t k 0x01 1 (fun _ w => .k (tD w) (unsigned 32 (signed 16 w)))
/-- SETI: Kd ← IMM sign-extended (R355). -/
def execTenSeti (t k : Nat) (s : State) : Host.Outcome State Fault Refusal :=
  act (Instr.tenSeti t k) s (effTenSeti t k s)

/-- SETH. -/
def effSeth (t k : Nat) (s : State) : State :=
  issueWrite s t k 0x02 1 (fun e w => .k (tD w) (kReg e (tD w) % 65536 + 65536 * bits w 0 16))
/-- SETH: Kd[31:16] ← IMM (R355). -/
def execSeth (t k : Nat) (s : State) : Host.Outcome State Fault Refusal := act (Instr.seth t k) s (effSeth t k s)

/-- ADDI. -/
def effTenAddi (t k : Nat) (s : State) : State :=
  issueWrite s t k 0x03 1 (fun e w => .k (tD w) (unsigned 32 (kReg e (tA w) + signed 12 (tF w))))
/-- ADDI: Kd ← Ka + F (R355). -/
def execTenAddi (t k : Nat) (s : State) : Host.Outcome State Fault Refusal :=
  act (Instr.tenAddi t k) s (effTenAddi t k s)

/-- The result of an ALU function (R355). -/
def aluOp (f a b : Nat) : Nat :=
  let sh := b % 32
  match f with
  | 0 => (a + b) % 2 ^ 32
  | 1 => (a + 2 ^ 32 - b) % 2 ^ 32
  | 2 => a &&& b
  | 3 => a ||| b
  | 4 => a ^^^ b
  | 5 => a * 2 ^ sh % 2 ^ 32
  | 6 => unsigned 32 (signed 32 a / 2 ^ sh)
  | 7 => a / 2 ^ sh
  | 8 => if signed 32 a ≤ signed 32 b then a else b
  | _ => if signed 32 a ≤ signed 32 b then b else a

/-- ALU. -/
def effAlu (t k : Nat) (s : State) : State :=
  issueWrite s t k 0x04 1 (fun e w => .k (tD w) (aluOp (bits w 0 4) (kReg e (tA w)) (kReg e (tB w))))
/-- ALU: Kd ← Ka op Kb (R355). -/
def execAlu (t k : Nat) (s : State) : Host.Outcome State Fault Refusal := act (Instr.alu t k) s (effAlu t k s)

/-- RDT. -/
def effRdt (t k : Nat) (s : State) : State :=
  issueWrite s t k 0x05 1 (fun e w => .k (tD w) ((s.mer.frc + 2 ^ 64 - e.startTick) % 2 ^ 32))
/-- RDT: Kd ← time ticks since START_OFF (R355). -/
def execRdt (t k : Nat) (s : State) : Host.Outcome State Fault Refusal := act (Instr.rdt t k) s (effRdt t k s)

/-- A branch of the bundle at PC to a target, or past its delay slots when it is not taken (R362). -/
def branchTo (e : Engine) (taken : Bool) (target : Nat) : Engine :=
  { e with branch := some (if taken then target else e.pc + 3, 3) }

/-- BR. -/
def effBr (t k : Nat) (s : State) : State :=
  issueSlot s t k 0x10 (fun e w => slotIssued s t w (branchTo e true (bits w 0 11)))
/-- BR branches after two delay slots (R362). -/
def execBr (t k : Nat) (s : State) : Host.Outcome State Fault Refusal := act (Instr.br t k) s (effBr t k s)

/-- BRZ. -/
def effBrz (t k : Nat) (s : State) : State :=
  issueSlot s t k 0x11 (fun e w => slotIssued s t w (branchTo e (kReg e (tA w) == 0) (bits w 0 11)))
/-- BRZ branches after two delay slots when Ka is zero (R362). -/
def execBrz (t k : Nat) (s : State) : Host.Outcome State Fault Refusal := act (Instr.brz t k) s (effBrz t k s)

/-- BRNZ. -/
def effBrnz (t k : Nat) (s : State) : State :=
  issueSlot s t k 0x12 (fun e w => slotIssued s t w (branchTo e (kReg e (tA w) != 0) (bits w 0 11)))
/-- BRNZ branches after two delay slots when Ka is not zero (R362). -/
def execBrnz (t k : Nat) (s : State) : Host.Outcome State Fault Refusal := act (Instr.brnz t k) s (effBrnz t k s)

/-- REP. -/
def effRep (t k : Nat) (s : State) : State :=
  issueSlot s t k 0x14 (fun e w =>
    slotIssued s t w { e with rep := some { first := e.pc + 1, len := repLen w, left := repCount e w } })
/-- REP issues the next LEN bundles COUNT times (R363). -/
def execRep (t k : Nat) (s : State) : Host.Outcome State Fault Refusal := act (Instr.rep t k) s (effRep t k s)

/-- SQH. -/
def effSqh (t k : Nat) (s : State) : State :=
  issueSlot s t k 0x18 (fun e w =>
    let q := bits (kReg e (tA w)) 0 14
    if qOwner s q = e.ptn then
      slotIssued s t w (if bitAt w 0 then { e with q3 := some q } else { e with q2 := some q })
    else slotFault (setErr s (.ten t) 16) t w e 0x93)
/-- SQH sets Q2 or Q3, or ends the item with QUEUE_DENIED (R369). -/
def execSqh (t k : Nat) (s : State) : Host.Outcome State Fault Refusal := act (Instr.sqh t k) s (effSqh t k s)

/-- STC. -/
def effStc (t k : Nat) (s : State) : State :=
  issueSlot s t k 0x19 (fun e w => slotIssued s t w { e with tcmp := some (e.startTick + kReg e (tA w)) })
/-- STC sets TCMP and arms TICK (R355, R372). -/
def execStc (t k : Nat) (s : State) : Host.Outcome State Fault Refusal := act (Instr.stc t k) s (effStc t k s)

/-- SETIV. -/
def effSetiv (t k : Nat) (s : State) : State :=
  issueSlot s t k 0x1A (fun e w =>
    let ie := bits w 0 3
    slotIssued s t w { e with ivec := bits (kReg e (tA w)) 0 11, ie := ie, pend := e.pend &&& ie })
/-- SETIV sets IVEC and the interrupt enables (R355, R372). -/
def execSetiv (t k : Nat) (s : State) : Host.Outcome State Fault Refusal := act (Instr.setiv t k) s (effSetiv t k s)

/-- RDI. -/
def effRdi (t k : Nat) (s : State) : State := issueWrite s t k 0x1B 1 (fun e w => .k (tD w) e.icause)
/-- RDI: Kd ← ICAUSE (R355). -/
def execRdi (t k : Nat) (s : State) : Host.Outcome State Fault Refusal := act (Instr.rdi t k) s (effRdi t k s)

/-- RTI. -/
def effRti (t k : Nat) (s : State) : State :=
  issueSlot s t k 0x1C (fun e w => slotIssued s t w { e with branch := some (e.handler.getD 0, 3), ret := true })
/-- RTI returns from the handler after two delay slots (R362, R374). -/
def execRti (t k : Nat) (s : State) : Host.Outcome State Fault Refusal := act (Instr.rti t k) s (effRti t k s)

/-! ### Parcels (R369 to R371, R377) -/

/-- The queue of a handle; none for an unset one. -/
def handleQ (e : Engine) (h : Nat) : Option Nat :=
  if h = 0 then some e.qin else if h = 1 then some e.qout else if h = 2 then e.q2 else e.q3

/-- Set the exponent byte of every line that bytes `a` to `a + n − 1` touch. -/
def setExps (e : Engine) (a n v : Nat) : Engine :=
  if n = 0 then e
  else (List.range ((a + n - 1) / 128 + 1 - a / 128)).foldl (fun e i => setExp e (a / 128 + i) v) e

/-- The queue of a handle as an engine may use it: QUEUE_DENIED for an unset handle, and for a queue that the partition of its
cell does not own, which sets the error bit too and makes no operation on the pool (R251, R369). -/
def handleOwn (s : State) (t h : Nat) : Option Nat × State :=
  let e := ten s t
  match handleQ e h with
  | none => (none, s)
  | some q => if qOwner s q = e.ptn then (some q, s) else (none, setErr s (.ten t) 16)

/-- PRD or PWR ends its item with the status of its operation on the pool (R18, R386). -/
def poolEnd (s : State) (t c : Nat) : State :=
  let r := itemCode s [] c
  bundleFault (countWait r.2 t) t r.1

/-- The lines of data memory at the ends of `n` bytes at `a` of which a write covers only part, and which it reads to merge
(R200). -/
def lineEnds (a n : Nat) : List (Nat × Nat) :=
  if n = 0 then []
  else (if a % 128 = 0 then [] else [(a, 1)]) ++ (if (a + n) % 128 = 0 then [] else [(a + n - 1, 1)])

/-- A parcel has reached PRD: it is copied, and the bundle issues (R370). -/
def prdCopy (s : State) (t w pid : Nat) : State :=
  let e := ten s t
  let d := payload s pid
  let a := kReg e (tA w)
  let n := min d.length (kReg e (tB w))
  let e1 := { e with taken := e.taken ++ [pid] }
  if 0x40000 < a + n then bundleFault (countWait (setTen s t e1) t) t 0x92
  else
    let r := if a % 128 = 0 && (a + n) % 128 = 0 then (false, s)
      else unitRead s (.ten t) (lineEnds a n)
    let e2 := { e1 with soft := (ten r.2 t).soft }
    if r.1 then bundleFault (countWait (setTen r.2 t e2) t) t 0x0B
    else slotIssued (countWait r.2 t) t w (fly (setExps (storeDm e2 a (d.take n)) a n (bits w 4 8)) 1 (.k (tD w) d.length))

/-- PRD. -/
def effPrd (t k : Nat) (s : State) : State :=
  issueSlot s t k 0x20 (fun _ w =>
    match handleOwn s t (bits w 0 2) with
    | (none, s1) => bundleFault s1 t 0x93
    | (some q, _) =>
      match takeEnded s (tenAg t) (readToken q) with
      | (some c, s1) => poolEnd s1 t c
      | (none, _) =>
        match hwRead s (tenAg t) q with
        | (.parcel pid, s1) => prdCopy s1 t w pid
        | (.stalled, s1) => s1
        | (.status c, s1) => poolEnd s1 t c)
/-- PRD reads the next parcel of a queue with WAIT into data memory (R370). -/
def execPrd (t k : Nat) (s : State) : Host.Outcome State Fault Refusal := actMem (Instr.prd t k) s (effPrd t k s)

/-- A reservation has been granted to PWR: data memory is copied into the parcel, which is staged (R371). -/
def pwrCopy (s : State) (t w pid : Nat) : State :=
  let e := ten s t
  let a := kReg e (tA w)
  let n := kReg e (tB w)
  let e1 := { e with staged := e.staged ++ [pid] }
  let r := unitRead (countWait (setTen s t e1) t) (.ten t) [(a, n)]
  if r.1 then bundleFault r.2 t 0x0B
  else slotIssued (writePayload r.2 pid 0 (loadBytes e.dm a n)) t w { e1 with soft := (ten r.2 t).soft }

/-- PWR. -/
def effPwr (t k : Nat) (s : State) : State :=
  issueSlot s t k 0x21 (fun e w =>
    let a := kReg e (tA w)
    let n := kReg e (tB w)
    if 0x40000 < a + n then bundleFault s t 0x92
    else match handleOwn s t (bits w 0 2) with
    | (none, s1) => bundleFault s1 t 0x93
    | (some q, _) =>
      if e.stageMax ≤ e.staged.length then bundleFault s t 0x94
      else
        match takeGranted s (tenAg t) 1 with
        | (some pid, s1) => pwrCopy s1 t w pid
        | (none, _) =>
          match takeEnded s (tenAg t) 1 with
          | (some c, s1) => poolEnd s1 t c
          | (none, _) =>
            if (queue s q).line.any (fun x => decide (x.agent = tenAg t)) then s
            else
              let x : ResWait := { agent := tenAg t, n := n, prio := bits w 2 3, payload := none, srcPtn := e.ptn,
                                   srcStake := (e.item.map (fun i => i.stake)).getD 0xFFFF, token := 1, order := 0,
                                   owed := none }
              match reserveWait s q x with
              | (.parcel pid, s1) => pwrCopy s1 t w pid
              | (.stalled, s1) => s1
              | (.status c, s1) => poolEnd s1 t c)
/-- PWR reserves a parcel and copies data memory into it as a staged parcel (R371). -/
def execPwr (t k : Nat) (s : State) : Host.Outcome State Fault Refusal := actMem (Instr.pwr t k) s (effPwr t k s)

/-- END. -/
def effTenEnd (t k : Nat) (s : State) : State :=
  issueSlot s t k 0x3F (fun e w => slotIssued s t w { landAll e with ending := true })
/-- END waits for the results in flight, and its bundle completes the item with DONE (R377). -/
def execTenEnd (t k : Nat) (s : State) : Host.Outcome State Fault Refusal := act (Instr.tenEnd t k) s (effTenEnd t k s)

/-! ### Slots L and M: memory and moves (R359, R368) -/

/-- Issue a memory operation: DM_FAULT for an address that R359 does not allow, and the INC base written. -/
def issueMem (s : State) (t k op : Nat) (body : Engine → Nat → Nat → State) : State :=
  issueSlot s t k op (fun e w =>
    if memOk e w then
      let e1 := if bitAt w 11 then fly e 1 (.k (tA w) (kReg e (tA w) + memOff w)) else e
      body e1 w (memAddr e w)
    else slotFault s t w e 0x92)

/-- A load: data memory is read, and an uncorrectable error ends the item (R380). -/
def issueLoad (s : State) (t k op : Nat) (f : Engine → Nat → Nat → TWrite) : State :=
  issueMem s t k op (fun e w a =>
    let r := unitRead s (.ten t) [(a, memUnit w)]
    if r.1 then slotFault r.2 t w e 0x0B
    else slotIssued r.2 t w (fly { e with soft := (ten r.2 t).soft } 3 (f e w a)))

/-- SLD. -/
def effSld (t k : Nat) (s : State) : State :=
  issueLoad s t k 0x40 (fun e w a => .k (tD w) (leNat (loadBytes e.dm a 4)))
/-- SLD: Kd ← the word at the address (R359). -/
def execSld (t k : Nat) (s : State) : Host.Outcome State Fault Refusal := actMem (Instr.sld t k) s (effSld t k s)

/-- SST. Its line is read to merge (R200). -/
def effSst (t k : Nat) (s : State) : State :=
  issueMem s t k 0x41 (fun e w a =>
    let r := unitRead s (.ten t) [(a, 4)]
    if r.1 then slotFault r.2 t w e 0x0B
    else slotIssued r.2 t w (fly { e with soft := (ten r.2 t).soft } 2 (.bytes a (natLE 4 (kReg e (tD w))) none)))
/-- SST stores Ks (R359). -/
def execSst (t k : Nat) (s : State) : Host.Outcome State Fault Refusal := actMem (Instr.sst t k) s (effSst t k s)

/-- VLD. -/
def effVld (t k : Nat) (s : State) : State := issueLoad s t k 0x42 (fun e w a => .v (tD w) (loadVec e a))
/-- VLD: Vd ← the line and its exponent byte (R359). -/
def execVld (t k : Nat) (s : State) : Host.Outcome State Fault Refusal := actMem (Instr.vld t k) s (effVld t k s)

/-- VST. -/
def effVst (t k : Nat) (s : State) : State :=
  issueMem s t k 0x43 (fun e w a =>
    let x := vReg e (tD w)
    let y := if bitAt w 10 then (moveVec x 1 0).1 else x
    if expOk y.ev then slotIssued s t w (fly e 2 (.bytes a (vecBytes y) (some (unsigned 8 y.ev))))
    else slotFault s t w e 0x91)
/-- VST stores a vector and its exponent byte, normalising when NORM is set (R359, R368). -/
def execVst (t k : Nat) (s : State) : Host.Outcome State Fault Refusal := act (Instr.vst t k) s (effVst t k s)

/-- Write a vector that was scaled, counting its saturated parts; EXP_RANGE ends the item (R364, R366). -/
def issueScaled (s : State) (t w lat : Nat) (e : Engine) (r : TVec × Nat) (f : TVec → TWrite) : State :=
  if expOk r.1.ev then slotIssued (addSat s (.ten t) F.ten_SAT_COUNT r.2) t w (fly e lat (f r.1))
  else slotFault s t w e 0x91

/-- VMV. -/
def effVmv (t k : Nat) (s : State) : State :=
  issueSlot s t k 0x44 (fun e w =>
    issueScaled s t w 2 e (moveVec (vReg e (tA w)) (bits w 0 2) (kReg e (tB w))) (fun x => .v (tD w) x))
/-- VMV moves a vector by copy, normalisation or conversion (R368). -/
def execVmv (t k : Nat) (s : State) : Host.Outcome State Fault Refusal := act (Instr.vmv t k) s (effVmv t k s)

/-- VPK. -/
def effVpk (t k : Nat) (s : State) : State :=
  issueSlot s t k 0x45 (fun e w =>
    issueScaled s t w 2 e (packVec (aReg e (tA w % 4)) (bitAt w 0) (kReg e (tB w))) (fun x => .v (tD w) x))
/-- VPK packs an accumulator into a vector (R368). -/
def execVpk (t k : Nat) (s : State) : Host.Outcome State Fault Refusal := act (Instr.vpk t k) s (effVpk t k s)

/-! ### Slot C: vector arithmetic (R361, R367) -/

/-- Add parts of an exponent to accumulator D through the chain inside slot C. -/
def issueAcc (s : State) (t w : Nat) (e : Engine) (p : Nat → Int) (ep : Int) : State :=
  issueScaled s t w 4 e (accumulate (chainVal e (tD w % 4)) (bitAt w 0) p ep) (fun x => .a (tD w % 4) x)

/-- VMAC. -/
def effVmac (t k : Nat) (s : State) : State :=
  issueSlot s t k 0x80 (fun e w =>
    let x := vReg e (tA w)
    let y := vReg e (tB w)
    issueAcc s t w e (prodPart x y (bitAt w 1) none) (x.ev + y.ev))
/-- VMAC adds the lane-by-lane complex products to an accumulator (R367). -/
def execVmac (t k : Nat) (s : State) : Host.Outcome State Fault Refusal := act (Instr.vmac t k) s (effVmac t k s)

/-- VMACB. -/
def effVmacb (t k : Nat) (s : State) : State :=
  issueSlot s t k 0x81 (fun e w =>
    let x := vReg e (tA w)
    let y := vReg e (tB w)
    issueAcc s t w e (prodPart x y (bitAt w 1) (some (bits w 2 5))) (x.ev + y.ev))
/-- VMACB adds the products with one broadcast lane (R367). -/
def execVmacb (t k : Nat) (s : State) : Host.Outcome State Fault Refusal := act (Instr.vmacb t k) s (effVmacb t k s)

/-- VADA. -/
def effVada (t k : Nat) (s : State) : State :=
  issueSlot s t k 0x82 (fun e w =>
    let x := vReg e (tA w)
    let sg : Int := if bitAt w 1 then -32768 else 32768
    issueAcc s t w e (fun i => sg * x.part i) x.ev)
/-- VADA adds Vx, or its negation, to an accumulator (R367). -/
def execVada (t k : Nat) (s : State) : Host.Outcome State Fault Refusal := act (Instr.vada t k) s (effVada t k s)

/-! ### Interrupts (R372 to R375) -/

/-- WARN. -/
def effWarn (t : Nat) (s : State) : State :=
  let e := ten s t
  if e.item.isNone || e.warned || s.mer.frc + e.warnTicks < e.endTick then s
  else setTen s t (raiseCause { e with warned := true } 0)
/-- At tick END_OFF − X_WARN the WARN cause becomes pending (R372). -/
def execWarn (t : Nat) (s : State) : Host.Outcome State Fault Refusal := act (Instr.warn t) s (effWarn t s)

/-- TICK. -/
def effTick (t : Nat) (s : State) : State :=
  let e := ten s t
  match e.tcmp with
  | none => s
  | some c => if e.item.isNone || s.mer.frc < c then s else setTen s t (raiseCause { e with tcmp := none } 1)
/-- At tick TCMP after an STC the TICK cause becomes pending, once per STC (R372). -/
def execTick (t : Nat) (s : State) : Host.Outcome State Fault Refusal := act (Instr.tick t) s (effTick t s)

/-- The pending cause that is taken: the lowest bit (R372). -/
def firstCause (e : Engine) : Nat := if bitAt e.pend 0 then 0 else if bitAt e.pend 1 then 1 else 2

/-- INTERRUPT_ENTRY. -/
def effInterruptEntry (t : Nat) (s : State) : State :=
  if boundaryOpen (ten s t) && s.mer.frc < (ten s t).endTick then
    let c := firstCause (ten s t)
    let s1 := withdrawWait s t
    let e := ten s1 t
    let s2 := setTen s1 t { landAll e with
      handler := some e.pc, icause := 2 ^ c, pend := setBits e.pend c 1 0, pc := e.ivec }
    let lat := Config.freeValue s2.fresh % if bitAt e.repPend c then 8199 else 11
    let old := rd s (.ten t) F.ten_IRQ_MAXLAT
    nextFresh (wr (addSat s2 (.ten t) F.ten_IRQS 1) (.ten t) F.ten_IRQ_MAXLAT (if old < lat then lat else old))
  else s
/-- An interrupt is taken at an open boundary before END_OFF: results land, the return index is saved, and bundle IVEC is next
(R374, R378). -/
def execInterruptEntry (t : Nat) (s : State) : Host.Outcome State Fault Refusal :=
  act (Instr.interruptEntry t) s (effInterruptEntry t s)

/-! ### Zeroing and the program window (R379, R385) -/

/-- ENGINE_ZEROING_DONE. -/
def effEngineZeroingDone (t : Nat) (s : State) : State :=
  let e := ten s t
  if e.zeroing then setTen s t { Engine.idle with prog := e.prog } else s
/-- After an item the engine has zeroed data memory and registers, and is free (R379). -/
def execEngineZeroingDone (t : Nat) (s : State) : Host.Outcome State Fault Refusal :=
  act (Instr.engineZeroingDone t) s (effEngineZeroingDone t s)

/-- PROGRAM_WINDOW_WRITE. -/
def effProgramWindowWrite (f : Func) (t off v : Nat) (s : State) : State :=
  if off % 8 ≠ 0 || 0x8000 ≤ off then s
  else if !reachWindow s f (.ten t) (pageBase (.ten t) + 0x8000 + off / 0x1000 * 0x1000) then denyAccess s f
  else if unitDown s (.ten t) then s
  else if quiesced s (.ten t) then
    let e := ten s t
    setTen s t { e with prog := mapSet 0 e.prog (off / 8) (v % 2 ^ 64) }
  else setErr s (.ten t) 0
/-- An aligned 8-byte write of the program window stores a bundle half while the page is quiesced, and otherwise sets
STALE_WRITE (R385). -/
def execProgramWindowWrite (f : Func) (t off v : Nat) (s : State) : Host.Outcome State Fault Refusal :=
  act (Instr.programWindowWrite f t off v) s (effProgramWindowWrite f t off v s)

end Sys2Proof.Machine
end

