-- ==== Sys2Proof/Machine/Windows.lean ====
section
/-! DEFINITION. What software reads at a physical function BAR0 address: the register pages under a capture view (R56,
R557) and the windows without a header (R26, R94, R152, R275, R313, R385, R447, R459, R493, R513, R581, R613). -/

namespace Sys2Proof.Machine

/-! ### The floor plan window (R26 to R38) -/

/-- The number of stations in a state of FP_UNIT. -/
def stationsIn (s : State) (st : Nat) : Nat :=
  ((List.range 144).filter (fun n => decide (unitEntry s n % 4 = st))).length

/-- The 32-bit word at an offset of the floor plan window. -/
def floorPlanWord (s : State) (o : Nat) : Nat :=
  if o = 0x0 then 0x5046485A
  else if o = 0x4 then 0x10000
  else if o = 0x8 then s.part.grade
  else if o = 0xC then s.fp.gen
  else if o = 0x10 then stationsIn s 0 + 2 ^ 8 * stationsIn s 1 + 2 ^ 16 * stationsIn s 2
  else if o = 0x14 then s.fp.fdr.length + 2 ^ 11 * ofBool (fdrFull s) + 2 ^ 12 * ofBool (decide (stationsUp s < 128))
  else if 0x100 ≤ o && o < 0xC20 then unitEntry s ((o - 0x100) / 4)
  else if 0x1000 ≤ o && o < 0x3000 then bits (mapGet 0 s.fp.fdr ((o - 0x1000) / 8)) (8 * (o % 8)) 32
  else 0

/-! ### The other windows -/

/-- The word at an offset of a certificate half: the certificate, zeros, and its length in the last 4 bytes (R581). -/
def certificateWord (s : State) (o : Nat) : Nat :=
  let c := certificate s (o / 0x1000)
  if o % 0x1000 = 0xFFC then c.length else leAt c (o % 0x1000) 4

/-- Entry `i` of the slot map of partition `p` (R513). -/
def slotMapWord (s : State) (p i : Nat) : Nat :=
  if i = 0 then pageBase (.ptn p) / 0x1000 + 2 ^ 31 else mapGet 0 (ptn s p).slotMap i

/-! ### What the management endpoint shows (R575, R594, R595, R613)

The table has no row for a discovery message or for the read of a sensor; these are the values that their answers carry. -/

/-- Endpoint discovery over MCTP control (R594): the endpoint ID that the bus owner assigned, 0 before. -/
def endpointId (s : State) : Nat := s.mon.eid.getD 0

/-- The message types that the endpoint supports: MCTP control, PLDM, SPDM and vendor defined, in RECOVERY the first two (R575,
R594). -/
def mctpTypes (s : State) : List Nat :=
  if endpointOn s then [0x00, 0x01, 0x05, 0x7E] else if s.pwr.pwrok then [0x00, 0x01] else []

/-- The PLDM types that PLDM base names: base, monitoring and control, and firmware update; in RECOVERY without monitoring (R575,
R595). -/
def pldmTypes (s : State) : List Nat := if endpointOn s then [0, 2, 5] else if s.pwr.pwrok then [0, 5] else []

/-- The value of a PLDM numeric sensor by its number (R595, R613): the hottest temperatures of sections, hub and stacks in °C, the
16-row average power in W, and the core clock in MHz. -/
def pldmSensor (s : State) (n : Nat) : Option Int :=
  let byte (f : Fld) (k : Nat) : Int := (BitVec.ofNat 8 (bits (live s .pwr f) (8 * k) 8)).toInt
  if 1 ≤ n ∧ n ≤ 4 then some (byte F.pwr_TJ_SEC (n - 1))
  else if n = 5 then some (byte F.pwr_TJ_HUB 0)
  else if 8 ≤ n ∧ n ≤ 15 then some (byte F.pwr_TJ_HBM (n - 8))
  else if n = 16 then some (live s .pwr F.pwr_P_AVG : Int)
  else if n = 17 then some (live s .pwr F.pwr_CORE_MHZ : Int)
  else none

/-- The numeric sensors of health kind `k`: LIVE, MIN, HOUR, DAY, TOTAL and INJ (R560, R595). The spec gives them no numbers. -/
def healthSensors (s : State) (k : Nat) : List Nat :=
  [F.hlt_K_LIVE, F.hlt_K_MIN, F.hlt_K_HOUR, F.hlt_K_DAY, F.hlt_K_TOTAL, F.hlt_K_INJ].map (fun f => live s .hlt (f.ix k))

/-- The state sensor for GRADE (R564, R595). -/
def gradeSensor (s : State) : Nat := live s .hlt F.hlt_GRADE

/-- The 64-bit entry of a peer (R492). -/
def peerEntry (s : State) (p : Nat) : Nat :=
  (peerOf s p).st + 2 ^ 8 * ((peerOf s p).ports % 2 ^ 8) + 2 ^ 32 * ((peerOf s p).changes % 2 ^ 32)

/-- The 16-byte discovery entry `i` of port slot `q` as a number (R447). -/
def discEntry (s : State) (q i : Nat) : Nat :=
  match mapFind (fhp s q).disc i with
  | some e => e.mac + 2 ^ 48 * (e.vlan % 2 ^ 12 + 2 ^ 15) + 2 ^ 64 * (e.firstSeen % 2 ^ 64)
  | none => 0

/-- Is CAP_VIEW set for a reading function (R557). -/
def capViewOn (s : State) (f : Func) : Bool :=
  match f with
  | .pf => rd s .hlt F.hlt_CAP_VIEW == 1
  | .vf v => match ptnOfVf s v with
    | some q => rd s (.ptn q) F.ptn_CAP_VIEW == 1
    | none => false

/-- A word of a station's block other than its register pages: the statistics window and the instruction memory, whose
upper quarter a virtual function reads as 0 (R94, R152, R557). While it is being zeroed no word of it is served (R104, R199). -/
def stationWord (s : State) (f : Func) (n o : Nat) : Nat :=
  if 0x2000 ≤ o && o < 0x2200 then
    let c := (o - 0x2000) / 4
    if capViewOn s f then mapGet 0 s.cap (chmaxKey n c) else chmax s n c
  else if 0x4000 ≤ o && o < 0x8000 then
    let i := (o - 0x4000) / 8
    if (stn s n).zeroStore || (1536 ≤ i && (stn s n).zeroLend.isSome) then 0
    else if f ≠ .pf && 1536 ≤ i && rd s (.stn n) F.stn_LEND_RES = 1 then 0 else bits (mapGet 0 (stn s n).imem i) (8 * (o % 8)) 32
  else 0

/-- What a read of `n` bytes at an offset of a queue group's data window answers: the bytes of the parcel, or 0 in all of them
when one lies past its end (R275). -/
def dataWindowRead (s : State) (g o n : Nat) : Nat :=
  let b := rd s (.pq g) F.pq_WIN_OFF + o
  match windowParcel s g with
  | some (_, x) => if b + n ≤ (if x.committed then x.len else x.n) then leNat (loadBytes x.data b n) else 0
  | none => 0

/-- The page whose OWNER a window page without a header takes (R50), with the window page's base. -/
def windowPage (addr : Nat) : Option Page :=
  if 0x0100_0000 ≤ addr && addr < 0x0190_0000 then
    let o := addr % 0x1_0000
    if (0x2000 ≤ o && o < 0x3000) || (0x4000 ≤ o && o < 0x8000) then some (.stn ((addr - 0x0100_0000) / 0x1_0000)) else none
  else if 0x0440_0000 ≤ addr && addr < 0x0480_0000 then some (.pq ((addr - 0x0440_0000) / 0x1000))
  else if 0x0600_0000 ≤ addr && addr < 0x0700_0000 && 0x8000 ≤ addr % 0x1_0000 then
    some (.ten ((addr - 0x0600_0000) / 0x1_0000))
  else none

/-- The word of a window that takes the OWNER of page `p`. -/
def ownedWord (s : State) (f : Func) (p : Page) (addr : Nat) : Nat :=
  match p with
  | .stn n => stationWord s f n (addr % 0x1_0000)
  | .pq g => dataWindowRead s g (addr % 0x1000) 4
  | .ten t => bits (mapGet 0 (ten s t).prog ((addr % 0x1_0000 - 0x8000) / 8)) (8 * (addr % 8)) 32
  | _ => 0

/-- The word of a window that only the manager reaches. -/
def managerWord (s : State) (addr : Nat) : Nat :=
  if 0x2_0000 ≤ addr && addr < 0x2_4000 then floorPlanWord s (addr - 0x2_0000)
  else if 0x2000 ≤ addr && addr < 0x4000 then certificateWord s (addr - 0x2000)
  else if 0x2_8000 ≤ addr && addr < 0x2_9000 then pageWord s .pwr (addr % 0x1000) false
  else if 0x0A10_0000 ≤ addr && addr < 0x0A14_0000 then slotMapWord s ((addr - 0x0A10_0000) / 0x1000) (addr % 0x1000 / 4)
  else if 0x0840_0000 ≤ addr && addr < 0x0841_0000 then leNat (loadBytes s.flows (addr - 0x0840_0000) 4)
  else if 0x0842_0000 ≤ addr && addr < 0x0842_8000 then
    bits (discEntry s ((addr - 0x0842_0000) / 0x400) (addr % 0x400 / 16)) (8 * (addr % 16)) 32
  else if 0x0920_0000 ≤ addr && addr < 0x0922_0000 then bits (peerEntry s ((addr - 0x0920_0000) / 8)) (8 * (addr % 8)) 32
  else match imageAt addr with
    | some (p, o) => leNat (loadBytes s.plat.images (2 ^ 20 * p + o) 4)
    | none => 0

/-- Is a window that only the manager reaches served: with READY clear for a poor link, only the floor plan window (R543). -/
def managerServed (s : State) (addr : Nat) : Bool :=
  pageServed s .hif || (decide (0x2_0000 ≤ addr) && decide (addr < 0x2_4000) && pageServed s .hlt)

/-- BIND_PHYS reads 0xFF through a virtual function, in its active-view word too (R59, R110). -/
def hidePhys (f : Func) (p : Page) (off w : Nat) : Nat :=
  match f, p with
  | .vf _, .ptn _ => if off = F.ptn_BIND_PHYS.off || off = 0x800 + F.ptn_BIND_PHYS.off then setBits w F.ptn_BIND_PHYS.lo 8 0xFF else w
  | _, _ => w

/-- The 32-bit word that a function reads at an aligned physical function BAR0 address; 0 where the access is not served. -/
def barWord (s : State) (f : Func) (addr : Nat) : Nat :=
  match pageOf addr, windowPage addr with
  | some .pwr, _ => if f = .pf && pageServed s .hif then managerWord s addr else 0
  | some p, _ =>
    if reach s f p then hidePhys f p (addr % 0x1000) (pageWord s p (addr % 0x1000) (capViewOn s f)) else 0
  | none, some p => if reachWindow s f p (addr / 0x1000 * 0x1000) then ownedWord s f p addr else 0
  | none, none => if f = .pf && managerServed s addr then managerWord s addr else 0

/-- What a read of `n` bytes answers: 1, 2, 4 or 8 bytes naturally aligned are served, another read is 0 (R62). -/
def barRead (s : State) (f : Func) (addr n : Nat) : Nat :=
  if !aligned addr n then 0
  else match windowPage addr with
  | some (.pq g) => if reachWindow s f (.pq g) (addr / 0x1000 * 0x1000) then dataWindowRead s g (addr % 0x1000) n else 0
  | _ =>
    let w := barWord s f (addr / 4 * 4) + 2 ^ 32 * (if n = 8 then barWord s f (addr + 4) else 0)
    bits w (8 * (addr % 4)) (8 * n)

/-! ### The slots of a virtual function (R49) -/

/-- The physical function BAR0 address that an address of a function's own BAR0 reaches: a virtual function's lies in a slot of 4 KiB
that the slot map of its partition names; none where the slot is not mapped. -/
def barAddr (s : State) (f : Func) (a : Nat) : Option Nat :=
  match f with
  | .pf => some a
  | .vf v => match ptnOfVf s v with
    | none => none
    | some q =>
      let e := slotMapWord s q (a / 0x1000)
      if a < 0x40_0000 && bitAt e 31 then some (0x1000 * bits e 0 16 + a % 0x1000) else none

end Sys2Proof.Machine
end

