-- ==== Sys2Proof/Machine/Registers.lean ====
section
/-! DEFINITION. The register pages as software writes them: seals (R63 to R73), quiesce (R74 to R76), ownership (R77 to R79) and
writes of register fields (R55 to R62). -/

namespace Sys2Proof.Machine

/-! ### Seals (R63 to R71) -/

/-- Does the sequencer of a station run nothing of its owner's and nothing lent. -/
def stnIdle (s : State) (m : Nat) : Bool := (stn s (seqOf s m)).job.isNone && (stn s m).job.isNone

/-- Is a page's commit point the acceptance of a SEAL, as things stand (R57, R63, R64). -/
def commitsNow (s : State) (p : Page) : Bool :=
  quiesced s p || match p with
    | .stn n => stnIdle s n
    | .bpr m => stnIdle s (2 * m) && stnIdle s (2 * m + 1)
    | _ => if platBound p then !platRunning s else true

/-- A SEAL is accepted: the groups are armed, at the present tick (R63, R67). -/
def armGroups (s : State) (p : Page) (mask : Nat) : State :=
  let s1 := wr (wr (wr s p F.SEAL_GROUPS mask) p F.SEAL_RESULT 1) p F.SEAL_CHECK 0
  forUpTo 16 (fun g s =>
    if bitAt mask g then
      let s1 := wr s p F.SEAL (setBits (rd s p F.SEAL) g 1 1)
      { s1 with sealAt := mapPut s1.sealAt (sealKey p g) s1.mer.frc }
    else s) s1

/-- A SEAL is refused with a RESULT: shadows and values in effect are kept (R68, R70). -/
def refuseSeal (s : State) (p : Page) (mask result check : Nat) : State :=
  setErr (wr (wr (wr s p F.SEAL_GROUPS mask) p F.SEAL_RESULT result) p F.SEAL_CHECK check) p 1

/-- Do the groups of a mask hold a manager-only field (R67). -/
def namesManagerField (p : Page) (mask : Nat) : Bool := (groupFields p mask).any (fun f => decide (f.who = .mgr))

/-- A SEAL write of a nonzero mask (R67 to R70). -/
def sealGroups (s : State) (f : Func) (p : Page) (mask : Nat) : State :=
  if (List.range 16).any (fun g => bitAt mask g && !bitAt (capsGroups p) g) then refuseSeal s p mask 4 0
  else if (List.range 16).any (fun g => bitAt mask g && bitAt (rd s p F.SEAL) g) then refuseSeal s p mask 5 0
  else if decide (f ≠ .pf) && namesManagerField p mask then refuseSeal s p mask 7 0
  else if failedCheck s p mask ≠ 0 then refuseSeal s p mask 3 (failedCheck s p mask)
  else
    let s1 := armGroups s p mask
    if commitsNow s p then applyGroups s1 p mask else s1

/-- A write to the SEAL register: 0 is ignored, and so is any on the page of a unit that is down (R60, R68). -/
def writeSeal (s : State) (f : Func) (p : Page) (mask : Nat) : State :=
  if unitDown s p || mask % 65536 = 0 then s else sealGroups s f p (mask % 65536)

/-- Run `k` when function `f` reaches the register page `p`; the power window has no header (R613). -/
def withPage (s : State) (f : Func) (p : Page) (k : State → State) : State :=
  if p = .pwr then s else if reach s f p then k s else denyAccess s f

/-- SEAL. -/
def effSeal (f : Func) (p : Page) (mask : Nat) (s : State) : State := withPage s f p (fun s => writeSeal s f p mask)
/-- SEAL (R67): the named groups are checked together, and armed or refused as one. -/
def execSeal (f : Func) (p : Page) (mask : Nat) (s : State) : Host.Outcome State Fault Refusal :=
  act (Instr.seal f p mask) s (effSeal f p mask s)

/-- A write to EXPERT_EN (R60, R69, R73): a change is stored and acts as a SEAL of group X alone. -/
def writeExpert (s : State) (f : Func) (p : Page) (v : Nat) : State :=
  if unitDown s p then s
  else if bitAt (rd s p F.SEAL) 15 then (if v = rd s p F.EXPERT_EN then s else setErr s p 5)
  else if v = rdApplied s p F.EXPERT_EN then s
  else sealGroups (wr s p F.EXPERT_EN v) f p 0x8000

/-- EXPERT_EN_WRITE. -/
def effExpertEnWrite (f : Func) (p : Page) (v : Bool) (s : State) : State :=
  withPage s f p (fun s => writeExpert s f p (ofBool v))
/-- EXPERT_EN_WRITE (R73). -/
def execExpertEnWrite (f : Func) (p : Page) (v : Bool) (s : State) : Host.Outcome State Fault Refusal :=
  act (Instr.expertEnWrite f p v) s (effExpertEnWrite f p v s)

/-- Is a page at its commit point (R63, R64). The row boundaries of a running plat apply the plat-bound pages' groups
themselves. -/
def atCommit (s : State) (p : Page) : Bool :=
  match p with
  | .stn n => quiesced s p || stnAtCommit s n
  | .bpr m => stnAtCommit s (2 * m) && stnAtCommit s (2 * m + 1)
  | _ => commitsNow s p

/-- SEAL_COMMIT. -/
def effSealCommit (p : Page) (s : State) : State := if atCommit s p then applyGroups s p (rd s p F.SEAL) else s
/-- SEAL_COMMIT (R63, R66, R106): at the page's commit point the armed groups are applied together. -/
def execSealCommit (p : Page) (s : State) : Host.Outcome State Fault Refusal :=
  act (Instr.sealCommit p) s (effSealCommit p s)

/-! ### Quiesce (R74 to R76) -/

/-- Is a quiesce of a page refused: the committed plat uses its unit or, for a partition, a station it owns (R76, R327); or
the page's own chapter refuses it (R305, R348, R505). -/
def quiesceRefused (s : State) (p : Page) : Bool :=
  match p with
  | .bpr m => unitUsed s (2 * m) || unitUsed s (2 * m + 1)
  | .ptn q => (List.range 144).any (fun n => decide (ownerOf s (.stn n) = q) && unitUsed s n)
  | .plt | .mer => platRunning s
  | .trg => decide (leaseState s = 1)
  | _ => match unitOf p with
    | some u => unitUsed s u
    | none => false

/-- One station stops taking work and saves what it runs (R107); a parcel that it has asked for stays in its queue. -/
def stopStn (s : State) (m : Nat) : State :=
  let s1 := requestSave s m 3
  match (stn s1 (seqOf s m)).job with
  | none => dropTake s1 (seqOf s m)
  | some _ => s1

/-- The fault timeout stops running (R240). -/
def pauseFault (s : State) (k : Nat) : State :=
  match (mov s k).fltDeadline with
  | none => s
  | some d => setMov s k { mov s k with fltDeadline := none, fltLeft := d - s.mer.frc }

/-- The fault timeout runs on (R240). -/
def resumeFault (s : State) (k : Nat) : State :=
  if (mov s k).shown.isSome && (mov s k).fltDeadline.isNone then
    setMov s k { mov s k with fltDeadline := some (s.mer.frc + (mov s k).fltLeft) }
  else s

/-- A channel gives up an acceptance that has not finished. -/
def dropTrvAccept (s : State) (c : Nat) : State :=
  let s1 := dropStakeWait (withdrawAgent s (trvAg c)) (trvAg c)
  match takeGranted s1 (trvAg c) 1 with
  | (some pid, s2) => (commitOp s2 pid 0).2
  | (none, s2) => s2

/-- A block stops taking new work and brings its work in flight to its commit point, or saves it (R74, R107, R166, R240,
R477). What its units have stalled in the pool is withdrawn (R261, R268). -/
def stopBlock (s : State) (p : Page) : State :=
  match p with
  | .stn n => (pairMembers s n).foldl stopStn s
  | .bpr m => if pairJoined s (2 * m) then stopStn (stopStn s (2 * m)) (2 * m + 1) else s
  | .mov k => pauseFault (yieldItems (dropAccept s k) k (fun _ _ => true) 3) k
  | .trc c => dropTrvAccept s c
  | .fhq j => withdrawAgent s (.fhQueue j)
  | .cdp => withdrawAll s (fun a => match a with
    | .fieldBook _ => true
    | _ => false)
  | .hif => withdrawAll s (fun a => match a with
    | .hif _ _ => true
    | _ => false)
  | .trg => withdrawAgent s .trv
  | .ptn q => withdrawAll s (servesPtn q)
  | _ => s

/-- A quiesce request takes hold: on a PTN page, of every page that the partition owns (R75). -/
def beginQuiesce (s : State) (p : Page) : State :=
  match p with
  | .ptn q => (ownedPages s q).foldl (fun s x => if unitDown s x then s else stopBlock s x) (stopBlock (dropAllHeld s q) p)
  | _ => stopBlock s p

/-- Set QUIESCE_REQ: ignored on the page of a unit that is down, and refused where R76 says (R60, R74). -/
def setQuiesce (s : State) (p : Page) : State :=
  if unitDown s p || decide (rd s p F.QUIESCE_REQ = 1) then s
  else if quiesceRefused s p then setErr s p 6
  else beginQuiesce (wr s p F.QUIESCE_REQ 1) p

/-- Has a block's drain or save finished. -/
def drained (s : State) (p : Page) : Bool :=
  let still (m : Nat) : Bool := unitDown s (.stn m) || match (stn s m).job with
    | none => true
    | some j => j.lent.isSome
  match p with
  | .stn n => (pairMembers s n).all still
  | .bpr m => !pairJoined s (2 * m) || (still (2 * m) && still (2 * m + 1))
  | .mov k => (mov s k).items.all (fun it => !it.isRunning)
  | .ten t => (ten s t).item.isNone && !(ten s t).zeroing
  | .cdu i => (cdu s i).item.isNone
  | .trc c => (trc s c).isEmpty
  | .tir => s.migs.all (fun m => m.committed || m.dstUnit.isNone)
  | .ptn q => (ownedPages s q).all (quiesced s)
  | _ => true

/-- Is a page held quiesced, pairs taken together (R75, R166). -/
def pageHeld (s : State) (p : Page) : Bool :=
  match p with
  | .stn n => stationHeld s n
  | .bpr m => if pairJoined s (2 * m) then stationHeld s (2 * m) else heldQuiesced s p
  | _ => heldQuiesced s p

/-- A station reaches QUIESCED, with the other member of its joined pair and their BPR page (R166). -/
def reachStn (s : State) (m : Nat) : State :=
  let s1 := (pairMembers s m).foldl (fun s k => if unitDown s (.stn k) then s else reachQuiesced s (.stn k)) s
  if pairJoined s m then reachQuiesced s1 (.bpr (m / 2)) else s1

/-- QUIESCE_COMPLETE. -/
def effQuiesceComplete (p : Page) (s : State) : State :=
  if unitDown s p || !pageHeld s p || !drained s p || decide (rd s p F.QUIESCED = 1) then s
  else match p with
    | .stn n => reachStn s n
    | .bpr m => if pairJoined s (2 * m) then reachStn s (2 * m) else reachQuiesced s p
    | _ => resetSettle (reachQuiesced s p)
/-- QUIESCE_COMPLETE (R65, R74): the drain or save has finished, armed groups are applied and QUIESCED is set. -/
def execQuiesceComplete (p : Page) (s : State) : Host.Outcome State Fault Refusal :=
  act (Instr.quiesceComplete p) s (effQuiesceComplete p s)

/-- A page whose quiesce nothing holds any more takes up its work (R74, R75, R240, R270). -/
def resumePage (s : State) (p : Page) : State :=
  if pageHeld s p || unitDown s p then s
  else match p with
    | .stn n => resumeStnPage s n
    | .bpr m => if pairJoined s (2 * m) then resumeStnPage s (2 * m) else leaveQuiesced s p
    | .mov k => resumeFault (leaveQuiesced s p) k
    | .pq g => forUpTo 16 (fun i s => wake s (16 * g + i)) (leaveQuiesced s p)
    | .tir => serveTraverse (serveHeld (serveMigs (forUpTo 64 (fun q s => quotaFollow (pinsResume s q) q) (leaveQuiesced s p))))
    | _ => leaveQuiesced s p

/-- Clear QUIESCE_REQ. On a PTN page the pages that it alone held take up their work, and recovery that is due begins (R75,
R550). -/
def clearQuiesce (s : State) (p : Page) : State :=
  if unitDown s p || decide (rd s p F.QUIESCE_REQ = 0) then s
  else
    let s1 := resumePage (wr s p F.QUIESCE_REQ 0) p
    match p with
    | .ptn q =>
      let s2 := resetSettle ((ownedPages s1 q).foldl resumePage s1)
      if (ptn s2 q).recoveryDue && pstate s2 q == 1 then recoverStart s2 q else s2
    | _ => resetSettle s1

/-- A write of QUIESCE_REQ; on a PTN page the manager's alone (R75, R77). -/
def writeQuiesce (s : State) (f : Func) (p : Page) (v : Nat) : State :=
  match p, f with
  | .ptn _, .vf _ => if v = rd s p F.QUIESCE_REQ then s else setErr s p 2
  | _, _ => if v = 1 then setQuiesce s p else clearQuiesce s p

/-- QUIESCE_REQUEST. -/
def effQuiesceRequest (f : Func) (p : Page) (s : State) : State := withPage s f p (fun s => writeQuiesce s f p 1)
/-- QUIESCE_REQUEST (R74 to R76). -/
def execQuiesceRequest (f : Func) (p : Page) (s : State) : Host.Outcome State Fault Refusal :=
  act (Instr.quiesceRequest f p) s (effQuiesceRequest f p s)

/-- QUIESCE_CLEAR. -/
def effQuiesceClear (f : Func) (p : Page) (s : State) : State := withPage s f p (fun s => writeQuiesce s f p 0)
/-- QUIESCE_CLEAR (R74, R75): QUIESCED is cleared, RESUMED raised, and the block takes up its held work. -/
def execQuiesceClear (f : Func) (p : Page) (s : State) : Host.Outcome State Fault Refusal :=
  act (Instr.quiesceClear f p) s (effQuiesceClear f p s)

/-! ### Ownership (R77 to R79) -/

/-- Would this OWNER give a partition in HOTSET mode a 33rd station (R197). -/
def poolFull (s : State) (p : Page) (v : Nat) : Bool :=
  match p with
  | .stn _ => decide (v < 64) && ef s (.ptn v) F.ptn_MODEL_MODE == 1
      && decide (32 ≤ ((List.range 144).filter (fun n => decide (ownerOf s (.stn n) = v))).length)
  | _ => false

/-- Is a change of owner barred because the job slot is BOUND (R504). -/
def slotBound (s : State) (p : Page) : Bool :=
  match p with
  | .trj j => rd s (.trj j) F.trj_STATE != 0
  | _ => false

/-- A write of OWNER that reaches the page (R78, R79, R160, R197, R504). On a PTN page it is read-only. -/
def writeOwner (s : State) (f : Func) (p : Page) (v : Nat) : State :=
  match p, f with
  | .ptn _, _ => s
  | .bpr _, _ => setErr s p 2
  | _, .vf _ => if v = rd s p F.OWNER then s else setErr s p 2
  | _, .pf =>
    if (decide (64 ≤ v) && decide (v ≠ 0xFF)) || (decide (v ≠ 0xFF) && !assignable p) then setErr s p 2
    else if v = rd s p F.OWNER then s
    else if !quiesced s p then setErr s p 0
    else if slotBound s p || poolFull s p v then setErr s p 2
    else changeOwner s p v

/-- OWNER_WRITE. -/
def effOwnerWrite (f : Func) (p : Page) (v : Nat) (s : State) : State :=
  withPage s f p (fun s => writeOwner s f p (v % 256))
/-- OWNER_WRITE (R78, R79). -/
def execOwnerWrite (f : Func) (p : Page) (v : Nat) (s : State) : Host.Outcome State Fault Refusal :=
  act (Instr.ownerWrite f p v) s (effOwnerWrite f p v s)

/-! ### Fields of a register (R57, R58, R62, R69, R77) -/

/-- The fields of the register at an offset of a page. -/
def regFields (p : Page) (off : Nat) : List Fld := (expand (blockTable p)).filter (fun f => decide (f.off = off))

/-- Is the register at an offset 64 bits wide (R62). TILE_INFO of a PTN page is, though its fields lie in its low half
(R204). -/
def wideReg (p : Page) (off : Nat) : Bool :=
  (regFields p off).any (fun f => decide (32 < f.lo + f.w)) || (match p with
    | .ptn _ => decide (off = 0x2C8)
    | _ => false)

/-- Fields whose write does more than store a value, and which `fieldActs` serves. -/
def actsOnWrite (p : Page) (f : Fld) : Bool :=
  match p with
  | .ptn _ => [F.ptn_FREE_GO, F.ptn_BIND_GO, F.ptn_BIND_LOOKUP, F.ptn_TILE_QUERY, F.ptn_ATTEST_GO].contains f
      || (ixIn F.ptn_CQ_HEAD f).isSome || (ixIn F.ptn_SQ_TAIL f).isSome
  | .stn _ => [F.stn_STAT_CLR, F.stn_LEND_RES].contains f
  | .tir => f == F.tir_TILE_QUERY
  | .mov _ => [F.mov_FLT_CMD, F.mov_INV_GO].contains f
  | .pq _ => f == F.pq_OP_CODE || (ixIn F.pq_ENABLE f).isSome || (ixIn F.pq_ABORT f).isSome || (ixIn F.pq_CLEAR f).isSome
  | .mer => [F.mer_RATE, F.mer_ADJ, F.mer_STEP_GO, F.mer_TDR].contains f || (ixIn F.mer_ARM f).isSome
      || (ixIn F.mer_AT f).isSome || (ixIn F.mer_PERIOD f).isSome
  | .plt => [F.plt_TRIM_ARM, F.plt_CMD, F.plt_CMD_PATTERN, F.plt_STAKE_QUERY].contains f
  | .hif => f == F.hif_PART_CMD
  | .hlt => [F.hlt_RESET_LEVEL, F.hlt_RESET_TARGET, F.hlt_RESET_GO].contains f
  | .mon => f == F.mon_ATTEST_GO
  | _ => false

/-- Values that a class S field does not take: reserved ones, and WIDTH on a slot that has none (R113, R455). -/
def valueIgnored (p : Page) (f : Fld) (x : Nat) : Bool :=
  match p with
  | .stn _ => f == F.stn_MODE && decide (2 ≤ x)
  | .fhp q => f == F.fhp_WIDTH && decide (q % 4 ≠ 0)
  | _ => false

/-- One field of a register takes its bits of the written value (R57, R58, R69, R77). -/
def storeField (f : Func) (p : Page) (value : Nat) (s : State) (fl : Fld) : State :=
  let x := bits value fl.lo fl.w
  let old := rd s p fl
  if fl.cls = .ro then s
  else if !sideOk f fl.who then (if x = old then s else setErr s p 2)
  else match fl.cls with
    | .ro => s
    | .w1c => wr s p fl ((List.range fl.w).foldl (fun a i => if bitAt x i then setBits a i 1 0 else a) old)
    | .d => if actsOnWrite p fl then s else wr s p fl x
    | .s => if valueIgnored p fl x then s
        else if !quiesced s p then (if x = old then s else setErr s p 0)
        else if actsOnWrite p fl then s else wr s p fl x
    | .h => if bitAt (rd s p F.SEAL) fl.grp then (if x = old then s else setErr s p 5) else wr s p fl x

/-- Did the write carry a 1 for a field that the function may write. -/
def wrote (f : Func) (fl : Fld) (value : Nat) : Bool := sideOk f fl.who && decide (bits value fl.lo fl.w = 1)

/-! ### Registers that act (R57 and the rules of each block) -/

/-- What a register of a PTN page does beside storing (R110, R195, R204, R519, R582). -/
def ptnActs (f : Func) (q off value : Nat) (s : State) : State :=
  if off = F.ptn_FREE_GO.off then (if wrote f F.ptn_FREE_GO value then freeRange s q else s)
  else if off = F.ptn_BIND_GO.off then
    if wrote f F.ptn_BIND_GO value then bindGo s q
    else if wrote f F.ptn_BIND_LOOKUP value then showBinding (wr s (.ptn q) F.ptn_BIND_RESULT 0) q else s
  else if off = F.ptn_TILE_QUERY.off then loadTileInfo s q value
  else if off = F.ptn_ATTEST_GO.off then (if wrote f F.ptn_ATTEST_GO value then requestReport s (.ptn q) else s)
  else if 0x100 ≤ off && off < 0x200 && off % 16 = 12 then cqHead s q ((off - 0x100) / 16) (bits value 0 16)
  else if 0x700 ≤ off && off % 16 = 12 then sqDoorbell s q ((off - 0x700) / 16) (bits value 0 16)
  else s

/-- LEND_RES changes: the lend region is zeroed first (R104). DESIGN CHOICE (log entry 139): a write of the value still in effect
while a change waits for its zeroing is ignored, and the change takes effect; the spec says neither. -/
def changeLendRes (s : State) (n v : Nat) : State :=
  if quiesced s (.stn n) && decide (v ≠ rd s (.stn n) F.stn_LEND_RES) then setStn s n { stn s n with zeroLend := some v } else s

/-- What a register of an STN page does beside storing (R104, R152). -/
def stnActs (f : Func) (n off value : Nat) (s : State) : State :=
  if off = F.stn_STAT_CLR.off then (if wrote f F.stn_STAT_CLR value then statClear s n else s)
  else if off = F.stn_LEND_RES.off then
    (if sideOk f F.stn_LEND_RES.who then changeLendRes s n (bits value 0 1) else s)
  else s

/-- The host tier's configuration has changed while the page is quiesced: the slots that hold no tile wait for zeroing (R198). -/
def hostConfigured (old s : State) : State :=
  let same := rd old .tir F.tir_HOST_EN == rd s .tir F.tir_HOST_EN && rd old .tir F.tir_HOST_BASE == rd s .tir F.tir_HOST_BASE
    && rd old .tir F.tir_HOST_TILES == rd s .tir F.tir_HOST_TILES
  if same then s
  else
    setLocs { s with spillNext := 0, spillFreed := [] } 3 0
      { free := 0, pending := if hostOn s then openSlots s (rd s .tir F.tir_HOST_TILES) else 0 }

/-- What a register of a MOV page does beside storing (R230, R237). FLT_CMD 0 and 3 are no command. -/
def movActs (f : Func) (k off value : Nat) (s : State) : State :=
  if off = F.mov_FLT_CMD.off then
    if bits value 0 2 = 1 then effFltCmdResume f k s else if bits value 0 2 = 2 then effFltCmdAbort f k s else s
  else if off = F.mov_INV_GO.off then (if wrote f F.mov_INV_GO value then effInvGo f k s else s)
  else s

/-- The operation that a PQ page's registers name (R274). -/
def pqOperation (f : Func) (g : Nat) (s : State) (code : Nat) : State :=
  let q := 16 * g + rd s (.pq g) F.pq_OP_QIDX
  let h := rd s (.pq g) F.pq_OP_HANDLE
  let n := rd s (.pq g) F.pq_OP_ARG
  match code with
  | 1 => effReserve (.page f) q n (rd s (.pq g) F.pq_OP_PRIO) s
  | 2 => effCommit (.page f) g h n s
  | 3 => effRead (.page f) q s
  | 4 => effMark (.page f) q s
  | 5 => effRewind (.page f) q s
  | 6 => effRelease (.page f) q s
  | 7 => effReleaseH (.page f) g h s
  | _ => s

/-- What a register of a PQ page does beside storing (R262, R269, R274). -/
def pqActs (f : Func) (g off value : Nat) (s : State) : State :=
  let q := 16 * g + (off - 0x100) / 32
  if off = F.pq_OP_CODE.off then pqOperation f g s (bits value 0 3)
  else if 0x100 ≤ off && off < 0x300 && off % 32 = 0 then
    if quiesced s (.pq g) then effQueueEnable f q (bits value 0 1 == 1) s else s
  else if 0x100 ≤ off && off < 0x300 && off % 32 = 12 then
    let s1 := if bits value 0 1 = 1 then effAbort f q s else s
    if bits value 1 1 = 1 then effClear f q s1 else s1
  else s

/-- A write of AT or PERIOD of trigger `k`: ignored while it is armed, with TRG_LOCKED; triggers 2 to 7 have no fields and those
of the barriers are read-only (R297, R298, R309). -/
def writeTrigger (s : State) (f : Fld) (k v : Nat) : State :=
  if 2 ≤ k && k < 8 then s
  else if (8 ≤ k && k < 24) || trgArmed s k then setErr s .mer 18
  else wr s .mer (f.ix k) v

/-- What a register of the MER page does beside storing (R284 to R287, R297 to R302). -/
def merActs (f : Func) (off value : Nat) (s : State) : State :=
  let k := (off - 0x400) / 16
  if off = F.mer_RATE.off then effRateWrite f value s
  else if off = F.mer_ADJ.off then effAdjWrite f value s
  else if off = F.mer_STEP_GO.off then (if wrote f F.mer_STEP_GO value then effStepGo f s else s)
  else if off = F.mer_TDR.off then (if wrote f F.mer_TDR value && quiesced s .mer then timeDomainReset s else s)
  else if 0x400 ≤ off && off < 0x800 then
    if off % 16 = 0 then writeTrigger s F.mer_AT k (value % 2 ^ 64)
    else if off % 16 = 8 then writeTrigger s F.mer_PERIOD k (value % 2 ^ 32)
    else if off % 16 = 12 then (if bits value 0 1 = 1 then writeArm s k else writeDisarm s k)
    else s
  else s

/-- What a register of the PLT page does beside storing (R324, R330, R331, R348). -/
def pltActs (f : Func) (off value : Nat) (s : State) : State :=
  if off = F.plt_TRIM.off then (if bits value 31 1 = 1 then effTrimArm f (bits value 0 16) s else s)
  else if off = F.plt_CMD.off then
    let p := bits value 4 2
    match bits value 0 2 with
    | 1 => effPatternCommit f p s
    | 2 => effUncommit f p s
    | 3 => effStop f s
    | _ => wr s .plt F.plt_CMD_PATTERN p
  else if off = F.plt_STAKE_QUERY.off then effStakeQuery f (bits value 0 16) s
  else s

/-- PART_CMD of the HIF page (R511). -/
def hifActs (f : Func) (off value : Nat) (s : State) : State :=
  if off = F.hif_PART_CMD.off then
    let p := bits value 8 6
    match bits value 0 3 with
    | 1 => effCreate f p (bits value 16 7) s
    | 2 => effDestroy f p s
    | 3 => effAbortPending f p s
    | _ => s
  else s

/-- RESET_GO of the HLT page, and INJ_REQ (R545, R568). A cold device reset carries its boot environment and has a command of its
own. -/
def hltActs (off value : Nat) (s : State) : State :=
  let t := bits value 8 8
  let put (s : State) : State := wr (wr s .hlt F.hlt_RESET_LEVEL (bits value 0 3)) .hlt F.hlt_RESET_TARGET t
  if off = F.hlt_RESET_GO.off then
    if bits value 31 1 = 0 then put s
    else match bits value 0 3 with
      | 1 => resetGo s 1 t (fun s => stationReset s t)
      | 2 => resetGo s 2 t (fun s => clusterReset s t [])
      | 3 => resetGo s 3 t (fun s => partitionReset s t)
      | 4 => resetGo s 4 t (fun s => warmReset s 0)
      | n => resetGo s n t (fun s => s)
  else if off = F.hlt_INJ_REQ.off then requestConsent s
  else s

/-- What the register at an offset does beside storing its fields. -/
def fieldActs (f : Func) (p : Page) (off value : Nat) (old s : State) : State :=
  match p with
  | .ptn q => ptnActs f q off value s
  | .stn n => stnActs f n off value s
  | .tir => if off = F.tir_TILE_QUERY.off then effTirTileQuery value s else hostConfigured old s
  | .mov k => movActs f k off value s
  | .pq g => pqActs f g off value s
  | .mer => merActs f off value s
  | .plt => pltActs f off value s
  | .fhp q => if rd old p F.fhp_WIDTH = rd s p F.fhp_WIDTH then s else widthChanged s (q / 4)
  | .trj j => match ((List.range 64).find? (fun i => decide ((F.trj_WATCH.ix i).off = off))) with
    | some i => { s with trv := { s.trv with watchWait := s.trv.watchWait.filter (fun e => decide (e ≠ (j, i))) } }
    | none => s
  | .hif => hifActs f off value s
  | .hlt => hltActs off value s
  | .mon => if off = F.mon_ATTEST_GO.off then (if wrote f F.mon_ATTEST_GO value then requestReport s .mon else s) else s
  | _ => s

/-! ### The header (R52, R55, R614) -/

/-- A write to INJECT: with ARM set it injects the fault, and with ARM clear FAULT and ARM are stored, so that what is armed is
armed no longer (R52, R57, R568). -/
def writeInject (s : State) (f : Func) (p : Page) (value : Nat) : State :=
  if bits value 31 1 = 1 then inject s f p (bits value 0 16)
  else storeField f p value (storeField f p value s F.FAULT) F.INJ_ARM

/-- A write to a header register (R51, R52). DESIGN CHOICE (log entry 142): a write of CTRL_COMMON that changes both EXPERT_EN and
QUIESCE_REQ acts on EXPERT_EN first; the spec gives no order. -/
def writeHeader (f : Func) (p : Page) (off value : Nat) (s : State) : State :=
  match off with
  | 0x010 => storeField f p value s F.ERR_STATUS
  | 0x014 => wrEnable s p F.ERR_ENABLE (errStatus s p) 0 value
  | 0x018 => storeField f p value s F.EVT_STATUS
  | 0x01C => wrEnable s p F.EVT_ENABLE (rd s p F.EVT_STATUS) 1 value
  | 0x020 => writeSeal s f p (bits value 0 16)
  | 0x028 => writeInject s f p value
  | 0x02C => writeOwner s f p (bits value 0 8)
  | 0x030 => writeQuiesce (writeExpert s f p (bits value 0 1)) f p (bits value 1 1)
  | _ => s

/-! ### Writes of a page (R56, R60, R62) -/

/-- A write to one register of a page, of the register's own width; a condition that it makes hold raises its error bit. -/
def writeReg (f : Func) (p : Page) (off value : Nat) (s : State) : State :=
  if off < 0x40 then writeHeader f p off value s
  else if unitDown s p then s
  else levelsRise s (fieldActs f p off value s ((regFields p off).foldl (storeField f p value) s)) p

/-- A 4-byte write at an aligned offset: half a 64-bit register is not written (R62). -/
def write4 (f : Func) (p : Page) (off value : Nat) (s : State) : State :=
  if 0x800 ≤ off then s
  else if wideReg p off || (off % 8 = 4 && wideReg p (off - 4)) then setErr s p 3
  else writeReg f p off (value % 2 ^ 32) s

/-- A write of `size` bytes at an offset of a page (R56, R62). DESIGN CHOICE (log entry 141): the width is tested first, so that a
write of the wrong width to a block field sets ACCESS_WIDTH on the page of a unit that is down too, where R60 ignores writes
with no error; the spec does not say which of the two holds. -/
def writePage (f : Func) (p : Page) (off size value : Nat) (s : State) : State :=
  if 0x800 ≤ off then s
  else if size = 4 && off % 4 = 0 then write4 f p off value s
  else if size = 8 && off % 8 = 0 then
    if wideReg p off then writeReg f p off (value % 2 ^ 64) s
    else write4 f p (off + 4) (value / 2 ^ 32) (write4 f p off value s)
  else setErr s p 3

/-! ### Windows without a header (R50, R94, R275, R313, R385, R447, R459, R513, R613) -/

/-- A write to the slot map of partition `p`: entry 0 is fixed (R513). -/
def writeSlotMap (s : State) (p i value : Nat) : State :=
  if i = 0 then s
  else setPtn s p { ptn s p with slotMap := mapSet 0 (ptn s p).slotMap i (bits value 0 16 + 2 ^ 31 * bits value 31 1) }

/-- The bits of byte `k` of a flow entry that hold a field; the others read 0 (R459). -/
def flowMask (k : Nat) : Nat :=
  match k with
  | 8 => 0x1F | 9 => 0x0F | 11 => 0x3F | 12 => 0x3F | 14 => 0x01 | 15 => 0 | _ => 0xFF

/-- Written bytes of a flow entry from byte `k` on, with what no field holds at 0 (R459). -/
def flowBytes : Nat → List Byte → List Byte
  | _, [] => []
  | k, b :: r => (b &&& BitVec.ofNat 8 (flowMask k)) :: flowBytes (k + 1) r

/-- A write of the manager to a window that only the manager reaches, at an aligned address and of 4 or 8 bytes. -/
def managerWindow (s : State) (addr size value : Nat) : State :=
  if 0x0A10_0000 ≤ addr && addr < 0x0A14_0000 then
    let p := (addr - 0x0A10_0000) / 0x1000
    let i := addr % 0x1000 / 4
    if size = 8 then writeSlotMap (writeSlotMap s p i (value % 2 ^ 32)) p (i + 1) (value / 2 ^ 32) else writeSlotMap s p i value
  else if 0x0840_0000 ≤ addr && addr < 0x0841_0000 then
    { s with flows := storeBytes s.flows (addr - 0x0840_0000) (flowBytes (addr % 16) (natLE size value)) }
  else if 0x0842_0000 ≤ addr && addr < 0x0842_8000 then
    let q := (addr - 0x0842_0000) / 0x400
    let i := addr % 0x400 / 16
    let v := if addr % 16 = 4 then some (bitAt value 31) else if addr % 16 = 0 && size = 8 then some (bitAt value 63) else none
    match v with
    | some false => effDiscEntryClear .pf q i s
    | _ => s
  else if addr = 0x0002_8000 then storePlSet s (bits value 0 16)
  else s

/-- A write to a page that takes the OWNER of register page `p`, of a width that the window does not serve (R50, R62). -/
def badWidth (s : State) (f : Func) (p : Page) (addr : Nat) : State :=
  if reachWindow s f p (addr / 0x1000 * 0x1000) then setErr s p 3 else denyAccess s f

/-- A write to a page of station `n`'s block other than its register pages: instruction memory, or the statistics page, which
is read-only (R94, R152). -/
def stationWindow (s : State) (f : Func) (n addr size value : Nat) : State :=
  let o := addr % 0x1_0000
  if 0x4000 ≤ o && o < 0x8000 then
    (if size = 8 && o % 8 = 0 then effInstructionMemoryWrite f n ((o - 0x4000) / 8) value s else badWidth s f (.stn n) addr)
  else if o / 0x1000 = 2 && reachWindow s f (.stn n) (addr / 0x1000 * 0x1000) then s
  else denyAccess s f

/-- A write to an address that is in no register page (R47, R50). -/
def writeOutside (f : Func) (addr size value : Nat) (s : State) : State :=
  if 0x0100_0000 ≤ addr && addr < 0x0190_0000 then stationWindow s f ((addr - 0x0100_0000) / 0x1_0000) addr size value
  else if 0x0440_0000 ≤ addr && addr < 0x0480_0000 then
    effDataWindowAccess f ((addr - 0x0440_0000) / 0x1000) (addr % 0x1000) (.write (natLE size value)) s
  else if (imageAt addr).isSome then effPatternImageWrite f addr size value s
  else if 0x0600_0000 ≤ addr && addr < 0x0700_0000 && 0x8000 ≤ addr % 0x1_0000 then
    let t := (addr - 0x0600_0000) / 0x1_0000
    if size = 8 && addr % 8 = 0 then effProgramWindowWrite f t (addr % 0x1_0000 - 0x8000) value s else badWidth s f (.ten t) addr
  else match f with
    | .vf _ => denyAccess s f
    | .pf => if pageServed s .hif && (size = 4 || size = 8) && addr % size = 0 then managerWindow s addr size value else s

/-- A write of `size` bytes at a physical function BAR0 address. -/
def barWrite (f : Func) (addr size value : Nat) (s : State) : State :=
  match pageOf addr with
  | none => writeOutside f addr size value s
  | some .pwr => writeOutside f addr size value s
  | some p => if reach s f p then writePage f p (addr % 0x1000) size value s else denyAccess s f

/-- A read that answers 0 in all of its bytes. -/
def readZero (s : State) (n : Nat) : State := emit s (.readData (List.replicate n 0))

/-- What a read of `n` bytes at a physical function BAR0 address returns, or 0 and ACCESS_WIDTH in page `p` (R62). -/
def answerRead (f : Func) (p : Page) (addr n : Nat) (s : State) : State :=
  if aligned addr n then emit s (.readData (natLE n (barRead s f addr n))) else readZero (setErr s p 3) n

/-- A read of `n` bytes at a physical function BAR0 address: of a register, where NOW_NSF and TSQ_POP act on it (R289, R295), or of a
window. One that R50 turns away returns 0 and sets OWNER_DENIED, and one of a pattern image that is not of 4 or 8 aligned bytes
returns 0 and sets ACCESS_WIDTH (R62, R313). -/
def barReads (f : Func) (addr n : Nat) (s : State) : State :=
  match pageOf addr, windowPage addr with
  | some .pwr, _ | none, none =>
    if f = .pf && (imageAt addr).isSome && pageServed s .plt && !((n == 4 || n == 8) && aligned addr n) then
      readZero (setErr s .plt 3) n
    else if f = .pf then emit s (.readData (natLE n (barRead s f addr n))) else readZero (denyAccess s f) n
  | some p, _ =>
    if !reach s f p then readZero (denyAccess s f) n
    else if p = .mer && n = 8 && addr % 0x1000 = F.mer_NOW_NSF.off then effNowNsfRead f s
    else if p = .mer && n = 8 && addr % 0x1000 = F.mer_TSQ_POP_ID.off then effTsqPop f s
    else answerRead f p addr n s
  | none, some (.pq g) => effDataWindowAccess f g (addr % 0x1000) (.read n) s
  | none, some p =>
    if reachWindow s f p (addr / 0x1000 * 0x1000) then answerRead f p addr n s else readZero (denyAccess s f) n

/-- REGISTER_WRITE. -/
def effRegisterWrite (f : Func) (addr size : Nat) (op : Option Nat) (s : State) : State :=
  match barAddr s f addr, op with
  | some a, some v => barWrite f a size v s
  | some a, none => barReads f a size s
  | none, some _ => denyAccess s f
  | none, none => readZero (denyAccess s f) size
/-- REGISTER_WRITE (R49, R50, R57, R62): an access of `size` bytes at an address of a function's own BAR0, the physical function's or one
in a slot of a virtual function's. `op` is the value that is written; without one the access is a read, which has no row of
its own (DESIGN CHOICE, log entry 140). -/
def execRegisterWrite (f : Func) (addr size : Nat) (op : Option Nat) (s : State) : Host.Outcome State Fault Refusal :=
  act (Instr.registerWrite f addr size op) s (effRegisterWrite f addr size op s)

end Sys2Proof.Machine
end

