-- ==== Sys2Proof/Machine/Dispatch.lean ====
section
/-! DEFINITION. The dispatch: one arm for each command. -/

namespace Sys2Proof.Machine

/-- The effect of a command on everything but the queue of waiting commands. -/
def exec (i : Instr) (s : State) : Host.Outcome State Fault Refusal :=
  match i with
  | .registerWrite x1 x2 x3 x4 => Sys2Proof.Machine.execRegisterWrite x1 x2 x3 x4 s
  | .seal x1 x2 x3 => Sys2Proof.Machine.execSeal x1 x2 x3 s
  | .expertEnWrite x1 x2 x3 => Sys2Proof.Machine.execExpertEnWrite x1 x2 x3 s
  | .sealCommit x1 => Sys2Proof.Machine.execSealCommit x1 s
  | .quiesceRequest x1 x2 => Sys2Proof.Machine.execQuiesceRequest x1 x2 s
  | .quiesceComplete x1 => Sys2Proof.Machine.execQuiesceComplete x1 s
  | .quiesceClear x1 x2 => Sys2Proof.Machine.execQuiesceClear x1 x2 s
  | .ownerWrite x1 x2 x3 => Sys2Proof.Machine.execOwnerWrite x1 x2 x3 s
  | .coldDeviceReset x1 x2 => Sys2Proof.Machine.execColdDeviceReset x1 x2 s
  | .pwrokDeassert => Sys2Proof.Machine.execPwrokDeassert s
  | .trainingComplete x1 x2 x3 x4 => Sys2Proof.Machine.execTrainingComplete x1 x2 x3 x4 s
  | .configRequest x1 => Sys2Proof.Machine.execConfigRequest x1 s
  | .linkRetrain x1 x2 => Sys2Proof.Machine.execLinkRetrain x1 x2 s
  | .stationReset x1 => Sys2Proof.Machine.execStationReset x1 s
  | .clusterReset x1 x2 => Sys2Proof.Machine.execClusterReset x1 x2 s
  | .partitionReset x1 => Sys2Proof.Machine.execPartitionReset x1 s
  | .warmDeviceReset x1 => Sys2Proof.Machine.execWarmDeviceReset x1 s
  | .warmResetComplete => Sys2Proof.Machine.execWarmResetComplete s
  | .sequencerWatchdog x1 => Sys2Proof.Machine.execSequencerWatchdog x1 s
  | .lockLossTimeout x1 => Sys2Proof.Machine.execLockLossTimeout x1 s
  | .arraySelfCheck x1 x2 => Sys2Proof.Machine.execArraySelfCheck x1 x2 s
  | .stationJobStart x1 => Sys2Proof.Machine.execStationJobStart x1 s
  | .nop x1 => Sys2Proof.Machine.execNop x1 s
  | .seti x1 => Sys2Proof.Machine.execSeti x1 s
  | .addi x1 => Sys2Proof.Machine.execAddi x1 s
  | .loop x1 => Sys2Proof.Machine.execLoop x1 s
  | .jmp x1 => Sys2Proof.Machine.execJmp x1 s
  | .ldw x1 => Sys2Proof.Machine.execLdw x1 s
  | .mma x1 => Sys2Proof.Machine.execMma x1 s
  | .rqo x1 => Sys2Proof.Machine.execRqo x1 s
  | .rqoStart x1 => Sys2Proof.Machine.execRqoStart x1 s
  | .rqoComplete x1 => Sys2Proof.Machine.execRqoComplete x1 s
  | .waitt x1 => Sys2Proof.Machine.execWaitt x1 s
  | .relt x1 => Sys2Proof.Machine.execRelt x1 s
  | .post x1 => Sys2Proof.Machine.execPost x1 s
  | .fence x1 => Sys2Proof.Machine.execFence x1 s
  | .stnEnd x1 => Sys2Proof.Machine.execStnEnd x1 s
  | .stationJobComplete x1 => Sys2Proof.Machine.execStationJobComplete x1 s
  | .stationSave x1 => Sys2Proof.Machine.execStationSave x1 s
  | .lendResZeroingDone x1 => Sys2Proof.Machine.execLendResZeroingDone x1 s
  | .stationStoreZeroed x1 => Sys2Proof.Machine.execStationStoreZeroed x1 s
  | .instructionMemoryWrite x1 x2 x3 x4 => Sys2Proof.Machine.execInstructionMemoryWrite x1 x2 x3 x4 s
  | .statClr x1 x2 => Sys2Proof.Machine.execStatClr x1 x2 s
  | .bindGo x1 x2 => Sys2Proof.Machine.execBindGo x1 x2 s
  | .lookup x1 x2 => Sys2Proof.Machine.execLookup x1 x2 s
  | .carryComplete x1 => Sys2Proof.Machine.execCarryComplete x1 s
  | .bar2Access x1 x2 x3 => Sys2Proof.Machine.execBar2Access x1 x2 x3 s
  | .managerWindowAccess x1 x2 => Sys2Proof.Machine.execManagerWindowAccess x1 x2 s
  | .ageBoundary => Sys2Proof.Machine.execAgeBoundary s
  | .migrationCommit x1 x2 => Sys2Proof.Machine.execMigrationCommit x1 x2 s
  | .migrationSourceFreed x1 x2 => Sys2Proof.Machine.execMigrationSourceFreed x1 x2 s
  | .locationZeroed x1 x2 => Sys2Proof.Machine.execLocationZeroed x1 x2 s
  | .pinComplete x1 x2 => Sys2Proof.Machine.execPinComplete x1 x2 s
  | .freeGo x1 x2 => Sys2Proof.Machine.execFreeGo x1 x2 s
  | .tileQuery x1 x2 x3 => Sys2Proof.Machine.execTileQuery x1 x2 x3 s
  | .tirTileQuery x1 => Sys2Proof.Machine.execTirTileQuery x1 s
  | .patrolScrub x1 => Sys2Proof.Machine.execPatrolScrub x1 s
  | .moverAccept x1 => Sys2Proof.Machine.execMoverAccept x1 s
  | .cplReserveRetry x1 => Sys2Proof.Machine.execCplReserveRetry x1 s
  | .copy x1 x2 => Sys2Proof.Machine.execCopy x1 x2 s
  | .skew x1 x2 => Sys2Proof.Machine.execSkew x1 x2 s
  | .xpose x1 x2 => Sys2Proof.Machine.execXpose x1 x2 s
  | .descriptorComplete x1 => Sys2Proof.Machine.execDescriptorComplete x1 s
  | .fltCmdResume x1 x2 => Sys2Proof.Machine.execFltCmdResume x1 x2 s
  | .fltCmdAbort x1 x2 => Sys2Proof.Machine.execFltCmdAbort x1 x2 s
  | .faultTimeout x1 => Sys2Proof.Machine.execFaultTimeout x1 s
  | .invGo x1 x2 => Sys2Proof.Machine.execInvGo x1 x2 s
  | .invalidationDone x1 => Sys2Proof.Machine.execInvalidationDone x1 s
  | .reserve x1 x2 x3 x4 => Sys2Proof.Machine.execReserve x1 x2 x3 x4 s
  | .commit x1 x2 x3 x4 => Sys2Proof.Machine.execCommit x1 x2 x3 x4 s
  | .read x1 x2 => Sys2Proof.Machine.execRead x1 x2 s
  | .mark x1 x2 => Sys2Proof.Machine.execMark x1 x2 s
  | .rewind x1 x2 => Sys2Proof.Machine.execRewind x1 x2 s
  | .release x1 x2 => Sys2Proof.Machine.execRelease x1 x2 s
  | .releaseH x1 x2 x3 => Sys2Proof.Machine.execReleaseH x1 x2 x3 s
  | .waitLimitExpiry x1 => Sys2Proof.Machine.execWaitLimitExpiry x1 s
  | .cellsFreed x1 => Sys2Proof.Machine.execCellsFreed x1 s
  | .abort x1 x2 => Sys2Proof.Machine.execAbort x1 x2 s
  | .clear x1 x2 => Sys2Proof.Machine.execClear x1 x2 s
  | .queueEnable x1 x2 x3 => Sys2Proof.Machine.execQueueEnable x1 x2 x3 s
  | .dataWindowAccess x1 x2 x3 x4 => Sys2Proof.Machine.execDataWindowAccess x1 x2 x3 x4 s
  | .sourceLost => Sys2Proof.Machine.execSourceLost s
  | .relock => Sys2Proof.Machine.execRelock s
  | .stepGo x1 => Sys2Proof.Machine.execStepGo x1 s
  | .rateWrite x1 x2 => Sys2Proof.Machine.execRateWrite x1 x2 s
  | .adjWrite x1 x2 => Sys2Proof.Machine.execAdjWrite x1 x2 s
  | .tdr x1 => Sys2Proof.Machine.execTdr x1 s
  | .nowNsfRead x1 => Sys2Proof.Machine.execNowNsfRead x1 s
  | .tsqPop x1 => Sys2Proof.Machine.execTsqPop x1 s
  | .ppsInEdge => Sys2Proof.Machine.execPpsInEdge s
  | .ppsOutPulse => Sys2Proof.Machine.execPpsOutPulse s
  | .arm x1 x2 => Sys2Proof.Machine.execArm x1 x2 s
  | .disarm x1 x2 => Sys2Proof.Machine.execDisarm x1 x2 s
  | .triggerConversion x1 => Sys2Proof.Machine.execTriggerConversion x1 s
  | .triggerFire x1 => Sys2Proof.Machine.execTriggerFire x1 s
  | .rowBoundary => Sys2Proof.Machine.execRowBoundary s
  | .grantDispatch x1 => Sys2Proof.Machine.execGrantDispatch x1 s
  | .lentJobStart x1 => Sys2Proof.Machine.execLentJobStart x1 s
  | .grantOverrun x1 => Sys2Proof.Machine.execGrantOverrun x1 s
  | .platStopped => Sys2Proof.Machine.execPlatStopped s
  | .patternImageWrite x1 x2 x3 x4 => Sys2Proof.Machine.execPatternImageWrite x1 x2 x3 x4 s
  | .patternCommit x1 x2 => Sys2Proof.Machine.execPatternCommit x1 x2 s
  | .commitValidation => Sys2Proof.Machine.execCommitValidation s
  | .uncommit x1 x2 => Sys2Proof.Machine.execUncommit x1 x2 s
  | .stop x1 => Sys2Proof.Machine.execStop x1 s
  | .trimArm x1 x2 => Sys2Proof.Machine.execTrimArm x1 x2 s
  | .stakeQuery x1 x2 => Sys2Proof.Machine.execStakeQuery x1 x2 s
  | .headroomPublish => Sys2Proof.Machine.execHeadroomPublish s
  | .governorDecision x1 x2 => Sys2Proof.Machine.execGovernorDecision x1 x2 s
  | .plSetWrite x1 x2 => Sys2Proof.Machine.execPlSetWrite x1 x2 s
  | .pwrbrk => Sys2Proof.Machine.execPwrbrk s
  | .tCrit x1 => Sys2Proof.Machine.execTCrit x1 s
  | .thermtrip x1 => Sys2Proof.Machine.execThermtrip x1 s
  | .tenNop x1 x2 => Sys2Proof.Machine.execTenNop x1 x2 s
  | .tenSeti x1 x2 => Sys2Proof.Machine.execTenSeti x1 x2 s
  | .seth x1 x2 => Sys2Proof.Machine.execSeth x1 x2 s
  | .tenAddi x1 x2 => Sys2Proof.Machine.execTenAddi x1 x2 s
  | .alu x1 x2 => Sys2Proof.Machine.execAlu x1 x2 s
  | .rdt x1 x2 => Sys2Proof.Machine.execRdt x1 x2 s
  | .br x1 x2 => Sys2Proof.Machine.execBr x1 x2 s
  | .brz x1 x2 => Sys2Proof.Machine.execBrz x1 x2 s
  | .brnz x1 x2 => Sys2Proof.Machine.execBrnz x1 x2 s
  | .rep x1 x2 => Sys2Proof.Machine.execRep x1 x2 s
  | .sqh x1 x2 => Sys2Proof.Machine.execSqh x1 x2 s
  | .stc x1 x2 => Sys2Proof.Machine.execStc x1 x2 s
  | .setiv x1 x2 => Sys2Proof.Machine.execSetiv x1 x2 s
  | .rdi x1 x2 => Sys2Proof.Machine.execRdi x1 x2 s
  | .rti x1 x2 => Sys2Proof.Machine.execRti x1 x2 s
  | .prd x1 x2 => Sys2Proof.Machine.execPrd x1 x2 s
  | .pwr x1 x2 => Sys2Proof.Machine.execPwr x1 x2 s
  | .tenEnd x1 x2 => Sys2Proof.Machine.execTenEnd x1 x2 s
  | .sld x1 x2 => Sys2Proof.Machine.execSld x1 x2 s
  | .sst x1 x2 => Sys2Proof.Machine.execSst x1 x2 s
  | .vld x1 x2 => Sys2Proof.Machine.execVld x1 x2 s
  | .vst x1 x2 => Sys2Proof.Machine.execVst x1 x2 s
  | .vmv x1 x2 => Sys2Proof.Machine.execVmv x1 x2 s
  | .vpk x1 x2 => Sys2Proof.Machine.execVpk x1 x2 s
  | .vmac x1 x2 => Sys2Proof.Machine.execVmac x1 x2 s
  | .vmacb x1 x2 => Sys2Proof.Machine.execVmacb x1 x2 s
  | .vada x1 x2 => Sys2Proof.Machine.execVada x1 x2 s
  | .warn x1 => Sys2Proof.Machine.execWarn x1 s
  | .tick x1 => Sys2Proof.Machine.execTick x1 s
  | .interruptEntry x1 => Sys2Proof.Machine.execInterruptEntry x1 s
  | .engineZeroingDone x1 => Sys2Proof.Machine.execEngineZeroingDone x1 s
  | .programWindowWrite x1 x2 x3 x4 => Sys2Proof.Machine.execProgramWindowWrite x1 x2 x3 x4 s
  | .codingJobStart x1 => Sys2Proof.Machine.execCodingJobStart x1 s
  | .ldpcDecode x1 => Sys2Proof.Machine.execLdpcDecode x1 s
  | .ldpcEncode x1 => Sys2Proof.Machine.execLdpcEncode x1 s
  | .polarDecode x1 => Sys2Proof.Machine.execPolarDecode x1 s
  | .polarEncode x1 => Sys2Proof.Machine.execPolarEncode x1 s
  | .fixedLinkTransmit x1 => Sys2Proof.Machine.execFixedLinkTransmit x1 s
  | .fixedLinkReceive x1 => Sys2Proof.Machine.execFixedLinkReceive x1 s
  | .codingJobDone x1 => Sys2Proof.Machine.execCodingJobDone x1 s
  | .fbRead x1 => Sys2Proof.Machine.execFbRead x1 s
  | .fbWrite x1 => Sys2Proof.Machine.execFbWrite x1 s
  | .harqReset x1 => Sys2Proof.Machine.execHarqReset x1 s
  | .frameReceive x1 x2 => Sys2Proof.Machine.execFrameReceive x1 x2 s
  | .portSelection x1 => Sys2Proof.Machine.execPortSelection x1 s
  | .tokenRefill => Sys2Proof.Machine.execTokenRefill s
  | .lateDrop x1 => Sys2Proof.Machine.execLateDrop x1 s
  | .windowClose x1 => Sys2Proof.Machine.execWindowClose x1 s
  | .ruTimeout x1 x2 => Sys2Proof.Machine.execRuTimeout x1 x2 s
  | .linkDown x1 => Sys2Proof.Machine.execLinkDown x1 s
  | .linkUp x1 => Sys2Proof.Machine.execLinkUp x1 s
  | .discEventRetry x1 => Sys2Proof.Machine.execDiscEventRetry x1 s
  | .discEntryClear x1 x2 x3 => Sys2Proof.Machine.execDiscEntryClear x1 x2 x3 s
  | .depthSample => Sys2Proof.Machine.execDepthSample s
  | .grant x1 x2 x3 x4 => Sys2Proof.Machine.execGrant x1 x2 x3 x4 s
  | .renew x1 x2 => Sys2Proof.Machine.execRenew x1 x2 s
  | .jobBind x1 x2 x3 x4 => Sys2Proof.Machine.execJobBind x1 x2 x3 x4 s
  | .peerUp x1 x2 x3 => Sys2Proof.Machine.execPeerUp x1 x2 x3 s
  | .peerDown x1 x2 => Sys2Proof.Machine.execPeerDown x1 x2 s
  | .tearDown x1 x2 x3 => Sys2Proof.Machine.execTearDown x1 x2 x3 s
  | .leaseFence => Sys2Proof.Machine.execLeaseFence s
  | .peerEventRetry => Sys2Proof.Machine.execPeerEventRetry s
  | .load x1 => Sys2Proof.Machine.execLoad x1 s
  | .store x1 => Sys2Proof.Machine.execStore x1 s
  | .flag x1 => Sys2Proof.Machine.execFlag x1 s
  | .atomic x1 => Sys2Proof.Machine.execAtomic x1 s
  | .merge x1 => Sys2Proof.Machine.execMerge x1 s
  | .put x1 => Sys2Proof.Machine.execPut x1 s
  | .get x1 => Sys2Proof.Machine.execGet x1 s
  | .barrier x1 => Sys2Proof.Machine.execBarrier x1 s
  | .inboundRequest x1 x2 x3 x4 => Sys2Proof.Machine.execInboundRequest x1 x2 x3 x4 s
  | .inboundAtomic x1 x2 x3 x4 => Sys2Proof.Machine.execInboundAtomic x1 x2 x3 x4 s
  | .replyArrival x1 x2 x3 => Sys2Proof.Machine.execReplyArrival x1 x2 x3 s
  | .retryTimeout x1 => Sys2Proof.Machine.execRetryTimeout x1 s
  | .replayEntryExpiry x1 x2 x3 => Sys2Proof.Machine.execReplayEntryExpiry x1 x2 x3 s
  | .witnessPacket x1 x2 x3 => Sys2Proof.Machine.execWitnessPacket x1 x2 x3 s
  | .witnessClose x1 x2 x3 => Sys2Proof.Machine.execWitnessClose x1 x2 x3 s
  | .counterWrite x1 x2 x3 x4 => Sys2Proof.Machine.execCounterWrite x1 x2 x3 x4 s
  | .watchRetry x1 x2 => Sys2Proof.Machine.execWatchRetry x1 x2 s
  | .barrierArrive x1 x2 x3 => Sys2Proof.Machine.execBarrierArrive x1 x2 x3 s
  | .barrierReleaseReceive x1 x2 x3 => Sys2Proof.Machine.execBarrierReleaseReceive x1 x2 x3 s
  | .barrierRelease x1 => Sys2Proof.Machine.execBarrierRelease x1 s
  | .barrierTimeout x1 => Sys2Proof.Machine.execBarrierTimeout x1 s
  | .barrierEpochDiscard x1 x2 => Sys2Proof.Machine.execBarrierEpochDiscard x1 x2 s
  | .create x1 x2 x3 => Sys2Proof.Machine.execCreate x1 x2 x3 s
  | .destroy x1 x2 => Sys2Proof.Machine.execDestroy x1 x2 s
  | .partitionFreed x1 => Sys2Proof.Machine.execPartitionFreed x1 s
  | .abortPending x1 x2 => Sys2Proof.Machine.execAbortPending x1 x2 s
  | .sqDoorbell x1 x2 x3 x4 => Sys2Proof.Machine.execSqDoorbell x1 x2 x3 x4 s
  | .cqHeadWrite x1 x2 x3 x4 => Sys2Proof.Machine.execCqHeadWrite x1 x2 x3 x4 s
  | .sqFetch x1 x2 x3 => Sys2Proof.Machine.execSqFetch x1 x2 x3 s
  | .parcel x1 x2 x3 => Sys2Proof.Machine.execParcel x1 x2 x3 s
  | .sqNop x1 x2 => Sys2Proof.Machine.execSqNop x1 x2 s
  | .confirmReadDone x1 x2 => Sys2Proof.Machine.execConfirmReadDone x1 x2 s
  | .cqEntryWrite x1 x2 => Sys2Proof.Machine.execCqEntryWrite x1 x2 s
  | .recoveryEnd x1 => Sys2Proof.Machine.execRecoveryEnd x1 s
  | .functionLevelReset x1 => Sys2Proof.Machine.execFunctionLevelReset x1 s
  | .busMasterEnable x1 x2 => Sys2Proof.Machine.execBusMasterEnable x1 x2 s
  | .cplTimeout x1 => Sys2Proof.Machine.execCplTimeout x1 s
  | .healthWindowClose => Sys2Proof.Machine.execHealthWindowClose s
  | .drain x1 => Sys2Proof.Machine.execDrain x1 s
  | .drainComplete => Sys2Proof.Machine.execDrainComplete s
  | .undrain x1 => Sys2Proof.Machine.execUndrain x1 s
  | .expel x1 => Sys2Proof.Machine.execExpel x1 s
  | .injReq x1 x2 x3 => Sys2Proof.Machine.execInjReq x1 x2 x3 s
  | .injConsentExpiry => Sys2Proof.Machine.execInjConsentExpiry s
  | .injectCorrectable x1 x2 => Sys2Proof.Machine.execInjectCorrectable x1 x2 s
  | .injectUncorrectable x1 x2 => Sys2Proof.Machine.execInjectUncorrectable x1 x2 s
  | .injectCondemn x1 x2 => Sys2Proof.Machine.execInjectCondemn x1 x2 s
  | .injectLockLoss x1 x2 => Sys2Proof.Machine.execInjectLockLoss x1 x2 s
  | .monumentWatchdog => Sys2Proof.Machine.execMonumentWatchdog s
  | .attestGo x1 x2 => Sys2Proof.Machine.execAttestGo x1 x2 s
  | .attestReport x1 => Sys2Proof.Machine.execAttestReport x1 s
  | .anchorSet x1 x2 x3 => Sys2Proof.Machine.execAnchorSet x1 x2 x3 s
  | .injPolicy x1 => Sys2Proof.Machine.execInjPolicy x1 s
  | .dbgChallenge => Sys2Proof.Machine.execDbgChallenge s
  | .challengeExpiry => Sys2Proof.Machine.execChallengeExpiry s
  | .dbgUnlock x1 => Sys2Proof.Machine.execDbgUnlock x1 s
  | .debugEraseComplete => Sys2Proof.Machine.execDebugEraseComplete s
  | .firmwareUpdate x1 x2 x3 => Sys2Proof.Machine.execFirmwareUpdate x1 x2 x3 s
  | .getCertificate x1 x2 x3 => Sys2Proof.Machine.execGetCertificate x1 x2 x3 s
  | .challenge x1 x2 => Sys2Proof.Machine.execChallenge x1 x2 s
  | .getMeasurements x1 => Sys2Proof.Machine.execGetMeasurements x1 s
  | .perstDeassert => Sys2Proof.Machine.execPerstDeassert s
  | .tCritRelease x1 => Sys2Proof.Machine.execTCritRelease x1 s
  | .pwrbrkDeassert => Sys2Proof.Machine.execPwrbrkDeassert s
  | .setEndpointId x1 => Sys2Proof.Machine.execSetEndpointId x1 s

end Sys2Proof.Machine
end

