-- ==== Sys2Proof/Safety.lean ====
section
/-! DEFINITION. The terms in which claims speak of a safe state: memories in their canonical form, and which components of the
state two states agree on. -/

namespace Sys2Proof.Machine

/-- A byte store is in its one canonical form: addresses strictly rising, no listed zero. -/
abbrev Memory.wf (m : NMap Byte) : Bool := mapWf 0 m

/-- The byte stores that stand directly in the state: host memory, the plat's pattern images, the fronthaul flow table
and the field book's contexts. -/
def memoriesWf (s : State) : Bool :=
  Memory.wf s.hostMem && Memory.wf s.plat.images && Memory.wf s.flows && Memory.wf s.book.ctx

/-! ### Completion -/

/-- The command answers a next state, and that state has the property. -/
def Completes (i : Instr) (s : State) (P : State → Prop) : Prop := ∃ t, exec i s = .next t ∧ P t

/-- The command answers its effect, which has the property, and after it the condemnations of units whose latest three errors
lie within a second (R31). -/
def CompletesMem (i : Instr) (s : State) (P : State → Prop) : Prop := ∃ t, exec i s = .next (condemnDue t) ∧ P t

/-! ### Frames -/

/-- The components of State, by the names of its fields. -/
inductive Comp where
  | pending | part | stage | regs | eff | cap | sealAt | fp | stns | ptns | migs | locs | spillNext | spillFreed | tierHeld | movs | xlate | pool | mer
  | plat | tens | cdus | book | fhps | fhqs | flows | flowSeq | trv | hlt | mon | pwr | hostMem | bme | msixOff
  | msixHeld | emitted | fresh
deriving DecidableEq, Repr

/-- One of two values: the first where the list holds the component. -/
def pick {α : Type} (l : List Comp) (c : Comp) (a b : α) : α := if l.contains c then a else b

/-- A state with the listed components set aside: each of them is that of the reset state. -/
def blank (l : List Comp) (s : State) : State :=
  { pending := pick l .pending State.reset.pending s.pending,
    part := pick l .part State.reset.part s.part,
    stage := pick l .stage State.reset.stage s.stage,
    regs := pick l .regs State.reset.regs s.regs,
    eff := pick l .eff State.reset.eff s.eff,
    cap := pick l .cap State.reset.cap s.cap,
    sealAt := pick l .sealAt State.reset.sealAt s.sealAt,
    fp := pick l .fp State.reset.fp s.fp,
    stns := pick l .stns State.reset.stns s.stns,
    ptns := pick l .ptns State.reset.ptns s.ptns,
    migs := pick l .migs State.reset.migs s.migs,
    locs := pick l .locs State.reset.locs s.locs,
    spillNext := pick l .spillNext State.reset.spillNext s.spillNext,
    spillFreed := pick l .spillFreed State.reset.spillFreed s.spillFreed,
    tierHeld := pick l .tierHeld State.reset.tierHeld s.tierHeld,
    movs := pick l .movs State.reset.movs s.movs,
    xlate := pick l .xlate State.reset.xlate s.xlate,
    pool := pick l .pool State.reset.pool s.pool,
    mer := pick l .mer State.reset.mer s.mer,
    plat := pick l .plat State.reset.plat s.plat,
    tens := pick l .tens State.reset.tens s.tens,
    cdus := pick l .cdus State.reset.cdus s.cdus,
    book := pick l .book State.reset.book s.book,
    fhps := pick l .fhps State.reset.fhps s.fhps,
    fhqs := pick l .fhqs State.reset.fhqs s.fhqs,
    flows := pick l .flows State.reset.flows s.flows,
    flowSeq := pick l .flowSeq State.reset.flowSeq s.flowSeq,
    trv := pick l .trv State.reset.trv s.trv,
    hlt := pick l .hlt State.reset.hlt s.hlt,
    mon := pick l .mon State.reset.mon s.mon,
    pwr := pick l .pwr State.reset.pwr s.pwr,
    hostMem := pick l .hostMem State.reset.hostMem s.hostMem,
    bme := pick l .bme State.reset.bme s.bme,
    msixOff := pick l .msixOff State.reset.msixOff s.msixOff,
    msixHeld := pick l .msixHeld State.reset.msixHeld s.msixHeld,
    emitted := pick l .emitted State.reset.emitted s.emitted,
    fresh := pick l .fresh State.reset.fresh s.fresh }

/-- Two states agree on every component but the listed ones. -/
def Keeps (l : List Comp) (s t : State) : Prop := blank l t = blank l s

/-- The components of the state that a command may change: its footprint. Neither the queue nor the part is in any of them. -/
def footprint : Instr → List Comp
  | .registerWrite _ _ _ _ =>
    [.stage, .regs, .eff, .cap, .sealAt, .fp, .stns, .ptns, .migs, .locs, .spillNext, .spillFreed, .tierHeld, .movs,
    .xlate, .pool, .mer, .plat, .tens, .cdus, .book, .fhps, .fhqs, .flows, .flowSeq, .trv, .hlt, .mon, .pwr,
    .hostMem, .bme, .msixOff, .msixHeld, .emitted, .fresh]
  | .seal _ _ _ | .expertEnWrite _ _ _ | .sealCommit _ =>
    [.regs, .eff, .sealAt, .ptns, .migs, .locs, .spillFreed, .pool, .plat, .tens, .book, .hostMem, .msixHeld,
    .emitted]
  | .quiesceRequest _ _ | .quiesceClear _ _ =>
    [.regs, .fp, .stns, .ptns, .migs, .locs, .spillFreed, .tierHeld, .movs, .pool, .plat, .tens, .cdus, .trv, .hlt,
    .hostMem, .msixHeld, .emitted, .fresh]
  | .quiesceComplete _ =>
    [.regs, .eff, .sealAt, .ptns, .migs, .locs, .spillFreed, .pool, .plat, .tens, .book, .hlt, .hostMem, .msixHeld,
    .emitted]
  | .ownerWrite _ _ _ =>
    [.regs, .eff, .cap, .sealAt, .fp, .stns, .ptns, .movs, .pool, .mer, .plat, .tens, .cdus, .fhqs, .trv, .hostMem,
    .msixHeld, .emitted, .fresh]
  | .coldDeviceReset _ _ | .pwrokDeassert =>
    [.stage, .regs, .eff, .cap, .sealAt, .fp, .stns, .ptns, .migs, .locs, .spillNext, .spillFreed, .tierHeld, .movs,
    .xlate, .pool, .mer, .plat, .tens, .cdus, .book, .fhps, .fhqs, .flows, .flowSeq, .trv, .hlt, .mon, .pwr, .bme,
    .msixOff, .msixHeld, .emitted]
  | .trainingComplete _ _ _ _ =>
    [.stage, .regs, .fp, .hlt, .mon, .msixHeld, .emitted]
  | .configRequest _ =>
    [.regs, .emitted]
  | .linkRetrain _ _ | .lookup _ _ | .tileQuery _ _ _ | .tirTileQuery _ | .nowNsfRead _ | .ppsInEdge |
    .stakeQuery _ _ | .plSetWrite _ _ | .renew _ _ | .counterWrite _ _ _ _ | .partitionFreed _ | .sqDoorbell _ _ _ _
    | .drainComplete =>
    [.regs, .msixHeld, .emitted]
  | .stationReset _ | .clusterReset _ _ | .partitionReset _ =>
    [.regs, .eff, .sealAt, .fp, .stns, .ptns, .migs, .locs, .spillFreed, .movs, .pool, .mer, .plat, .tens, .cdus,
    .book, .trv, .hlt, .mon, .hostMem, .msixHeld, .emitted, .fresh]
  | .warmDeviceReset _ | .monumentWatchdog | .debugEraseComplete =>
    [.stage, .regs, .eff, .cap, .sealAt, .stns, .ptns, .migs, .locs, .spillFreed, .tierHeld, .movs, .xlate, .pool,
    .mer, .plat, .tens, .cdus, .book, .fhps, .fhqs, .flows, .flowSeq, .trv, .hlt, .mon, .pwr, .hostMem, .bme,
    .msixOff, .msixHeld, .emitted, .fresh]
  | .warmResetComplete =>
    [.stage, .regs, .fp, .stns, .ptns, .migs, .locs, .spillFreed, .movs, .pool, .plat, .tens, .cdus, .book, .hlt,
    .mon, .hostMem, .msixHeld, .emitted, .fresh]
  | .sequencerWatchdog _ | .arraySelfCheck _ _ | .ldw _ | .mma _ | .rqoStart _ | .rqoComplete _ |
    .migrationCommit _ _ | .patrolScrub _ | .moverAccept _ | .cplReserveRetry _ | .prd _ _ | .pwr _ _ | .sld _ _ |
    .sst _ _ | .vld _ _ | .ldpcDecode _ | .ldpcEncode _ | .polarDecode _ | .polarEncode _ | .fixedLinkTransmit _ |
    .fixedLinkReceive _ | .fbRead _ | .fbWrite _ | .harqReset _ | .recoveryEnd _ =>
    [.regs, .fp, .stns, .ptns, .migs, .locs, .spillFreed, .movs, .pool, .plat, .tens, .cdus, .book, .hostMem,
    .msixHeld, .emitted, .fresh]
  | .lockLossTimeout _ | .injectCorrectable _ _ | .injectUncorrectable _ _ | .injectCondemn _ _ |
    .injectLockLoss _ _ =>
    [.regs, .fp, .stns, .ptns, .migs, .locs, .spillFreed, .movs, .pool, .plat, .tens, .cdus, .book, .fhps, .trv,
    .hostMem, .msixHeld, .emitted, .fresh]
  | .stationJobStart _ =>
    [.regs, .stns, .pool, .plat, .msixHeld, .emitted]
  | .nop _ | .seti _ | .addi _ | .loop _ | .jmp _ | .rqo _ | .waitt _ | .relt _ | .fence _ | .stnEnd _ |
    .lentJobStart _ =>
    [.stns]
  | .post _ =>
    [.regs, .stns, .pool, .tens, .msixHeld, .emitted, .fresh]
  | .stationJobComplete _ =>
    [.regs, .stns, .ptns, .pool, .plat, .tens, .hostMem, .msixHeld, .emitted, .fresh]
  | .stationSave _ =>
    [.regs, .stns, .ptns, .pool, .plat, .tens, .hostMem, .msixHeld, .emitted]
  | .lendResZeroingDone _ | .stationStoreZeroed _ | .inboundRequest _ _ _ _ | .inboundAtomic _ _ _ _ |
    .replyArrival _ _ _ =>
    [.regs, .fp, .stns, .ptns, .migs, .locs, .spillFreed, .movs, .pool, .plat, .tens, .cdus, .book, .trv, .hostMem,
    .msixHeld, .emitted, .fresh]
  | .instructionMemoryWrite _ _ _ _ | .carryComplete _ =>
    [.regs, .stns, .msixHeld, .emitted]
  | .statClr _ _ =>
    [.regs, .stns, .msixHeld, .emitted, .fresh]
  | .bindGo _ _ | .descriptorComplete _ | .fltCmdResume _ _ | .fltCmdAbort _ _ | .faultTimeout _ =>
    [.regs, .stns, .ptns, .movs, .pool, .plat, .tens, .hostMem, .msixHeld, .emitted, .fresh]
  | .bar2Access _ _ _ | .managerWindowAccess _ _ =>
    [.regs, .fp, .stns, .ptns, .migs, .locs, .spillFreed, .tierHeld, .movs, .pool, .plat, .tens, .cdus, .book,
    .hostMem, .msixHeld, .emitted, .fresh]
  | .ageBoundary =>
    [.ptns]
  | .migrationSourceFreed _ _ =>
    [.ptns, .migs, .locs, .spillFreed]
  | .locationZeroed _ _ =>
    [.regs, .fp, .stns, .ptns, .migs, .locs, .spillNext, .spillFreed, .tierHeld, .movs, .pool, .plat, .tens, .cdus,
    .book, .trv, .hostMem, .msixHeld, .emitted, .fresh]
  | .pinComplete _ _ | .tokenRefill | .depthSample =>
    [.regs]
  | .freeGo _ _ =>
    [.regs, .ptns, .migs, .locs, .spillFreed, .msixHeld, .emitted]
  | .copy _ _ | .skew _ _ | .xpose _ _ =>
    [.regs, .fp, .stns, .ptns, .migs, .locs, .spillFreed, .movs, .xlate, .pool, .plat, .tens, .cdus, .book,
    .hostMem, .msixHeld, .emitted, .fresh]
  | .invGo _ _ =>
    [.regs, .movs, .xlate, .msixHeld, .emitted]
  | .invalidationDone _ =>
    [.regs, .movs, .msixHeld, .emitted]
  | .reserve _ _ _ _ =>
    [.regs, .pool, .msixHeld, .emitted, .fresh]
  | .commit _ _ _ _ | .cellsFreed _ | .tenNop _ _ | .tenSeti _ _ | .seth _ _ | .tenAddi _ _ | .alu _ _ | .rdt _ _ |
    .br _ _ | .brz _ _ | .brnz _ _ | .rep _ _ | .sqh _ _ | .stc _ _ | .setiv _ _ | .rdi _ _ | .rti _ _ | .tenEnd _ _
    | .vst _ _ | .vmv _ _ | .vpk _ _ | .vmac _ _ | .vmacb _ _ | .vada _ _ | .interruptEntry _ | .abortPending _ _ |
    .parcel _ _ _ | .sqNop _ _ | .confirmReadDone _ _ =>
    [.regs, .ptns, .pool, .plat, .tens, .hostMem, .msixHeld, .emitted, .fresh]
  | .read _ _ | .mark _ _ | .clear _ _ | .dataWindowAccess _ _ _ _ =>
    [.regs, .pool, .msixHeld, .emitted]
  | .rewind _ _ =>
    [.regs, .pool, .tens, .msixHeld, .emitted]
  | .release _ _ | .releaseH _ _ _ =>
    [.regs, .ptns, .pool, .hostMem, .msixHeld, .emitted]
  | .waitLimitExpiry _ =>
    [.pool]
  | .abort _ _ =>
    [.regs, .ptns, .movs, .pool, .plat, .hostMem, .msixHeld, .emitted]
  | .queueEnable _ _ _ =>
    [.regs, .ptns, .movs, .pool, .plat, .tens, .hostMem, .msixHeld, .emitted]
  | .sourceLost | .relock | .stepGo _ | .rateWrite _ _ | .adjWrite _ _ | .tdr _ | .tsqPop _ | .arm _ _ | .disarm _ _ =>
    [.regs, .mer, .msixHeld, .emitted]
  | .ppsOutPulse =>
    [.mer, .emitted]
  | .triggerConversion _ | .peerDown _ _ | .leaseFence | .barrierArrive _ _ _ | .barrierReleaseReceive _ _ _ |
    .barrierTimeout _ =>
    [.regs, .ptns, .pool, .mer, .plat, .tens, .trv, .hostMem, .msixHeld, .emitted, .fresh]
  | .triggerFire _ =>
    [.regs, .eff, .cap, .sealAt, .stns, .movs, .mer, .plat, .fhps, .trv, .pwr, .msixHeld, .emitted, .fresh]
  | .rowBoundary =>
    [.regs, .eff, .sealAt, .stns, .movs, .plat, .pwr, .msixHeld, .emitted, .fresh]
  | .grantDispatch _ =>
    [.regs, .stns, .ptns, .pool, .plat, .tens, .cdus, .hostMem, .msixHeld, .emitted, .fresh]
  | .grantOverrun _ =>
    [.regs, .stns, .ptns, .pool, .plat, .tens, .cdus, .book, .hostMem, .msixHeld, .emitted, .fresh]
  | .platStopped =>
    [.regs, .eff, .sealAt, .stns, .plat, .pwr, .msixHeld, .emitted]
  | .patternImageWrite _ _ _ _ | .patternCommit _ _ | .uncommit _ _ | .stop _ | .trimArm _ _ =>
    [.regs, .plat, .msixHeld, .emitted]
  | .commitValidation =>
    [.regs, .plat, .hlt, .msixHeld, .emitted]
  | .headroomPublish =>
    [.regs, .plat, .fresh]
  | .governorDecision _ _ =>
    [.regs, .pwr, .emitted, .fresh]
  | .pwrbrk =>
    [.pwr, .emitted]
  | .tCrit _ =>
    [.regs, .pwr, .emitted]
  | .thermtrip _ =>
    [.stage, .regs, .pwr, .emitted]
  | .warn _ | .tick _ | .engineZeroingDone _ =>
    [.tens]
  | .programWindowWrite _ _ _ _ =>
    [.regs, .tens, .msixHeld, .emitted]
  | .codingJobStart _ | .codingJobDone _ =>
    [.regs, .ptns, .pool, .plat, .tens, .cdus, .book, .hostMem, .msixHeld, .emitted, .fresh]
  | .frameReceive _ _ =>
    [.regs, .pool, .tens, .fhps, .flowSeq, .msixHeld, .emitted, .fresh]
  | .portSelection _ =>
    [.regs, .ptns, .pool, .mer, .fhps, .fhqs, .hostMem, .msixHeld, .emitted, .fresh]
  | .lateDrop _ =>
    [.regs, .ptns, .pool, .hostMem, .emitted]
  | .windowClose _ =>
    [.fhps]
  | .ruTimeout _ _ | .discEventRetry _ =>
    [.regs, .pool, .tens, .fhps, .msixHeld, .emitted, .fresh]
  | .linkDown _ =>
    [.regs, .pool, .tens, .fhps, .trv, .msixHeld, .emitted, .fresh]
  | .linkUp _ =>
    [.regs, .fhps, .trv, .msixHeld, .emitted]
  | .discEntryClear _ _ _ =>
    [.regs, .fhps, .msixHeld, .emitted]
  | .grant _ _ _ _ | .jobBind _ _ _ _ =>
    [.regs, .trv, .msixHeld, .emitted]
  | .peerUp _ _ _ | .peerEventRetry | .witnessPacket _ _ _ | .witnessClose _ _ _ | .watchRetry _ _ =>
    [.regs, .pool, .tens, .trv, .msixHeld, .emitted, .fresh]
  | .tearDown _ _ _ =>
    [.regs, .eff, .ptns, .movs, .pool, .mer, .plat, .tens, .trv, .hostMem, .msixHeld, .emitted, .fresh]
  | .load _ | .store _ | .flag _ | .atomic _ | .merge _ | .put _ | .get _ | .barrier _ | .retryTimeout _ =>
    [.regs, .fp, .stns, .ptns, .migs, .locs, .spillFreed, .movs, .pool, .mer, .plat, .tens, .cdus, .book, .trv,
    .hostMem, .msixHeld, .emitted, .fresh]
  | .replayEntryExpiry _ _ _ | .barrierEpochDiscard _ _ =>
    [.trv]
  | .barrierRelease _ =>
    [.regs, .ptns, .pool, .plat, .tens, .trv, .hostMem, .msixHeld, .emitted, .fresh]
  | .create _ _ _ =>
    [.regs, .eff, .cap, .sealAt, .ptns, .mon, .msixHeld, .emitted]
  | .destroy _ _ =>
    [.regs, .eff, .cap, .sealAt, .fp, .stns, .ptns, .migs, .locs, .spillFreed, .tierHeld, .movs, .pool, .mer, .plat,
    .tens, .cdus, .book, .fhqs, .trv, .hostMem, .msixHeld, .emitted, .fresh]
  | .cqHeadWrite _ _ _ _ =>
    [.regs, .ptns, .msixHeld, .emitted]
  | .sqFetch _ _ _ =>
    [.regs, .ptns, .hostMem, .msixHeld, .emitted]
  | .cqEntryWrite _ _ =>
    [.regs, .ptns, .plat, .hostMem, .msixHeld, .emitted]
  | .functionLevelReset _ =>
    [.regs, .eff, .ptns, .pool, .plat, .tens, .hostMem, .bme, .msixOff, .msixHeld, .emitted, .fresh]
  | .busMasterEnable _ _ =>
    [.hostMem, .bme, .msixOff, .msixHeld, .emitted]
  | .cplTimeout _ =>
    [.regs, .stns, .ptns, .migs, .locs, .spillFreed, .movs, .pool, .plat, .tens, .hostMem, .msixHeld, .emitted,
    .fresh]
  | .healthWindowClose | .injReq _ _ _ =>
    [.regs, .hlt, .msixHeld, .emitted]
  | .drain _ | .undrain _ | .attestGo _ _ =>
    [.regs, .mon, .msixHeld, .emitted]
  | .expel _ =>
    [.regs, .ptns, .pool, .mer, .plat, .tens, .trv, .mon, .hostMem, .msixHeld, .emitted, .fresh]
  | .injConsentExpiry =>
    [.regs, .hlt]
  | .attestReport _ =>
    [.regs, .pool, .tens, .mon, .msixHeld, .emitted, .fresh]
  | .anchorSet _ _ _ | .injPolicy _ | .dbgChallenge | .firmwareUpdate _ _ _ | .challenge _ _ | .setEndpointId _ =>
    [.mon, .emitted]
  | .challengeExpiry =>
    [.mon]
  | .dbgUnlock _ =>
    [.stage, .regs, .eff, .cap, .sealAt, .stns, .ptns, .migs, .tierHeld, .movs, .xlate, .pool, .mer, .plat, .tens,
    .cdus, .book, .fhps, .fhqs, .flows, .flowSeq, .trv, .hlt, .mon, .pwr, .hostMem, .msixHeld, .emitted, .fresh]
  | .getCertificate _ _ _ | .getMeasurements _ =>
    [.emitted]
  | .perstDeassert | .pwrbrkDeassert =>
    [.pwr]
  | .tCritRelease _ =>
    [.regs, .pwr]

end Sys2Proof.Machine
end

