-- ==== Sys2Proof/Certificates/Slice0/Obligations.lean ====
section
/-! DEFINITION. The statements. Each says, for the rules that its row of OBLIGATIONS.json cites, which next state a command
answers where its own effect runs, or what no command may change. -/

open Sys2Proof Sys2Proof.Machine

/-! ### The machine as a whole -/

/-- A step takes the command at the front of the queue and runs it with the rest of the queue. The model's own choices, no rule of
the spec: log entry 14. -/
def Obligations.StepRunsFront : Prop :=
  ∀ (c : Instr) (rest : List Instr) (s : State), step { s with pending := c :: rest } = exec c { s with pending := rest }

/-- Every page's 4 KiB of the address map belong to that page and to no other; no two fields of the register map share a bit, so a
write of one field leaves every other as it reads. -/
def Obligations.RegisterMap : Prop :=
  ((∀ (p : Page) (o : Nat), (p.ok = true ∨ p = .pwr) → o < 0x1000 → pageOf (pageBase p + o) = some p)
  ∧ (∀ (a : Nat) (p : Page), pageOf a = some p → (p.ok = true ∨ p = .pwr) ∧ pageBase p ≤ a ∧ a < pageBase p + 0x1000))
  ∧ (∀ (p q : Page) (f g : Fld), (p.ok = true ∨ p = .pwr) → (q.ok = true ∨ q = .pwr) →
    f ∈ expand (pageTable p) → g ∈ expand (pageTable q) → (p, f) ≠ (q, g) →
    (fldKey p f + f.w ≤ fldKey q g ∨ fldKey q g + g.w ≤ fldKey p f)
    ∧ ∀ (s : State) (v : Nat), rd (wr s p f v) q g = rd s q g ∧ rd (wr s p f v) p f = v % 2 ^ f.w)

/-- The frame of every command: components of the state outside its footprint stay as they were, the queue and the part among
them. The model's own choices, no rule of the spec: log entry 5. -/
def Obligations.EveryCommandFrame : Prop :=
  ∀ (i : Instr) (s t : State), exec i s = .next t → Keeps (footprint i) s t ∧ t.pending = s.pending ∧ t.part = s.part

/-- While a thermal trip has stopped the part, a command of a stopped clock changes nothing (R608), and the trip is left only
through a cold device reset (R543). The model's own choices, no rule of the spec: log entry 80. -/
def Obligations.TrippedHolds : Prop :=
  ∀ (i : Instr) (s t : State), s.stage = .tripped → exec i s = .next t →
    (runsTripped i = false → t = s)
    ∧ (t.stage = .tripped ∨ (∃ c e, i = .coldDeviceReset c e) ∨ i = .pwrokDeassert)

/-- The security version in the fuses, the last sequence number taken from the fault manager and the boot count never fall. -/
def NonvolatileAtLeast (a b c : Nat) (s : State) : Prop :=
  a ≤ s.mon.svnFused ∧ b ≤ s.mon.lastFmSeq ∧ c ≤ s.mon.bootCount

/-- An invariant that every step keeps: what the nonvolatile store has reached, it never goes back on. The model's own choices, no
rule of the spec: log entries 94, 119. -/
def Obligations.NonvolatileNeverFalls : Prop :=
  ∀ (a b c : Nat) (s t : State), c ≤ 0xFFFF → NonvolatileAtLeast a b c s → step s = .next t → NonvolatileAtLeast a b c t

/-- The walker's caches: only valid entries, of levels 0 to 3, and no more of a kind in a section than its cache holds. -/
def CachesInv (s : State) : Prop :=
  (∀ x ∈ s.xlate, bitAt x.entry 0 = true ∧ x.level ≤ 3)
  ∧ (∀ sec : Nat, (s.xlate.filter (fun x => decide (x.sec = sec) && x.leaf)).length ≤ 4096)
  ∧ (∀ sec : Nat, (s.xlate.filter (fun x => decide (x.sec = sec) && !x.leaf)).length ≤ 512)

/-- An invariant that every step keeps: R229's bounds of the walkers' caches, and that no entry whose V is clear is in one. The
model's own choices, no rule of the spec: log entry 104. -/
def Obligations.TranslationCachesKept : Prop :=
  ∀ s t : State, CachesInv s → step s = .next t → CachesInv t

/-- What reset leaves: R53, and the model's own choices for what the spec leaves open (log entries of the fields); and the two
invariants below hold of it. The model's own choices, no rule of the spec: log entries 6, 11, 12, 15. -/
def Obligations.ResetState : Prop :=
  ((∀ p f, rd State.reset p f = fldReset State.reset.part p f)
  ∧ (∀ p : Page, p ≠ .mon → p ≠ .hlt → p ≠ .pwr → rd State.reset p F.QUIESCE_REQ = 1 ∧ rd State.reset p F.QUIESCED = 1)
  ∧ (∀ p : Page, assignable p = true → rd State.reset p F.OWNER = 0xFF)
  ∧ State.reset.pending = [] ∧ State.reset.hostMem = [] ∧ State.reset.stage = .training
  ∧ memoriesWf State.reset = true)
  ∧ (CachesInv State.reset ∧ NonvolatileAtLeast 0 0 0 State.reset)

/-! ### Register pages (R47 to R79) -/

/-- Pages whose registers do nothing beside storing their fields. -/
def plainPage : Page → Bool
  | .cdp | .cdu _ | .ten _ | .fhq _ | .fhg | .trc _ | .trg | .pool | .dst _ | .hbc _ | .bpr _ => true
  | _ => false

/-- A write of one 4-byte register that holds one field, on a page that stores its fields only: what it does by the field's class
(R57), by the side that writes it (R77) and by the seal of its group (R69); a virtual function writes through its slot map (R49).
The model's own choices, no rule of the spec: log entries 91, 92. -/
def Obligations.RegisterWriteByClass : Prop :=
  ∀ (f : Func) (p : Page) (a off v : Nat) (fl : Fld) (s : State),
    f.ok = true → p.ok = true → plainPage p = true → barAddr s f a = some (pageBase p + off) →
    off % 4 = 0 → 0x40 ≤ off → off < 0x800 →
    wideReg p off = false → (off % 8 = 4 → wideReg p (off - 4) = false) → regFields p off = [fl] → fl.lo = 0 → fl.w ≤ 32 →
    reach s f p = true → unitDown s p = false →
    (fl.cls = .ro → exec (.registerWrite f a 4 (some v)) s = .next s)
    ∧ (fl.cls ≠ .ro → sideOk f fl.who = false →
        exec (.registerWrite f a 4 (some v)) s = .next (if v % 2 ^ fl.w = rd s p fl then s else setErr s p 2))
    ∧ (sideOk f fl.who = true →
        (fl.cls = .d → exec (.registerWrite f a 4 (some v)) s = .next (levelsRise s (wr s p fl v) p))
        ∧ (fl.cls = .s → quiesced s p = true → exec (.registerWrite f a 4 (some v)) s = .next (levelsRise s (wr s p fl v) p))
        ∧ (fl.cls = .s → quiesced s p = false →
            exec (.registerWrite f a 4 (some v)) s = .next (if v % 2 ^ fl.w = rd s p fl then s else setErr s p 0))
        ∧ (fl.cls = .h → bitAt (rd s p F.SEAL) fl.grp = false →
            exec (.registerWrite f a 4 (some v)) s = .next (levelsRise s (wr s p fl v) p)
            ∧ ∀ g, rdApplied (levelsRise s (wr s p fl v) p) p g = rdApplied s p g)
        ∧ (fl.cls = .h → bitAt (rd s p F.SEAL) fl.grp = true →
            exec (.registerWrite f a 4 (some v)) s = .next (if v % 2 ^ fl.w = rd s p fl then s else setErr s p 5)))

/-- A refused SEAL keeps both the shadows and the values in effect, and it sets SEAL_REFUSED; a SEAL write of 0 is ignored, and
SEAL_STATUS is unchanged (R68). -/
def Obligations.SealRefused : Prop :=
  (∀ (f : Func) (p : Page) (m : Nat) (s : State), (Instr.seal f p m).wf = true → m % 65536 = 0 → reach s f p = true →
    exec (.seal f p m) s = .next s)
  ∧ (∀ (f : Func) (p : Page) (m : Nat) (s : State), (Instr.seal f p m).wf = true → 0 < m → m < 65536 → reach s f p = true →
    unitDown s p = false →
    (∃ g, g < 16 ∧ bitAt m g = true ∧ (bitAt (capsGroups p) g = false ∨ bitAt (rd s p F.SEAL) g = true))
      ∨ (f ≠ .pf ∧ namesManagerField p m = true) ∨ failedCheck s p m ≠ 0 →
    Completes (.seal f p m) s (fun t => bitAt (rd t p F.ERR_STATUS) 1 = true ∧ rd t p F.SEAL = rd s p F.SEAL ∧ t.eff = s.eff
      ∧ ∀ fl ∈ pageTable p, fl.cls = .h → ∀ k, k < fl.count →
        rd t p (fl.ix k) = rd s p (fl.ix k) ∧ rdApplied t p (fl.ix k) = rdApplied s p (fl.ix k)))

/-- SEAL and EXPERT_EN_WRITE: the groups are armed together and nothing in effect changes before the commit point; a refused SEAL
arms none (R67). A write of EXPERT_EN that changes it is stored and acts as a SEAL of group X alone (R73). SEAL_COMMIT: at the
commit point the shadows of every armed group take effect together, no group stays armed, and SEAL_APPLIED is set; a field of a
group that is not armed keeps its value in effect (R66). The model's own choices, no rule of the spec: log entries 81, 82, 83. -/
def Obligations.SealCommands : Prop :=
  ((∀ (f : Func) (p : Page) (m : Nat) (s : State), (Instr.seal f p m).wf = true → reach s f p = true → unitDown s p = false →
    0 < m → m < 65536 → (∀ g, g < 16 → bitAt m g = true → bitAt (capsGroups p) g = true ∧ bitAt (rd s p F.SEAL) g = false) →
    (f = .pf ∨ namesManagerField p m = false) → failedCheck s p m = 0 → commitsNow s p = false →
    Completes (.seal f p m) s (fun t => t = armGroups s p m ∧ rd t p F.SEAL_GROUPS = m ∧ rd t p F.SEAL_RESULT = 1
      ∧ t.eff = s.eff ∧ ∀ g, g < 16 → bitAt (rd t p F.SEAL) g = (bitAt (rd s p F.SEAL) g || bitAt m g)))
  ∧ (∀ (f : Func) (p : Page) (m : Nat) (s : State), (Instr.seal f p m).wf = true → reach s f p = true → unitDown s p = false →
    0 < m → m < 65536 → (∃ g, g < 16 ∧ bitAt m g = true ∧ bitAt (capsGroups p) g = false) →
    Completes (.seal f p m) s (fun t => t = refuseSeal s p m 4 0 ∧ rd t p F.SEAL_RESULT = 4 ∧ rd t p F.SEAL = rd s p F.SEAL
      ∧ t.eff = s.eff))
  ∧ (∀ (f : Func) (p : Page) (v : Bool) (s : State), (Instr.expertEnWrite f p v).wf = true → reach s f p = true →
    unitDown s p = false → bitAt (rd s p F.SEAL) 15 = false →
    (ofBool v = rdApplied s p F.EXPERT_EN → exec (.expertEnWrite f p v) s = .next s)
    ∧ (ofBool v ≠ rdApplied s p F.EXPERT_EN →
        exec (.expertEnWrite f p v) s = .next (sealGroups (wr s p F.EXPERT_EN (ofBool v)) f p 0x8000))))
  ∧ (∀ (p : Page) (s : State), p.ok = true → s.stage ≠ .tripped → atCommit s p = true → (∀ n, p ≠ .ptn n) →
    rd s p F.SEAL % 65536 ≠ 0 →
    Completes (.sealCommit p) s (fun t =>
      (∀ f ∈ groupFields p (rd s p F.SEAL), ∀ k, k < f.count → rdApplied t p (f.ix k) = rd s p (f.ix k) % 2 ^ f.w)
      ∧ (∀ f ∈ pageTable p, f ∉ groupFields p (rd s p F.SEAL) → ∀ k, k < f.count → rdApplied t p (f.ix k) = rdApplied s p (f.ix k))
      ∧ rd t p F.SEAL = 0 ∧ bitAt (rd t p F.EVT_STATUS) 0 = true))

/-- QUIESCE_REQUEST, QUIESCE_COMPLETE and QUIESCE_CLEAR on a page that has no work of its own to save (R74), and OWNER_WRITE: the
page's fields return to their reset values, in the shadow and in effect, with QUIESCE_REQ set (R79). The model's own choices, no
rule of the spec: log entries 86, 89, 90. -/
def Obligations.QuiesceAndOwner : Prop :=
  (∀ (p : Page) (s : State), p.ok = true → plainPage p = true → reach s .pf p = true →
    unitDown s p = false → rd s p F.QUIESCE_REQ = 0 → quiesceRefused s p = false →
    exec (.quiesceRequest .pf p) s = .next (stopBlock (wr s p F.QUIESCE_REQ 1) p)
    ∧ ((∀ m, p ≠ .bpr m) → (∀ c, p ≠ .trc c) → (∀ j, p ≠ .fhq j) → p ≠ .cdp → p ≠ .trg →
        exec (.quiesceRequest .pf p) s = .next (wr s p F.QUIESCE_REQ 1)))
  ∧ (∀ (p : Page) (s : State), p.ok = true → plainPage p = true → (∀ m, p ≠ .bpr m) → (∀ c, p ≠ .trc c) → reach s .pf p = true →
    unitDown s p = false → rd s p F.QUIESCE_REQ = 0 → quiesceRefused s p = true →
    exec (.quiesceRequest .pf p) s = .next (setErr s p 6))
  ∧ (∀ (p : Page) (s : State), p.ok = true → (∀ n, p ≠ .stn n) → (∀ m, p ≠ .bpr m) → (∀ n, p ≠ .ptn n) → s.stage ≠ .tripped →
    unitDown s p = false → heldQuiesced s p = true → drained s p = true → rd s p F.QUIESCED = 0 → rd s p F.SEAL = 0 →
    s.hlt.resetWait = [] →
    exec (.quiesceComplete p) s = .next (setEvt (wr s p F.QUIESCED 1) p 1))
  ∧ (∀ (p : Page) (s : State), p.ok = true → plainPage p = true → (∀ m, p ≠ .bpr m) → reach s .pf p = true →
    unitDown s p = false → rd s p F.QUIESCE_REQ = 1 → heldQuiesced (wr s p F.QUIESCE_REQ 0) p = false → s.hlt.resetWait = [] →
    exec (.quiesceClear .pf p) s = .next (leaveQuiesced (wr s p F.QUIESCE_REQ 0) p))
  ∧ (∀ (p : Page) (v : Nat) (s : State), p.ok = true → assignable p = true → v < 64 ∨ v = 0xFF → v ≠ rd s p F.OWNER →
    reach s .pf p = true → quiesced s p = true → slotBound s p = false → poolFull s p v = false →
    Completes (.ownerWrite .pf p v) s (fun t => rd t p F.OWNER = v ∧ rd t p F.QUIESCE_REQ = 1 ∧ rd t p F.QUIESCED = 1
      ∧ (∀ f, f ∈ blockTable p ∨ f ∈ [F.ERR_STATUS, F.ERR_ENABLE, F.EVT_STATUS, F.EVT_ENABLE, F.EXPERT_EN, F.SEAL] →
          ∀ k, k < f.count → rd t p (f.ix k) = fldReset s.part p (f.ix k) ∧ rdApplied t p (f.ix k) = fldReset s.part p (f.ix k))))

/-! ### Resets, readiness and condemnation (R31, R40, R541 to R553, R575, R606) -/

/-- COLD_DEVICE_RESET and PWROK_DEASSERT: nothing of the device is kept but what is nonvolatile (R549, R551, R565, R606), the
cause is recorded, the core rails take the fused voltage of the rated clock (R605), and the boot reaches training, or RECOVERY
where neither flash slot passes (R575). PERST_DEASSERT. The model's own choices, no rule of the spec: log entries 94, 114, 115. -/
def Obligations.ColdResets : Prop :=
  (∀ (cause : Nat) (env : BootEnv) (s : State), (cause = 0 ∧ resetOpen s = true) ∨ cause = 3 ∨ cause = 4 ∨ cause = 5 →
    Completes (.coldDeviceReset cause env) s (fun t =>
      rd t .hlt F.hlt_LAST_RESET = 5 ∧ rd t .hlt F.hlt_LAST_CAUSE = cause
      ∧ t.stage = (if slotPasses s env 0 || slotPasses s env 1 then .training else .recovery)
      ∧ t.mon.bootCount = satTo 0xFFFF (s.mon.bootCount + 1) ∧ t.mon.lastFmSeq = s.mon.lastFmSeq
      ∧ t.mon.svnFused = s.mon.svnFused ∧ t.mon.anchors = s.mon.anchors ∧ t.mon.injPolicy = s.mon.injPolicy
      ∧ t.stns = [] ∧ t.ptns = [] ∧ t.movs = [] ∧ t.pool = Pool.empty ∧ t.tens = [] ∧ t.cdus = [] ∧ t.trv = Traverse.reset
      ∧ t.hostMem = s.hostMem ∧ t.emitted = s.emitted ++ (List.range 5).map (fun k => .avs k (railVoltage k 0))
      ∧ t.pwr.pwrok = (s.pwr.pwrok || cause == 3) ∧ t.pwr.perst = (s.pwr.perst || cause == 4)))
  ∧ (∀ s : State, Completes .pwrokDeassert s (fun t =>
      rd t .hlt F.hlt_LAST_RESET = 5 ∧ rd t .hlt F.hlt_LAST_CAUSE = 3 ∧ t.pwr.pwrok = false ∧ t.stage = .training
      ∧ t.fp.fdr = s.fp.fdr ∧ t.mon.lastFmSeq = s.mon.lastFmSeq ∧ t.mon.svnFused = s.mon.svnFused
      ∧ t.stns = [] ∧ t.ptns = [] ∧ t.pool = Pool.empty ∧ 
      t.emitted = s.emitted ++ (List.range 5).map (fun k => .avs k (railVoltage k 0)) ++ [.pin "RAIL_GROUPS_2_TO_5" false]))
  ∧ (∀ s : State, exec .perstDeassert s = .next { s with pwr := { s.pwr with perst := false } })

/-- The state in which a RESET_GO runs: RESET_LEVEL and RESET_TARGET are stored (R545). -/
def askedReset (s : State) (level target : Nat) : State := wr (wr s .hlt F.hlt_RESET_LEVEL level) .hlt F.hlt_RESET_TARGET target

/-- What RESET_RESULT shows of a reset made of some partitions: 3, busy, while replies of their traverse channels are awaited,
else 0 (R545, R549). -/
def resetShown (s : State) (ps : List Nat) : Nat := if ps.any (resetPends s) then 3 else 0

/-- STATION_RESET, CLUSTER_RESET and PARTITION_RESET: where nothing refuses them they end with RESET_RESULT 0, or show busy while
replies of a partition's traverse channels are awaited, with the station or the partition left quiesced (R549, R550), each enabled
station of a cluster having begun its count of array instructions anew (R113); a target that does not exist, or names nothing, is
refused (R545). The model's own choices, no rule of the spec: log entries 94, 121, 126. -/
def Obligations.StationClusterPartitionReset : Prop :=
  (∀ (n : Nat) (s : State), resetOpen s = true → n < 144 → unitUp s n = true → pairJoined s n = false →
    unitUsed (askedReset s 1 n) n = false →
    (escalated (askedReset s 1 n) (stationPids (askedReset s 1 n) n)).any (partitionUsed (askedReset s 1 n)) = false →
    Completes (.stationReset n) s (fun t => rd t .hlt F.hlt_RESET_RESULT = resetShown t (escalated (askedReset s 1 n) (stationPids (askedReset s 1 n) n))
      ∧ rd t (.stn n) F.QUIESCED = 1
      ∧ rd t (.stn n) F.QUIESCE_REQ = 1))
  ∧ (∀ (n : Nat) (s : State), resetOpen s = true → 144 ≤ n → n < 256 →
    exec (.stationReset n) s = .next (resetResult (askedReset s 1 n) 2))
  ∧ (∀ (c : Nat) (s : State), resetOpen s = true → c < 24 → (∃ k, k < 6 ∧ unitUp s (6 * c + k) = true) →
    (∀ k, k < 6 → unitUsed (askedReset s 2 c) (6 * c + k) = false) →
    (escalated (askedReset s 2 c) (((List.range 6).map (fun k => 6 * c + k)).flatMap
      (stationPids (askedReset s 2 c)))).any (partitionUsed (askedReset s 2 c)) = false →
    Completes (.clusterReset c []) s (fun t => (rd t .hlt F.hlt_RESET_RESULT = 0 ∨ rd t .hlt F.hlt_RESET_RESULT = 3)
      ∧ ∀ k, k < 6 → unitUp s (6 * c + k) = true → (stn t (6 * c + k)).array = 0))
  ∧ (∀ (c : Nat) (l : List Nat) (s : State), resetOpen s = true → c < 24 → (∀ k, k < 6 → unitUp s (6 * c + k) = false) →
    exec (.clusterReset c l) s = .next (resetResult (askedReset s 2 c) 4))
  ∧ (∀ (p : Nat) (s : State), resetOpen s = true → p < 64 → pstate s p = 1 → partitionUsed (askedReset s 3 p) p = false →
    Completes (.partitionReset p) s (fun t => rd t .hlt F.hlt_RESET_RESULT = resetShown t [p]
      ∧ rd t .hlt F.hlt_RESET_BUSY = ofBool (resetPends t p) ∧ rd t .hlt F.hlt_ESCALATED = 0
      ∧ rd t (.ptn p) F.QUIESCED = 1 ∧ rd t (.ptn p) F.QUIESCE_REQ = 1 ∧ rd t (.ptn p) F.ptn_ATTEST_BUSY = 0
      ∧ rd t (.ptn p) F.ptn_INJ_OK = 0))
  ∧ (∀ (p : Nat) (s : State), resetOpen s = true → p < 64 → pstate s p = 1 → partitionUsed (askedReset s 3 p) p = true →
    exec (.partitionReset p) s = .next (resetResult (setErr (askedReset s 3 p) (.ptn p) 6) 1))

/-- What a warm device reset leaves while it runs (R551, R552). -/
def WarmBegun (s : State) (cause : Nat) (t : State) : Prop :=
  t.stage = .warm ∧ rd t .hlt F.hlt_RESET_BUSY = 1 ∧ rd t .hlt F.hlt_LAST_RESET = 4 ∧ rd t .hlt F.hlt_LAST_CAUSE = cause
  ∧ t.stns = [] ∧ t.movs = [] ∧ t.xlate = [] ∧ t.cdus = [] ∧ t.fhps = [] ∧ t.fhqs = [] ∧ t.flows = []
  ∧ t.mon.challenge = none ∧ t.mon.lastFmSeq = s.mon.lastFmSeq ∧ t.mon.svnFused = s.mon.svnFused ∧ t.fp.units = s.fp.units

/-- TRAINING_COMPLETE sets READY where the link trained well, and LINK_LOW where it did not (R542, R543); CONFIG_REQUEST is
answered with Request Retry Status until then (R543), and takes NumVFs (R508); LINK_RETRAIN at a lower speed or width raises
LINK_CHANGE (R543). WARM_DEVICE_RESET and MONUMENT_WATCHDOG (R549, R551, R552, R577), and WARM_RESET_COMPLETE: READY again, or
LINK_LOW (R552). The model's own choices, no rule of the spec: log entries 121, 122, 127. -/
def Obligations.ReadinessCommands : Prop :=
  ((∀ (speed width ms : Nat) (flit : Bool) (s : State), trainingOpen s = true → speed < 16 → width < 64 → ms < 65536 →
    linkOk speed width = true →
    Completes (.trainingComplete speed width ms flit) s (fun t => t.stage = .ready ∧ bitAt (rd t .hlt F.EVT_STATUS) 16 = true
      ∧ rd t .hif F.hif_LINK_SPEED = speed ∧ rd t .hif F.hif_LINK_WIDTH = width ∧ rd t .hlt F.hlt_TRAIN_MS = ms
      ∧ t.mon.svnFused = max s.mon.svnFused (mapGet 0 s.mon.slotSvn s.mon.bootSlot)
      ∧ t.fp.gen = (if s.fp.gen = 1 then 2 else s.fp.gen)))
  ∧ (∀ (speed width ms : Nat) (flit : Bool) (s : State), trainingOpen s = true → speed < 16 → width < 64 →
    linkOk speed width = false →
    Completes (.trainingComplete speed width ms flit) s (fun t => t.stage = .training ∧ rd t .hlt F.hlt_LINK_LOW = 1
      ∧ bitAt (rd t .hlt F.ERR_STATUS) 16 = true ∧ t.mon.svnFused = s.mon.svnFused))
  ∧ (∀ (n : Nat) (s : State), configServed s = true → n ≤ 64 →
    Completes (.configRequest (some n)) s (fun t => t = emit (wr s .hif F.hif_NUM_VFS n) .configOk ∧ rd t .hif F.hif_NUM_VFS = n))
  ∧ (∀ s : State, configServed s = true → exec (.configRequest none) s = .next (emit s .configOk))
  ∧ (∀ (r : Option Nat) (s : State), s.stage ≠ .tripped → configServed s = false →
    exec (.configRequest r) s = .next (emit s .retryStatus))
  ∧ (∀ (speed width : Nat) (s : State), configServed s = true → speed < 16 → width < 64 → Completes (.linkRetrain speed width) s (fun t => rd t .hif F.hif_LINK_SPEED = speed ∧ rd t .hif F.hif_LINK_WIDTH = width
      ∧ (speed < rd s .hif F.hif_LINK_SPEED ∨ width < rd s .hif F.hif_LINK_WIDTH → bitAt (rd t .hlt F.EVT_STATUS) 21 = true))))
  ∧ ((∀ (cause : Nat) (s : State), s.stage = .ready → cause = 1 ∨ cause = 2 ∨ (cause = 0 ∧ resetOpen s = true) →
    Completes (.warmDeviceReset cause) s (fun t => WarmBegun s cause t
      ∧ (cause = 1 → rd t .hif F.hif_NUM_VFS = 0 ∧ t.bme = [] ∧ t.msixOff = [])))
  ∧ (∀ s : State, s.stage = .ready → Completes .monumentWatchdog s (WarmBegun s 2))
  ∧ (∀ (cause : Nat) (s : State), s.stage = .erased → cause = 1 ∨ cause = 2 →
    exec (.warmDeviceReset cause) s = .next { s with mon := { s.mon with warmAfterErase := some cause } })
  ∧ (∀ s : State, s.stage = .warm → linkGood s = true → s.fp.deferred = [] →
    Completes .warmResetComplete s (fun t => t.stage = .ready ∧ rd t .hlt F.hlt_RESET_BUSY = 0
      ∧ bitAt (rd t .hlt F.EVT_STATUS) 16 = true ∧ t.mon.svnFused = max s.mon.svnFused (mapGet 0 s.mon.slotSvn s.mon.bootSlot)))
  ∧ (∀ s : State, s.stage = .warm → linkGood s = false →
    Completes .warmResetComplete s (fun t => t.stage = .training ∧ rd t .hlt F.hlt_RESET_BUSY = 0 ∧ rd t .hlt F.hlt_LINK_LOW = 1)))

/-- What the condemnation of a unit leaves in the floor plan record (R40): STATE reads CONDEMNED with the CAUSE, FP_GEN rises by
two, and no entry of the field defect region is lost. -/
def CondemnedAs (s : State) (u cause : Nat) (t : State) : Prop :=
  t.fp = (condemnRecord s u cause false).fp ∧ unitEntry t u % 4 = 2 ∧ bits (unitEntry t u) 26 6 = cause
  ∧ t.fp.gen = (s.fp.gen + 2) % 2 ^ 32 ∧ (∀ v, v ≠ u → unitEntry t v = unitEntry s v)
  ∧ (mapWf 0 s.fp.fdr = true → ∀ k e, mapFind s.fp.fdr k = some e → mapFind t.fp.fdr k = some e)

/-- SEQUENCER_WATCHDOG condemns under cause 0x03, LOCK_LOSS_TIMEOUT under 0x05 and a failed ARRAY_SELF_CHECK under 0x07, in
service (R31, R40); a passed self-check begins its count anew, and each is made at a commit point (R106, R113). Three errors
within 10⁹ ticks condemn their unit at the end of the command that read the third, under 0x06 a stack and 0x04 another unit, as
injected if one of them was (R31, R39). The model's own choices, no rule of the spec: log entries 40, 106, 130. -/
def Obligations.RunTimeCriteria : Prop :=
  (∀ (u : Nat) (s : State), u < 712 → s.stage = .ready → sequencerRuns s u = true → unitUp s u = true →
    Completes (.sequencerWatchdog u) s (CondemnedAs s u 0x03))
  ∧ (∀ (u : Nat) (s : State), 616 ≤ u → u < 712 → s.stage = .ready → unitUp s u = true →
    Completes (.lockLossTimeout u) s (CondemnedAs s u 0x05))
  ∧ (∀ (n : Nat) (s : State), n < 144 → s.stage = .ready → unitUp s n = true → stnAtCommit s n = true →
    ef s (.stn n) F.stn_X_SELFCHECK ≤ (stn s n).array →
    exec (.arraySelfCheck n true) s = .next (setStn s n { stn s n with array := 0 })
    ∧ Completes (.arraySelfCheck n false) s (CondemnedAs s n 0x07))
  ∧ (∀ (n : Nat) (ok : Bool) (s : State), n < 144 → s.stage ≠ .tripped →
    (stn s n).array < ef s (.stn n) F.stn_X_SELFCHECK ∨ stnAtCommit s n = false →
    exec (.arraySelfCheck n ok) s = .next s)
  ∧ (∀ s : State, (∀ e ∈ s.fp.ues, threeUes e.2 = true → unitUp s e.1 = false) → condemnDue s = s)
  ∧ (∀ (u : Nat) (l : List Nat) (s : State), s.fp.ues = [(u, l)] → threeUes l = true → unitUp s u = true →
    condemnDue s = condemn { s with fp := { s.fp with ues := [] } } u (if 208 ≤ u ∧ u < 216 then 0x06 else 0x04)
      (l.any (fun x => x % 2 == 1)))
  ∧ (∀ (a b c : Nat) (i j k : Bool), a ≤ b → b ≤ c →
    (threeUes [2 * c + ofBool k, 2 * b + ofBool j, 2 * a + ofBool i] = true ↔ c ≤ a + 1000000000))

/-! ### Stations (R80 to R170) -/

/-- The sequencer of station `n` issues the instruction `w` of its job `j` now: it may issue (R100, R101, R106), and the word
breaks no rule of R97. -/
abbrev Issues (s : State) (n : Nat) (j : Job) (w : Nat) : Prop :=
  s.stage ≠ .tripped ∧ n < 144 ∧ (stn s n).job = some j ∧ canIssue s n = true ∧ w = instrAt (stn s n)
    ∧ wordIllegal w = false ∧ pastEnd (stn s n) = false

/-- NOP, SETI, ADDI, LOOP and JMP: the registers, the next instruction, and nothing else of the machine (R97). An instruction that
breaks a rule of R97 ends its job with ILLEGAL_INSTRUCTION (0x80), whichever instruction it is; an RQO is looked at once the stage
can take it (R100). The model's own choices, no rule of the spec: log entries 32, 33. -/
def Obligations.StationScalarInstructions : Prop :=
  (∀ (n : Nat) (j : Job) (w : Nat) (s : State), Issues s n j w →
    (iOpc w = 0x00 → exec (.nop n) s =
      .next (setStn s n { stn s n with next := (stn s n).next + 1, waitt := none, fence := false }))
    ∧ (iOpc w = 0x01 → exec (.seti n) s = .next (setStn s n { stn s n with
        g := mapSet 0 (stn s n).g (iA w) (bits w 0 32), next := (stn s n).next + 1, waitt := none, fence := false }))
    ∧ (iOpc w = 0x02 → exec (.addi n) s = .next (setStn s n { stn s n with
        g := mapSet 0 (stn s n).g (iA w) ((greg (stn s n) (iB w) + bits w 0 32) % 2 ^ 32), next := (stn s n).next + 1,
        waitt := none, fence := false }))
    ∧ (iOpc w = 0x03 → Completes (.loop n) s (fun t =>
        greg (stn t n) (iA w) = (greg (stn s n) (iA w) + 2 ^ 32 - 1) % 2 ^ 32
        ∧ (stn t n).next = (if (greg (stn s n) (iA w) + 2 ^ 32 - 1) % 2 ^ 32 = 0 then (stn s n).next + 1 else bits w 0 11)
        ∧ (∀ k, k ≠ iA w → greg (stn t n) k = greg (stn s n) k) ∧ (∀ m, m ≠ n → stn t m = stn s m)
        ∧ (stn t n).store = (stn s n).store ∧ (stn t n).acc = (stn s n).acc))
    ∧ (iOpc w = 0x04 → exec (.jmp n) s =
        .next (setStn s n { stn s n with next := bits w 0 11, waitt := none, fence := false })))
  ∧ (∀ (n : Nat) (j : Job) (s : State), s.stage ≠ .tripped → n < 144 → (stn s n).job = some j → canIssue s n = true →
    (wordIllegal (instrAt (stn s n)) = true ∨ pastEnd (stn s n) = true) →
    ∀ c ∈ [(Instr.nop n, 0x00), (.seti n, 0x01), (.addi n, 0x02), (.loop n, 0x03), (.jmp n, 0x04), (.ldw n, 0x10), (.mma n, 0x11),
        (.rqo n, 0x20), (.waitt n, 0x30), (.relt n, 0x31), (.post n, 0x32), (.fence n, 0x33), (.stnEnd n, 0x3F)],
      iOpc (instrAt (stn s n)) = c.2 → (c.2 = 0x20 → (stn s n).rqoWait = none) →
      exec c.1 s = .next (if c.2 = 0x10 ∨ c.2 = 0x11 then condemnDue (endJob s n 0x80) else endJob s n 0x80)
      ∧ (stn (endJob s n 0x80) n).ended = some 0x80 ∧ (stn (endJob s n 0x80) n).next = (stn s n).next)

/-- LDW loads the stationary block of every member; MMA adds or writes its column results into the ACC of every output member, as
R117 to R126 and R133 give them; both count array instructions (R84, R88, R113, R118). The model's own choices, no rule of the
spec: log entries 33, 34, 35, 36, 37. -/
def Obligations.StationArrayInstructions : Prop :=
  (∀ (n : Nat) (j : Job) (w : Nat) (s : State), Issues s n j w → iOpc w = 0x10 → checkDue s n j = false →
    readHeld (stn s n) (bits (greg (stn s n) (iA w)) 0 15) (bits (greg (stn s n) (iA w)) 0 15 + blockUnits (iFmt w) - 1) = false →
    (∀ m ∈ members n j, spanFaults s (members n j) m j.lent.isSome (bits (greg (stn s n) (iA w)) 0 15)
      (bits (greg (stn s n) (iA w)) 0 15 + blockUnits (iFmt w) - 1) = []) →
    storesRead s ((members n j).map (fun m => (m, [unitBytes (bits (greg (stn s n) (iA w)) 0 15,
      bits (greg (stn s n) (iA w)) 0 15 + blockUnits (iFmt w) - 1)]))) = (false, s) →
    CompletesMem (.ldw n) s (fun t =>
      (∀ m ∈ members n j, (stn t m).blk = blockAt (stn s m) (bits (greg (stn s n) (iA w)) 0 15) (iFmt w)
        ∧ (stn t m).array = (stn s m).array + 1 ∧ (stn t m).acc = (stn s m).acc ∧ (stn t m).store = (stn s m).store)
      ∧ (stn t n).ldw = some { tsa := bits (greg (stn s n) (iA w)) 0 15, fmt := iFmt w, t := bitAt w 40 }
      ∧ (stn t n).next = (stn s n).next + 1 ∧ (stn t n).g = (stn s n).g))
  ∧ (∀ (n : Nat) (j : Job) (w : Nat) (l : Ldw) (s : State), Issues s n j w → iOpc w = 0x11 → (stn s n).ldw = some l →
    mmaIssueCheck j w (stn s n) = none → checkDue s n j = false →
    (∀ e ∈ mmaSpans w (stn s n), readHeld (stn s n) e.1 e.2 = false) →
    (∀ m ∈ streamMembers n j, mmaFaults s n j w (stn s n) m = []) →
    storesRead s ((streamMembers n j).map (fun m =>
      (m, (mmaSpansTo w (stn s n) (bits w 32 8 + 1 + fmtD (iFmt w) - 1)).map unitBytes))) = (false, s) →
    CompletesMem (.mma n) s (fun t =>
      (∀ m ∈ outMembers n j, (stn t m).acc = (mmaRun
          { f := iFmt w, t := l.t, base := 128 * bits (greg (stn s n) (iA w)) 0 15,
            sbase := 128 * bits (greg (stn s n) (iC w)) 0 15 } (bitAt w 43) (segGroups j.mode (segsFor s n j m))
          (bits w 32 8 + 1) (bits (greg (stn s n) (iB w)) 0 8) (stn s m)).1.acc)
      ∧ (∀ m ∈ members n j, (stn t m).array = (stn s m).array + 1 ∧ (stn t m).store = (stn s m).store)
      ∧ (stn t n).next = (stn s n).next + 1 ∧ (stn t n).g = (stn s n).g))

/-- RQO is handed to the requantisation stage with the ACC words it reads (R96, R98); RQO_START latches the parameter record
(R137), or ends the job with the status that its accesses and its form meet first (R90, R93, R100, R141); RQO_COMPLETE writes the
output rows, and the waiting RQO takes the running place unless a save has been requested (R98, R101, R140). The model's own
choices, no rule of the spec: log entries 29, 33, 34. -/
def Obligations.StationRequantisation : Prop :=
  (∀ (n : Nat) (j : Job) (w : Nat) (s : State), Issues s n j w → iOpc w = 0x20 → (stn s n).rqoRun = none → (stn s n).rqoWait = none →
    bits w 42 2 ≠ 3 → bits (greg (stn s n) (iA w)) 0 8 + (bits w 32 8 + 1) ≤ 256 →
    Completes (.rqo n) s (fun t => ∃ r : Rqo, (stn t n).rqoRun = some r ∧ (stn t n).rqoWait = none
      ∧ r.words = (outMembers n j).map (fun m => accRows (stn s m) (bits (greg (stn s n) (iA w)) 0 8) (bits w 32 8 + 1))
      ∧ r.row = bits (greg (stn s n) (iA w)) 0 8 ∧ r.tsa = bits (greg (stn s n) (iB w)) 0 15
      ∧ r.gc = bits (greg (stn s n) (iC w)) 0 15 ∧ r.ofmt = iFmt w ∧ r.mode = bits w 42 2 ∧ r.skew = bitAt w 41
      ∧ r.rows = bits w 32 8 + 1 ∧ r.rqset = bits w 24 6 ∧ (stn t n).next = (stn s n).next + 1))
  ∧ (∀ (n : Nat) (j : Job) (r : Rqo) (t0 : Nat) (s : State), s.stage ≠ .tripped → n < 144 → (stn s n).job = some j →
    (stn s n).rqoRun = some r → (stn s n).rqoRec = [] → outMembers n j = [n] →
    recordTsa s n j.lent.isSome r.rqset = some t0 → rqoStartFaults s (members n j) j.lent.isSome r n = [] →
    storesRead s [rqoReads s j.lent.isSome r n] = (false, s) →
    exec (.rqoStart n) s = .next (condemnDue
      (setStn s n { stn s n with rqoRec := loadBytes (stn s n).store (128 * t0) 2048, statSkip := 0 })))
  ∧ (∀ (n c : Nat) (j : Job) (r : Rqo) (s : State), s.stage ≠ .tripped → n < 144 → (stn s n).job = some j →
    (stn s n).rqoRun = some r → (stn s n).rqoRec = [] →
    firstFault ((outMembers n j).flatMap (rqoStartFaults s (members n j) j.lent.isSome r)) = some c →
    exec (.rqoStart n) s = .next (condemnDue (endJob (setStn s n { stn s n with rqoRun := none }) n c)))
  ∧ (∀ (n : Nat) (j : Job) (r : Rqo) (w : List Nat) (s : State), s.stage ≠ .tripped → n < 144 → (stn s n).job = some j →
    (stn s n).rqoRun = some r → (stn s n).rqoRec ≠ [] → outMembers n j = [n] → r.words = [w] → rqoHeld s n r = false →
    rowFaults s (members n j) n j.lent.isSome r = [] → (takeFault s (.stn n)).1 = 0 → (stn s n).bad = [] →
    CompletesMem (.rqoComplete n) s (fun t =>
      (stn t n).store = (rqRun (stn s n) (stn s n).rqoRec r w).foldl
        (fun m x => x.writes.foldl (fun m e => storeBytes m e.1 e.2) m) (stn s n).store
      ∧ (stn t n).rqoRec = []
      ∧ (stn t n).rqoRun = (if (stn s n).drain.isSome then none else (stn s n).rqoWait)
      ∧ (stn t n).rqoWait = (if (stn s n).drain.isSome then (stn s n).rqoWait else none)
      ∧ (stn t n).acc = (stn s n).acc ∧ (∀ m, m ≠ n → stn t m = stn s m)))

/-- WAITT goes on once the slot is READY or HELD in every member that streams, and holds while it is being filled; RELT frees a
READY slot and leaves a HELD one (R89, R97); POST enqueues a trigger parcel; FENCE and END wait for the requantisation stage
(R97). The model's own choices, no rule of the spec: log entries 31, 33. -/
def Obligations.StationSlotsAndEnd : Prop :=
  (∀ (n : Nat) (j : Job) (w : Nat) (s : State), Issues s n j w → iOpc w = 0x30 →
    (∀ m ∈ members n j, slotAllowed s m j.lent.isSome (bits w 16 6) = true) →
    (∀ m ∈ streamMembers n j, 2 ≤ slotState (stn s m) (bits w 16 6)) →
    exec (.waitt n) s = .next (setStn s n (advance (stn s n))))
  ∧ (∀ (n : Nat) (j : Job) (w : Nat) (s : State), Issues s n j w → iOpc w = 0x30 →
    (j.lent.isSome = true ∨ ∀ m ∈ streamMembers n j, ∀ e ∈ s.movs, ∀ it ∈ e.2.items,
      ¬ (it.slots.contains (m, bits w 16 6) = true ∧ it.st = .stopped)) →
    (∀ m ∈ members n j, slotAllowed s m true (bits w 16 6) = true) →
    (∃ m ∈ streamMembers n j, slotState (stn s m) (bits w 16 6) < 2) →
    (∀ m ∈ streamMembers n j, slotState (stn s m) (bits w 16 6) = 1 → slotFilling s m (bits w 16 6) = true) →
    exec (.waitt n) s = .next (setStn s n { stn s n with waitt := some (bits w 16 6) }))
  ∧ (∀ (n : Nat) (j : Job) (w : Nat) (s : State), Issues s n j w → iOpc w = 0x31 →
    (∀ m ∈ members n j, slotAllowed s m j.lent.isSome (bits w 16 6) = true) →
    Completes (.relt n) s (fun t => (stn t n).next = (stn s n).next + 1 ∧ ∀ m ∈ members n j,
      slotState (stn t m) (bits w 16 6) =
        (if slotState (stn s m) (bits w 16 6) = 2 then 0 else slotState (stn s m) (bits w 16 6))
      ∧ ∀ k, k ≠ bits w 16 6 → slotState (stn t m) k = slotState (stn s m) k))
  ∧ (∀ (n : Nat) (j : Job) (w pid : Nat) (s s1 : State), Issues s n j w → iOpc w = 0x32 →
    qOwner s (j.qh.getD (bits w 0 2) 0) = j.ptn → (takeGranted s (.station n) 1).1 = none → (takeEnded s (.station n) 1).1 = none →
    (∀ e ∈ (queue s (j.qh.getD (bits w 0 2) 0)).line, ¬ (e.agent = .station n ∧ e.token = 1)) →
    hwPost s (.station n) (j.qh.getD (bits w 0 2) 0) (triggerBytes (greg (stn s n) (iA w)) (greg (stn s n) (iB w)) (bits w 8 8) j.stake)
      j.ptn j.stake 1 true = (.parcel pid, s1) →
    exec (.post n) s = .next (setStn s1 n (advance (stn s1 n))))
  ∧ (∀ (n : Nat) (j : Job) (w : Nat) (s : State), Issues s n j w → iOpc w = 0x33 →
    exec (.fence n) s = .next (setStn s n (if (stn s n).rqoRun.isSome then { stn s n with fence := true } else advance (stn s n))))
  ∧ (∀ (n : Nat) (j : Job) (w : Nat) (s : State), Issues s n j w → iOpc w = 0x3F → (stn s n).rqoRun = none →
    Completes (.stnEnd n) s (fun t => (stn t n).ended = some 0x00 ∧ (stn t n).job = some j ∧ ∀ m, m ≠ n → stn t m = stn s m))

/-- STATION_JOB_START: a station with nothing to do takes a job parcel and a stake, and its run starts as the parcel says (R95,
R343, R535). STATION_JOB_COMPLETE of a job that posts no completion frees the sequencer (R95, R536). STATION_SAVE stores ACC and
the sequencer image (R101, R102). The model's own choices, no rule of the spec: log entries 30, 31, 38. -/
def Obligations.StationJobs : Prop :=
  (∀ (n idx k pid : Nat) (bd : Binding) (s s1 s2 : State), n < 144 → s.stage ≠ .tripped → bindingOf s n = some (idx, bd) →
    bd.pair = false → stationBusy s n = false → ef s (.ptn (ownerOf s (.stn n))) F.ptn_JOBQ_BASE + idx < 16384 →
    qOwner s (ef s (.ptn (ownerOf s (.stn n))) F.ptn_JOBQ_BASE + idx) = ownerOf s (.stn n) → beHold s = false →
    ef s (.ptn (ownerOf s (.stn n))) F.ptn_METERED = 0 → ef s (.ptn (ownerOf s (.stn n))) F.ptn_BE_JOB_LIMIT = 0 →
    takeEnded s (.station n) (readToken (ef s (.ptn (ownerOf s (.stn n))) F.ptn_JOBQ_BASE + idx)) = (none, s) →
    parcelWaits s (.station n) (ef s (.ptn (ownerOf s (.stn n))) F.ptn_JOBQ_BASE + idx) = true →
    acquireStake s (.station n) (ownerOf s (.stn n)) 1 = (some k, s1) →
    hwRead s1 (.station n) (ef s (.ptn (ownerOf s (.stn n))) F.ptn_JOBQ_BASE + idx) = (.parcel pid, s2) → unitUp s n = true →
    jobParcelBad (payload s2 pid) idx = false →
    Completes (.stationJobStart n) s (fun t =>
      (stn t n).job = some (jobOfParcel (ownerOf s (.stn n)) (ef s (.ptn (ownerOf s (.stn n))) F.ptn_JOBQ_BASE + idx) pid k idx
        (rd s (.stn n) F.stn_MODE) 0 (payload s2 pid))
      ∧ (stn t n).next = bits (leAt (payload s2 pid) 0 2) 0 11 ∧ (stn t n).g = parcelG (payload s2 pid) 8
      ∧ (stn t n).acc = [] ∧ (stn t n).ended = none ∧ (stn t n).ldw = none))
  ∧ (∀ (n c : Nat) (j : Job) (s : State), n < 144 → s.stage ≠ .tripped → (stn s n).job = some j → (stn s n).ended = some c →
    (stn s n).rqoRun = none → j.lent = none → j.cplEn = false →
    let s1 := setStn (dropGrants (withdrawRun s (.station n)) (.station n)) n (clearRun (stn s n))
    exec (.stationJobComplete n) s = .next (finishJob s1 n j c (runInjected s1 n j)))
  ∧ (∀ (n c : Nat) (j : Job) (s : State), n < 144 → s.stage ≠ .tripped → (stn s n).job = some j → (stn s n).drain = some c →
    (stn s n).rqoRun = none → (stn s n).ended = none → j.lent = none → j.shape = 0 → rd s (.stn n) F.QUIESCE_REQ = 1 →
    Completes (.stationSave n) s (fun t => (stn t n).job = none ∧ (stn t n).drain = none ∧ ∃ r : SaveRec, (stn t n).saved = some r
      ∧ r.cause = c ∧ r.next = (stn s n).next + ofBool (postedNow s n) ∧ r.g = (stn s n).g ∧ r.job = j ∧ r.ldw = (stn s n).ldw
      ∧ r.waiting = (stn s n).rqoWait ∧ r.waitt = (stn s n).waitt ∧ (stn t n).store = (accToStore (stn s n)).store))

/-- LEND_RES_ZEROING_DONE, STATION_STORE_ZEROED and CARRY_COMPLETE, on a page that stays quiesced (R104, R199, R243); an
instruction is written while the page is quiesced and ignored while it is active (R94); STAT_CLR clears the statistics (R152). The
model's own choices, no rule of the spec: log entries 39, 88, 95. -/
def Obligations.StationStores : Prop :=
  (∀ (n v : Nat) (s : State), n < 144 → s.stage ≠ .tripped → (stn s n).zeroLend = some v → rd s (.stn n) F.QUIESCE_REQ = 1 →
    exec (.lendResZeroingDone n) s = .next (condemnDue (serveTraverse (wr (setStn s n { stn s n with
      store := mapDrop (stn s n).store (48 * 65536) (62 * 65536), bad := mapDrop (stn s n).bad (48 * 1024) (62 * 1024),
      slots := mapDrop (stn s n).slots 48 62, imem := mapDrop (stn s n).imem 1536 2048, lentPtn := none, zeroLend := none })
      (.stn n) F.stn_LEND_RES v))))
  ∧ (∀ (n : Nat) (s : State), n < 144 → s.stage ≠ .tripped → (stn s n).zeroStore = true → rd s (.stn n) F.QUIESCE_REQ = 1 →
    exec (.stationStoreZeroed n) s = .next (condemnDue (serveTraverse (setStn (wipeAll s (fun w => { w with stns := w.stns.filter (fun m => m ≠ n) })) n
      { stn s n with store := [], acc := [], blk := [], imem := [], slots := [], bad := [], zeroStore := false }))))
  ∧ (∀ s : State, s.trv.inbound = [] → s.trv.landing = [] → serveTraverse s = s)
  ∧ (∀ (n : Nat) (s : State), n < 144 → s.stage ≠ .tripped → (stn s n).carry = true → rd s (.stn n) F.QUIESCE_REQ = 1 →
    exec (.carryComplete n) s = .next (setStn s n { stn s n with carry := false }))
  ∧ (∀ (f : Func) (n i v : Nat) (s : State), f.ok = true → n < 144 → i < 1536 →
    reachWindow s f (.stn n) (pageBase (.stn n) + 0x4000 + 0x1000 * (i / 512)) = true → unitDown s (.stn n) = false →
    (stn s n).zeroStore = false →
    exec (.instructionMemoryWrite f n i v) s =
      .next (if quiesced s (.stn n) then setStn s n { stn s n with imem := mapSet 0 (stn s n).imem i (v % 2 ^ 64) }
        else setErr s (.stn n) 0))
  ∧ (∀ (f : Func) (n : Nat) (s : State), f.ok = true → n < 144 → reach s f (.stn n) = true → unitDown s (.stn n) = false →
    Completes (.statClr f n) s (fun t => rd t (.stn n) F.stn_RQ_MAXABS = 0 ∧ rd t (.stn n) F.stn_RQ_STAT_ROWS = 0
      ∧ (∀ c, c < 128 → chmax t n c = 0) ∧ (∀ c m, m ≠ n → m < 144 → c < 128 → chmax t m c = chmax s m c)
      ∧ rd t (.stn n) F.stn_RQ_SAT = rd s (.stn n) F.stn_RQ_SAT))

/-- BIND_GO binds a new name to a station, and shows why it does not (R110, R111); LOOKUP shows the station of a name (R110). The
model's own choices, no rule of the spec: log entry 42. -/
def Obligations.BindingCommands : Prop :=
  (∀ (p : Nat) (s : State), p < 64 → reach s .pf (.ptn p) = true → bindResult s p = 0 → rd s (.ptn p) F.ptn_BIND_STATION < 144 →
    rd s (.ptn p) F.ptn_BIND_PAIR = 0 → nameEntry s p (bindName s p) = none →
    Completes (.bindGo .pf p) s (fun t =>
      mapFind (ptn t p).names (lowestFree 0 (ptn s p).names)
        = some { name := bindName s p, station := rd s (.ptn p) F.ptn_BIND_STATION, pair := false }
      ∧ rd t (.ptn p) F.ptn_BIND_RESULT = 0 ∧ rd t (.ptn p) F.ptn_BIND_PHYS = rd s (.ptn p) F.ptn_BIND_STATION
      ∧ (∀ q, q ≠ p → ptn t q = ptn s q) ∧ (ptn t p).tiles = (ptn s p).tiles))
  ∧ (∀ (p : Nat) (s : State), p < 64 → reach s .pf (.ptn p) = true → bindResult s p ≠ 0 →
    Completes (.bindGo .pf p) s (fun t => rd t (.ptn p) F.ptn_BIND_RESULT = bindResult s p ∧ t.ptns = s.ptns
      ∧ bitAt (rd t (.ptn p) F.ERR_STATUS) 16 = true))
  ∧ (∀ (f : Func) (p : Nat) (s : State), f.ok = true → p < 64 → reach s f (.ptn p) = true →
    Completes (.lookup f p) s (fun t => rd t (.ptn p) F.ptn_BIND_RESULT = 0
      ∧ (nameEntry s p (bindName s p) = none → rd t (.ptn p) F.ptn_BIND_INDEX = 0xFF ∧ rd t (.ptn p) F.ptn_BIND_PHYS = 0xFF)
      ∧ (∀ i b, nameEntry s p (bindName s p) = some (i, b) → i < 256 → b.station < 144 →
          rd t (.ptn p) F.ptn_BIND_INDEX = i ∧ rd t (.ptn p) F.ptn_BIND_PHYS = b.station)))

/-! ### The memory tiers (R171 to R208) -/

/-- The reads of a write that covers part of its first or last line correct what correctable errors those lines hold (R200). -/
def mergeReads (s : State) (p : Nat) (x : Tile) (a n : Nat) : State :=
  let s1 := if a % 64 = 0 then s else softTier s p x a 1
  if (a + n) % 64 = 0 then s1 else softTier s1 p x (a + n - 1) 1

/-- Is a read of a tile's storage made without a fault of the bank, of the stack or of the host link. -/
abbrev readsWell (s : State) (x : Tile) : Prop :=
  (x.tier = 3 → Config.hostAborts s.fresh = false) ∧ (x.tier ≠ 3 → rd s (tierPage x.tier x.unit) F.INJ_ARM = 0)

/-- The state after such a read: one of the host tier takes a free value (log entry 170). -/
def afterTier (s : State) (x : Tile) : State := if x.tier = 3 then nextFresh s else s

/-- BAR2_ACCESS and MANAGER_WINDOW_ACCESS, in the tiered region of the partition's range, where no earlier access to the range is
held: a ZERO tile reads zeros (R173), a LOST tile answers Completer Abort (R201), another tile reads what it holds and becomes
recent (R182), a write lands at the address and makes the tile recent, and one behind an access that waits stays behind it. A
virtual function that no partition is bound to reads zeros and writes nothing (R512), and a manager's window that is not VALID
reads zeros and sets WINDOW_DENIED (R203). The model's own choices, no rule of the spec: log entries 98, 99, 170. -/
def Obligations.HostWindows : Prop :=
  (∀ (v p addr a n : Nat) (s : State), 1 ≤ v → v ≤ 64 → s.stage = .ready → ptnOfVf s v = some p → addr + n ≤ 2 ^ 30 →
    a = rd s (.ptn p) F.ptn_VF_WIN_BASE * 2 ^ 30 + addr → a % 65536 + n ≤ 65536 → a < tieredEnd →
    s.tierHeld.any (fun h => decide (h.1 = p)) = false →
    (tileOf s p (a / 65536) = none →
      exec (.bar2Access (.vf v) addr (.read n)) s = .next (condemnDue (emit s (.readData (List.replicate n 0)))))
    ∧ (∀ x, tileOf s p (a / 65536) = some x → 0 < n →
      (x.lost = true → exec (.bar2Access (.vf v) addr (.read n)) s =
        .next (condemnDue (emit (setTile s p (a / 65536) { x with age := 0 }) .completerAbort)))
      ∧ (x.lost = false → readsWell s x → badLine s p a n = false →
        exec (.bar2Access (.vf v) addr (.read n)) s = .next (condemnDue
          (emit (softTier (setTile (afterTier s x) p (a / 65536) { x with age := 0 }) p x a n) (.readData (tileBytes s p x a n)))))))
  ∧ (∀ (v p addr a : Nat) (d : List Byte) (x : Tile) (s : State), 1 ≤ v → v ≤ 64 → s.stage = .ready → ptnOfVf s v = some p →
    addr + d.length ≤ 2 ^ 30 → a = rd s (.ptn p) F.ptn_VF_WIN_BASE * 2 ^ 30 + addr → a % 65536 + d.length ≤ 65536 → d ≠ [] →
    a < tieredEnd → s.tierHeld.any (fun h => decide (h.1 = p)) = false → tileOf s p (a / 65536) = some x → x.lost = false →
    x.stuck = false → x.migrating = false → migOf s p (a / 65536) = none → mergeError s p a d.length = false →
    (merges a d.length = true → readsWell s x) →
    CompletesMem (.bar2Access (.vf v) addr (.write d)) s (fun t =>
      t = storeTile (mergeReads (setTile (if merges a d.length then afterTier s x else s) p (a / 65536)
        { x with age := 0, migrating := false }) p x a d.length) p x a d
      ∧ (x.tier ≠ 3 → (ptn t p).mem = storeBytes (ptn s p).mem a d)
      ∧ tileOf t p (a / 65536) = some { x with age := 0 } ∧ (∀ q, q ≠ p → ptn t q = ptn s q)))
  ∧ (∀ (v p addr : Nat) (x : Access) (s : State), 1 ≤ v → v ≤ 64 → s.stage = .ready → ptnOfVf s v = some p →
    addr + accessLen x ≤ 2 ^ 30 → s.tierHeld.any (fun h => decide (h.1 = p)) = true →
    exec (.bar2Access (.vf v) addr x) s = .next (condemnDue
      { s with tierHeld := s.tierHeld ++ [(p, rd s (.ptn p) F.ptn_VF_WIN_BASE * 2 ^ 30 + addr, x)] }))
  ∧ (∀ (v addr : Nat) (x : Access) (s : State), 1 ≤ v → v ≤ 64 → s.stage = .ready → ptnOfVf s v = none →
    addr + accessLen x ≤ 2 ^ 30 →
    exec (.bar2Access (.vf v) addr x) s = .next (condemnDue (match x with
      | .read n => emit s (.readData (List.replicate n 0))
      | .write _ => s)))
  ∧ (∀ (w o n p a : Nat) (s : State), w < 16 → o + n ≤ 2 ^ 32 → o < 2 ^ 32 → s.stage = .ready →
    rd s .tir (F.tir_WIN_PTN.ix w) = p → rd s .tir (F.tir_WIN_VALID.ix w) = 1 → pstate s p = 1 →
    rd s (.ptn p) F.ptn_MGR_WINDOW_OK = 1 → a = rd s .tir (F.tir_WIN_BASE.ix w) * 2 ^ 32 + o → a % 65536 + n ≤ 65536 →
    a < tieredEnd → tileOf s p (a / 65536) = none → s.tierHeld.any (fun h => decide (h.1 = p)) = false →
    exec (.managerWindowAccess (w * 2 ^ 32 + o) (.read n)) s =
      .next (condemnDue (emit s (.readData (List.replicate n 0)))))
  ∧ (∀ (w o n : Nat) (s : State), w < 16 → o + n ≤ 2 ^ 32 → o < 2 ^ 32 → s.stage = .ready →
    rd s .tir (F.tir_WIN_VALID.ix w) ≠ 1 →
    exec (.managerWindowAccess (w * 2 ^ 32 + o) (.read n)) s =
      .next (condemnDue (emit (setErr s .tir 17) (.readData (List.replicate n 0)))))

/-- AGE_BOUNDARY ages every tile and forgets its reads (R182), and a tier manager that is quiesced, or to be, ages none (R74).
MIGRATION_COMMIT moves the tile's entry to its target with its bytes, as ciphertext into host memory and decrypted out of it
(R178, R185); an error in the copy leaves the tile STUCK at its source (R186); a ZERO tile that a pin gives storage takes its
location (R192). MIGRATION_SOURCE_FREED frees the source for zeroing (R185); LOCATION_ZEROED gives a location that waited back
(R198); PIN_COMPLETE sets PINNED once every tile of the range is in place (R192); PATROL_SCRUB corrects the correctable errors
that it finds and counts the error of a bad line (R208). The model's own choices, no rule of the spec: log entries 95, 96, 97. -/
def Obligations.TierMigrations : Prop :=
  (∀ s : State, s.stage ≠ .tripped →
    (heldBlock s .tir = false → Completes .ageBoundary s (fun t => ∀ p k,
      tileOf t p k = (tileOf s p k).map (fun x => { x with age := satTo 255 (x.age + 1), reads := 0 })
      ∧ (ptn t p).mem = (ptn s p).mem))
    ∧ (heldBlock s .tir = true → exec .ageBoundary s = .next s))
  ∧ (∀ (p k u : Nat) (m : Migration) (x : Tile) (s : State), p < 64 → s.stage ≠ .tripped → quiesced s .tir = false →
    migOf s p k = some m → m.dstUnit = some u → m.after = none → tileOf s p k = some x → x.lost = false → x.stuck = false →
    (x.tier ≠ 3 → rd s (tierPage x.tier x.unit) F.INJ_ARM = 0) → heldQuiesced s .tir = true ∨ s.migs = [m] →
    (∀ j, rangeOf s p (65536 * k) = some j → bitAt (rd s (.ptn p) F.ptn_PINNING) j = true →
      m.pin = true ∧ ef s (.ptn p) (F.ptn_PIN_TIER.ix j) = m.dstTier) →
    (readsWell s x → tileBad s p k = false → CompletesMem (.migrationCommit p k) s (fun t =>
      tileOf t p k = some { x with tier := m.dstTier, unit := u, migrating := false, pinned := m.pin }
      ∧ { m with committed := true } ∈ t.migs ∧ t.locs = s.locs
      ∧ (m.dstTier = 3 → t.hostMem = (spillStore s p u (65536 * k) 65536).hostMem ∧ (ptn t p).mem = (ptn s p).mem)
      ∧ (m.dstTier ≠ 3 → t.hostMem = s.hostMem
        ∧ (ptn t p).mem = if m.srcTier = 3 then
            storeBytes (ptn s p).mem (65536 * k) (spillBytes s p m.srcUnit (65536 * k) 65536)
          else (ptn s p).mem)
      ∧ ∀ f, moveCounter m.srcTier m.dstTier = some f → rd t .tir f = satTo (2 ^ f.w - 1) (rd s .tir f + 1)))
    ∧ (tileBad s p k = true → CompletesMem (.migrationCommit p k) s (fun t =>
      tileOf t p k = some { x with migrating := false, stuck := true } ∧ t.migs = removeFirst (fun y => decide (y = m)) s.migs
      ∧ rd t .tir F.tir_MIG_ABANDONED = satTo (2 ^ F.tir_MIG_ABANDONED.w - 1) (rd s .tir F.tir_MIG_ABANDONED + 1))))
  ∧ (∀ (p k u : Nat) (m : Migration) (s : State), p < 64 → s.stage ≠ .tripped → quiesced s .tir = false →
    migOf s p k = some m → m.dstUnit = some u → m.after = none → tileOf s p k = none → m.srcTier = 0 →
    exec (.migrationCommit p k) s = .next (condemnDue { setTile s p k { newTile m.dstTier u with pinned := true } with
      migs := removeFirst (fun y => decide (y = m)) s.migs }))
  ∧ (∀ (p k : Nat) (m : Migration) (s : State), p < 64 → s.stage ≠ .tripped →
    s.migs.find? (fun m => decide (m.ptn = p) && decide (m.tile = k) && m.committed) = some m →
    tierUp s m.srcTier m.srcUnit = true → (m.srcTier = 3 → m.srcUnit < rd s .tir F.tir_HOST_TILES) → tierUsed s p 1 ≤ ef s (.ptn p) F.ptn_DST_QUOTA →
    Completes (.migrationSourceFreed p k) s (fun t =>
      locsAt t m.srcTier m.srcUnit = { locsAt s m.srcTier m.srcUnit with pending := (locsAt s m.srcTier m.srcUnit).pending + 1 }
      ∧ t.migs = removeFirst (fun y => decide (y = m)) s.migs ∧ t.ptns = s.ptns ∧ t.regs = s.regs
      ∧ t.spillFreed = if m.srcTier = 3 ∧ m.srcUnit < s.spillNext then s.spillFreed ++ [m.srcUnit] else s.spillFreed))
  ∧ (∀ (tier u : Nat) (s : State), (Instr.locationZeroed tier u).wf = true → s.stage ≠ .tripped → s.migs = [] →
    s.tierHeld = [] → (∀ p, p < 64 → tierUsed s p 1 ≤ ef s (.ptn p) F.ptn_DST_QUOTA) →
    0 < (locsAt s tier u).pending → tierUp s tier u = true →
    exec (.locationZeroed tier u) s = .next (condemnDue (serveTraverse (wipeLoc (setLocs (if tier = 3 then zeroSlot s else s) tier u
      { free := (locsAt s tier u).free + 1, pending := (locsAt s tier u).pending - 1 }) tier u))))
  ∧ (∀ (p k : Nat) (s : State), p < 64 → k < 8 → s.stage ≠ .tripped → bitAt (rd s (.ptn p) F.ptn_PINNING) k = true →
    ((rangeTiles s p k).all (tileInPlace s p (ef s (.ptn p) (F.ptn_PIN_TIER.ix k))) = true →
      Completes (.pinComplete p k) s (fun t => bitAt (rd t (.ptn p) F.ptn_PINNED) k = true
        ∧ bitAt (rd t (.ptn p) F.ptn_PINNING) k = false ∧ t.ptns = s.ptns))
    ∧ ((rangeTiles s p k).all (tileInPlace s p (ef s (.ptn p) (F.ptn_PIN_TIER.ix k))) = false →
      exec (.pinComplete p k) s = .next s))
  ∧ (∀ (p : Page) (tier u : Nat) (s : State), p.ok = true → s.stage ≠ .tripped → pageTier p = some (tier, u) →
    (heldBlock s p = true → exec (.patrolScrub p) s = .next (condemnDue s))
    ∧ (heldBlock s p = false → ef s p F.mem_SCRUB ≠ 0 → rd s p F.INJ_ARM = 0 →
      (badLines s tier u = 0 → exec (.patrolScrub p) s = .next (condemnDue (scrubSoft s p tier u)))
      ∧ (badLines s tier u = 1 → CompletesMem (.patrolScrub p) s (fun t => t = ueError (scrubSoft s p tier u) p false
        ∧ rd t p F.mem_UE_COUNT = satTo (2 ^ F.mem_UE_COUNT.w - 1) (rd s p F.mem_UE_COUNT + 1)
        ∧ rd t .hlt (F.hlt_K_LIVE.ix 1) = satTo (2 ^ 32 - 1) (rd s .hlt (F.hlt_K_LIVE.ix 1) + 1)))))

/-- FREE_GO frees the tiles that it names and no other, or shows why it frees none (R195). TILE_QUERY loads the tile's TIER, FLAGS
and AGE (R204); TIR_TILE_QUERY shows them with the bank or stack (R206). The model's own choices, no rule of the spec: log entry
99. -/
def Obligations.TierQueries : Prop :=
  (∀ (f : Func) (p : Nat) (s : State), f.ok = true → p < 64 → reach s f (.ptn p) = true →
    freeResult s p (rd s (.ptn p) F.ptn_FREE_BASE) (rd s (.ptn p) F.ptn_FREE_TILES) ≠ 0 →
    exec (.freeGo f p) s = .next (wr s (.ptn p) F.ptn_FREE_RESULT
      (freeResult s p (rd s (.ptn p) F.ptn_FREE_BASE) (rd s (.ptn p) F.ptn_FREE_TILES))))
  ∧ (∀ (f : Func) (p a n : Nat) (s : State), f.ok = true → p < 64 → reach s f (.ptn p) = true →
    a = rd s (.ptn p) F.ptn_FREE_BASE → n = rd s (.ptn p) F.ptn_FREE_TILES →
    freeResult s p a n = 0 →
    Completes (.freeGo f p) s (fun t => rd t (.ptn p) F.ptn_FREE_RESULT = 0
      ∧ (∀ k, a / 65536 ≤ k → k < a / 65536 + n → tileOf t p k = none)
      ∧ (∀ k, k < a / 65536 ∨ a / 65536 + n ≤ k → tileOf t p k = tileOf s p k)))
  ∧ (∀ (f : Func) (p a : Nat) (s : State), f.ok = true → p < 64 → a < 2 ^ 64 → reach s f (.ptn p) = true →
    Completes (.tileQuery f p a) s (fun t => rd t (.ptn p) F.ptn_TILE_QUERY = a
      ∧ (tileOf s p (a / 65536) = none → rd t (.ptn p) F.ptn_TILE_TIER = 0 ∧ rd t (.ptn p) F.ptn_TILE_AGE = 0
        ∧ rd t (.ptn p) F.ptn_TILE_FLAGS = 16 * ofBool (inModel s p (a / 65536)))
      ∧ (∀ x, tileOf s p (a / 65536) = some x → x.tier < 4 → x.age < 256 →
          rd t (.ptn p) F.ptn_TILE_TIER = x.tier ∧ rd t (.ptn p) F.ptn_TILE_AGE = x.age
          ∧ rd t (.ptn p) F.ptn_TILE_FLAGS = ofBool x.pinned + 2 * ofBool x.migrating + 4 * ofBool x.stuck + 8 * ofBool x.lost
            + 16 * ofBool (inModel s p (a / 65536)))
      ∧ t.ptns = s.ptns))
  ∧ (∀ (p a : Nat) (s : State), p < 64 → a < 2 ^ 48 → reach s .pf .tir = true →
    Completes (.tirTileQuery (p * 2 ^ 48 + a)) s (fun t => rd t .tir F.tir_TILE_QUERY = p * 2 ^ 48 + a
      ∧ (∀ x, tileOf s p (a / 65536) = some x → x.tier < 4 → x.age < 256 → x.unit < 64 →
          bits (rd t .tir F.tir_TILE_INFO) 0 2 = x.tier ∧ bits (rd t .tir F.tir_TILE_INFO) 7 8 = x.age
          ∧ bits (rd t .tir F.tir_TILE_INFO) 16 6 = (if x.tier = 3 then 0x3F else x.unit))
      ∧ t.ptns = s.ptns))

/-! ### The movers (R209 to R249) -/

/-- Channel `k` may accept the parcel `pid` at the head of its SUBMIT_Q: its page is active, both queues are its owner's, a
stake is free, and its completion parcel is admitted (R210). `s1` is the state with the stake taken, `s2` with the parcel
reserved. -/
abbrev AcceptReady (k pid st cpl : Nat) (s s1 s2 : State) : Prop :=
  k < 1024 ∧ s.stage ≠ .tripped ∧ ownerOf s (.mov k) < 64 ∧ quiesced s (.mov k) = false ∧ heldQuiesced s (.mov k) = false
  ∧ qOwner s (rd s (.mov k) F.mov_SUBMIT_Q) = ownerOf s (.mov k) ∧ qOwner s (rd s (.mov k) F.mov_CPL_Q) = ownerOf s (.mov k)
  ∧ takeEnded s (movAg k) (readToken (rd s (.mov k) F.mov_SUBMIT_Q)) = (none, s)
  ∧ peekPid s (movAg k) (rd s (.mov k) F.mov_SUBMIT_Q) = some pid
  ∧ acquireStake s (movAg k) (ownerOf s (.mov k)) 2 = (some st, s1) ∧ takeGranted s1 (movAg k) 1 = (some cpl, s2)

/-- The parcel is accepted: it is the channel's last item, with its stake and its completion parcel; a 64-byte parcel is the
descriptor in it, which waits; and CPL_BLOCKED is clear (R210, R213, R214). -/
def Accepted (k pid st cpl : Nat) (s2 t : State) : Prop :=
  ∃ it, (mov t k).items.getLast? = some it ∧ it.pid = pid ∧ it.stake = st ∧ it.cpl = cpl ∧ it.progress = 0
    ∧ cplBlocks t k = false
    ∧ ((payload (hwRead s2 (movAg k) (rd s2 (.mov k) F.mov_SUBMIT_Q)).2 pid).length = 64 → it.st = .waiting
        ∧ it.desc = descOf (payload (hwRead s2 (movAg k) (rd s2 (.mov k) F.mov_SUBMIT_Q)).2 pid))

/-- COPY of one row between two tiles moves exactly its bytes (R218); SKEW and XPOSE in one pass read their rows and then write
their lines or columns (R219, R220); a descriptor that a start condition of R216 turns away ends with that status, one whose slots
are still read or zeroed waits (R104, R216), and one that starts claims its slots and runs (R216, R222). The model's own choices,
no rule of the spec: log entries 101, 102, 103. -/
def Obligations.MoverOperations : Prop :=
  (∀ (k e p : Nat) (it : MovItem) (x y : Tile) (s : State), k < 1024 → e < 64 → s.stage ≠ .tripped → quiesced s (.mov k) = false →
    heldQuiesced s (.mov k) = false → (mov s k).items = [it] → it.st = .running e → it.progress = 0 → it.desc.op = 1 →
    it.desc.sx = false → it.desc.dx = false → it.desc.rows = 1 → 0 < it.desc.rowBytes →
    it.desc.rowBytes ≤ 1024 * 2 ^ it.cfg.chunk → it.cfg.cls ≠ 1 → it.desc.src % 65536 + it.desc.rowBytes ≤ 65536 →
    it.desc.dst % 65536 + it.desc.rowBytes ≤ 65536 → it.desc.src < tieredEnd → it.desc.dst < tieredEnd →
    ownerOf s (.mov k) = p → tileOf s p (it.desc.src / 65536) = some x → x.tier = 1 → x.lost = false →
    rd s (.dst x.unit) F.INJ_ARM = 0 → badLine s p it.desc.src it.desc.rowBytes = false →
    tileOf s p (it.desc.dst / 65536) = some y → y.lost = false → y.stuck = false → y.migrating = false → y.tier ≠ 3 →
    migOf s p (it.desc.dst / 65536) = none → mergeError s p it.desc.dst it.desc.rowBytes = false →
    (merges it.desc.dst it.desc.rowBytes = true → rd s (tierPage y.tier y.unit) F.INJ_ARM = 0) →
    (it.slots ++ it.reads).all (slotServed s) = true → it.kept = [] →
    CompletesMem (.copy k e) s (fun t =>
      (ptn t p).mem = storeBytes (ptn s p).mem it.desc.dst (loadBytes (ptn s p).mem it.desc.src it.desc.rowBytes)
      ∧ (∃ m, movItem t k it.pid = some { it with progress := it.desc.rowBytes, kept := m })
      ∧ (∀ q, q ≠ p → ptn t q = ptn s q)))
  ∧ (∀ (k e : Nat) (it : MovItem) (b b2 : List Byte) (w : SkewWin) (s s1 s2 : State), k < 1024 → e < 64 → s.stage ≠ .tripped →
    quiesced s (.mov k) = false → heldQuiesced s (.mov k) = false → (mov s k).items = [it] → it.st = .running e →
    it.progress = 0 → it.desc.op = 2 → 0 < it.desc.rows → (it.slots ++ it.reads).all (slotServed s) = true →
    skewRows it.desc (1024 * 2 ^ it.cfg.chunk) 0 = it.desc.rows →
    readRows k (e / 16) it it.desc.rows 0 { rows := [], scales := [] } s = ((.ok b, w), s1) →
    writeLines k it w (it.desc.rows + it.desc.lanes - 1) 0 s1 = (.ok b2, s2) →
    exec (.skew k e) s = .next (condemnDue (setItem s2 k { it with progress := it.desc.rows })))
  ∧ (∀ (k e n : Nat) (it : MovItem) (m b : List Byte) (s s1 s2 : State), k < 1024 → e < 64 → s.stage ≠ .tripped →
    quiesced s (.mov k) = false → heldQuiesced s (.mov k) = false → (mov s k).items = [it] → it.st = .running e →
    it.progress = 0 → it.desc.op = 3 → 0 < it.desc.total → (it.slots ++ it.reads).all (slotServed s) = true → it.buf = none →
    readMatrix k (e / 16) it (it.desc.rows * it.desc.rowBytes) 0 s = (.ok m, s1) →
    makeWrites k (e / 16) it (xposeWrites it.desc m) 0 s1 = ((.ok b, n), s2) →
    exec (.xpose k e) s = .next (condemnDue (setItem s2 k { it with progress := it.desc.total, buf := none })))
  ∧ (∀ (k e : Nat) (it : MovItem) (s : State), k < 1024 → e < 64 → s.stage ≠ .tripped → quiesced s (.mov k) = false →
    heldQuiesced s (.mov k) = false → (mov s k).items = [it] → it.st = .waiting → 0 < it.cfg.conc → engineBusy s e = false →
    engineServes s e it.cfg.cls = true →
    ∀ c ∈ [(Instr.copy k e, 1), (.skew k e, 2), (.xpose k e, 3)], it.desc.op = c.2 →
      (∀ st, startCheck s k it = .fail st → exec c.1 s = .next (condemnDue (finishItem s k it st)))
      ∧ (startCheck s k it = .held → exec c.1 s = .next (condemnDue s)) ∧ (∀ w r, startCheck s k it = .go w r → engineNear (w ++ r) e = true → exec c.1 s =
          .next (condemnDue (runItem (setItem (w.foldl (fun s x => setStn s x.1 (setSlot (stn s x.1) x.2 1)) s) k
            { it with st := .running e, slots := w, reads := r }) k it.pid e))))

/-- MOVER_ACCEPT, and CPL_RESERVE_RETRY of a channel whose CPL_BLOCKED is set (R210); a channel that nothing owns accepts nothing
and shows its error (R249). DESCRIPTOR_COMPLETE ends a descriptor whose work is done, and its item leaves the channel (R233).
INV_GO and INVALIDATION_DONE drop the context's cached entries and report it (R230). RESUME saves the stopped descriptor to be run
again, ABORT and an expired FAULT_TIMEOUT end it with TRANSLATION_FAULT (0x03); the record shows the outcome and is no longer
valid (R236, R237). A command with nothing shown sets BAD_CMD; a timeout that is not due does nothing. The model's own choices, no
rule of the spec: log entries 103, 104. -/
def Obligations.MoverChannels : Prop :=
  ((∀ (k pid st cpl : Nat) (s s1 s2 : State), AcceptReady k pid st cpl s s1 s2 →
    CompletesMem (.moverAccept k) s (Accepted k pid st cpl s2)
    ∧ (cplBlocks s k = true → CompletesMem (.cplReserveRetry k) s (Accepted k pid st cpl s2)))
  ∧ (∀ (k : Nat) (s : State), k < 1024 → s.stage ≠ .tripped →
    (ownerOf s (.mov k) = 0xFF → exec (.moverAccept k) s = .next (condemnDue s) ∧ bitAt (errStatus s (.mov k)) 19 = true)
    ∧ (cplBlocks s k = false → exec (.cplReserveRetry k) s = .next (condemnDue s)))
  ∧ (∀ (k e : Nat) (it : MovItem) (s : State), k < 1024 → s.stage ≠ .tripped → (mov s k).items = [it] → it.st = .running e →
    it.slots = [] → it.reads = [] → (mov s k).shown = none →
    (it.desc.total ≤ it.progress → Completes (.descriptorComplete k) s (fun t => (mov t k).items = []
      ∧ (∀ j, j ≠ k → mov t j = mov s j)))
    ∧ (it.progress < it.desc.total → exec (.descriptorComplete k) s = .next s))
  ∧ (∀ (f : Func) (k : Nat) (s : State), f.ok = true → k < 1024 → reach s f (.mov k) = true →
    Completes (.invGo f k) s (fun t => rd t (.mov k) F.mov_INV_DONE = 0 ∧ (mov t k).inv = true
      ∧ ∀ x, x ∈ t.xlate ↔ x ∈ s.xlate ∧ ¬ (x.ptn = ownerOf s (.mov k) ∧ x.root = ef s (.mov k) F.mov_CTX_ROOT
        ∧ (rd s (.mov k) F.mov_INV_TILES = 0
          ∨ xCovers x (rd s (.mov k) F.mov_INV_BASE) (65536 * rd s (.mov k) F.mov_INV_TILES) = true))))
  ∧ (∀ (k : Nat) (s : State), k < 1024 → s.stage ≠ .tripped →
    ((mov s k).inv = true → Completes (.invalidationDone k) s (fun t => rd t (.mov k) F.mov_INV_DONE = 1
      ∧ bitAt (rd t (.mov k) F.EVT_STATUS) 17 = true ∧ (mov t k).inv = false ∧ t.xlate = s.xlate))
    ∧ ((mov s k).inv = false → exec (.invalidationDone k) s = .next s)))
  ∧ ((∀ (f : Func) (k : Nat) (it : MovItem) (s : State), f.ok = true → k < 1024 → reach s f (.mov k) = true →
    (mov s k).shown = some it.pid → movItem s k it.pid = some it → it.st = .stopped → stoppedItems s k = [it] →
    Completes (.fltCmdResume f k) s (fun t => movItem t k it.pid = some { it with st := .yielded 2, buf := none } ∧ (mov t k).shown = none
      ∧ rd t (.mov k) F.mov_FLT_VALID = 0 ∧ rd t (.mov k) F.mov_FLT_OUTCOME = 1 ∧ rd t (.mov k) F.mov_FLT_PENDING = 0))
  ∧ (∀ (f : Func) (k : Nat) (it : MovItem) (s : State), f.ok = true → k < 1024 → reach s f (.mov k) = true →
    (mov s k).shown = some it.pid → movItem s k it.pid = some it → it.st = .stopped → stoppedItems s k = [it] → it.slots = [] →
    Completes (.fltCmdAbort f k) s (fun t => (∃ y, movItem t k it.pid = some y ∧ y.st = .finished 0x03) ∧ (mov t k).shown = none
      ∧ rd t (.mov k) F.mov_FLT_VALID = 0 ∧ rd t (.mov k) F.mov_FLT_OUTCOME = 2 ∧ rd t (.mov k) F.mov_FLT_PENDING = 0))
  ∧ (∀ (k d : Nat) (it : MovItem) (s : State), k < 1024 → s.stage ≠ .tripped → (mov s k).fltDeadline = some d → d ≤ s.mer.frc →
    (mov s k).shown = some it.pid → movItem s k it.pid = some it → it.st = .stopped → stoppedItems s k = [it] → it.slots = [] →
    Completes (.faultTimeout k) s (fun t => (∃ y, movItem t k it.pid = some y ∧ y.st = .finished 0x03) ∧ (mov t k).shown = none
      ∧ rd t (.mov k) F.mov_FLT_VALID = 0 ∧ rd t (.mov k) F.mov_FLT_OUTCOME = 3 ∧ rd t (.mov k) F.mov_FLT_PENDING = 0))
  ∧ (∀ (k d : Nat) (s : State), k < 1024 → s.stage ≠ .tripped → (mov s k).fltDeadline = some d → s.mer.frc < d →
    exec (.faultTimeout k) s = .next s)
  ∧ (∀ (f : Func) (k : Nat) (s : State), f.ok = true → k < 1024 → reach s f (.mov k) = true → (mov s k).shown = none →
    exec (.fltCmdResume f k) s = .next (setErr s (.mov k) 17) ∧ exec (.fltCmdAbort f k) s = .next (setErr s (.mov k) 17)))

/-! ### The parcel queues (R250 to R279) -/

/-- Function `f` reaches the group page of queue `q`, and the queue is on: enabled and not aborted. -/
abbrev QueueReached (s : State) (f : Func) (q : Nat) : Prop :=
  f.ok = true ∧ q < 16384 ∧ reach s f (.pq (q / 16)) = true ∧ queueStop s q = none

/-- RESERVE links an uncommitted parcel at the tail of its list and gives its handle, or says NO_SPACE (R256); COMMIT writes the
length and frees the surplus cells, or withdraws the parcel (R258); READ delivers the next parcel, or says EMPTY (R260); a
hardware unit's parcel is linked at HW_PRIO with its owner and stake (R259, R615), and granted or handed over instead. The model's
own choices, no rule of the spec: log entries 17, 129. -/
def Obligations.ReserveCommitRead : Prop :=
  (∀ (f : Func) (q n prio : Nat) (s : State), QueueReached s f q → prio < 8 → reserveTest s q n = none → (queue s q).line = [] →
    (pqAdmit s q (cellsFor n) = true →
      Completes (.reserve (.page f) q n prio) s (fun t => rd t (.pq (q / 16)) F.pq_OP_STATUS = 0x00
        ∧ ((queue t q).list prio).items = ((queue s q).list prio).items ++ [s.pool.nextId]
        ∧ ∃ x, parcelOf t s.pool.nextId = some x ∧ x.q = q ∧ x.prio = prio ∧ x.n = n ∧ x.committed = false ∧ x.delivered = false
          ∧ x.cells.length = cellsFor n ∧ x.srcPtn = funcSrc s f ∧ rd t (.pq (q / 16)) F.pq_OP_OUT = handleOf x % 2 ^ 32))
    ∧ (pqAdmit s q (cellsFor n) = false →
      Completes (.reserve (.page f) q n prio) s (fun t => rd t (.pq (q / 16)) F.pq_OP_STATUS = 0x80 ∧ t.pool = s.pool
        ∧ bitAt (rd t (.pq (q / 16)) F.ERR_STATUS) 16 = true)))
  ∧ (∀ (a : Agent) (q n prio : Nat) (s : State), a.ok = true → q < 16384 → prio < 8 → s.stage ≠ .tripped → agentOwns s a q = true →
    reserveTest s q n = none → (queue s q).line = [] → pqAdmit s q (cellsFor n) = true →
    Completes (.reserve (.hw a true) q n prio) s (fun t => t.pool.granted = s.pool.granted ++ [(a, 0, s.pool.nextId)]
      ∧ ((queue t q).list (qf s q F.pq_HW_PRIO)).items = ((queue s q).list (qf s q F.pq_HW_PRIO)).items ++ [s.pool.nextId]
      ∧ ∃ x, parcelOf t s.pool.nextId = some x ∧ x.srcPtn = agentSrc s a q ∧ x.srcStake = agentStake s a))
  ∧ (∀ (f : Func) (q h len pid : Nat) (x : Parcel) (s : State), QueueReached s f q → byHandle s h = some (pid, x) →
    parcelOf s pid = some x → x.q = q → x.committed = false → len ≤ x.n → (queue s q).stalls = [] → (queue s q).line = [] →
    (0 < len → Completes (.commit (.page f) (q / 16) h len) s (fun t => rd t (.pq (q / 16)) F.pq_OP_STATUS = 0x00
      ∧ parcelOf t pid = some { x with len := len, committed := true, since := s.mer.frc, cells := x.cells.take (cellsFor len) }
      ∧ t.pool.zeroing = s.pool.zeroing ++ x.cells.drop (cellsFor len)))
    ∧ (len = 0 → Completes (.commit (.page f) (q / 16) h len) s (fun t => rd t (.pq (q / 16)) F.pq_OP_STATUS = 0x00
      ∧ parcelOf t pid = none ∧ t.pool.zeroing = s.pool.zeroing ++ x.cells)))
  ∧ (∀ (f : Func) (q : Nat) (s : State), QueueReached s f q → quiesced s (.pq (q / 16)) = false →
    (nextDeliverable s q = none → exec (.read (.page f) q) s = .next (wr s (.pq (q / 16)) F.pq_OP_STATUS 0x84))
    ∧ (∀ l pid x, nextDeliverable s q = some (l, pid) → parcelOf s pid = some x →
        Completes (.read (.page f) q) s (fun t => rd t (.pq (q / 16)) F.pq_OP_STATUS = 0x00
          ∧ rd t (.pq (q / 16)) F.pq_OP_OUT = handleOf x % 2 ^ 32 ∧ rd t (.pq (q / 16)) F.pq_OP_LEN = x.len % 2 ^ 16
          ∧ rd t (.pq (q / 16)) F.pq_OP_REDELIV = ofBool (x.redelivered || x.delivered)
          ∧ ((queue t q).list l).read = ((queue s q).list l).read + 1
          ∧ parcelOf t pid = some { x with delivered := true, redelivered := x.redelivered || x.delivered })))
  ∧ (∀ (a : Agent) (w : Bool) (q pid : Nat) (s s1 : State), a.ok = true → q < 16384 → s.stage ≠ .tripped →
    agentOwns s a q = true → hwRead s a q = (.parcel pid, s1) →
    exec (.read (.hw a w) q) s =
      .next { s1 with pool := { s1.pool with inbox := s1.pool.inbox ++ [(a, q, pid)] } })

/-- MARK and REWIND move MARK and READ of every list, RELEASE frees every delivered parcel, and RELEASE_H the one that its handle
names, or says BAD_HANDLE where that parcel is not delivered (R262); with the queue off each says QUEUE_OFF and changes no list.
The model's own choices, no rule of the spec: log entry 129. -/
def Obligations.MarkRewindRelease : Prop :=
  (∀ (f : Func) (q : Nat) (s : State), QueueReached s f q → mapWf PList.empty (queue s q).lists = true →
    Completes (.mark (.page f) q) s (fun t => rd t (.pq (q / 16)) F.pq_OP_STATUS = 0x00
      ∧ ∀ l, (queue t q).list l = { (queue s q).list l with mark := ((queue s q).list l).read }))
  ∧ (∀ (f : Func) (q : Nat) (s : State), QueueReached s f q → mapWf PList.empty (queue s q).lists = true →
    (queue s q).stalls = [] →
    Completes (.rewind (.page f) q) s (fun t => rd t (.pq (q / 16)) F.pq_OP_STATUS = 0x00
      ∧ ∀ l, (queue t q).list l = { (queue s q).list l with read := ((queue s q).list l).mark }))
  ∧ (∀ (f : Func) (q pid : Nat) (x : Parcel) (s : State), QueueReached s f q →
    (queue s q).lists.flatMap (fun e => e.2.items.take e.2.read) = [pid] → parcelOf s pid = some x →
    Completes (.release (.page f) q) s (fun t => rd t (.pq (q / 16)) F.pq_OP_STATUS = 0x00 ∧ parcelOf t pid = none
      ∧ t.pool.zeroing = s.pool.zeroing ++ x.cells ∧ ∀ k, k ≠ pid → parcelOf t k = parcelOf s k))
  ∧ (∀ (f : Func) (q h pid : Nat) (x : Parcel) (s : State), QueueReached s f q → byHandle s h = some (pid, x) →
    parcelOf s pid = some x → x.q = q →
    (x.delivered = true → Completes (.releaseH (.page f) (q / 16) h) s (fun t => rd t (.pq (q / 16)) F.pq_OP_STATUS = 0x00
      ∧ parcelOf t pid = none ∧ t.pool.zeroing = s.pool.zeroing ++ x.cells ∧ ∀ k, k ≠ pid → parcelOf t k = parcelOf s k))
    ∧ (x.delivered = false → Completes (.releaseH (.page f) (q / 16) h) s (fun t =>
      rd t (.pq (q / 16)) F.pq_OP_STATUS = 0x81 ∧ t.pool = s.pool)))
  ∧ (∀ (f : Func) (q : Nat) (s : State), f.ok = true → q < 16384 → reach s f (.pq (q / 16)) = true → qf s q F.pq_ENABLE = 0 →
    ∀ c ∈ [Instr.mark (.page f) q, .rewind (.page f) q, .release (.page f) q, .read (.page f) q],
      Completes c s (fun t => rd t (.pq (q / 16)) F.pq_OP_STATUS = 0x85 ∧ t.pool = s.pool))

/-- ABORT ends every stalled operation with ABORTED (0x0A) and leaves the queue aborted and empty, CLEAR takes it back (R269);
ENABLE cleared ends them with QUEUE_OFF (0x85), ENABLE set places READ and MARK at HEAD (R262); a read stalled past its WAIT_LIMIT
ends with EMPTY (R261); freed cells leave the zeroing list oldest first (R252); the data window reads and writes the payload of
the parcel that WIN_HANDLE names (R275). The model's own choices, no rule of the spec: log entries 20, 129. -/
def Obligations.QueueControl : Prop :=
  (∀ (f : Func) (q : Nat) (s : State), f.ok = true → q < 16384 → reach s f (.pq (q / 16)) = true →
    Completes (.abort f q) s (fun t => (queue t q).aborted = true ∧ (queue t q).lists = [] ∧ (queue t q).stalls = []
      ∧ (queue t q).line = []
      ∧ t.pool.ended = s.pool.ended ++ ((queue s q).stalls.map (fun st => (st.agent, readToken q, 0x0A))
          ++ ((queue s q).line.filter (fun w => w.owed.isNone && !cplWait w)).map (fun w => (w.agent, w.token, 0x0A)))))
  ∧ (∀ (f : Func) (q : Nat) (s : State), f.ok = true → q < 16384 → reach s f (.pq (q / 16)) = true →
    exec (.clear f q) s = .next (if (queue s q).aborted then setQueue s q { queue s q with lists := [], aborted := false } else s))
  ∧ (∀ (f : Func) (q : Nat) (s : State), f.ok = true → q < 16384 → reach s f (.pq (q / 16)) = true →
    quiesced s (.pq (q / 16)) = true → qf s q F.pq_ENABLE = 1 → (∀ w ∈ (queue s q).line, w.owed = none) →
    Completes (.queueEnable f q false) s (fun t => qf t q F.pq_ENABLE = 0 ∧ (queue t q).stalls = [] ∧ (queue t q).line = []
      ∧ (queue t q).lists = (queue s q).lists
      ∧ t.pool.ended = s.pool.ended ++ ((queue s q).stalls.map (fun st => (st.agent, readToken q, 0x85))
          ++ ((queue s q).line.filter (fun w => w.owed.isNone && !cplWait w)).map (fun w => (w.agent, w.token, 0x85)))))
  ∧ (∀ (f : Func) (q : Nat) (s : State), f.ok = true → q < 16384 → reach s f (.pq (q / 16)) = true →
    quiesced s (.pq (q / 16)) = true → qf s q F.pq_ENABLE = 0 → (queue s q).stalls = [] →
    Completes (.queueEnable f q true) s (fun t => qf t q F.pq_ENABLE = 1
      ∧ ∀ l, ((queue t q).list l).read = 0 ∧ ((queue t q).list l).mark = 0
        ∧ ((queue t q).list l).items = ((queue s q).list l).items))
  ∧ (∀ (q : Nat) (s : State), q < 16384 → s.stage ≠ .tripped →
    Completes (.waitLimitExpiry q) s (fun t =>
      (nextDeliverable s q = none → (queue t q).stalls = (queue s q).stalls.filter (fun st => !st.due s.mer.frc)
        ∧ (queue t q).lists = (queue s q).lists)
      ∧ (queue t q).line = (queue s q).line
      ∧ t.pool.ended = s.pool.ended
          ++ ((queue s q).stalls.filter (fun st => st.due s.mer.frc)).map (fun st => (st.agent, readToken q, 0x84))))
  ∧ (∀ (n : Nat) (s : State), s.stage ≠ .tripped → (∀ e ∈ s.pool.queues, e.2.line = []) →
    exec (.cellsFreed n) s = .next (wipeAll { s with pool := { s.pool with zeroing := s.pool.zeroing.drop n } }
      (fun w => { w with cells := w.cells.filter (fun c => !(s.pool.zeroing.take n).contains c) })))
  ∧ (∀ (f : Func) (g off n pid : Nat) (x : Parcel) (s : State), f.ok = true → g < 1024 → off < 4096 → s.stage ≠ .tripped →
    reachWindow s f (.pq g) (0x0440_0000 + 0x1000 * g) = true → aligned off n = true →
    windowParcel s g = some (pid, x) →
    (rd s (.pq g) F.pq_WIN_OFF + off + n ≤ (if x.committed then x.len else x.n) →
      exec (.dataWindowAccess f g off (.read n)) s =
        .next (emit s (.readData (loadBytes x.data (rd s (.pq g) F.pq_WIN_OFF + off) n))))
    ∧ (∀ d : List Byte, d.length = n → x.committed = false → rd s (.pq g) F.pq_WIN_OFF + off + n ≤ x.n →
      exec (.dataWindowAccess f g off (.write d)) s = .next (writePayload s pid (rd s (.pq g) F.pq_WIN_OFF + off) d))
    ∧ (∀ d : List Byte, d.length = n → x.committed = true →
      exec (.dataWindowAccess f g off (.write d)) s = .next (setErr s (.pq g) 17)))

/-! ### Meridian (R280 to R305) -/

/-- A time-domain reset is a cold device reset or a write of 1 to TDR (R290); after it T is 0, TIME_VALID is clear and STEP_USED
is clear (R284). -/
def Obligations.TimeDomainReset : Prop :=
  (∀ (f : Func) (s : State), f.ok = true → reach s f .mer = true → quiesced s .mer = true →
    Completes (.tdr f) s (fun t => timeNow t = 0 ∧ t.mer.timeValid = false ∧ t.mer.stepUsed = false ∧ merRate t = 0
      ∧ t.mer.rem = 0 ∧ t.mer.frc = s.mer.frc ∧ t.mer.locked = s.mer.locked ∧ t.mer.tsq = s.mer.tsq
      ∧ ∀ k, k < 64 → trgArmed t k = false ∧ mapFind t.mer.fireAt k = none))
  ∧ (∀ (cause : Nat) (env : BootEnv) (s : State), (cause = 0 ∧ resetOpen s = true) ∨ cause = 3 ∨ cause = 4 ∨ cause = 5 →
    Completes (.coldDeviceReset cause env) s (fun t => timeNow t = 0 ∧ t.mer.timeValid = false ∧ t.mer.stepUsed = false))
  ∧ (∀ s : State, Completes .pwrokDeassert s (fun t => timeNow t = 0 ∧ t.mer.timeValid = false ∧ t.mer.stepUsed = false))

/-- SOURCE_LOST and RELOCK (R281); STEP_GO sets Meridian time at tick STEP_AT, once (R285); RATE_WRITE changes the rate and not
the time, ADJ_WRITE the remaining adjustment, each within its range (R282, R286, R287); with no command waiting a step is one
tick, by which time follows the rate and the adjustment. The model's own choices, no rule of the spec: log entries 2, 15, 70. -/
def Obligations.MeridianTime : Prop :=
  (∀ s : State,
    (s.mer.locked = true → Completes .sourceLost s (fun t =>
      t.mer.locked = false ∧ t.mer.holdover = true ∧ bitAt (rd t .mer F.EVT_STATUS) 17 = true
      ∧ rd t .mer F.mer_LOCK_LOSSES = satTo (2 ^ 32 - 1) (rd s .mer F.mer_LOCK_LOSSES + 1) ∧ timeNow t = timeNow s))
    ∧ (s.mer.locked = false → exec .sourceLost s = .next s ∧ Completes .relock s (fun t =>
      t.mer.locked = true ∧ t.mer.holdover = false ∧ bitAt (rd t .mer F.EVT_STATUS) 18 = true ∧ timeNow t = timeNow s))
    ∧ (s.mer.locked = true → exec .relock s = .next s))
  ∧ (∀ (f : Func) (s : State), f.ok = true → reach s f .mer = true →
    (stepRefused s = true → exec (.stepGo f) s = .next (setErr s .mer 16))
    ∧ (stepRefused s = false → Completes (.stepGo f) s (fun t =>
      timeAt t (rd s .mer F.mer_STEP_AT) = ((rd s .mer F.mer_STEP_SEC * 1000000000 + rd s .mer F.mer_STEP_NS) * 2 ^ 48 : Nat)
      ∧ t.mer.timeValid = true ∧ t.mer.stepUsed = true ∧ bitAt (rd t .mer F.EVT_STATUS) 16 = true ∧ t.mer.frc = s.mer.frc)))
  ∧ (∀ (f : Func) (v : Nat) (s : State), f.ok = true → v < 2 ^ 64 → reach s f .mer = true →
    (2 ^ 36 < (signed 64 v).natAbs → exec (.rateWrite f v) s = .next (setErr s .mer 17))
    ∧ ((signed 64 v).natAbs ≤ 2 ^ 36 → Completes (.rateWrite f v) s (fun t =>
      merRate t = signed 64 v ∧ timeNow t = timeNow s ∧ (s.mer.stepUsed = true → ∀ n : Int,
        timeAt t (s.mer.frc + n) = timeNow s + n * (2 ^ 48 + signed 64 v))))
    ∧ (2 ^ 52 < (s.mer.rem + signed 64 v).natAbs → exec (.adjWrite f v) s = .next (setErr s .mer 17))
    ∧ ((s.mer.rem + signed 64 v).natAbs ≤ 2 ^ 52 →
      exec (.adjWrite f v) s = .next { s with mer := { s.mer with rem := s.mer.rem + signed 64 v } }))
  ∧ (∀ s : State, s.pending = [] → s.mer.frc + 1 < 2 ^ 64 → ∃ t, step s = .next t ∧ Keeps [.mer] s t
    ∧ t.mer = { s.mer with frc := s.mer.frc + 1, slewed := t.mer.slewed, rem := t.mer.rem, ppsSec := t.mer.ppsSec, ppsDue := t.mer.ppsDue }
    ∧ t.mer.ppsDue = decide (s.mer.ppsSec < ppsSecond t) ∧ t.mer.ppsSec = max s.mer.ppsSec (ppsSecond t)
    ∧ (s.mer.stepUsed = true → 0 ≤ s.mer.rem →
      t.mer.rem = s.mer.rem - min s.mer.rem (2 ^ 22)
      ∧ timeNow t = timeNow s + (2 ^ 48 + merRate s) + min s.mer.rem (2 ^ 22) * 2 ^ 16)
    ∧ (s.mer.stepUsed = true → s.mer.rem < 0 →
      t.mer.rem = s.mer.rem + min (-s.mer.rem) (2 ^ 22)
      ∧ timeNow t = timeNow s + (2 ^ 48 + merRate s) - min (-s.mer.rem) (2 ^ 22) * 2 ^ 16))

/-- NOW_NSF_READ latches the tick's seconds (R289); TSQ_POP takes the oldest stamp, or returns nothing and keeps TSQ_POP_T (R295);
PPS_IN_EDGE stores the time, PPS_OUT_PULSE pulses once at each whole second that a tick reaches while time is valid (R293). The
model's own choices, no rule of the spec: log entries 16, 69. -/
def Obligations.MeridianReadsAndPins : Prop :=
  (∀ (f : Func) (s : State), f.ok = true → reach s f .mer = true →
    Completes (.nowNsfRead f) s (fun t => rd t .mer F.mer_NOW_SEC = secondsForm (timeNow s)
      ∧ t.emitted = s.emitted ++ [.readData (natLE 4 (fracForm (timeNow s)) ++ natLE 4 (nanosForm (timeNow s)))]))
  ∧ (∀ (f : Func) (q : Nat) (s : State), f.ok = true → reach s f .mer = true → rd s .mer F.mer_TSQ_SEL = q → q < 40 →
    (mapGet [] s.mer.tsq q = [] → Completes (.tsqPop f) s (fun t => rd t .mer F.mer_TSQ_POP_VALID = 0
      ∧ rd t .mer F.mer_TSQ_POP_ID = 0 ∧ rd t .mer F.mer_TSQ_POP_LEFT = 0 ∧ rd t .mer F.mer_TSQ_POP_FRAC = 0
      ∧ rd t .mer F.mer_TSQ_POP_T = rd s .mer F.mer_TSQ_POP_T ∧ t.mer = s.mer))
    ∧ (∀ e rest, mapGet [] s.mer.tsq q = e :: rest → Completes (.tsqPop f) s (fun t => rd t .mer F.mer_TSQ_POP_VALID = 1
      ∧ rd t .mer F.mer_TSQ_POP_ID = e.id % 2 ^ 16 ∧ rd t .mer F.mer_TSQ_POP_LEFT = rest.length % 2 ^ 5
      ∧ rd t .mer F.mer_TSQ_POP_FRAC = e.frac % 2 ^ 32 ∧ rd t .mer F.mer_TSQ_POP_T = e.lin % 2 ^ 64
      ∧ mapGet [] t.mer.tsq q = rest ∧ ∀ k, k ≠ q → mapGet [] t.mer.tsq k = mapGet [] s.mer.tsq k)))
  ∧ (∀ s : State, (rd s .mer F.mer_PPS_IN_EN = 1 → Completes .ppsInEdge s (fun t =>
      rd t .mer F.mer_PPS_IN_LIN = linForm (compensated s F.mer_X_PPS_IN_COMP)
      ∧ rd t .mer F.mer_PPS_IN_FRAC = fracForm (compensated s F.mer_X_PPS_IN_COMP)
      ∧ bitAt (rd t .mer F.EVT_STATUS) 21 = true))
    ∧ (rd s .mer F.mer_PPS_IN_EN = 0 → exec .ppsInEdge s = .next s)
    ∧ (rd s .mer F.mer_PPS_OUT_EN = 1 → s.mer.timeValid = true → s.mer.ppsDue = true →
      exec .ppsOutPulse s = .next (emit { s with mer := { s.mer with ppsDue := false } } (.pin "1PPS_OUT" true)))
    ∧ (s.mer.timeValid = false ∨ s.mer.ppsDue = false → exec .ppsOutPulse s = .next s))

/-- ARM arms a trigger, or finds it LATE, or is refused (R297 to R299); DISARM before the conversion, and after it (R302);
TRIGGER_CONVERSION computes the fire tick (R299); TRIGGER_FIRE of an EVENT trigger raises it, a one-shot trigger and one that was
disarmed after its conversion stop, and the AT of a periodic one moves on by PERIOD at each firing (R297, R301, R302). The model's
own choices, no rule of the spec: log entry 71. -/
def Obligations.TimeTriggers : Prop :=
  (∀ (f : Func) (k : Nat) (s : State), f.ok = true → k < 64 → reach s f .mer = true →
    (2 ≤ k → k < 8 → exec (.arm f k) s = .next s ∧ exec (.disarm f k) s = .next s)
    ∧ (8 ≤ k → k < 24 → exec (.arm f k) s = .next (setErr s .mer 18) ∧ exec (.disarm f k) s = .next (setErr s .mer 18))
    ∧ (k < 2 ∨ 24 ≤ k → trgArmed s k = false → (k = 0 → platRunning s = false) →
      (armBad s k = true → exec (.arm f k) s = .next (setErr s .mer 19))
      ∧ (armBad s k = false → timeNow s ≤ trgLead s k → Completes (.arm f k) s (fun t => trgArmed t k = true
          ∧ rd t .mer (F.mer_LATE.ix k) = 0 ∧ t.mer = s.mer))
      ∧ (armBad s k = false → trgLead s k < timeNow s → Completes (.arm f k) s (fun t => trgArmed t k = false
          ∧ rd t .mer (F.mer_LATE.ix k) = 1 ∧ bitAt (rd t .mer F.EVT_STATUS) 19 = true ∧ mapFind t.mer.fireAt k = none)))
    ∧ (k < 2 ∨ 24 ≤ k → armBad s k = true → Completes (.arm f k) s (fun t => bitAt (rd t .mer F.ERR_STATUS) 19 = true
        ∧ trgArmed t k = trgArmed s k ∧ t.mer = s.mer))
    ∧ (k < 2 ∨ 24 ≤ k → trgArmed s k = true → mapFind s.mer.fireAt k = none →
      Completes (.disarm f k) s (fun t => trgArmed t k = false))
    ∧ (∀ n, k < 2 ∨ 24 ≤ k → trgArmed s k = true → mapFind s.mer.fireAt k = some n →
      Completes (.disarm f k) s (fun t => trgArmed t k = true ∧ mapFind t.mer.fireAt k = some n
        ∧ mapGet false t.mer.stopAfter k = true ∧ bitAt (rd t .mer F.ERR_STATUS) 18 = true)))
  ∧ (∀ (k : Nat) (s : State), k < 64 → s.stage ≠ .tripped → trgArmed s k = true → mapFind s.mer.fireAt k = none →
    (timeNow s < trgLead s k → exec (.triggerConversion k) s = .next s)
    ∧ (trgLead s k ≤ timeNow s → quiesced s .mer = false → Completes (.triggerConversion k) s (fun t =>
        mapFind t.mer.fireAt k = some (s.mer.frc + ticksUntil s (trgAt s k)) ∧ t.regs = s.regs))
    ∧ (trgLead s k ≤ timeNow s → quiesced s .mer = true → k < 8 ∨ 24 ≤ k →
        exec (.triggerConversion k) s = .next (lateTrigger s k)))
  ∧ (∀ (k n : Nat) (s : State), k < 64 → s.stage ≠ .tripped → mapFind s.mer.fireAt k = some n →
    (s.mer.frc < n → exec (.triggerFire k) s = .next s)
    ∧ (n ≤ s.mer.frc → 56 ≤ k → Completes (.triggerFire k) s (fun t => bitAt (rd t .mer F.EVT_STATUS) (24 + (k - 56)) = true
      ∧ rd t .mer (F.mer_FIRES.ix k) = (rd s .mer (F.mer_FIRES.ix k) + 1) % 2 ^ 16 ∧ mapFind t.mer.fireAt k = none
      ∧ (rd s .mer (F.mer_PERIOD.ix k) = 0 ∨ mapGet false s.mer.stopAfter k = true → trgArmed t k = false)
      ∧ (rd s .mer (F.mer_PERIOD.ix k) ≠ 0 → mapGet false s.mer.stopAfter k = false → trgArmed t k = trgArmed s k)
      ∧ (rd s .mer (F.mer_PERIOD.ix k) ≠ 0 → rd t .mer (F.mer_AT.ix k) = (rd s .mer (F.mer_AT.ix k) + rd s .mer (F.mer_PERIOD.ix k)) % 2 ^ 64))))

/-! ### The plat, the stakes and the power governor (R312 to R351, R607 to R613) -/

/-- ROW_BOUNDARY at the end of a row starts the next row, and after row 159 the next frame (R312, R332); before it, nothing
happens. PLAT_STOPPED clears RUNNING once nothing of the plat is left (R330). A grant for a station that is free becomes its work
item with a stake and the lent job parcel (R319, R334), LENT_JOB_START starts it there, and GRANT_OVERRUN stops what has not ended
by END_OFF (R319). The model's own choices, no rule of the spec: log entries 77, 78. -/
def Obligations.PlatRuns : Prop :=
  (∀ s : State, s.stage ≠ .tripped →
    ((s.mer.frc : Int) < rowEnd s → exec .rowBoundary s = .next s)
    ∧ (platRunning s = true → s.plat.stopping = false → rowEnd s ≤ (s.mer.frc : Int) → s.plat.row ≠ 159 →
      exec .rowBoundary s = .next (rowStart { s with plat := { s.plat with row := s.plat.row + 1, rowStart := (rowEnd s).toNat } }
        (spillStations s (activePattern s) s.plat.row)))
    ∧ (platRunning s = true → s.plat.stopping = false → rowEnd s ≤ (s.mer.frc : Int) → s.plat.row = 159 → s.plat.trim = [] →
      s.plat.stopReq = false →
      exec .rowBoundary s = .next (rowStart (frameStart { s with plat := { s.plat with
          row := 0, frame := s.plat.frame + 1, rowStart := (rowEnd s).toNat } }) (spillStations s (activePattern s) 159)))
    ∧ (platRunning s = true → s.plat.stopping = true → s.plat.items = [] → s.plat.slots = [] →
      exec .platStopped s = .next (applyDue (returnStations (setEvt
        { wr s .plt F.plt_RUNNING 0 with
          plat := { s.plat with stopping := false, admitted := [], sent := [], rtClear := [] }, pwr := { s.pwr with meters := [] } }
        .plt 21) []) true))
    ∧ (s.plat.items ≠ [] → exec .platStopped s = .next s))
  ∧ (∀ (i k : Nat) (g : Grant) (s s2 : State), s.stage ≠ .tripped → platRunning s = true →
    (∀ w ∈ s.plat.items, w.grant ≠ i) →
    s.plat.stopping = false → i ∉ s.plat.sent → i ∈ rowGrants s (activePattern s) s.plat.row → grantOf s (activePattern s) i = g →
    g.kind = 6 → unitUp s g.unit = true → (cellOf s (activePattern s) g.cell).ptn ∉ s.plat.rtClear →
    takeStake (slotBegin s (activePattern s) s.plat.frame g.cell g.slot) lcAcct 3 = some (k, s2) →
    (∀ m, m = g.unit ∨ m = g.unit - 1 → (stn s m).job = none ∧ (stn s m).lentPending = none) →
    Completes (.grantDispatch i) s (fun t => (stn t g.unit).lentPending = some (k, lentParcel g s.plat.frame) ∧ i ∈ t.plat.sent
      ∧ ∃ w ∈ t.plat.items, w.grant = i ∧ w.stake = k ∧ w.frame = s.plat.frame ∧ w.row = s.plat.row
        ∧ w.rowStart = s.plat.rowStart ∧ w.done = none))
  ∧ (∀ (n k p : Nat) (b : List Byte) (w : WorkItem) (g : Grant) (s : State), n < 144 → s.stage ≠ .tripped →
    (stn s n).lentPending = some (k, b) → itemOfStake s k = some w → grantOf s w.pattern w.grant = g → g.kind = 6 → g.unit = n →
    (cellOf s w.pattern g.cell).ptn = p → lentFree s n = true →
    Completes (.lentJobStart n) s (fun t => (stn t n).job = some (lentJob w.grant p w.stake 0 (bits (leAt b 40 2) 0 14))
      ∧ (stn t n).next = bits (leAt b 0 2) 0 11 ∧ (stn t n).lentPtn = some p ∧ (stn t n).lentPending = none
      ∧ ∀ m, m ≠ n → stn t m = stn s m))
  ∧ (∀ (i : Nat) (s : State), s.stage ≠ .tripped →
    ((∀ w ∈ s.plat.items, w.grant = i → s.mer.frc < w.rowStart + (grantOf s w.pattern i).endOff) →
      exec (.grantOverrun i) s = .next s)
    ∧ (∀ w, s.plat.items.find? (fun w => decide (w.grant = i)
        && decide (w.rowStart + (grantOf s w.pattern i).endOff ≤ s.mer.frc)) = some w →
      itemStarted s w (grantOf s w.pattern i) = false →
      exec (.grantOverrun i) s =
        .next (bumpHealth (setEvt (addSat (endWork s w 0x8F false) .plt F.plt_GRANT_OVERRUNS 1) .plt 19) 7 false)))

/-- The pattern images: written while OPEN only (R313); COMMIT starts the validation and its outcome is the first failure in the
order of R325 or COMMITTED (R324, R325); UNCOMMIT, STOP (R330) and TRIM_ARM (R331); a command while BUSY sets CMD_BUSY;
STAKE_QUERY shows the stake (R348). The model's own choices, no rule of the spec: log entries 73, 74, 75, 76. -/
def Obligations.PatternCommands : Prop :=
  (∀ (p o size v : Nat) (s : State), s.stage = .ready → p < 4 → o < 0x100000 → size = 4 ∨ size = 8 → o % size = 0 →
    exec (.patternImageWrite .pf (0x0510_0000 + 0x100000 * p + o) size v) s = .next (if committed s p then setErr s .plt 16
      else { s with plat := { s.plat with images := storeBytes s.plat.images (0x100000 * p + o) (natLE size v) } }))
  ∧ (∀ (p : Nat) (s : State), p < 4 → reach s .pf .plt = true → rd s .plt F.plt_BUSY = 1 →
    ∀ c ∈ [Instr.patternCommit .pf p, .uncommit .pf p, .stop .pf], exec c s = .next (setErr s .plt 18))
  ∧ (∀ (p : Nat) (s : State), p < 4 → reach s .pf .plt = true → rd s .plt F.plt_BUSY = 0 →
    Completes (.patternCommit .pf p) s (fun t => rd t .plt F.plt_BUSY = 1 ∧ rd t .plt F.plt_CMD_PATTERN = p
      ∧ t.plat.cmd = some p ∧ t.plat.committed = s.plat.committed)
    ∧ (committed s p = true → activePattern s ≠ p → ef s .plt F.plt_NEXT_PATTERN ≠ p →
      Completes (.uncommit .pf p) s (fun t => committed t p = false ∧ rd t .plt F.plt_CMD_RESULT = 0
        ∧ ∀ q, q ≠ p → committed t q = committed s q))
    ∧ (committed s p = false ∨ activePattern s = p ∨ ef s .plt F.plt_NEXT_PATTERN = p →
      Completes (.uncommit .pf p) s (fun t => t.plat = s.plat ∧ rd t .plt F.plt_CMD_RESULT = 1))
    ∧ (platRunning s = true → s.plat.stopping = false → Completes (.stop .pf) s (fun t => t.plat.stopReq = true
        ∧ platRunning t = true ∧ rd t .plt F.plt_CMD_RESULT = 0))
    ∧ (platRunning s = false → Completes (.stop .pf) s (fun t => t.plat = s.plat ∧ rd t .plt F.plt_CMD_RESULT = 0)))
  ∧ (∀ (p : Nat) (s : State), s.stage ≠ .tripped → s.plat.cmd = some p →
    (∀ e, commitFail { s with plat := { s.plat with cmd := none } } p = some e → e.1 < 16 → e.2.1 < 256 → e.2.2 < 65536 →
      Completes .commitValidation s (fun t => t.plat.committed = s.plat.committed ∧ rd t .plt F.plt_CMD_RESULT = e.1
        ∧ rd t .plt F.plt_FAIL_ROW = e.2.1 ∧ rd t .plt F.plt_FAIL_INDEX = e.2.2 ∧ rd t .plt F.plt_BUSY = 0
        ∧ bitAt (rd t .plt F.EVT_STATUS) 16 = true))
    ∧ (commitFail { s with plat := { s.plat with cmd := none } } p = none →
      Completes .commitValidation s (fun t => committed t p = true ∧ rd t .plt F.plt_CMD_RESULT = 0 ∧ rd t .plt F.plt_BUSY = 0
        ∧ bitAt (rd t .plt F.EVT_STATUS) 16 = true ∧ ∀ q, q ≠ p → committed t q = committed s q)))
  ∧ (∀ (v : Nat) (s : State), v < 65536 → reach s .pf .plt = true →
    (-1000 ≤ signed 16 v → signed 16 v ≤ 1000 → Completes (.trimArm .pf v) s (fun t => rd t .plt F.plt_TRIM_ARM = 1
      ∧ ∀ fr, fr = (if platRunning s = true then (if s.plat.row = 159 then s.plat.frame + 1 else s.plat.frame) else 0) →
        t.plat.trim = s.plat.trim.filter (fun e => decide (e.1 ≠ fr)) ++ [(fr, signed 16 v)]))
    ∧ (signed 16 v < -1000 ∨ 1000 < signed 16 v → Completes (.trimArm .pf v) s (fun t => t.plat = s.plat
        ∧ bitAt (rd t .plt F.ERR_STATUS) 17 = true ∧ rd t .plt F.plt_TRIM_ARM = rd s .plt F.plt_TRIM_ARM)))
  ∧ (∀ (v : Nat) (k : Stake) (s : State), v < 65536 → reach s .pf .plt = true → mapFind s.plat.stakes v = some k →
    k.state < 4 → k.ptn < 64 → k.kind < 8 →
    Completes (.stakeQuery .pf v) s (fun t => rd t .plt F.plt_STAKE_STATE = k.state ∧ rd t .plt F.plt_STAKE_PTN = k.ptn
      ∧ rd t .plt F.plt_STAKE_KIND = k.kind ∧ t.plat = s.plat))

/-- The governor: a sensor at T_GOV or above steps one level down, at the next boundary while the plat runs and at once while it
does not, and a quiet row leaves the level (R609); the headroom published (R612) and PL_SET, clamped (R613); until PWROK none of
it acts (R605); PWRBRK and T_CRIT go to BE_HOLD at once, with the rails at the fused voltage of the lowest clock point (R604), and
their release only lets it climb (R608, R610); THERMTRIP stops the part (R608). The model's own choices, no rule of the spec: log
entries 79, 80. -/
def Obligations.PowerGovernor : Prop :=
  (∀ (r : RowPower) (ack : Bool) (s : State), s.pwr.pwrok = false → exec (.governorDecision r ack) s = .next s)
  ∧ (∀ (r : RowPower) (ack : Bool) (s : State), s.stage ≠ .tripped → s.pwr.pwrok = true → s.pwr.pending = none →
    (tempOver r 95 90 = true → s.pwr.level < clockPoints s.part.grade → rd s .plt F.plt_RUNNING = 1 →
      Completes (.governorDecision r ack) s (fun t => t.pwr.level = s.pwr.level ∧ t.pwr.pending = some (s.pwr.level + 1, 1)
        ∧ t.pwr.energies = (r.energy :: s.pwr.energies).take 16))
    ∧ (tempOver r 95 90 = true → s.pwr.level < clockPoints s.part.grade → rd s .plt F.plt_RUNNING = 0 →
      Completes (.governorDecision r ack) s (fun t => t.pwr.level = s.pwr.level + 1 ∧ t.pwr.pending = none
        ∧ rd t .pwr F.pwr_STEPS_DOWN = satTo (2 ^ 32 - 1) (rd s .pwr F.pwr_STEPS_DOWN + 1)))
    ∧ (tempOver r 95 90 = false → avgOver (recordRow s r) = false → r.energy ≤ 75 * plEff (recordRow s r) → s.pwr.calm < 159 →
      Completes (.governorDecision r ack) s (fun t => t.pwr.level = s.pwr.level ∧ t.pwr.pending = none
        ∧ t.pwr.rows = s.pwr.rows + 1)))
  ∧ (∀ s : State, s.stage ≠ .tripped →
    (s.pwr.energies = [] → exec .headroomPublish s = .next s)
    ∧ (∀ e l, s.pwr.energies = e :: l → rd s .plt F.plt_RUNNING = 0 → Completes .headroomPublish s (fun t =>
        rd t .pwr F.pwr_HEADROOM_PUB = headroomOf s e (s.pwr.meters.getD 1 0) % 2 ^ 32
        ∧ t.plat.published = some (headroomOf s e (s.pwr.meters.getD 1 0)))))
  ∧ (∀ (v : Nat) (s : State), s.stage = .ready → v < 65536 →
    Completes (.plSetWrite .pf v) s (fun t => rd t .pwr F.pwr_PL_SET =
      (if gradePL s.part.grade < v then gradePL s.part.grade
        else if v < 2 * gradePL s.part.grade / 5 then 2 * gradePL s.part.grade / 5 else v)))
  ∧ (∀ (r : RowPower) (s : State),
    (s.pwr.pwrok = true → Completes .pwrbrk s (fun t =>
      t.pwr = { s.pwr with brake := true, level := clockPoints s.part.grade, pending := none }
      ∧ t.regs = s.regs ∧ t.emitted = s.emitted ++ if railsAt s = clockPoints s.part.grade - 1 then []
        else (List.range 5).map (fun k => .avs k (railVoltage k (clockPoints s.part.grade - 1)))))
    ∧ (s.pwr.pwrok = false → exec .pwrbrk s = .next { s with pwr := { s.pwr with brake := true } })
    ∧ exec .pwrbrkDeassert s = .next { s with pwr := { s.pwr with brake := false } }
    ∧ (s.pwr.pwrok = true → tempOver r 105 100 = true → Completes (.tCrit r) s (fun t => t.pwr.crit = true ∧ t.pwr.level = clockPoints s.part.grade
        ∧ t.pwr.pending = none ∧ t.stage = s.stage))
    ∧ (s.pwr.pwrok = false ∨ tempOver r 105 100 = false → exec (.tCrit r) s = .next s)
    ∧ (s.pwr.crit = true → tempOver r 91 86 = false → Completes (.tCritRelease r) s (fun t => t.pwr.crit = false
        ∧ t.pwr.level = s.pwr.level))
    ∧ (tempOver r 91 86 = true → exec (.tCritRelease r) s = .next s)
    ∧ (tempOver r 115 105 = true → s.stage ≠ .tripped → Completes (.thermtrip r) s (fun t => t.stage = .tripped
        ∧ t.pwr.trip = true ∧ t.emitted = s.emitted ++ [.pin "THERMTRIP#" true]))
    ∧ (tempOver r 115 105 = false → exec (.thermtrip r) s = .next s))

/-! ### The transit engines (R352 to R386) -/

/-- The engine `t` issues slot `k` of the bundle at its PC now, and the slot's word `w` holds operation `op`: an item runs before
its END_OFF (R378), the slots before have issued, no interrupt is to be taken here (R374), and the bundle is legal (R354 to R356). -/
abbrev SlotIssues (s : State) (t k w op : Nat) : Prop :=
  s.stage ≠ .tripped ∧ t < 256 ∧ (ten s t).item.isSome = true ∧ k = (ten s t).slots.length ∧ k < 4
    ∧ s.mer.frc < (ten s t).endTick ∧ boundaryOpen (ten s t) = false
    ∧ (k = 0 → bundleIllegal (ten s t) = false) ∧ w = slotWord (ten s t) (ten s t).pc k ∧ tOp w = op

/-- Branches, RTI and REP set what comes after their bundle (R362, R363, R374), STC and SETIV the interrupt's registers (R372),
SQH a queue handle of the item's partition (R369); an illegal bundle ends the item with 0x90 whatever it holds (R356), and a
bundle of which a slot has faulted ends it when all four have issued (R354). The last slot of a bundle counts the issue, shortens
every distance by one and moves on (R357). The model's own choices, no rule of the spec: log entries 111, 113. -/
def Obligations.TransitControl : Prop :=
  (∀ (t k w : Nat) (s : State),
    (SlotIssues s t k w 0x10 → exec (.br t k) s = .next (slotIssued s t w { ten s t with branch := some (bits w 0 11, 3) }))
    ∧ (SlotIssues s t k w 0x11 → exec (.brz t k) s = .next (slotIssued s t w { ten s t with
        branch := some (if kReg (ten s t) (tA w) = 0 then bits w 0 11 else (ten s t).pc + 3, 3) }))
    ∧ (SlotIssues s t k w 0x12 → exec (.brnz t k) s = .next (slotIssued s t w { ten s t with
        branch := some (if kReg (ten s t) (tA w) = 0 then (ten s t).pc + 3 else bits w 0 11, 3) }))
    ∧ (SlotIssues s t k w 0x14 → exec (.rep t k) s = .next (slotIssued s t w { ten s t with
        rep := some { first := (ten s t).pc + 1, len := bits w 0 4 + 1, left := repCount (ten s t) w } }))
    ∧ (∀ r, SlotIssues s t k w 0x1C → (ten s t).handler = some r →
        exec (.rti t k) s = .next (slotIssued s t w { ten s t with branch := some (r, 3), ret := true }))
    ∧ (SlotIssues s t k w 0x19 → exec (.stc t k) s =
        .next (slotIssued s t w { ten s t with tcmp := some ((ten s t).startTick + kReg (ten s t) (tA w)) }))
    ∧ (SlotIssues s t k w 0x1A → exec (.setiv t k) s = .next (slotIssued s t w { ten s t with
        ivec := bits (kReg (ten s t) (tA w)) 0 11, ie := bits w 0 3, pend := (ten s t).pend &&& bits w 0 3 }))
    ∧ (SlotIssues s t k w 0x18 → qOwner s (bits (kReg (ten s t) (tA w)) 0 14) = (ten s t).ptn →
        exec (.sqh t k) s = .next (slotIssued s t w (if bitAt w 0 = true
          then { ten s t with q3 := some (bits (kReg (ten s t) (tA w)) 0 14) }
          else { ten s t with q2 := some (bits (kReg (ten s t) (tA w)) 0 14) })))
    ∧ (SlotIssues s t k w 0x18 → qOwner s (bits (kReg (ten s t) (tA w)) 0 14) ≠ (ten s t).ptn →
        exec (.sqh t k) s = .next (slotFault (setErr s (.ten t) 16) t w (ten s t) 0x93)))
  ∧ (∀ (t : Nat) (s : State), t < 256 → s.stage ≠ .tripped → (ten s t).item.isSome = true → (ten s t).slots = [] →
    s.mer.frc < (ten s t).endTick → boundaryOpen (ten s t) = false → bundleIllegal (ten s t) = true →
    (∀ c ∈ [Instr.tenNop t 0, .tenSeti t 0, .seth t 0, .tenAddi t 0, .alu t 0, .rdt t 0, .br t 0, .brz t 0, .brnz t 0, .rep t 0,
      .sqh t 0, .stc t 0, .setiv t 0, .rdi t 0, .rti t 0, .tenEnd t 0],
      exec c s = .next (engineFinish (addSat s (.ten t) F.ten_ISSUE_CYC 1) t 0x90 false))
    ∧ (∀ c ∈ [Instr.prd t 0, .pwr t 0],
      exec c s = .next (condemnDue (engineFinish (addSat s (.ten t) F.ten_ISSUE_CYC 1) t 0x90 false))))
  ∧ (∀ (t w c : Nat) (s : State), SlotIssues s t 3 w 0x00 → (ten s t).fault = some c → isMem ((ten s t).slots.getD 1 0) = false →
    exec (.tenNop t 3) s = .next (engineFinish (addSat (setTen s t { ten s t with slots := (ten s t).slots ++ [w] })
      (.ten t) F.ten_ISSUE_CYC 1) t c false))
  ∧ (∀ (t w : Nat) (s : State), SlotIssues s t 3 w 0x00 → (ten s t).fault = none → (ten s t).ending = false →
    (ten s t).branch = none →
    (ten s t).rep = none → isMem ((ten s t).slots.getD 1 0) = false →
    Completes (.tenNop t 3) s (fun s' => (ten s' t).slots = [] ∧ (ten s' t).pc = (ten s t).pc + 1
      ∧ (ten s' t).inflight = ((ten s t).inflight.map (fun p => { p with left := p.left - 1 })).filter (fun p => p.left != 0)
      ∧ rd s' (.ten t) F.ten_ISSUE_CYC = satTo (2 ^ F.ten_ISSUE_CYC.w - 1) (rd s (.ten t) F.ten_ISSUE_CYC + 1)
      ∧ ∀ u, u ≠ t → ten s' u = ten s u))

/-- The scalar operations of slot S put their result in flight with a distance of one bundle (R355, R357), ALU by its ten
functions on 32-bit values. PRD copies the parcel that it got into data memory and returns its length (R370); PWR copies data
memory into the parcel that it was granted and stages it (R371); END lands what is in flight, and its bundle's last slot completes
the item with DONE (R377). The model's own choices, no rule of the spec: log entries 111, 113. -/
def Obligations.TransitScalars : Prop :=
  (∀ (t k w : Nat) (s : State),
    (SlotIssues s t k w 0x00 → exec (.tenNop t k) s = .next (slotIssued s t w (ten s t)))
    ∧ (SlotIssues s t k w 0x01 → exec (.tenSeti t k) s =
        .next (slotIssued s t w (fly (ten s t) 1 (.k (tD w) ((BitVec.ofNat 16 w).signExtend 32).toNat))))
    ∧ (SlotIssues s t k w 0x02 → exec (.seth t k) s =
        .next (slotIssued s t w (fly (ten s t) 1 (.k (tD w) (kReg (ten s t) (tD w) % 65536 + 65536 * bits w 0 16)))))
    ∧ (SlotIssues s t k w 0x03 → exec (.tenAddi t k) s = .next (slotIssued s t w (fly (ten s t) 1
        (.k (tD w) (BitVec.ofNat 32 (kReg (ten s t) (tA w)) + (BitVec.ofNat 12 w).signExtend 32).toNat))))
    ∧ (∀ a b : BitVec 32, SlotIssues s t k w 0x04 → kReg (ten s t) (tA w) = a.toNat → kReg (ten s t) (tB w) = b.toNat →
        ∀ c ∈ [(0, a + b), (1, a - b), (2, a &&& b), (3, a ||| b), (4, a ^^^ b), (5, a <<< (b.toNat % 32)),
          (6, a.sshiftRight (b.toNat % 32)), (7, a >>> (b.toNat % 32)), (8, if a.sle b then a else b),
          (9, if a.sle b then b else a)],
        bits w 0 4 = c.1 → exec (.alu t k) s = .next (slotIssued s t w (fly (ten s t) 1 (.k (tD w) c.2.toNat))))
    ∧ (SlotIssues s t k w 0x05 → exec (.rdt t k) s =
        .next (slotIssued s t w (fly (ten s t) 1 (.k (tD w) ((s.mer.frc + 2 ^ 64 - (ten s t).startTick) % 2 ^ 32)))))
    ∧ (SlotIssues s t k w 0x1B → exec (.rdi t k) s = .next (slotIssued s t w (fly (ten s t) 1 (.k (tD w) (ten s t).icause)))))
  ∧ ((∀ (t k w q pid a n : Nat) (s s1 s2 : State), SlotIssues s t k w 0x20 → handleQ (ten s t) (bits w 0 2) = some q →
    qOwner s q = (ten s t).ptn → (takeEnded s (tenAg t) (readToken q)).1 = none → hwRead s (tenAg t) q = (.parcel pid, s1) → a = kReg (ten s t) (tA w) →
    n = min (payload s1 pid).length (kReg (ten s t) (tB w)) → a + n ≤ 0x40000 →
    (a % 128 = 0 ∧ (a + n) % 128 = 0) ∨ (rd s1 (.ten t) F.INJ_ARM = 0 ∧ sramBad s1 (.ten t) (lineEnds a n) = false) →
    s2 = (if a % 128 = 0 ∧ (a + n) % 128 = 0 then s1 else softRead s1 (.ten t) (lineEnds a n)) →
    exec (.prd t k) s = .next (condemnDue (slotIssued (countWait s2 t) t w (fly (setExps
      (storeDm { ten s t with taken := (ten s t).taken ++ [pid], soft := (ten s2 t).soft } a ((payload s1 pid).take n)) a n (bits w 4 8)) 1
      (.k (tD w) (payload s1 pid).length)))))
  ∧ (∀ (t k w q pid : Nat) (s s1 s2 : State), SlotIssues s t k w 0x21 → handleQ (ten s t) (bits w 0 2) = some q →
    qOwner s q = (ten s t).ptn → (ten s t).staged.length < (ten s t).stageMax → kReg (ten s t) (tA w) + kReg (ten s t) (tB w) ≤ 0x40000 →
    takeGranted s (tenAg t) 1 = (some pid, s1) → rd s (.ten t) F.INJ_ARM = 0 →
    sramBad s (.ten t) [(kReg (ten s t) (tA w), kReg (ten s t) (tB w))] = false →
    s2 = softRead (countWait (setTen s1 t { ten s t with staged := (ten s t).staged ++ [pid] }) t) (.ten t)
      [(kReg (ten s t) (tA w), kReg (ten s t) (tB w))] →
    exec (.pwr t k) s = .next (condemnDue (slotIssued
      (writePayload s2 pid 0 (loadBytes (ten s t).dm (kReg (ten s t) (tA w)) (kReg (ten s t) (tB w))))
      t w { ten s t with staged := (ten s t).staged ++ [pid], soft := (ten s2 t).soft })))
  ∧ (∀ (t k w : Nat) (s : State), SlotIssues s t k w 0x3F →
    exec (.tenEnd t k) s = .next (slotIssued s t w { landAll (ten s t) with ending := true }))
  ∧ (∀ (t w : Nat) (s : State), SlotIssues s t 3 w 0x00 → (ten s t).fault = none → (ten s t).ending = true → isMem ((ten s t).slots.getD 1 0) = false →
    exec (.tenNop t 3) s = .next (engineFinish (addSat (setTen s t { ten s t with slots := (ten s t).slots ++ [w] })
      (.ten t) F.ten_ISSUE_CYC 1) t 0x00 false)))

/-- The engine after a memory operation's INC base is put in flight (R359). -/
def withInc (e : Engine) (w n : Nat) : Engine := if bitAt w 11 = true then fly e 1 (.k (tA w) (kReg e (tA w) + n)) else e

/-- The engine `e` once a read of its data memory has corrected the correctable errors that it met (R200). -/
def softened (s : State) (t : Nat) (rs : List (Nat × Nat)) (e : Engine) : Engine :=
  { e with soft := (ten (softRead s (.ten t) rs) t).soft }

/-- Loads and stores of slots L and M at the address that R359 gives, VMV and VPK (R368), and the accumulations of slot C (R367);
a slot with an address that R359 does not allow faults with 0x92, and one whose result has an exponent out of range with 0x91
(R364). The model's own choices, no rule of the spec: log entries 111, 113. -/
def Obligations.TransitVectors : Prop :=
  (∀ (t k w a n : Nat) (s : State), a = (if bitAt w 11 = true then kReg (ten s t) (tA w) else kReg (ten s t) (tA w) + n) →
    rd s (.ten t) F.INJ_ARM = 0 →
    (n = 4 * bits w 0 11 → a % 4 = 0 → a < 0x40000 →
      (SlotIssues s t k w 0x40 → sramBad s (.ten t) [(a, 4)] = false → exec (.sld t k) s = .next (condemnDue
        (slotIssued (softRead s (.ten t) [(a, 4)]) t w
          (fly (softened s t [(a, 4)] (withInc (ten s t) w n)) 3 (.k (tD w) (leNat (loadBytes (ten s t).dm a 4)))))))
      ∧ (SlotIssues s t k w 0x41 → sramBad s (.ten t) [(a, 4)] = false → exec (.sst t k) s = .next (condemnDue
        (slotIssued (softRead s (.ten t) [(a, 4)]) t w
          (fly (softened s t [(a, 4)] (withInc (ten s t) w n)) 2 (.bytes a (natLE 4 (kReg (ten s t) (tD w))) none))))))
    ∧ (n = 128 * bits w 0 10 → a % 128 = 0 → a < 0x40000 →
      (SlotIssues s t k w 0x42 → sramBad s (.ten t) [(a, 128)] = false → exec (.vld t k) s = .next (condemnDue
        (slotIssued (softRead s (.ten t) [(a, 128)]) t w
          (fly (softened s t [(a, 128)] (withInc (ten s t) w n)) 3 (.v (tD w) (loadVec (ten s t) a))))))
      ∧ (SlotIssues s t k w 0x43 → bitAt w 10 = false → expOk (vReg (ten s t) (tD w)).ev = true → exec (.vst t k) s =
        .next (slotIssued s t w (fly (withInc (ten s t) w n) 2
          (.bytes a (vecBytes (vReg (ten s t) (tD w))) (some (unsigned 8 (vReg (ten s t) (tD w)).ev)))))))
    ∧ (n = 4 * bits w 0 11 → a % 4 ≠ 0 ∨ 0x40000 ≤ a →
      (SlotIssues s t k w 0x40 → exec (.sld t k) s = .next (condemnDue (slotFault s t w (ten s t) 0x92)))
      ∧ (SlotIssues s t k w 0x41 → exec (.sst t k) s = .next (condemnDue (slotFault s t w (ten s t) 0x92))))
    ∧ (n = 128 * bits w 0 10 → a % 128 ≠ 0 ∨ 0x40000 ≤ a →
      (SlotIssues s t k w 0x42 → exec (.vld t k) s = .next (condemnDue (slotFault s t w (ten s t) 0x92)))
      ∧ (SlotIssues s t k w 0x43 → exec (.vst t k) s = .next (slotFault s t w (ten s t) 0x92))))
  ∧ (∀ (t k w : Nat) (r : TVec × Nat) (s : State),
    (SlotIssues s t k w 0x44 → r = moveVec (vReg (ten s t) (tA w)) (bits w 0 2) (kReg (ten s t) (tB w)) →
      exec (.vmv t k) s = .next (if expOk r.1.ev = true
        then slotIssued (addSat s (.ten t) F.ten_SAT_COUNT r.2) t w (fly (ten s t) 2 (.v (tD w) r.1))
        else slotFault s t w (ten s t) 0x91))
    ∧ (SlotIssues s t k w 0x45 → r = packVec (aReg (ten s t) (tA w % 4)) (bitAt w 0) (kReg (ten s t) (tB w)) →
      exec (.vpk t k) s = .next (if expOk r.1.ev = true
        then slotIssued (addSat s (.ten t) F.ten_SAT_COUNT r.2) t w (fly (ten s t) 2 (.v (tD w) r.1))
        else slotFault s t w (ten s t) 0x91))
    ∧ (∀ c ∈ [(Instr.vmac t k, 0x80,
          accumulate (chainVal (ten s t) (tD w % 4)) (bitAt w 0)
            (prodPart (vReg (ten s t) (tA w)) (vReg (ten s t) (tB w)) (bitAt w 1) none)
            ((vReg (ten s t) (tA w)).ev + (vReg (ten s t) (tB w)).ev)),
        (.vmacb t k, 0x81, accumulate (chainVal (ten s t) (tD w % 4)) (bitAt w 0)
            (prodPart (vReg (ten s t) (tA w)) (vReg (ten s t) (tB w)) (bitAt w 1) (some (bits w 2 5)))
            ((vReg (ten s t) (tA w)).ev + (vReg (ten s t) (tB w)).ev)),
        (.vada t k, 0x82, accumulate (chainVal (ten s t) (tD w % 4)) (bitAt w 0)
            (fun i => (if bitAt w 1 = true then -32768 else 32768) * (vReg (ten s t) (tA w)).part i)
            (vReg (ten s t) (tA w)).ev)],
        SlotIssues s t k w c.2.1 → r = c.2.2 → exec c.1 s = .next (if expOk r.1.ev = true
          then slotIssued (addSat s (.ten t) F.ten_SAT_COUNT r.2) t w (fly (ten s t) 4 (.a (tD w % 4) r.1))
          else slotFault s t w (ten s t) 0x91)))

/-- WARN and TICK make their cause pending where it is enabled, and once (R372); INTERRUPT_ENTRY lands what is in flight, saves
the return index and goes to IVEC with the lowest pending cause (R374); ENGINE_ZEROING_DONE frees the engine with its program
(R379); the program window is written while the page is quiesced only (R385). The model's own choices, no rule of the spec: log
entries 111, 112. -/
def Obligations.TransitEvents : Prop :=
  (∀ (t : Nat) (s : State), t < 256 → s.stage ≠ .tripped →
    ((ten s t).item.isSome = true → (ten s t).warned = false → (ten s t).endTick ≤ s.mer.frc + (ten s t).warnTicks →
      Completes (.warn t) s (fun s' => (ten s' t).warned = true
        ∧ bitAt (ten s' t).pend 0 = (bitAt (ten s t).pend 0 || bitAt (ten s t).ie 0)
        ∧ (ten s' t).pc = (ten s t).pc ∧ ∀ u, u ≠ t → ten s' u = ten s u))
    ∧ ((ten s t).warned = true → exec (.warn t) s = .next s)
    ∧ (∀ c, (ten s t).tcmp = some c → (ten s t).item.isSome = true → c ≤ s.mer.frc →
      Completes (.tick t) s (fun s' => (ten s' t).tcmp = none
        ∧ bitAt (ten s' t).pend 1 = (bitAt (ten s t).pend 1 || bitAt (ten s t).ie 1)
        ∧ (ten s' t).pc = (ten s t).pc ∧ ∀ u, u ≠ t → ten s' u = ten s u))
    ∧ ((ten s t).tcmp = none → exec (.tick t) s = .next s)
    ∧ (boundaryOpen (ten s t) = true → s.mer.frc < (ten s t).endTick → Completes (.interruptEntry t) s (fun s' => (ten s' t).handler = some (ten s t).pc
        ∧ (ten s' t).pc = (ten s t).ivec ∧ (ten s' t).icause = 2 ^ firstCause (ten s t) ∧ (ten s' t).inflight = []
        ∧ bitAt (ten s' t).pend (firstCause (ten s t)) = false ∧ (ten s' t).k = (landAll (ten s t)).k
        ∧ (ten s' t).dm = (landAll (ten s t)).dm))
    ∧ (boundaryOpen (ten s t) = false ∨ (ten s t).endTick ≤ s.mer.frc → exec (.interruptEntry t) s = .next s)
    ∧ ((ten s t).zeroing = true → exec (.engineZeroingDone t) s = .next (setTen s t { Engine.idle with prog := (ten s t).prog }))
    ∧ ((ten s t).zeroing = false → exec (.engineZeroingDone t) s = .next s))
  ∧ (∀ (f : Func) (t i v : Nat) (s : State), f.ok = true → t < 256 → i < 4096 → s.stage ≠ .tripped →
    reachWindow s f (.ten t) (pageBase (.ten t) + 0x8000 + i / 512 * 0x1000) = true → unitDown s (.ten t) = false →
    exec (.programWindowWrite f t (8 * i) v) s =
      .next (if quiesced s (.ten t) then setTen s t { ten s t with prog := mapSet 0 (ten s t).prog i (v % 2 ^ 64) }
        else setErr s (.ten t) 0))

/-! ### The coding pool and the field book (R387 to R426) -/

/-- Unit `i` computes job `j`, of operation `op`, now: an item runs, the jobs `pre` before it have their outputs and it has none, and
the unit's memory has no error and no armed fault (R389, R391). -/
abbrev JobComputes (s : State) (i op : Nat) (j : CdJob) (pre rest : List CdJob) : Prop :=
  i < 144 ∧ s.stage ≠ .tripped ∧ (cdu s i).item.isSome = true ∧ (cdu s i).held = pre ++ j :: rest ∧ (∀ x ∈ pre, x.out.isSome = true)
    ∧ j.out = none ∧ jOp j.bytes = op ∧ rd s (.cdu i) F.INJ_ARM = 0 ∧ (cdu s i).bad = false

/-- The job's outputs are ready with its status; no other unit is touched. -/
abbrev JobReady (s : State) (i : Nat) (j : CdJob) (pre rest : List CdJob) (st : Nat) (out : List (List Byte)) (t : State) : Prop :=
  (cdu t i).held = pre ++ { j with out := some out, status := st } :: rest ∧ (∀ k, k ≠ i → cdu t k = cdu s k)

/-- The four NR operations compute the output of R393 from the job's bytes: the header and the decoded or encoded bits (R397 to
R407); an NR job whose HARQ flag names a context out of range ends with FB_RANGE (R394). A fixed-link transmit job turns its
blocks into the four sample parcels of a slot (R419, R421); a receive job with its four sample parcels ends NO_BURST, REJECTED or
decoded, as the trigger and the quality of R422 say; one whose context is out of range ends FB_RANGE (R394). The model's own
choices, no rule of the spec: log entries 9, 23, 24, 25, 26, 27, 28. -/
def Obligations.CodingOperations : Prop :=
  ((∀ (i : Nat) (j : CdJob) (pre rest : List CdJob) (r : List Bool × Nat) (s : State), JobComputes s i 0x01 j pre rest →
    jFlag j.bytes 3 = false →
    r = (jLdpc j.bytes).decode (leAt j.bytes 13 1) (leAt j.bytes 3 1) (jFlag j.bytes 2) (jFlag j.bytes 1)
      ((jLdpc j.bytes).combine (jNcb j.bytes) (jRv j.bytes) (jQm j.bytes) (List.replicate (jNcb j.bytes) 0).toArray
        (llrsOf j.bytes (jE j.bytes))) →
    (jFlag j.bytes 1 = false → CompletesMem (.ldpcDecode i) s (JobReady s i j pre rest 0x00
      [outHeader j.bytes (cdu s i).arg 0x00 r.2 ++ bytesOfBits r.1]))
    ∧ (jFlag j.bytes 1 = true → ∀ st, st = (if crcOk (24, crc24b) r.1 then 0x00 else 0xA0) →
      CompletesMem (.ldpcDecode i) s (JobReady s i j pre rest st
        [outHeader j.bytes (cdu s i).arg st r.2 ++ bytesOfBits (r.1.take (jKp j.bytes - 24))])))
  ∧ (∀ (i : Nat) (j : CdJob) (pre rest : List CdJob) (s : State), jFlag j.bytes 3 = true →
    ef s (.ptn (cdu s i).ptn) F.ptn_FB_COUNT ≤ jCtx j.bytes →
    ∀ c ∈ [(Instr.ldpcDecode i, 0x01), (.ldpcEncode i, 0x02), (.polarDecode i, 0x03), (.polarEncode i, 0x04)],
      JobComputes s i c.2 j pre rest →
      CompletesMem c.1 s (JobReady s i j pre rest 0xA6 [outHeader j.bytes (cdu s i).arg 0xA6 0]))
  ∧ (∀ (i : Nat) (j : CdJob) (pre rest : List CdJob) (s : State), JobComputes s i 0x02 j pre rest → jFlag j.bytes 3 = false →
    CompletesMem (.ldpcEncode i) s (JobReady s i j pre rest 0x00 [outHeader j.bytes (cdu s i).arg 0x00 0
      ++ bytesOfBits ((jLdpc j.bytes).rateMatch (jNcb j.bytes) (jRv j.bytes) (jE j.bytes) (jQm j.bytes)
        ((jLdpc j.bytes).codeword
        (if jFlag j.bytes 1 = true then withCrc (24, crc24b) (bitsOf (j.bytes.drop 32) (jKp j.bytes - 24))
          else bitsOf (j.bytes.drop 32) (jKp j.bytes))) s.fresh)]))
  ∧ (∀ (i : Nat) (j : CdJob) (pre rest : List CdJob) (r : List Bool × Bool) (s : State), JobComputes s i 0x03 j pre rest → jFlag j.bytes 3 = false →
    r = (jPolar j.bytes).decode (leAt j.bytes 2 1) (llrsOf j.bytes (jE j.bytes)) →
    ∀ st, st = (if r.2 then 0x00 else 0xA0) →
    CompletesMem (.polarDecode i) s (JobReady s i j pre rest st [outHeader j.bytes (cdu s i).arg st 0 ++ bytesOfBits r.1]))
  ∧ (∀ (i : Nat) (j : CdJob) (pre rest : List CdJob) (s : State), JobComputes s i 0x04 j pre rest → jFlag j.bytes 3 = false →
    CompletesMem (.polarEncode i) s (JobReady s i j pre rest 0x00 [outHeader j.bytes (cdu s i).arg 0x00 0
      ++ bytesOfBits ((jPolar j.bytes).encode (polarInfo j.bytes s.fresh))])))
  ∧ ((∀ (i : Nat) (j : CdJob) (pre rest : List CdJob) (x o : List Byte) (s s1 : State), JobComputes s i 0x12 j pre rest →
    flContext (softRead s (.cdu i) []) i j.bytes = (.inr x, s1) →
    o = sampleBytes (slotSamples x (flSector j.bytes) (leAt j.bytes 24 1) (flBurst j.bytes x s1.fresh) s1.fresh) →
    CompletesMem (.fixedLinkTransmit i) s (JobReady s i j pre rest 0x00
      ((List.range 4).map (fun k => (o.drop (30720 * k)).take 30720))))
  ∧ (∀ (i : Nat) (j : CdJob) (pre rest : List CdJob) (x : List Byte) (y : Samples) (noise : Nat) (s s1 : State),
    JobComputes s i 0x11 j pre rest → j.extra.length = 4 → flContext (softRead s (.cdu i) []) i j.bytes = (.inr x, s1) →
    y = samplesOf j.extra.flatten → noise = guardNoise y (s1.fresh + 1) →
    (trigger y (leAt j.bytes 2 2) (leAt j.bytes 8 4) (leAt j.bytes 12 1) = none →
      CompletesMem (.fixedLinkReceive i) s (JobReady s i j pre rest 0xA4
        [outHeader j.bytes (cdu s i).arg 0xA4 0 ++ emptyReport s1 none noise]))
    ∧ CompletesMem (.fixedLinkReceive i) s (fun t =>
      ∀ te r, trigger y (leAt j.bytes 2 2) (leAt j.bytes 8 4) (leAt j.bytes 12 1) = some te →
        r = bestQual y (preBody (flSector j.bytes)) te →
        if 256 * r.2.1 < leAt j.bytes 13 1 * r.2.2 then
          JobReady s i j pre rest 0xA5 [outHeader j.bytes (cdu s i).arg 0xA5 0
            ++ emptyReport s1 (some (255 * r.2.1 / r.2.2).toNat) noise] t
        else t = flQualified s1 i j.bytes x y r.1 (255 * r.2.1 / r.2.2).toNat noise))
  ∧ (∀ (i : Nat) (j : CdJob) (pre rest : List CdJob) (s : State),
    ef s (.ptn (cdu s i).ptn) F.ptn_FB_COUNT ≤ jCtx j.bytes →
    (JobComputes s i 0x12 j pre rest →
      CompletesMem (.fixedLinkTransmit i) s (JobReady s i j pre rest 0xA6 [outHeader j.bytes (cdu s i).arg 0xA6 0]))
    ∧ (JobComputes s i 0x11 j pre rest → j.extra.length = 4 →
      CompletesMem (.fixedLinkReceive i) s (JobReady s i j pre rest 0xA6 [outHeader j.bytes (cdu s i).arg 0xA6 0]))))

/-- CODING_JOB_START takes the next parcel of QIN as a job, BAD_JOB where R395 says so, and ends the item at its 257th (R389);
CODING_JOB_DONE stages the output in the parcel that it was granted and counts the job, and after a job with LAST the item commits
and completes (R389). The model's own choices, no rule of the spec: log entry 107. -/
def Obligations.CodingJobs : Prop :=
  (∀ (i pid : Nat) (b : List Byte) (s s1 : State), i < 144 → s.stage ≠ .tripped → (cdu s i).item.isSome = true →
    cduOwns s i (cdu s i).qin = true → (takeEnded s (cduAg i) (readToken (cdu s i).qin)).1 = none → wantsSamples (cdu s i) = false → (cdu s i).last = false →
    (cdu s i).held.length < 2 → hwRead s (cduAg i) (cdu s i).qin = (.parcel pid, s1) → payload s1 pid = b →
    ((cdu s i).jobs + (cdu s i).held.length < 256 → jOp b ≠ 0x11 →
      exec (.codingJobStart i) s = .next (setCdu s1 i { cdu s i with
        taken := (cdu s i).taken ++ [pid]
        held := (cdu s i).held ++ [{
          bytes := b
          extra := []
          status := if jobBad i (cdu s i).entry b then 0xA1 else 0
          out := if jobBad i (cdu s i).entry b then some [outHeader b (cdu s i).arg 0xA1 0] else none }]
        last := jFlag b 0 }))
    ∧ (256 ≤ (cdu s i).jobs + (cdu s i).held.length →
      exec (.codingJobStart i) s = .next (cduFinish (setCdu s1 i { cdu s i with taken := (cdu s i).taken ++ [pid] }) i 0xA8 false)))
  ∧ (∀ (i pid : Nat) (j : CdJob) (o : List Byte) (rest : List CdJob) (s s1 : State), i < 144 → s.stage ≠ .tripped →
    (cdu s i).item.isSome = true → (cdu s i).held = j :: rest → j.out = some [o] → j.status = 0 → jFlag j.bytes 0 = false →
    takeGranted s (cduAg i) 1 = (some pid, s1) →
    Completes (.codingJobDone i) s (fun t => (cdu t i).staged = (cdu s i).staged ++ [pid] ∧ (cdu t i).held = rest
      ∧ (cdu t i).jobs = (cdu s i).jobs + 1 ∧ (cdu t i).item = (cdu s i).item
      ∧ rd t (.cdu i) F.cdu_JOBS = satTo (2 ^ F.cdu_JOBS.w - 1) (rd s (.cdu i) F.cdu_JOBS + 1)
      ∧ ∀ x, parcelOf s pid = some x → parcelOf t pid = some { x with data := storeBytes x.data 0 o }))
  ∧ (∀ (i : Nat) (j : CdJob) (rest : List CdJob) (s : State), i < 144 → s.stage ≠ .tripped → (cdu s i).item.isSome = true →
    (cdu s i).held = j :: rest → j.out = some [] → j.status = 0 → jFlag j.bytes 0 = true →
    exec (.codingJobDone i) s = .next (cduFinish (addSat (setCdu s i { cdu s i with held := rest, jobs := (cdu s i).jobs + 1 })
      (.cdu i) F.cdu_JOBS 1) i 0x00 false))

/-- The good request `b` in parcel `pid` of partition `p`'s queue `q` is served now, on context `ctx`: it is the partition's turn
(R409, R412). -/
abbrev FbServes (s : State) (p q pid op ctx : Nat) (b : List Byte) : Prop :=
  p < 64 ∧ s.stage ≠ .tripped ∧ fbQueue s p = some q ∧ fbNext s p = some pid ∧ payload s pid = b ∧ fbOp b = op
    ∧ fbTurn s p = true ∧ fbReplying s p = false ∧ fbStatus s p b = 0
    ∧ ctx = ef s (.ptn p) F.ptn_FB_BASE + bits (leAt b 2 3) 0 18

/-- The lines of the context that a request's operation reads. -/
abbrev fbReads (b : List Byte) : List (Nat × Nat) := fbRanges (fbOp b) (leAt b 5 1) (leAt b 6 1 + 1)

/-- The request's context is read well: from the cache, where no line that it reads holds an uncorrectable error, or from its
stack, which is up with no armed fault (R200, R425). -/
abbrev FbGood (s : State) (ctx : Nat) (b : List Byte) : Prop :=
  (s.book.cache.contains ctx = true ∧ cacheLines s.book.bad ctx (fbReads b) = [])
  ∨ (s.book.cache.contains ctx = false ∧ unitUp s (208 + ctx % 8) = true ∧ rd s (.hbc (ctx % 8)) F.INJ_ARM = 0)

/-- The request's context meets an uncorrectable error: in the cache, or since its stack is condemned (log entry 110). -/
abbrev FbBad (s : State) (ctx : Nat) (b : List Byte) : Prop :=
  (s.book.cache.contains ctx = true ∧ cacheLines s.book.bad ctx (fbReads b) ≠ [])
  ∨ (s.book.cache.contains ctx = false ∧ unitUp s (208 + ctx % 8) = false ∧ rd s (.hbc (ctx % 8)) F.INJ_ARM = 0)

/-- The reply queue that a request names. -/
abbrev fbReplyQ (b : List Byte) : Nat := bits (leAt b 8 2) 0 14

/-- From state `s1`, in which it has been applied, the request is answered by a reply with status `st` and data `d`, and its parcel
is released when the reply is posted (R264, R412); the next partition's turn comes. -/
abbrev FbReplied (s1 : State) (p pid st : Nat) (b d : List Byte) (t : State) : Prop :=
  t = { addSat (lastPost s1 (fbAg p) (bits (leAt b 8 2) 0 14) (natLE 1 st ++ natLE 1 0 ++ natLE 2 (leAt b 10 2) ++ natLE 4 0
      ++ natLE 4 (leAt b 12 4) ++ natLE 4 0 ++ d) 0xFF 0xFFFF 1
      { pid := some pid, status := st, stake := none, job := none, inj := false }) (.ptn p) F.ptn_FB_REQS 1 with
    book := { s1.book with turn := (p + 1) % 64 } }

/-- A field-book request of its operation is applied in one step and answered by a reply parcel (R412, R413): READ returns the
bytes and leaves the contexts, WRITE stores its bytes, HARQ_RESET clears the written flag of the process's buffers that no unit
has locked (R405). A request that meets an uncorrectable error in its context, in the cache or in its stack, is answered with
DATA_ERROR (0x0B) and has no effect (R200; of a condemned stack, log entry 110), a bad one with its status; one that names
another's queue for the reply is applied, gets no reply and sets bit 16 of the CDP page's ERR_STATUS (R412). The model's own
choices, no rule of the spec: log entries 108, 109, 110. -/
def Obligations.FieldBookRequests : Prop :=
  (∀ (p q pid ctx : Nat) (b : List Byte) (s : State), FbServes s p q pid 1 ctx b → FbGood s ctx b →
    ∃ t, exec (.fbRead p) s = .next (condemnDue t) ∧ t.book.ctx = s.book.ctx ∧ t.book.harq = s.book.harq
      ∧ (qOwner s (fbReplyQ b) = p → FbReplied (touchCtx (hwRead s (fbAg p) q).2 ctx (fbReads b)).2 p pid 0x00 b
        (((ctxBytes s ctx).drop (leAt b 5 1)).take (leAt b 6 1 + 1)) t)
      ∧ (qOwner s (fbReplyQ b) ≠ p → bitAt (rd t .cdp F.ERR_STATUS) 16 = true ∧ t.book.turn = (p + 1) % 64))
  ∧ (∀ (p q pid ctx : Nat) (b : List Byte) (s s0 : State), FbServes s p q pid 2 ctx b → FbGood s ctx b →
    s0 = (touchCtx (hwRead s (fbAg p) q).2 ctx (fbReads b)).2 →
    ∃ t, exec (.fbWrite p) s = .next (condemnDue t) ∧ t.book.harq = s.book.harq
      ∧ t.book.ctx = storeBytes s.book.ctx (256 * ctx + leAt b 5 1) ((b.drop 16).take (leAt b 6 1 + 1))
      ∧ (qOwner s (fbReplyQ b) = p → FbReplied { s0 with book := { clearLines s0.book ctx (leAt b 5 1) (leAt b 6 1 + 1) with
        ctx := t.book.ctx } } p pid 0x00 b [] t)
      ∧ (qOwner s (fbReplyQ b) ≠ p → bitAt (rd t .cdp F.ERR_STATUS) 16 = true ∧ t.book.turn = (p + 1) % 64))
  ∧ (∀ (p q pid ctx : Nat) (b : List Byte) (s : State), FbServes s p q pid 3 ctx b → FbGood s ctx b →
    ∃ t, exec (.harqReset p) s = .next (condemnDue t) ∧ t.book.ctx = s.book.ctx
      ∧ (∀ h ∈ fbBuffers s p ctx (leAt b 5 1 % 16), mapFind s.book.locks h = none → (harqBuf t h).written = false)
      ∧ (qOwner s (fbReplyQ b) = p → FbReplied ((fbBuffers s p ctx (leAt b 5 1 % 16)).foldl resetHarq
        (touchCtx (hwRead s (fbAg p) q).2 ctx (fbReads b)).2) p pid 0x00 b [] t)
      ∧ (qOwner s (fbReplyQ b) ≠ p → bitAt (rd t .cdp F.ERR_STATUS) 16 = true ∧ t.book.turn = (p + 1) % 64))
  ∧ (∀ (p q pid ctx : Nat) (b : List Byte) (s : State), FbBad s ctx b →
    ∀ c ∈ [(Instr.fbRead p, 1), (.fbWrite p, 2), (.harqReset p, 3)], FbServes s p q pid c.2 ctx b → qOwner s (fbReplyQ b) = p →
      CompletesMem c.1 s (fun t => t.book.ctx = s.book.ctx ∧ t.book.harq = s.book.harq
        ∧ FbReplied (touchCtx (hwRead s (fbAg p) q).2 ctx (fbReads b)).2 p pid 0x0B b [] t))
  ∧ (∀ (p : Nat) (s : State), p < 64 → s.stage ≠ .tripped → fbTurn s p = false → (fbNext s p).isSome = true →
    ∀ c ∈ [Instr.fbRead p, .fbWrite p, .harqReset p], exec c s = .next (condemnDue s))
  ∧ (∀ (p q pid st : Nat) (b : List Byte) (s : State), p < 64 → s.stage ≠ .tripped → fbQueue s p = some q → fbNext s p = some pid →
    payload s pid = b → fbTurn s p = true → fbReplying s p = false → fbStatus s p b = st → st ≠ 0 →
    ∀ c ∈ [(Instr.fbRead p, 1), (.fbWrite p, 2), (.harqReset p, 3)], fbOp b = c.2 →
      (qOwner s (fbReplyQ b) = p → CompletesMem c.1 s (FbReplied (hwRead s (fbAg p) q).2 p pid st b []))
      ∧ (qOwner s (fbReplyQ b) ≠ p → CompletesMem c.1 s (fun t =>
        bitAt (rd t .cdp F.ERR_STATUS) 16 = true ∧ t.book.ctx = s.book.ctx ∧ t.book.turn = (p + 1) % 64)))

/-! ### The fronthaul ports (R427 to R459) -/

/-- A received frame of a port that is up: it is dropped and counted where the page is quiesced, it is a pause frame, or its FCS
or its length is bad (R428); otherwise it is stamped with the port's latency taken off (R443), counted, its sender sighted where
R444 says so, and its messages placed. Of a frame of another EtherType the whole frame goes to EXC_Q (R440). The model's own
choices, no rule of the spec: log entries 54, 55, 56, 57. -/
def Obligations.FrameReceive : Prop :=
  (∀ (q : Nat) (fr : RxFrame) (s : State), q < 32 → s.stage ≠ .tripped → fhUp s q = true → fr.fecUncorr = 0 →
    (quiesced s (.fhp q) = true ∨ rxPause fr = true ∨ fr.fcsOk = false ∨ 1 < (rxTail fr).1 ∨ rxLength fr < 64
        ∨ ef s (.fhp q) F.fhp_MAX_FRAME < rxLength fr →
      Completes (.frameReceive q fr) s (fun t =>
        rd t (.fhp q) F.fhp_RX_DROPS = satTo (2 ^ 32 - 1) (rd s (.fhp q) F.fhp_RX_DROPS + 1)
        ∧ rd t (.fhp q) F.fhp_RX_FRAMES = rd s (.fhp q) F.fhp_RX_FRAMES ∧ t.fhps = s.fhps ∧ t.pool = s.pool))
    ∧ (∀ s2 s3 at_, quiesced s (.fhp q) = false → rxPause fr = false → fr.fcsOk = true → (rxTail fr).1 ≤ 1 → 64 ≤ rxLength fr →
      rxLength fr ≤ ef s (.fhp q) F.fhp_MAX_FRAME →
      s2 = addSat (addSat s (.fhp q) F.fhp_FEC_CORR fr.fecCorr) (.fhp q) F.fhp_FEC_UNCORR 0 →
      s3 = addSat (nextFresh s2) (.fhp q) F.fhp_RX_FRAMES 1 →
      at_ = stampTime s2 (-portLat s2 q F.fhp_X_RX_LAT) →
      (rxType fr = 0xAEFE ∨ rxType fr = 0x88F7 ∨ rd s (.fhp q) F.fhp_LEARN_ALL = 1 →
        exec (.frameReceive q fr) s = .next (rxPlace (sighting s3 q (rxSrc fr) (((rxTag fr).map (fun v => v % 4096)).getD 0xFFFF))
          at_ q fr))
      ∧ (rxType fr ≠ 0xAEFE → rxType fr ≠ 0x88F7 → rd s (.fhp q) F.fhp_LEARN_ALL = 0 →
        exec (.frameReceive q fr) s =
          .next (deliverRx q (wholeFrame s3 at_ q (rd s3 (.fhp q) F.fhp_EXC_Q) false fr.raw) s3))))
  ∧ (∀ (q : Nat) (fr : RxFrame) (s : State), q < 32 → s.stage ≠ .tripped → fhUp s q = false →
    exec (.frameReceive q fr) s = .next s)

/-- PORT_SELECTION sends the head of the eligible queue of the lowest class with the smallest start tag (R448, R450), TOKEN_REFILL
adds RATE up to the burst (R449), LATE_DROP drops a head that is too late (R435), WINDOW_CLOSE shuts a window whose time has
passed (R451), DEPTH_SAMPLE records the depth of every queue (R453). The model's own choices, no rule of the spec: log entry 59.
-/
def Obligations.FronthaulTransmit : Prop :=
  (∀ (q : Nat) (el : List Nat) (s s1 s2 : State), q < 32 → s.stage ≠ .tripped →
    (fhUp s q = false ∨ quiesced s (.fhp q) = true → exec (.portSelection q) s = .next s)
    ∧ (fhUp s q = true → quiesced s (.fhp q) = false → s1 = (portQueues s q).foldl txPrepare s →
      el = (portQueues s q).filter (txEligible s1 q) → s2 = wakeQueues s1 q el →
      (∀ j, chooseQueue s2 el = some j → exec (.portSelection q) s = .next (sendHead s2 q j))
      ∧ (el = [] → exec (.portSelection q) s = .next s2)))
  ∧ (∀ s : State, s.stage ≠ .tripped →
    (s.mer.frc % 1000 ≠ 0 → exec .tokenRefill s = .next s)
    ∧ (s.mer.frc % 1000 = 0 → Completes .tokenRefill s (fun t => ∀ j, j < 512 → rd t (.fhq j) F.fhq_TOKENS =
        (if ef s (.fhq j) F.fhq_RATE = 0 then rd s (.fhq j) F.fhq_TOKENS
          else satTo (8 * ef s (.fhq j) F.fhq_BURST) (rd s (.fhq j) F.fhq_TOKENS + ef s (.fhq j) F.fhq_RATE) % 2 ^ F.fhq_TOKENS.w))))
  ∧ (∀ (j pid at_ : Nat) (s : State), j < 512 → s.stage ≠ .tripped → txHead s j = some pid → txLaunch (payload s pid) = some at_ →
    (at_ + ef s (.fhq j) F.fhq_LATE_NS ≤ linNow s →
      exec (.lateDrop j) s = .next (addSat (txRelease s j) (.fhq j) F.fhq_LATE_DROPS 1))
    ∧ (linNow s < at_ + ef s (.fhq j) F.fhq_LATE_NS → exec (.lateDrop j) s = .next s))
  ∧ (∀ (q : Nat) (e : Int) (s : State), q < 32 → s.stage ≠ .tripped → (fhp s q).winEnd = some e →
    (e ≤ timeNow s → exec (.windowClose q) s = .next (setFhp s q { fhp s q with winEnd := none }))
    ∧ (timeNow s < e → exec (.windowClose q) s = .next s))
  ∧ (∀ s : State, s.stage ≠ .tripped →
    (ef s .fhg F.fhg_SAMPLE_US = 0 → exec .depthSample s = .next s)
    ∧ (0 < ef s .fhg F.fhg_SAMPLE_US → s.mer.frc % (1000 * ef s .fhg F.fhg_SAMPLE_US) = 0 →
      Completes .depthSample s (fun t =>
        rd t .fhg F.fhg_SAMPLE_SEQ = (rd s .fhg F.fhg_SAMPLE_SEQ + 1) % 2 ^ F.fhg_SAMPLE_SEQ.w
        ∧ ∀ j, j < 512 → rd t (.fhq j) (F.fhq_DEPTH.ix (rd s .fhg F.fhg_SAMPLE_SEQ % 32)) =
            (txWaiting s j).foldl (fun n x => n + x.len) 0 % 2 ^ F.fhq_DEPTH.w)))

/-- LINK_DOWN of a port clears its discovery table, LINK_UP raises the change, of a traverse port likewise (R445, R460, R461);
RU_TIMEOUT clears an entry that was not seen for too long and leaves another (R445), DISC_ENTRY_CLEAR clears one without an event
(R447), and DISC_EVENT_RETRY delivers the event that waits once its queue takes it (R446). The model's own choices, no rule of the
spec: log entries 60, 61. -/
def Obligations.LinksAndDiscovery : Prop :=
  (∀ (q : Nat) (s : State), q < 32 → s.stage ≠ .tripped →
    ((fhp s q).up = true → Completes (.linkDown (.fh q)) s (fun t => (fhp t q).up = false
      ∧ (∀ i, i < 64 → mapFind (fhp t q).disc i = none) ∧ ∀ p, p ≠ q → fhp t p = fhp s p))
    ∧ ((fhp s q).up = false → exec (.linkDown (.fh q)) s = .next s)
    ∧ ((fhp s q).up = false → fhAvailable s q = true → s.stage = .ready →
      Completes (.linkUp (.fh q)) s (fun t => fhp t q = { fhp s q with up := true }
        ∧ bitAt (rd t (.fhp q) F.EVT_STATUS) 16 = true ∧ ∀ p, p ≠ q → fhp t p = fhp s p)))
  ∧ (∀ (n : Nat) (s : State), n < 8 → s.stage ≠ .tripped →
    (mapGet false s.trv.linkUp n = true → exec (.linkDown (.tv n)) s = .next (tvLinkDown s n))
    ∧ (mapGet false s.trv.linkUp n = false → exec (.linkDown (.tv n)) s = .next s)
    ∧ (mapGet false s.trv.linkUp n = false → 0 < tvWidth s n → trvOn s = true →
      Completes (.linkUp (.tv n)) s (fun t => mapGet false t.trv.linkUp n = true
        ∧ bitAt (rd t .trg F.EVT_STATUS) 21 = true ∧ t.trv.peers = s.trv.peers)))
  ∧ (∀ (q i : Nat) (e : DiscEntry) (s : State), q < 32 → i < 64 → s.stage ≠ .tripped → mapFind (fhp s q).disc i = some e →
    (e.seen + rd s (.fhp q) F.fhp_RU_TIMEOUT * 1000000 ≤ s.mer.frc → Completes (.ruTimeout q i) s (fun t =>
      mapFind (fhp t q).disc i = none ∧ ∀ k, k ≠ i → mapFind (fhp t q).disc k = mapFind (fhp s q).disc k))
    ∧ (s.mer.frc < e.seen + rd s (.fhp q) F.fhp_RU_TIMEOUT * 1000000 → exec (.ruTimeout q i) s = .next s)
    ∧ (s.stage = .ready → Completes (.discEntryClear .pf q i) s (fun t => mapFind (fhp t q).disc i = none
      ∧ (fhp t q).events = (fhp s q).events ∧ ∀ k, k ≠ i → mapFind (fhp t q).disc k = mapFind (fhp s q).disc k)))
  ∧ (∀ (q pid : Nat) (b : List Byte) (s s1 : State), q < 32 → s.stage ≠ .tripped → (fhp s q).events = [b] →
    qOwner s (rd s (.fhp q) F.fhp_DISC_Q) = ownerOf s (.fhp q) →
    (hwPost s (.fhPort q) (rd s (.fhp q) F.fhp_DISC_Q) b 0xFF 0xFFFF 0 false = (.parcel pid, s1) →
      exec (.discEventRetry q) s = .next (setFhp s1 q { fhp s1 q with events := [] }))
    ∧ (hwPost s (.fhPort q) (rd s (.fhp q) F.fhp_DISC_Q) b 0xFF 0xFFFF 0 false = (.status 0x80, s1) →
      exec (.discEventRetry q) s = .next s))

/-! ### The traverse (R460 to R505) -/

/-- Message `m` of kind `kind` passes: the traverse answers, the lease key is held, and the HMAC and the epoch are right (R485). -/
abbrev LeaseOk (s : State) (kind : Nat) (m : CtlMsg) (fields : List Byte) : Prop :=
  trvOn s = true ∧ m.epoch = rd s .trg F.trg_LEASE_EPOCH
    ∧ ∃ key, s.trv.leaseKey = some key ∧ m.auth = Config.hmacSm3 (key.take 16) (ctlBytes kind m fields)

/-- GRANT under the anchor's signature makes the lease LIVE with its peer, epoch, period, expiry and key; RENEW moves the expiry,
by at most the period; JOB_BIND binds a free slot of a partition with its key; PEER_UP and PEER_DOWN set the peer's entry;
TEAR_DOWN unbinds; a message that does not verify sets AUTH_FAIL (R485 to R489, R494); LEASE_FENCE fences when due (R487). The
model's own choices, no rule of the spec: log entry 64. -/
def Obligations.TraverseLease : Prop :=
  (∀ (m : CtlMsg) (peer period expiry : Nat) (key msg : List Byte) (s : State), trvOn s = true → mapFind s.mon.anchors 0 = some key →
    msg = ctlBytes 1 m (natLE 2 peer ++ natLE 1 period ++ natLE 8 expiry) →
    Completes (.grant m peer period expiry) s (fun t => (Config.sm2Verify key msg m.auth = false → t = authFail s)
      ∧ (Config.sm2Verify key msg m.auth = true → Config.sm2Open (akInput s) m.body = none → t = authFail s)
      ∧ ∀ lk, Config.sm2Verify key msg m.auth = true → Config.sm2Open (akInput s) m.body = some lk →
        (leaseState s = 0 → 1 ≤ period → period ≤ 100 → leaseState t = 1 ∧ t.trv.leaseKey = some lk
          ∧ localPeer t = peer % 2 ^ F.trg_LOCAL_PEER.w ∧ rd t .trg F.trg_LEASE_EPOCH = m.epoch % 2 ^ F.trg_LEASE_EPOCH.w
          ∧ rd t .trg F.trg_LEASE_PERIOD_MS = period ∧ rd t .trg F.trg_LEASE_EXPIRY = expiry % 2 ^ F.trg_LEASE_EXPIRY.w
          ∧ bitAt (rd t .trg F.EVT_STATUS) 16 = true)
        ∧ (leaseState s ≠ 0 ∨ period = 0 ∨ 100 < period → t = s)))
  ∧ (∀ (m : CtlMsg) (x y : Nat) (b : List Byte) (j : Option Nat) (a : Bool) (s : State), trvOn s = true → x < 64 → y < 16384 →
    (∀ n, j = some n → n < 64) → (s.trv.leaseKey = none ∨ m.epoch ≠ rd s .trg F.trg_LEASE_EPOCH) →
    ∀ c ∈ [Instr.renew m x, .jobBind m x y b, .peerUp m y x, .peerDown m y, .tearDown m j a], exec c s = .next (authFail s))
  ∧ (∀ (m : CtlMsg) (expiry e : Nat) (s : State), LeaseOk s 2 m (natLE 8 expiry) →
    (leaseState s = 2 ∨ fenceDue s = true → exec (.renew m expiry) s = .next (addSat s .trg F.trg_LATE_RENEWS 1))
    ∧ (leaseState s = 1 → fenceDue s = false → e = min expiry (linNow s + 1000000 * rd s .trg F.trg_LEASE_PERIOD_MS) →
      exec (.renew m expiry) s =
        .next (if rd s .trg F.trg_LEASE_EXPIRY ≤ e then wr s .trg F.trg_LEASE_EXPIRY e else s)))
  ∧ (∀ (m : CtlMsg) (j job : Nat) (b : List Byte) (s : State), j < 64 → LeaseOk s 3 m (natLE 1 j ++ natLE 2 job ++ b) →
    (jobBound s j = true ∨ 64 ≤ ownerOf s (.trj j) → exec (.jobBind m j job b) s = .next s)
    ∧ (jobBound s j = false → ownerOf s (.trj j) < 64 → Completes (.jobBind m j job b) s (fun t =>
      (Config.kwUnwrap ((s.trv.leaseKey.getD []).drop 16) b = none → t = authFail s)
      ∧ ∀ key, Config.kwUnwrap ((s.trv.leaseKey.getD []).drop 16) b = some key →
        jobBound t j = true ∧ rd t (.trj j) F.trj_JOB_ID = job % 2 ^ F.trj_JOB_ID.w ∧ mapFind t.trv.trafficKeys j = some key)))
  ∧ (∀ (m : CtlMsg) (p ports : Nat) (s : State), p < 16384 → LeaseOk s 4 m (natLE 2 p ++ natLE 1 ports) →
    Completes (.peerUp m p ports) s (fun t => (peerOf t p).st = 1 ∧ (peerOf t p).ports = ports
      ∧ ((peerOf s p).st ≠ 1 → (peerOf t p).changes = ((peerOf s p).changes + 1) % 2 ^ 32)
      ∧ ∀ r, r ≠ p → peerOf t r = peerOf s r))
  ∧ (∀ (m : CtlMsg) (p : Nat) (s : State), p < 16384 → LeaseOk s 5 m (natLE 2 p) →
    (∀ s1, s1 = endWhere (setPeer s p 2 (peerOf s p).ports) (fun _ it => decide (it.req.peer = p)) (fun _ => 0x04) →
      exec (.peerDown m p) s =
        .next { s1 with trv := { s1.trv with inbound := s1.trv.inbound.filter (fun x => decide (x.src ≠ p)) } })
    ∧ peerOf (setPeer s p 2 (peerOf s p).ports) p = { peerOf s p with
        st := 2, changes := if (peerOf s p).st = 2 then (peerOf s p).changes else ((peerOf s p).changes + 1) % 2 ^ 32 })
  ∧ (∀ (m : CtlMsg) (j : Nat) (a : Bool) (s : State), j < 64 → LeaseOk s 6 m (natLE 1 j ++ natLE 1 (ofBool a)) →
    exec (.tearDown m (some j) a) s = .next (tearDownSlot s j a)
    ∧ (jobBound s j = true → s.trv.chans = [] → a = false → Completes (.tearDown m (some j) a) s (fun t =>
      jobBound t j = false ∧ rd t (.trj j) F.trj_JOB_ID = 0 ∧ mapFind t.trv.trafficKeys j = none
      ∧ ef t (.trj j) F.trj_EXPOSE_TILES = 0 ∧ (∀ i, i < 64 → rd t (.trj j) (F.trj_COUNTER.ix i) = 0)
      ∧ (∀ e, e ∈ t.trv.replay ↔ e ∈ s.trv.replay ∧ e.job ≠ rd s (.trj j) F.trj_JOB_ID)
      ∧ (∀ x, x ∈ t.trv.inbound ↔ x ∈ s.trv.inbound ∧ x.req.job ≠ rd s (.trj j) F.trj_JOB_ID)
      ∧ bitAt (rd t .trg F.EVT_STATUS) 18 = true)))
  ∧ (∀ (m : CtlMsg) (a : Bool) (s : State), LeaseOk s 6 m (natLE 1 255 ++ natLE 1 (ofBool a)) →
    Completes (.tearDown m none a) s (fun t => (∀ p, (peerOf t p).st = 0) ∧ t.trv.leaseKey = none ∧ leaseState t ≠ 2))
  ∧ (∀ s : State, s.stage ≠ .tripped →
    (fenceDue s = false → exec .leaseFence s = .next s)
    ∧ (fenceDue s = true → exec .leaseFence s = .next (fenceNow s)
      ∧ (s.trv.chans = [] → Completes .leaseFence s (fun t => leaseState t = 2
        ∧ rd t .trg F.trg_FENCES = satTo (2 ^ F.trg_FENCES.w - 1) (rd s .trg F.trg_FENCES + 1)
        ∧ bitAt (rd t .trg F.EVT_STATUS) 17 = true ∧ t.trv.inbound = [] ∧ Emit.pldm "LEASE_FENCED" ∈ t.emitted))))
  ∧ (∀ (b : List Byte) (pid : Nat) (s s1 : State), s.stage ≠ .tripped → s.trv.events = [b] →
    qOwner s (rd s .trg F.trg_DISC_Q) = ownerOf s .trg →
    (hwPost s .trv (rd s .trg F.trg_DISC_Q) b 0xFF 0xFFFF 0 false = (.parcel pid, s1) →
      exec .peerEventRetry s = .next { s1 with trv := { s1.trv with events := [] } })
    ∧ (hwPost s .trv (rd s .trg F.trg_DISC_Q) b 0xFF 0xFFFF 0 false = (.status 0x80, s1) → exec .peerEventRetry s = .next s))

/-- Channel `c` may accept the parcel `pid` at the head of its SUBMIT_Q, which asks for `op`: page, queues and job slot are as R466 and
R503 ask, a stake is free and the completion parcel is admitted. `s1` is the state with those taken and the parcel read. -/
abbrev TrvReady (c op pid stake cpl : Nat) (s s1 : State) : Prop :=
  c < 256 ∧ s.stage ≠ .tripped ∧ ownerOf s (.trc c) ≠ 0xFF ∧ quiesced s (.trc c) = false ∧ heldQuiesced s (.trc c) = false
  ∧ qOwner s (rd s (.trc c) F.trc_SUBMIT_Q) = ownerOf s (.trc c) ∧ qOwner s (rd s (.trc c) F.trc_CPL_Q) = ownerOf s (.trc c)
  ∧ ownerOf s (.trj (rd s (.trc c) F.trc_JOB)) = ownerOf s (.trc c)
  ∧ takeEnded s (trvAg c) (readToken (rd s (.trc c) F.trc_SUBMIT_Q)) = (none, s)
  ∧ peekPid s (trvAg c) (rd s (.trc c) F.trc_SUBMIT_Q) = some pid ∧ leAt (payload s pid) 0 1 = op
  ∧ (acquireStake s (trvAg c) (ownerOf s (.trc c)) 2).1 = some stake
  ∧ (takeGranted (acquireStake s (trvAg c) (ownerOf s (.trc c)) 2).2 (trvAg c) 1).1 = some cpl
  ∧ s1 = (hwRead (takeGranted (acquireStake s (trvAg c) (ownerOf s (.trc c)) 2).2 (trvAg c) 1).2 (trvAg c)
      (rd (takeGranted (acquireStake s (trvAg c) (ownerOf s (.trc c)) 2).2 (trvAg c) 1).2 (.trc c) F.trc_SUBMIT_Q)).2

/-- The operation `it` that channel `c` makes of the parcel `pid` in state `s1`, and the state `s2` in which it has joined the channel,
with no other operation there (R466, R467). -/
abbrev TrvJoins (c pid stake cpl : Nat) (it : TrvItem) (s1 s2 : State) : Prop :=
  trc s1 c = []
  ∧ it = { id := s1.trv.nextId, pid := pid, stake := stake, cpl := cpl, req := trvReqOf s1 c (payload s1 pid),
           laddr := leAt (payload s1 pid) 16 8, tsReq := bitAt (leAt (payload s1 pid) 1 1) 2, tsId := leAt (payload s1 pid) 30 2,
           next := 0, got := 0, started := false, port := 0, pkts := [],
           attached := attachTo s1 c (trvReqOf s1 c (payload s1 pid)), done := none }
  ∧ s2 = setTrc { s1 with trv := { s1.trv with nextId := s1.trv.nextId + 1 } } c [it]

/-- The operation `it`, alone on channel `c`, may send its first request on `port`: the lease is LIVE and the job slot BOUND, no other
LOAD answers it, its stream has a port, and the device awaits fewer than 16,384 replies (R461, R463, R466, R476, R478, R486). -/
abbrev TrvSends (s : State) (c port : Nat) (it : TrvItem) : Prop :=
  trc s c = [it] ∧ it.done = none ∧ it.next = 0 ∧ it.started = false ∧ mayServe s c = true ∧ isAttached s it = false
    ∧ attachTo s c it.req = none ∧ streamPort s c it.req.peer = some port ∧ trvOutstanding s < 16384

/-- A descriptor is accepted, its operation joins the channel and its first request leaves on the stream's port (R461, R466, R468,
R473), a BARRIER's ARRIVE (R496); or it ends at once with the status of R470. A channel whose page is quiesced sends what it had
accepted; one whose SUBMIT_Q another partition owns accepts nothing, and ERR_STATUS bit 16 stands (R503). The model's own choices,
no rule of the spec: log entries 62, 63. -/
def Obligations.TraverseOperations : Prop :=
  (∀ (c op pid stake cpl port : Nat) (it : TrvItem) (s s1 s2 : State), TrvReady c op pid stake cpl s s1 →
    TrvJoins c pid stake cpl it s1 s2 → trvStop s1 c (trvShapeOk (payload s1 pid)) it.req it.laddr = none →
    (TrvSends s2 c port it →
      (op = 1 → exec (.load c) s = .next (condemnDue (sendPacket s2 c port it 0 it.req.len [])))
      ∧ (op = 2 → exec (.store c) s = .next (condemnDue (sendPacket s2 c port it 0 it.req.len ((payload s1 pid).drop 48))))
      ∧ (op = 3 → exec (.flag c) s = .next (condemnDue (sendPacket s2 c port it 0 8 ((payload s1 pid).drop 48))))
      ∧ (op = 4 → exec (.atomic c) s = .next (condemnDue (sendPacket s2 c port it 0 it.req.len [])))
      ∧ (op = 5 → exec (.merge c) s = .next (condemnDue (sendPacket s2 c port it 0 it.req.len [])))
      ∧ (∀ d s3, op = 6 → it.req.len ≤ 256 → readAll (ownerOf s2 (.trc c)) (pieces it.laddr it.req.len) s2 = (.ok d, s3) →
        exec (.put c) s = .next (condemnDue (sendPacket s3 c port it 0 it.req.len d)))
      ∧ (op = 6 → exec (.put c) s = .next (condemnDue (sendAll c it.id (it.req.len / 256 + 1) s2)))
      ∧ (op = 7 → it.req.len ≤ 256 → exec (.get c) s = .next (condemnDue (sendPacket s2 c port it 0 it.req.len [])))
      ∧ (op = 7 → exec (.get c) s = .next (condemnDue (sendAll c it.id (it.req.len / 256 + 1) s2))))
    ∧ (∀ s3, op = 8 → it.req.peer ≠ localPeer s1 → s3 = beginBarrier s2 c it.id it.req.aop → TrvSends s3 c port it →
      exec (.barrier c) s = .next (condemnDue (sendPacket s3 c port it 0 0 [])))
    ∧ (op = 8 → it.req.peer = localPeer s1 → exec (.barrier c) s = .next (condemnDue (beginBarrier s2 c it.id it.req.aop)))
    ∧ (mayServe s2 c = false →
      (op = 1 → exec (.load c) s = .next (condemnDue s2)) ∧ (op = 2 → exec (.store c) s = .next (condemnDue s2))
      ∧ (op = 3 → exec (.flag c) s = .next (condemnDue s2)) ∧ (op = 4 → exec (.atomic c) s = .next (condemnDue s2))
      ∧ (op = 5 → exec (.merge c) s = .next (condemnDue s2)) ∧ (op = 6 → exec (.put c) s = .next (condemnDue s2))
      ∧ (op = 7 → exec (.get c) s = .next (condemnDue s2))
      ∧ (op = 8 → exec (.barrier c) s = .next (condemnDue (beginBarrier s2 c it.id it.req.aop)))))
  ∧ (∀ (c op pid stake cpl st : Nat) (it : TrvItem) (s s1 s2 : State), TrvReady c op pid stake cpl s s1 →
    TrvJoins c pid stake cpl it s1 s2 → trvStop s1 c (trvShapeOk (payload s1 pid)) it.req it.laddr = some st →
    ∀ i ∈ [(Instr.load c, 1), (.store c, 2), (.flag c, 3), (.atomic c, 4), (.merge c, 5), (.put c, 6), (.get c, 7), (.barrier c, 8)],
      i.2 = op → exec i.1 s = .next (condemnDue (postReserved (countTrv (setTrc s2 c []) c it st) cpl (trvCplBytes it st 0 0) pid stake st)))
  ∧ (∀ (c port : Nat) (it : TrvItem) (s : State), c < 256 → s.stage ≠ .tripped → quiesced s (.trc c) = true → TrvSends s c port it →
    (∀ i ∈ [(Instr.load c, 1), (.store c, 2), (.flag c, 3), (.atomic c, 4), (.merge c, 5)], i.2 = it.req.op → 0 < it.req.len →
      it.req.len ≤ 64 → exec i.1 s = .next (condemnDue (sendPacket s c port it 0 it.req.len it.req.payload)))
    ∧ (∀ d s1, it.req.op = 6 → 0 < it.req.len → it.req.len ≤ 256 →
      readAll (ownerOf s (.trc c)) (pieces it.laddr it.req.len) s = (.ok d, s1) →
      exec (.put c) s = .next (condemnDue (sendPacket s1 c port it 0 it.req.len d)))
    ∧ (it.req.op = 7 → 0 < it.req.len → it.req.len ≤ 256 →
      exec (.get c) s = .next (condemnDue (sendPacket s c port it 0 it.req.len it.req.payload)))
    ∧ (it.req.op = 8 → it.req.len = 0 → exec (.barrier c) s = .next (condemnDue (sendPacket s c port it 0 0 it.req.payload))))
  ∧ (∀ (c port off n : Nat) (it : TrvItem) (d : List Byte) (s t : State), trc s c = [it] → t = sendPacket s c port it off n d →
    trc t c = [{ it with next := off + n, started := true, port := port, pkts := it.pkts ++
        [{ id := s.trv.nextId, off := off, len := n, sentAt := s.mer.frc, tries := 0, busy := false }] }]
    ∧ (it.tsReq = false → it.req.op ≠ 8 → t.emitted =
        s.emitted ++ [.packet port it.req.peer (chanKey s c) (packetOf s c it s.trv.nextId off n d)])
    ∧ (∀ w, it.tsReq = false → it.req.op = 8 → mapFind s.trv.barWait it.req.aop = some w → t.emitted =
        s.emitted ++ [.barArrive port it.req.peer (chanKey s c) it.req.aop w.epoch]))
  ∧ (∀ (c : Nat) (s : State), c < 256 → s.stage ≠ .tripped → trc s c = [] →
    ownerOf s (.trc c) < 64 → qOwner s (rd s (.trc c) F.trc_SUBMIT_Q) ≠ ownerOf s (.trc c) →
    bitAt (errStatus s (.trc c)) 16 = true
    ∧ ∀ i ∈ [Instr.load c, .store c, .flag c, .atomic c, .merge c, .put c, .get c, .barrier c], exec i s = .next (condemnDue s))

/-- An inbound request from `src` passes the checks of R464, R465, R486 and R504: it acts for job slot `j` at partition address `a`,
it is sealed under the slot's key, and nothing that entered before it is still to be applied. -/
abbrev InboundOk (s : State) (port src : Nat) (key : List Byte) (r : TrvReq) (j a : Nat) : Prop :=
  port < 8 ∧ s.stage ≠ .tripped ∧ tvUp s port = true ∧ (peerOf s src).st ≠ 2 ∧ reqShapeOk r = true ∧ slotOfJob s r.job = some j
    ∧ slotKey s j = some key ∧ leaseState s = 1 ∧ quiesced s (.trj j) = false ∧ exposed s j r = some a ∧ s.trv.inbound = []
    ∧ (r.op = 3 → ∀ e ∈ s.trv.putSeen, e.1 / 2 ^ 64 ≠ putStream src r)

/-- The command that brings a request. -/
def inboundCmd (port src : Nat) (key : List Byte) (r : TrvReq) : Instr :=
  if r.op = 4 then .inboundAtomic port src key r else .inboundRequest port src key r

/-- An inbound LOAD or GET is answered with the exposure's bytes, a STORE, FLAG or PUT writes its own, a MERGE applies its
operation (R464, R468, R473); an error is answered with its status. A request outside the exposure is answered OUT_OF_WINDOW, of a
quiesced slot BUSY, under a lease not LIVE TARGET_FENCED; one sealed under another key is dropped and reported (R465); one that
must stay behind an earlier one is queued (R471, R479). An ATOMIC is answered from the replay table, refused, or applied once and
recorded (R481). The model's own choices, no rule of the spec: log entry 65. -/
def Obligations.TraverseInbound : Prop :=
  (∀ (port src j a p : Nat) (key : List Byte) (r : TrvReq) (s s1 : State), InboundOk s port src key r j a → p = ownerOf s (.trj j) →
    (r.op = 1 ∨ r.op = 7 →
      (∀ d, readAll p (pieces a r.len) s = (.ok d, s1) →
        exec (.inboundRequest port src key r) s = .next (condemnDue (reply (applied s1 j) port src r 0x00 d)))
      ∧ (∀ st ue, readAll p (pieces a r.len) s = (.fail st ue, s1) →
        exec (.inboundRequest port src key r) s = .next (condemnDue (reply (ueHit s1 ue) port src r st []))))
    ∧ (r.op = 2 ∨ r.op = 3 → ∀ d, writeAll p (pieces a r.len) r.payload s = (.ok d, s1) →
      exec (.inboundRequest port src key r) s = .next (condemnDue (reply (applied s1 j) port src r 0x00 [])))
    ∧ (r.op = 6 → ∀ d, writeAll p (pieces a r.payload.length) r.payload s = (.ok d, s1) →
      exec (.inboundRequest port src key r) s = .next (condemnDue (reply (countPut (applied s1 j) j src r) port src r 0x00 [])))
    ∧ (r.op = 5 → ∀ d old, applyValue s p a r = ((.ok d, old), s1) →
      exec (.inboundRequest port src key r) s = .next (condemnDue (reply (applied s1 j) port src r 0x00 [])))
    ∧ (r.op ≠ 4 → exec (.inboundAtomic port src key r) s = .next (condemnDue s))
    ∧ (r.op = 4 → exec (.inboundRequest port src key r) s = .next (condemnDue s)))
  ∧ (∀ (port src j a : Nat) (key : List Byte) (r : TrvReq) (x : InReq) (s : State), port < 8 → s.stage ≠ .tripped → tvUp s port = true →
    (peerOf s src).st ≠ 2 → reqShapeOk r = true → slotOfJob s r.job = some j → slotKey s j = some key → leaseState s = 1 →
    quiesced s (.trj j) = false → exposed s j r = some a → x = { port := port, src := src, req := r } →
    s.trv.inbound.length < 16384 → (s.trv.inbound.filter (fun y => decide (y.port = port))).length < 2048 → staysBehind s s.trv.inbound x = true →
    exec (inboundCmd port src key r) s = .next (condemnDue { s with trv := { s.trv with inbound := s.trv.inbound ++ [x] } }))
  ∧ (∀ (port src j : Nat) (key : List Byte) (r : TrvReq) (s : State), port < 8 → s.stage ≠ .tripped → tvUp s port = true →
    (peerOf s src).st ≠ 2 → slotOfJob s r.job = some j →
    (slotKey s j ≠ some key → exec (inboundCmd port src key r) s =
      .next (condemnDue (report (addSat s .trg F.trg_AUTH_DROPS 1) src 4 false)))
    ∧ (slotKey s j = some key → reqShapeOk r = false → exec (inboundCmd port src key r) s = .next (condemnDue s))
    ∧ (slotKey s j = some key → reqShapeOk r = true → leaseState s ≠ 1 → exec (inboundCmd port src key r) s = .next (condemnDue
        (reply (addSat s (.trj j) F.trj_INBOUND_REFUSED 1) port src r 0x04 [])))
    ∧ (slotKey s j = some key → reqShapeOk r = true → leaseState s = 1 → quiesced s (.trj j) = true →
      exec (inboundCmd port src key r) s = .next (condemnDue (emit s (.trvReply port src (some key) r.stream r.seq 0 true []))))
    ∧ (slotKey s j = some key → reqShapeOk r = true → leaseState s = 1 → quiesced s (.trj j) = false → exposed s j r = none →
      replayOf s src r = none → exec (inboundCmd port src key r) s = .next (condemnDue (emit (addSat s (.trj j) F.trj_INBOUND_REFUSED 1)
        (.trvReply port src (some key) r.stream r.seq 0xB3 false [])))))
  ∧ (∀ (port src : Nat) (key : List Byte) (r : TrvReq) (s : State), port < 8 → s.stage ≠ .tripped →
    (tvUp s port = false ∨ (peerOf s src).st = 2 →
      exec (inboundCmd port src key r) s = .next (condemnDue s))
    ∧ (tvUp s port = true → (peerOf s src).st ≠ 2 → reqShapeOk r = true → slotOfJob s r.job = none → leaseState s = 1 →
      exec (inboundCmd port src key r) s = .next (condemnDue (emit s (.trvReply port src none r.stream r.seq 0xB3 false [])))))
  ∧ (∀ (port src j a : Nat) (key : List Byte) (r : TrvReq) (s : State), InboundOk s port src key r j a → r.op = 4 →
    (∀ e, replayOf s src r = some e →
      (e.check = atomicCheck r → exec (.inboundAtomic port src key r) s = .next (condemnDue (emit (addSat s .trg F.trg_REPLAYED_N 1)
        (.trvReply port src (some key) r.stream r.seq 0x05 false (natLE r.len e.result)))))
      ∧ (e.check ≠ atomicCheck r → exec (.inboundAtomic port src key r) s =
          .next (condemnDue (emit s (.trvReply port src (some key) r.stream r.seq 0xB1 false [])))))
    ∧ ((∀ e ∈ s.trv.replay, ¬ (e.src = src ∧ e.job = r.job ∧ e.tag = r.tag)) →
      (tooOld s r.firstT = true → exec (.inboundAtomic port src key r) s = .next (condemnDue (emit (addSat s .trg F.trg_UNKNOWN_N 1)
        (.trvReply port src (some key) r.stream r.seq 0x06 false []))))
      ∧ (tooOld s r.firstT = false → 262144 ≤ s.trv.replay.length → exec (.inboundAtomic port src key r) s =
          .next (condemnDue (emit s (.trvReply port src (some key) r.stream r.seq 0 true []))))
      ∧ (∀ d old s1, tooOld s r.firstT = false → s.trv.replay.length < 262144 →
        applyValue s (ownerOf s (.trj j)) a r = ((.ok d, old), s1) →
        exec (.inboundAtomic port src key r) s = .next (condemnDue (reply (addSat { s1 with trv := { s1.trv with
            replay := s1.trv.replay ++ [{ src := src, job := r.job, tag := r.tag, result := old, check := atomicCheck r, at_ := microNow s }] } }
          (.trj j) F.trj_INBOUND_OPS 1) port src r 0x00 (natLE r.len old))))))
  ∧ (∀ (n old x y : Nat) (o v w : BitVec (8 * n)), o = BitVec.ofNat _ old → v = BitVec.ofNat _ x → w = BitVec.ofNat _ y →
    n = 4 ∨ n = 8 → old < 2 ^ (8 * n) →
    ∀ e ∈ [(0, o + v), (1, o &&& v), (2, o ||| v), (3, o ^^^ v), (4, if o.sle v = true then o else v),
        (5, if o.sle v = true then v else o), (6, if o ≤ v then o else v), (7, if o ≤ v then v else o), (8, v),
        (9, if o = w then v else o)],
      applyAop e.1 n old x y = e.2.toNat)
  ∧ (∀ (src job tag : Nat) (s : State), s.stage ≠ .tripped → Completes (.replayEntryExpiry src job tag) s (fun t =>
    ∀ e, e ∈ t.trv.replay ↔ e ∈ s.trv.replay ∧ ¬ (e.src = src ∧ e.job = job ∧ e.tag = tag
      ∧ 1000 * ef s .trg F.trg_REPLAY_HOLD_MS ≤ ageOf s e.at_)))

/-- The request that a reply or a time-out names is `k`, of operation `it` on channel `c`, and no reply's data wait to land. -/
abbrev TrvAwaits (s : State) (id c : Nat) (it : TrvItem) (k : TrvPkt) : Prop :=
  s.stage ≠ .tripped ∧ findPkt s id = some (c, it, k) ∧ it.req.op ≠ 8 ∧ s.trv.landing = []

/-- A reply completes its request with its data and status, one reply answers the LOADs attached to it, BUSY holds a request for a
resend (R475, R476, R478); data with no place yet wait for one; a reply sealed under another key is dropped and reported (R465). A
request without a reply is sent again or completes with NO_REPLY or TARGET_BUSY (R476); a report opens or counts in a witness
entry, and the entry closes after its window (R490, R491); a write sets an arrival counter, and an armed watch posts its parcel
once (R474). The model's own choices, no rule of the spec: log entries 65, 67. -/
def Obligations.TraverseReplies : Prop :=
  (∀ (id c : Nat) (key : List Byte) (it : TrvItem) (k : TrvPkt) (r : TrvReply) (s : State), TrvAwaits s id c it k →
    (chanKey s c ≠ some key → exec (.replyArrival id key r) s =
      .next (condemnDue (report (addSat s .trg F.trg_AUTH_DROPS 1) it.req.peer 4 false)))
    ∧ (chanKey s c = some key →
      (r.busy = false → r.status = 0x00 → it.req.op = 2 ∨ it.req.op = 3 ∨ it.req.op = 5 →
        exec (.replyArrival id key r) s = .next (condemnDue (postTrvAll (decideTrv s c it 0x00 0 0))))
      ∧ (r.busy = false → r.status = 0x00 ∨ r.status = 0x05 → it.req.op = 4 → exec (.replyArrival id key r) s =
          .next (condemnDue (postTrvAll (decideTrv s c it r.status 0 (leNat (r.data.take it.req.len))))))
      ∧ (r.busy = false → r.status = 0x00 → it.req.op = 1 → hasAttached s it.id = false →
        (it.req.len ≤ 8 → exec (.replyArrival id key r) s =
          .next (condemnDue (postTrvAll (decideTrv s c it 0x00 0 (leNat (r.data.take it.req.len))))))
        ∧ (∀ d s1, 8 < it.req.len →
          writeAll (ownerOf s (.trc c)) (pieces it.laddr it.req.len) (r.data.take it.req.len) s = (.ok d, s1) →
          exec (.replyArrival id key r) s = .next (condemnDue (postTrvAll (decideTrv s1 c it 0x00 0 0)))))
      ∧ (∀ c2 x v, r.busy = false → r.status = 0x00 → it.req.op = 1 → it.req.len ≤ 8 → attachedTo s it.id = [(c2, x)] →
        x.req.len = it.req.len → v = leNat (r.data.take it.req.len) → exec (.replyArrival id key r) s =
          .next (condemnDue (postTrvAll (decideTrv (decideTrv s c2 x 0x00 1 v) c it 0x00 1 v))))
      ∧ (r.busy = false → r.status = 0x00 → it.req.op = 6 →
        exec (.replyArrival id key r) s = .next (condemnDue (answeredPart s c (answered it k))))
      ∧ (∀ s1, r.busy = false → r.status = 0x00 → it.req.op = 7 →
        (∀ d, writeAll (ownerOf s (.trc c)) (pieces (it.laddr + k.off) k.len) (r.data.take k.len) s = (.ok d, s1) →
          exec (.replyArrival id key r) s = .next (condemnDue (answeredPart s1 c (answered it k))))
        ∧ (writeAll (ownerOf s (.trc c)) (pieces (it.laddr + k.off) k.len) (r.data.take k.len) s = (.wait, s1) →
          exec (.replyArrival id key r) s = .next (condemnDue { s1 with trv := { s1.trv with landing := s1.trv.landing ++
            [{ id := id, reply := r, shared := hasAttached s it.id }] } })))
      ∧ (r.busy = false → r.status ≠ 0x00 → ¬ (r.status = 0x05 ∧ it.req.op = 4) → exec (.replyArrival id key r) s =
          .next (condemnDue (if replyCode it.req.op r.status then postTrvAll (endTrv s c it r.status true) else s)))
      ∧ (r.busy = true → ef s (.trc c) F.trc_BUSY_LIMIT_US ≤ ageOf s it.req.firstT →
        exec (.replyArrival id key r) s = .next (condemnDue (postTrvAll (endTrv s c it 0xB6 false))))
      ∧ (r.busy = true → ageOf s it.req.firstT < ef s (.trc c) F.trc_BUSY_LIMIT_US → exec (.replyArrival id key r) s =
          .next (condemnDue (setTrvItem s c { it with pkts := it.pkts.map (fun x =>
            if x.id = k.id then { x with busy := true, sentAt := s.mer.frc } else x) })))))
  ∧ (∀ (id c : Nat) (it : TrvItem) (k : TrvPkt) (s : State), TrvAwaits s id c it k →
    (s.mer.frc < k.sentAt + 1000 * ef s (.trc c) F.trc_RETRY_US → exec (.retryTimeout id) s = .next (condemnDue s))
    ∧ (k.sentAt + 1000 * ef s (.trc c) F.trc_RETRY_US ≤ s.mer.frc →
      (k.busy = false → it.req.op = 1 ∨ it.req.op = 4 ∨ it.req.op = 7 → k.tries < ef s (.trc c) F.trc_RETRIES →
        exec (.retryTimeout id) s = .next (condemnDue (resend s c it k))
        ∧ rd (resend s c it k) (.trc c) F.trc_RESENDS = satTo (2 ^ F.trc_RESENDS.w - 1) (rd s (.trc c) F.trc_RESENDS + 1)
        ∧ (tvUp s it.port = true → it.tsReq = false → (resend s c it k).emitted =
            s.emitted ++ [.packet it.port it.req.peer (chanKey s c) (packetOf s c it k.id k.off k.len it.req.payload)]))
      ∧ (k.busy = false → it.req.op = 2 ∨ it.req.op = 3 ∨ it.req.op = 5 ∨ it.req.op = 6 ∨ ef s (.trc c) F.trc_RETRIES ≤ k.tries →
        exec (.retryTimeout id) s = .next (condemnDue (postTrvAll (endTrv s c it 0xB0 false))))
      ∧ (k.busy = true → ef s (.trc c) F.trc_BUSY_LIMIT_US ≤ ageOf s it.req.firstT →
        exec (.retryTimeout id) s = .next (condemnDue (postTrvAll (endTrv s c it 0xB6 false))))
      ∧ (k.busy = true → ageOf s it.req.firstT < ef s (.trc c) F.trc_BUSY_LIMIT_US →
        exec (.retryTimeout id) s = .next (condemnDue (resend s c it k)))))
  ∧ (∀ (id : Nat) (key : List Byte) (r : TrvReply) (s : State), s.stage ≠ .tripped → findPkt s id = none →
    exec (.replyArrival id key r) s = .next (condemnDue s) ∧ exec (.retryTimeout id) s = .next (condemnDue s))
  ∧ (∀ (subject cls : Nat) (inj : Bool) (s : State), trvOn s = true → findWitness s subject cls inj = none →
    (s.trv.witness.length < 1024 → Completes (.witnessPacket subject cls inj) s (fun t =>
      t.trv.witness = s.trv.witness ++ [{ subject := subject, cls := cls, injected := inj, count := 1, first := linNow s, opened := s.mer.frc }]
      ∧ t.emitted = s.emitted ++ (if ef s .trg F.trg_WIT_COLLECTOR = 0xFFFF then []
          else [.witnessPacket (ef s .trg F.trg_WIT_COLLECTOR) subject cls inj])
      ∧ bitAt (rd t .trg F.EVT_STATUS) 19 = true))
    ∧ (1024 ≤ s.trv.witness.length →
      exec (.witnessPacket subject cls inj) s = .next (addSat s .trg F.trg_WIT_UNTRACKED 1))
    ∧ exec (.witnessClose subject cls inj) s = .next s)
  ∧ (∀ (subject cls : Nat) (inj : Bool) (w : Witness) (s : State), trvOn s = true → s.trv.witness = [w] → w.subject = subject →
    w.cls = cls → w.injected = inj →
    (w.opened + 1000 * ef s .trg F.trg_WIT_WINDOW_US ≤ s.mer.frc → exec (.witnessClose subject cls inj) s = .next (closeWitness s w)
      ∧ (qOwner s (rd s .trg F.trg_WIT_Q) ≠ ownerOf s .trg → Completes (.witnessClose subject cls inj) s (fun t => t.trv.witness = []
      ∧ rd t .hlt (if inj = true then F.hlt_K_INJ.ix 8 else F.hlt_K_LIVE.ix 8) =
          satTo (2 ^ 32 - 1) (rd s .hlt (if inj = true then F.hlt_K_INJ.ix 8 else F.hlt_K_LIVE.ix 8) + 1))))
    ∧ (s.mer.frc < w.opened + 1000 * ef s .trg F.trg_WIT_WINDOW_US →
      exec (.witnessClose subject cls inj) s = .next s
      ∧ exec (.witnessPacket subject cls inj) s =
          .next { s with trv := { s.trv with witness := [{ w with count := w.count + 1 }] } }))
  ∧ (∀ (f : Func) (j i v : Nat) (s : State), f.ok = true → j < 64 → i < 64 → reach s f (.trj j) = true →
    sideOk f (F.trj_COUNTER.ix i).who = true → unitDown s (.trj j) = false →
    exec (.counterWrite f j i v) s = .next (wr s (.trj j) (F.trj_COUNTER.ix i) v))
  ∧ (∀ (j i v w q pid : Nat) (s s1 : State), j < 64 → i < 64 → s.stage ≠ .tripped → v = rd s (.trj j) (F.trj_COUNTER.ix i) →
    w = rd s (.trj j) (F.trj_WATCH.ix i) → q = rd s (.trj j) F.trj_WATCH_Q →
    (s.trv.watchWait.contains (j, i) = false → exec (.watchRetry j i) s = .next s)
    ∧ (s.trv.watchWait = [(j, i)] → bitAt w 63 = true → w % 2 ^ 63 ≤ v → qOwner s q = ownerOf s (.trj j) →
      hwPost s (.trvJob j) q (natLE 1 i ++ natLE 7 0 ++ natLE 8 v) 0xFF 0xFFFF 0 false = (.parcel pid, s1) →
      Completes (.watchRetry j i) s (fun t => t.trv.watchWait = [] ∧ t.pool = s1.pool
        ∧ rd t (.trj j) (F.trj_WATCH.ix i) = w % 2 ^ 63)))

/-- The root counts each arrival once and releases every arrived peer at MEMBERS of them (R496); RELEASE arms the barrier's
trigger, or releases at once when it comes late (R497, R501); the release after the trigger posts DONE. The model's own choices,
no rule of the spec: log entry 67. -/
def Obligations.TraverseBarriers : Prop :=
  (∀ (k epoch src mem : Nat) (key : List Byte) (arr : List Nat) (others : List BarEpoch) (first : Nat) (s : State), k < 16 →
    s.stage ≠ .tripped → slotKey s (ef s .trg (F.trg_BAR_JOB.ix k)) = some key → leaseState s = 1 → (peerOf s src).st ≠ 2 → mem = ef s .trg (F.trg_BAR_MEMBERS.ix k) → 0 < mem →
    ef s .trg (F.trg_BAR_ROOT.ix k) = localPeer s → (k, epoch) ∉ s.trv.dropped →
    s.trv.epochs = others ++ [{ k := k, epoch := epoch, arrived := arr, first := first }] →
    (∀ e ∈ others, ¬ (e.k = k ∧ e.epoch = epoch)) →
    (src ∉ arr → arr.length + 1 < mem → Completes (.barrierArrive k epoch { src := src, key := key }) s (fun t =>
      t.trv.epochs = others ++ [{ k := k, epoch := epoch, arrived := arr ++ [src], first := first }] ∧ t.emitted = s.emitted))
    ∧ (src ∈ arr → arr.length < mem → exec (.barrierArrive k epoch { src := src, key := key }) s = .next s)
    ∧ (src ∉ arr → mem = arr.length + 1 → localPeer s ∉ arr ++ [src] →
      Completes (.barrierArrive k epoch { src := src, key := key }) s (fun t =>
      t.trv.epochs = others ∧ t.emitted = s.emitted ++ (arr ++ [src]).map (fun p =>
        .barRelease p (some key) k epoch (linNow s + 1000 * ef s .trg (F.trg_BAR_LEAD_US.ix k))))))
  ∧ (∀ (k epoch src : Nat) (key : List Byte) (s : State), k < 16 → s.stage ≠ .tripped → leaseState s = 1 → (peerOf s src).st ≠ 2 →
    slotKey s (ef s .trg (F.trg_BAR_JOB.ix k)) = some key → 1 < ef s .trg (F.trg_BAR_MEMBERS.ix k) → ef s .trg (F.trg_BAR_ROOT.ix k) = localPeer s → (k, epoch) ∉ s.trv.dropped →
    (∀ e ∈ s.trv.epochs, ¬ (e.k = k ∧ e.epoch = epoch)) →
    exec (.barrierArrive k epoch { src := src, key := key }) s = .next { s with trv := { s.trv with
      epochs := s.trv.epochs ++ [{ k := k, epoch := epoch, arrived := [src], first := s.mer.frc }] } })
  ∧ (∀ (k epoch : Nat) (a : Arrive) (r : Release) (s : State), k < 16 → s.stage ≠ .tripped →
    (leaseState s ≠ 1 →
      ((peerOf s a.src).st = 2 ∨ slotKey s (ef s .trg (F.trg_BAR_JOB.ix k)) = some a.key → exec (.barrierArrive k epoch a) s = .next s)
      ∧ (slotKey s (ef s .trg (F.trg_BAR_JOB.ix k)) = some r.key → exec (.barrierReleaseReceive k epoch r) s = .next s))
    ∧ ((peerOf s a.src).st ≠ 2 → slotKey s (ef s .trg (F.trg_BAR_JOB.ix k)) ≠ some a.key →
      exec (.barrierArrive k epoch a) s = .next (authDrop s a.src))
    ∧ (slotKey s (ef s .trg (F.trg_BAR_JOB.ix k)) ≠ some r.key →
      exec (.barrierReleaseReceive k epoch r) s = .next (authDrop s (ef s .trg (F.trg_BAR_ROOT.ix k)))))
  ∧ (∀ (k epoch tRel : Nat) (key : List Byte) (w : BarWait) (s : State), k < 16 → s.stage ≠ .tripped → leaseState s = 1 →
    slotKey s (ef s .trg (F.trg_BAR_JOB.ix k)) = some key → mapFind s.trv.barWait k = some w → w.epoch = epoch → w.rel = none → 0 < tRel → tRel < 2 ^ 63 →
    (timeNow s ≤ ((tRel - 1 : Nat) - (ef s .mer F.mer_X_LEAD : Nat) : Int) * 2 ^ 48 →
      Completes (.barrierReleaseReceive k epoch { tRel := tRel, key := key }) s (fun t => rd t .mer (F.mer_AT.ix (8 + k)) = tRel - 1
        ∧ rd t .mer (F.mer_PERIOD.ix (8 + k)) = 0 ∧ rd t .mer (F.mer_ARM.ix (8 + k)) = 1 ∧ rd t .mer (F.mer_LATE.ix (8 + k)) = 0
        ∧ mapFind t.trv.barWait k = some { w with rel := some tRel, late := false } ∧ t.trv.chans = s.trv.chans))
    ∧ (∀ s1 s2, ((tRel - 1 : Nat) - (ef s .mer F.mer_X_LEAD : Nat) : Int) * 2 ^ 48 < timeNow s →
      s1 = wr (wr s .mer (F.mer_AT.ix (8 + k)) (tRel - 1)) .mer (F.mer_PERIOD.ix (8 + k)) 0 →
      s2 = { s1 with trv := { s1.trv with barWait := mapPut s1.trv.barWait k { w with rel := some tRel, late := true } } } →
      exec (.barrierReleaseReceive k epoch { tRel := tRel, key := key }) s =
        .next (releaseBarrier (addSat (lateTrigger s2 (8 + k)) .trg F.trg_BAR_LATE 1) k)))
  ∧ (∀ (k epoch tRel : Nat) (key : List Byte) (s : State), k < 16 → s.stage ≠ .tripped → mapFind s.trv.barWait k = none →
    (slotKey s (ef s .trg (F.trg_BAR_JOB.ix k)) = some key → exec (.barrierReleaseReceive k epoch { tRel := tRel, key := key }) s = .next s)
    ∧ exec (.barrierRelease k) s = .next s ∧ exec (.barrierTimeout k) s = .next s)
  ∧ (∀ (k : Nat) (w : BarWait) (s : State), k < 16 → s.stage ≠ .tripped → mapFind s.trv.barWait k = some w →
    (w.fired = false → exec (.barrierRelease k) s = .next s)
    ∧ (∀ tRel it, w.fired = true → w.rel = some tRel → trc s w.c = [it] → it.id = w.id → exec (.barrierRelease k) s =
        .next (postTrvAll (decideTrv { s with trv := { s.trv with barWait := mapErase s.trv.barWait k } } w.c it 0x00
          (2 * ofBool w.late) tRel))))

/-- A member's BARRIER that is not released within TIMEOUT_MS completes with BARRIER_TIMEOUT; a root discards an epoch TIMEOUT_MS
after its first arrival, and ignores later arrivals of it (R502). The model's own choices, no rule of the spec: log entry 68. -/
def Obligations.BarrierTimeouts : Prop :=
  (∀ (k : Nat) (w : BarWait) (s : State), k < 16 → s.stage ≠ .tripped → mapFind s.trv.barWait k = some w →
    (s.mer.frc < w.since + 1000000 * ef s .trg (F.trg_BAR_TIMEOUT_MS.ix k) → exec (.barrierTimeout k) s = .next s)
    ∧ (w.since + 1000000 * ef s .trg (F.trg_BAR_TIMEOUT_MS.ix k) ≤ s.mer.frc → exec (.barrierTimeout k) s =
        .next (endWhere s (fun c it => decide (c = w.c) && decide (it.id = w.id)) (fun _ => 0xB5))))
  ∧ (∀ (k c : Nat) (w : BarWait) (it : TrvItem) (s s1 : State), k < 16 → s.stage ≠ .tripped → s.trv.barWait = [(k, w)] →
    s.trv.chans = [(c, [it])] → w.c = c → w.id = it.id → it.done = none →
    w.since + 1000000 * ef s .trg (F.trg_BAR_TIMEOUT_MS.ix k) ≤ s.mer.frc →
    s1 = { disarmTrigger s (8 + k) with trv := { s.trv with chans := [], barWait := [] } } →
    exec (.barrierTimeout k) s = .next (postReserved (addSat s1 (.trc c) F.trc_OPS_FAILED 1) it.cpl
      (natLE 1 0xB5 ++ natLE 1 0 ++ natLE 2 it.stake ++ natLE 4 it.req.tag ++ natLE 8 0) it.pid it.stake 0xB5))
  ∧ (∀ (k epoch : Nat) (e : BarEpoch) (s : State), k < 16 → s.stage ≠ .tripped → s.trv.epochs = [e] → e.k = k → e.epoch = epoch →
    (e.first + 1000000 * ef s .trg (F.trg_BAR_TIMEOUT_MS.ix k) ≤ s.mer.frc → Completes (.barrierEpochDiscard k epoch) s (fun t =>
      t.trv.epochs = [] ∧ t.trv.dropped = s.trv.dropped ++ [(k, epoch)]))
    ∧ (s.mer.frc < e.first + 1000000 * ef s .trg (F.trg_BAR_TIMEOUT_MS.ix k) → exec (.barrierEpochDiscard k epoch) s = .next s))
  ∧ (∀ (k epoch src : Nat) (key : List Byte) (s : State), k < 16 → s.stage ≠ .tripped → (k, epoch) ∈ s.trv.dropped →
    slotKey s (ef s .trg (F.trg_BAR_JOB.ix k)) = some key → exec (.barrierArrive k epoch { src := src, key := key }) s = .next s)

/-! ### Partitions and the host's rings (R508 to R534) -/

/-- Function `f` may write PART_CMD, and no command runs. -/
abbrev PartOpen (s : State) (f : Func) : Prop :=
  f.ok = true ∧ reach s f .hif = true ∧ sideOk f F.hif_PART_CMD.who = true ∧ unitDown s .hif = false
    ∧ rd s .hif F.hif_PART_BUSY = 0

/-- The state in which a PART_CMD runs: its operands are stored. -/
def asked (s : State) (p vf : Nat) : State := wr (wr s .hif F.hif_PART_PTN p) .hif F.hif_PART_VF vf

/-- What the end of a PART_CMD with result `r` leaves (R511). -/
def PartEnds (t : State) (r : Nat) : Prop :=
  rd t .hif F.hif_PART_RESULT = r ∧ rd t .hif F.hif_PART_BUSY = 0 ∧ bitAt (rd t .hif F.EVT_STATUS) 16 = true

/-- CREATE makes a free partition ACTIVE with new keys and binds its VF, DESTROY of an active one leaves nothing of it but its
storage's zeroing, which PARTITION_FREED ends, ABORT_PENDING completes journaled items with ABORTED, and each gives PART_RESULT
(R511, R512); a function-level reset and Bus Master Enable act on the VF's rings and messages (R510, R521); a read without a
completion ends in error (R509), one of a spilled tile with DATA_ERROR or STUCK (R200, R232). The model's own choices, no rule of
the spec: log entries 48, 49, 105. -/
def Obligations.PartitionCommands : Prop :=
  (∀ (f : Func) (p vf : Nat) (s : State), PartOpen s f → p < 64 → vf < 128 →
    (pstate s p = 0 → 0 < vf → vf ≤ rd s .hif F.hif_NUM_VFS → ptnOfVf s vf = none →
      Completes (.create f p vf) s (fun t => PartEnds t 0 ∧ pstate t p = 1 ∧ rd t (.ptn p) F.ptn_VF = vf
        ∧ ptn t p = { Partition.free with keys := some (fitBytes 32 (Config.randomBytes s.mon.draws)) } ∧ t.mon.draws = s.mon.draws + 1
        ∧ t.mon.keyGen = s.mon.keyGen + 1
        ∧ ∀ q, q ≠ p → ptn t q = ptn s q))
    ∧ (pstate s p ≠ 0 → exec (.create f p vf) s = .next (partResult (asked s p vf) 1))
    ∧ (pstate s p = 0 → vf = 0 ∨ rd s .hif F.hif_NUM_VFS < vf ∨ (ptnOfVf s vf).isSome = true →
      exec (.create f p vf) s = .next (partResult (asked s p vf) 2)))
  ∧ (∀ (f : Func) (p : Nat) (s s1 : State), PartOpen s f → p < 64 → s1 = asked s p (rd s .hif F.hif_PART_VF) →
    (pstate s p ≠ 1 → exec (.destroy f p) s = .next (partResult s1 1) ∧ exec (.abortPending f p) s = .next (partResult s1 1))
    ∧ (pstate s p = 1 → destroyBlocked s1 p = true → exec (.destroy f p) s = .next (partResult s1 3))
    ∧ (pstate s p = 1 → destroyBlocked s1 p = false → exec (.destroy f p) s = .next (destroyPartition s1 p)
      ∧ Completes (.destroy f p) s (fun t => ptn t p = { Partition.free with wipe := (ptn t p).wipe } ∧ rd t (.ptn p) F.ptn_VF = 0))
    ∧ (∀ it, pstate s p = 1 → (ptn s p).items = [it] → it.journal = true → it.lb = .accepted → it.status = none → it.confirm = false →
      Completes (.abortPending f p) s (fun t => PartEnds t 0 ∧ (ptn t p).items =
        [{ it with pid := none, status := some 0x0A, redo := false, lb := .committing }]))
    ∧ (pstate s p = 1 → (∀ it ∈ (ptn s p).items, it.journal = false) →
      exec (.abortPending f p) s = .next (partResult s1 0)))
  ∧ (∀ (p : Nat) (s : State), p < 64 → s.stage ≠ .tripped →
    (pstate s p = 2 → wiped s p = true → Completes (.partitionFreed p) s (fun t => PartEnds t 0 ∧ pstate t p = 0 ∧ t.ptns = s.ptns))
    ∧ (pstate s p ≠ 2 ∨ wiped s p = false → exec (.partitionFreed p) s = .next s))
  ∧ (∀ (vf p : Nat) (s : State), 1 ≤ vf → vf ≤ 64 → s.stage ≠ .tripped → ptnOfVf s vf = some p →
    Completes (.functionLevelReset vf) s (fun t => bmeOn t vf = false ∧ mapGet false t.msixOff vf = true
      ∧ (∀ e, e ∈ t.msixHeld → e.1 ≠ vf)
      ∧ ∀ k, k < 16 → ef t (.ptn p) (F.ptn_SQ_EN.ix k) = 0 ∧ (sqAt t p k).held = none ∧ (sqAt t p k).stopped = false))
  ∧ (∀ (vf : Nat) (s : State), 1 ≤ vf → vf ≤ 64 → s.stage ≠ .tripped →
    exec (.busMasterEnable vf false) s = .next { s with bme := mapSet false s.bme vf false }
    ∧ (ptnOfVf s vf = none → Completes (.busMasterEnable vf true) s (fun t => bmeOn t vf = true ∧ mapGet false t.msixOff vf = false
      ∧ t.msixHeld = s.msixHeld.filter (fun e => decide (e.1 ≠ vf))
      ∧ t.emitted = s.emitted ++ (s.msixHeld.filter (fun e => decide (e.1 = vf))).map (fun e => .msix e.1 e.2))))
  ∧ (∀ (p k n : Nat) (s : State), p < 64 → k < 16 → n < 1024 → s.stage ≠ .tripped →
    (∀ m x, migOf s p n = some m → m.srcTier = 3 → m.dstUnit.isSome = true → tileOf s p n = some x → quiesced s .tir = false →
      exec (.cplTimeout (.tierCopy p n)) s = .next (stickTile (addSat s .hif F.hif_CPL_TIMEOUTS 1) p n x))
    ∧ (migOf s p n = none → exec (.cplTimeout (.tierCopy p n)) s = .next s)
    ∧ (mayFetch s p k = true → Completes (.cplTimeout (.sqEntry p k)) s (fun t => (sqAt t p k).stopped = true
        ∧ (sqAt t p k).held = none ∧ bitAt (rd t (.ptn p) F.ERR_STATUS) 19 = true
        ∧ rd t .hif F.hif_CPL_TIMEOUTS = satTo (2 ^ 32 - 1) (rd s .hif F.hif_CPL_TIMEOUTS + 1)))
    ∧ (mayFetch s p k = false → exec (.cplTimeout (.sqEntry p k)) s = .next s)
    ∧ (∀ h, (sqAt s p k).held = some h → h.pid.isSome = true → h.copied = false → entryInline h.bytes = false → (busOf s p).isSome = true →
      exec (.cplTimeout (.payload p k)) s = .next (workHeld (addSat s .hif F.hif_CPL_TIMEOUTS 1) p k none))
    ∧ ((∀ it ∈ (ptn s p).items, it.confirm = false) → exec (.cplTimeout (.confirm p)) s = .next s)
    ∧ ((ptn s p).recovering = false → exec (.cplTimeout (.record p n)) s = .next s)
    ∧ (∀ it, (ptn s p).recovering = true → (ptn s p).mirrorDue = false →
      (ptn s p).items.find? (fun it => it.redo && decide (it.seq = n)) = some it → it.lb = .accepted → it.stake = none →
      (busOf s p).isSome = true → exec (.cplTimeout (.record p n)) s =
        .next (loseInput (dropStakeWait (addSat s .hif F.hif_CPL_TIMEOUTS 1) (hifAg p 16)) p it))
    ∧ (∀ it, (mov s n).items.find? (fun it => readsHost it || readsSpilled s (ownerOf s (.mov n)) it) = some it →
      exec (.cplTimeout (.mover n)) s = .next (postAll (finishItem (addSat s .hif F.hif_CPL_TIMEOUTS 1) n it
        (if readsHost it then 0x84 else 0x0B)) n))
    ∧ ((mov s n).items.find? (fun it => readsHost it || readsSpilled s (ownerOf s (.mov n)) it) = none → exec (.cplTimeout (.mover n)) s = .next s))

/-- The parcel can be committed: it stands uncommitted in a queue that is on and in which no reservation waits. -/
def commitsWell (s : State) (pid : Nat) : Bool :=
  (parcelOf s pid).any (fun x => decide (queueStop s x.q = none) && !x.committed && (queue s x.q).line.isEmpty)

/-- Doorbells move the rings' indexes or set DOORBELL_BAD (R519); SQ_FETCH takes the entry at SQ_HEAD or stops the ring (R518);
PARCEL and SQ_NOP accept a fetched entry, which takes its CQ position, and SQ_HEAD passes it (R516, R517), a journaled one with
its record in the input log, where there is room for it (R525); CQ_ENTRY_WRITE writes the next entry (R520, R522); a confirming
read moves its items on (R525, R526); RECOVERY_END ends a recovery whose items are all treated (R528). The model's own choices, no
rule of the spec: log entries 45, 46, 47, 51, 52. -/
def Obligations.HostRings : Prop :=
  (∀ (f : Func) (p k v : Nat) (s : State), f.ok = true → p < 64 → k < 16 → v < 65536 → reach s f (.ptn p) = true →
    unitDown s (.ptn p) = false →
    (sideOk f (F.ptn_SQ_TAIL.ix k).who = true →
      (v < sqSize s p k → exec (.sqDoorbell f p k v) s = .next (wr s (.ptn p) (F.ptn_SQ_TAIL.ix k) v))
      ∧ (sqSize s p k ≤ v → exec (.sqDoorbell f p k v) s = .next (setErr s (.ptn p) 18)))
    ∧ (sideOk f (F.ptn_CQ_HEAD.ix k).who = true →
      (cqSize s p k ≤ v → exec (.cqHeadWrite f p k v) s = .next (setErr s (.ptn p) 18))
      ∧ (∀ d, v = ((cqAt s p k).released + d) % cqSize s p k → 0 < d → d < cqSize s p k →
        (cqAt s p k).released + d ≤ (cqAt s p k).written → Completes (.cqHeadWrite f p k v) s (fun t =>
          cqAt t p k = { cqAt s p k with released := (cqAt s p k).released + d } ∧ rd t (.ptn p) (F.ptn_CQ_HEAD.ix k) = v))
      ∧ (∀ d, v = ((cqAt s p k).released + d) % cqSize s p k → 0 < d → d < cqSize s p k →
        (cqAt s p k).written < (cqAt s p k).released + d → exec (.cqHeadWrite f p k v) s = .next (setErr s (.ptn p) 18))
      ∧ (v = (cqAt s p k).released % cqSize s p k → (cqAt s p k).written = (cqAt s p k).released + cqSize s p k →
        Completes (.cqHeadWrite f p k v) s (fun t => cqAt t p k = { cqAt s p k with released := (cqAt s p k).written }))))
  ∧ (∀ (p k : Nat) (s : State), p < 64 → k < 16 → s.stage ≠ .tripped →
    (mayFetch s p k = true →
      (∀ (v : Nat) (b : List Byte) (h : SqHeld), busOf s p = some v →
        h = { bytes := (hostLoad s v (sqHeadAddr s p k) 64 b).1, stake := none, room := none, pid := none, copied := false,
              status := none, counted := false } →
        exec (.sqFetch p k (some b)) s =
          .next (setSq (hostLoad s v (sqHeadAddr s p k) 64 b).2 p k { sqAt s p k with held := some h }))
      ∧ exec (.sqFetch p k none) s = .next (setErr (setSq s p k { sqAt s p k with stopped := true }) (.ptn p) 19))
    ∧ (mayFetch s p k = false → ∀ b, exec (.sqFetch p k b) s = .next s))
  ∧ (∀ (p k c st : Nat) (h : SqHeld) (b : Option (List Byte)) (s : State), p < 64 → k < 16 → s.stage ≠ .tripped →
    (sqAt s p k).held = some h → h.stake.isSome = true → h.room = some c → h.pid = none → h.status = none → c < 16 →
    heldBlock s (.ptn p) = false → heldBlock s .hif = false → ef s (.ptn p) (F.ptn_JOURNAL.ix k) = 0 → entryStatus s p h.bytes = some st →
    ∀ i ∈ [(Instr.parcel p k b, decide (entryOpc h.bytes ≠ 2)), (.sqNop p k, decide (entryOpc h.bytes = 2))],
      (i.2 = true → Completes i.1 s (fun t => (sqAt t p k).held = none
        ∧ (cqAt t p c).reserved = (cqAt s p c).reserved + 1
        ∧ rd t (.ptn p) (F.ptn_SQ_HEAD.ix k) = (rd s (.ptn p) (F.ptn_SQ_HEAD.ix k) + 1) % sqSize s p k % 2 ^ 16
        ∧ rd t .hif F.hif_SUBMITS = satTo (2 ^ 64 - 1) (rd s .hif F.hif_SUBMITS + 1)
        ∧ ∃ it, (ptn t p).items = (ptn s p).items ++ [it] ∧ it.sq = k ∧ it.cq = c ∧ it.pos = (cqAt s p c).reserved
          ∧ it.cid = entryCid h.bytes ∧ it.status = some st ∧ it.lb = .committing ∧ it.pid = none ∧ it.journal = false))
      ∧ (i.2 = false → exec i.1 s = .next s))
  ∧ (∀ (p k c pid : Nat) (h : SqHeld) (b : Option (List Byte)) (s : State), p < 64 → k < 16 → s.stage ≠ .tripped →
    (sqAt s p k).held = some h → h.stake.isSome = true → h.room = some c → h.pid = some pid → h.status = none → c < 16 →
    heldBlock s (.ptn p) = false → heldBlock s .hif = false → entryOpc h.bytes = 1 → ef s (.ptn p) (F.ptn_JOURNAL.ix k) = 0 →
    (commitsWell s pid = true → h.copied = true ∨ entryInline h.bytes = true ∨ (b.isSome = true ∧ (busOf s p).isSome = true) →
      Completes (.parcel p k b) s (fun t => (sqAt t p k).held = none ∧ (cqAt t p c).reserved = (cqAt s p c).reserved + 1
        ∧ ∃ it, (ptn t p).items = (ptn s p).items ++ [it] ∧ it.sq = k ∧ it.cq = c ∧ it.cid = entryCid h.bytes
          ∧ it.pid = some pid ∧ it.status = none ∧ it.lb = .accepted))
    ∧ (h.copied = false → entryInline h.bytes = false → (busOf s p).isSome = true →
      Completes (.parcel p k none) s (fun t => (sqAt t p k).held = none
        ∧ ∃ it, (ptn t p).items.getLast? = some it ∧ it.cid = entryCid h.bytes ∧ it.pid = none ∧ it.status = some 0xC2
          ∧ it.lb = .committing)))
  ∧ (∀ (p k c pid v : Nat) (h : SqHeld) (r : List Byte) (b : Option (List Byte)) (s : State), p < 64 → k < 16 → s.stage ≠ .tripped →
    (sqAt s p k).held = some h → h.stake.isSome = true → h.room = some c → h.pid = some pid → h.status = none → c < 16 →
    heldBlock s (.ptn p) = false → heldBlock s .hif = false → entryOpc h.bytes = 1 → ef s (.ptn p) (F.ptn_JOURNAL.ix k) ≠ 0 →
    h.copied = true → busOf s p = some v → r = logRecord (rd s (.ptn p) F.ptn_NEXT_SEQ) h.bytes (payload s pid) →
    (logBusy s p r.length = false → Completes (.parcel p k b) s (fun t => (sqAt t p k).held = none
      ∧ (cqAt t p c).reserved = (cqAt s p c).reserved + 1
      ∧ rd t (.ptn p) F.ptn_NEXT_SEQ = (rd s (.ptn p) F.ptn_NEXT_SEQ + 1) % 2 ^ F.ptn_NEXT_SEQ.w
      ∧ ∃ it, (ptn t p).items = (ptn s p).items ++ [it] ∧ it.sq = k ∧ it.cq = c ∧ it.cid = entryCid h.bytes ∧ it.pid = some pid
        ∧ it.journal = true ∧ it.seq = rd s (.ptn p) F.ptn_NEXT_SEQ ∧ it.logOff = logPlace s p r.length ∧ it.logLen = r.length
        ∧ it.check = checkOf r ∧ it.status = none ∧ it.lb = .accepted ∧ it.confirm = true))
    ∧ (logBusy s p r.length = true → Completes (.parcel p k b) s (fun t => (ptn t p).items = (ptn s p).items
      ∧ (sqAt t p k).held = some { h with counted := true } ∧ t.hostMem = s.hostMem)))
  ∧ (∀ (p c v : Nat) (it : HostItem) (s : State), p < 64 → c < 16 → s.stage = .ready → busOf s p = some v →
    (ptn s p).items = [it] → ef s (.ptn p) (F.ptn_CQ_EN.ix c) = 1 → it.cq = c → it.lb = .committing → it.confirm = false → it.pos = (cqAt s p c).written →
    it.journal = false →
    Completes (.cqEntryWrite p c) s (fun t => (ptn t p).items = [] ∧ (cqAt t p c).written = (cqAt s p c).written + 1
      ∧ t.hostMem = storeBytes s.hostMem (2 ^ 64 * v + (ef s (.ptn p) (F.ptn_CQ_BASE.ix c) + 16 * (it.pos % cqSize s p c)) % 2 ^ 64)
          (cqBytes it (cqSize s p c))))
  ∧ (∀ (p c : Nat) (s : State), p < 64 → c < 16 → s.stage ≠ .tripped → cqNext s p c = none →
    exec (.cqEntryWrite p c) s = .next s)
  ∧ (∀ (p : Nat) (it : HostItem) (s : State), p < 64 → s.stage ≠ .tripped → (ptn s p).items = [it] →
    (it.confirm = false → ∀ ok, exec (.confirmReadDone p ok) s = .next s)
    ∧ (it.confirm = true → it.lb = .committing → Completes (.confirmReadDone p true) s (fun t => (ptn t p).items = []))
    ∧ (it.confirm = true → it.lb = .accepted → it.status = none → it.pid.all (commitsWell s) = true → Completes (.confirmReadDone p true) s (fun t =>
      (ptn t p).items = [{ it with confirm := false }]))
    ∧ (it.confirm = true → it.lb = .accepted → it.status.isSome = true → Completes (.confirmReadDone p true) s (fun t =>
      (ptn t p).items = [{ it with confirm := false, lb := .committing }]))
    ∧ (it.confirm = true → it.lb = .committing → it.stake = none → Completes (.confirmReadDone p false) s (fun t =>
      (ptn t p).items = [] ∧ rd t .hif F.hif_CPL_TIMEOUTS = satTo (2 ^ 32 - 1) (rd s .hif F.hif_CPL_TIMEOUTS + 1))))
  ∧ (∀ (p : Nat) (s : State), p < 64 → s.stage = .ready → heldBlock s .hif = false →
    ((ptn s p).recovering = true → (ptn s p).mirrorDue = false → (∀ it ∈ (ptn s p).items, it.redo = false) →
      CompletesMem (.recoveryEnd p) s (fun t => (ptn t p).recovering = false ∧ (ptn t p).recovered = true
        ∧ rd t (.ptn p) F.ptn_LB_STATE = ef s (.ptn p) F.ptn_LB_EN % 2 ^ F.ptn_LB_STATE.w
        ∧ bitAt (rd t (.ptn p) F.EVT_STATUS) 17 = true ∧ (ptn t p).items = (ptn s p).items))
    ∧ ((ptn s p).recovering = true → recoverDone (recoverOn s p) p = false → exec (.recoveryEnd p) s = .next (condemnDue (recoverOn s p)))
    ∧ ((ptn s p).recovering = false → exec (.recoveryEnd p) s = .next (condemnDue s)))

/-! ### Health, injection and Monument (R559 to R598) -/

/-- A window close moves each kind's LIVE count into MIN and TOTAL (R560); an accepted instruction of the fault manager sets
LAST_FM_SEQ and drains, undrains or expels, any other counts in SIG_REJECTS (R565 to R567); DRAINED follows the last item (R567).
The model's own choices, no rule of the spec: log entries 118, 119, 120. -/
def Obligations.HealthManager : Prop :=
  (∀ (t0 : Nat) (s : State), s.stage ≠ .tripped → s.hlt.openTick = some t0 →
    (t0 + 60000000000 ≤ s.mer.frc → Completes .healthWindowClose s (fun t => t.hlt.openTick = some (t0 + 60000000000)
      ∧ (∀ k, k < 13 → rd t .hlt (F.hlt_K_LIVE.ix k) = 0 ∧ rd t .hlt (F.hlt_K_MIN.ix k) = rd s .hlt (F.hlt_K_LIVE.ix k) % 2 ^ 64
        ∧ rd t .hlt (F.hlt_K_TOTAL.ix k) =
            satTo (2 ^ 64 - 1) (rd s .hlt (F.hlt_K_TOTAL.ix k) + rd s .hlt (F.hlt_K_LIVE.ix k)))
      ∧ (rd t .hlt F.hlt_GRADE ≠ rd s .hlt F.hlt_GRADE → rd s .hlt F.hlt_GRADE_SINCE + 600000000000 ≤ t0 + 60000000000)))
    ∧ (s.mer.frc < t0 + 60000000000 → exec .healthWindowClose s = .next s))
  ∧ (∀ s : State, s.stage ≠ .tripped → s.hlt.openTick = none → exec .healthWindowClose s = .next s)
  ∧ (∀ (b key : List Byte) (s : State),
    (b.length ≠ 100 → fmResult s b = 5)
    ∧ (b.length = 100 → mapFind s.mon.anchors 1 = none → fmResult s b = 2)
    ∧ (b.length = 100 → mapFind s.mon.anchors 1 = some key → leAt b 12 16 = s.mon.deviceId → leAt b 1 1 = 1 →
      zeroBytes b 2 4 = true → zeroBytes b 28 36 = true → 1 ≤ leAt b 0 1 → leAt b 0 1 ≤ 3 →
      fmResult s b = if Config.sm2Verify key (b.take 36) (b.drop 36) = true then (if leAt b 4 8 ≤ s.mon.lastFmSeq then 4 else 1) else 2))
  ∧ (∀ (b : List Byte) (r : Nat) (s s1 s2 : State), s.stage ≠ .tripped → endpointOn s = true → r = fmResult s b →
    s1 = wr (wr s .hlt F.hlt_FM_RESULT r) .hlt F.hlt_FM_OP (leAt b 0 1) →
    s2 = setEvt { s1 with mon := { s1.mon with lastFmSeq := leAt b 4 8 } } .hlt 22 →
    (leAt b 0 1 = 1 → exec (.drain b) s = .next (emit
      (if r = 1 then wr s2 .hlt F.hlt_DRAINING 1 else addSat s1 .hlt F.hlt_SIG_REJECTS 1) (.mgmtReply (fmStatus r) (natLE 1 r))))
    ∧ (leAt b 0 1 = 2 → exec (.undrain b) s = .next (emit
      (if r = 1 then (if rd s .hlt F.hlt_EXPELLED = 1 then s2 else wr (wr s2 .hlt F.hlt_DRAINING 0) .hlt F.hlt_DRAINED 0)
        else addSat s1 .hlt F.hlt_SIG_REJECTS 1) (.mgmtReply (fmStatus r) (natLE 1 r))))
    ∧ (leAt b 0 1 = 3 → exec (.expel b) s = .next (emit
      (if r = 1 then expelNow s2 else addSat s1 .hlt F.hlt_SIG_REJECTS 1) (.mgmtReply (fmStatus r) (natLE 1 r))))
    ∧ (leAt b 0 1 = 1 → exec (.undrain b) s = .next s ∧ exec (.expel b) s = .next s)
    ∧ (leAt b 0 1 = 3 → exec (.drain b) s = .next s)
    ∧ (leAt b 0 1 = 0 ∨ 3 < leAt b 0 1 → ∀ c ∈ [Instr.drain b, .undrain b, .expel b], exec c s =
        .next (emit (addSat s1 .hlt F.hlt_SIG_REJECTS 1) (.mgmtReply (fmStatus r) (natLE 1 r)))))
  ∧ (∀ (b : List Byte) (s : State), s.stage ≠ .tripped → endpointOn s = false →
    ∀ c ∈ [Instr.drain b, .undrain b, .expel b], exec c s = .next s)
  ∧ (∀ s : State, s.trv.chans = [] →
    rd (expelNow s) .hlt F.hlt_EXPELLED = 1 ∧ Emit.pldm "EXPELLED" ∈ (expelNow s).emitted
    ∧ (leaseState s = 1 → leaseState (expelNow s) = 2)
    ∧ (platRunning s = true → s.plat.stopping = false → (expelNow s).plat.stopReq = true))
  ∧ (∀ s : State, s.stage ≠ .tripped →
    (rd s .hlt F.hlt_DRAINING = 1 → rd s .hlt F.hlt_DRAINED = 0 → (∀ e ∈ s.ptns, e.2.items = []) →
      exec .drainComplete s = .next (emit (setEvt (wr s .hlt F.hlt_DRAINED 1) .hlt 19) (.pldm "DRAINED")))
    ∧ (rd s .hlt F.hlt_DRAINING = 0 ∨ (∃ e ∈ s.ptns, e.2.items ≠ []) → exec .drainComplete s = .next s))

/-- INJ_REQ asks for consent, which the policy gives for INJ_LIMIT_S seconds, and withdraws it (R568); with it an INJECT write
arms a memory fault on its page, condemns its unit or takes its links down, without it INJECT_DENIED is set (R568, R569). The
model's own choices, no rule of the spec: log entry 125. -/
def Obligations.FaultInjection : Prop :=
  (∀ (f : Func) (limit : Nat) (s : State), f.ok = true → reach s f .hlt = true → sideOk f F.hlt_INJ_REQ.who = true →
    unitDown s .hlt = false → limit < 4096 →
    Completes (.injReq f false limit) s (fun t => rd t .hlt F.hlt_INJ_GRANTED = 0 ∧ t.hlt.injEnd = none
      ∧ rd t .hlt F.hlt_INJ_REQ = 0 ∧ rd t .hlt F.hlt_INJ_LIMIT_S = limit)
    ∧ (1 ≤ limit → limit ≤ 3600 → policyPermits s = true → Completes (.injReq f true limit) s (fun t =>
      rd t .hlt F.hlt_INJ_GRANTED = 1 ∧ t.hlt.injEnd = some (s.mer.frc + 1000000000 * limit) ∧ rd t .hlt F.hlt_INJ_REQ = 1))
    ∧ (limit = 0 ∨ 3600 < limit ∨ policyPermits s = false → exec (.injReq f true limit) s =
        .next (wr (wr s .hlt F.hlt_INJ_LIMIT_S limit) .hlt F.hlt_INJ_REQ 1)))
  ∧ (∀ (e : Nat) (s : State), s.stage ≠ .tripped → s.hlt.injEnd = some e →
    (e ≤ s.mer.frc → Completes .injConsentExpiry s (fun t => rd t .hlt F.hlt_INJ_GRANTED = 0 ∧ t.hlt.injEnd = none))
    ∧ (s.mer.frc < e → exec .injConsentExpiry s = .next s))
  ∧ (∀ (p : Page) (s s1 : State), p.ok = true → reach s .pf p = true →
    ∀ c ∈ [(Instr.injectCorrectable .pf p, 1), (.injectUncorrectable .pf p, 2), (.injectCondemn .pf p, 3), (.injectLockLoss .pf p, 4)],
      (faultOn p c.2 = true → consented s p = true → s1 = addSat (wr (wr s p F.FAULT c.2) p F.INJ_ARM (if c.2 < 3 then 1 else 0)) .hlt F.hlt_INJ_COUNT 1 →
        (c.2 = 1 ∨ c.2 = 2 → exec c.1 s = .next s1)
        ∧ (∀ u, c.2 = 3 → (∀ q, p ≠ .fhp q) → unitOf p = some u → exec c.1 s = .next (condemn s1 u 0x3F true))
        ∧ (∀ q, c.2 = 3 → p = .fhp q → exec c.1 s =
            .next (linksAfterLoss ((fhLanes s1 q).foldl (fun s l => condemn s (616 + l) 0x3F true) s1) true))
        ∧ (∀ q, c.2 = 4 → p = .fhp q → exec c.1 s = .next (if (fhp s1 q).up = true then fhLinkDown s1 q true else s1)))
      ∧ (faultOn p c.2 = false ∨ consented s p = false → exec c.1 s = .next (setErr s p 4)))
  ∧ (∀ (v : Nat) (p : Page) (s : State), (Func.vf v).ok = true → p.ok = true → s.stage ≠ .tripped →
    ∀ c ∈ [(Instr.injectCorrectable (.vf v) p, 1), (.injectUncorrectable (.vf v) p, 2), (.injectCondemn (.vf v) p, 3),
        (.injectLockLoss (.vf v) p, 4)],
      (reach s (.vf v) p = false → exec c.1 s = .next (denyAccess s (.vf v)))
      ∧ (reach s (.vf v) p = true → rd s p F.INJ_ARM = 1 → rd s p F.FAULT = c.2 → exec c.1 s = .next s)
      ∧ (reach s (.vf v) p = true → rd s p F.INJ_ARM ≠ 1 ∨ rd s p F.FAULT ≠ c.2 → exec c.1 s = .next (setErr s p 2)))

/-- A condemnation caused by an injected fault sets INJECTED and CAUSE 0x3F, and appends no field defect entry (R39): of
INJECT_CONDEMN on a unit's page, on a port's page for each of its lanes, and of every condemnation that an injected error leads
to. -/
def Obligations.InjectedCondemnation : Prop :=
  (∀ (p : Page) (s : State), p.ok = true → s.stage = .ready → faultOn p 3 = true → consented s p = true →
    Completes (.injectCondemn .pf p) s (fun t => t.fp.fdr = s.fp.fdr
      ∧ ∀ u, u < 712 → unitUp s u = true → (unitOf p = some u ∨ ∃ q l, p = .fhp q ∧ l ∈ fhLanes s q ∧ u = 616 + l) →
        unitEntry t u % 4 = 2 ∧ bitAt (unitEntry t u) 6 = true ∧ bits (unitEntry t u) 26 6 = 0x3F))
  ∧ (∀ (u cause : Nat) (s t : State), u < 712 → s.stage = .ready → unitUp s u = true → t = condemn s u cause true →
    t.fp.fdr = s.fp.fdr ∧ unitEntry t u % 4 = 2 ∧ bitAt (unitEntry t u) 6 = true ∧ bits (unitEntry t u) 26 6 = 0x3F)

/-- ATTEST_GO queues a report with the NONCE in effect, and ATTEST_REPORT posts the oldest or says why not (R582); the endpoint
serves certificates, signatures and measurements (R581, R594) and takes its ID (R594); a component that verifies and is not older
goes to the other flash slot (R595). The model's own choices, no rule of the spec: log entries 123, 124. -/
def Obligations.Attestation : Prop :=
  (∀ (f : Func) (n : Nat) (s : State), f.ok = true → n < 64 →
    ∀ c ∈ [(Page.mon, F.mon_ATTEST_GO, F.mon_ATTEST_BUSY, F.mon_NONCE), (.ptn n, F.ptn_ATTEST_GO, F.ptn_ATTEST_BUSY, F.ptn_NONCE)],
      reach s f c.1 = true → sideOk f c.2.1.who = true → unitDown s c.1 = false →
      (rd s c.1 c.2.2.1 = 0 → Completes (.attestGo f c.1) s (fun t => rd t c.1 c.2.2.1 = 1 ∧ t.mon.attests =
        s.mon.attests ++ [(c.1, (List.range 8).flatMap (fun k => natLE 4 (rd s c.1 (c.2.2.2.ix k))))]))
      ∧ (rd s c.1 c.2.2.1 = 1 → exec (.attestGo f c.1) s = .next s))
  ∧ (∀ (n pid : Nat) (nonce : List Byte) (rest : List (Page × List Byte)) (s s0 s1 : State), n < 64 → s.stage = .ready →
    erasing s = false → s0 = { s with mon := { s.mon with attests := rest } } →
    ∀ c ∈ [(Page.mon, none, F.mon_ATTEST_Q, F.mon_ATTEST_BUSY, F.mon_ATTEST_RESULT),
        (.ptn n, some n, F.ptn_ATTEST_Q, F.ptn_ATTEST_BUSY, F.ptn_ATTEST_RESULT)], s.mon.attests = (c.1, nonce) :: rest →
      (qOwner s0 (rd s0 c.1 c.2.2.1) = c.2.1.getD 0xFF →
        hwPost s0 .monument (rd s0 c.1 c.2.2.1) (reportBytes s0 c.2.1 nonce) 0xFF 0xFFFF 0 false = (.parcel pid, s1) →
        Completes (.attestReport c.1) s (fun t => t.pool = s1.pool ∧ rd t c.1 c.2.2.2.1 = 0 ∧ rd t c.1 c.2.2.2.2 = 1
          ∧ t.mon.attests = rest ∧ t.mon.draws = s1.mon.draws + 1))
      ∧ (qOwner s0 (rd s0 c.1 c.2.2.1) ≠ c.2.1.getD 0xFF → Completes (.attestReport c.1) s (fun t => t.pool = s.pool
          ∧ rd t c.1 c.2.2.2.1 = 0 ∧ rd t c.1 c.2.2.2.2 = 2 ∧ t.mon.attests = rest)))
  ∧ (∀ (p : Page) (s : State), p.ok = true → s.stage ≠ .tripped → s.mon.attests = [] → exec (.attestReport p) s = .next s)
  ∧ (∀ s : State, s.stage ≠ .tripped → endpointOn s = true →
    (∀ slot off len, slot < 2 → exec (.getCertificate slot off len) s =
      .next (emit s (.mgmtReply 0 (((certificate s slot).drop off).take len))))
    ∧ (∀ slot off len, 2 ≤ slot → exec (.getCertificate slot off len) s = .next (emit s (.mgmtReply 2 [])))
    ∧ (∀ slot (nonce : List Byte), slot < 2 → nonce.length = 32 →
      (erasing s = false → exec (.challenge slot nonce) s = .next (emit { s with mon := { s.mon with draws := s.mon.draws + 1 } }
        (.mgmtReply 0 (if slot = 0 then signDik s nonce else signAk s nonce))))
      ∧ (erasing s = true → exec (.challenge slot nonce) s = .next (emit s (.mgmtReply 3 []))))
    ∧ (∀ slot (nonce : List Byte), 2 ≤ slot ∨ nonce.length ≠ 32 → exec (.challenge slot nonce) s = .next (emit s (.mgmtReply 2 [])))
    ∧ exec (.getMeasurements 0xFF) s = .next (emit s (.mgmtReply 0 (measured s 8)))
    ∧ (∀ i, i < 8 → exec (.getMeasurements i) s = .next (emit s (.mgmtReply 0 (((measured s 8).drop (32 * i)).take 32))))
    ∧ (∀ i, 8 ≤ i → i ≠ 0xFF → exec (.getMeasurements i) s = .next (emit s (.mgmtReply 2 []))))
  ∧ (∀ (slot off len i : Nat) (b : List Byte) (s : State), s.stage ≠ .tripped → endpointOn s = false →
    ∀ c ∈ [Instr.getCertificate slot off len, .challenge slot b, .getMeasurements i], exec c s = .next s)
  ∧ (∀ (e : Nat) (s : State), e < 256 → s.stage ≠ .tripped → s.pwr.pwrok = true →
    (0 < e → e < 255 → exec (.setEndpointId e) s = .next (emit { s with mon := { s.mon with eid := some e } } (.mgmtReply 0 [])))
    ∧ (e = 0 ∨ e = 255 → exec (.setEndpointId e) s = .next (emit s (.mgmtReply 2 []))))
  ∧ (∀ (image sig : List Byte) (svn : Nat) (s : State), s.stage ≠ .tripped → s.pwr.pwrok = true →
    Completes (.firmwareUpdate image sig svn) s (fun t =>
      (Config.sm2Verify Config.raloxKey (image ++ natLE 2 svn) sig = false → t = emit s (.mgmtReply 1 []))
      ∧ (Config.sm2Verify Config.raloxKey (image ++ natLE 2 svn) sig = true →
        (svn < s.mon.svnFused ∨ 2 ^ 16 ≤ svn → t = emit s (.mgmtReply 3 []))
        ∧ (s.mon.svnFused ≤ svn → svn < 2 ^ 16 → t.emitted = s.emitted ++ [.mgmtReply 0 []]
          ∧ mapFind t.mon.slotImage (1 - s.mon.bootSlot % 2) = some image ∧ mapFind t.mon.slotSvn (1 - s.mon.bootSlot % 2) = some svn
          ∧ t.mon.nextSlot = 1 - s.mon.bootSlot % 2 ∧ t.mon.bootSlot = s.mon.bootSlot ∧ t.mon.svnFused = s.mon.svnFused))))

/-- ANCHOR_SET writes an empty slot, and a full one only under its own key's signature (R579); INJ_POLICY stores the policy
(R593); a challenge is drawn, held for 600 s, and spent (R587); an accepted token starts the debug erase, any other counts in
DBG_REJECTS (R588 to R590); the erase's end opens the port (R590, R592). The model's own choices, no rule of the spec: log entries
117, 123. -/
def Obligations.DebugAndPolicy : Prop :=
  (∀ (slot : Nat) (key sig : List Byte) (s s1 : State), s.stage ≠ .tripped → endpointOn s = true →
    s1 = emit { s with mon := { s.mon with anchors := mapPut s.mon.anchors slot key } } (.mgmtReply 0 []) →
    (slot < 3 → key.length = 64 → mapFind s.mon.anchors slot = none → exec (.anchorSet slot key sig) s = .next s1)
    ∧ (∀ old, slot < 3 → key.length = 64 → mapFind s.mon.anchors slot = some old → exec (.anchorSet slot key sig) s =
        .next (if sig.length ≠ 64 then emit s (.mgmtReply 2 [])
          else if Config.sm2Verify old (natLE 1 slot ++ key) sig = true then s1 else emit s (.mgmtReply 1 [])))
    ∧ (3 ≤ slot ∨ key.length ≠ 64 → exec (.anchorSet slot key sig) s = .next (emit s (.mgmtReply 2 []))))
  ∧ (∀ (v : Nat) (s : State), s.stage ≠ .tripped → endpointOn s = true →
    (v ≤ 2 → exec (.injPolicy v) s = .next (emit { s with mon := { s.mon with injPolicy := v } } (.mgmtReply 0 [])))
    ∧ (2 < v → exec (.injPolicy v) s = .next (emit s (.mgmtReply 2 []))))
  ∧ (∀ (b : List Byte) (s : State), s.stage ≠ .tripped →
    (s.pwr.pwrok = true → Completes .dbgChallenge s (fun t => ∃ b, b.length = 32 ∧ t.mon.challenge = some (b, s.mer.frc)
      ∧ t.mon.draws = s.mon.draws + 1
      ∧ t.emitted = if s.stage = .recovery then s.emitted else s.emitted ++ [.mgmtReply 0 b]))
    ∧ (s.pwr.pwrok = false → exec .dbgChallenge s = .next s ∧ exec (.dbgUnlock b) s = .next s))
  ∧ (∀ (slot v : Nat) (key b : List Byte) (s : State), s.stage ≠ .tripped → endpointOn s = false →
    ∀ c ∈ [Instr.anchorSet slot key b, .injPolicy v], exec c s = .next s)
  ∧ (∀ (b : List Byte) (t0 : Nat) (s : State), s.stage ≠ .tripped → s.mon.challenge = some (b, t0) →
    (t0 + 600000000000 ≤ s.mer.frc → exec .challengeExpiry s = .next { s with mon := { s.mon with challenge := none } })
    ∧ (s.mer.frc < t0 + 600000000000 → exec .challengeExpiry s = .next s))
  ∧ (∀ (b : List Byte) (s s1 : State), s.stage ≠ .tripped → s.pwr.pwrok = true → s1 = addSat s .mon F.mon_DBG_REJECTS 1 →
    Completes (.dbgUnlock b) s (fun t =>
      (tokenStatus s b ≠ 0 → t = if s.stage = .recovery then s1 else emit s1 (.mgmtReply (tokenStatus s b) []))
      ∧ (tokenStatus s b = 0 → t.stage = .erased ∧ t.ptns = [] ∧ t.migs = [] ∧ t.tens = [] ∧ t.flows = [] ∧ t.plat.images = []
        ∧ t.trv.replay = [] ∧ t.mon.challenge = none ∧ t.mon.eraseScope = leAt b 2 2 ∧ t.mon.eraseTick = s.mer.frc
        ∧ rd t .mon F.mon_DEBUG_STATE = 1 ∧ rd t .hlt F.hlt_INJ_GRANTED = 0 ∧ bitAt (rd t .mon F.EVT_STATUS) 17 = true)))
  ∧ (∀ (b c key : List Byte) (t0 : Nat) (s : State), (b.length ≠ 120 → tokenStatus s b = 2)
    ∧ (b.length = 120 → mapFind s.mon.anchors 2 = some key → s.mon.challenge = some (c, t0) →
      (tokenStatus s b = 0 ↔ leAt b 0 1 = 1 ∧ leAt b 1 1 = 1 ∧ zeroBytes b 52 56 = true ∧ 0 < leAt b 2 2 ∧ leAt b 2 2 < 8
        ∧ Config.sm2Verify key (b.take 56) (b.drop 56) = true ∧ leAt b 4 16 = s.mon.deviceId ∧ (b.drop 20).take 32 = c
        ∧ s.mer.frc < t0 + 600000000000 ∧ s.mon.debugRecord.length < 32 ∧ erasing s = false ∧ s.stage ≠ .recovery))
    ∧ (s.mon.challenge = none ∨ mapFind s.mon.anchors 2 = none ∨ erasing s = true ∨ s.stage = .recovery → tokenStatus s b ≠ 0))
  ∧ (∀ s : State, s.stage = .erased →
    (s.mon.warmAfterErase = none → Completes .debugEraseComplete s (fun t => t.stage = .training
      ∧ rd t .mon F.mon_DEBUG_STATE = 2 ∧ bitAt (rd t .mon F.EVT_STATUS) 18 = true ∧ t.mon.dskGen = s.mon.dskGen + 1
      ∧ Emit.pldm "DEBUG_OPENED" ∈ t.emitted))
    ∧ (∀ c, s.mon.warmAfterErase = some c → Completes .debugEraseComplete s (fun t => t.stage = .warm
      ∧ rd t .hlt F.hlt_LAST_RESET = 4 ∧ rd t .hlt F.hlt_LAST_CAUSE = c % 2 ^ F.hlt_LAST_CAUSE.w ∧ rd t .hlt F.hlt_RESET_BUSY = 1
      ∧ t.mon.warmAfterErase = none)))
  ∧ (∀ s : State, s.stage ≠ .tripped → s.stage ≠ .erased → exec .debugEraseComplete s = .next s)
end

