-- ==== Sys2Proof/Laws/Keep.lean ====
section
/-! SUPPORT. Frames: what a record update, a loop and a choice leave as it was. The lemma of a function f of the model, f_keeps in
the files beside this one, says which components of the state f can change, and so that it changes no other. -/

namespace Sys2Proof.Machine

/-- The list holds the component. -/
def Has (l : List Comp) (c : Comp) : Prop := l.contains c = true

theorem pick_has {α : Type} {l : List Comp} {c : Comp} (h : Has l c) (a b : α) : pick l c a b = a := by
  unfold pick; exact if_pos h

/-! ### Record updates -/

theorem blank_pending {l : List Comp} (h0 : Has l .pending) (s : State) x0 :
    blank l { s with pending := x0 } = blank l s := by
  simp only [blank, pick_has h0]

theorem blank_stage {l : List Comp} (h0 : Has l .stage) (s : State) x0 :
    blank l { s with stage := x0 } = blank l s := by
  simp only [blank, pick_has h0]

theorem blank_regs {l : List Comp} (h0 : Has l .regs) (s : State) x0 :
    blank l { s with regs := x0 } = blank l s := by
  simp only [blank, pick_has h0]

theorem blank_eff {l : List Comp} (h0 : Has l .eff) (s : State) x0 :
    blank l { s with eff := x0 } = blank l s := by
  simp only [blank, pick_has h0]

theorem blank_cap {l : List Comp} (h0 : Has l .cap) (s : State) x0 :
    blank l { s with cap := x0 } = blank l s := by
  simp only [blank, pick_has h0]

theorem blank_sealAt {l : List Comp} (h0 : Has l .sealAt) (s : State) x0 :
    blank l { s with sealAt := x0 } = blank l s := by
  simp only [blank, pick_has h0]

theorem blank_fp {l : List Comp} (h0 : Has l .fp) (s : State) x0 :
    blank l { s with fp := x0 } = blank l s := by
  simp only [blank, pick_has h0]

theorem blank_stns {l : List Comp} (h0 : Has l .stns) (s : State) x0 :
    blank l { s with stns := x0 } = blank l s := by
  simp only [blank, pick_has h0]

theorem blank_ptns {l : List Comp} (h0 : Has l .ptns) (s : State) x0 :
    blank l { s with ptns := x0 } = blank l s := by
  simp only [blank, pick_has h0]

theorem blank_migs {l : List Comp} (h0 : Has l .migs) (s : State) x0 :
    blank l { s with migs := x0 } = blank l s := by
  simp only [blank, pick_has h0]

theorem blank_locs {l : List Comp} (h0 : Has l .locs) (s : State) x0 :
    blank l { s with locs := x0 } = blank l s := by
  simp only [blank, pick_has h0]

theorem blank_spillNext {l : List Comp} (h0 : Has l .spillNext) (s : State) x0 :
    blank l { s with spillNext := x0 } = blank l s := by
  simp only [blank, pick_has h0]

theorem blank_spillFreed {l : List Comp} (h0 : Has l .spillFreed) (s : State) x0 :
    blank l { s with spillFreed := x0 } = blank l s := by
  simp only [blank, pick_has h0]

theorem blank_tierHeld {l : List Comp} (h0 : Has l .tierHeld) (s : State) x0 :
    blank l { s with tierHeld := x0 } = blank l s := by
  simp only [blank, pick_has h0]

theorem blank_movs {l : List Comp} (h0 : Has l .movs) (s : State) x0 :
    blank l { s with movs := x0 } = blank l s := by
  simp only [blank, pick_has h0]

theorem blank_xlate {l : List Comp} (h0 : Has l .xlate) (s : State) x0 :
    blank l { s with xlate := x0 } = blank l s := by
  simp only [blank, pick_has h0]

theorem blank_pool {l : List Comp} (h0 : Has l .pool) (s : State) x0 :
    blank l { s with pool := x0 } = blank l s := by
  simp only [blank, pick_has h0]

theorem blank_mer {l : List Comp} (h0 : Has l .mer) (s : State) x0 :
    blank l { s with mer := x0 } = blank l s := by
  simp only [blank, pick_has h0]

theorem blank_plat {l : List Comp} (h0 : Has l .plat) (s : State) x0 :
    blank l { s with plat := x0 } = blank l s := by
  simp only [blank, pick_has h0]

theorem blank_tens {l : List Comp} (h0 : Has l .tens) (s : State) x0 :
    blank l { s with tens := x0 } = blank l s := by
  simp only [blank, pick_has h0]

theorem blank_cdus {l : List Comp} (h0 : Has l .cdus) (s : State) x0 :
    blank l { s with cdus := x0 } = blank l s := by
  simp only [blank, pick_has h0]

theorem blank_book {l : List Comp} (h0 : Has l .book) (s : State) x0 :
    blank l { s with book := x0 } = blank l s := by
  simp only [blank, pick_has h0]

theorem blank_fhps {l : List Comp} (h0 : Has l .fhps) (s : State) x0 :
    blank l { s with fhps := x0 } = blank l s := by
  simp only [blank, pick_has h0]

theorem blank_fhqs {l : List Comp} (h0 : Has l .fhqs) (s : State) x0 :
    blank l { s with fhqs := x0 } = blank l s := by
  simp only [blank, pick_has h0]

theorem blank_flows {l : List Comp} (h0 : Has l .flows) (s : State) x0 :
    blank l { s with flows := x0 } = blank l s := by
  simp only [blank, pick_has h0]

theorem blank_flowSeq {l : List Comp} (h0 : Has l .flowSeq) (s : State) x0 :
    blank l { s with flowSeq := x0 } = blank l s := by
  simp only [blank, pick_has h0]

theorem blank_trv {l : List Comp} (h0 : Has l .trv) (s : State) x0 :
    blank l { s with trv := x0 } = blank l s := by
  simp only [blank, pick_has h0]

theorem blank_hlt {l : List Comp} (h0 : Has l .hlt) (s : State) x0 :
    blank l { s with hlt := x0 } = blank l s := by
  simp only [blank, pick_has h0]

theorem blank_mon {l : List Comp} (h0 : Has l .mon) (s : State) x0 :
    blank l { s with mon := x0 } = blank l s := by
  simp only [blank, pick_has h0]

theorem blank_pwr {l : List Comp} (h0 : Has l .pwr) (s : State) x0 :
    blank l { s with pwr := x0 } = blank l s := by
  simp only [blank, pick_has h0]

theorem blank_hostMem {l : List Comp} (h0 : Has l .hostMem) (s : State) x0 :
    blank l { s with hostMem := x0 } = blank l s := by
  simp only [blank, pick_has h0]

theorem blank_bme {l : List Comp} (h0 : Has l .bme) (s : State) x0 :
    blank l { s with bme := x0 } = blank l s := by
  simp only [blank, pick_has h0]

theorem blank_msixHeld {l : List Comp} (h0 : Has l .msixHeld) (s : State) x0 :
    blank l { s with msixHeld := x0 } = blank l s := by
  simp only [blank, pick_has h0]

theorem blank_emitted {l : List Comp} (h0 : Has l .emitted) (s : State) x0 :
    blank l { s with emitted := x0 } = blank l s := by
  simp only [blank, pick_has h0]

theorem blank_fresh {l : List Comp} (h0 : Has l .fresh) (s : State) x0 :
    blank l { s with fresh := x0 } = blank l s := by
  simp only [blank, pick_has h0]

theorem blank_stage_locs {l : List Comp} (h0 : Has l .stage) (h1 : Has l .locs) (s : State) x0 x1 :
    blank l { s with stage := x0, locs := x1 } = blank l s := by
  simp only [blank, pick_has h0, pick_has h1]

theorem blank_stage_mon {l : List Comp} (h0 : Has l .stage) (h1 : Has l .mon) (s : State) x0 x1 :
    blank l { s with stage := x0, mon := x1 } = blank l s := by
  simp only [blank, pick_has h0, pick_has h1]

theorem blank_stage_pwr {l : List Comp} (h0 : Has l .stage) (h1 : Has l .pwr) (s : State) x0 x1 :
    blank l { s with stage := x0, pwr := x1 } = blank l s := by
  simp only [blank, pick_has h0, pick_has h1]

theorem blank_spillNext_spillFreed {l : List Comp} (h0 : Has l .spillNext) (h1 : Has l .spillFreed) (s : State) x0 x1 :
    blank l { s with spillNext := x0, spillFreed := x1 } = blank l s := by
  simp only [blank, pick_has h0, pick_has h1]

theorem blank_pool_fresh {l : List Comp} (h0 : Has l .pool) (h1 : Has l .fresh) (s : State) x0 x1 :
    blank l { s with pool := x0, fresh := x1 } = blank l s := by
  simp only [blank, pick_has h0, pick_has h1]

theorem blank_plat_pwr {l : List Comp} (h0 : Has l .plat) (h1 : Has l .pwr) (s : State) x0 x1 :
    blank l { s with plat := x0, pwr := x1 } = blank l s := by
  simp only [blank, pick_has h0, pick_has h1]

theorem blank_bme_msixOff {l : List Comp} (h0 : Has l .bme) (h1 : Has l .msixOff) (s : State) x0 x1 :
    blank l { s with bme := x0, msixOff := x1 } = blank l s := by
  simp only [blank, pick_has h0, pick_has h1]

theorem blank_msixOff_msixHeld {l : List Comp} (h0 : Has l .msixOff) (h1 : Has l .msixHeld) (s : State) x0 x1 :
    blank l { s with msixOff := x0, msixHeld := x1 } = blank l s := by
  simp only [blank, pick_has h0, pick_has h1]

theorem blank_stage_hlt_mon {l : List Comp} (h0 : Has l .stage) (h1 : Has l .hlt) (h2 : Has l .mon) (s : State) x0 x1 x2 :
    blank l { s with stage := x0, hlt := x1, mon := x2 } = blank l s := by
  simp only [blank, pick_has h0, pick_has h1, pick_has h2]

theorem blank_regs_eff_sealAt {l : List Comp} (h0 : Has l .regs) (h1 : Has l .eff) (h2 : Has l .sealAt) (s : State) x0 x1 x2 :
    blank l { s with regs := x0, eff := x1, sealAt := x2 } = blank l s := by
  simp only [blank, pick_has h0, pick_has h1, pick_has h2]

theorem blank_fp_mon_pwr {l : List Comp} (h0 : Has l .fp) (h1 : Has l .mon) (h2 : Has l .pwr) (s : State) x0 x1 x2 :
    blank l { s with fp := x0, mon := x1, pwr := x2 } = blank l s := by
  simp only [blank, pick_has h0, pick_has h1, pick_has h2]

theorem blank_ptns_migs_hlt {l : List Comp} (h0 : Has l .ptns) (h1 : Has l .migs) (h2 : Has l .hlt) (s : State) x0 x1 x2 :
    blank l { s with ptns := x0, migs := x1, hlt := x2 } = blank l s := by
  simp only [blank, pick_has h0, pick_has h1, pick_has h2]

theorem blank_bme_msixOff_msixHeld {l : List Comp} (h0 : Has l .bme) (h1 : Has l .msixOff) (h2 : Has l .msixHeld) (s : State) x0 x1 x2 :
    blank l { s with bme := x0, msixOff := x1, msixHeld := x2 } = blank l s := by
  simp only [blank, pick_has h0, pick_has h1, pick_has h2]

theorem blank_regs_eff_cap_sealAt {l : List Comp} (h0 : Has l .regs) (h1 : Has l .eff) (h2 : Has l .cap) (h3 : Has l .sealAt) (s : State) x0 x1 x2 x3 :
    blank l { s with regs := x0, eff := x1, cap := x2, sealAt := x3 } = blank l s := by
  simp only [blank, pick_has h0, pick_has h1, pick_has h2, pick_has h3]

theorem blank_tierHeld_plat_tens_book_flows_trv {l : List Comp} (h0 : Has l .tierHeld) (h1 : Has l .plat) (h2 : Has l .tens) (h3 : Has l .book) (h4 : Has l .flows) (h5 : Has l .trv) (s : State) x0 x1 x2 x3 x4 x5 :
    blank l { s with tierHeld := x0, plat := x1, tens := x2, book := x3, flows := x4, trv := x5 } = blank l s := by
  simp only [blank, pick_has h0, pick_has h1, pick_has h2, pick_has h3, pick_has h4, pick_has h5]

theorem blank_stns_tierHeld_movs_xlate_pool_mer_plat_tens_cdus_book_fhps_fhqs_flows_flowSeq_trv_pwr_msixHeld {l : List Comp} (h0 : Has l .stns) (h1 : Has l .tierHeld) (h2 : Has l .movs) (h3 : Has l .xlate) (h4 : Has l .pool) (h5 : Has l .mer) (h6 : Has l .plat) (h7 : Has l .tens) (h8 : Has l .cdus) (h9 : Has l .book) (h10 : Has l .fhps) (h11 : Has l .fhqs) (h12 : Has l .flows) (h13 : Has l .flowSeq) (h14 : Has l .trv) (h15 : Has l .pwr) (h16 : Has l .msixHeld) (s : State) x0 x1 x2 x3 x4 x5 x6 x7 x8 x9 x10 x11 x12 x13 x14 x15 x16 :
    blank l { s with stns := x0, tierHeld := x1, movs := x2, xlate := x3, pool := x4, mer := x5, plat := x6, tens := x7, cdus := x8, book := x9, fhps := x10, fhqs := x11, flows := x12, flowSeq := x13, trv := x14, pwr := x15, msixHeld := x16 } = blank l s := by
  simp only [blank, pick_has h0, pick_has h1, pick_has h2, pick_has h3, pick_has h4, pick_has h5, pick_has h6, pick_has h7, pick_has h8, pick_has h9, pick_has h10, pick_has h11, pick_has h12, pick_has h13, pick_has h14, pick_has h15, pick_has h16]

/-! ### Loops -/

theorem foldl_keeps {l : List Comp} {α : Type} (g : State → α → State) (h : ∀ t x, blank l (g t x) = blank l t) (r : List α)
    (t : State) : blank l (r.foldl g t) = blank l t := by
  induction r generalizing t with
  | nil => rfl
  | cons a r ih => exact (ih (g t a)).trans (h t a)

theorem foldr_keeps {l : List Comp} {α : Type} (g : α → State → State) (h : ∀ x t, blank l (g x t) = blank l t) (r : List α)
    (t : State) : blank l (r.foldr g t) = blank l t := by
  induction r with
  | nil => rfl
  | cons a r ih => exact (h a _).trans ih

theorem findSome_keeps {l : List Comp} {α : Type} {s t : State} (g : α → Option State)
    (h : ∀ x u, g x = some u → blank l u = blank l s) (r : List α) (hr : r.findSome? g = some t) :
    blank l t = blank l s := by
  induction r with
  | nil => simp at hr
  | cons a r ih =>
    rw [List.findSome?_cons] at hr
    split at hr
    · cases hr; exact h a _ ‹_›
    · exact ih hr

theorem getD_keeps {l : List Comp} {s : State} {o : Option State} (h : ∀ t, o = some t → blank l t = blank l s) :
    blank l (o.getD s) = blank l s := by
  cases o with
  | none => rfl
  | some t => exact h t rfl

theorem forUpTo_keeps {l : List Comp} (n : Nat) (g : Nat → State → State) (h : ∀ x t, blank l (g x t) = blank l t)
    (t : State) : blank l (forUpTo n g t) = blank l t := by
  unfold forUpTo
  exact foldl_keeps (fun s i => g i s) (fun t x => h x t) _ t

theorem foldl_snd_keeps {l : List Comp} {α β : Type} (g : β × State → α → β × State)
    (h : ∀ t x, blank l (g t x).2 = blank l t.2) (r : List α) (t : β × State) :
    blank l (r.foldl g t).2 = blank l t.2 := by
  induction r generalizing t with
  | nil => rfl
  | cons a r ih => exact (ih (g t a)).trans (h t a)

end Sys2Proof.Machine
end

