-- ==== Sys2Proof/Laws/KeepPages.lean ====
section
/-! SUPPORT. What each operation of Machine/Pages.lean leaves as it was. -/

set_option linter.unusedSimpArgs false

namespace Sys2Proof.Machine

theorem wr_keeps {l : List Comp} (h_regs : Has l .regs) :
    ∀ s x1 x2 x3, blank l (wr s x1 x2 x3) = blank l s := by
  intro s x1 x2 x3
  unfold wr
  simp (disch := assumption) only [↓blank_regs]

theorem wrApplied_keeps {l : List Comp} (h_eff : Has l .eff) :
    ∀ s x1 x2 x3, blank l (wrApplied s x1 x2 x3) = blank l s := by
  intro s x1 x2 x3
  unfold wrApplied
  simp (disch := assumption) only [↓blank_eff]

theorem addSat_keeps {l : List Comp} (h_regs : Has l .regs) :
    ∀ s x1 x2 x3, blank l (addSat s x1 x2 x3) = blank l s := by
  intro s x1 x2 x3
  unfold addSat
  simp (disch := assumption) only [↓wr_keeps]

end Sys2Proof.Machine
end

