-- ==== Sys2Proof/Laws/KeepOps.lean ====
section
/-! SUPPORT. What each operation of Machine/Ops.lean leaves as it was. -/

set_option linter.unusedSimpArgs false

namespace Sys2Proof.Machine

theorem emit_keeps {l : List Comp} (h_emitted : Has l .emitted) :
    ∀ s x1, blank l (emit s x1) = blank l s := by
  intro s x1
  unfold emit
  simp (disch := assumption) only [↓blank_emitted]

theorem raiseMsix_keeps {l : List Comp} (h_msixHeld : Has l .msixHeld) (h_emitted : Has l .emitted) :
    ∀ s x1 x2, blank l (raiseMsix s x1 x2) = blank l s := by
  intro s x1 x2
  unfold raiseMsix
  simp (disch := assumption) only [↓emit_keeps, ↓blank_msixHeld, ↓apply_ite (blank l), ite_self]

theorem raiseOwner_keeps {l : List Comp} (h_msixHeld : Has l .msixHeld) (h_emitted : Has l .emitted) :
    ∀ s x1 x2, blank l (raiseOwner s x1 x2) = blank l s := by
  intro s x1 x2
  unfold raiseOwner
  dsimp only
  (repeat' (split)) <;> first | with_reducible rfl | simp (disch := assumption) only [↓raiseMsix_keeps, ↓apply_ite (blank l), ite_self]

theorem setErr_keeps {l : List Comp} (h_regs : Has l .regs) (h_msixHeld : Has l .msixHeld) (h_emitted : Has l .emitted) :
    ∀ s x1 x2, blank l (setErr s x1 x2) = blank l s := by
  intro s x1 x2
  unfold setErr
  simp (disch := assumption) only [↓wr_keeps, ↓raiseOwner_keeps, ↓apply_ite (blank l), ite_self]

theorem setEvt_keeps {l : List Comp} (h_regs : Has l .regs) (h_msixHeld : Has l .msixHeld) (h_emitted : Has l .emitted) :
    ∀ s x1 x2, blank l (setEvt s x1 x2) = blank l s := by
  intro s x1 x2
  unfold setEvt
  simp (disch := assumption) only [↓wr_keeps, ↓raiseOwner_keeps, ↓apply_ite (blank l), ite_self]

theorem wrEnable_keeps {l : List Comp} (h_regs : Has l .regs) (h_msixHeld : Has l .msixHeld) (h_emitted : Has l .emitted) :
    ∀ s x1 x2 x3 x4 x5, blank l (wrEnable s x1 x2 x3 x4 x5) = blank l s := by
  intro s x1 x2 x3 x4 x5
  unfold wrEnable
  simp (disch := assumption) only [↓wr_keeps, ↓raiseOwner_keeps, ↓apply_ite (blank l), ite_self]

theorem denyAccess_keeps {l : List Comp} (h_regs : Has l .regs) (h_msixHeld : Has l .msixHeld) (h_emitted : Has l .emitted) :
    ∀ s x1, blank l (denyAccess s x1) = blank l s := by
  intro s x1
  unfold denyAccess
  (repeat' (split)) <;> first | with_reducible rfl | simp (disch := assumption) only [↓setErr_keeps, ↓apply_ite (blank l), ite_self]

theorem withWrite_keeps {l : List Comp} (h_regs : Has l .regs) (h_msixHeld : Has l .msixHeld) (h_emitted : Has l .emitted) :
    ∀ s x1 x2 x3 x4 x5, (∀ y0, blank l (x5 y0) = blank l y0) → blank l (withWrite s x1 x2 x3 x4 x5) = blank l s := by
  intro s x1 x2 x3 x4 x5 hf0
  unfold withWrite
  simp (disch := assumption) only [↓setErr_keeps, ↓denyAccess_keeps, ↓apply_ite (blank l), ite_self, ↓hf0]

theorem withS_keeps {l : List Comp} (h_regs : Has l .regs) (h_msixHeld : Has l .msixHeld) (h_emitted : Has l .emitted) :
    ∀ s x1 x2 x3 x4, (∀ y0, blank l (x4 y0) = blank l y0) → blank l (withS s x1 x2 x3 x4) = blank l s := by
  intro s x1 x2 x3 x4 hf0
  unfold withS
  simp (disch := assumption) only [↓setErr_keeps, ↓apply_ite (blank l), ite_self, ↓hf0]

theorem bumpHealth_keeps {l : List Comp} (h_regs : Has l .regs) :
    ∀ s x1 x2, blank l (bumpHealth s x1 x2) = blank l s := by
  intro s x1 x2
  unfold bumpHealth
  simp (disch := assumption) only [↓addSat_keeps, ↓apply_ite (blank l), ite_self]

theorem setStn_keeps {l : List Comp} (h_stns : Has l .stns) :
    ∀ s x1 x2, blank l (setStn s x1 x2) = blank l s := by
  intro s x1 x2
  unfold setStn
  simp (disch := assumption) only [↓blank_stns]

theorem setPtn_keeps {l : List Comp} (h_ptns : Has l .ptns) :
    ∀ s x1 x2, blank l (setPtn s x1 x2) = blank l s := by
  intro s x1 x2
  unfold setPtn
  simp (disch := assumption) only [↓blank_ptns]

theorem setMov_keeps {l : List Comp} (h_movs : Has l .movs) :
    ∀ s x1 x2, blank l (setMov s x1 x2) = blank l s := by
  intro s x1 x2
  unfold setMov
  simp (disch := assumption) only [↓blank_movs]

theorem setTen_keeps {l : List Comp} (h_tens : Has l .tens) :
    ∀ s x1 x2, blank l (setTen s x1 x2) = blank l s := by
  intro s x1 x2
  unfold setTen
  simp (disch := assumption) only [↓blank_tens]

theorem setCdu_keeps {l : List Comp} (h_cdus : Has l .cdus) :
    ∀ s x1 x2, blank l (setCdu s x1 x2) = blank l s := by
  intro s x1 x2
  unfold setCdu
  simp (disch := assumption) only [↓blank_cdus]

theorem setFhp_keeps {l : List Comp} (h_fhps : Has l .fhps) :
    ∀ s x1 x2, blank l (setFhp s x1 x2) = blank l s := by
  intro s x1 x2
  unfold setFhp
  simp (disch := assumption) only [↓blank_fhps]

theorem setFhq_keeps {l : List Comp} (h_fhqs : Has l .fhqs) :
    ∀ s x1 x2, blank l (setFhq s x1 x2) = blank l s := by
  intro s x1 x2
  unfold setFhq
  simp (disch := assumption) only [↓blank_fhqs]

theorem setTrc_keeps {l : List Comp} (h_trv : Has l .trv) :
    ∀ s x1 x2, blank l (setTrc s x1 x2) = blank l s := by
  intro s x1 x2
  unfold setTrc
  simp (disch := assumption) only [↓blank_trv]

theorem nextFresh_keeps {l : List Comp} (h_fresh : Has l .fresh) :
    ∀ s, blank l (nextFresh s) = blank l s := by
  intro s
  unfold nextFresh
  simp (disch := assumption) only [↓blank_fresh]

end Sys2Proof.Machine
end

