-- ==== Sys2Proof/Laws/KeepMirror.lean ====
section
/-! SUPPORT. What each operation of Machine/Mirror.lean leaves as it was. -/

set_option linter.unusedSimpArgs false

namespace Sys2Proof.Machine

theorem hostPut_keeps {l : List Comp} (h_hostMem : Has l .hostMem) (h_emitted : Has l .emitted) :
    ∀ s x1 x2 x3, blank l (hostPut s x1 x2 x3) = blank l s := by
  intro s x1 x2 x3
  unfold hostPut
  simp (disch := assumption) only [↓emit_keeps, ↓blank_hostMem]

theorem hostLoad_keeps {l : List Comp} (h_hostMem : Has l .hostMem) :
    ∀ s x1 x2 x3 x4, blank l (hostLoad s x1 x2 x3 x4).2 = blank l s := by
  intro s x1 x2 x3 x4
  unfold hostLoad
  simp (disch := assumption) only [↓blank_hostMem]

theorem writeMirror_keeps {l : List Comp} (h_hostMem : Has l .hostMem) (h_emitted : Has l .emitted) :
    ∀ s x1 x2 x3, blank l (writeMirror s x1 x2 x3) = blank l s := by
  intro s x1 x2 x3
  unfold writeMirror
  (repeat' (split)) <;> first | with_reducible rfl | simp (disch := assumption) only [↓hostPut_keeps, ↓apply_ite (blank l), ite_self]

end Sys2Proof.Machine
end

