-- ==== Sys2Proof/Laws/KeepPool.lean ====
section
/-! SUPPORT. What each operation of Machine/Pool.lean leaves as it was. -/

set_option linter.unusedSimpArgs false

namespace Sys2Proof.Machine

theorem wipeAll_keeps {l : List Comp} (h_ptns : Has l .ptns) :
    ∀ s x1, blank l (wipeAll s x1) = blank l s := by
  intro s x1
  unfold wipeAll
  simp (disch := assumption) only [↓blank_ptns]

theorem takeStake_keeps {l : List Comp} (h_plat : Has l .plat) :
    ∀ s x1 x2, ∀ k t, takeStake s x1 x2 = some (k, t) → blank l t = blank l s := by
  intro s x1 x2 k t h
  unfold takeStake at h
  (repeat' (split at h)) <;> (cases h <;> (first | with_reducible rfl | simp (disch := assumption) only [↓blank_plat, ↓apply_ite (blank l), ↓apply_ite Prod.snd, ite_self] | ((repeat' (split)) <;> first | with_reducible rfl | simp (disch := first | assumption | (intro t x; first | with_reducible rfl | simp (disch := assumption) only [↓blank_plat, ↓apply_ite (blank l), ↓apply_ite Prod.snd, ite_self] | ((repeat' (split)) <;> first | with_reducible rfl | simp (disch := assumption) only [↓blank_plat, ↓apply_ite (blank l), ↓apply_ite Prod.snd, ite_self] | rfl))) only [↓blank_plat, ↓apply_ite (blank l), ↓apply_ite Prod.snd, ite_self, ↓foldl_keeps, ↓foldr_keeps, ↓forUpTo_keeps, ↓foldl_snd_keeps] | rfl)))

theorem retryStakes_keeps {l : List Comp} (h_plat : Has l .plat) :
    ∀ s x1, blank l (retryStakes s x1) = blank l s := by
  intro s x1
  induction x1 generalizing s with
  | nil =>
    unfold retryStakes
    (repeat' (split <;> (try (rename_i heq; have hh := takeStake_keeps h_plat _ _ _ _ _ heq)))) <;> first | with_reducible rfl | simp (disch := first | assumption | (intro t x; first | with_reducible rfl | simp (disch := assumption) only [↓blank_plat, *] | ((repeat' (split <;> (try (rename_i heq; have hh := takeStake_keeps h_plat _ _ _ _ _ heq)))) <;> first | with_reducible rfl | simp (disch := assumption) only [↓blank_plat, *] | rfl))) only [↓blank_plat, ↓foldl_keeps, ↓foldr_keeps, ↓forUpTo_keeps, ↓foldl_snd_keeps, *] | rfl
  | cons a r ih =>
    unfold retryStakes
    (repeat' (split <;> (try (rename_i heq; have hh := takeStake_keeps h_plat _ _ _ _ _ heq)))) <;> first | with_reducible rfl | simp (disch := first | assumption | (intro t x; first | with_reducible rfl | simp (disch := assumption) only [↓blank_plat, *] | ((repeat' (split <;> (try (rename_i heq; have hh := takeStake_keeps h_plat _ _ _ _ _ heq)))) <;> first | with_reducible rfl | simp (disch := assumption) only [↓blank_plat, *] | rfl))) only [↓blank_plat, ↓foldl_keeps, ↓foldr_keeps, ↓forUpTo_keeps, ↓foldl_snd_keeps, *] | rfl

theorem freeStake_keeps {l : List Comp} (h_plat : Has l .plat) :
    ∀ s x1, blank l (freeStake s x1) = blank l s := by
  intro s x1
  unfold freeStake
  simp (disch := assumption) only [↓retryStakes_keeps, ↓blank_plat]

theorem acquireStake_keeps {l : List Comp} (h_regs : Has l .regs) (h_plat : Has l .plat) :
    ∀ s x1 x2 x3, blank l (acquireStake s x1 x2 x3).2 = blank l s := by
  intro s x1 x2 x3
  unfold acquireStake
  (repeat' (split <;> (try (rename_i heq; have hh := takeStake_keeps h_plat _ _ _ _ _ heq)))) <;> first | with_reducible rfl | simp (disch := assumption) only [↓addSat_keeps, ↓blank_plat, ↓apply_ite (blank l), ↓apply_ite Prod.snd, ite_self, *]

theorem dropStakeWait_keeps {l : List Comp} (h_plat : Has l .plat) :
    ∀ s x1, blank l (dropStakeWait s x1) = blank l s := by
  intro s x1
  unfold dropStakeWait
  dsimp only
  (repeat' (split)) <;> first | with_reducible rfl | simp (disch := assumption) only [↓freeStake_keeps, ↓blank_plat]

theorem setQf_keeps {l : List Comp} (h_regs : Has l .regs) :
    ∀ s x1 x2 x3, blank l (setQf s x1 x2 x3) = blank l s := by
  intro s x1 x2 x3
  unfold setQf
  simp (disch := assumption) only [↓wr_keeps]

theorem setQueue_keeps {l : List Comp} (h_pool : Has l .pool) :
    ∀ s x1 x2, blank l (setQueue s x1 x2) = blank l s := by
  intro s x1 x2
  unfold setQueue
  simp (disch := assumption) only [↓blank_pool]

theorem setParcel_keeps {l : List Comp} (h_pool : Has l .pool) :
    ∀ s x1 x2, blank l (setParcel s x1 x2) = blank l s := by
  intro s x1 x2
  unfold setParcel
  simp (disch := assumption) only [↓blank_pool]

theorem freeCellsOf_keeps {l : List Comp} (h_pool : Has l .pool) :
    ∀ s x1, blank l (freeCellsOf s x1) = blank l s := by
  intro s x1
  unfold freeCellsOf
  simp (disch := assumption) only [↓blank_pool]

theorem noteNonempty_keeps {l : List Comp} (h_regs : Has l .regs) (h_tens : Has l .tens) (h_msixHeld : Has l .msixHeld) (h_emitted : Has l .emitted) :
    ∀ s x1 x2, blank l (noteNonempty s x1 x2) = blank l s := by
  intro s x1 x2
  unfold noteNonempty
  simp (disch := assumption) only [↓setEvt_keeps, ↓blank_tens, ↓apply_ite (blank l), ite_self]

theorem deliver_keeps {l : List Comp} (h_pool : Has l .pool) :
    ∀ s x1 x2 x3, blank l (deliver s x1 x2 x3) = blank l s := by
  intro s x1 x2 x3
  unfold deliver
  dsimp only
  (repeat' (split)) <;> first | with_reducible rfl | simp (disch := assumption) only [↓setQueue_keeps, ↓setParcel_keeps]

theorem wakeReaders_keeps {l : List Comp} (h_pool : Has l .pool) :
    ∀ s x1 x2, blank l (wakeReaders s x1 x2) = blank l s := by
  intro s x1 x2
  induction x2 generalizing s x1 with
  | zero =>
    unfold wakeReaders
    (repeat' (split)) <;> first | with_reducible rfl | simp (disch := first | assumption | (intro t x; first | with_reducible rfl | simp (disch := assumption) only [↓setQueue_keeps, ↓deliver_keeps, ↓blank_pool, ↓apply_ite (blank l), ite_self] | ((repeat' (split)) <;> first | with_reducible rfl | simp (disch := assumption) only [↓setQueue_keeps, ↓deliver_keeps, ↓blank_pool, ↓apply_ite (blank l), ite_self] | rfl))) only [↓setQueue_keeps, ↓deliver_keeps, ↓blank_pool, ↓apply_ite (blank l), ite_self, ↓foldl_keeps, ↓foldr_keeps, ↓forUpTo_keeps, ↓foldl_snd_keeps] | rfl
  | succ n ih =>
    unfold wakeReaders
    (repeat' (split)) <;> first | with_reducible rfl | simp (disch := first | assumption | (intro t x; first | with_reducible rfl | simp (disch := assumption) only [↓setQueue_keeps, ↓deliver_keeps, ↓blank_pool, ↓apply_ite (blank l), ite_self, ↓ih] | ((repeat' (split)) <;> first | with_reducible rfl | simp (disch := assumption) only [↓setQueue_keeps, ↓deliver_keeps, ↓blank_pool, ↓apply_ite (blank l), ite_self, ↓ih] | rfl))) only [↓setQueue_keeps, ↓deliver_keeps, ↓blank_pool, ↓apply_ite (blank l), ite_self, ↓ih, ↓foldl_keeps, ↓foldr_keeps, ↓forUpTo_keeps, ↓foldl_snd_keeps] | rfl

theorem wake_keeps {l : List Comp} (h_pool : Has l .pool) :
    ∀ s x1, blank l (wake s x1) = blank l s := by
  intro s x1
  unfold wake
  simp (disch := assumption) only [↓wakeReaders_keeps]

theorem linkParcel_keeps {l : List Comp} (h_regs : Has l .regs) (h_pool : Has l .pool) (h_fresh : Has l .fresh) :
    ∀ s x1 x2 x3 x4 x5, blank l (linkParcel s x1 x2 x3 x4 x5).2 = blank l s := by
  intro s x1 x2 x3 x4 x5
  unfold linkParcel
  simp (disch := assumption) only [↓addSat_keeps, ↓setQueue_keeps, ↓setParcel_keeps, ↓blank_pool, ↓blank_pool_fresh, ↓blank_fresh]

theorem reserveNow_keeps {l : List Comp} (h_regs : Has l .regs) (h_pool : Has l .pool) (h_fresh : Has l .fresh) :
    ∀ s x1 x2 x3 x4 x5, blank l (reserveNow s x1 x2 x3 x4 x5).2 = blank l s := by
  intro s x1 x2 x3 x4 x5
  unfold reserveNow
  (repeat' (split <;> (try (rename_i heq; have hh := congrArg Prod.snd heq; dsimp only at hh; subst hh)))) <;> first | with_reducible rfl | simp (disch := assumption) only [↓linkParcel_keeps, ↓apply_ite (blank l), ↓apply_ite Prod.snd, ite_self]

theorem countStall_keeps {l : List Comp} (h_regs : Has l .regs) :
    ∀ s x1, blank l (countStall s x1) = blank l s := by
  intro s x1
  unfold countStall
  simp (disch := assumption) only [↓addSat_keeps]

theorem reserveWait_keeps {l : List Comp} (h_regs : Has l .regs) (h_pool : Has l .pool) (h_fresh : Has l .fresh) :
    ∀ s x1 x2, blank l (reserveWait s x1 x2).2 = blank l s := by
  intro s x1 x2
  unfold reserveWait
  (repeat' (split <;> (try (rename_i heq; have hh := congrArg Prod.snd heq; dsimp only at hh; subst hh)))) <;> first | with_reducible rfl | simp (disch := assumption) only [↓setQueue_keeps, ↓linkParcel_keeps, ↓countStall_keeps, ↓blank_pool, ↓apply_ite (blank l), ↓apply_ite Prod.snd, ite_self]

theorem writePayload_keeps {l : List Comp} (h_pool : Has l .pool) :
    ∀ s x1 x2 x3, blank l (writePayload s x1 x2 x3) = blank l s := by
  intro s x1 x2 x3
  unfold writePayload
  (repeat' (split)) <;> first | with_reducible rfl | simp (disch := assumption) only [↓setParcel_keeps]

theorem freeParcel_keeps {l : List Comp} (h_pool : Has l .pool) :
    ∀ s x1, blank l (freeParcel s x1) = blank l s := by
  intro s x1
  unfold freeParcel
  (repeat' (split)) <;> first | with_reducible rfl | simp (disch := assumption) only [↓setQueue_keeps, ↓freeCellsOf_keeps, ↓blank_pool]

theorem commitParcel_keeps {l : List Comp} (h_regs : Has l .regs) (h_pool : Has l .pool) (h_tens : Has l .tens) (h_msixHeld : Has l .msixHeld) (h_emitted : Has l .emitted) :
    ∀ s x1 x2, blank l (commitParcel s x1 x2) = blank l s := by
  intro s x1 x2
  unfold commitParcel
  (repeat' (split)) <;> first | with_reducible rfl | simp (disch := assumption) only [↓addSat_keeps, ↓setParcel_keeps, ↓freeCellsOf_keeps, ↓noteNonempty_keeps, ↓wake_keeps]

theorem hostRelease_keeps {l : List Comp} (h_ptns : Has l .ptns) (h_hostMem : Has l .hostMem) (h_emitted : Has l .emitted) :
    ∀ s x1 x2, blank l (hostRelease s x1 x2) = blank l s := by
  intro s x1 x2
  unfold hostRelease
  (repeat' (split)) <;> first | with_reducible rfl | simp (disch := assumption) only [↓setPtn_keeps, ↓writeMirror_keeps]

theorem releaseAs_keeps {l : List Comp} (h_regs : Has l .regs) (h_ptns : Has l .ptns) (h_pool : Has l .pool) (h_hostMem : Has l .hostMem) (h_emitted : Has l .emitted) :
    ∀ s x1 x2, blank l (releaseAs s x1 x2) = blank l s := by
  intro s x1 x2
  unfold releaseAs
  (repeat' (split)) <;> first | with_reducible rfl | simp (disch := assumption) only [↓addSat_keeps, ↓freeParcel_keeps, ↓hostRelease_keeps]

theorem hwRelease_keeps {l : List Comp} (h_regs : Has l .regs) (h_ptns : Has l .ptns) (h_pool : Has l .pool) (h_hostMem : Has l .hostMem) (h_emitted : Has l .emitted) :
    ∀ s x1 x2, blank l (hwRelease s x1 x2) = blank l s := by
  intro s x1 x2
  unfold hwRelease
  (repeat' (split)) <;> first | with_reducible rfl | simp (disch := assumption) only [↓releaseAs_keeps, ↓apply_ite (blank l), ite_self]

theorem settleOwed_keeps {l : List Comp} (h_regs : Has l .regs) (h_ptns : Has l .ptns) (h_pool : Has l .pool) (h_plat : Has l .plat) (h_hostMem : Has l .hostMem) (h_emitted : Has l .emitted) :
    ∀ s x1 x2, blank l (settleOwed s x1 x2) = blank l s := by
  intro s x1 x2
  unfold settleOwed
  (repeat' (split)) <;> first | with_reducible rfl | simp (disch := assumption) only [↓addSat_keeps, ↓bumpHealth_keeps, ↓freeStake_keeps, ↓hwRelease_keeps, ↓apply_ite (blank l), ite_self]

theorem settleWait_keeps {l : List Comp} (h_regs : Has l .regs) (h_ptns : Has l .ptns) (h_pool : Has l .pool) (h_plat : Has l .plat) (h_hostMem : Has l .hostMem) (h_emitted : Has l .emitted) :
    ∀ x0 s x2, blank l (settleWait x0 s x2) = blank l s := by
  intro x0 s x2
  unfold settleWait
  (repeat' (split)) <;> first | with_reducible rfl | simp (disch := assumption) only [↓settleOwed_keeps]

theorem admitHead_keeps {l : List Comp} (h_regs : Has l .regs) (h_ptns : Has l .ptns) (h_pool : Has l .pool) (h_plat : Has l .plat) (h_tens : Has l .tens) (h_hostMem : Has l .hostMem) (h_msixHeld : Has l .msixHeld) (h_emitted : Has l .emitted) (h_fresh : Has l .fresh) :
    ∀ s x1, ∀ t, admitHead s x1 = some t → blank l t = blank l s := by
  intro s x1 t h
  unfold admitHead at h
  dsimp only at h
  (repeat' (split at h)) <;> cases h <;>
    simp (disch := assumption) only [↓setQueue_keeps, ↓linkParcel_keeps, ↓writePayload_keeps, ↓commitParcel_keeps, ↓settleWait_keeps, ↓blank_pool, ↓blank_hostMem, ↓blank_plat, ↓blank_pool_fresh, ↓blank_ptns, ↓blank_regs, ↓blank_tens, ↓blank_msixHeld, ↓blank_fresh, ↓blank_emitted, ↓apply_ite (blank l), ↓apply_ite Prod.snd, ite_self]

theorem retryLines_keeps {l : List Comp} (h_regs : Has l .regs) (h_ptns : Has l .ptns) (h_pool : Has l .pool) (h_plat : Has l .plat) (h_tens : Has l .tens) (h_hostMem : Has l .hostMem) (h_msixHeld : Has l .msixHeld) (h_emitted : Has l .emitted) (h_fresh : Has l .fresh) :
    ∀ s x1, blank l (retryLines s x1) = blank l s := by
  intro s x1
  induction x1 generalizing s with
  | zero => rfl
  | succ n ih =>
    unfold retryLines
    split
    · rename_i heq
      exact (ih _).trans (findSome_keeps _ (fun x u hu => admitHead_keeps h_regs h_ptns h_pool h_plat h_tens h_hostMem h_msixHeld h_emitted h_fresh _ _ _ hu) _ heq)
    · rfl

theorem withdrawParcel_keeps {l : List Comp} (h_regs : Has l .regs) (h_pool : Has l .pool) (h_tens : Has l .tens) (h_msixHeld : Has l .msixHeld) (h_emitted : Has l .emitted) :
    ∀ s x1, blank l (withdrawParcel s x1) = blank l s := by
  intro s x1
  unfold withdrawParcel
  (repeat' (split)) <;> first | with_reducible rfl | simp (disch := assumption) only [↓noteNonempty_keeps, ↓wake_keeps, ↓freeParcel_keeps]

theorem commitOp_keeps {l : List Comp} (h_regs : Has l .regs) (h_ptns : Has l .ptns) (h_pool : Has l .pool) (h_plat : Has l .plat) (h_tens : Has l .tens) (h_hostMem : Has l .hostMem) (h_msixHeld : Has l .msixHeld) (h_emitted : Has l .emitted) (h_fresh : Has l .fresh) :
    ∀ s x1 x2, blank l (commitOp s x1 x2).2 = blank l s := by
  intro s x1 x2
  unfold commitOp
  dsimp only
  (repeat' (split <;> (try (rename_i heq; have hh := admitHead_keeps h_regs h_ptns h_pool h_plat h_tens h_hostMem h_msixHeld h_emitted h_fresh _ _ _ heq)))) <;> first | with_reducible rfl | simp (disch := assumption) only [↓commitParcel_keeps, ↓withdrawParcel_keeps, ↓apply_ite (blank l), ↓apply_ite Prod.snd, ite_self, *]

theorem recallParcel_keeps {l : List Comp} (h_regs : Has l .regs) (h_ptns : Has l .ptns) (h_pool : Has l .pool) (h_plat : Has l .plat) (h_tens : Has l .tens) (h_hostMem : Has l .hostMem) (h_msixHeld : Has l .msixHeld) (h_emitted : Has l .emitted) (h_fresh : Has l .fresh) :
    ∀ s x1, blank l (recallParcel s x1) = blank l s := by
  intro s x1
  unfold recallParcel
  (repeat' (split <;> (try (rename_i heq; have hh := congrArg Prod.snd heq; dsimp only at hh; subst hh)))) <;> first | with_reducible rfl | simp (disch := assumption) only [↓withdrawParcel_keeps, ↓commitOp_keeps, ↓apply_ite (blank l), ite_self]

theorem hwRead_keeps {l : List Comp} (h_regs : Has l .regs) (h_pool : Has l .pool) :
    ∀ s x1 x2, blank l (hwRead s x1 x2).2 = blank l s := by
  intro s x1 x2
  unfold hwRead
  (repeat' (split)) <;> first | with_reducible rfl | simp (disch := assumption) only [↓setQueue_keeps, ↓deliver_keeps, ↓wake_keeps, ↓countStall_keeps, ↓blank_pool, ↓apply_ite (blank l), ↓apply_ite Prod.snd, ite_self]

theorem fillParcel_keeps {l : List Comp} (h_regs : Has l .regs) (h_pool : Has l .pool) (h_tens : Has l .tens) (h_msixHeld : Has l .msixHeld) (h_emitted : Has l .emitted) (r : PqRes × State) (b : List Byte) :
    blank l (fillParcel r b).2 = blank l r.2 := by
  unfold fillParcel
  split
  · exact (commitParcel_keeps h_regs h_pool h_tens h_msixHeld h_emitted _ _ _).trans (writePayload_keeps h_pool _ _ _ _)
  · rfl

theorem hwPost_keeps {l : List Comp} (h_regs : Has l .regs) (h_pool : Has l .pool) (h_tens : Has l .tens) (h_msixHeld : Has l .msixHeld) (h_emitted : Has l .emitted) (h_fresh : Has l .fresh) :
    ∀ s x1 x2 x3 x4 x5 x6 x7, blank l (hwPost s x1 x2 x3 x4 x5 x6 x7).2 = blank l s := by
  intro s x1 x2 x3 x4 x5 x6 x7
  unfold hwPost
  dsimp only
  rw [fillParcel_keeps h_regs h_pool h_tens h_msixHeld h_emitted]
  split
  · exact reserveWait_keeps h_regs h_pool h_fresh _ _ _
  · exact reserveNow_keeps h_regs h_pool h_fresh _ _ _ _ _ _

theorem lastPost_keeps {l : List Comp} (h_regs : Has l .regs) (h_ptns : Has l .ptns) (h_pool : Has l .pool) (h_plat : Has l .plat) (h_tens : Has l .tens) (h_hostMem : Has l .hostMem) (h_msixHeld : Has l .msixHeld) (h_emitted : Has l .emitted) (h_fresh : Has l .fresh) :
    ∀ s x1 x2 x3 x4 x5 x6 x7, blank l (lastPost s x1 x2 x3 x4 x5 x6 x7) = blank l s := by
  intro s x1 x2 x3 x4 x5 x6 x7
  unfold lastPost
  dsimp only
  split
  all_goals
    rename_i heq
    have hh := congrArg Prod.snd heq
    dsimp only at hh
    subst hh
    simp (disch := assumption) only [↓settleOwed_keeps, fillParcel_keeps h_regs h_pool h_tens h_msixHeld h_emitted, ↓reserveWait_keeps]

theorem takeGranted_keeps {l : List Comp} (h_pool : Has l .pool) :
    ∀ s x1 x2, blank l (takeGranted s x1 x2).2 = blank l s := by
  intro s x1 x2
  unfold takeGranted
  (repeat' (split)) <;> first | with_reducible rfl | simp (disch := assumption) only [↓blank_pool]

theorem takeEnded_keeps {l : List Comp} (h_pool : Has l .pool) :
    ∀ s x1 x2, blank l (takeEnded s x1 x2).2 = blank l s := by
  intro s x1 x2
  unfold takeEnded
  (repeat' (split)) <;> first | with_reducible rfl | simp (disch := assumption) only [↓blank_pool]

theorem levelsRise_keeps {l : List Comp} (h_msixHeld : Has l .msixHeld) (h_emitted : Has l .emitted) :
    ∀ x0 s x2, blank l (levelsRise x0 s x2) = blank l s := by
  intro x0 s x2
  unfold levelsRise
  (repeat' (split)) <;> first | with_reducible rfl | simp (disch := first | assumption | (intro t x; first | with_reducible rfl | simp (disch := assumption) only [↓raiseOwner_keeps, ↓apply_ite (blank l), ite_self] | ((repeat' (split)) <;> first | with_reducible rfl | simp (disch := assumption) only [↓raiseOwner_keeps, ↓apply_ite (blank l), ite_self] | rfl))) only [↓raiseOwner_keeps, ↓apply_ite (blank l), ite_self, ↓foldl_keeps, ↓foldr_keeps, ↓forUpTo_keeps, ↓foldl_snd_keeps]

theorem ownerLevels_keeps {l : List Comp} (h_msixHeld : Has l .msixHeld) (h_emitted : Has l .emitted) :
    ∀ x0 s x2, blank l (ownerLevels x0 s x2) = blank l s := by
  intro x0 s x2
  unfold ownerLevels
  (repeat' (split)) <;> first | with_reducible rfl | simp (disch := first | assumption | (intro t x; first | with_reducible rfl | simp (disch := assumption) only [↓levelsRise_keeps] | ((repeat' (split)) <;> first | with_reducible rfl | simp (disch := assumption) only [↓levelsRise_keeps] | rfl))) only [↓levelsRise_keeps, ↓foldl_keeps, ↓foldr_keeps, ↓forUpTo_keeps, ↓foldl_snd_keeps]

theorem cplEnded_keeps {l : List Comp} (h_movs : Has l .movs) (h_plat : Has l .plat) (h_msixHeld : Has l .msixHeld) (h_emitted : Has l .emitted) :
    ∀ s x1, blank l (cplEnded s x1) = blank l s := by
  intro s x1
  unfold cplEnded
  dsimp only
  (repeat' (split)) <;> first | with_reducible rfl | simp (disch := assumption) only [↓setMov_keeps, ↓dropStakeWait_keeps, ↓levelsRise_keeps]

theorem lineEnded_keeps {l : List Comp} (h_regs : Has l .regs) (h_ptns : Has l .ptns) (h_movs : Has l .movs) (h_pool : Has l .pool) (h_plat : Has l .plat) (h_hostMem : Has l .hostMem) (h_msixHeld : Has l .msixHeld) (h_emitted : Has l .emitted) :
    ∀ s x1, blank l (lineEnded s x1) = blank l s := by
  intro s x1
  unfold lineEnded
  simp (disch := assumption) only [↓settleWait_keeps, ↓cplEnded_keeps, ↓apply_ite (blank l), ite_self]

theorem endStalled_keeps {l : List Comp} (h_regs : Has l .regs) (h_ptns : Has l .ptns) (h_movs : Has l .movs) (h_pool : Has l .pool) (h_plat : Has l .plat) (h_hostMem : Has l .hostMem) (h_msixHeld : Has l .msixHeld) (h_emitted : Has l .emitted) :
    ∀ s x1 x2, blank l (endStalled s x1 x2) = blank l s := by
  intro s x1 x2
  unfold endStalled
  (repeat' (split)) <;> first | with_reducible rfl | simp (disch := first | assumption | (intro t x; first | with_reducible rfl | simp (disch := assumption) only [↓setQueue_keeps, ↓lineEnded_keeps, ↓blank_pool] | ((repeat' (split)) <;> first | with_reducible rfl | simp (disch := assumption) only [↓setQueue_keeps, ↓lineEnded_keeps, ↓blank_pool] | rfl))) only [↓setQueue_keeps, ↓lineEnded_keeps, ↓blank_pool, ↓foldl_keeps, ↓foldr_keeps, ↓forUpTo_keeps, ↓foldl_snd_keeps]

theorem dropParcels_keeps {l : List Comp} (h_pool : Has l .pool) :
    ∀ s x1, blank l (dropParcels s x1) = blank l s := by
  intro s x1
  unfold dropParcels
  (repeat' (split)) <;> first | with_reducible rfl | simp (disch := first | assumption | (intro t x; first | with_reducible rfl | simp (disch := assumption) only [↓freeParcel_keeps] | ((repeat' (split)) <;> first | with_reducible rfl | simp (disch := assumption) only [↓freeParcel_keeps] | rfl))) only [↓freeParcel_keeps, ↓foldl_keeps, ↓foldr_keeps, ↓forUpTo_keeps, ↓foldl_snd_keeps]

theorem abortQueue_keeps {l : List Comp} (h_regs : Has l .regs) (h_ptns : Has l .ptns) (h_movs : Has l .movs) (h_pool : Has l .pool) (h_plat : Has l .plat) (h_hostMem : Has l .hostMem) (h_msixHeld : Has l .msixHeld) (h_emitted : Has l .emitted) :
    ∀ s x1, blank l (abortQueue s x1) = blank l s := by
  intro s x1
  unfold abortQueue
  simp (disch := assumption) only [↓setQueue_keeps, ↓endStalled_keeps, ↓dropParcels_keeps]

theorem unread_keeps {l : List Comp} (h_regs : Has l .regs) (h_pool : Has l .pool) (h_tens : Has l .tens) (h_msixHeld : Has l .msixHeld) (h_emitted : Has l .emitted) :
    ∀ s x1, blank l (unread s x1) = blank l s := by
  intro s x1
  unfold unread
  (repeat' (split)) <;> first | with_reducible rfl | simp (disch := assumption) only [↓setQueue_keeps, ↓setParcel_keeps, ↓noteNonempty_keeps, ↓wake_keeps, ↓blank_pool, ↓apply_ite (blank l), ite_self]

theorem withdrawWhere_keeps {l : List Comp} (h_regs : Has l .regs) (h_ptns : Has l .ptns) (h_pool : Has l .pool) (h_plat : Has l .plat) (h_tens : Has l .tens) (h_hostMem : Has l .hostMem) (h_msixHeld : Has l .msixHeld) (h_emitted : Has l .emitted) :
    ∀ s x1 x2, blank l (withdrawWhere s x1 x2) = blank l s := by
  intro s x1 x2
  unfold withdrawWhere
  (repeat' (split)) <;> first | with_reducible rfl | simp (disch := first | assumption | (intro t x; first | with_reducible rfl | simp (disch := assumption) only [↓wake_keeps, ↓settleWait_keeps, ↓unread_keeps, ↓blank_pool] | ((repeat' (split)) <;> first | with_reducible rfl | simp (disch := assumption) only [↓wake_keeps, ↓settleWait_keeps, ↓unread_keeps, ↓blank_pool] | rfl))) only [↓wake_keeps, ↓settleWait_keeps, ↓unread_keeps, ↓blank_pool, ↓foldl_keeps, ↓foldr_keeps, ↓forUpTo_keeps, ↓foldl_snd_keeps]

theorem withdrawAgent_keeps {l : List Comp} (h_regs : Has l .regs) (h_ptns : Has l .ptns) (h_pool : Has l .pool) (h_plat : Has l .plat) (h_tens : Has l .tens) (h_hostMem : Has l .hostMem) (h_msixHeld : Has l .msixHeld) (h_emitted : Has l .emitted) :
    ∀ s x1, blank l (withdrawAgent s x1) = blank l s := by
  intro s x1
  unfold withdrawAgent
  (repeat' (split)) <;> first | with_reducible rfl | simp (disch := first | assumption | (intro t x; first | with_reducible rfl | simp (disch := assumption) only [↓withdrawWhere_keeps] | ((repeat' (split)) <;> first | with_reducible rfl | simp (disch := assumption) only [↓withdrawWhere_keeps] | rfl))) only [↓withdrawWhere_keeps, ↓foldl_keeps, ↓foldr_keeps, ↓forUpTo_keeps, ↓foldl_snd_keeps]

theorem withdrawRun_keeps {l : List Comp} (h_regs : Has l .regs) (h_ptns : Has l .ptns) (h_pool : Has l .pool) (h_plat : Has l .plat) (h_tens : Has l .tens) (h_hostMem : Has l .hostMem) (h_msixHeld : Has l .msixHeld) (h_emitted : Has l .emitted) :
    ∀ s x1, blank l (withdrawRun s x1) = blank l s := by
  intro s x1
  unfold withdrawRun
  simp (disch := assumption) only [↓withdrawWhere_keeps]

theorem dropOwed_keeps {l : List Comp} (h_pool : Has l .pool) (h_plat : Has l .plat) :
    ∀ s x1, blank l (dropOwed s x1) = blank l s := by
  intro s x1
  unfold dropOwed
  dsimp only
  rw [foldl_keeps]
  · simp (disch := assumption) only [↓freeStake_keeps, ↓freeParcel_keeps, ↓blank_pool, ↓blank_plat, ↓apply_ite (blank l), ↓apply_ite Prod.snd, ite_self]
  · intro t x
    ((repeat' (split)) <;> first | with_reducible rfl | simp (disch := assumption) only [↓freeStake_keeps, ↓freeParcel_keeps, ↓blank_pool, ↓blank_plat, ↓apply_ite (blank l), ↓apply_ite Prod.snd, ite_self])

theorem dropGrants_keeps {l : List Comp} (h_pool : Has l .pool) :
    ∀ s x1, blank l (dropGrants s x1) = blank l s := by
  intro s x1
  unfold dropGrants
  simp (disch := assumption) only [↓blank_pool]

theorem withdrawAll_keeps {l : List Comp} (h_regs : Has l .regs) (h_ptns : Has l .ptns) (h_pool : Has l .pool) (h_plat : Has l .plat) (h_tens : Has l .tens) (h_hostMem : Has l .hostMem) (h_msixHeld : Has l .msixHeld) (h_emitted : Has l .emitted) :
    ∀ s x1, blank l (withdrawAll s x1) = blank l s := by
  intro s x1
  unfold withdrawAll
  (repeat' (split)) <;> first | with_reducible rfl | simp (disch := first | assumption | (intro t x; first | with_reducible rfl | simp (disch := assumption) only [↓withdrawAgent_keeps] | ((repeat' (split)) <;> first | with_reducible rfl | simp (disch := assumption) only [↓withdrawAgent_keeps] | rfl))) only [↓withdrawAgent_keeps, ↓foldl_keeps, ↓foldr_keeps, ↓forUpTo_keeps, ↓foldl_snd_keeps]

theorem disableQueue_keeps {l : List Comp} (h_regs : Has l .regs) (h_ptns : Has l .ptns) (h_movs : Has l .movs) (h_pool : Has l .pool) (h_plat : Has l .plat) (h_hostMem : Has l .hostMem) (h_msixHeld : Has l .msixHeld) (h_emitted : Has l .emitted) :
    ∀ s x1, blank l (disableQueue s x1) = blank l s := by
  intro s x1
  unfold disableQueue
  simp (disch := assumption) only [↓setQf_keeps, ↓endStalled_keeps]

theorem enableQueue_keeps {l : List Comp} (h_regs : Has l .regs) (h_pool : Has l .pool) (h_tens : Has l .tens) (h_msixHeld : Has l .msixHeld) (h_emitted : Has l .emitted) :
    ∀ s x1, blank l (enableQueue s x1) = blank l s := by
  intro s x1
  unfold enableQueue
  simp (disch := assumption) only [↓setQf_keeps, ↓setQueue_keeps, ↓noteNonempty_keeps, ↓wake_keeps]

theorem resetQueue_keeps {l : List Comp} (h_regs : Has l .regs) (h_ptns : Has l .ptns) (h_movs : Has l .movs) (h_pool : Has l .pool) (h_plat : Has l .plat) (h_hostMem : Has l .hostMem) (h_msixHeld : Has l .msixHeld) (h_emitted : Has l .emitted) :
    ∀ s x1, blank l (resetQueue s x1) = blank l s := by
  intro s x1
  unfold resetQueue
  simp (disch := assumption) only [↓setQf_keeps, ↓setQueue_keeps, ↓endStalled_keeps, ↓dropParcels_keeps]

theorem itemCode_keeps {l : List Comp} (h_fresh : Has l .fresh) :
    ∀ s x1 x2, blank l (itemCode s x1 x2).2 = blank l s := by
  intro s x1 x2
  unfold itemCode
  simp (disch := assumption) only [↓nextFresh_keeps, ↓apply_ite (blank l), ↓apply_ite Prod.snd, ite_self]

theorem endStatus_keeps {l : List Comp} (h_fresh : Has l .fresh) :
    ∀ s x1 x2, blank l (endStatus s x1 x2).2 = blank l s := by
  intro s x1 x2
  unfold endStatus
  (repeat' (split <;> (try (rename_i heq; have hh := congrArg Prod.snd heq; dsimp only at hh; subst hh)))) <;> first | with_reducible rfl | simp (disch := assumption) only [↓itemCode_keeps, ↓apply_ite (blank l), ↓apply_ite Prod.snd, ite_self]

theorem endStaged_keeps {l : List Comp} (h_regs : Has l .regs) (h_ptns : Has l .ptns) (h_pool : Has l .pool) (h_plat : Has l .plat) (h_tens : Has l .tens) (h_hostMem : Has l .hostMem) (h_msixHeld : Has l .msixHeld) (h_emitted : Has l .emitted) (h_fresh : Has l .fresh) :
    ∀ s x1 x2, blank l (endStaged s x1 x2) = blank l s := by
  intro s x1 x2
  unfold endStaged
  refine foldl_keeps _ ?_ _ _
  intro t x
  ((repeat' (split <;> (try (rename_i heq; have hh := congrArg Prod.snd heq; dsimp only at hh; subst hh)))) <;> first | with_reducible rfl | simp (disch := assumption) only [↓commitOp_keeps, ↓blank_pool, ↓blank_hostMem, ↓blank_plat, ↓blank_pool_fresh, ↓blank_ptns, ↓blank_regs, ↓blank_tens, ↓blank_msixHeld, ↓blank_fresh, ↓blank_emitted, ↓apply_ite (blank l), ↓apply_ite Prod.snd, ite_self])

theorem postReserved_keeps {l : List Comp} (h_regs : Has l .regs) (h_ptns : Has l .ptns) (h_pool : Has l .pool) (h_plat : Has l .plat) (h_tens : Has l .tens) (h_hostMem : Has l .hostMem) (h_msixHeld : Has l .msixHeld) (h_emitted : Has l .emitted) (h_fresh : Has l .fresh) :
    ∀ s x1 x2 x3 x4 x5, blank l (postReserved s x1 x2 x3 x4 x5) = blank l s := by
  intro s x1 x2 x3 x4 x5
  unfold postReserved
  simp (disch := assumption) only [↓freeStake_keeps, ↓writePayload_keeps, ↓hwRelease_keeps, ↓commitOp_keeps, ↓apply_ite (blank l), ite_self]

end Sys2Proof.Machine
end

