-- ==== Sys2Proof/Laws/KeepPlatCore.lean ====
section
/-! SUPPORT. What each operation of Machine/PlatCore.lean leaves as it was. -/

set_option linter.unusedSimpArgs false

namespace Sys2Proof.Machine

theorem slotBegin_keeps {l : List Comp} (h_regs : Has l .regs) (h_pool : Has l .pool) (h_plat : Has l .plat) (h_fresh : Has l .fresh) :
    ∀ s x1 x2 x3 x4, blank l (slotBegin s x1 x2 x3 x4) = blank l s := by
  intro s x1 x2 x3 x4
  unfold slotBegin
  dsimp only
  (repeat' (split <;> (try (rename_i heq; have hh := congrArg Prod.snd heq; dsimp only at hh; subst hh)))) <;> first | with_reducible rfl | simp (disch := assumption) only [↓addSat_keeps, ↓reserveNow_keeps, ↓blank_plat, ↓apply_ite (blank l), ite_self]

theorem slotComplete_keeps {l : List Comp} (h_regs : Has l .regs) (h_ptns : Has l .ptns) (h_pool : Has l .pool) (h_plat : Has l .plat) (h_tens : Has l .tens) (h_hostMem : Has l .hostMem) (h_msixHeld : Has l .msixHeld) (h_emitted : Has l .emitted) (h_fresh : Has l .fresh) :
    ∀ s x1, blank l (slotComplete s x1) = blank l s := by
  intro s x1
  unfold slotComplete
  (repeat' (split <;> (try (rename_i heq; have hh := congrArg Prod.snd heq; dsimp only at hh; subst hh)))) <;> first | with_reducible rfl | simp (disch := assumption) only [↓addSat_keeps, ↓setEvt_keeps, ↓bumpHealth_keeps, ↓writePayload_keeps, ↓commitOp_keeps, ↓apply_ite (blank l), ite_self]

theorem settleGrant_keeps {l : List Comp} (h_regs : Has l .regs) (h_ptns : Has l .ptns) (h_pool : Has l .pool) (h_plat : Has l .plat) (h_tens : Has l .tens) (h_hostMem : Has l .hostMem) (h_msixHeld : Has l .msixHeld) (h_emitted : Has l .emitted) (h_fresh : Has l .fresh) :
    ∀ s x1 x2 x3 x4 x5 x6, blank l (settleGrant s x1 x2 x3 x4 x5 x6) = blank l s := by
  intro s x1 x2 x3 x4 x5 x6
  unfold settleGrant
  (repeat' (split)) <;> first | with_reducible rfl | simp (disch := assumption) only [↓slotComplete_keeps, ↓blank_plat, ↓apply_ite (blank l), ite_self]

theorem endWork_keeps {l : List Comp} (h_regs : Has l .regs) (h_ptns : Has l .ptns) (h_pool : Has l .pool) (h_plat : Has l .plat) (h_tens : Has l .tens) (h_hostMem : Has l .hostMem) (h_msixHeld : Has l .msixHeld) (h_emitted : Has l .emitted) (h_fresh : Has l .fresh) :
    ∀ s x1 x2 x3, blank l (endWork s x1 x2 x3) = blank l s := by
  intro s x1 x2 x3
  unfold endWork
  simp (disch := assumption) only [↓freeStake_keeps, ↓settleGrant_keeps, ↓blank_plat]

end Sys2Proof.Machine
end

