-- ==== Sys2Proof/Laws/KeepStationCore.lean ====
section
/-! SUPPORT. What each operation of Machine/StationCore.lean leaves as it was. -/

set_option linter.unusedSimpArgs false

namespace Sys2Proof.Machine

theorem freeFills_keeps {l : List Comp} (h_stns : Has l .stns) :
    ∀ s x1, blank l (freeFills s x1) = blank l s := by
  intro s x1
  unfold freeFills
  (repeat' (split)) <;> first | with_reducible rfl | simp (disch := first | assumption | (intro t x; first | with_reducible rfl | simp (disch := assumption) only [↓setStn_keeps, ↓apply_ite (blank l), ite_self] | ((repeat' (split)) <;> first | with_reducible rfl | simp (disch := assumption) only [↓setStn_keeps, ↓apply_ite (blank l), ite_self] | rfl))) only [↓setStn_keeps, ↓apply_ite (blank l), ite_self, ↓foldl_keeps, ↓foldr_keeps, ↓forUpTo_keeps, ↓foldl_snd_keeps]

theorem endJob_keeps {l : List Comp} (h_stns : Has l .stns) :
    ∀ s x1 x2, blank l (endJob s x1 x2) = blank l s := by
  intro s x1 x2
  unfold endJob
  simp (disch := assumption) only [↓setStn_keeps, ↓apply_ite (blank l), ite_self]

theorem issue_keeps {l : List Comp} (h_stns : Has l .stns) :
    ∀ s x1 x2 x3, (∀ y0 y1 y2, blank l (x3 y0 y1 y2) = blank l s) → blank l (issue s x1 x2 x3) = blank l s := by
  intro s x1 x2 x3 hf0
  unfold issue
  dsimp only
  (repeat' (split)) <;> first | with_reducible rfl | simp (disch := assumption) only [↓endJob_keeps, ↓apply_ite (blank l), ite_self, ↓hf0]

theorem startRun_keeps {l : List Comp} (h_stns : Has l .stns) :
    ∀ s x1 x2 x3 x4, blank l (startRun s x1 x2 x3 x4) = blank l s := by
  intro s x1 x2 x3 x4
  unfold startRun
  (repeat' (split)) <;> first | with_reducible rfl | simp (disch := first | assumption | (intro t x; first | with_reducible rfl | simp (disch := assumption) only [↓setStn_keeps] | ((repeat' (split)) <;> first | with_reducible rfl | simp (disch := assumption) only [↓setStn_keeps] | rfl))) only [↓setStn_keeps, ↓foldl_keeps, ↓foldr_keeps, ↓forUpTo_keeps, ↓foldl_snd_keeps]

theorem finishJob_keeps {l : List Comp} (h_regs : Has l .regs) (h_stns : Has l .stns) (h_ptns : Has l .ptns) (h_pool : Has l .pool) (h_plat : Has l .plat) (h_tens : Has l .tens) (h_hostMem : Has l .hostMem) (h_msixHeld : Has l .msixHeld) (h_emitted : Has l .emitted) (h_fresh : Has l .fresh) :
    ∀ s x1 x2 x3 x4, blank l (finishJob s x1 x2 x3 x4) = blank l s := by
  intro s x1 x2 x3 x4
  unfold finishJob
  dsimp only
  (repeat' (split)) <;> first | with_reducible rfl | simp (disch := first | assumption | (intro t x; first | with_reducible rfl | simp (disch := assumption) only [↓addSat_keeps, ↓settleOwed_keeps, ↓endWork_keeps, ↓freeFills_keeps, ↓blank_pool, ↓blank_hostMem, ↓blank_plat, ↓blank_pool_fresh, ↓blank_ptns, ↓blank_regs, ↓blank_tens, ↓blank_msixHeld, ↓blank_fresh, ↓blank_stns, ↓blank_emitted, ↓apply_ite (blank l), ↓apply_ite Prod.snd, ite_self] | ((repeat' (split)) <;> first | with_reducible rfl | simp (disch := assumption) only [↓addSat_keeps, ↓settleOwed_keeps, ↓endWork_keeps, ↓freeFills_keeps, ↓blank_pool, ↓blank_hostMem, ↓blank_plat, ↓blank_pool_fresh, ↓blank_ptns, ↓blank_regs, ↓blank_tens, ↓blank_msixHeld, ↓blank_fresh, ↓blank_stns, ↓blank_emitted, ↓apply_ite (blank l), ↓apply_ite Prod.snd, ite_self] | rfl))) only [↓addSat_keeps, ↓settleOwed_keeps, ↓endWork_keeps, ↓freeFills_keeps, ↓blank_pool, ↓blank_hostMem, ↓blank_plat, ↓blank_pool_fresh, ↓blank_ptns, ↓blank_regs, ↓blank_tens, ↓blank_msixHeld, ↓blank_fresh, ↓blank_stns, ↓blank_emitted, ↓apply_ite (blank l), ↓apply_ite Prod.snd, ite_self, ↓foldl_keeps, ↓foldr_keeps, ↓forUpTo_keeps, ↓foldl_snd_keeps] | rfl

theorem postEnd_keeps {l : List Comp} (h_regs : Has l .regs) (h_stns : Has l .stns) (h_ptns : Has l .ptns) (h_pool : Has l .pool) (h_plat : Has l .plat) (h_tens : Has l .tens) (h_hostMem : Has l .hostMem) (h_msixHeld : Has l .msixHeld) (h_emitted : Has l .emitted) (h_fresh : Has l .fresh) :
    ∀ s x1 x2 x3 x4, blank l (postEnd s x1 x2 x3 x4) = blank l s := by
  intro s x1 x2 x3 x4
  unfold postEnd
  (repeat' (split)) <;> first | with_reducible rfl | simp (disch := first | assumption | (intro t x; first | with_reducible rfl | simp (disch := assumption) only [↓lastPost_keeps, ↓freeFills_keeps, ↓finishJob_keeps, ↓apply_ite (blank l), ite_self] | ((repeat' (split)) <;> first | with_reducible rfl | simp (disch := assumption) only [↓lastPost_keeps, ↓freeFills_keeps, ↓finishJob_keeps, ↓apply_ite (blank l), ite_self] | rfl))) only [↓lastPost_keeps, ↓freeFills_keeps, ↓finishJob_keeps, ↓apply_ite (blank l), ite_self, ↓foldl_keeps, ↓foldr_keeps, ↓forUpTo_keeps, ↓foldl_snd_keeps]

theorem dropRun_keeps {l : List Comp} (h_regs : Has l .regs) (h_stns : Has l .stns) (h_ptns : Has l .ptns) (h_pool : Has l .pool) (h_plat : Has l .plat) (h_tens : Has l .tens) (h_hostMem : Has l .hostMem) (h_msixHeld : Has l .msixHeld) (h_emitted : Has l .emitted) (h_fresh : Has l .fresh) :
    ∀ s x1 x2, blank l (dropRun s x1 x2) = blank l s := by
  intro s x1 x2
  unfold dropRun
  dsimp only
  (repeat' (split)) <;> first | with_reducible rfl | simp (disch := assumption) only [↓setStn_keeps, ↓withdrawRun_keeps, ↓dropGrants_keeps, ↓postEnd_keeps]

theorem dropSaved_keeps {l : List Comp} (h_regs : Has l .regs) (h_stns : Has l .stns) (h_ptns : Has l .ptns) (h_pool : Has l .pool) (h_plat : Has l .plat) (h_tens : Has l .tens) (h_hostMem : Has l .hostMem) (h_msixHeld : Has l .msixHeld) (h_emitted : Has l .emitted) (h_fresh : Has l .fresh) :
    ∀ s x1 x2, blank l (dropSaved s x1 x2) = blank l s := by
  intro s x1 x2
  unfold dropSaved
  (repeat' (split)) <;> first | with_reducible rfl | simp (disch := assumption) only [↓setStn_keeps, ↓postEnd_keeps]

theorem requestSave_keeps {l : List Comp} (h_stns : Has l .stns) :
    ∀ s x1 x2, blank l (requestSave s x1 x2) = blank l s := by
  intro s x1 x2
  unfold requestSave
  dsimp only
  (repeat' (split)) <;> first | with_reducible rfl | simp (disch := assumption) only [↓setStn_keeps, ↓apply_ite (blank l), ite_self]

theorem saveRun_keeps {l : List Comp} (h_regs : Has l .regs) (h_stns : Has l .stns) (h_ptns : Has l .ptns) (h_pool : Has l .pool) (h_plat : Has l .plat) (h_tens : Has l .tens) (h_hostMem : Has l .hostMem) (h_msixHeld : Has l .msixHeld) (h_emitted : Has l .emitted) :
    ∀ s x1 x2 x3, blank l (saveRun s x1 x2 x3) = blank l s := by
  intro s x1 x2 x3
  unfold saveRun
  (repeat' (split)) <;> first | with_reducible rfl | simp (disch := first | assumption | (intro t x; first | with_reducible rfl | simp (disch := assumption) only [↓addSat_keeps, ↓setStn_keeps, ↓withdrawRun_keeps, ↓dropGrants_keeps, ↓apply_ite (blank l), ite_self] | ((repeat' (split)) <;> first | with_reducible rfl | simp (disch := assumption) only [↓addSat_keeps, ↓setStn_keeps, ↓withdrawRun_keeps, ↓dropGrants_keeps, ↓apply_ite (blank l), ite_self] | rfl))) only [↓addSat_keeps, ↓setStn_keeps, ↓withdrawRun_keeps, ↓dropGrants_keeps, ↓apply_ite (blank l), ite_self, ↓foldl_keeps, ↓foldr_keeps, ↓forUpTo_keeps, ↓foldl_snd_keeps]

theorem resumeSaved_keeps {l : List Comp} (h_stns : Has l .stns) :
    ∀ s x1, blank l (resumeSaved s x1) = blank l s := by
  intro s x1
  unfold resumeSaved
  (repeat' (split)) <;> first | with_reducible rfl | simp (disch := first | assumption | (intro t x; first | with_reducible rfl | simp (disch := assumption) only [↓setStn_keeps, ↓apply_ite (blank l), ite_self] | ((repeat' (split)) <;> first | with_reducible rfl | simp (disch := assumption) only [↓setStn_keeps, ↓apply_ite (blank l), ite_self] | rfl))) only [↓setStn_keeps, ↓apply_ite (blank l), ite_self, ↓foldl_keeps, ↓foldr_keeps, ↓forUpTo_keeps, ↓foldl_snd_keeps]

theorem resumeStation_keeps {l : List Comp} (h_stns : Has l .stns) :
    ∀ s x1, blank l (resumeStation s x1) = blank l s := by
  intro s x1
  unfold resumeStation
  simp (disch := assumption) only [↓resumeSaved_keeps]

theorem leaveQuiesced_keeps {l : List Comp} (h_regs : Has l .regs) (h_msixHeld : Has l .msixHeld) (h_emitted : Has l .emitted) :
    ∀ s x1, blank l (leaveQuiesced s x1) = blank l s := by
  intro s x1
  unfold leaveQuiesced
  simp (disch := assumption) only [↓wr_keeps, ↓setEvt_keeps, ↓apply_ite (blank l), ite_self]

theorem resumeStnPage_keeps {l : List Comp} (h_regs : Has l .regs) (h_stns : Has l .stns) (h_msixHeld : Has l .msixHeld) (h_emitted : Has l .emitted) :
    ∀ s x1, blank l (resumeStnPage s x1) = blank l s := by
  intro s x1
  unfold resumeStnPage
  (repeat' (split)) <;> first | with_reducible rfl | simp (disch := first | assumption | (intro t x; first | with_reducible rfl | simp (disch := assumption) only [↓resumeStation_keeps, ↓leaveQuiesced_keeps, ↓apply_ite (blank l), ite_self] | ((repeat' (split)) <;> first | with_reducible rfl | simp (disch := assumption) only [↓resumeStation_keeps, ↓leaveQuiesced_keeps, ↓apply_ite (blank l), ite_self] | rfl))) only [↓resumeStation_keeps, ↓leaveQuiesced_keeps, ↓apply_ite (blank l), ite_self, ↓foldl_keeps, ↓foldr_keeps, ↓forUpTo_keeps, ↓foldl_snd_keeps]

theorem resumeOwner_keeps {l : List Comp} (h_stns : Has l .stns) :
    ∀ s x1 x2, blank l (resumeOwner s x1 x2) = blank l s := by
  intro s x1 x2
  unfold resumeOwner
  (repeat' (split)) <;> first | with_reducible rfl | simp (disch := first | assumption | (intro t x; first | with_reducible rfl | simp (disch := assumption) only [↓resumeStation_keeps, ↓apply_ite (blank l), ite_self] | ((repeat' (split)) <;> first | with_reducible rfl | simp (disch := assumption) only [↓resumeStation_keeps, ↓apply_ite (blank l), ite_self] | rfl))) only [↓resumeStation_keeps, ↓apply_ite (blank l), ite_self, ↓foldl_keeps, ↓foldr_keeps, ↓forUpTo_keeps, ↓foldl_snd_keeps]

theorem slotReady_keeps {l : List Comp} (h_stns : Has l .stns) :
    ∀ s x1 x2, blank l (slotReady s x1 x2) = blank l s := by
  intro s x1 x2
  unfold slotReady
  (repeat' (split)) <;> first | with_reducible rfl | simp (disch := first | assumption | (intro t x; first | with_reducible rfl | simp (disch := assumption) only [↓resumeSaved_keeps, ↓apply_ite (blank l), ite_self] | ((repeat' (split)) <;> first | with_reducible rfl | simp (disch := assumption) only [↓resumeSaved_keeps, ↓apply_ite (blank l), ite_self] | rfl))) only [↓resumeSaved_keeps, ↓apply_ite (blank l), ite_self, ↓foldl_keeps, ↓foldr_keeps, ↓forUpTo_keeps, ↓foldl_snd_keeps]

theorem slotStopped_keeps {l : List Comp} (h_stns : Has l .stns) :
    ∀ s x1 x2, blank l (slotStopped s x1 x2) = blank l s := by
  intro s x1 x2
  unfold slotStopped
  (repeat' (split)) <;> first | with_reducible rfl | simp (disch := first | assumption | (intro t x; first | with_reducible rfl | simp (disch := assumption) only [↓requestSave_keeps, ↓apply_ite (blank l), ite_self] | ((repeat' (split)) <;> first | with_reducible rfl | simp (disch := assumption) only [↓requestSave_keeps, ↓apply_ite (blank l), ite_self] | rfl))) only [↓requestSave_keeps, ↓apply_ite (blank l), ite_self, ↓foldl_keeps, ↓foldr_keeps, ↓forUpTo_keeps, ↓foldl_snd_keeps]

theorem slotFailed_keeps {l : List Comp} (h_regs : Has l .regs) (h_stns : Has l .stns) (h_ptns : Has l .ptns) (h_pool : Has l .pool) (h_plat : Has l .plat) (h_tens : Has l .tens) (h_hostMem : Has l .hostMem) (h_msixHeld : Has l .msixHeld) (h_emitted : Has l .emitted) (h_fresh : Has l .fresh) :
    ∀ s x1 x2 x3, blank l (slotFailed s x1 x2 x3) = blank l s := by
  intro s x1 x2 x3
  unfold slotFailed
  refine foldl_keeps _ ?_ _ _
  intro t x
  dsimp only
  ((repeat' (split)) <;> first | with_reducible rfl | simp (disch := assumption) only [↓endJob_keeps, ↓dropSaved_keeps, ↓blank_pool, ↓blank_hostMem, ↓blank_plat, ↓blank_pool_fresh, ↓blank_ptns, ↓blank_regs, ↓blank_tens, ↓blank_msixHeld, ↓blank_fresh, ↓blank_stns, ↓blank_emitted, ↓apply_ite (blank l), ↓apply_ite Prod.snd, ite_self])

end Sys2Proof.Machine
end

