-- ==== Sys2Proof/Laws/KeepTierCore.lean ====
section
/-! SUPPORT. What each operation of Machine/TierCore.lean leaves as it was. -/

set_option linter.unusedSimpArgs false

namespace Sys2Proof.Machine

theorem setLocs_keeps {l : List Comp} (h_locs : Has l .locs) :
    ∀ s x1 x2 x3, blank l (setLocs s x1 x2 x3) = blank l s := by
  intro s x1 x2 x3
  unfold setLocs
  simp (disch := assumption) only [↓blank_locs]

theorem takeLoc_keeps {l : List Comp} (h_locs : Has l .locs) :
    ∀ s x1 x2, blank l (takeLoc s x1 x2) = blank l s := by
  intro s x1 x2
  unfold takeLoc
  simp (disch := assumption) only [↓setLocs_keeps]

theorem freeLoc_keeps {l : List Comp} (h_locs : Has l .locs) (h_spillFreed : Has l .spillFreed) :
    ∀ s x1 x2, blank l (freeLoc s x1 x2) = blank l s := by
  intro s x1 x2
  unfold freeLoc
  simp (disch := assumption) only [↓setLocs_keeps, ↓blank_spillFreed, ↓apply_ite (blank l), ite_self]

theorem setTile_keeps {l : List Comp} (h_ptns : Has l .ptns) :
    ∀ s x1 x2 x3, blank l (setTile s x1 x2 x3) = blank l s := by
  intro s x1 x2 x3
  unfold setTile
  simp (disch := assumption) only [↓setPtn_keeps]

theorem startMig_keeps {l : List Comp} (h_ptns : Has l .ptns) (h_migs : Has l .migs) (h_locs : Has l .locs) :
    ∀ s x1 x2 x3 x4 x5, blank l (startMig s x1 x2 x3 x4 x5) = blank l s := by
  intro s x1 x2 x3 x4 x5
  unfold startMig
  dsimp only
  (repeat' (split)) <;> first | with_reducible rfl | simp (disch := assumption) only [↓takeLoc_keeps, ↓setTile_keeps, ↓blank_migs, ↓apply_ite (blank l), ite_self]

theorem dropMig_keeps {l : List Comp} (h_migs : Has l .migs) (h_locs : Has l .locs) (h_spillFreed : Has l .spillFreed) :
    ∀ s x1, blank l (dropMig s x1) = blank l s := by
  intro s x1
  unfold dropMig
  (repeat' (split)) <;> first | with_reducible rfl | simp (disch := assumption) only [↓freeLoc_keeps, ↓blank_migs]

theorem stayMig_keeps {l : List Comp} (h_ptns : Has l .ptns) (h_migs : Has l .migs) (h_locs : Has l .locs) (h_spillFreed : Has l .spillFreed) :
    ∀ s x1, blank l (stayMig s x1) = blank l s := by
  intro s x1
  unfold stayMig
  dsimp only
  (repeat' (split)) <;> first | with_reducible rfl | simp (disch := assumption) only [↓setTile_keeps, ↓dropMig_keeps]

theorem endMig_keeps {l : List Comp} (h_regs : Has l .regs) (h_ptns : Has l .ptns) (h_migs : Has l .migs) (h_locs : Has l .locs) (h_spillFreed : Has l .spillFreed) :
    ∀ s x1 x2, blank l (endMig s x1 x2) = blank l s := by
  intro s x1 x2
  unfold endMig
  (repeat' (split)) <;> first | with_reducible rfl | simp (disch := first | assumption | (intro t x; first | with_reducible rfl | simp (disch := assumption) only [↓addSat_keeps, ↓stayMig_keeps] | ((repeat' (split)) <;> first | with_reducible rfl | simp (disch := assumption) only [↓addSat_keeps, ↓stayMig_keeps] | rfl))) only [↓addSat_keeps, ↓stayMig_keeps, ↓foldl_keeps, ↓foldr_keeps, ↓forUpTo_keeps, ↓foldl_snd_keeps]

theorem giveUpMig_keeps {l : List Comp} (h_regs : Has l .regs) (h_ptns : Has l .ptns) (h_migs : Has l .migs) (h_locs : Has l .locs) (h_spillFreed : Has l .spillFreed) :
    ∀ s x1 x2, blank l (giveUpMig s x1 x2) = blank l s := by
  intro s x1 x2
  unfold giveUpMig
  (repeat' (split)) <;> first | with_reducible rfl | simp (disch := assumption) only [↓addSat_keeps, ↓stayMig_keeps, ↓apply_ite (blank l), ite_self]

theorem releaseSwap_keeps {l : List Comp} (h_migs : Has l .migs) :
    ∀ s x1 x2, blank l (releaseSwap s x1 x2) = blank l s := by
  intro s x1 x2
  unfold releaseSwap
  simp (disch := assumption) only [↓blank_migs, ↓apply_ite (blank l), ite_self]

theorem makeRoom_keeps {l : List Comp} (h_ptns : Has l .ptns) (h_migs : Has l .migs) (h_locs : Has l .locs) :
    ∀ s x1 x2 x3 x4 x5, ∀ t, makeRoom s x1 x2 x3 x4 x5 = some t → blank l t = blank l s := by
  intro s x1 x2 x3 x4 x5
  induction x5 generalizing s x1 x2 x3 x4 with
  | zero => intro t h; cases h
  | succ n ih =>
    intro t h
    unfold makeRoom at h
    split at h
    · cases h
    · split at h
      · cases h
      · dsimp only at h
        split at h
        · cases h
        · split at h
          · cases h; simp (disch := assumption) only [↓startMig_keeps]
          · split at h
            · split at h
              · rename_i heq
                have hh := ih _ _ _ _ _ _ heq
                cases h; simp (disch := assumption) only [↓startMig_keeps, hh]
              · cases h
            · cases h

theorem roomFor_keeps {l : List Comp} (h_ptns : Has l .ptns) (h_migs : Has l .migs) (h_locs : Has l .locs) :
    ∀ s x1 x2 x3 x4, blank l (roomFor s x1 x2 x3 x4) = blank l s := by
  intro s x1 x2 x3 x4
  unfold roomFor
  split
  · rfl
  · exact getD_keeps (makeRoom_keeps h_ptns h_migs h_locs _ _ _ _ _ _)

theorem placeMig_keeps {l : List Comp} (h_regs : Has l .regs) (h_ptns : Has l .ptns) (h_migs : Has l .migs) (h_locs : Has l .locs) (h_spillFreed : Has l .spillFreed) :
    ∀ s x1, blank l (placeMig s x1) = blank l s := by
  intro s x1
  unfold placeMig
  (repeat' (split <;> (try (rename_i heq; have hh := makeRoom_keeps h_ptns h_migs h_locs _ _ _ _ _ _ _ heq)))) <;> first | with_reducible rfl | simp (disch := assumption) only [↓takeLoc_keeps, ↓giveUpMig_keeps, ↓blank_migs, ↓apply_ite (blank l), ite_self, *]

theorem serveMig_keeps {l : List Comp} (h_regs : Has l .regs) (h_ptns : Has l .ptns) (h_migs : Has l .migs) (h_locs : Has l .locs) (h_spillFreed : Has l .spillFreed) :
    ∀ s x1, blank l (serveMig s x1) = blank l s := by
  intro s x1
  unfold serveMig
  (repeat' (split)) <;> first | with_reducible rfl | simp (disch := assumption) only [↓giveUpMig_keeps, ↓placeMig_keeps, ↓blank_migs, ↓apply_ite (blank l), ite_self]

theorem serveMigs_keeps {l : List Comp} (h_regs : Has l .regs) (h_ptns : Has l .ptns) (h_migs : Has l .migs) (h_locs : Has l .locs) (h_spillFreed : Has l .spillFreed) :
    ∀ s, blank l (serveMigs s) = blank l s := by
  intro s
  unfold serveMigs
  split
  · rfl
  · exact foldl_keeps _ (fun t x => serveMig_keeps h_regs h_ptns h_migs h_locs h_spillFreed t x) _ _

theorem demote_keeps {l : List Comp} (h_ptns : Has l .ptns) (h_migs : Has l .migs) (h_locs : Has l .locs) :
    ∀ s x1, ∀ t, demote s x1 = some t → blank l t = blank l s := by
  intro s x1 t h
  unfold demote at h
  (repeat' (split at h <;> (try (rename_i heq; have hh := makeRoom_keeps h_ptns h_migs h_locs _ _ _ _ _ _ _ heq)))) <;> (cases h <;> (first | with_reducible rfl | simp (disch := assumption) only [↓startMig_keeps, ↓apply_ite (blank l), ↓apply_ite Prod.snd, ite_self, *] | ((repeat' (split <;> (try (rename_i heq; have hh := makeRoom_keeps h_ptns h_migs h_locs _ _ _ _ _ _ _ heq)))) <;> first | with_reducible rfl | simp (disch := first | assumption | (intro t x; first | with_reducible rfl | simp (disch := assumption) only [↓startMig_keeps, ↓apply_ite (blank l), ↓apply_ite Prod.snd, ite_self, *] | ((repeat' (split <;> (try (rename_i heq; have hh := makeRoom_keeps h_ptns h_migs h_locs _ _ _ _ _ _ _ heq)))) <;> first | with_reducible rfl | simp (disch := assumption) only [↓startMig_keeps, ↓apply_ite (blank l), ↓apply_ite Prod.snd, ite_self, *] | rfl))) only [↓startMig_keeps, ↓apply_ite (blank l), ↓apply_ite Prod.snd, ite_self, ↓foldl_keeps, ↓foldr_keeps, ↓forUpTo_keeps, ↓foldl_snd_keeps, *] | rfl)))

theorem queueUp_keeps {l : List Comp} (h_ptns : Has l .ptns) (h_migs : Has l .migs) (h_locs : Has l .locs) {s : State} {r : Option State}
    (h : ∀ t, r = some t → blank l t = blank l s) (p k : Nat) : ∀ t, queueUp r p k = some t → blank l t = blank l s := by
  intro t ht
  unfold queueUp at ht
  split at ht
  · cases ht
  · split at ht
    · cases ht; exact (startMig_keeps h_ptns h_migs h_locs _ _ _ _ _ _).trans (h _ rfl)
    · cases ht

theorem queueAfter_keeps {l : List Comp} (h_ptns : Has l .ptns) (h_migs : Has l .migs) (h_locs : Has l .locs) {s : State} {r : Option State}
    (h : ∀ t, r = some t → blank l t = blank l s) (p k v : Nat) :
    ∀ t, queueAfter r p k v = some t → blank l t = blank l s := by
  intro t ht
  unfold queueAfter at ht
  rw [Option.map_eq_some_iff] at ht
  obtain ⟨u, hu, rfl⟩ := ht
  rw [← queueUp_keeps h_ptns h_migs h_locs h p k u hu]
  simp (disch := assumption) only [↓blank_migs]

theorem promotion_keeps {l : List Comp} (h_ptns : Has l .ptns) (h_migs : Has l .migs) (h_locs : Has l .locs) :
    ∀ s x1 x2 x3, ∀ t, promotion s x1 x2 x3 = some t → blank l t = blank l s := by
  intro s x1 x2 x3 t h
  unfold promotion at h
  dsimp only at h
  split at h
  · cases h
  · split at h
    · split at h
      · exact queueUp_keeps h_ptns h_migs h_locs (fun u hu => by cases hu; rfl) _ _ _ h
      · split at h
        · rename_i heq
          cases h
          exact queueUp_keeps h_ptns h_migs h_locs (makeRoom_keeps h_ptns h_migs h_locs _ _ _ _ _ _) _ _ _ heq
        · split at h
          · exact queueUp_keeps h_ptns h_migs h_locs (fun u hu => by cases hu; rfl) _ _ _ h
          · cases h
    · split at h
      · exact queueAfter_keeps h_ptns h_migs h_locs (demote_keeps h_ptns h_migs h_locs _ _) _ _ _ _ h
      · cases h

theorem promote_keeps {l : List Comp} (h_regs : Has l .regs) (h_ptns : Has l .ptns) (h_migs : Has l .migs) (h_locs : Has l .locs) :
    ∀ s x1 x2 x3, blank l (promote s x1 x2 x3) = blank l s := by
  intro s x1 x2 x3
  unfold promote
  split
  · rfl
  · split
    · rename_i heq
      split at heq
      · cases heq
      · exact promotion_keeps h_ptns h_migs h_locs _ _ _ _ _ heq
    · simp (disch := assumption) only [↓addSat_keeps, ↓blank_ptns, ↓blank_regs, ↓blank_locs, ↓blank_migs, ↓apply_ite (blank l), ↓apply_ite Prod.snd, ite_self, *]

theorem countRead_keeps {l : List Comp} (h_regs : Has l .regs) (h_ptns : Has l .ptns) (h_migs : Has l .migs) (h_locs : Has l .locs) :
    ∀ s x1 x2 x3, blank l (countRead s x1 x2 x3) = blank l s := by
  intro s x1 x2 x3
  unfold countRead
  simp (disch := assumption) only [↓setTile_keeps, ↓promote_keeps, ↓apply_ite (blank l), ite_self]

theorem takeFault_keeps {l : List Comp} (h_regs : Has l .regs) :
    ∀ s x1, blank l (takeFault s x1).2 = blank l s := by
  intro s x1
  unfold takeFault
  simp (disch := assumption) only [↓wr_keeps, ↓apply_ite (blank l), ↓apply_ite Prod.snd, ite_self]

theorem countCe_keeps {l : List Comp} (h_regs : Has l .regs) :
    ∀ s x1 x2, blank l (countCe s x1 x2) = blank l s := by
  intro s x1 x2
  unfold countCe
  (repeat' (split)) <;> first | with_reducible rfl | simp (disch := assumption) only [↓addSat_keeps, ↓bumpHealth_keeps]

theorem spillStore_keeps {l : List Comp} (h_hostMem : Has l .hostMem) (h_emitted : Has l .emitted) :
    ∀ s x1 x2 x3 x4, blank l (spillStore s x1 x2 x3 x4) = blank l s := by
  intro s x1 x2 x3 x4
  unfold spillStore
  simp (disch := assumption) only [↓hostPut_keeps]

theorem softTier_keeps {l : List Comp} (h_regs : Has l .regs) (h_ptns : Has l .ptns) :
    ∀ s x1 x2 x3 x4, blank l (softTier s x1 x2 x3 x4) = blank l s := by
  intro s x1 x2 x3 x4
  unfold softTier
  (repeat' (split)) <;> first | with_reducible rfl | simp (disch := first | assumption | (intro t x; first | with_reducible rfl | simp (disch := assumption) only [↓setPtn_keeps, ↓countCe_keeps, ↓apply_ite (blank l), ite_self] | ((repeat' (split)) <;> first | with_reducible rfl | simp (disch := assumption) only [↓setPtn_keeps, ↓countCe_keeps, ↓apply_ite (blank l), ite_self] | rfl))) only [↓setPtn_keeps, ↓countCe_keeps, ↓apply_ite (blank l), ite_self, ↓foldl_keeps, ↓foldr_keeps, ↓forUpTo_keeps, ↓foldl_snd_keeps]

theorem hostTierRead_keeps {l : List Comp} (h_regs : Has l .regs) (h_fresh : Has l .fresh) :
    ∀ s, blank l (hostTierRead s).2 = blank l s := by
  intro s
  unfold hostTierRead
  simp (disch := assumption) only [↓addSat_keeps, ↓nextFresh_keeps, ↓apply_ite (blank l), ↓apply_ite Prod.snd, ite_self]

theorem tierFault_keeps {l : List Comp} (h_regs : Has l .regs) (h_fresh : Has l .fresh) :
    ∀ s x1, blank l (tierFault s x1).2 = blank l s := by
  intro s x1
  unfold tierFault
  simp (disch := assumption) only [↓takeFault_keeps, ↓hostTierRead_keeps, ↓apply_ite (blank l), ↓apply_ite Prod.snd, ite_self]

theorem readTile_keeps {l : List Comp} (h_regs : Has l .regs) (h_ptns : Has l .ptns) (h_migs : Has l .migs) (h_locs : Has l .locs) (h_fresh : Has l .fresh) :
    ∀ s x1 x2 x3 x4, blank l (readTile s x1 x2 x3 x4).2 = blank l s := by
  intro s x1 x2 x3 x4
  unfold readTile
  dsimp only
  (repeat' (split <;> (try (rename_i heq; have hh := congrArg Prod.snd heq; dsimp only at hh; subst hh)))) <;> first | with_reducible rfl | simp (disch := assumption) only [↓setTile_keeps, ↓countRead_keeps, ↓countCe_keeps, ↓softTier_keeps, ↓tierFault_keeps, ↓apply_ite (blank l), ↓apply_ite Prod.snd, ite_self]

theorem findRoom_keeps {l : List Comp} (h_ptns : Has l .ptns) (h_migs : Has l .migs) (h_locs : Has l .locs) :
    ∀ s x1 x2, blank l (findRoom s x1 x2).2.2 = blank l s := by
  intro s x1 x2
  unfold findRoom
  (repeat' (split <;> (try (rename_i heq; have hh := makeRoom_keeps h_ptns h_migs h_locs _ _ _ _ _ _ _ heq)))) <;> first | with_reducible rfl | simp (disch := assumption) only [↓apply_ite (blank l), ↓apply_ite Prod.snd, ite_self, *]

theorem putBytes_keeps {l : List Comp} (h_ptns : Has l .ptns) :
    ∀ s x1 x2 x3, blank l (putBytes s x1 x2 x3) = blank l s := by
  intro s x1 x2 x3
  unfold putBytes
  simp (disch := assumption) only [↓setPtn_keeps]

theorem storeTile_keeps {l : List Comp} (h_ptns : Has l .ptns) (h_hostMem : Has l .hostMem) (h_emitted : Has l .emitted) :
    ∀ s x1 x2 x3 x4, blank l (storeTile s x1 x2 x3 x4) = blank l s := by
  intro s x1 x2 x3 x4
  unfold storeTile
  simp (disch := assumption) only [↓spillStore_keeps, ↓putBytes_keeps, ↓apply_ite (blank l), ite_self]

theorem setPinned_keeps {l : List Comp} (h_regs : Has l .regs) :
    ∀ s x1 x2 x3, blank l (setPinned s x1 x2 x3) = blank l s := by
  intro s x1 x2 x3
  unfold setPinned
  simp (disch := assumption) only [↓wr_keeps]

theorem setPinning_keeps {l : List Comp} (h_regs : Has l .regs) :
    ∀ s x1 x2 x3, blank l (setPinning s x1 x2 x3) = blank l s := by
  intro s x1 x2 x3
  unfold setPinning
  simp (disch := assumption) only [↓wr_keeps]

theorem pinTile_keeps {l : List Comp} (h_ptns : Has l .ptns) (h_migs : Has l .migs) (h_locs : Has l .locs) :
    ∀ s x1 x2 x3, blank l (pinTile s x1 x2 x3) = blank l s := by
  intro s x1 x2 x3
  unfold pinTile
  dsimp only
  (repeat' (split)) <;> first | with_reducible rfl | simp (disch := assumption) only [↓takeLoc_keeps, ↓setTile_keeps, ↓startMig_keeps, ↓roomFor_keeps, ↓blank_migs, ↓apply_ite (blank l), ite_self]

theorem pinStart_keeps {l : List Comp} (h_regs : Has l .regs) (h_ptns : Has l .ptns) (h_migs : Has l .migs) (h_locs : Has l .locs) :
    ∀ s x1 x2, blank l (pinStart s x1 x2) = blank l s := by
  intro s x1 x2
  unfold pinStart
  (repeat' (split)) <;> first | with_reducible rfl | simp (disch := first | assumption | (intro t x; first | with_reducible rfl | simp (disch := assumption) only [↓setPinning_keeps, ↓pinTile_keeps] | ((repeat' (split)) <;> first | with_reducible rfl | simp (disch := assumption) only [↓setPinning_keeps, ↓pinTile_keeps] | rfl))) only [↓setPinning_keeps, ↓pinTile_keeps, ↓foldl_keeps, ↓foldr_keeps, ↓forUpTo_keeps, ↓foldl_snd_keeps]

theorem pinsResume_keeps {l : List Comp} (h_regs : Has l .regs) (h_ptns : Has l .ptns) (h_migs : Has l .migs) (h_locs : Has l .locs) :
    ∀ s x1, blank l (pinsResume s x1) = blank l s := by
  intro s x1
  unfold pinsResume
  (repeat' (split)) <;> first | with_reducible rfl | simp (disch := first | assumption | (intro t x; first | with_reducible rfl | simp (disch := assumption) only [↓pinStart_keeps, ↓apply_ite (blank l), ite_self] | ((repeat' (split)) <;> first | with_reducible rfl | simp (disch := assumption) only [↓pinStart_keeps, ↓apply_ite (blank l), ite_self] | rfl))) only [↓pinStart_keeps, ↓apply_ite (blank l), ite_self, ↓foldl_keeps, ↓foldr_keeps, ↓forUpTo_keeps, ↓foldl_snd_keeps]

theorem pinFollow_keeps {l : List Comp} (h_ptns : Has l .ptns) (h_migs : Has l .migs) (h_locs : Has l .locs) :
    ∀ s x1 x2, blank l (pinFollow s x1 x2) = blank l s := by
  intro s x1 x2
  unfold pinFollow
  (repeat' (split)) <;> first | with_reducible rfl | simp (disch := assumption) only [↓pinTile_keeps, ↓apply_ite (blank l), ite_self]

theorem quotaDemote_keeps {l : List Comp} (h_ptns : Has l .ptns) (h_migs : Has l .migs) (h_locs : Has l .locs) :
    ∀ s x1 x2, blank l (quotaDemote s x1 x2) = blank l s := by
  intro s x1 x2
  induction x2 generalizing s x1 with
  | zero =>
    unfold quotaDemote
    (repeat' (split <;> (try (rename_i heq; have hh := demote_keeps h_ptns h_migs h_locs _ _ _ heq)))) <;> first | with_reducible rfl | simp (disch := first | assumption | (intro t x; first | with_reducible rfl | simp (disch := assumption) only [↓apply_ite (blank l), ite_self, *] | ((repeat' (split <;> (try (rename_i heq; have hh := demote_keeps h_ptns h_migs h_locs _ _ _ heq)))) <;> first | with_reducible rfl | simp (disch := assumption) only [↓apply_ite (blank l), ite_self, *] | rfl))) only [↓apply_ite (blank l), ite_self, ↓foldl_keeps, ↓foldr_keeps, ↓forUpTo_keeps, ↓foldl_snd_keeps, *] | rfl
  | succ n ih =>
    unfold quotaDemote
    (repeat' (split <;> (try (rename_i heq; have hh := demote_keeps h_ptns h_migs h_locs _ _ _ heq)))) <;> first | with_reducible rfl | simp (disch := first | assumption | (intro t x; first | with_reducible rfl | simp (disch := assumption) only [↓apply_ite (blank l), ite_self, ↓ih, *] | ((repeat' (split <;> (try (rename_i heq; have hh := demote_keeps h_ptns h_migs h_locs _ _ _ heq)))) <;> first | with_reducible rfl | simp (disch := assumption) only [↓apply_ite (blank l), ite_self, ↓ih, *] | rfl))) only [↓apply_ite (blank l), ite_self, ↓ih, ↓foldl_keeps, ↓foldr_keeps, ↓forUpTo_keeps, ↓foldl_snd_keeps, *] | rfl

theorem quotaFollow_keeps {l : List Comp} (h_ptns : Has l .ptns) (h_migs : Has l .migs) (h_locs : Has l .locs) :
    ∀ s x1, blank l (quotaFollow s x1) = blank l s := by
  intro s x1
  unfold quotaFollow
  simp (disch := assumption) only [↓quotaDemote_keeps]

theorem migEnded_keeps {l : List Comp} (h_regs : Has l .regs) (h_ptns : Has l .ptns) (h_migs : Has l .migs) (h_locs : Has l .locs) (h_spillFreed : Has l .spillFreed) :
    ∀ s x1 x2, blank l (migEnded s x1 x2) = blank l s := by
  intro s x1 x2
  unfold migEnded
  simp (disch := assumption) only [↓serveMigs_keeps, ↓pinFollow_keeps, ↓quotaFollow_keeps]

theorem abandonMig_keeps {l : List Comp} (h_regs : Has l .regs) (h_ptns : Has l .ptns) (h_migs : Has l .migs) (h_locs : Has l .locs) (h_spillFreed : Has l .spillFreed) :
    ∀ s x1 x2, blank l (abandonMig s x1 x2) = blank l s := by
  intro s x1 x2
  unfold abandonMig
  (repeat' (split)) <;> first | with_reducible rfl | simp (disch := first | assumption | (intro t x; first | with_reducible rfl | simp (disch := assumption) only [↓endMig_keeps, ↓migEnded_keeps, ↓apply_ite (blank l), ite_self] | ((repeat' (split)) <;> first | with_reducible rfl | simp (disch := assumption) only [↓endMig_keeps, ↓migEnded_keeps, ↓apply_ite (blank l), ite_self] | rfl))) only [↓endMig_keeps, ↓migEnded_keeps, ↓apply_ite (blank l), ite_self, ↓foldl_keeps, ↓foldr_keeps, ↓forUpTo_keeps, ↓foldl_snd_keeps]

theorem firstWrite_keeps {l : List Comp} (h_ptns : Has l .ptns) (h_migs : Has l .migs) (h_locs : Has l .locs) (h_spillFreed : Has l .spillFreed) :
    ∀ s x1 x2 x3 x4 x5, blank l (firstWrite s x1 x2 x3 x4 x5) = blank l s := by
  intro s x1 x2 x3 x4 x5
  unfold firstWrite
  (repeat' (split)) <;> first | with_reducible rfl | simp (disch := assumption) only [↓takeLoc_keeps, ↓setTile_keeps, ↓dropMig_keeps, ↓putBytes_keeps, ↓pinFollow_keeps]

theorem writeZero_keeps {l : List Comp} (h_ptns : Has l .ptns) (h_migs : Has l .migs) (h_locs : Has l .locs) (h_spillFreed : Has l .spillFreed) :
    ∀ s x1 x2 x3 x4, blank l (writeZero s x1 x2 x3 x4).2 = blank l s := by
  intro s x1 x2 x3 x4
  unfold writeZero
  (repeat' (split <;> (try (rename_i heq; have hh := congrArg (fun r => r.2.2) heq; dsimp only at hh; subst hh)))) <;> first | with_reducible rfl | simp (disch := assumption) only [↓findRoom_keeps, ↓firstWrite_keeps, ↓apply_ite (blank l), ↓apply_ite Prod.snd, ite_self]

theorem dropData_keeps {l : List Comp} (h_ptns : Has l .ptns) :
    ∀ s x1 x2, blank l (dropData s x1 x2) = blank l s := by
  intro s x1 x2
  unfold dropData
  simp (disch := assumption) only [↓setPtn_keeps]

theorem renewTile_keeps {l : List Comp} (h_ptns : Has l .ptns) (h_migs : Has l .migs) (h_locs : Has l .locs) (h_spillFreed : Has l .spillFreed) :
    ∀ s x1 x2 x3 x4 x5, blank l (renewTile s x1 x2 x3 x4 x5).2 = blank l s := by
  intro s x1 x2 x3 x4 x5
  unfold renewTile
  (repeat' (split <;> (try (rename_i heq; have hh := congrArg (fun r => r.2.2) heq; dsimp only at hh; subst hh)))) <;> first | with_reducible rfl | simp (disch := assumption) only [↓freeLoc_keeps, ↓findRoom_keeps, ↓firstWrite_keeps, ↓dropData_keeps, ↓apply_ite (blank l), ↓apply_ite Prod.snd, ite_self]

theorem rewriteTile_keeps {l : List Comp} (h_ptns : Has l .ptns) (h_migs : Has l .migs) (h_locs : Has l .locs) (h_spillFreed : Has l .spillFreed) :
    ∀ s x1 x2 x3 x4 x5, blank l (rewriteTile s x1 x2 x3 x4 x5).2 = blank l s := by
  intro s x1 x2 x3 x4 x5
  unfold rewriteTile
  simp (disch := assumption) only [↓setTile_keeps, ↓renewTile_keeps, ↓apply_ite (blank l), ↓apply_ite Prod.snd, ite_self]

theorem writeTile_keeps {l : List Comp} (h_regs : Has l .regs) (h_ptns : Has l .ptns) (h_migs : Has l .migs) (h_locs : Has l .locs) (h_spillFreed : Has l .spillFreed) (h_hostMem : Has l .hostMem) (h_emitted : Has l .emitted) (h_fresh : Has l .fresh) :
    ∀ s x1 x2 x3, blank l (writeTile s x1 x2 x3).2 = blank l s := by
  intro s x1 x2 x3
  unfold writeTile
  dsimp only
  (repeat' (split <;> (try (rename_i heq; have hh := congrArg Prod.snd heq; dsimp only at hh; subst hh)))) <;> first | with_reducible rfl | simp (disch := assumption) only [↓setTile_keeps, ↓endMig_keeps, ↓countCe_keeps, ↓softTier_keeps, ↓tierFault_keeps, ↓storeTile_keeps, ↓migEnded_keeps, ↓writeZero_keeps, ↓rewriteTile_keeps, ↓apply_ite (blank l), ↓apply_ite Prod.snd, ite_self]

theorem freeTile_keeps {l : List Comp} (h_regs : Has l .regs) (h_ptns : Has l .ptns) (h_migs : Has l .migs) (h_locs : Has l .locs) (h_spillFreed : Has l .spillFreed) :
    ∀ s x1 x2, blank l (freeTile s x1 x2) = blank l s := by
  intro s x1 x2
  unfold freeTile
  dsimp only
  (repeat' (split)) <;> first | with_reducible rfl | simp (disch := assumption) only [↓setPtn_keeps, ↓freeLoc_keeps, ↓endMig_keeps, ↓releaseSwap_keeps, ↓dropData_keeps, ↓apply_ite (blank l), ite_self]

theorem freeAllTiles_keeps {l : List Comp} (h_regs : Has l .regs) (h_ptns : Has l .ptns) (h_migs : Has l .migs) (h_locs : Has l .locs) (h_spillFreed : Has l .spillFreed) :
    ∀ s x1, blank l (freeAllTiles s x1) = blank l s := by
  intro s x1
  unfold freeAllTiles
  (repeat' (split)) <;> first | with_reducible rfl | simp (disch := first | assumption | (intro t x; first | with_reducible rfl | simp (disch := assumption) only [↓dropMig_keeps, ↓freeTile_keeps] | ((repeat' (split)) <;> first | with_reducible rfl | simp (disch := assumption) only [↓dropMig_keeps, ↓freeTile_keeps] | rfl))) only [↓dropMig_keeps, ↓freeTile_keeps, ↓foldl_keeps, ↓foldr_keeps, ↓forUpTo_keeps, ↓foldl_snd_keeps]

theorem pinEnd_keeps {l : List Comp} (h_regs : Has l .regs) (h_ptns : Has l .ptns) (h_migs : Has l .migs) (h_locs : Has l .locs) (h_spillFreed : Has l .spillFreed) :
    ∀ s x1 x2 x3 x4, blank l (pinEnd s x1 x2 x3 x4) = blank l s := by
  intro s x1 x2 x3 x4
  unfold pinEnd
  (repeat' (split)) <;> first | with_reducible rfl | simp (disch := first | assumption | (intro t x; first | with_reducible rfl | simp (disch := assumption) only [↓setPtn_keeps, ↓dropMig_keeps, ↓setPinned_keeps, ↓setPinning_keeps, ↓apply_ite (blank l), ite_self] | ((repeat' (split)) <;> first | with_reducible rfl | simp (disch := assumption) only [↓setPtn_keeps, ↓dropMig_keeps, ↓setPinned_keeps, ↓setPinning_keeps, ↓apply_ite (blank l), ite_self] | rfl))) only [↓setPtn_keeps, ↓dropMig_keeps, ↓setPinned_keeps, ↓setPinning_keeps, ↓apply_ite (blank l), ite_self, ↓foldl_keeps, ↓foldr_keeps, ↓forUpTo_keeps, ↓foldl_snd_keeps]

theorem rangesApplied_keeps {l : List Comp} (h_regs : Has l .regs) (h_ptns : Has l .ptns) (h_migs : Has l .migs) (h_locs : Has l .locs) (h_spillFreed : Has l .spillFreed) :
    ∀ x0 s x2, blank l (rangesApplied x0 s x2) = blank l s := by
  intro x0 s x2
  unfold rangesApplied
  (repeat' (split)) <;> first | with_reducible rfl | simp (disch := first | assumption | (intro t x; first | with_reducible rfl | simp (disch := assumption) only [↓pinStart_keeps, ↓pinEnd_keeps, ↓apply_ite (blank l), ite_self] | ((repeat' (split)) <;> first | with_reducible rfl | simp (disch := assumption) only [↓pinStart_keeps, ↓pinEnd_keeps, ↓apply_ite (blank l), ite_self] | rfl))) only [↓pinStart_keeps, ↓pinEnd_keeps, ↓apply_ite (blank l), ite_self, ↓foldl_keeps, ↓foldr_keeps, ↓forUpTo_keeps, ↓foldl_snd_keeps]

theorem loseUnit_keeps {l : List Comp} (h_regs : Has l .regs) (h_ptns : Has l .ptns) (h_migs : Has l .migs) (h_locs : Has l .locs) (h_spillFreed : Has l .spillFreed) :
    ∀ s x1 x2, blank l (loseUnit s x1 x2) = blank l s := by
  intro s x1 x2
  unfold loseUnit
  dsimp only
  simp (disch := assumption) only [↓addSat_keeps, ↓setLocs_keeps, ↓setTile_keeps, ↓endMig_keeps, ↓serveMigs_keeps, ↓setPinned_keeps, ↓abandonMig_keeps, ↓blank_ptns, ↓blank_regs, ↓blank_locs, ↓blank_migs, ↓blank_spillFreed, ↓apply_ite (blank l), ↓apply_ite Prod.snd, ite_self]
  rw [foldl_keeps]
  · rw [foldl_keeps]
    · rw [foldl_keeps]
      · simp (disch := assumption) only [↓addSat_keeps, ↓setLocs_keeps, ↓setTile_keeps, ↓endMig_keeps, ↓serveMigs_keeps, ↓setPinned_keeps, ↓abandonMig_keeps, ↓blank_ptns, ↓blank_regs, ↓blank_locs, ↓blank_migs, ↓blank_spillFreed, ↓apply_ite (blank l), ↓apply_ite Prod.snd, ite_self]
      · intro t x
        simp (disch := assumption) only [↓addSat_keeps, ↓setLocs_keeps, ↓setTile_keeps, ↓endMig_keeps, ↓serveMigs_keeps, ↓setPinned_keeps, ↓abandonMig_keeps, ↓blank_ptns, ↓blank_regs, ↓blank_locs, ↓blank_migs, ↓blank_spillFreed, ↓apply_ite (blank l), ↓apply_ite Prod.snd, ite_self]
    · intro t x
      simp (disch := assumption) only [↓addSat_keeps, ↓setLocs_keeps, ↓setTile_keeps, ↓endMig_keeps, ↓serveMigs_keeps, ↓setPinned_keeps, ↓abandonMig_keeps, ↓blank_ptns, ↓blank_regs, ↓blank_locs, ↓blank_migs, ↓blank_spillFreed, ↓apply_ite (blank l), ↓apply_ite Prod.snd, ite_self]
  · intro t x
    refine foldl_keeps _ ?_ _ _
    intro t x
    ((repeat' (split)) <;> first | with_reducible rfl | simp (disch := assumption) only [↓addSat_keeps, ↓setLocs_keeps, ↓setTile_keeps, ↓endMig_keeps, ↓serveMigs_keeps, ↓setPinned_keeps, ↓abandonMig_keeps, ↓blank_ptns, ↓blank_regs, ↓blank_locs, ↓blank_migs, ↓blank_spillFreed, ↓apply_ite (blank l), ↓apply_ite Prod.snd, ite_self])

end Sys2Proof.Machine
end

