-- ==== Sys2Proof/Laws/KeepMovCore.lean ====
section
/-! SUPPORT. What each operation of Machine/MovCore.lean leaves as it was. -/

set_option linter.unusedSimpArgs false

namespace Sys2Proof.Machine

theorem setItem_keeps {l : List Comp} (h_movs : Has l .movs) :
    ∀ s x1 x2, blank l (setItem s x1 x2) = blank l s := by
  intro s x1 x2
  unfold setItem
  simp (disch := assumption) only [↓setMov_keeps]

theorem setPendingCount_keeps {l : List Comp} (h_regs : Has l .regs) :
    ∀ s x1, blank l (setPendingCount s x1) = blank l s := by
  intro s x1
  unfold setPendingCount
  simp (disch := assumption) only [↓wr_keeps]

theorem showFault_keeps {l : List Comp} (h_regs : Has l .regs) (h_movs : Has l .movs) :
    ∀ s x1, blank l (showFault s x1) = blank l s := by
  intro s x1
  unfold showFault
  split
  · dsimp only
    rw [setPendingCount_keeps h_regs, setMov_keeps h_movs, foldl_keeps]
    intro t x
    simp (disch := assumption) only [↓wr_keeps, ↓setMov_keeps, ↓setPendingCount_keeps, ↓blank_regs, ↓blank_movs, ↓apply_ite (blank l), ↓apply_ite Prod.snd, ite_self]
  · simp (disch := assumption) only [↓wr_keeps, ↓setMov_keeps, ↓setPendingCount_keeps, ↓blank_regs, ↓blank_movs, ↓apply_ite (blank l), ↓apply_ite Prod.snd, ite_self]

theorem unshow_keeps {l : List Comp} (h_regs : Has l .regs) (h_movs : Has l .movs) :
    ∀ s x1, blank l (unshow s x1) = blank l s := by
  intro s x1
  unfold unshow
  simp (disch := assumption) only [↓wr_keeps, ↓setMov_keeps]

theorem slotsDone_keeps {l : List Comp} (h_stns : Has l .stns) :
    ∀ s x1, blank l (slotsDone s x1) = blank l s := by
  intro s x1
  unfold slotsDone
  (repeat' (split)) <;> first | with_reducible rfl | simp (disch := first | assumption | (intro t x; first | with_reducible rfl | simp (disch := assumption) only [↓setStn_keeps, ↓slotReady_keeps, ↓apply_ite (blank l), ite_self] | ((repeat' (split)) <;> first | with_reducible rfl | simp (disch := assumption) only [↓setStn_keeps, ↓slotReady_keeps, ↓apply_ite (blank l), ite_self] | rfl))) only [↓setStn_keeps, ↓slotReady_keeps, ↓apply_ite (blank l), ite_self, ↓foldl_keeps, ↓foldr_keeps, ↓forUpTo_keeps, ↓foldl_snd_keeps]

theorem finishItem_keeps {l : List Comp} (h_regs : Has l .regs) (h_stns : Has l .stns) (h_ptns : Has l .ptns) (h_movs : Has l .movs) (h_pool : Has l .pool) (h_plat : Has l .plat) (h_tens : Has l .tens) (h_hostMem : Has l .hostMem) (h_msixHeld : Has l .msixHeld) (h_emitted : Has l .emitted) (h_fresh : Has l .fresh) :
    ∀ s x1 x2 x3, blank l (finishItem s x1 x2 x3) = blank l s := by
  intro s x1 x2 x3
  unfold finishItem
  (repeat' (split)) <;> first | with_reducible rfl | simp (disch := first | assumption | (intro t x; first | with_reducible rfl | simp (disch := assumption) only [↓addSat_keeps, ↓bumpHealth_keeps, ↓slotFailed_keeps, ↓setItem_keeps, ↓setPendingCount_keeps, ↓showFault_keeps, ↓unshow_keeps, ↓slotsDone_keeps, ↓apply_ite (blank l), ite_self] | ((repeat' (split)) <;> first | with_reducible rfl | simp (disch := assumption) only [↓addSat_keeps, ↓bumpHealth_keeps, ↓slotFailed_keeps, ↓setItem_keeps, ↓setPendingCount_keeps, ↓showFault_keeps, ↓unshow_keeps, ↓slotsDone_keeps, ↓apply_ite (blank l), ite_self] | rfl))) only [↓addSat_keeps, ↓bumpHealth_keeps, ↓slotFailed_keeps, ↓setItem_keeps, ↓setPendingCount_keeps, ↓showFault_keeps, ↓unshow_keeps, ↓slotsDone_keeps, ↓apply_ite (blank l), ite_self, ↓foldl_keeps, ↓foldr_keeps, ↓forUpTo_keeps, ↓foldl_snd_keeps]

theorem postItems_keeps {l : List Comp} (h_regs : Has l .regs) (h_ptns : Has l .ptns) (h_movs : Has l .movs) (h_pool : Has l .pool) (h_plat : Has l .plat) (h_tens : Has l .tens) (h_hostMem : Has l .hostMem) (h_msixHeld : Has l .msixHeld) (h_emitted : Has l .emitted) (h_fresh : Has l .fresh) :
    ∀ s x1 x2, blank l (postItems s x1 x2) = blank l s := by
  intro s x1 x2
  induction x2 generalizing s x1 with
  | zero =>
    unfold postItems
    (repeat' (split)) <;> first | with_reducible rfl | simp (disch := first | assumption | (intro t x; first | with_reducible rfl | simp (disch := assumption) only [↓setMov_keeps, ↓postReserved_keeps, ↓blank_pool, ↓blank_hostMem, ↓blank_plat, ↓blank_pool_fresh, ↓blank_ptns, ↓blank_regs, ↓blank_tens, ↓blank_msixHeld, ↓blank_fresh, ↓blank_movs, ↓blank_emitted, ↓apply_ite (blank l), ↓apply_ite Prod.snd, ite_self] | ((repeat' (split)) <;> first | with_reducible rfl | simp (disch := assumption) only [↓setMov_keeps, ↓postReserved_keeps, ↓blank_pool, ↓blank_hostMem, ↓blank_plat, ↓blank_pool_fresh, ↓blank_ptns, ↓blank_regs, ↓blank_tens, ↓blank_msixHeld, ↓blank_fresh, ↓blank_movs, ↓blank_emitted, ↓apply_ite (blank l), ↓apply_ite Prod.snd, ite_self] | rfl))) only [↓setMov_keeps, ↓postReserved_keeps, ↓blank_pool, ↓blank_hostMem, ↓blank_plat, ↓blank_pool_fresh, ↓blank_ptns, ↓blank_regs, ↓blank_tens, ↓blank_msixHeld, ↓blank_fresh, ↓blank_movs, ↓blank_emitted, ↓apply_ite (blank l), ↓apply_ite Prod.snd, ite_self, ↓foldl_keeps, ↓foldr_keeps, ↓forUpTo_keeps, ↓foldl_snd_keeps] | rfl
  | succ n ih =>
    unfold postItems
    (repeat' (split)) <;> first | with_reducible rfl | simp (disch := first | assumption | (intro t x; first | with_reducible rfl | simp (disch := assumption) only [↓setMov_keeps, ↓postReserved_keeps, ↓blank_pool, ↓blank_hostMem, ↓blank_plat, ↓blank_pool_fresh, ↓blank_ptns, ↓blank_regs, ↓blank_tens, ↓blank_msixHeld, ↓blank_fresh, ↓blank_movs, ↓blank_emitted, ↓apply_ite (blank l), ↓apply_ite Prod.snd, ite_self, ↓ih] | ((repeat' (split)) <;> first | with_reducible rfl | simp (disch := assumption) only [↓setMov_keeps, ↓postReserved_keeps, ↓blank_pool, ↓blank_hostMem, ↓blank_plat, ↓blank_pool_fresh, ↓blank_ptns, ↓blank_regs, ↓blank_tens, ↓blank_msixHeld, ↓blank_fresh, ↓blank_movs, ↓blank_emitted, ↓apply_ite (blank l), ↓apply_ite Prod.snd, ite_self, ↓ih] | rfl))) only [↓setMov_keeps, ↓postReserved_keeps, ↓blank_pool, ↓blank_hostMem, ↓blank_plat, ↓blank_pool_fresh, ↓blank_ptns, ↓blank_regs, ↓blank_tens, ↓blank_msixHeld, ↓blank_fresh, ↓blank_movs, ↓blank_emitted, ↓apply_ite (blank l), ↓apply_ite Prod.snd, ite_self, ↓ih, ↓foldl_keeps, ↓foldr_keeps, ↓forUpTo_keeps, ↓foldl_snd_keeps] | rfl

theorem postAll_keeps {l : List Comp} (h_regs : Has l .regs) (h_ptns : Has l .ptns) (h_movs : Has l .movs) (h_pool : Has l .pool) (h_plat : Has l .plat) (h_tens : Has l .tens) (h_hostMem : Has l .hostMem) (h_msixHeld : Has l .msixHeld) (h_emitted : Has l .emitted) (h_fresh : Has l .fresh) :
    ∀ s x1, blank l (postAll s x1) = blank l s := by
  intro s x1
  unfold postAll
  simp (disch := assumption) only [↓postItems_keeps]

theorem dropAccept_keeps {l : List Comp} (h_regs : Has l .regs) (h_ptns : Has l .ptns) (h_pool : Has l .pool) (h_plat : Has l .plat) (h_tens : Has l .tens) (h_hostMem : Has l .hostMem) (h_msixHeld : Has l .msixHeld) (h_emitted : Has l .emitted) (h_fresh : Has l .fresh) :
    ∀ s x1, blank l (dropAccept s x1) = blank l s := by
  intro s x1
  unfold dropAccept
  dsimp only
  (repeat' (split <;> (try (rename_i heq; have hh := congrArg Prod.snd heq; dsimp only at hh; subst hh)))) <;> first | with_reducible rfl | simp (disch := assumption) only [↓dropStakeWait_keeps, ↓commitOp_keeps, ↓takeGranted_keeps, ↓withdrawAgent_keeps]

theorem clearFaultRecord_keeps {l : List Comp} (h_regs : Has l .regs) :
    ∀ s x1, blank l (clearFaultRecord s x1) = blank l s := by
  intro s x1
  unfold clearFaultRecord
  (repeat' (split)) <;> first | with_reducible rfl | simp (disch := first | assumption | (intro t x; first | with_reducible rfl | simp (disch := assumption) only [↓wr_keeps] | ((repeat' (split)) <;> first | with_reducible rfl | simp (disch := assumption) only [↓wr_keeps] | rfl))) only [↓wr_keeps, ↓foldl_keeps, ↓foldr_keeps, ↓forUpTo_keeps, ↓foldl_snd_keeps]

theorem movReset_keeps {l : List Comp} (h_regs : Has l .regs) (h_stns : Has l .stns) (h_ptns : Has l .ptns) (h_movs : Has l .movs) (h_pool : Has l .pool) (h_plat : Has l .plat) (h_tens : Has l .tens) (h_hostMem : Has l .hostMem) (h_msixHeld : Has l .msixHeld) (h_emitted : Has l .emitted) (h_fresh : Has l .fresh) :
    ∀ s x1, blank l (movReset s x1) = blank l s := by
  intro s x1
  unfold movReset
  (repeat' (split)) <;> first | with_reducible rfl | simp (disch := first | assumption | (intro t x; first | with_reducible rfl | simp (disch := assumption) only [↓setMov_keeps, ↓finishItem_keeps, ↓postAll_keeps, ↓dropAccept_keeps, ↓clearFaultRecord_keeps, ↓apply_ite (blank l), ite_self] | ((repeat' (split)) <;> first | with_reducible rfl | simp (disch := assumption) only [↓setMov_keeps, ↓finishItem_keeps, ↓postAll_keeps, ↓dropAccept_keeps, ↓clearFaultRecord_keeps, ↓apply_ite (blank l), ite_self] | rfl))) only [↓setMov_keeps, ↓finishItem_keeps, ↓postAll_keeps, ↓dropAccept_keeps, ↓clearFaultRecord_keeps, ↓apply_ite (blank l), ite_self, ↓foldl_keeps, ↓foldr_keeps, ↓forUpTo_keeps, ↓foldl_snd_keeps]

theorem movStationLost_keeps {l : List Comp} (h_regs : Has l .regs) (h_stns : Has l .stns) (h_ptns : Has l .ptns) (h_movs : Has l .movs) (h_pool : Has l .pool) (h_plat : Has l .plat) (h_tens : Has l .tens) (h_hostMem : Has l .hostMem) (h_msixHeld : Has l .msixHeld) (h_emitted : Has l .emitted) (h_fresh : Has l .fresh) :
    ∀ s x1, blank l (movStationLost s x1) = blank l s := by
  intro s x1
  unfold movStationLost
  refine foldl_keeps _ (fun t x => foldl_keeps _ (fun t x => ?_) _ _) _ _
  ((repeat' (split)) <;> first | with_reducible rfl | simp (disch := assumption) only [↓finishItem_keeps, ↓blank_pool, ↓blank_hostMem, ↓blank_plat, ↓blank_pool_fresh, ↓blank_ptns, ↓blank_regs, ↓blank_tens, ↓blank_msixHeld, ↓blank_fresh, ↓blank_movs, ↓blank_stns, ↓blank_emitted, ↓apply_ite (blank l), ↓apply_ite Prod.snd, ite_self])

theorem yieldItems_keeps {l : List Comp} (h_regs : Has l .regs) (h_movs : Has l .movs) :
    ∀ s x1 x2 x3, blank l (yieldItems s x1 x2 x3) = blank l s := by
  intro s x1 x2 x3
  unfold yieldItems
  dsimp only
  (repeat' (split)) <;> first | with_reducible rfl | simp (disch := first | assumption | (intro t x; first | with_reducible rfl | simp (disch := assumption) only [↓addSat_keeps, ↓setItem_keeps, ↓blank_regs, ↓blank_movs, ↓apply_ite (blank l), ↓apply_ite Prod.snd, ite_self] | ((repeat' (split)) <;> first | with_reducible rfl | simp (disch := assumption) only [↓addSat_keeps, ↓setItem_keeps, ↓blank_regs, ↓blank_movs, ↓apply_ite (blank l), ↓apply_ite Prod.snd, ite_self] | rfl))) only [↓addSat_keeps, ↓setItem_keeps, ↓blank_regs, ↓blank_movs, ↓apply_ite (blank l), ↓apply_ite Prod.snd, ite_self, ↓foldl_keeps, ↓foldr_keeps, ↓forUpTo_keeps, ↓foldl_snd_keeps] | rfl

end Sys2Proof.Machine
end

