-- ==== Sys2Proof/Laws/KeepTenCore.lean ====
section
/-! SUPPORT. What each operation of Machine/TenCore.lean leaves as it was. -/

set_option linter.unusedSimpArgs false

namespace Sys2Proof.Machine

theorem engineStart_keeps {l : List Comp} (h_tens : Has l .tens) :
    ∀ s x1 x2 x3, blank l (engineStart s x1 x2 x3) = blank l s := by
  intro s x1 x2 x3
  exact setTen_keeps h_tens _ _ _

theorem countWait_keeps {l : List Comp} (h_regs : Has l .regs) (h_fresh : Has l .fresh) :
    ∀ s x1, blank l (countWait s x1) = blank l s := by
  intro s x1
  unfold countWait
  simp (disch := assumption) only [↓addSat_keeps, ↓nextFresh_keeps]

theorem withdrawWait_keeps {l : List Comp} (h_regs : Has l .regs) (h_ptns : Has l .ptns) (h_pool : Has l .pool) (h_plat : Has l .plat) (h_tens : Has l .tens) (h_hostMem : Has l .hostMem) (h_msixHeld : Has l .msixHeld) (h_emitted : Has l .emitted) (h_fresh : Has l .fresh) :
    ∀ s x1, blank l (withdrawWait s x1) = blank l s := by
  intro s x1
  unfold withdrawWait
  dsimp only
  (repeat' (split <;> (try (rename_i heq; have hh := congrArg Prod.snd heq; dsimp only at hh; subst hh)))) <;> first | with_reducible rfl | simp (disch := assumption) only [↓commitOp_keeps, ↓takeGranted_keeps, ↓withdrawAgent_keeps, ↓countWait_keeps, ↓apply_ite (blank l), ite_self]

theorem engineFinish_keeps {l : List Comp} (h_regs : Has l .regs) (h_ptns : Has l .ptns) (h_pool : Has l .pool) (h_plat : Has l .plat) (h_tens : Has l .tens) (h_hostMem : Has l .hostMem) (h_msixHeld : Has l .msixHeld) (h_emitted : Has l .emitted) (h_fresh : Has l .fresh) :
    ∀ s x1 x2 x3, blank l (engineFinish s x1 x2 x3) = blank l s := by
  intro s x1 x2 x3
  unfold engineFinish
  dsimp only
  (repeat' (split <;> (try (rename_i heq; have hh := congrArg Prod.snd heq; dsimp only at hh; subst hh)))) <;> first | with_reducible rfl | simp (disch := first | assumption | (intro t x; first | with_reducible rfl | simp (disch := assumption) only [↓addSat_keeps, ↓setEvt_keeps, ↓setTen_keeps, ↓hwRelease_keeps, ↓endStatus_keeps, ↓endStaged_keeps, ↓endWork_keeps, ↓withdrawWait_keeps, ↓blank_pool, ↓blank_hostMem, ↓blank_plat, ↓blank_pool_fresh, ↓blank_ptns, ↓blank_regs, ↓blank_tens, ↓blank_msixHeld, ↓blank_fresh, ↓blank_emitted, ↓apply_ite (blank l), ↓apply_ite Prod.snd, ite_self] | ((repeat' (split <;> (try (rename_i heq; have hh := congrArg Prod.snd heq; dsimp only at hh; subst hh)))) <;> first | with_reducible rfl | simp (disch := assumption) only [↓addSat_keeps, ↓setEvt_keeps, ↓setTen_keeps, ↓hwRelease_keeps, ↓endStatus_keeps, ↓endStaged_keeps, ↓endWork_keeps, ↓withdrawWait_keeps, ↓blank_pool, ↓blank_hostMem, ↓blank_plat, ↓blank_pool_fresh, ↓blank_ptns, ↓blank_regs, ↓blank_tens, ↓blank_msixHeld, ↓blank_fresh, ↓blank_emitted, ↓apply_ite (blank l), ↓apply_ite Prod.snd, ite_self] | rfl))) only [↓addSat_keeps, ↓setEvt_keeps, ↓setTen_keeps, ↓hwRelease_keeps, ↓endStatus_keeps, ↓endStaged_keeps, ↓endWork_keeps, ↓withdrawWait_keeps, ↓blank_pool, ↓blank_hostMem, ↓blank_plat, ↓blank_pool_fresh, ↓blank_ptns, ↓blank_regs, ↓blank_tens, ↓blank_msixHeld, ↓blank_fresh, ↓blank_emitted, ↓apply_ite (blank l), ↓apply_ite Prod.snd, ite_self, ↓foldl_keeps, ↓foldr_keeps, ↓forUpTo_keeps, ↓foldl_snd_keeps] | rfl

end Sys2Proof.Machine
end

