-- ==== Sys2Proof/Laws/KeepCduCore.lean ====
section
/-! SUPPORT. What each operation of Machine/CduCore.lean leaves as it was. -/

set_option linter.unusedSimpArgs false

namespace Sys2Proof.Machine

theorem setHarq_keeps {l : List Comp} (h_book : Has l .book) :
    ∀ s x1 x2, blank l (setHarq s x1 x2) = blank l s := by
  intro s x1 x2
  unfold setHarq
  simp (disch := assumption) only [↓blank_book]

theorem clearWritten_keeps {l : List Comp} (h_book : Has l .book) :
    ∀ s x1, blank l (clearWritten s x1) = blank l s := by
  intro s x1
  unfold clearWritten
  simp (disch := assumption) only [↓setHarq_keeps]

theorem resetHarq_keeps {l : List Comp} (h_book : Has l .book) :
    ∀ s x1, blank l (resetHarq s x1) = blank l s := by
  intro s x1
  unfold resetHarq
  simp (disch := assumption) only [↓clearWritten_keeps, ↓blank_book, ↓apply_ite (blank l), ite_self]

theorem zeroBook_keeps {l : List Comp} (h_book : Has l .book) :
    ∀ s x1 x2 x3 x4, blank l (zeroBook s x1 x2 x3 x4) = blank l s := by
  intro s x1 x2 x3 x4
  unfold zeroBook
  simp (disch := assumption) only [↓blank_book]

theorem bookApplied_keeps {l : List Comp} (h_book : Has l .book) :
    ∀ x0 s x2, blank l (bookApplied x0 s x2) = blank l s := by
  intro x0 s x2
  unfold bookApplied
  (repeat' (split)) <;> first | with_reducible rfl | simp (disch := first | assumption | (intro t x; first | with_reducible rfl | simp (disch := assumption) only [↓zeroBook_keeps] | ((repeat' (split)) <;> first | with_reducible rfl | simp (disch := assumption) only [↓zeroBook_keeps] | rfl))) only [↓zeroBook_keeps, ↓foldl_keeps, ↓foldr_keeps, ↓forUpTo_keeps, ↓foldl_snd_keeps]

theorem unlockAll_keeps {l : List Comp} (h_book : Has l .book) :
    ∀ s x1, blank l (unlockAll s x1) = blank l s := by
  intro s x1
  unfold unlockAll
  (repeat' (split)) <;> first | with_reducible rfl | simp (disch := first | assumption | (intro t x; first | with_reducible rfl | simp (disch := assumption) only [↓clearWritten_keeps, ↓blank_book, ↓apply_ite (blank l), ite_self] | ((repeat' (split)) <;> first | with_reducible rfl | simp (disch := assumption) only [↓clearWritten_keeps, ↓blank_book, ↓apply_ite (blank l), ite_self] | rfl))) only [↓clearWritten_keeps, ↓blank_book, ↓apply_ite (blank l), ite_self, ↓foldl_keeps, ↓foldr_keeps, ↓forUpTo_keeps, ↓foldl_snd_keeps]

theorem cduStart_keeps {l : List Comp} (h_cdus : Has l .cdus) :
    ∀ s x1 x2 x3, blank l (cduStart s x1 x2 x3) = blank l s := by
  intro s x1 x2 x3
  unfold cduStart
  simp (disch := assumption) only [↓setCdu_keeps]

theorem cduFinish_keeps {l : List Comp} (h_regs : Has l .regs) (h_ptns : Has l .ptns) (h_pool : Has l .pool) (h_plat : Has l .plat) (h_tens : Has l .tens) (h_cdus : Has l .cdus) (h_book : Has l .book) (h_hostMem : Has l .hostMem) (h_msixHeld : Has l .msixHeld) (h_emitted : Has l .emitted) (h_fresh : Has l .fresh) :
    ∀ s x1 x2 x3, blank l (cduFinish s x1 x2 x3) = blank l s := by
  intro s x1 x2 x3
  unfold cduFinish
  dsimp only
  (repeat' (split <;> (try (rename_i heq; have hh := congrArg Prod.snd heq; dsimp only at hh; subst hh)))) <;> first | with_reducible rfl | simp (disch := first | assumption | (intro t x; first | with_reducible rfl | simp (disch := assumption) only [↓addSat_keeps, ↓setEvt_keeps, ↓setCdu_keeps, ↓hwRelease_keeps, ↓commitOp_keeps, ↓takeGranted_keeps, ↓withdrawAgent_keeps, ↓endStatus_keeps, ↓endStaged_keeps, ↓endWork_keeps, ↓setHarq_keeps, ↓unlockAll_keeps, ↓blank_cdus, ↓blank_pool, ↓blank_hostMem, ↓blank_plat, ↓blank_pool_fresh, ↓blank_ptns, ↓blank_regs, ↓blank_tens, ↓blank_msixHeld, ↓blank_fresh, ↓blank_book, ↓blank_emitted, ↓apply_ite (blank l), ↓apply_ite Prod.snd, ite_self] | ((repeat' (split <;> (try (rename_i heq; have hh := congrArg Prod.snd heq; dsimp only at hh; subst hh)))) <;> first | with_reducible rfl | simp (disch := assumption) only [↓addSat_keeps, ↓setEvt_keeps, ↓setCdu_keeps, ↓hwRelease_keeps, ↓commitOp_keeps, ↓takeGranted_keeps, ↓withdrawAgent_keeps, ↓endStatus_keeps, ↓endStaged_keeps, ↓endWork_keeps, ↓setHarq_keeps, ↓unlockAll_keeps, ↓blank_cdus, ↓blank_pool, ↓blank_hostMem, ↓blank_plat, ↓blank_pool_fresh, ↓blank_ptns, ↓blank_regs, ↓blank_tens, ↓blank_msixHeld, ↓blank_fresh, ↓blank_book, ↓blank_emitted, ↓apply_ite (blank l), ↓apply_ite Prod.snd, ite_self] | rfl))) only [↓addSat_keeps, ↓setEvt_keeps, ↓setCdu_keeps, ↓hwRelease_keeps, ↓commitOp_keeps, ↓takeGranted_keeps, ↓withdrawAgent_keeps, ↓endStatus_keeps, ↓endStaged_keeps, ↓endWork_keeps, ↓setHarq_keeps, ↓unlockAll_keeps, ↓blank_cdus, ↓blank_pool, ↓blank_hostMem, ↓blank_plat, ↓blank_pool_fresh, ↓blank_ptns, ↓blank_regs, ↓blank_tens, ↓blank_msixHeld, ↓blank_fresh, ↓blank_book, ↓blank_emitted, ↓apply_ite (blank l), ↓apply_ite Prod.snd, ite_self, ↓foldl_keeps, ↓foldr_keeps, ↓forUpTo_keeps, ↓foldl_snd_keeps] | rfl

theorem cduPoolEnd_keeps {l : List Comp} (h_regs : Has l .regs) (h_ptns : Has l .ptns) (h_pool : Has l .pool) (h_plat : Has l .plat) (h_tens : Has l .tens) (h_cdus : Has l .cdus) (h_book : Has l .book) (h_hostMem : Has l .hostMem) (h_msixHeld : Has l .msixHeld) (h_emitted : Has l .emitted) (h_fresh : Has l .fresh) :
    ∀ s x1 x2, blank l (cduPoolEnd s x1 x2) = blank l s := by
  intro s x1 x2
  unfold cduPoolEnd
  simp (disch := assumption) only [↓itemCode_keeps, ↓cduFinish_keeps]

end Sys2Proof.Machine
end

