-- ==== Sys2Proof/Laws/KeepCondemn.lean ====
section
/-! SUPPORT. What each operation of Machine/Condemn.lean leaves as it was. -/

set_option linter.unusedSimpArgs false

namespace Sys2Proof.Machine

theorem fdrAppend_keeps {l : List Comp} (h_fp : Has l .fp) :
    ∀ s x1 x2 x3, blank l (fdrAppend s x1 x2 x3).2 = blank l s := by
  intro s x1 x2 x3
  unfold fdrAppend
  (repeat' (split)) <;> first | with_reducible rfl | simp (disch := assumption) only [↓blank_fp, ↓apply_ite (blank l), ↓apply_ite Prod.snd, ite_self]

theorem condemnRecord_keeps {l : List Comp} (h_fp : Has l .fp) :
    ∀ s x1 x2 x3, blank l (condemnRecord s x1 x2 x3) = blank l s := by
  intro s x1 x2 x3
  unfold condemnRecord
  (repeat' (split <;> (try (rename_i heq; have hh := congrArg Prod.snd heq; dsimp only at hh; subst hh)))) <;> first | with_reducible rfl | simp (disch := assumption) only [↓fdrAppend_keeps, ↓blank_fp, ↓apply_ite (blank l), ite_self]

theorem loseRuns_keeps {l : List Comp} (h_regs : Has l .regs) (h_stns : Has l .stns) (h_ptns : Has l .ptns) (h_pool : Has l .pool) (h_plat : Has l .plat) (h_tens : Has l .tens) (h_hostMem : Has l .hostMem) (h_msixHeld : Has l .msixHeld) (h_emitted : Has l .emitted) (h_fresh : Has l .fresh) :
    ∀ s x1 x2, blank l (loseRuns s x1 x2) = blank l s := by
  intro s x1 x2
  unfold loseRuns
  dsimp only
  (repeat' (split)) <;> first | with_reducible rfl | simp (disch := assumption) only [↓dropRun_keeps, ↓dropSaved_keeps, ↓apply_ite (blank l), ite_self]

theorem loseStation_keeps {l : List Comp} (h_regs : Has l .regs) (h_stns : Has l .stns) (h_ptns : Has l .ptns) (h_movs : Has l .movs) (h_pool : Has l .pool) (h_plat : Has l .plat) (h_tens : Has l .tens) (h_hostMem : Has l .hostMem) (h_msixHeld : Has l .msixHeld) (h_emitted : Has l .emitted) (h_fresh : Has l .fresh) :
    ∀ s x1, blank l (loseStation s x1) = blank l s := by
  intro s x1
  unfold loseStation
  (repeat' (split)) <;> first | with_reducible rfl | simp (disch := first | assumption | (intro t x; first | with_reducible rfl | simp (disch := assumption) only [↓setEvt_keeps, ↓movStationLost_keeps, ↓loseRuns_keeps, ↓apply_ite (blank l), ite_self] | ((repeat' (split)) <;> first | with_reducible rfl | simp (disch := assumption) only [↓setEvt_keeps, ↓movStationLost_keeps, ↓loseRuns_keeps, ↓apply_ite (blank l), ite_self] | rfl))) only [↓setEvt_keeps, ↓movStationLost_keeps, ↓loseRuns_keeps, ↓apply_ite (blank l), ite_self, ↓foldl_keeps, ↓foldr_keeps, ↓forUpTo_keeps, ↓foldl_snd_keeps]

theorem unhandItem_keeps {l : List Comp} (h_stns : Has l .stns) :
    ∀ s x1 x2, blank l (unhandItem s x1 x2) = blank l s := by
  intro s x1 x2
  unfold unhandItem
  (repeat' (split)) <;> first | with_reducible rfl | simp (disch := assumption) only [↓setStn_keeps, ↓apply_ite (blank l), ite_self]

theorem loseWork_keeps {l : List Comp} (h_regs : Has l .regs) (h_stns : Has l .stns) (h_ptns : Has l .ptns) (h_pool : Has l .pool) (h_plat : Has l .plat) (h_tens : Has l .tens) (h_hostMem : Has l .hostMem) (h_msixHeld : Has l .msixHeld) (h_emitted : Has l .emitted) (h_fresh : Has l .fresh) :
    ∀ s x1 x2, blank l (loseWork s x1 x2) = blank l s := by
  intro s x1 x2
  unfold loseWork
  (repeat' (split)) <;> first | with_reducible rfl | simp (disch := first | assumption | (intro t x; first | with_reducible rfl | simp (disch := assumption) only [↓endWork_keeps, ↓unhandItem_keeps, ↓apply_ite (blank l), ite_self] | ((repeat' (split)) <;> first | with_reducible rfl | simp (disch := assumption) only [↓endWork_keeps, ↓unhandItem_keeps, ↓apply_ite (blank l), ite_self] | rfl))) only [↓endWork_keeps, ↓unhandItem_keeps, ↓apply_ite (blank l), ite_self, ↓foldl_keeps, ↓foldr_keeps, ↓forUpTo_keeps, ↓foldl_snd_keeps]

theorem loseItems_keeps {l : List Comp} (h_regs : Has l .regs) (h_stns : Has l .stns) (h_ptns : Has l .ptns) (h_migs : Has l .migs) (h_locs : Has l .locs) (h_spillFreed : Has l .spillFreed) (h_movs : Has l .movs) (h_pool : Has l .pool) (h_plat : Has l .plat) (h_tens : Has l .tens) (h_cdus : Has l .cdus) (h_book : Has l .book) (h_hostMem : Has l .hostMem) (h_msixHeld : Has l .msixHeld) (h_emitted : Has l .emitted) (h_fresh : Has l .fresh) :
    ∀ s x1 x2, blank l (loseItems s x1 x2) = blank l s := by
  intro s x1 x2
  unfold loseItems
  simp (disch := assumption) only [↓loseUnit_keeps, ↓engineFinish_keeps, ↓cduFinish_keeps, ↓loseStation_keeps, ↓loseWork_keeps, ↓apply_ite (blank l), ite_self]

theorem namesDown_keeps {l : List Comp} (h_regs : Has l .regs) (h_msixHeld : Has l .msixHeld) (h_emitted : Has l .emitted) :
    ∀ s x1, blank l (namesDown s x1) = blank l s := by
  intro s x1
  unfold namesDown
  (repeat' (split)) <;> first | with_reducible rfl | simp (disch := first | assumption | (intro t x; first | with_reducible rfl | simp (disch := assumption) only [↓setEvt_keeps, ↓apply_ite (blank l), ite_self] | ((repeat' (split)) <;> first | with_reducible rfl | simp (disch := assumption) only [↓setEvt_keeps, ↓apply_ite (blank l), ite_self] | rfl))) only [↓setEvt_keeps, ↓apply_ite (blank l), ite_self, ↓foldl_keeps, ↓foldr_keeps, ↓forUpTo_keeps, ↓foldl_snd_keeps]

theorem condemn_keeps {l : List Comp} (h_regs : Has l .regs) (h_fp : Has l .fp) (h_stns : Has l .stns) (h_ptns : Has l .ptns) (h_migs : Has l .migs) (h_locs : Has l .locs) (h_spillFreed : Has l .spillFreed) (h_movs : Has l .movs) (h_pool : Has l .pool) (h_plat : Has l .plat) (h_tens : Has l .tens) (h_cdus : Has l .cdus) (h_book : Has l .book) (h_hostMem : Has l .hostMem) (h_msixHeld : Has l .msixHeld) (h_emitted : Has l .emitted) (h_fresh : Has l .fresh) :
    ∀ s x1 x2 x3, blank l (condemn s x1 x2 x3) = blank l s := by
  intro s x1 x2 x3
  unfold condemn
  (repeat' (split)) <;> first | with_reducible rfl | simp (disch := assumption) only [↓emit_keeps, ↓setEvt_keeps, ↓bumpHealth_keeps, ↓condemnRecord_keeps, ↓loseItems_keeps, ↓namesDown_keeps, ↓blank_fp, ↓apply_ite (blank l), ite_self]

theorem ueError_keeps {l : List Comp} (h_regs : Has l .regs) (h_fp : Has l .fp) :
    ∀ s x1 x2, blank l (ueError s x1 x2) = blank l s := by
  intro s x1 x2
  unfold ueError
  (repeat' (split)) <;> first | with_reducible rfl | simp (disch := assumption) only [↓addSat_keeps, ↓bumpHealth_keeps, ↓blank_fp]

theorem condemnDue_keeps {l : List Comp} (h_regs : Has l .regs) (h_fp : Has l .fp) (h_stns : Has l .stns) (h_ptns : Has l .ptns) (h_migs : Has l .migs) (h_locs : Has l .locs) (h_spillFreed : Has l .spillFreed) (h_movs : Has l .movs) (h_pool : Has l .pool) (h_plat : Has l .plat) (h_tens : Has l .tens) (h_cdus : Has l .cdus) (h_book : Has l .book) (h_hostMem : Has l .hostMem) (h_msixHeld : Has l .msixHeld) (h_emitted : Has l .emitted) (h_fresh : Has l .fresh) :
    ∀ s, blank l (condemnDue s) = blank l s := by
  intro s
  unfold condemnDue
  (repeat' (split)) <;> first | with_reducible rfl | simp (disch := first | assumption | (intro t x; first | with_reducible rfl | simp (disch := assumption) only [↓condemn_keeps, ↓blank_fp, ↓apply_ite (blank l), ite_self] | ((repeat' (split)) <;> first | with_reducible rfl | simp (disch := assumption) only [↓condemn_keeps, ↓blank_fp, ↓apply_ite (blank l), ite_self] | rfl))) only [↓condemn_keeps, ↓blank_fp, ↓apply_ite (blank l), ite_self, ↓foldl_keeps, ↓foldr_keeps, ↓forUpTo_keeps, ↓foldl_snd_keeps]

theorem ueHit_keeps {l : List Comp} (h_regs : Has l .regs) (h_fp : Has l .fp) :
    ∀ s x1, blank l (ueHit s x1) = blank l s := by
  intro s x1
  unfold ueHit
  (repeat' (split)) <;> first | with_reducible rfl | simp (disch := assumption) only [↓ueError_keeps]

theorem softRead_keeps {l : List Comp} (h_regs : Has l .regs) (h_tens : Has l .tens) (h_cdus : Has l .cdus) :
    ∀ s x1 x2, blank l (softRead s x1 x2) = blank l s := by
  intro s x1 x2
  unfold softRead
  (repeat' (split)) <;> first | with_reducible rfl | simp (disch := first | assumption | (intro t x; first | with_reducible rfl | simp (disch := assumption) only [↓setTen_keeps, ↓setCdu_keeps, ↓countCe_keeps, ↓apply_ite (blank l), ite_self] | ((repeat' (split)) <;> first | with_reducible rfl | simp (disch := assumption) only [↓setTen_keeps, ↓setCdu_keeps, ↓countCe_keeps, ↓apply_ite (blank l), ite_self] | rfl))) only [↓setTen_keeps, ↓setCdu_keeps, ↓countCe_keeps, ↓apply_ite (blank l), ite_self, ↓foldl_keeps, ↓foldr_keeps, ↓forUpTo_keeps, ↓foldl_snd_keeps]

theorem unitRead_keeps {l : List Comp} (h_regs : Has l .regs) (h_fp : Has l .fp) (h_tens : Has l .tens) (h_cdus : Has l .cdus) :
    ∀ s x1 x2, blank l (unitRead s x1 x2).2 = blank l s := by
  intro s x1 x2
  unfold unitRead
  simp (disch := assumption) only [↓takeFault_keeps, ↓countCe_keeps, ↓ueError_keeps, ↓softRead_keeps, ↓apply_ite (blank l), ↓apply_ite Prod.snd, ite_self]

theorem writeWindow_keeps {l : List Comp} (h_regs : Has l .regs) (h_fp : Has l .fp) (h_stns : Has l .stns) (h_tens : Has l .tens) (h_cdus : Has l .cdus) :
    ∀ s x1 x2 x3, blank l (writeWindow s x1 x2 x3).2 = blank l s := by
  intro s x1 x2 x3
  unfold writeWindow
  simp (disch := assumption) only [↓setStn_keeps, ↓unitRead_keeps, ↓apply_ite (blank l), ↓apply_ite Prod.snd, ite_self]

end Sys2Proof.Machine
end

