-- ==== Sys2Proof/Laws/KeepCoding.lean ====
section
/-! SUPPORT. What each operation of Machine/Coding.lean leaves as it was. -/

set_option linter.unusedSimpArgs false

namespace Sys2Proof.Machine

theorem stackRead_keeps {l : List Comp} (h_regs : Has l .regs) (h_fp : Has l .fp) (h_tens : Has l .tens) (h_cdus : Has l .cdus) :
    ∀ s x1, blank l (stackRead s x1).2 = blank l s := by
  intro s x1
  unfold stackRead
  simp (disch := assumption) only [↓unitRead_keeps]

theorem cacheRead_keeps {l : List Comp} (h_regs : Has l .regs) (h_fp : Has l .fp) (h_book : Has l .book) :
    ∀ s x1 x2, blank l (cacheRead s x1 x2).2 = blank l s := by
  intro s x1 x2
  unfold cacheRead
  (repeat' (split)) <;> first | with_reducible rfl | simp (disch := first | assumption | (intro t x; first | with_reducible rfl | simp (disch := assumption) only [↓countCe_keeps, ↓ueError_keeps, ↓blank_book, ↓apply_ite (blank l), ↓apply_ite Prod.snd, ite_self] | ((repeat' (split)) <;> first | with_reducible rfl | simp (disch := assumption) only [↓countCe_keeps, ↓ueError_keeps, ↓blank_book, ↓apply_ite (blank l), ↓apply_ite Prod.snd, ite_self] | rfl))) only [↓countCe_keeps, ↓ueError_keeps, ↓blank_book, ↓apply_ite (blank l), ↓apply_ite Prod.snd, ite_self, ↓foldl_keeps, ↓foldr_keeps, ↓forUpTo_keeps, ↓foldl_snd_keeps]

theorem touchCtx_keeps {l : List Comp} (h_regs : Has l .regs) (h_fp : Has l .fp) (h_tens : Has l .tens) (h_cdus : Has l .cdus) (h_book : Has l .book) :
    ∀ s x1 x2, blank l (touchCtx s x1 x2).2 = blank l s := by
  intro s x1 x2
  unfold touchCtx
  simp (disch := assumption) only [↓addSat_keeps, ↓stackRead_keeps, ↓cacheRead_keeps, ↓blank_book, ↓apply_ite (blank l), ↓apply_ite Prod.snd, ite_self]

theorem takeSamples_keeps {l : List Comp} (h_regs : Has l .regs) (h_ptns : Has l .ptns) (h_pool : Has l .pool) (h_plat : Has l .plat) (h_tens : Has l .tens) (h_cdus : Has l .cdus) (h_book : Has l .book) (h_hostMem : Has l .hostMem) (h_msixHeld : Has l .msixHeld) (h_emitted : Has l .emitted) (h_fresh : Has l .fresh) :
    ∀ x0 x1 s, blank l (takeSamples x0 x1 s) = blank l s := by
  intro x0 x1 s
  induction x1 generalizing x0 s with
  | zero =>
    unfold takeSamples
    (repeat' (split <;> (try (rename_i heq; have hh := congrArg Prod.snd heq; dsimp only at hh; subst hh)))) <;> first | with_reducible rfl | simp (disch := first | assumption | (intro t x; first | with_reducible rfl | simp (disch := assumption) only [↓setCdu_keeps, ↓hwRead_keeps, ↓cduPoolEnd_keeps, ↓apply_ite (blank l), ite_self] | ((repeat' (split <;> (try (rename_i heq; have hh := congrArg Prod.snd heq; dsimp only at hh; subst hh)))) <;> first | with_reducible rfl | simp (disch := assumption) only [↓setCdu_keeps, ↓hwRead_keeps, ↓cduPoolEnd_keeps, ↓apply_ite (blank l), ite_self] | rfl))) only [↓setCdu_keeps, ↓hwRead_keeps, ↓cduPoolEnd_keeps, ↓apply_ite (blank l), ite_self, ↓foldl_keeps, ↓foldr_keeps, ↓forUpTo_keeps, ↓foldl_snd_keeps] | rfl
  | succ n ih =>
    unfold takeSamples
    dsimp only
    (repeat' (split <;> (try (rename_i heq; have hh := congrArg Prod.snd heq; dsimp only at hh; subst hh)))) <;> first | with_reducible rfl | simp (disch := first | assumption | (intro t x; first | with_reducible rfl | simp (disch := assumption) only [↓setCdu_keeps, ↓hwRead_keeps, ↓cduPoolEnd_keeps, ↓apply_ite (blank l), ite_self, ↓ih] | ((repeat' (split <;> (try (rename_i heq; have hh := congrArg Prod.snd heq; dsimp only at hh; subst hh)))) <;> first | with_reducible rfl | simp (disch := assumption) only [↓setCdu_keeps, ↓hwRead_keeps, ↓cduPoolEnd_keeps, ↓apply_ite (blank l), ite_self, ↓ih] | rfl))) only [↓setCdu_keeps, ↓hwRead_keeps, ↓cduPoolEnd_keeps, ↓apply_ite (blank l), ite_self, ↓ih, ↓foldl_keeps, ↓foldr_keeps, ↓forUpTo_keeps, ↓foldl_snd_keeps] | rfl

theorem effCodingJobStart_keeps {l : List Comp} (h_regs : Has l .regs) (h_ptns : Has l .ptns) (h_pool : Has l .pool) (h_plat : Has l .plat) (h_tens : Has l .tens) (h_cdus : Has l .cdus) (h_book : Has l .book) (h_hostMem : Has l .hostMem) (h_msixHeld : Has l .msixHeld) (h_emitted : Has l .emitted) (h_fresh : Has l .fresh) :
    ∀ x0 s, blank l (effCodingJobStart x0 s) = blank l s := by
  intro x0 s
  unfold effCodingJobStart
  dsimp only
  (repeat' (split <;> (try (rename_i heq; have hh := congrArg Prod.snd heq; dsimp only at hh; subst hh)))) <;> first | with_reducible rfl | simp (disch := assumption) only [↓setCdu_keeps, ↓hwRead_keeps, ↓takeEnded_keeps, ↓cduFinish_keeps, ↓cduPoolEnd_keeps, ↓takeSamples_keeps, ↓apply_ite (blank l), ite_self]

theorem setOut_keeps {l : List Comp} (h_regs : Has l .regs) (h_cdus : Has l .cdus) :
    ∀ s x1 x2 x3 x4, blank l (setOut s x1 x2 x3 x4) = blank l s := by
  intro s x1 x2 x3 x4
  unfold setOut
  simp (disch := assumption) only [↓addSat_keeps, ↓setCdu_keeps]

theorem compute_keeps {l : List Comp} (h_regs : Has l .regs) (h_fp : Has l .fp) (h_ptns : Has l .ptns) (h_pool : Has l .pool) (h_plat : Has l .plat) (h_tens : Has l .tens) (h_cdus : Has l .cdus) (h_book : Has l .book) (h_hostMem : Has l .hostMem) (h_msixHeld : Has l .msixHeld) (h_emitted : Has l .emitted) (h_fresh : Has l .fresh) :
    ∀ s x1 x2 x3, (∀ y0 y1, blank l (x3 y0 y1) = blank l y1) → blank l (compute s x1 x2 x3) = blank l s := by
  intro s x1 x2 x3 hf0
  unfold compute
  dsimp only
  (repeat' (split <;> (try (rename_i heq; have hh := congrArg Prod.snd heq; dsimp only at hh; subst hh)))) <;> first | with_reducible rfl | simp (disch := assumption) only [↓cduFinish_keeps, ↓unitRead_keeps, ↓apply_ite (blank l), ite_self, ↓hf0]

theorem jobFail_keeps {l : List Comp} (h_regs : Has l .regs) (h_cdus : Has l .cdus) :
    ∀ s x1 x2 x3, blank l (jobFail s x1 x2 x3) = blank l s := by
  intro s x1 x2 x3
  unfold jobFail
  simp (disch := assumption) only [↓setOut_keeps]

theorem nrContext_keeps {l : List Comp} (h_regs : Has l .regs) (h_fp : Has l .fp) (h_tens : Has l .tens) (h_cdus : Has l .cdus) (h_book : Has l .book) :
    ∀ s x1 x2, blank l (nrContext s x1 x2).2 = blank l s := by
  intro s x1 x2
  unfold nrContext
  simp (disch := assumption) only [↓touchCtx_keeps, ↓apply_ite (blank l), ↓apply_ite Prod.snd, ite_self]

theorem harqLookup_keeps {l : List Comp} (h_regs : Has l .regs) (h_fp : Has l .fp) (h_tens : Has l .tens) (h_cdus : Has l .cdus) (h_book : Has l .book) :
    ∀ s x1 x2, blank l (harqLookup s x1 x2).2 = blank l s := by
  intro s x1 x2
  unfold harqLookup
  dsimp only
  (repeat' (split <;> (try (rename_i heq; have hh := congrArg Prod.snd heq; dsimp only at hh; subst hh)))) <;> first | with_reducible rfl | simp (disch := assumption) only [↓addSat_keeps, ↓stackRead_keeps, ↓nrContext_keeps, ↓blank_book, ↓apply_ite (blank l), ↓apply_ite Prod.snd, ite_self]

theorem ldpcRun_keeps {l : List Comp} (h_regs : Has l .regs) (h_cdus : Has l .cdus) :
    ∀ s x1 x2 x3, blank l (ldpcRun s x1 x2 x3) = blank l s := by
  intro s x1 x2 x3
  unfold ldpcRun
  (repeat' (split)) <;> first | with_reducible rfl | simp (disch := assumption) only [↓addSat_keeps, ↓setCdu_keeps, ↓setOut_keeps, ↓apply_ite (blank l), ite_self]

theorem effLdpcDecode_keeps {l : List Comp} (h_regs : Has l .regs) (h_fp : Has l .fp) (h_ptns : Has l .ptns) (h_pool : Has l .pool) (h_plat : Has l .plat) (h_tens : Has l .tens) (h_cdus : Has l .cdus) (h_book : Has l .book) (h_hostMem : Has l .hostMem) (h_msixHeld : Has l .msixHeld) (h_emitted : Has l .emitted) (h_fresh : Has l .fresh) :
    ∀ x0 s, blank l (effLdpcDecode x0 s) = blank l s := by
  intro x0 s
  unfold effLdpcDecode
  apply compute_keeps <;> first | assumption | skip
  intro j s
  ((repeat' (split <;> (try (rename_i heq; have hh := congrArg Prod.snd heq; dsimp only at hh; subst hh)))) <;> first | with_reducible rfl | simp (disch := assumption) only [↓cduFinish_keeps, ↓compute_keeps, ↓jobFail_keeps, ↓harqLookup_keeps, ↓ldpcRun_keeps, ↓blank_cdus, ↓blank_pool, ↓blank_fp, ↓blank_hostMem, ↓blank_plat, ↓blank_pool_fresh, ↓blank_ptns, ↓blank_regs, ↓blank_tens, ↓blank_msixHeld, ↓blank_fresh, ↓blank_book, ↓blank_emitted, ↓apply_ite (blank l), ↓apply_ite Prod.snd, ite_self])

theorem computeKind_keeps {l : List Comp} (h_regs : Has l .regs) (h_fp : Has l .fp) (h_ptns : Has l .ptns) (h_pool : Has l .pool) (h_plat : Has l .plat) (h_tens : Has l .tens) (h_cdus : Has l .cdus) (h_book : Has l .book) (h_hostMem : Has l .hostMem) (h_msixHeld : Has l .msixHeld) (h_emitted : Has l .emitted) (h_fresh : Has l .fresh) :
    ∀ s x1 x2 x3, (∀ y0 y1, blank l (x3 y0 y1) = blank l y1) → blank l (computeKind s x1 x2 x3) = blank l s := by
  intro s x1 x2 x3 hf0
  unfold computeKind
  refine compute_keeps h_regs h_fp h_ptns h_pool h_plat h_tens h_cdus h_book h_hostMem h_msixHeld h_emitted h_fresh s x1 x2 _ (fun j u => ?_)
  split
  · split <;> (rename_i heq; have hh := congrArg Prod.snd heq; dsimp only at hh; subst hh) <;> simp (disch := assumption) only [↓cduFinish_keeps, ↓compute_keeps, ↓jobFail_keeps, ↓nrContext_keeps, ↓blank_cdus, ↓blank_pool, ↓blank_fp, ↓blank_hostMem, ↓blank_plat, ↓blank_pool_fresh, ↓blank_ptns, ↓blank_regs, ↓blank_tens, ↓blank_msixHeld, ↓blank_fresh, ↓blank_book, ↓blank_emitted, ↓apply_ite (blank l), ↓apply_ite Prod.snd, ite_self, ↓hf0]
  · exact hf0 _ _

theorem effLdpcEncode_keeps {l : List Comp} (h_regs : Has l .regs) (h_fp : Has l .fp) (h_ptns : Has l .ptns) (h_pool : Has l .pool) (h_plat : Has l .plat) (h_tens : Has l .tens) (h_cdus : Has l .cdus) (h_book : Has l .book) (h_hostMem : Has l .hostMem) (h_msixHeld : Has l .msixHeld) (h_emitted : Has l .emitted) (h_fresh : Has l .fresh) :
    ∀ x0 s, blank l (effLdpcEncode x0 s) = blank l s := by
  intro x0 s
  unfold effLdpcEncode
  (repeat' (split)) <;> first | with_reducible rfl | simp (disch := first | assumption | (intro t x; first | with_reducible rfl | simp (disch := assumption) only [↓setOut_keeps, ↓computeKind_keeps, ↓blank_fresh, ↓apply_ite (blank l), ite_self] | ((repeat' (split)) <;> first | with_reducible rfl | simp (disch := assumption) only [↓setOut_keeps, ↓computeKind_keeps, ↓blank_fresh, ↓apply_ite (blank l), ite_self] | rfl))) only [↓setOut_keeps, ↓computeKind_keeps, ↓blank_fresh, ↓apply_ite (blank l), ite_self, ↓foldl_keeps, ↓foldr_keeps, ↓forUpTo_keeps, ↓foldl_snd_keeps]

theorem effPolarDecode_keeps {l : List Comp} (h_regs : Has l .regs) (h_fp : Has l .fp) (h_ptns : Has l .ptns) (h_pool : Has l .pool) (h_plat : Has l .plat) (h_tens : Has l .tens) (h_cdus : Has l .cdus) (h_book : Has l .book) (h_hostMem : Has l .hostMem) (h_msixHeld : Has l .msixHeld) (h_emitted : Has l .emitted) (h_fresh : Has l .fresh) :
    ∀ x0 s, blank l (effPolarDecode x0 s) = blank l s := by
  intro x0 s
  unfold effPolarDecode
  (repeat' (split)) <;> first | with_reducible rfl | simp (disch := first | assumption | (intro t x; first | with_reducible rfl | simp (disch := assumption) only [↓setOut_keeps, ↓computeKind_keeps, ↓apply_ite (blank l), ite_self] | ((repeat' (split)) <;> first | with_reducible rfl | simp (disch := assumption) only [↓setOut_keeps, ↓computeKind_keeps, ↓apply_ite (blank l), ite_self] | rfl))) only [↓setOut_keeps, ↓computeKind_keeps, ↓apply_ite (blank l), ite_self, ↓foldl_keeps, ↓foldr_keeps, ↓forUpTo_keeps, ↓foldl_snd_keeps]

theorem effPolarEncode_keeps {l : List Comp} (h_regs : Has l .regs) (h_fp : Has l .fp) (h_ptns : Has l .ptns) (h_pool : Has l .pool) (h_plat : Has l .plat) (h_tens : Has l .tens) (h_cdus : Has l .cdus) (h_book : Has l .book) (h_hostMem : Has l .hostMem) (h_msixHeld : Has l .msixHeld) (h_emitted : Has l .emitted) (h_fresh : Has l .fresh) :
    ∀ x0 s, blank l (effPolarEncode x0 s) = blank l s := by
  intro x0 s
  unfold effPolarEncode
  (repeat' (split)) <;> first | with_reducible rfl | simp (disch := first | assumption | (intro t x; first | with_reducible rfl | simp (disch := assumption) only [↓setOut_keeps, ↓computeKind_keeps, ↓blank_fresh] | ((repeat' (split)) <;> first | with_reducible rfl | simp (disch := assumption) only [↓setOut_keeps, ↓computeKind_keeps, ↓blank_fresh] | rfl))) only [↓setOut_keeps, ↓computeKind_keeps, ↓blank_fresh, ↓foldl_keeps, ↓foldr_keeps, ↓forUpTo_keeps, ↓foldl_snd_keeps]

theorem flContext_keeps {l : List Comp} (h_regs : Has l .regs) (h_fp : Has l .fp) (h_tens : Has l .tens) (h_cdus : Has l .cdus) (h_book : Has l .book) :
    ∀ s x1 x2, blank l (flContext s x1 x2).2 = blank l s := by
  intro s x1 x2
  unfold flContext
  simp (disch := assumption) only [↓touchCtx_keeps, ↓apply_ite (blank l), ↓apply_ite Prod.snd, ite_self]

theorem flFail_keeps {l : List Comp} (h_regs : Has l .regs) (h_ptns : Has l .ptns) (h_pool : Has l .pool) (h_plat : Has l .plat) (h_tens : Has l .tens) (h_cdus : Has l .cdus) (h_book : Has l .book) (h_hostMem : Has l .hostMem) (h_msixHeld : Has l .msixHeld) (h_emitted : Has l .emitted) (h_fresh : Has l .fresh) :
    ∀ s x1 x2 x3, blank l (flFail s x1 x2 x3) = blank l s := by
  intro s x1 x2 x3
  unfold flFail
  simp (disch := assumption) only [↓cduFinish_keeps, ↓jobFail_keeps, ↓apply_ite (blank l), ite_self]

theorem effFixedLinkTransmit_keeps {l : List Comp} (h_regs : Has l .regs) (h_fp : Has l .fp) (h_ptns : Has l .ptns) (h_pool : Has l .pool) (h_plat : Has l .plat) (h_tens : Has l .tens) (h_cdus : Has l .cdus) (h_book : Has l .book) (h_hostMem : Has l .hostMem) (h_msixHeld : Has l .msixHeld) (h_emitted : Has l .emitted) (h_fresh : Has l .fresh) :
    ∀ x0 s, blank l (effFixedLinkTransmit x0 s) = blank l s := by
  intro x0 s
  unfold effFixedLinkTransmit
  (repeat' (split <;> (try (rename_i heq; have hh := congrArg Prod.snd heq; dsimp only at hh; subst hh)))) <;> first | with_reducible rfl | simp (disch := first | assumption | (intro t x; first | with_reducible rfl | simp (disch := assumption) only [↓setOut_keeps, ↓compute_keeps, ↓flContext_keeps, ↓flFail_keeps, ↓blank_fresh] | ((repeat' (split <;> (try (rename_i heq; have hh := congrArg Prod.snd heq; dsimp only at hh; subst hh)))) <;> first | with_reducible rfl | simp (disch := assumption) only [↓setOut_keeps, ↓compute_keeps, ↓flContext_keeps, ↓flFail_keeps, ↓blank_fresh] | rfl))) only [↓setOut_keeps, ↓compute_keeps, ↓flContext_keeps, ↓flFail_keeps, ↓blank_fresh, ↓foldl_keeps, ↓foldr_keeps, ↓forUpTo_keeps, ↓foldl_snd_keeps]

theorem flQualified_keeps {l : List Comp} (h_regs : Has l .regs) (h_cdus : Has l .cdus) (h_fresh : Has l .fresh) :
    ∀ s x1 x2 x3 x4 x5 x6 x7, blank l (flQualified s x1 x2 x3 x4 x5 x6 x7) = blank l s := by
  intro s x1 x2 x3 x4 x5 x6 x7
  unfold flQualified
  simp (disch := assumption) only [↓addSat_keeps, ↓setOut_keeps, ↓blank_fresh, ↓apply_ite (blank l), ite_self]

theorem effFixedLinkReceive_keeps {l : List Comp} (h_regs : Has l .regs) (h_fp : Has l .fp) (h_ptns : Has l .ptns) (h_pool : Has l .pool) (h_plat : Has l .plat) (h_tens : Has l .tens) (h_cdus : Has l .cdus) (h_book : Has l .book) (h_hostMem : Has l .hostMem) (h_msixHeld : Has l .msixHeld) (h_emitted : Has l .emitted) (h_fresh : Has l .fresh) :
    ∀ x0 s, blank l (effFixedLinkReceive x0 s) = blank l s := by
  intro x0 s
  unfold effFixedLinkReceive
  (repeat' (split <;> (try (rename_i heq; have hh := congrArg Prod.snd heq; dsimp only at hh; subst hh)))) <;> first | with_reducible rfl | simp (disch := first | assumption | (intro t x; first | with_reducible rfl | simp (disch := assumption) only [↓setOut_keeps, ↓compute_keeps, ↓flContext_keeps, ↓flFail_keeps, ↓flQualified_keeps, ↓blank_fresh, ↓apply_ite (blank l), ite_self] | ((repeat' (split <;> (try (rename_i heq; have hh := congrArg Prod.snd heq; dsimp only at hh; subst hh)))) <;> first | with_reducible rfl | simp (disch := assumption) only [↓setOut_keeps, ↓compute_keeps, ↓flContext_keeps, ↓flFail_keeps, ↓flQualified_keeps, ↓blank_fresh, ↓apply_ite (blank l), ite_self] | rfl))) only [↓setOut_keeps, ↓compute_keeps, ↓flContext_keeps, ↓flFail_keeps, ↓flQualified_keeps, ↓blank_fresh, ↓apply_ite (blank l), ite_self, ↓foldl_keeps, ↓foldr_keeps, ↓forUpTo_keeps, ↓foldl_snd_keeps]

theorem stageOut_keeps {l : List Comp} (h_regs : Has l .regs) (h_ptns : Has l .ptns) (h_pool : Has l .pool) (h_plat : Has l .plat) (h_tens : Has l .tens) (h_cdus : Has l .cdus) (h_book : Has l .book) (h_hostMem : Has l .hostMem) (h_msixHeld : Has l .msixHeld) (h_emitted : Has l .emitted) (h_fresh : Has l .fresh) :
    ∀ s x1 x2, blank l (stageOut s x1 x2).2 = blank l s := by
  intro s x1 x2
  unfold stageOut
  dsimp only
  (repeat' (split <;> (try (rename_i heq; have hh := congrArg Prod.snd heq; dsimp only at hh; subst hh)))) <;> first | with_reducible rfl | simp (disch := assumption) only [↓setCdu_keeps, ↓reserveWait_keeps, ↓writePayload_keeps, ↓takeGranted_keeps, ↓takeEnded_keeps, ↓cduPoolEnd_keeps, ↓apply_ite (blank l), ↓apply_ite Prod.snd, ite_self]

theorem stageOut_some {l : List Comp} (h_regs : Has l .regs) (h_ptns : Has l .ptns) (h_pool : Has l .pool) (h_plat : Has l .plat) (h_tens : Has l .tens) (h_cdus : Has l .cdus) (h_book : Has l .book) (h_hostMem : Has l .hostMem) (h_msixHeld : Has l .msixHeld) (h_emitted : Has l .emitted) (h_fresh : Has l .fresh) :
    ∀ s x1 x2 t, (stageOut s x1 x2).1 = some t → blank l t = blank l s := by
  intro s x1 x2 t h
  unfold stageOut at h
  dsimp only at h
  split at h
  · rename_i heq
    have hh := congrArg Prod.snd heq
    dsimp only at hh
    subst hh
    cases h
    simp (disch := assumption) only [↓setCdu_keeps, ↓writePayload_keeps, ↓takeGranted_keeps]
  · split at h
    · cases h
    · split at h
      · cases h
      · split at h
        · rename_i heq
          have hh := congrArg Prod.snd heq
          dsimp only at hh
          subst hh
          cases h
          simp (disch := assumption) only [↓setCdu_keeps, ↓writePayload_keeps, ↓reserveWait_keeps]
        · cases h
        · cases h

theorem jobDone_keeps {l : List Comp} (h_regs : Has l .regs) (h_ptns : Has l .ptns) (h_pool : Has l .pool) (h_plat : Has l .plat) (h_tens : Has l .tens) (h_cdus : Has l .cdus) (h_book : Has l .book) (h_hostMem : Has l .hostMem) (h_msixHeld : Has l .msixHeld) (h_emitted : Has l .emitted) (h_fresh : Has l .fresh) :
    ∀ x0 x1 s, blank l (jobDone x0 x1 s) = blank l s := by
  intro x0 x1
  induction x1 with
  | zero => intro s; rfl
  | succ n ih =>
    intro s
    unfold jobDone
    dsimp only
    split
    · rfl
    · split
      · rfl
      · ((repeat' (split <;> (try (rename_i heq; have hh := congrArg Prod.snd heq; dsimp only at hh; subst hh)))) <;> first | with_reducible rfl | simp (disch := assumption) only [↓addSat_keeps, ↓setCdu_keeps, ↓cduFinish_keeps, ↓stageOut_keeps, ↓blank_cdus, ↓blank_pool, ↓blank_hostMem, ↓blank_plat, ↓blank_pool_fresh, ↓blank_ptns, ↓blank_regs, ↓blank_tens, ↓blank_msixHeld, ↓blank_fresh, ↓blank_book, ↓blank_emitted, ↓apply_ite (blank l), ↓apply_ite Prod.snd, ite_self])
      · split
        · rename_i heq
          have hh := stageOut_some h_regs h_ptns h_pool h_plat h_tens h_cdus h_book h_hostMem h_msixHeld h_emitted h_fresh _ _ _ _ (congrArg Prod.fst heq)
          simp (disch := assumption) only [ih, ↓setCdu_keeps, hh]
        · rename_i heq
          have hh := congrArg Prod.snd heq
          dsimp only at hh
          subst hh
          simp (disch := assumption) only [↓addSat_keeps, ↓setCdu_keeps, ↓cduFinish_keeps, ↓stageOut_keeps, ↓blank_cdus, ↓blank_pool, ↓blank_hostMem, ↓blank_plat, ↓blank_pool_fresh, ↓blank_ptns, ↓blank_regs, ↓blank_tens, ↓blank_msixHeld, ↓blank_fresh, ↓blank_book, ↓blank_emitted, ↓apply_ite (blank l), ↓apply_ite Prod.snd, ite_self]

theorem effCodingJobDone_keeps {l : List Comp} (h_regs : Has l .regs) (h_ptns : Has l .ptns) (h_pool : Has l .pool) (h_plat : Has l .plat) (h_tens : Has l .tens) (h_cdus : Has l .cdus) (h_book : Has l .book) (h_hostMem : Has l .hostMem) (h_msixHeld : Has l .msixHeld) (h_emitted : Has l .emitted) (h_fresh : Has l .fresh) :
    ∀ x0 s, blank l (effCodingJobDone x0 s) = blank l s := by
  intro x0 s
  unfold effCodingJobDone
  simp (disch := assumption) only [↓jobDone_keeps, ↓apply_ite (blank l), ite_self]

theorem fbApply_keeps {l : List Comp} (h_regs : Has l .regs) (h_fp : Has l .fp) (h_tens : Has l .tens) (h_cdus : Has l .cdus) (h_book : Has l .book) :
    ∀ s x1 x2, blank l (fbApply s x1 x2).2.2 = blank l s := by
  intro s x1 x2
  unfold fbApply
  (repeat' (split <;> (try (rename_i heq; have hh := congrArg Prod.snd heq; dsimp only at hh; subst hh)))) <;> first | with_reducible rfl | simp (disch := first | assumption | (intro t x; first | with_reducible rfl | simp (disch := assumption) only [↓resetHarq_keeps, ↓touchCtx_keeps, ↓blank_book, ↓apply_ite (blank l), ↓apply_ite Prod.snd, ite_self] | ((repeat' (split <;> (try (rename_i heq; have hh := congrArg Prod.snd heq; dsimp only at hh; subst hh)))) <;> first | with_reducible rfl | simp (disch := assumption) only [↓resetHarq_keeps, ↓touchCtx_keeps, ↓blank_book, ↓apply_ite (blank l), ↓apply_ite Prod.snd, ite_self] | rfl))) only [↓resetHarq_keeps, ↓touchCtx_keeps, ↓blank_book, ↓apply_ite (blank l), ↓apply_ite Prod.snd, ite_self, ↓foldl_keeps, ↓foldr_keeps, ↓forUpTo_keeps, ↓foldl_snd_keeps]

theorem fbServe_keeps {l : List Comp} (h_regs : Has l .regs) (h_fp : Has l .fp) (h_ptns : Has l .ptns) (h_pool : Has l .pool) (h_plat : Has l .plat) (h_tens : Has l .tens) (h_cdus : Has l .cdus) (h_book : Has l .book) (h_hostMem : Has l .hostMem) (h_msixHeld : Has l .msixHeld) (h_emitted : Has l .emitted) (h_fresh : Has l .fresh) :
    ∀ s x1 x2, blank l (fbServe s x1 x2) = blank l s := by
  intro s x1 x2
  unfold fbServe
  dsimp only
  (repeat' (split <;> (try (rename_i heq; have hh := congrArg (fun r => r.2.2) heq; dsimp only at hh; subst hh)) <;> (try (rename_i heq; have hh := congrArg Prod.snd heq; dsimp only at hh; subst hh)))) <;> first | with_reducible rfl | simp (disch := assumption) only [↓addSat_keeps, ↓setErr_keeps, ↓settleOwed_keeps, ↓hwRead_keeps, ↓lastPost_keeps, ↓takeEnded_keeps, ↓fbApply_keeps, ↓blank_book, ↓apply_ite (blank l), ite_self]

theorem effFbRead_keeps {l : List Comp} (h_regs : Has l .regs) (h_fp : Has l .fp) (h_ptns : Has l .ptns) (h_pool : Has l .pool) (h_plat : Has l .plat) (h_tens : Has l .tens) (h_cdus : Has l .cdus) (h_book : Has l .book) (h_hostMem : Has l .hostMem) (h_msixHeld : Has l .msixHeld) (h_emitted : Has l .emitted) (h_fresh : Has l .fresh) :
    ∀ x0 s, blank l (effFbRead x0 s) = blank l s := by
  intro x0 s
  unfold effFbRead
  simp (disch := assumption) only [↓fbServe_keeps]

theorem effFbWrite_keeps {l : List Comp} (h_regs : Has l .regs) (h_fp : Has l .fp) (h_ptns : Has l .ptns) (h_pool : Has l .pool) (h_plat : Has l .plat) (h_tens : Has l .tens) (h_cdus : Has l .cdus) (h_book : Has l .book) (h_hostMem : Has l .hostMem) (h_msixHeld : Has l .msixHeld) (h_emitted : Has l .emitted) (h_fresh : Has l .fresh) :
    ∀ x0 s, blank l (effFbWrite x0 s) = blank l s := by
  intro x0 s
  unfold effFbWrite
  simp (disch := assumption) only [↓fbServe_keeps]

theorem effHarqReset_keeps {l : List Comp} (h_regs : Has l .regs) (h_fp : Has l .fp) (h_ptns : Has l .ptns) (h_pool : Has l .pool) (h_plat : Has l .plat) (h_tens : Has l .tens) (h_cdus : Has l .cdus) (h_book : Has l .book) (h_hostMem : Has l .hostMem) (h_msixHeld : Has l .msixHeld) (h_emitted : Has l .emitted) (h_fresh : Has l .fresh) :
    ∀ x0 s, blank l (effHarqReset x0 s) = blank l s := by
  intro x0 s
  unfold effHarqReset
  simp (disch := assumption) only [↓fbServe_keeps]

end Sys2Proof.Machine
end

