-- ==== Sys2Proof/Laws/KeepMerCore.lean ====
section
/-! SUPPORT. What each operation of Machine/MerCore.lean leaves as it was. -/

set_option linter.unusedSimpArgs false

namespace Sys2Proof.Machine

theorem notePps_keeps {l : List Comp} (h_mer : Has l .mer) :
    ∀ s, blank l (notePps s) = blank l s := by
  intro s
  unfold notePps
  simp (disch := assumption) only [↓blank_mer]

theorem timeTick_keeps {l : List Comp} (h_mer : Has l .mer) :
    ∀ s, blank l (timeTick s) = blank l s := by
  intro s
  unfold timeTick
  simp (disch := assumption) only [↓notePps_keeps, ↓blank_mer, ↓apply_ite (blank l), ite_self]

theorem disarmTrigger_keeps {l : List Comp} (h_regs : Has l .regs) (h_mer : Has l .mer) :
    ∀ s x1, blank l (disarmTrigger s x1) = blank l s := by
  intro s x1
  unfold disarmTrigger
  simp (disch := assumption) only [↓wr_keeps, ↓blank_mer]

theorem disarmAll_keeps {l : List Comp} (h_regs : Has l .regs) (h_mer : Has l .mer) :
    ∀ s, blank l (disarmAll s) = blank l s := by
  intro s
  unfold disarmAll
  (repeat' (split)) <;> first | with_reducible rfl | simp (disch := first | assumption | (intro t x; first | with_reducible rfl | simp (disch := assumption) only [↓disarmTrigger_keeps] | ((repeat' (split)) <;> first | with_reducible rfl | simp (disch := assumption) only [↓disarmTrigger_keeps] | rfl))) only [↓disarmTrigger_keeps, ↓foldl_keeps, ↓foldr_keeps, ↓forUpTo_keeps, ↓foldl_snd_keeps]

theorem lateTrigger_keeps {l : List Comp} (h_regs : Has l .regs) (h_mer : Has l .mer) (h_msixHeld : Has l .msixHeld) (h_emitted : Has l .emitted) :
    ∀ s x1, blank l (lateTrigger s x1) = blank l s := by
  intro s x1
  unfold lateTrigger
  simp (disch := assumption) only [↓wr_keeps, ↓setEvt_keeps, ↓disarmTrigger_keeps]

theorem timeDomainReset_keeps {l : List Comp} (h_regs : Has l .regs) (h_mer : Has l .mer) :
    ∀ s, blank l (timeDomainReset s) = blank l s := by
  intro s
  unfold timeDomainReset
  simp (disch := assumption) only [↓wr_keeps, ↓disarmAll_keeps, ↓blank_mer]

theorem pushStamp_keeps {l : List Comp} (h_regs : Has l .regs) (h_mer : Has l .mer) (h_msixHeld : Has l .msixHeld) (h_emitted : Has l .emitted) (h_fresh : Has l .fresh) :
    ∀ s x1 x2 x3, blank l (pushStamp s x1 x2 x3) = blank l s := by
  intro s x1 x2 x3
  unfold pushStamp
  simp (disch := assumption) only [↓wr_keeps, ↓addSat_keeps, ↓setErr_keeps, ↓nextFresh_keeps, ↓blank_mer, ↓apply_ite (blank l), ite_self]

end Sys2Proof.Machine
end

