-- ==== Sys2Proof/Laws/KeepFhCore.lean ====
section
/-! SUPPORT. What each operation of Machine/FhCore.lean leaves as it was. -/

set_option linter.unusedSimpArgs false

namespace Sys2Proof.Machine

theorem openWindow_keeps {l : List Comp} (h_fhps : Has l .fhps) :
    ∀ s x1, blank l (openWindow s x1) = blank l s := by
  intro s x1
  unfold openWindow
  simp (disch := assumption) only [↓setFhp_keeps, ↓apply_ite (blank l), ite_self]

theorem drainEvents_keeps {l : List Comp} (h_regs : Has l .regs) (h_pool : Has l .pool) (h_tens : Has l .tens) (h_fhps : Has l .fhps) (h_msixHeld : Has l .msixHeld) (h_emitted : Has l .emitted) (h_fresh : Has l .fresh) :
    ∀ x0 x1 s, blank l (drainEvents x0 x1 s) = blank l s := by
  intro x0 x1 s
  induction x1 generalizing x0 s with
  | zero =>
    unfold drainEvents
    (repeat' (split <;> (try (rename_i heq; have hh := congrArg Prod.snd heq; dsimp only at hh; subst hh)))) <;> first | with_reducible rfl | simp (disch := first | assumption | (intro t x; first | with_reducible rfl | simp (disch := assumption) only [↓setFhp_keeps, ↓hwPost_keeps, ↓apply_ite (blank l), ite_self] | ((repeat' (split <;> (try (rename_i heq; have hh := congrArg Prod.snd heq; dsimp only at hh; subst hh)))) <;> first | with_reducible rfl | simp (disch := assumption) only [↓setFhp_keeps, ↓hwPost_keeps, ↓apply_ite (blank l), ite_self] | rfl))) only [↓setFhp_keeps, ↓hwPost_keeps, ↓apply_ite (blank l), ite_self, ↓foldl_keeps, ↓foldr_keeps, ↓forUpTo_keeps, ↓foldl_snd_keeps] | rfl
  | succ n ih =>
    unfold drainEvents
    (repeat' (split <;> (try (rename_i heq; have hh := congrArg Prod.snd heq; dsimp only at hh; subst hh)))) <;> first | with_reducible rfl | simp (disch := first | assumption | (intro t x; first | with_reducible rfl | simp (disch := assumption) only [↓setFhp_keeps, ↓hwPost_keeps, ↓apply_ite (blank l), ite_self, ↓ih] | ((repeat' (split <;> (try (rename_i heq; have hh := congrArg Prod.snd heq; dsimp only at hh; subst hh)))) <;> first | with_reducible rfl | simp (disch := assumption) only [↓setFhp_keeps, ↓hwPost_keeps, ↓apply_ite (blank l), ite_self, ↓ih] | rfl))) only [↓setFhp_keeps, ↓hwPost_keeps, ↓apply_ite (blank l), ite_self, ↓ih, ↓foldl_keeps, ↓foldr_keeps, ↓forUpTo_keeps, ↓foldl_snd_keeps] | rfl

theorem raiseDisc_keeps {l : List Comp} (h_regs : Has l .regs) (h_pool : Has l .pool) (h_tens : Has l .tens) (h_fhps : Has l .fhps) (h_msixHeld : Has l .msixHeld) (h_emitted : Has l .emitted) (h_fresh : Has l .fresh) :
    ∀ s x1 x2 x3 x4 x5 x6, blank l (raiseDisc s x1 x2 x3 x4 x5 x6) = blank l s := by
  intro s x1 x2 x3 x4 x5 x6
  unfold raiseDisc
  simp (disch := assumption) only [↓setErr_keeps, ↓setEvt_keeps, ↓setFhp_keeps, ↓drainEvents_keeps, ↓apply_ite (blank l), ite_self]

theorem sighting_keeps {l : List Comp} (h_regs : Has l .regs) (h_pool : Has l .pool) (h_tens : Has l .tens) (h_fhps : Has l .fhps) (h_msixHeld : Has l .msixHeld) (h_emitted : Has l .emitted) (h_fresh : Has l .fresh) :
    ∀ s x1 x2 x3, blank l (sighting s x1 x2 x3) = blank l s := by
  intro s x1 x2 x3
  unfold sighting
  dsimp only
  (repeat' (split)) <;> first | with_reducible rfl | simp (disch := assumption) only [↓addSat_keeps, ↓setFhp_keeps, ↓raiseDisc_keeps, ↓apply_ite (blank l), ite_self]

theorem discLost_keeps {l : List Comp} (h_regs : Has l .regs) (h_pool : Has l .pool) (h_tens : Has l .tens) (h_fhps : Has l .fhps) (h_msixHeld : Has l .msixHeld) (h_emitted : Has l .emitted) (h_fresh : Has l .fresh) :
    ∀ s x1 x2 x3, blank l (discLost s x1 x2 x3) = blank l s := by
  intro s x1 x2 x3
  unfold discLost
  (repeat' (split)) <;> first | with_reducible rfl | simp (disch := assumption) only [↓setFhp_keeps, ↓raiseDisc_keeps]

theorem fhLinkDown_keeps {l : List Comp} (h_regs : Has l .regs) (h_pool : Has l .pool) (h_tens : Has l .tens) (h_fhps : Has l .fhps) (h_msixHeld : Has l .msixHeld) (h_emitted : Has l .emitted) (h_fresh : Has l .fresh) :
    ∀ s x1 x2, blank l (fhLinkDown s x1 x2) = blank l s := by
  intro s x1 x2
  unfold fhLinkDown
  (repeat' (split)) <;> first | with_reducible rfl | simp (disch := first | assumption | (intro t x; first | with_reducible rfl | simp (disch := assumption) only [↓setEvt_keeps, ↓bumpHealth_keeps, ↓setFhp_keeps, ↓discLost_keeps] | ((repeat' (split)) <;> first | with_reducible rfl | simp (disch := assumption) only [↓setEvt_keeps, ↓bumpHealth_keeps, ↓setFhp_keeps, ↓discLost_keeps] | rfl))) only [↓setEvt_keeps, ↓bumpHealth_keeps, ↓setFhp_keeps, ↓discLost_keeps, ↓foldl_keeps, ↓foldr_keeps, ↓forUpTo_keeps, ↓foldl_snd_keeps]

theorem widthChanged_keeps {l : List Comp} (h_regs : Has l .regs) (h_pool : Has l .pool) (h_tens : Has l .tens) (h_fhps : Has l .fhps) (h_msixHeld : Has l .msixHeld) (h_emitted : Has l .emitted) (h_fresh : Has l .fresh) :
    ∀ s x1, blank l (widthChanged s x1) = blank l s := by
  intro s x1
  unfold widthChanged
  (repeat' (split)) <;> first | with_reducible rfl | simp (disch := first | assumption | (intro t x; first | with_reducible rfl | simp (disch := assumption) only [↓fhLinkDown_keeps, ↓apply_ite (blank l), ite_self] | ((repeat' (split)) <;> first | with_reducible rfl | simp (disch := assumption) only [↓fhLinkDown_keeps, ↓apply_ite (blank l), ite_self] | rfl))) only [↓fhLinkDown_keeps, ↓apply_ite (blank l), ite_self, ↓foldl_keeps, ↓foldr_keeps, ↓forUpTo_keeps, ↓foldl_snd_keeps]

end Sys2Proof.Machine
end

