-- ==== Sys2Proof/Laws/KeepFronthaul.lean ====
section
/-! SUPPORT. What each operation of Machine/Fronthaul.lean leaves as it was. -/

set_option linter.unusedSimpArgs false

namespace Sys2Proof.Machine

theorem deliverRx_keeps {l : List Comp} (h_regs : Has l .regs) (h_pool : Has l .pool) (h_tens : Has l .tens) (h_msixHeld : Has l .msixHeld) (h_emitted : Has l .emitted) (h_fresh : Has l .fresh) :
    ∀ x0 x1 s, blank l (deliverRx x0 x1 s) = blank l s := by
  intro x0 x1 s
  induction x1 generalizing x0 s with
  | nil =>
    unfold deliverRx
    (repeat' (split <;> (try (rename_i heq; have hh := congrArg Prod.snd heq; dsimp only at hh; subst hh)))) <;> first | with_reducible rfl | simp (disch := first | assumption | (intro t x; first | with_reducible rfl | simp (disch := assumption) only [↓addSat_keeps, ↓hwPost_keeps, ↓blank_pool, ↓blank_pool_fresh, ↓blank_regs, ↓blank_tens, ↓blank_msixHeld, ↓blank_fresh, ↓blank_emitted, ↓apply_ite (blank l), ↓apply_ite Prod.snd, ite_self] | ((repeat' (split <;> (try (rename_i heq; have hh := congrArg Prod.snd heq; dsimp only at hh; subst hh)))) <;> first | with_reducible rfl | simp (disch := assumption) only [↓addSat_keeps, ↓hwPost_keeps, ↓blank_pool, ↓blank_pool_fresh, ↓blank_regs, ↓blank_tens, ↓blank_msixHeld, ↓blank_fresh, ↓blank_emitted, ↓apply_ite (blank l), ↓apply_ite Prod.snd, ite_self] | rfl))) only [↓addSat_keeps, ↓hwPost_keeps, ↓blank_pool, ↓blank_pool_fresh, ↓blank_regs, ↓blank_tens, ↓blank_msixHeld, ↓blank_fresh, ↓blank_emitted, ↓apply_ite (blank l), ↓apply_ite Prod.snd, ite_self, ↓foldl_keeps, ↓foldr_keeps, ↓forUpTo_keeps, ↓foldl_snd_keeps] | rfl
  | cons a r ih =>
    unfold deliverRx
    (repeat' (split <;> (try (rename_i heq; have hh := congrArg Prod.snd heq; dsimp only at hh; subst hh)))) <;> first | with_reducible rfl | simp (disch := first | assumption | (intro t x; first | with_reducible rfl | simp (disch := assumption) only [↓addSat_keeps, ↓hwPost_keeps, ↓blank_pool, ↓blank_pool_fresh, ↓blank_regs, ↓blank_tens, ↓blank_msixHeld, ↓blank_fresh, ↓blank_emitted, ↓apply_ite (blank l), ↓apply_ite Prod.snd, ite_self, ↓ih] | ((repeat' (split <;> (try (rename_i heq; have hh := congrArg Prod.snd heq; dsimp only at hh; subst hh)))) <;> first | with_reducible rfl | simp (disch := assumption) only [↓addSat_keeps, ↓hwPost_keeps, ↓blank_pool, ↓blank_pool_fresh, ↓blank_regs, ↓blank_tens, ↓blank_msixHeld, ↓blank_fresh, ↓blank_emitted, ↓apply_ite (blank l), ↓apply_ite Prod.snd, ite_self, ↓ih] | rfl))) only [↓addSat_keeps, ↓hwPost_keeps, ↓blank_pool, ↓blank_pool_fresh, ↓blank_regs, ↓blank_tens, ↓blank_msixHeld, ↓blank_fresh, ↓blank_emitted, ↓apply_ite (blank l), ↓apply_ite Prod.snd, ite_self, ↓ih, ↓foldl_keeps, ↓foldr_keeps, ↓forUpTo_keeps, ↓foldl_snd_keeps] | rfl

theorem flowMessage_keeps {l : List Comp} (h_regs : Has l .regs) (h_flowSeq : Has l .flowSeq) (h_fresh : Has l .fresh) :
    ∀ s x1 x2 x3 x4 x5, blank l (flowMessage s x1 x2 x3 x4 x5).2 = blank l s := by
  intro s x1 x2 x3 x4 x5
  unfold flowMessage
  simp (disch := assumption) only [↓addSat_keeps, ↓nextFresh_keeps, ↓blank_flowSeq, ↓apply_ite (blank l), ↓apply_ite Prod.snd, ite_self]

theorem delayReply_keeps {l : List Comp} (h_regs : Has l .regs) (h_emitted : Has l .emitted) :
    ∀ s x1 x2 x3 x4, blank l (delayReply s x1 x2 x3 x4) = blank l s := by
  intro s x1 x2 x3 x4
  unfold delayReply
  simp (disch := assumption) only [↓addSat_keeps, ↓emit_keeps]

theorem rxMessage_keeps {l : List Comp} (h_regs : Has l .regs) (h_flowSeq : Has l .flowSeq) (h_emitted : Has l .emitted) (h_fresh : Has l .fresh) :
    ∀ s x1 x2 x3 x4, blank l (rxMessage s x1 x2 x3 x4).2 = blank l s := by
  intro s x1 x2 x3 x4
  unfold rxMessage
  (repeat' (split <;> (try (rename_i heq; have hh := congrArg Prod.snd heq; dsimp only at hh; subst hh)))) <;> first | with_reducible rfl | simp (disch := assumption) only [↓flowMessage_keeps, ↓delayReply_keeps, ↓apply_ite (blank l), ↓apply_ite Prod.snd, ite_self]

theorem rxMessages_keeps {l : List Comp} (h_regs : Has l .regs) (h_flowSeq : Has l .flowSeq) (h_emitted : Has l .emitted) (h_fresh : Has l .fresh) :
    ∀ x0 x1 x2 x3 s, blank l (rxMessages x0 x1 x2 x3 s).2 = blank l s := by
  intro x0 x1 x2 x3
  induction x3 with
  | nil => intro s; rfl
  | cons a r ih =>
    intro s
    cases a with
    | none => exact addSat_keeps h_regs _ _ _ _
    | some m => exact (ih _).trans (rxMessage_keeps h_regs h_flowSeq h_emitted h_fresh _ _ _ _ _)

theorem rxDrop_keeps {l : List Comp} (h_regs : Has l .regs) :
    ∀ s x1, blank l (rxDrop s x1) = blank l s := by
  intro s x1
  unfold rxDrop
  simp (disch := assumption) only [↓addSat_keeps]

theorem rxPlace_keeps {l : List Comp} (h_regs : Has l .regs) (h_pool : Has l .pool) (h_tens : Has l .tens) (h_flowSeq : Has l .flowSeq) (h_msixHeld : Has l .msixHeld) (h_emitted : Has l .emitted) (h_fresh : Has l .fresh) :
    ∀ s x1 x2 x3, blank l (rxPlace s x1 x2 x3) = blank l s := by
  intro s x1 x2 x3
  unfold rxPlace
  (repeat' (split <;> (try (rename_i heq; have hh := congrArg Prod.snd heq; dsimp only at hh; subst hh)))) <;> first | with_reducible rfl | simp (disch := assumption) only [↓deliverRx_keeps, ↓rxMessages_keeps, ↓apply_ite (blank l), ite_self]

theorem effFrameReceive_keeps {l : List Comp} (h_regs : Has l .regs) (h_pool : Has l .pool) (h_tens : Has l .tens) (h_fhps : Has l .fhps) (h_flowSeq : Has l .flowSeq) (h_msixHeld : Has l .msixHeld) (h_emitted : Has l .emitted) (h_fresh : Has l .fresh) :
    ∀ x0 x1 s, blank l (effFrameReceive x0 x1 s) = blank l s := by
  intro x0 x1 s
  unfold effFrameReceive
  (repeat' (split)) <;> first | with_reducible rfl | simp (disch := first | assumption | (intro t x; first | with_reducible rfl | simp (disch := assumption) only [↓addSat_keeps, ↓bumpHealth_keeps, ↓nextFresh_keeps, ↓sighting_keeps, ↓rxDrop_keeps, ↓rxPlace_keeps, ↓apply_ite (blank l), ite_self] | ((repeat' (split)) <;> first | with_reducible rfl | simp (disch := assumption) only [↓addSat_keeps, ↓bumpHealth_keeps, ↓nextFresh_keeps, ↓sighting_keeps, ↓rxDrop_keeps, ↓rxPlace_keeps, ↓apply_ite (blank l), ite_self] | rfl))) only [↓addSat_keeps, ↓bumpHealth_keeps, ↓nextFresh_keeps, ↓sighting_keeps, ↓rxDrop_keeps, ↓rxPlace_keeps, ↓apply_ite (blank l), ite_self, ↓foldl_keeps, ↓foldr_keeps, ↓forUpTo_keeps, ↓foldl_snd_keeps]

theorem txRelease_keeps {l : List Comp} (h_regs : Has l .regs) (h_ptns : Has l .ptns) (h_pool : Has l .pool) (h_hostMem : Has l .hostMem) (h_emitted : Has l .emitted) :
    ∀ s x1, blank l (txRelease s x1) = blank l s := by
  intro s x1
  unfold txRelease
  (repeat' (split <;> (try (rename_i heq; have hh := congrArg Prod.snd heq; dsimp only at hh; subst hh)))) <;> first | with_reducible rfl | simp (disch := assumption) only [↓hwRelease_keeps, ↓hwRead_keeps]

theorem txDropHeads_keeps {l : List Comp} (h_regs : Has l .regs) (h_ptns : Has l .ptns) (h_pool : Has l .pool) (h_hostMem : Has l .hostMem) (h_emitted : Has l .emitted) :
    ∀ x0 x1 s, blank l (txDropHeads x0 x1 s) = blank l s := by
  intro x0 x1 s
  induction x1 generalizing x0 s with
  | zero =>
    unfold txDropHeads
    (repeat' (split)) <;> first | with_reducible rfl | simp (disch := first | assumption | (intro t x; first | with_reducible rfl | simp (disch := assumption) only [↓addSat_keeps, ↓txRelease_keeps, ↓apply_ite (blank l), ite_self] | ((repeat' (split)) <;> first | with_reducible rfl | simp (disch := assumption) only [↓addSat_keeps, ↓txRelease_keeps, ↓apply_ite (blank l), ite_self] | rfl))) only [↓addSat_keeps, ↓txRelease_keeps, ↓apply_ite (blank l), ite_self, ↓foldl_keeps, ↓foldr_keeps, ↓forUpTo_keeps, ↓foldl_snd_keeps] | rfl
  | succ n ih =>
    unfold txDropHeads
    dsimp only
    (repeat' (split)) <;> first | with_reducible rfl | simp (disch := first | assumption | (intro t x; first | with_reducible rfl | simp (disch := assumption) only [↓addSat_keeps, ↓txRelease_keeps, ↓apply_ite (blank l), ite_self, ↓ih] | ((repeat' (split)) <;> first | with_reducible rfl | simp (disch := assumption) only [↓addSat_keeps, ↓txRelease_keeps, ↓apply_ite (blank l), ite_self, ↓ih] | rfl))) only [↓addSat_keeps, ↓txRelease_keeps, ↓apply_ite (blank l), ite_self, ↓ih, ↓foldl_keeps, ↓foldr_keeps, ↓forUpTo_keeps, ↓foldl_snd_keeps] | rfl

theorem txPrepare_keeps {l : List Comp} (h_regs : Has l .regs) (h_ptns : Has l .ptns) (h_pool : Has l .pool) (h_hostMem : Has l .hostMem) (h_emitted : Has l .emitted) :
    ∀ s x1, blank l (txPrepare s x1) = blank l s := by
  intro s x1
  unfold txPrepare
  simp (disch := assumption) only [↓txDropHeads_keeps, ↓apply_ite (blank l), ite_self]

theorem wakeQueues_keeps {l : List Comp} (h_regs : Has l .regs) (h_fhps : Has l .fhps) :
    ∀ s x1 x2, blank l (wakeQueues s x1 x2) = blank l s := by
  intro s x1 x2
  unfold wakeQueues
  (repeat' (split)) <;> first | with_reducible rfl | simp (disch := first | assumption | (intro t x; first | with_reducible rfl | simp (disch := assumption) only [↓wr_keeps, ↓setFhp_keeps, ↓apply_ite (blank l), ite_self] | ((repeat' (split)) <;> first | with_reducible rfl | simp (disch := assumption) only [↓wr_keeps, ↓setFhp_keeps, ↓apply_ite (blank l), ite_self] | rfl))) only [↓wr_keeps, ↓setFhp_keeps, ↓apply_ite (blank l), ite_self, ↓foldl_keeps, ↓foldr_keeps, ↓forUpTo_keeps, ↓foldl_snd_keeps]

theorem chargeTags_keeps {l : List Comp} (h_regs : Has l .regs) (h_fhps : Has l .fhps) (h_fhqs : Has l .fhqs) :
    ∀ s x1 x2 x3, blank l (chargeTags s x1 x2 x3) = blank l s := by
  intro s x1 x2 x3
  unfold chargeTags
  simp (disch := assumption) only [↓wr_keeps, ↓setFhp_keeps, ↓setFhq_keeps]

theorem sendHead_keeps {l : List Comp} (h_regs : Has l .regs) (h_ptns : Has l .ptns) (h_pool : Has l .pool) (h_mer : Has l .mer) (h_fhps : Has l .fhps) (h_fhqs : Has l .fhqs) (h_hostMem : Has l .hostMem) (h_msixHeld : Has l .msixHeld) (h_emitted : Has l .emitted) (h_fresh : Has l .fresh) :
    ∀ s x1 x2, blank l (sendHead s x1 x2) = blank l s := by
  intro s x1 x2
  unfold sendHead
  (repeat' (split)) <;> first | with_reducible rfl | simp (disch := assumption) only [↓wr_keeps, ↓addSat_keeps, ↓emit_keeps, ↓setFhq_keeps, ↓nextFresh_keeps, ↓pushStamp_keeps, ↓txRelease_keeps, ↓chargeTags_keeps, ↓apply_ite (blank l), ite_self]

theorem effPortSelection_keeps {l : List Comp} (h_regs : Has l .regs) (h_ptns : Has l .ptns) (h_pool : Has l .pool) (h_mer : Has l .mer) (h_fhps : Has l .fhps) (h_fhqs : Has l .fhqs) (h_hostMem : Has l .hostMem) (h_msixHeld : Has l .msixHeld) (h_emitted : Has l .emitted) (h_fresh : Has l .fresh) :
    ∀ x0 s, blank l (effPortSelection x0 s) = blank l s := by
  intro x0 s
  unfold effPortSelection
  dsimp only
  have h1 : ∀ t, blank l (List.foldl txPrepare t (portQueues s x0)) = blank l t := by
    intro t
    refine foldl_keeps _ ?_ _ _
    intro t x
    simp (disch := assumption) only [↓txPrepare_keeps, ↓wakeQueues_keeps, ↓sendHead_keeps, ↓blank_pool, ↓blank_hostMem, ↓blank_pool_fresh, ↓blank_ptns, ↓blank_regs, ↓blank_msixHeld, ↓blank_mer, ↓blank_fresh, ↓blank_fhqs, ↓blank_fhps, ↓blank_emitted, ↓apply_ite (blank l), ↓apply_ite Prod.snd, ite_self]
  (repeat' (split)) <;> first | with_reducible rfl | simp (disch := assumption) only [h1, ↓txPrepare_keeps, ↓wakeQueues_keeps, ↓sendHead_keeps, ↓blank_pool, ↓blank_hostMem, ↓blank_pool_fresh, ↓blank_ptns, ↓blank_regs, ↓blank_msixHeld, ↓blank_mer, ↓blank_fresh, ↓blank_fhqs, ↓blank_fhps, ↓blank_emitted, ↓apply_ite (blank l), ↓apply_ite Prod.snd, ite_self]

theorem effTokenRefill_keeps {l : List Comp} (h_regs : Has l .regs) :
    ∀ s, blank l (effTokenRefill s) = blank l s := by
  intro s
  unfold effTokenRefill
  (repeat' (split)) <;> first | with_reducible rfl | simp (disch := first | assumption | (intro t x; first | with_reducible rfl | simp (disch := assumption) only [↓wr_keeps, ↓apply_ite (blank l), ite_self] | ((repeat' (split)) <;> first | with_reducible rfl | simp (disch := assumption) only [↓wr_keeps, ↓apply_ite (blank l), ite_self] | rfl))) only [↓wr_keeps, ↓apply_ite (blank l), ite_self, ↓foldl_keeps, ↓foldr_keeps, ↓forUpTo_keeps, ↓foldl_snd_keeps]

theorem effLateDrop_keeps {l : List Comp} (h_regs : Has l .regs) (h_ptns : Has l .ptns) (h_pool : Has l .pool) (h_hostMem : Has l .hostMem) (h_emitted : Has l .emitted) :
    ∀ x0 s, blank l (effLateDrop x0 s) = blank l s := by
  intro x0 s
  unfold effLateDrop
  (repeat' (split)) <;> first | with_reducible rfl | simp (disch := assumption) only [↓addSat_keeps, ↓txRelease_keeps, ↓apply_ite (blank l), ite_self]

theorem effWindowClose_keeps {l : List Comp} (h_fhps : Has l .fhps) :
    ∀ x0 s, blank l (effWindowClose x0 s) = blank l s := by
  intro x0 s
  unfold effWindowClose
  (repeat' (split)) <;> first | with_reducible rfl | simp (disch := assumption) only [↓setFhp_keeps, ↓apply_ite (blank l), ite_self]

theorem effRuTimeout_keeps {l : List Comp} (h_regs : Has l .regs) (h_pool : Has l .pool) (h_tens : Has l .tens) (h_fhps : Has l .fhps) (h_msixHeld : Has l .msixHeld) (h_emitted : Has l .emitted) (h_fresh : Has l .fresh) :
    ∀ x0 x1 s, blank l (effRuTimeout x0 x1 s) = blank l s := by
  intro x0 x1 s
  unfold effRuTimeout
  (repeat' (split)) <;> first | with_reducible rfl | simp (disch := assumption) only [↓discLost_keeps, ↓apply_ite (blank l), ite_self]

theorem effDiscEventRetry_keeps {l : List Comp} (h_regs : Has l .regs) (h_pool : Has l .pool) (h_tens : Has l .tens) (h_fhps : Has l .fhps) (h_msixHeld : Has l .msixHeld) (h_emitted : Has l .emitted) (h_fresh : Has l .fresh) :
    ∀ x0 s, blank l (effDiscEventRetry x0 s) = blank l s := by
  intro x0 s
  unfold effDiscEventRetry
  simp (disch := assumption) only [↓drainEvents_keeps]

theorem effDiscEntryClear_keeps {l : List Comp} (h_regs : Has l .regs) (h_fhps : Has l .fhps) (h_msixHeld : Has l .msixHeld) (h_emitted : Has l .emitted) :
    ∀ x0 x1 x2 s, blank l (effDiscEntryClear x0 x1 x2 s) = blank l s := by
  intro x0 x1 x2 s
  unfold effDiscEntryClear
  (repeat' (split)) <;> first | with_reducible rfl | simp (disch := assumption) only [↓denyAccess_keeps, ↓setFhp_keeps, ↓apply_ite (blank l), ite_self]

theorem sampleQueue_keeps {l : List Comp} (h_regs : Has l .regs) :
    ∀ s x1 x2, blank l (sampleQueue s x1 x2) = blank l s := by
  intro s x1 x2
  unfold sampleQueue
  simp (disch := assumption) only [↓wr_keeps, ↓apply_ite (blank l), ite_self]

theorem effDepthSample_keeps {l : List Comp} (h_regs : Has l .regs) :
    ∀ s, blank l (effDepthSample s) = blank l s := by
  intro s
  unfold effDepthSample
  (repeat' (split)) <;> first | with_reducible rfl | simp (disch := first | assumption | (intro t x; first | with_reducible rfl | simp (disch := assumption) only [↓wr_keeps, ↓sampleQueue_keeps, ↓apply_ite (blank l), ite_self] | ((repeat' (split)) <;> first | with_reducible rfl | simp (disch := assumption) only [↓wr_keeps, ↓sampleQueue_keeps, ↓apply_ite (blank l), ite_self] | rfl))) only [↓wr_keeps, ↓sampleQueue_keeps, ↓apply_ite (blank l), ite_self, ↓foldl_keeps, ↓foldr_keeps, ↓forUpTo_keeps, ↓foldl_snd_keeps]

end Sys2Proof.Machine
end

