-- ==== Sys2Proof/Laws/KeepMovers.lean ====
section
/-! SUPPORT. What each operation of Machine/Movers.lean leaves as it was. -/

set_option linter.unusedSimpArgs false

namespace Sys2Proof.Machine

theorem parseParcel_keeps {l : List Comp} (h_regs : Has l .regs) (h_fp : Has l .fp) (h_ptns : Has l .ptns) (h_migs : Has l .migs) (h_locs : Has l .locs) (h_fresh : Has l .fresh) :
    ∀ s x1 x2, blank l (parseParcel s x1 x2).2 = blank l s := by
  intro s x1 x2
  unfold parseParcel
  dsimp only
  (repeat' (split <;> (try (rename_i heq; have hh := congrArg Prod.snd heq; dsimp only at hh; subst hh)))) <;> first | with_reducible rfl | simp (disch := assumption) only [↓readTile_keeps, ↓ueHit_keeps, ↓apply_ite (blank l), ↓apply_ite Prod.snd, ite_self]

theorem acceptParcel_keeps {l : List Comp} (h_regs : Has l .regs) (h_fp : Has l .fp) (h_ptns : Has l .ptns) (h_migs : Has l .migs) (h_locs : Has l .locs) (h_movs : Has l .movs) (h_pool : Has l .pool) (h_fresh : Has l .fresh) :
    ∀ s x1 x2 x3 x4, blank l (acceptParcel s x1 x2 x3 x4) = blank l s := by
  intro s x1 x2 x3 x4
  unfold acceptParcel
  simp (disch := assumption) only [↓setMov_keeps, ↓hwRead_keeps, ↓parseParcel_keeps]

theorem cplBlocked_keeps {l : List Comp} (h_movs : Has l .movs) (h_plat : Has l .plat) (h_msixHeld : Has l .msixHeld) (h_emitted : Has l .emitted) :
    ∀ s x1 x2 x3, blank l (cplBlocked s x1 x2 x3) = blank l s := by
  intro s x1 x2 x3
  unfold cplBlocked
  simp (disch := assumption) only [↓setMov_keeps, ↓freeStake_keeps, ↓levelsRise_keeps]

theorem keepStake_keeps {l : List Comp} (h_plat : Has l .plat) :
    ∀ s x1 x2, blank l (keepStake s x1 x2) = blank l s := by
  intro s x1 x2
  unfold keepStake
  simp (disch := assumption) only [↓blank_plat]

theorem reserveCpl_keeps {l : List Comp} (h_regs : Has l .regs) (h_fp : Has l .fp) (h_ptns : Has l .ptns) (h_migs : Has l .migs) (h_locs : Has l .locs) (h_movs : Has l .movs) (h_pool : Has l .pool) (h_plat : Has l .plat) (h_msixHeld : Has l .msixHeld) (h_emitted : Has l .emitted) (h_fresh : Has l .fresh) :
    ∀ s x1 x2 x3, blank l (reserveCpl s x1 x2 x3) = blank l s := by
  intro s x1 x2 x3
  unfold reserveCpl
  dsimp only
  (repeat' (split <;> (try (rename_i heq; have hh := congrArg Prod.snd heq; dsimp only at hh; subst hh)))) <;> first | with_reducible rfl | simp (disch := assumption) only [↓reserveWait_keeps, ↓takeGranted_keeps, ↓acceptParcel_keeps, ↓cplBlocked_keeps, ↓keepStake_keeps, ↓apply_ite (blank l), ite_self]

theorem tryAccept_keeps {l : List Comp} (h_regs : Has l .regs) (h_fp : Has l .fp) (h_ptns : Has l .ptns) (h_migs : Has l .migs) (h_locs : Has l .locs) (h_movs : Has l .movs) (h_pool : Has l .pool) (h_plat : Has l .plat) (h_msixHeld : Has l .msixHeld) (h_emitted : Has l .emitted) (h_fresh : Has l .fresh) :
    ∀ s x1, blank l (tryAccept s x1) = blank l s := by
  intro s x1
  unfold tryAccept
  dsimp only
  (repeat' (split <;> (try (rename_i heq; have hh := congrArg Prod.snd heq; dsimp only at hh; subst hh)))) <;> first | with_reducible rfl | simp (disch := assumption) only [↓acquireStake_keeps, ↓hwRead_keeps, ↓takeEnded_keeps, ↓reserveCpl_keeps, ↓apply_ite (blank l), ite_self]

theorem effMoverAccept_keeps {l : List Comp} (h_regs : Has l .regs) (h_fp : Has l .fp) (h_ptns : Has l .ptns) (h_migs : Has l .migs) (h_locs : Has l .locs) (h_movs : Has l .movs) (h_pool : Has l .pool) (h_plat : Has l .plat) (h_msixHeld : Has l .msixHeld) (h_emitted : Has l .emitted) (h_fresh : Has l .fresh) :
    ∀ x0 s, blank l (effMoverAccept x0 s) = blank l s := by
  intro x0 s
  unfold effMoverAccept
  simp (disch := assumption) only [↓tryAccept_keeps]

theorem effCplReserveRetry_keeps {l : List Comp} (h_regs : Has l .regs) (h_fp : Has l .fp) (h_ptns : Has l .ptns) (h_migs : Has l .migs) (h_locs : Has l .locs) (h_movs : Has l .movs) (h_pool : Has l .pool) (h_plat : Has l .plat) (h_msixHeld : Has l .msixHeld) (h_emitted : Has l .emitted) (h_fresh : Has l .fresh) :
    ∀ x0 s, blank l (effCplReserveRetry x0 s) = blank l s := by
  intro x0 s
  unfold effCplReserveRetry
  simp (disch := assumption) only [↓tryAccept_keeps, ↓apply_ite (blank l), ite_self]

theorem walkFrom_keeps {l : List Comp} (h_regs : Has l .regs) (h_ptns : Has l .ptns) (h_migs : Has l .migs) (h_locs : Has l .locs) (h_fresh : Has l .fresh) :
    ∀ x0 x1 x2 x3 x4 x5 x6 x7 x8 x9 s, blank l (walkFrom x0 x1 x2 x3 x4 x5 x6 x7 x8 x9 s).2.2 = blank l s := by
  intro x0 x1 x2 x3 x4 x5 x6
  induction x6 with
  | zero => intro x7 x8 x9 s; rfl
  | succ n ih =>
    intro x7 x8 x9 s
    unfold walkFrom
    dsimp only
    (repeat' (split <;> (try (rename_i heq; have hh := congrArg Prod.snd heq; dsimp only at hh; subst hh)))) <;> first | with_reducible rfl | simp (disch := assumption) only [ih, ↓readTile_keeps, ↓blank_ptns, ↓blank_regs, ↓blank_locs, ↓blank_migs, ↓blank_fresh, ↓apply_ite (blank l), ↓apply_ite Prod.snd, ite_self]

theorem xInsert_keeps {l : List Comp} (h_xlate : Has l .xlate) (h_fresh : Has l .fresh) :
    ∀ s x1, blank l (xInsert s x1) = blank l s := by
  intro s x1
  unfold xInsert
  dsimp only
  (repeat' (split)) <;> first | with_reducible rfl | simp (disch := assumption) only [↓nextFresh_keeps, ↓blank_xlate, ↓apply_ite (blank l), ite_self]

theorem translate_keeps {l : List Comp} (h_regs : Has l .regs) (h_ptns : Has l .ptns) (h_migs : Has l .migs) (h_locs : Has l .locs) (h_xlate : Has l .xlate) (h_fresh : Has l .fresh) :
    ∀ s x1 x2 x3 x4 x5 x6, blank l (translate s x1 x2 x3 x4 x5 x6).2 = blank l s := by
  intro s x1 x2 x3 x4 x5 x6
  unfold translate
  dsimp only
  (repeat' (split <;> (try (rename_i heq; have hh := congrArg (fun r => r.2.2) heq; dsimp only at hh; subst hh)))) <;> first | with_reducible rfl | simp (disch := first | assumption | (intro t x; first | with_reducible rfl | simp (disch := assumption) only [↓addSat_keeps, ↓walkFrom_keeps, ↓xInsert_keeps, ↓blank_ptns, ↓blank_regs, ↓blank_locs, ↓blank_xlate, ↓blank_migs, ↓blank_fresh, ↓apply_ite (blank l), ↓apply_ite Prod.snd, ite_self] | ((repeat' (split <;> (try (rename_i heq; have hh := congrArg (fun r => r.2.2) heq; dsimp only at hh; subst hh)))) <;> first | with_reducible rfl | simp (disch := assumption) only [↓addSat_keeps, ↓walkFrom_keeps, ↓xInsert_keeps, ↓blank_ptns, ↓blank_regs, ↓blank_locs, ↓blank_xlate, ↓blank_migs, ↓blank_fresh, ↓apply_ite (blank l), ↓apply_ite Prod.snd, ite_self] | rfl))) only [↓addSat_keeps, ↓walkFrom_keeps, ↓xInsert_keeps, ↓blank_ptns, ↓blank_regs, ↓blank_locs, ↓blank_xlate, ↓blank_migs, ↓blank_fresh, ↓apply_ite (blank l), ↓apply_ite Prod.snd, ite_self, ↓foldl_keeps, ↓foldr_keeps, ↓forUpTo_keeps, ↓foldl_snd_keeps] | rfl

theorem locate_keeps {l : List Comp} (h_regs : Has l .regs) (h_ptns : Has l .ptns) (h_migs : Has l .migs) (h_locs : Has l .locs) (h_xlate : Has l .xlate) (h_fresh : Has l .fresh) :
    ∀ s x1 x2 x3 x4 x5, blank l (locate s x1 x2 x3 x4 x5).2 = blank l s := by
  intro s x1 x2 x3 x4 x5
  unfold locate
  simp (disch := assumption) only [↓translate_keeps, ↓apply_ite (blank l), ↓apply_ite Prod.snd, ite_self]

theorem readLoc_keeps {l : List Comp} (h_regs : Has l .regs) (h_fp : Has l .fp) (h_ptns : Has l .ptns) (h_migs : Has l .migs) (h_locs : Has l .locs) (h_tens : Has l .tens) (h_cdus : Has l .cdus) (h_fresh : Has l .fresh) :
    ∀ s x1 x2 x3, blank l (readLoc s x1 x2 x3).2 = blank l s := by
  intro s x1 x2 x3
  unfold readLoc
  (repeat' (split <;> (try (rename_i heq; have hh := congrArg Prod.snd heq; dsimp only at hh; subst hh)))) <;> first | with_reducible rfl | simp (disch := assumption) only [↓nextFresh_keeps, ↓readTile_keeps, ↓unitRead_keeps, ↓apply_ite (blank l), ↓apply_ite Prod.snd, ite_self]

theorem writeLoc_keeps {l : List Comp} (h_regs : Has l .regs) (h_fp : Has l .fp) (h_stns : Has l .stns) (h_ptns : Has l .ptns) (h_migs : Has l .migs) (h_locs : Has l .locs) (h_spillFreed : Has l .spillFreed) (h_tens : Has l .tens) (h_cdus : Has l .cdus) (h_hostMem : Has l .hostMem) (h_emitted : Has l .emitted) (h_fresh : Has l .fresh) :
    ∀ s x1 x2 x3, blank l (writeLoc s x1 x2 x3).2 = blank l s := by
  intro s x1 x2 x3
  unfold writeLoc
  (repeat' (split <;> (try (rename_i heq; have hh := congrArg Prod.snd heq; dsimp only at hh; subst hh)))) <;> first | with_reducible rfl | simp (disch := assumption) only [↓emit_keeps, ↓writeTile_keeps, ↓writeWindow_keeps, ↓blank_hostMem, ↓apply_ite (blank l), ↓apply_ite Prod.snd, ite_self]

theorem readPieces_keeps {l : List Comp} (h_regs : Has l .regs) (h_fp : Has l .fp) (h_ptns : Has l .ptns) (h_migs : Has l .migs) (h_locs : Has l .locs) (h_tens : Has l .tens) (h_cdus : Has l .cdus) (h_fresh : Has l .fresh) :
    ∀ x0 x1 x2 x3 s, blank l (readPieces x0 x1 x2 x3 s).2 = blank l s := by
  intro x0 x1 x2 x3 s
  induction x3 generalizing x0 x1 x2 s with
  | nil =>
    unfold readPieces
    (repeat' (split <;> (try (rename_i heq; have hh := congrArg Prod.snd heq; dsimp only at hh; subst hh)))) <;> first | with_reducible rfl | simp (disch := first | assumption | (intro t x; first | with_reducible rfl | simp (disch := assumption) only [↓readLoc_keeps, ↓blank_cdus, ↓blank_fp, ↓blank_ptns, ↓blank_regs, ↓blank_tens, ↓blank_locs, ↓blank_migs, ↓blank_fresh, ↓apply_ite (blank l), ↓apply_ite Prod.snd, ite_self] | ((repeat' (split <;> (try (rename_i heq; have hh := congrArg Prod.snd heq; dsimp only at hh; subst hh)))) <;> first | with_reducible rfl | simp (disch := assumption) only [↓readLoc_keeps, ↓blank_cdus, ↓blank_fp, ↓blank_ptns, ↓blank_regs, ↓blank_tens, ↓blank_locs, ↓blank_migs, ↓blank_fresh, ↓apply_ite (blank l), ↓apply_ite Prod.snd, ite_self] | rfl))) only [↓readLoc_keeps, ↓blank_cdus, ↓blank_fp, ↓blank_ptns, ↓blank_regs, ↓blank_tens, ↓blank_locs, ↓blank_migs, ↓blank_fresh, ↓apply_ite (blank l), ↓apply_ite Prod.snd, ite_self, ↓foldl_keeps, ↓foldr_keeps, ↓forUpTo_keeps, ↓foldl_snd_keeps] | rfl
  | cons a r ih =>
    unfold readPieces
    (repeat' (split <;> (try (rename_i heq; have hh := congrArg Prod.snd heq; dsimp only at hh; subst hh)))) <;> first | with_reducible rfl | simp (disch := first | assumption | (intro t x; first | with_reducible rfl | simp (disch := assumption) only [↓readLoc_keeps, ↓blank_cdus, ↓blank_fp, ↓blank_ptns, ↓blank_regs, ↓blank_tens, ↓blank_locs, ↓blank_migs, ↓blank_fresh, ↓apply_ite (blank l), ↓apply_ite Prod.snd, ite_self, ↓ih] | ((repeat' (split <;> (try (rename_i heq; have hh := congrArg Prod.snd heq; dsimp only at hh; subst hh)))) <;> first | with_reducible rfl | simp (disch := assumption) only [↓readLoc_keeps, ↓blank_cdus, ↓blank_fp, ↓blank_ptns, ↓blank_regs, ↓blank_tens, ↓blank_locs, ↓blank_migs, ↓blank_fresh, ↓apply_ite (blank l), ↓apply_ite Prod.snd, ite_self, ↓ih] | rfl))) only [↓readLoc_keeps, ↓blank_cdus, ↓blank_fp, ↓blank_ptns, ↓blank_regs, ↓blank_tens, ↓blank_locs, ↓blank_migs, ↓blank_fresh, ↓apply_ite (blank l), ↓apply_ite Prod.snd, ite_self, ↓ih, ↓foldl_keeps, ↓foldr_keeps, ↓forUpTo_keeps, ↓foldl_snd_keeps] | rfl

theorem located_keeps {l : List Comp} (h_regs : Has l .regs) (h_ptns : Has l .ptns) (h_migs : Has l .migs) (h_locs : Has l .locs) (h_xlate : Has l .xlate) (h_fresh : Has l .fresh) :
    ∀ s x1 x2 x3 x4 x5 x6, (∀ y0 y1, blank l (x6 y0 y1).2 = blank l y1) → blank l (located s x1 x2 x3 x4 x5 x6).2 = blank l s := by
  intro s x1 x2 x3 x4 x5 x6 hf0
  unfold located
  (repeat' (split <;> (try (rename_i heq; have hh := congrArg Prod.snd heq; dsimp only at hh; subst hh)))) <;> simp (disch := assumption) only [hf0, ↓locate_keeps, ↓blank_ptns, ↓blank_regs, ↓blank_locs, ↓blank_xlate, ↓blank_migs, ↓blank_fresh, ↓apply_ite (blank l), ↓apply_ite Prod.snd, ite_self]

theorem renewFirst_keeps {l : List Comp} (h_ptns : Has l .ptns) (h_migs : Has l .migs) (h_locs : Has l .locs) (h_spillFreed : Has l .spillFreed) :
    ∀ s x1 x2 x3 x4, blank l (renewFirst s x1 x2 x3 x4).2 = blank l s := by
  intro s x1 x2 x3 x4
  unfold renewFirst
  (repeat' (split <;> (try (rename_i heq; have hh := congrArg Prod.snd heq; dsimp only at hh; subst hh)))) <;> first | with_reducible rfl | simp (disch := assumption) only [↓renewTile_keeps, ↓apply_ite (blank l), ↓apply_ite Prod.snd, ite_self]

theorem mustWait_keeps {l : List Comp} (h_regs : Has l .regs) (h_fp : Has l .fp) (h_stns : Has l .stns) (h_ptns : Has l .ptns) (h_migs : Has l .migs) (h_locs : Has l .locs) (h_spillFreed : Has l .spillFreed) (h_tens : Has l .tens) (h_cdus : Has l .cdus) (h_hostMem : Has l .hostMem) (h_emitted : Has l .emitted) (h_fresh : Has l .fresh) :
    ∀ s x1 x2 x3 x4, ∀ t, mustWait s x1 x2 x3 x4 = some t → blank l t = blank l s := by
  intro s x1 x2 x3 x4 t h
  unfold mustWait at h
  (repeat' (split at h <;> (try (rename_i heq; have hh := congrArg Prod.snd heq; dsimp only at hh; subst hh)))) <;> (cases h <;> (first | with_reducible rfl | simp (disch := assumption) only [↓writeLoc_keeps, ↓renewFirst_keeps] | ((repeat' (split <;> (try (rename_i heq; have hh := congrArg Prod.snd heq; dsimp only at hh; subst hh)))) <;> first | with_reducible rfl | simp (disch := first | assumption | (intro t x; first | with_reducible rfl | simp (disch := assumption) only [↓writeLoc_keeps, ↓renewFirst_keeps] | ((repeat' (split <;> (try (rename_i heq; have hh := congrArg Prod.snd heq; dsimp only at hh; subst hh)))) <;> first | with_reducible rfl | simp (disch := assumption) only [↓writeLoc_keeps, ↓renewFirst_keeps] | rfl))) only [↓writeLoc_keeps, ↓renewFirst_keeps, ↓foldl_keeps, ↓foldr_keeps, ↓forUpTo_keeps, ↓foldl_snd_keeps] | rfl)))

theorem writePieces_keeps {l : List Comp} (h_regs : Has l .regs) (h_fp : Has l .fp) (h_stns : Has l .stns) (h_ptns : Has l .ptns) (h_migs : Has l .migs) (h_locs : Has l .locs) (h_spillFreed : Has l .spillFreed) (h_tens : Has l .tens) (h_cdus : Has l .cdus) (h_hostMem : Has l .hostMem) (h_emitted : Has l .emitted) (h_fresh : Has l .fresh) :
    ∀ x0 x1 x2 x3 x4 x5 s, blank l (writePieces x0 x1 x2 x3 x4 x5 s).2 = blank l s := by
  intro x0 x1 x2 x3 x4 x5 s
  induction x4 generalizing x0 x1 x2 x3 x5 s with
  | nil =>
    unfold writePieces
    (repeat' (split <;> (try (rename_i heq; have hh := congrArg Prod.snd heq; dsimp only at hh; subst hh)))) <;> first | with_reducible rfl | simp (disch := first | assumption | (intro t x; first | with_reducible rfl | simp (disch := assumption) only [↓writeLoc_keeps, ↓renewFirst_keeps, ↓blank_cdus, ↓blank_fp, ↓blank_hostMem, ↓blank_ptns, ↓blank_regs, ↓blank_tens, ↓blank_locs, ↓blank_migs, ↓blank_fresh, ↓blank_stns, ↓blank_spillFreed, ↓blank_emitted, ↓apply_ite (blank l), ↓apply_ite Prod.snd, ite_self] | ((repeat' (split <;> (try (rename_i heq; have hh := congrArg Prod.snd heq; dsimp only at hh; subst hh)))) <;> first | with_reducible rfl | simp (disch := assumption) only [↓writeLoc_keeps, ↓renewFirst_keeps, ↓blank_cdus, ↓blank_fp, ↓blank_hostMem, ↓blank_ptns, ↓blank_regs, ↓blank_tens, ↓blank_locs, ↓blank_migs, ↓blank_fresh, ↓blank_stns, ↓blank_spillFreed, ↓blank_emitted, ↓apply_ite (blank l), ↓apply_ite Prod.snd, ite_self] | rfl))) only [↓writeLoc_keeps, ↓renewFirst_keeps, ↓blank_cdus, ↓blank_fp, ↓blank_hostMem, ↓blank_ptns, ↓blank_regs, ↓blank_tens, ↓blank_locs, ↓blank_migs, ↓blank_fresh, ↓blank_stns, ↓blank_spillFreed, ↓blank_emitted, ↓apply_ite (blank l), ↓apply_ite Prod.snd, ite_self, ↓foldl_keeps, ↓foldr_keeps, ↓forUpTo_keeps, ↓foldl_snd_keeps] | rfl
  | cons a r ih =>
    unfold writePieces
    (repeat' (split <;> (try (rename_i heq; have hh := congrArg Prod.snd heq; dsimp only at hh; subst hh)))) <;> first | with_reducible rfl | simp (disch := first | assumption | (intro t x; first | with_reducible rfl | simp (disch := assumption) only [↓writeLoc_keeps, ↓renewFirst_keeps, ↓blank_cdus, ↓blank_fp, ↓blank_hostMem, ↓blank_ptns, ↓blank_regs, ↓blank_tens, ↓blank_locs, ↓blank_migs, ↓blank_fresh, ↓blank_stns, ↓blank_spillFreed, ↓blank_emitted, ↓apply_ite (blank l), ↓apply_ite Prod.snd, ite_self, ↓ih] | ((repeat' (split <;> (try (rename_i heq; have hh := congrArg Prod.snd heq; dsimp only at hh; subst hh)))) <;> first | with_reducible rfl | simp (disch := assumption) only [↓writeLoc_keeps, ↓renewFirst_keeps, ↓blank_cdus, ↓blank_fp, ↓blank_hostMem, ↓blank_ptns, ↓blank_regs, ↓blank_tens, ↓blank_locs, ↓blank_migs, ↓blank_fresh, ↓blank_stns, ↓blank_spillFreed, ↓blank_emitted, ↓apply_ite (blank l), ↓apply_ite Prod.snd, ite_self, ↓ih] | rfl))) only [↓writeLoc_keeps, ↓renewFirst_keeps, ↓blank_cdus, ↓blank_fp, ↓blank_hostMem, ↓blank_ptns, ↓blank_regs, ↓blank_tens, ↓blank_locs, ↓blank_migs, ↓blank_fresh, ↓blank_stns, ↓blank_spillFreed, ↓blank_emitted, ↓apply_ite (blank l), ↓apply_ite Prod.snd, ite_self, ↓ih, ↓foldl_keeps, ↓foldr_keeps, ↓forUpTo_keeps, ↓foldl_snd_keeps] | rfl

theorem copyChunk_keeps {l : List Comp} (h_regs : Has l .regs) (h_fp : Has l .fp) (h_stns : Has l .stns) (h_ptns : Has l .ptns) (h_migs : Has l .migs) (h_locs : Has l .locs) (h_spillFreed : Has l .spillFreed) (h_movs : Has l .movs) (h_xlate : Has l .xlate) (h_tens : Has l .tens) (h_cdus : Has l .cdus) (h_hostMem : Has l .hostMem) (h_emitted : Has l .emitted) (h_fresh : Has l .fresh) :
    ∀ s x1 x2 x3 x4, blank l (copyChunk s x1 x2 x3 x4).2 = blank l s := by
  intro s x1 x2 x3 x4
  unfold copyChunk
  dsimp only
  apply located_keeps <;> first | assumption | skip
  intro r t
  apply located_keeps <;> first | assumption | skip
  intro r t
  ((repeat' (split <;> (try (rename_i heq; have hh := congrArg Prod.snd heq; dsimp only at hh; subst hh)) <;> (try (rename_i heq; have hh := mustWait_keeps h_regs h_fp h_stns h_ptns h_migs h_locs h_spillFreed h_tens h_cdus h_hostMem h_emitted h_fresh _ _ _ _ _ _ heq)))) <;> first | with_reducible rfl | simp (disch := assumption) only [↓setItem_keeps, ↓readPieces_keeps, ↓located_keeps, ↓writePieces_keeps, ↓blank_cdus, ↓blank_fp, ↓blank_hostMem, ↓blank_ptns, ↓blank_regs, ↓blank_tens, ↓blank_locs, ↓blank_xlate, ↓blank_migs, ↓blank_fresh, ↓blank_movs, ↓blank_stns, ↓blank_spillFreed, ↓blank_emitted, ↓apply_ite (blank l), ↓apply_ite Prod.snd, ite_self, *])

theorem faultItem_keeps {l : List Comp} (h_regs : Has l .regs) (h_stns : Has l .stns) (h_ptns : Has l .ptns) (h_movs : Has l .movs) (h_pool : Has l .pool) (h_plat : Has l .plat) (h_tens : Has l .tens) (h_hostMem : Has l .hostMem) (h_msixHeld : Has l .msixHeld) (h_emitted : Has l .emitted) (h_fresh : Has l .fresh) :
    ∀ s x1 x2 x3, blank l (faultItem s x1 x2 x3) = blank l s := by
  intro s x1 x2 x3
  unfold faultItem
  (repeat' (split)) <;> first | with_reducible rfl | simp (disch := first | assumption | (intro t x; first | with_reducible rfl | simp (disch := assumption) only [↓addSat_keeps, ↓setEvt_keeps, ↓slotStopped_keeps, ↓setItem_keeps, ↓showFault_keeps, ↓finishItem_keeps, ↓apply_ite (blank l), ite_self] | ((repeat' (split)) <;> first | with_reducible rfl | simp (disch := assumption) only [↓addSat_keeps, ↓setEvt_keeps, ↓slotStopped_keeps, ↓setItem_keeps, ↓showFault_keeps, ↓finishItem_keeps, ↓apply_ite (blank l), ite_self] | rfl))) only [↓addSat_keeps, ↓setEvt_keeps, ↓slotStopped_keeps, ↓setItem_keeps, ↓showFault_keeps, ↓finishItem_keeps, ↓apply_ite (blank l), ite_self, ↓foldl_keeps, ↓foldr_keeps, ↓forUpTo_keeps, ↓foldl_snd_keeps]

theorem chunkStop_keeps {l : List Comp} (h_regs : Has l .regs) (h_fp : Has l .fp) (h_stns : Has l .stns) (h_ptns : Has l .ptns) (h_movs : Has l .movs) (h_pool : Has l .pool) (h_plat : Has l .plat) (h_tens : Has l .tens) (h_hostMem : Has l .hostMem) (h_msixHeld : Has l .msixHeld) (h_emitted : Has l .emitted) (h_fresh : Has l .fresh) :
    ∀ s x1 x2 x3, blank l (chunkStop s x1 x2 x3) = blank l s := by
  intro s x1 x2 x3
  unfold chunkStop
  dsimp only
  (repeat' (split)) <;> first | with_reducible rfl | simp (disch := assumption) only [↓finishItem_keeps, ↓ueHit_keeps, ↓faultItem_keeps, ↓apply_ite (blank l), ite_self]

theorem progressTo_keeps {l : List Comp} (h_movs : Has l .movs) :
    ∀ s x1 x2 x3, blank l (progressTo s x1 x2 x3) = blank l s := by
  intro s x1 x2 x3
  unfold progressTo
  (repeat' (split)) <;> first | with_reducible rfl | simp (disch := assumption) only [↓setItem_keeps]

theorem runCopy_keeps {l : List Comp} (h_regs : Has l .regs) (h_fp : Has l .fp) (h_stns : Has l .stns) (h_ptns : Has l .ptns) (h_migs : Has l .migs) (h_locs : Has l .locs) (h_spillFreed : Has l .spillFreed) (h_movs : Has l .movs) (h_xlate : Has l .xlate) (h_pool : Has l .pool) (h_plat : Has l .plat) (h_tens : Has l .tens) (h_cdus : Has l .cdus) (h_hostMem : Has l .hostMem) (h_msixHeld : Has l .msixHeld) (h_emitted : Has l .emitted) (h_fresh : Has l .fresh) :
    ∀ x0 x1 x2 x3 s, blank l (runCopy x0 x1 x2 x3 s) = blank l s := by
  intro x0 x1 x2 x3 s
  induction x3 generalizing x0 x1 x2 s with
  | zero =>
    unfold runCopy
    (repeat' (split <;> (try (rename_i heq; have hh := congrArg Prod.snd heq; dsimp only at hh; subst hh)))) <;> first | with_reducible rfl | simp (disch := first | assumption | (intro t x; first | with_reducible rfl | simp (disch := assumption) only [↓copyChunk_keeps, ↓chunkStop_keeps, ↓progressTo_keeps, ↓apply_ite (blank l), ite_self] | ((repeat' (split <;> (try (rename_i heq; have hh := congrArg Prod.snd heq; dsimp only at hh; subst hh)))) <;> first | with_reducible rfl | simp (disch := assumption) only [↓copyChunk_keeps, ↓chunkStop_keeps, ↓progressTo_keeps, ↓apply_ite (blank l), ite_self] | rfl))) only [↓copyChunk_keeps, ↓chunkStop_keeps, ↓progressTo_keeps, ↓apply_ite (blank l), ite_self, ↓foldl_keeps, ↓foldr_keeps, ↓forUpTo_keeps, ↓foldl_snd_keeps] | rfl
  | succ n ih =>
    unfold runCopy
    dsimp only
    (repeat' (split <;> (try (rename_i heq; have hh := congrArg Prod.snd heq; dsimp only at hh; subst hh)))) <;> first | with_reducible rfl | simp (disch := first | assumption | (intro t x; first | with_reducible rfl | simp (disch := assumption) only [↓copyChunk_keeps, ↓chunkStop_keeps, ↓progressTo_keeps, ↓apply_ite (blank l), ite_self, ↓ih] | ((repeat' (split <;> (try (rename_i heq; have hh := congrArg Prod.snd heq; dsimp only at hh; subst hh)))) <;> first | with_reducible rfl | simp (disch := assumption) only [↓copyChunk_keeps, ↓chunkStop_keeps, ↓progressTo_keeps, ↓apply_ite (blank l), ite_self, ↓ih] | rfl))) only [↓copyChunk_keeps, ↓chunkStop_keeps, ↓progressTo_keeps, ↓apply_ite (blank l), ite_self, ↓ih, ↓foldl_keeps, ↓foldr_keeps, ↓forUpTo_keeps, ↓foldl_snd_keeps] | rfl

theorem readMatrix_keeps {l : List Comp} (h_regs : Has l .regs) (h_fp : Has l .fp) (h_ptns : Has l .ptns) (h_migs : Has l .migs) (h_locs : Has l .locs) (h_xlate : Has l .xlate) (h_tens : Has l .tens) (h_cdus : Has l .cdus) (h_fresh : Has l .fresh) :
    ∀ x0 x1 x2 x3 x4 s, blank l (readMatrix x0 x1 x2 x3 x4 s).2 = blank l s := by
  intro x0 x1 x2 x3 x4 s
  induction x3 generalizing x0 x1 x2 x4 s with
  | zero =>
    unfold readMatrix
    (repeat' (split <;> (try (rename_i heq; have hh := congrArg Prod.snd heq; dsimp only at hh; subst hh)))) <;> first | with_reducible rfl | simp (disch := first | assumption | (intro t x; first | with_reducible rfl | simp (disch := assumption) only [↓readPieces_keeps, ↓located_keeps, ↓apply_ite (blank l), ↓apply_ite Prod.snd, ite_self] | ((repeat' (split <;> (try (rename_i heq; have hh := congrArg Prod.snd heq; dsimp only at hh; subst hh)))) <;> first | with_reducible rfl | simp (disch := assumption) only [↓readPieces_keeps, ↓located_keeps, ↓apply_ite (blank l), ↓apply_ite Prod.snd, ite_self] | rfl))) only [↓readPieces_keeps, ↓located_keeps, ↓apply_ite (blank l), ↓apply_ite Prod.snd, ite_self, ↓foldl_keeps, ↓foldr_keeps, ↓forUpTo_keeps, ↓foldl_snd_keeps] | rfl
  | succ n ih =>
    unfold readMatrix
    dsimp only
    (repeat' (split <;> (try (rename_i heq; have hh := congrArg Prod.snd heq; dsimp only at hh; subst hh)))) <;> first | with_reducible rfl | simp (disch := first | assumption | (intro t x; first | with_reducible rfl | simp (disch := assumption) only [↓readPieces_keeps, ↓located_keeps, ↓apply_ite (blank l), ↓apply_ite Prod.snd, ite_self, ↓ih] | ((repeat' (split <;> (try (rename_i heq; have hh := congrArg Prod.snd heq; dsimp only at hh; subst hh)))) <;> first | with_reducible rfl | simp (disch := assumption) only [↓readPieces_keeps, ↓located_keeps, ↓apply_ite (blank l), ↓apply_ite Prod.snd, ite_self, ↓ih] | rfl))) only [↓readPieces_keeps, ↓located_keeps, ↓apply_ite (blank l), ↓apply_ite Prod.snd, ite_self, ↓ih, ↓foldl_keeps, ↓foldr_keeps, ↓forUpTo_keeps, ↓foldl_snd_keeps] | rfl

theorem makeWrites_keeps {l : List Comp} (h_regs : Has l .regs) (h_fp : Has l .fp) (h_stns : Has l .stns) (h_ptns : Has l .ptns) (h_migs : Has l .migs) (h_locs : Has l .locs) (h_spillFreed : Has l .spillFreed) (h_xlate : Has l .xlate) (h_tens : Has l .tens) (h_cdus : Has l .cdus) (h_hostMem : Has l .hostMem) (h_emitted : Has l .emitted) (h_fresh : Has l .fresh) :
    ∀ x0 x1 x2 x3 x4 s, blank l (makeWrites x0 x1 x2 x3 x4 s).2 = blank l s := by
  intro x0 x1 x2 x3 x4 s
  induction x3 generalizing x0 x1 x2 x4 s with
  | nil =>
    unfold makeWrites
    (repeat' (split <;> (try (rename_i heq; have hh := congrArg Prod.snd heq; dsimp only at hh; subst hh)))) <;> first | with_reducible rfl | simp (disch := first | assumption | (intro t x; first | with_reducible rfl | simp (disch := assumption) only [↓located_keeps, ↓writePieces_keeps, ↓blank_cdus, ↓blank_fp, ↓blank_hostMem, ↓blank_ptns, ↓blank_regs, ↓blank_tens, ↓blank_locs, ↓blank_xlate, ↓blank_migs, ↓blank_fresh, ↓blank_stns, ↓blank_spillFreed, ↓blank_emitted, ↓apply_ite (blank l), ↓apply_ite Prod.snd, ite_self] | ((repeat' (split <;> (try (rename_i heq; have hh := congrArg Prod.snd heq; dsimp only at hh; subst hh)))) <;> first | with_reducible rfl | simp (disch := assumption) only [↓located_keeps, ↓writePieces_keeps, ↓blank_cdus, ↓blank_fp, ↓blank_hostMem, ↓blank_ptns, ↓blank_regs, ↓blank_tens, ↓blank_locs, ↓blank_xlate, ↓blank_migs, ↓blank_fresh, ↓blank_stns, ↓blank_spillFreed, ↓blank_emitted, ↓apply_ite (blank l), ↓apply_ite Prod.snd, ite_self] | rfl))) only [↓located_keeps, ↓writePieces_keeps, ↓blank_cdus, ↓blank_fp, ↓blank_hostMem, ↓blank_ptns, ↓blank_regs, ↓blank_tens, ↓blank_locs, ↓blank_xlate, ↓blank_migs, ↓blank_fresh, ↓blank_stns, ↓blank_spillFreed, ↓blank_emitted, ↓apply_ite (blank l), ↓apply_ite Prod.snd, ite_self, ↓foldl_keeps, ↓foldr_keeps, ↓forUpTo_keeps, ↓foldl_snd_keeps] | rfl
  | cons a r ih =>
    unfold makeWrites
    (repeat' (split <;> (try (rename_i heq; have hh := congrArg Prod.snd heq; dsimp only at hh; subst hh)))) <;> first | with_reducible rfl | simp (disch := first | assumption | (intro t x; first | with_reducible rfl | simp (disch := assumption) only [↓located_keeps, ↓writePieces_keeps, ↓blank_cdus, ↓blank_fp, ↓blank_hostMem, ↓blank_ptns, ↓blank_regs, ↓blank_tens, ↓blank_locs, ↓blank_xlate, ↓blank_migs, ↓blank_fresh, ↓blank_stns, ↓blank_spillFreed, ↓blank_emitted, ↓apply_ite (blank l), ↓apply_ite Prod.snd, ite_self, ↓ih] | ((repeat' (split <;> (try (rename_i heq; have hh := congrArg Prod.snd heq; dsimp only at hh; subst hh)))) <;> first | with_reducible rfl | simp (disch := assumption) only [↓located_keeps, ↓writePieces_keeps, ↓blank_cdus, ↓blank_fp, ↓blank_hostMem, ↓blank_ptns, ↓blank_regs, ↓blank_tens, ↓blank_locs, ↓blank_xlate, ↓blank_migs, ↓blank_fresh, ↓blank_stns, ↓blank_spillFreed, ↓blank_emitted, ↓apply_ite (blank l), ↓apply_ite Prod.snd, ite_self, ↓ih] | rfl))) only [↓located_keeps, ↓writePieces_keeps, ↓blank_cdus, ↓blank_fp, ↓blank_hostMem, ↓blank_ptns, ↓blank_regs, ↓blank_tens, ↓blank_locs, ↓blank_xlate, ↓blank_migs, ↓blank_fresh, ↓blank_stns, ↓blank_spillFreed, ↓blank_emitted, ↓apply_ite (blank l), ↓apply_ite Prod.snd, ite_self, ↓ih, ↓foldl_keeps, ↓foldr_keeps, ↓forUpTo_keeps, ↓foldl_snd_keeps] | rfl

theorem xposeWrite_keeps {l : List Comp} (h_regs : Has l .regs) (h_fp : Has l .fp) (h_stns : Has l .stns) (h_ptns : Has l .ptns) (h_migs : Has l .migs) (h_locs : Has l .locs) (h_spillFreed : Has l .spillFreed) (h_movs : Has l .movs) (h_xlate : Has l .xlate) (h_pool : Has l .pool) (h_plat : Has l .plat) (h_tens : Has l .tens) (h_cdus : Has l .cdus) (h_hostMem : Has l .hostMem) (h_msixHeld : Has l .msixHeld) (h_emitted : Has l .emitted) (h_fresh : Has l .fresh) :
    ∀ s x1 x2 x3 x4 x5, blank l (xposeWrite s x1 x2 x3 x4 x5) = blank l s := by
  intro s x1 x2 x3 x4 x5
  unfold xposeWrite
  (repeat' (split <;> (try (rename_i heq; have hh := congrArg Prod.snd heq; dsimp only at hh; subst hh)))) <;> first | with_reducible rfl | simp (disch := assumption) only [↓setItem_keeps, ↓chunkStop_keeps, ↓makeWrites_keeps]

theorem runXpose_keeps {l : List Comp} (h_regs : Has l .regs) (h_fp : Has l .fp) (h_stns : Has l .stns) (h_ptns : Has l .ptns) (h_migs : Has l .migs) (h_locs : Has l .locs) (h_spillFreed : Has l .spillFreed) (h_movs : Has l .movs) (h_xlate : Has l .xlate) (h_pool : Has l .pool) (h_plat : Has l .plat) (h_tens : Has l .tens) (h_cdus : Has l .cdus) (h_hostMem : Has l .hostMem) (h_msixHeld : Has l .msixHeld) (h_emitted : Has l .emitted) (h_fresh : Has l .fresh) :
    ∀ s x1 x2 x3, blank l (runXpose s x1 x2 x3) = blank l s := by
  intro s x1 x2 x3
  unfold runXpose
  (repeat' (split <;> (try (rename_i heq; have hh := congrArg Prod.snd heq; dsimp only at hh; subst hh)))) <;> first | with_reducible rfl | simp (disch := first | assumption | (intro t x; first | with_reducible rfl | simp (disch := assumption) only [↓chunkStop_keeps, ↓readMatrix_keeps, ↓xposeWrite_keeps, ↓apply_ite (blank l), ite_self] | ((repeat' (split <;> (try (rename_i heq; have hh := congrArg Prod.snd heq; dsimp only at hh; subst hh)))) <;> first | with_reducible rfl | simp (disch := assumption) only [↓chunkStop_keeps, ↓readMatrix_keeps, ↓xposeWrite_keeps, ↓apply_ite (blank l), ite_self] | rfl))) only [↓chunkStop_keeps, ↓readMatrix_keeps, ↓xposeWrite_keeps, ↓apply_ite (blank l), ite_self, ↓foldl_keeps, ↓foldr_keeps, ↓forUpTo_keeps, ↓foldl_snd_keeps]

theorem readSplit_keeps {l : List Comp} (h_regs : Has l .regs) (h_fp : Has l .fp) (h_ptns : Has l .ptns) (h_migs : Has l .migs) (h_locs : Has l .locs) (h_xlate : Has l .xlate) (h_tens : Has l .tens) (h_cdus : Has l .cdus) (h_fresh : Has l .fresh) :
    ∀ x0 x1 x2 x3 x4 x5 s, blank l (readSplit x0 x1 x2 x3 x4 x5 s).2 = blank l s := by
  intro x0 x1 x2 x3 x4 x5 s
  induction x3 generalizing x0 x1 x2 x4 x5 s with
  | zero =>
    unfold readSplit
    (repeat' (split <;> (try (rename_i heq; have hh := congrArg Prod.snd heq; dsimp only at hh; subst hh)))) <;> first | with_reducible rfl | simp (disch := first | assumption | (intro t x; first | with_reducible rfl | simp (disch := assumption) only [↓readLoc_keeps, ↓located_keeps, ↓blank_cdus, ↓blank_fp, ↓blank_ptns, ↓blank_regs, ↓blank_tens, ↓blank_locs, ↓blank_xlate, ↓blank_migs, ↓blank_fresh, ↓apply_ite (blank l), ↓apply_ite Prod.snd, ite_self] | ((repeat' (split <;> (try (rename_i heq; have hh := congrArg Prod.snd heq; dsimp only at hh; subst hh)))) <;> first | with_reducible rfl | simp (disch := assumption) only [↓readLoc_keeps, ↓located_keeps, ↓blank_cdus, ↓blank_fp, ↓blank_ptns, ↓blank_regs, ↓blank_tens, ↓blank_locs, ↓blank_xlate, ↓blank_migs, ↓blank_fresh, ↓apply_ite (blank l), ↓apply_ite Prod.snd, ite_self] | rfl))) only [↓readLoc_keeps, ↓located_keeps, ↓blank_cdus, ↓blank_fp, ↓blank_ptns, ↓blank_regs, ↓blank_tens, ↓blank_locs, ↓blank_xlate, ↓blank_migs, ↓blank_fresh, ↓apply_ite (blank l), ↓apply_ite Prod.snd, ite_self, ↓foldl_keeps, ↓foldr_keeps, ↓forUpTo_keeps, ↓foldl_snd_keeps] | rfl
  | succ n ih =>
    unfold readSplit
    dsimp only
    (repeat' (split <;> (try (rename_i heq; have hh := congrArg Prod.snd heq; dsimp only at hh; subst hh)))) <;> first | with_reducible rfl | simp (disch := first | assumption | (intro t x; first | with_reducible rfl | simp (disch := assumption) only [↓readLoc_keeps, ↓located_keeps, ↓blank_cdus, ↓blank_fp, ↓blank_ptns, ↓blank_regs, ↓blank_tens, ↓blank_locs, ↓blank_xlate, ↓blank_migs, ↓blank_fresh, ↓apply_ite (blank l), ↓apply_ite Prod.snd, ite_self, ↓ih] | ((repeat' (split <;> (try (rename_i heq; have hh := congrArg Prod.snd heq; dsimp only at hh; subst hh)))) <;> first | with_reducible rfl | simp (disch := assumption) only [↓readLoc_keeps, ↓located_keeps, ↓blank_cdus, ↓blank_fp, ↓blank_ptns, ↓blank_regs, ↓blank_tens, ↓blank_locs, ↓blank_xlate, ↓blank_migs, ↓blank_fresh, ↓apply_ite (blank l), ↓apply_ite Prod.snd, ite_self, ↓ih] | rfl))) only [↓readLoc_keeps, ↓located_keeps, ↓blank_cdus, ↓blank_fp, ↓blank_ptns, ↓blank_regs, ↓blank_tens, ↓blank_locs, ↓blank_xlate, ↓blank_migs, ↓blank_fresh, ↓apply_ite (blank l), ↓apply_ite Prod.snd, ite_self, ↓ih, ↓foldl_keeps, ↓foldr_keeps, ↓forUpTo_keeps, ↓foldl_snd_keeps] | rfl

theorem readRows_keeps {l : List Comp} (h_regs : Has l .regs) (h_fp : Has l .fp) (h_ptns : Has l .ptns) (h_migs : Has l .migs) (h_locs : Has l .locs) (h_xlate : Has l .xlate) (h_tens : Has l .tens) (h_cdus : Has l .cdus) (h_fresh : Has l .fresh) :
    ∀ x0 x1 x2 x3 x4 x5 s, blank l (readRows x0 x1 x2 x3 x4 x5 s).2 = blank l s := by
  intro x0 x1 x2 x3 x4 x5 s
  induction x3 generalizing x0 x1 x2 x4 x5 s with
  | zero =>
    unfold readRows
    (repeat' (split <;> (try (rename_i heq; have hh := congrArg Prod.snd heq; dsimp only at hh; subst hh)))) <;> first | with_reducible rfl | simp (disch := first | assumption | (intro t x; first | with_reducible rfl | simp (disch := assumption) only [↓readSplit_keeps, ↓apply_ite (blank l), ↓apply_ite Prod.snd, ite_self] | ((repeat' (split <;> (try (rename_i heq; have hh := congrArg Prod.snd heq; dsimp only at hh; subst hh)))) <;> first | with_reducible rfl | simp (disch := assumption) only [↓readSplit_keeps, ↓apply_ite (blank l), ↓apply_ite Prod.snd, ite_self] | rfl))) only [↓readSplit_keeps, ↓apply_ite (blank l), ↓apply_ite Prod.snd, ite_self, ↓foldl_keeps, ↓foldr_keeps, ↓forUpTo_keeps, ↓foldl_snd_keeps] | rfl
  | succ n ih =>
    unfold readRows
    dsimp only
    (repeat' (split <;> (try (rename_i heq; have hh := congrArg Prod.snd heq; dsimp only at hh; subst hh)))) <;> first | with_reducible rfl | simp (disch := first | assumption | (intro t x; first | with_reducible rfl | simp (disch := assumption) only [↓readSplit_keeps, ↓apply_ite (blank l), ↓apply_ite Prod.snd, ite_self, ↓ih] | ((repeat' (split <;> (try (rename_i heq; have hh := congrArg Prod.snd heq; dsimp only at hh; subst hh)))) <;> first | with_reducible rfl | simp (disch := assumption) only [↓readSplit_keeps, ↓apply_ite (blank l), ↓apply_ite Prod.snd, ite_self, ↓ih] | rfl))) only [↓readSplit_keeps, ↓apply_ite (blank l), ↓apply_ite Prod.snd, ite_self, ↓ih, ↓foldl_keeps, ↓foldr_keeps, ↓forUpTo_keeps, ↓foldl_snd_keeps] | rfl

theorem writeLines_keeps {l : List Comp} (h_regs : Has l .regs) (h_fp : Has l .fp) (h_stns : Has l .stns) (h_ptns : Has l .ptns) (h_migs : Has l .migs) (h_locs : Has l .locs) (h_spillFreed : Has l .spillFreed) (h_tens : Has l .tens) (h_cdus : Has l .cdus) (h_hostMem : Has l .hostMem) (h_emitted : Has l .emitted) (h_fresh : Has l .fresh) :
    ∀ x0 x1 x2 x3 x4 s, blank l (writeLines x0 x1 x2 x3 x4 s).2 = blank l s := by
  intro x0 x1 x2 x3 x4 s
  induction x3 generalizing x0 x1 x2 x4 s with
  | zero =>
    unfold writeLines
    (repeat' (split <;> (try (rename_i heq; have hh := congrArg Prod.snd heq; dsimp only at hh; subst hh)))) <;> first | with_reducible rfl | simp (disch := first | assumption | (intro t x; first | with_reducible rfl | simp (disch := assumption) only [↓writeLoc_keeps, ↓blank_fresh, ↓apply_ite (blank l), ↓apply_ite Prod.snd, ite_self] | ((repeat' (split <;> (try (rename_i heq; have hh := congrArg Prod.snd heq; dsimp only at hh; subst hh)))) <;> first | with_reducible rfl | simp (disch := assumption) only [↓writeLoc_keeps, ↓blank_fresh, ↓apply_ite (blank l), ↓apply_ite Prod.snd, ite_self] | rfl))) only [↓writeLoc_keeps, ↓blank_fresh, ↓apply_ite (blank l), ↓apply_ite Prod.snd, ite_self, ↓foldl_keeps, ↓foldr_keeps, ↓forUpTo_keeps, ↓foldl_snd_keeps] | rfl
  | succ n ih =>
    unfold writeLines
    dsimp only
    (repeat' (split <;> (try (rename_i heq; have hh := congrArg Prod.snd heq; dsimp only at hh; subst hh)))) <;> first | with_reducible rfl | simp (disch := first | assumption | (intro t x; first | with_reducible rfl | simp (disch := assumption) only [↓writeLoc_keeps, ↓blank_fresh, ↓apply_ite (blank l), ↓apply_ite Prod.snd, ite_self, ↓ih] | ((repeat' (split <;> (try (rename_i heq; have hh := congrArg Prod.snd heq; dsimp only at hh; subst hh)))) <;> first | with_reducible rfl | simp (disch := assumption) only [↓writeLoc_keeps, ↓blank_fresh, ↓apply_ite (blank l), ↓apply_ite Prod.snd, ite_self, ↓ih] | rfl))) only [↓writeLoc_keeps, ↓blank_fresh, ↓apply_ite (blank l), ↓apply_ite Prod.snd, ite_self, ↓ih, ↓foldl_keeps, ↓foldr_keeps, ↓forUpTo_keeps, ↓foldl_snd_keeps] | rfl

theorem runSkew_keeps {l : List Comp} (h_regs : Has l .regs) (h_fp : Has l .fp) (h_stns : Has l .stns) (h_ptns : Has l .ptns) (h_migs : Has l .migs) (h_locs : Has l .locs) (h_spillFreed : Has l .spillFreed) (h_movs : Has l .movs) (h_xlate : Has l .xlate) (h_pool : Has l .pool) (h_plat : Has l .plat) (h_tens : Has l .tens) (h_cdus : Has l .cdus) (h_hostMem : Has l .hostMem) (h_msixHeld : Has l .msixHeld) (h_emitted : Has l .emitted) (h_fresh : Has l .fresh) :
    ∀ x0 x1 x2 x3 x4 s, blank l (runSkew x0 x1 x2 x3 x4 s) = blank l s := by
  intro x0 x1 x2 x3 x4 s
  induction x3 generalizing x0 x1 x2 x4 s with
  | zero =>
    unfold runSkew
    (repeat' (split <;> (try (rename_i heq; have hh := congrArg Prod.snd heq; dsimp only at hh; subst hh)))) <;> first | with_reducible rfl | simp (disch := first | assumption | (intro t x; first | with_reducible rfl | simp (disch := assumption) only [↓setItem_keeps, ↓chunkStop_keeps, ↓readRows_keeps, ↓writeLines_keeps, ↓apply_ite (blank l), ite_self] | ((repeat' (split <;> (try (rename_i heq; have hh := congrArg Prod.snd heq; dsimp only at hh; subst hh)))) <;> first | with_reducible rfl | simp (disch := assumption) only [↓setItem_keeps, ↓chunkStop_keeps, ↓readRows_keeps, ↓writeLines_keeps, ↓apply_ite (blank l), ite_self] | rfl))) only [↓setItem_keeps, ↓chunkStop_keeps, ↓readRows_keeps, ↓writeLines_keeps, ↓apply_ite (blank l), ite_self, ↓foldl_keeps, ↓foldr_keeps, ↓forUpTo_keeps, ↓foldl_snd_keeps] | rfl
  | succ n ih =>
    unfold runSkew
    dsimp only
    (repeat' (split <;> (try (rename_i heq; have hh := congrArg Prod.snd heq; dsimp only at hh; subst hh)))) <;> first | with_reducible rfl | simp (disch := first | assumption | (intro t x; first | with_reducible rfl | simp (disch := assumption) only [↓setItem_keeps, ↓chunkStop_keeps, ↓readRows_keeps, ↓writeLines_keeps, ↓apply_ite (blank l), ite_self, ↓ih] | ((repeat' (split <;> (try (rename_i heq; have hh := congrArg Prod.snd heq; dsimp only at hh; subst hh)))) <;> first | with_reducible rfl | simp (disch := assumption) only [↓setItem_keeps, ↓chunkStop_keeps, ↓readRows_keeps, ↓writeLines_keeps, ↓apply_ite (blank l), ite_self, ↓ih] | rfl))) only [↓setItem_keeps, ↓chunkStop_keeps, ↓readRows_keeps, ↓writeLines_keeps, ↓apply_ite (blank l), ite_self, ↓ih, ↓foldl_keeps, ↓foldr_keeps, ↓forUpTo_keeps, ↓foldl_snd_keeps] | rfl

theorem resumeSkew_keeps {l : List Comp} (h_regs : Has l .regs) (h_fp : Has l .fp) (h_stns : Has l .stns) (h_ptns : Has l .ptns) (h_migs : Has l .migs) (h_locs : Has l .locs) (h_spillFreed : Has l .spillFreed) (h_movs : Has l .movs) (h_xlate : Has l .xlate) (h_pool : Has l .pool) (h_plat : Has l .plat) (h_tens : Has l .tens) (h_cdus : Has l .cdus) (h_hostMem : Has l .hostMem) (h_msixHeld : Has l .msixHeld) (h_emitted : Has l .emitted) (h_fresh : Has l .fresh) :
    ∀ s x1 x2 x3, blank l (resumeSkew s x1 x2 x3) = blank l s := by
  intro s x1 x2 x3
  unfold resumeSkew
  dsimp only
  (repeat' (split <;> (try (rename_i heq; have hh := congrArg Prod.snd heq; dsimp only at hh; subst hh)))) <;> first | with_reducible rfl | simp (disch := assumption) only [↓chunkStop_keeps, ↓readRows_keeps, ↓runSkew_keeps]

theorem runItem_keeps {l : List Comp} (h_regs : Has l .regs) (h_fp : Has l .fp) (h_stns : Has l .stns) (h_ptns : Has l .ptns) (h_migs : Has l .migs) (h_locs : Has l .locs) (h_spillFreed : Has l .spillFreed) (h_movs : Has l .movs) (h_xlate : Has l .xlate) (h_pool : Has l .pool) (h_plat : Has l .plat) (h_tens : Has l .tens) (h_cdus : Has l .cdus) (h_hostMem : Has l .hostMem) (h_msixHeld : Has l .msixHeld) (h_emitted : Has l .emitted) (h_fresh : Has l .fresh) :
    ∀ s x1 x2 x3, blank l (runItem s x1 x2 x3) = blank l s := by
  intro s x1 x2 x3
  unfold runItem
  (repeat' (split)) <;> first | with_reducible rfl | simp (disch := assumption) only [↓runCopy_keeps, ↓runXpose_keeps, ↓resumeSkew_keeps, ↓apply_ite (blank l), ite_self]

theorem moverRun_keeps {l : List Comp} (h_regs : Has l .regs) (h_fp : Has l .fp) (h_stns : Has l .stns) (h_ptns : Has l .ptns) (h_migs : Has l .migs) (h_locs : Has l .locs) (h_spillFreed : Has l .spillFreed) (h_movs : Has l .movs) (h_xlate : Has l .xlate) (h_pool : Has l .pool) (h_plat : Has l .plat) (h_tens : Has l .tens) (h_cdus : Has l .cdus) (h_hostMem : Has l .hostMem) (h_msixHeld : Has l .msixHeld) (h_emitted : Has l .emitted) (h_fresh : Has l .fresh) :
    ∀ x0 x1 x2 s, blank l (moverRun x0 x1 x2 s) = blank l s := by
  intro x0 x1 x2 s
  unfold moverRun
  (repeat' (split)) <;> first | with_reducible rfl | simp (disch := first | assumption | (intro t x; first | with_reducible rfl | simp (disch := assumption) only [↓setStn_keeps, ↓setItem_keeps, ↓finishItem_keeps, ↓runItem_keeps, ↓apply_ite (blank l), ite_self] | ((repeat' (split)) <;> first | with_reducible rfl | simp (disch := assumption) only [↓setStn_keeps, ↓setItem_keeps, ↓finishItem_keeps, ↓runItem_keeps, ↓apply_ite (blank l), ite_self] | rfl))) only [↓setStn_keeps, ↓setItem_keeps, ↓finishItem_keeps, ↓runItem_keeps, ↓apply_ite (blank l), ite_self, ↓foldl_keeps, ↓foldr_keeps, ↓forUpTo_keeps, ↓foldl_snd_keeps]

theorem effCopy_keeps {l : List Comp} (h_regs : Has l .regs) (h_fp : Has l .fp) (h_stns : Has l .stns) (h_ptns : Has l .ptns) (h_migs : Has l .migs) (h_locs : Has l .locs) (h_spillFreed : Has l .spillFreed) (h_movs : Has l .movs) (h_xlate : Has l .xlate) (h_pool : Has l .pool) (h_plat : Has l .plat) (h_tens : Has l .tens) (h_cdus : Has l .cdus) (h_hostMem : Has l .hostMem) (h_msixHeld : Has l .msixHeld) (h_emitted : Has l .emitted) (h_fresh : Has l .fresh) :
    ∀ x0 x1 s, blank l (effCopy x0 x1 s) = blank l s := by
  intro x0 x1 s
  unfold effCopy
  simp (disch := assumption) only [↓moverRun_keeps]

theorem effSkew_keeps {l : List Comp} (h_regs : Has l .regs) (h_fp : Has l .fp) (h_stns : Has l .stns) (h_ptns : Has l .ptns) (h_migs : Has l .migs) (h_locs : Has l .locs) (h_spillFreed : Has l .spillFreed) (h_movs : Has l .movs) (h_xlate : Has l .xlate) (h_pool : Has l .pool) (h_plat : Has l .plat) (h_tens : Has l .tens) (h_cdus : Has l .cdus) (h_hostMem : Has l .hostMem) (h_msixHeld : Has l .msixHeld) (h_emitted : Has l .emitted) (h_fresh : Has l .fresh) :
    ∀ x0 x1 s, blank l (effSkew x0 x1 s) = blank l s := by
  intro x0 x1 s
  unfold effSkew
  simp (disch := assumption) only [↓moverRun_keeps]

theorem effXpose_keeps {l : List Comp} (h_regs : Has l .regs) (h_fp : Has l .fp) (h_stns : Has l .stns) (h_ptns : Has l .ptns) (h_migs : Has l .migs) (h_locs : Has l .locs) (h_spillFreed : Has l .spillFreed) (h_movs : Has l .movs) (h_xlate : Has l .xlate) (h_pool : Has l .pool) (h_plat : Has l .plat) (h_tens : Has l .tens) (h_cdus : Has l .cdus) (h_hostMem : Has l .hostMem) (h_msixHeld : Has l .msixHeld) (h_emitted : Has l .emitted) (h_fresh : Has l .fresh) :
    ∀ x0 x1 s, blank l (effXpose x0 x1 s) = blank l s := by
  intro x0 x1 s
  unfold effXpose
  simp (disch := assumption) only [↓moverRun_keeps]

theorem effDescriptorComplete_keeps {l : List Comp} (h_regs : Has l .regs) (h_stns : Has l .stns) (h_ptns : Has l .ptns) (h_movs : Has l .movs) (h_pool : Has l .pool) (h_plat : Has l .plat) (h_tens : Has l .tens) (h_hostMem : Has l .hostMem) (h_msixHeld : Has l .msixHeld) (h_emitted : Has l .emitted) (h_fresh : Has l .fresh) :
    ∀ x0 s, blank l (effDescriptorComplete x0 s) = blank l s := by
  intro x0 s
  unfold effDescriptorComplete
  (repeat' (split)) <;> first | with_reducible rfl | simp (disch := first | assumption | (intro t x; first | with_reducible rfl | simp (disch := assumption) only [↓finishItem_keeps, ↓postAll_keeps, ↓apply_ite (blank l), ite_self] | ((repeat' (split)) <;> first | with_reducible rfl | simp (disch := assumption) only [↓finishItem_keeps, ↓postAll_keeps, ↓apply_ite (blank l), ite_self] | rfl))) only [↓finishItem_keeps, ↓postAll_keeps, ↓apply_ite (blank l), ite_self, ↓foldl_keeps, ↓foldr_keeps, ↓forUpTo_keeps, ↓foldl_snd_keeps]

theorem resolveFault_keeps {l : List Comp} (h_regs : Has l .regs) (h_stns : Has l .stns) (h_ptns : Has l .ptns) (h_movs : Has l .movs) (h_pool : Has l .pool) (h_plat : Has l .plat) (h_tens : Has l .tens) (h_hostMem : Has l .hostMem) (h_msixHeld : Has l .msixHeld) (h_emitted : Has l .emitted) (h_fresh : Has l .fresh) :
    ∀ s x1 x2, blank l (resolveFault s x1 x2) = blank l s := by
  intro s x1 x2
  unfold resolveFault
  (repeat' (split)) <;> first | with_reducible rfl | simp (disch := assumption) only [↓wr_keeps, ↓setItem_keeps, ↓showFault_keeps, ↓unshow_keeps, ↓finishItem_keeps, ↓apply_ite (blank l), ite_self]

theorem fltCmd_keeps {l : List Comp} (h_regs : Has l .regs) (h_stns : Has l .stns) (h_ptns : Has l .ptns) (h_movs : Has l .movs) (h_pool : Has l .pool) (h_plat : Has l .plat) (h_tens : Has l .tens) (h_hostMem : Has l .hostMem) (h_msixHeld : Has l .msixHeld) (h_emitted : Has l .emitted) (h_fresh : Has l .fresh) :
    ∀ x0 x1 x2 s, blank l (fltCmd x0 x1 x2 s) = blank l s := by
  intro x0 x1 x2 s
  unfold fltCmd
  simp (disch := first | assumption | (intros; (first | with_reducible rfl | simp (disch := assumption) only [↓setErr_keeps, ↓withWrite_keeps, ↓resolveFault_keeps, ↓blank_pool, ↓blank_hostMem, ↓blank_plat, ↓blank_pool_fresh, ↓blank_ptns, ↓blank_regs, ↓blank_tens, ↓blank_msixHeld, ↓blank_fresh, ↓blank_movs, ↓blank_stns, ↓blank_emitted, ↓apply_ite (blank l), ↓apply_ite Prod.snd, ite_self] | (try dsimp only; (repeat' (split)) <;> first | done | with_reducible rfl | simp (disch := assumption) only [↓setErr_keeps, ↓withWrite_keeps, ↓resolveFault_keeps, ↓blank_pool, ↓blank_hostMem, ↓blank_plat, ↓blank_pool_fresh, ↓blank_ptns, ↓blank_regs, ↓blank_tens, ↓blank_msixHeld, ↓blank_fresh, ↓blank_movs, ↓blank_stns, ↓blank_emitted, ↓apply_ite (blank l), ↓apply_ite Prod.snd, ite_self] | rfl)))) only [↓setErr_keeps, ↓withWrite_keeps, ↓resolveFault_keeps, ↓blank_pool, ↓blank_hostMem, ↓blank_plat, ↓blank_pool_fresh, ↓blank_ptns, ↓blank_regs, ↓blank_tens, ↓blank_msixHeld, ↓blank_fresh, ↓blank_movs, ↓blank_stns, ↓blank_emitted, ↓apply_ite (blank l), ↓apply_ite Prod.snd, ite_self, ↓foldl_keeps, ↓foldr_keeps, ↓forUpTo_keeps, ↓foldl_snd_keeps]

theorem effFltCmdResume_keeps {l : List Comp} (h_regs : Has l .regs) (h_stns : Has l .stns) (h_ptns : Has l .ptns) (h_movs : Has l .movs) (h_pool : Has l .pool) (h_plat : Has l .plat) (h_tens : Has l .tens) (h_hostMem : Has l .hostMem) (h_msixHeld : Has l .msixHeld) (h_emitted : Has l .emitted) (h_fresh : Has l .fresh) :
    ∀ x0 x1 s, blank l (effFltCmdResume x0 x1 s) = blank l s := by
  intro x0 x1 s
  unfold effFltCmdResume
  simp (disch := assumption) only [↓fltCmd_keeps]

theorem effFltCmdAbort_keeps {l : List Comp} (h_regs : Has l .regs) (h_stns : Has l .stns) (h_ptns : Has l .ptns) (h_movs : Has l .movs) (h_pool : Has l .pool) (h_plat : Has l .plat) (h_tens : Has l .tens) (h_hostMem : Has l .hostMem) (h_msixHeld : Has l .msixHeld) (h_emitted : Has l .emitted) (h_fresh : Has l .fresh) :
    ∀ x0 x1 s, blank l (effFltCmdAbort x0 x1 s) = blank l s := by
  intro x0 x1 s
  unfold effFltCmdAbort
  simp (disch := assumption) only [↓fltCmd_keeps]

theorem effFaultTimeout_keeps {l : List Comp} (h_regs : Has l .regs) (h_stns : Has l .stns) (h_ptns : Has l .ptns) (h_movs : Has l .movs) (h_pool : Has l .pool) (h_plat : Has l .plat) (h_tens : Has l .tens) (h_hostMem : Has l .hostMem) (h_msixHeld : Has l .msixHeld) (h_emitted : Has l .emitted) (h_fresh : Has l .fresh) :
    ∀ x0 s, blank l (effFaultTimeout x0 s) = blank l s := by
  intro x0 s
  unfold effFaultTimeout
  (repeat' (split)) <;> first | with_reducible rfl | simp (disch := assumption) only [↓resolveFault_keeps, ↓apply_ite (blank l), ite_self]

theorem effInvGo_keeps {l : List Comp} (h_regs : Has l .regs) (h_movs : Has l .movs) (h_xlate : Has l .xlate) (h_msixHeld : Has l .msixHeld) (h_emitted : Has l .emitted) :
    ∀ x0 x1 s, blank l (effInvGo x0 x1 s) = blank l s := by
  intro x0 x1 s
  unfold effInvGo
  simp (disch := first | assumption | (intros; (first | with_reducible rfl | simp (disch := assumption) only [↓wr_keeps, ↓withWrite_keeps, ↓setMov_keeps, ↓blank_regs, ↓blank_msixHeld, ↓blank_xlate, ↓blank_movs, ↓blank_emitted, ↓apply_ite (blank l), ↓apply_ite Prod.snd, ite_self] | (try dsimp only; (repeat' (split)) <;> first | done | with_reducible rfl | simp (disch := assumption) only [↓wr_keeps, ↓withWrite_keeps, ↓setMov_keeps, ↓blank_regs, ↓blank_msixHeld, ↓blank_xlate, ↓blank_movs, ↓blank_emitted, ↓apply_ite (blank l), ↓apply_ite Prod.snd, ite_self] | rfl)))) only [↓wr_keeps, ↓withWrite_keeps, ↓setMov_keeps, ↓blank_regs, ↓blank_msixHeld, ↓blank_xlate, ↓blank_movs, ↓blank_emitted, ↓apply_ite (blank l), ↓apply_ite Prod.snd, ite_self, ↓foldl_keeps, ↓foldr_keeps, ↓forUpTo_keeps, ↓foldl_snd_keeps]

theorem effInvalidationDone_keeps {l : List Comp} (h_regs : Has l .regs) (h_movs : Has l .movs) (h_msixHeld : Has l .msixHeld) (h_emitted : Has l .emitted) :
    ∀ x0 s, blank l (effInvalidationDone x0 s) = blank l s := by
  intro x0 s
  unfold effInvalidationDone
  simp (disch := assumption) only [↓wr_keeps, ↓setEvt_keeps, ↓setMov_keeps, ↓apply_ite (blank l), ite_self]

end Sys2Proof.Machine
end

