-- ==== Sys2Proof/Laws/KeepTrvCore.lean ====
section
/-! SUPPORT. What each operation of Machine/TrvCore.lean leaves as it was. -/

set_option linter.unusedSimpArgs false

namespace Sys2Proof.Machine

theorem leavePort_keeps {l : List Comp} (h_trv : Has l .trv) :
    ∀ s x1, blank l (leavePort s x1) = blank l s := by
  intro s x1
  unfold leavePort
  simp (disch := assumption) only [↓blank_trv, ↓apply_ite (blank l), ite_self]

theorem closeWitness_keeps {l : List Comp} (h_regs : Has l .regs) (h_pool : Has l .pool) (h_tens : Has l .tens) (h_trv : Has l .trv) (h_msixHeld : Has l .msixHeld) (h_emitted : Has l .emitted) (h_fresh : Has l .fresh) :
    ∀ s x1, blank l (closeWitness s x1) = blank l s := by
  intro s x1
  unfold closeWitness
  simp (disch := assumption) only [↓bumpHealth_keeps, ↓hwPost_keeps, ↓blank_trv, ↓apply_ite (blank l), ite_self]

theorem openWitness_keeps {l : List Comp} (h_regs : Has l .regs) (h_trv : Has l .trv) (h_msixHeld : Has l .msixHeld) (h_emitted : Has l .emitted) :
    ∀ s x1 x2 x3, blank l (openWitness s x1 x2 x3) = blank l s := by
  intro s x1 x2 x3
  unfold openWitness
  simp (disch := assumption) only [↓addSat_keeps, ↓emit_keeps, ↓setEvt_keeps, ↓blank_trv, ↓apply_ite (blank l), ite_self]

theorem report_keeps {l : List Comp} (h_regs : Has l .regs) (h_pool : Has l .pool) (h_tens : Has l .tens) (h_trv : Has l .trv) (h_msixHeld : Has l .msixHeld) (h_emitted : Has l .emitted) (h_fresh : Has l .fresh) :
    ∀ s x1 x2 x3, blank l (report s x1 x2 x3) = blank l s := by
  intro s x1 x2 x3
  unfold report
  (repeat' (split)) <;> first | with_reducible rfl | simp (disch := assumption) only [↓closeWitness_keeps, ↓openWitness_keeps, ↓blank_trv, ↓apply_ite (blank l), ite_self]

theorem setTrvItem_keeps {l : List Comp} (h_trv : Has l .trv) :
    ∀ s x1 x2, blank l (setTrvItem s x1 x2) = blank l s := by
  intro s x1 x2
  unfold setTrvItem
  simp (disch := assumption) only [↓setTrc_keeps]

theorem countTrv_keeps {l : List Comp} (h_regs : Has l .regs) :
    ∀ s x1 x2 x3, blank l (countTrv s x1 x2 x3) = blank l s := by
  intro s x1 x2 x3
  unfold countTrv
  simp (disch := assumption) only [↓addSat_keeps, ↓apply_ite (blank l), ite_self]

theorem postTrv_keeps {l : List Comp} (h_regs : Has l .regs) (h_ptns : Has l .ptns) (h_pool : Has l .pool) (h_plat : Has l .plat) (h_tens : Has l .tens) (h_trv : Has l .trv) (h_hostMem : Has l .hostMem) (h_msixHeld : Has l .msixHeld) (h_emitted : Has l .emitted) (h_fresh : Has l .fresh) :
    ∀ x0 x1 s, blank l (postTrv x0 x1 s) = blank l s := by
  intro x0 x1 s
  induction x1 generalizing x0 s with
  | zero =>
    unfold postTrv
    (repeat' (split)) <;> first | with_reducible rfl | simp (disch := first | assumption | (intro t x; first | with_reducible rfl | simp (disch := assumption) only [↓setTrc_keeps, ↓postReserved_keeps, ↓countTrv_keeps, ↓blank_pool, ↓blank_hostMem, ↓blank_plat, ↓blank_pool_fresh, ↓blank_trv, ↓blank_ptns, ↓blank_regs, ↓blank_tens, ↓blank_msixHeld, ↓blank_fresh, ↓blank_emitted, ↓apply_ite (blank l), ↓apply_ite Prod.snd, ite_self] | ((repeat' (split)) <;> first | with_reducible rfl | simp (disch := assumption) only [↓setTrc_keeps, ↓postReserved_keeps, ↓countTrv_keeps, ↓blank_pool, ↓blank_hostMem, ↓blank_plat, ↓blank_pool_fresh, ↓blank_trv, ↓blank_ptns, ↓blank_regs, ↓blank_tens, ↓blank_msixHeld, ↓blank_fresh, ↓blank_emitted, ↓apply_ite (blank l), ↓apply_ite Prod.snd, ite_self] | rfl))) only [↓setTrc_keeps, ↓postReserved_keeps, ↓countTrv_keeps, ↓blank_pool, ↓blank_hostMem, ↓blank_plat, ↓blank_pool_fresh, ↓blank_trv, ↓blank_ptns, ↓blank_regs, ↓blank_tens, ↓blank_msixHeld, ↓blank_fresh, ↓blank_emitted, ↓apply_ite (blank l), ↓apply_ite Prod.snd, ite_self, ↓foldl_keeps, ↓foldr_keeps, ↓forUpTo_keeps, ↓foldl_snd_keeps] | rfl
  | succ n ih =>
    unfold postTrv
    (repeat' (split)) <;> first | with_reducible rfl | simp (disch := first | assumption | (intro t x; first | with_reducible rfl | simp (disch := assumption) only [↓setTrc_keeps, ↓postReserved_keeps, ↓countTrv_keeps, ↓blank_pool, ↓blank_hostMem, ↓blank_plat, ↓blank_pool_fresh, ↓blank_trv, ↓blank_ptns, ↓blank_regs, ↓blank_tens, ↓blank_msixHeld, ↓blank_fresh, ↓blank_emitted, ↓apply_ite (blank l), ↓apply_ite Prod.snd, ite_self, ↓ih] | ((repeat' (split)) <;> first | with_reducible rfl | simp (disch := assumption) only [↓setTrc_keeps, ↓postReserved_keeps, ↓countTrv_keeps, ↓blank_pool, ↓blank_hostMem, ↓blank_plat, ↓blank_pool_fresh, ↓blank_trv, ↓blank_ptns, ↓blank_regs, ↓blank_tens, ↓blank_msixHeld, ↓blank_fresh, ↓blank_emitted, ↓apply_ite (blank l), ↓apply_ite Prod.snd, ite_self, ↓ih] | rfl))) only [↓setTrc_keeps, ↓postReserved_keeps, ↓countTrv_keeps, ↓blank_pool, ↓blank_hostMem, ↓blank_plat, ↓blank_pool_fresh, ↓blank_trv, ↓blank_ptns, ↓blank_regs, ↓blank_tens, ↓blank_msixHeld, ↓blank_fresh, ↓blank_emitted, ↓apply_ite (blank l), ↓apply_ite Prod.snd, ite_self, ↓ih, ↓foldl_keeps, ↓foldr_keeps, ↓forUpTo_keeps, ↓foldl_snd_keeps] | rfl

theorem decideTrv_keeps {l : List Comp} (h_trv : Has l .trv) :
    ∀ s x1 x2 x3 x4 x5, blank l (decideTrv s x1 x2 x3 x4 x5) = blank l s := by
  intro s x1 x2 x3 x4 x5
  unfold decideTrv
  simp (disch := assumption) only [↓setTrvItem_keeps]

theorem trvReport_keeps {l : List Comp} (h_regs : Has l .regs) (h_pool : Has l .pool) (h_tens : Has l .tens) (h_trv : Has l .trv) (h_msixHeld : Has l .msixHeld) (h_emitted : Has l .emitted) (h_fresh : Has l .fresh) :
    ∀ s x1 x2 x3, blank l (trvReport s x1 x2 x3) = blank l s := by
  intro s x1 x2 x3
  unfold trvReport
  simp (disch := assumption) only [↓report_keeps, ↓apply_ite (blank l), ite_self]

theorem endOne_keeps {l : List Comp} (h_regs : Has l .regs) (h_pool : Has l .pool) (h_tens : Has l .tens) (h_trv : Has l .trv) (h_msixHeld : Has l .msixHeld) (h_emitted : Has l .emitted) (h_fresh : Has l .fresh) :
    ∀ s x1 x2 x3 x4 x5, blank l (endOne s x1 x2 x3 x4 x5) = blank l s := by
  intro s x1 x2 x3 x4 x5
  unfold endOne
  simp (disch := assumption) only [↓decideTrv_keeps, ↓trvReport_keeps]

theorem endTrv_keeps {l : List Comp} (h_regs : Has l .regs) (h_pool : Has l .pool) (h_tens : Has l .tens) (h_trv : Has l .trv) (h_msixHeld : Has l .msixHeld) (h_emitted : Has l .emitted) (h_fresh : Has l .fresh) :
    ∀ s x1 x2 x3 x4, blank l (endTrv s x1 x2 x3 x4) = blank l s := by
  intro s x1 x2 x3 x4
  unfold endTrv
  dsimp only
  rw [foldl_keeps]
  · simp (disch := assumption) only [↓endOne_keeps, ↓blank_pool, ↓blank_pool_fresh, ↓blank_trv, ↓blank_regs, ↓blank_tens, ↓blank_msixHeld, ↓blank_fresh, ↓blank_emitted, ↓apply_ite (blank l), ↓apply_ite Prod.snd, ite_self]
  · intro t x
    refine foldl_keeps _ (fun t x => ?_) _ _
    ((repeat' (split)) <;> first | with_reducible rfl | simp (disch := assumption) only [↓endOne_keeps, ↓blank_pool, ↓blank_pool_fresh, ↓blank_trv, ↓blank_regs, ↓blank_tens, ↓blank_msixHeld, ↓blank_fresh, ↓blank_emitted, ↓apply_ite (blank l), ↓apply_ite Prod.snd, ite_self])

theorem postTrvAll_keeps {l : List Comp} (h_regs : Has l .regs) (h_ptns : Has l .ptns) (h_pool : Has l .pool) (h_plat : Has l .plat) (h_tens : Has l .tens) (h_trv : Has l .trv) (h_hostMem : Has l .hostMem) (h_msixHeld : Has l .msixHeld) (h_emitted : Has l .emitted) (h_fresh : Has l .fresh) :
    ∀ s, blank l (postTrvAll s) = blank l s := by
  intro s
  unfold postTrvAll
  (repeat' (split)) <;> first | with_reducible rfl | simp (disch := first | assumption | (intro t x; first | with_reducible rfl | simp (disch := assumption) only [↓postTrv_keeps] | ((repeat' (split)) <;> first | with_reducible rfl | simp (disch := assumption) only [↓postTrv_keeps] | rfl))) only [↓postTrv_keeps, ↓foldl_keeps, ↓foldr_keeps, ↓forUpTo_keeps, ↓foldl_snd_keeps]

theorem dropBarrier_keeps {l : List Comp} (h_regs : Has l .regs) (h_mer : Has l .mer) (h_trv : Has l .trv) :
    ∀ s x1, blank l (dropBarrier s x1) = blank l s := by
  intro s x1
  unfold dropBarrier
  (repeat' (split)) <;> first | with_reducible rfl | simp (disch := first | assumption | (intro t x; first | with_reducible rfl | simp (disch := assumption) only [↓disarmTrigger_keeps, ↓blank_trv] | ((repeat' (split)) <;> first | with_reducible rfl | simp (disch := assumption) only [↓disarmTrigger_keeps, ↓blank_trv] | rfl))) only [↓disarmTrigger_keeps, ↓blank_trv, ↓foldl_keeps, ↓foldr_keeps, ↓forUpTo_keeps, ↓foldl_snd_keeps]

theorem endWhere_keeps {l : List Comp} (h_regs : Has l .regs) (h_ptns : Has l .ptns) (h_pool : Has l .pool) (h_mer : Has l .mer) (h_plat : Has l .plat) (h_tens : Has l .tens) (h_trv : Has l .trv) (h_hostMem : Has l .hostMem) (h_msixHeld : Has l .msixHeld) (h_emitted : Has l .emitted) (h_fresh : Has l .fresh) :
    ∀ s x1 x2, blank l (endWhere s x1 x2) = blank l s := by
  intro s x1 x2
  unfold endWhere
  refine (postTrvAll_keeps h_regs h_ptns h_pool h_plat h_tens h_trv h_hostMem h_msixHeld h_emitted h_fresh _).trans ?_
  refine foldl_keeps _ (fun t x => foldl_keeps _ (fun t x => ?_) _ _) _ _
  ((repeat' (split)) <;> first | with_reducible rfl | simp (disch := assumption) only [↓endOne_keeps, ↓postTrvAll_keeps, ↓dropBarrier_keeps, ↓blank_pool, ↓blank_hostMem, ↓blank_plat, ↓blank_pool_fresh, ↓blank_trv, ↓blank_ptns, ↓blank_regs, ↓blank_tens, ↓blank_msixHeld, ↓blank_mer, ↓blank_fresh, ↓blank_emitted, ↓apply_ite (blank l), ↓apply_ite Prod.snd, ite_self])

theorem trcReset_keeps {l : List Comp} (h_regs : Has l .regs) (h_ptns : Has l .ptns) (h_pool : Has l .pool) (h_mer : Has l .mer) (h_plat : Has l .plat) (h_tens : Has l .tens) (h_trv : Has l .trv) (h_hostMem : Has l .hostMem) (h_msixHeld : Has l .msixHeld) (h_emitted : Has l .emitted) (h_fresh : Has l .fresh) :
    ∀ s x1, blank l (trcReset s x1) = blank l s := by
  intro s x1
  unfold trcReset
  dsimp only
  (repeat' (split <;> (try (rename_i heq; have hh := congrArg Prod.snd heq; dsimp only at hh; subst hh)))) <;> first | with_reducible rfl | simp (disch := assumption) only [↓dropStakeWait_keeps, ↓commitOp_keeps, ↓takeGranted_keeps, ↓withdrawAgent_keeps, ↓endWhere_keeps, ↓apply_ite (blank l), ite_self]

theorem drainPeerEvents_keeps {l : List Comp} (h_regs : Has l .regs) (h_pool : Has l .pool) (h_tens : Has l .tens) (h_trv : Has l .trv) (h_msixHeld : Has l .msixHeld) (h_emitted : Has l .emitted) (h_fresh : Has l .fresh) :
    ∀ x0 s, blank l (drainPeerEvents x0 s) = blank l s := by
  intro x0 s
  induction x0 generalizing s with
  | zero =>
    unfold drainPeerEvents
    (repeat' (split <;> (try (rename_i heq; have hh := congrArg Prod.snd heq; dsimp only at hh; subst hh)))) <;> first | with_reducible rfl | simp (disch := first | assumption | (intro t x; first | with_reducible rfl | simp (disch := assumption) only [↓hwPost_keeps, ↓blank_trv, ↓apply_ite (blank l), ite_self] | ((repeat' (split <;> (try (rename_i heq; have hh := congrArg Prod.snd heq; dsimp only at hh; subst hh)))) <;> first | with_reducible rfl | simp (disch := assumption) only [↓hwPost_keeps, ↓blank_trv, ↓apply_ite (blank l), ite_self] | rfl))) only [↓hwPost_keeps, ↓blank_trv, ↓apply_ite (blank l), ite_self, ↓foldl_keeps, ↓foldr_keeps, ↓forUpTo_keeps, ↓foldl_snd_keeps] | rfl
  | succ n ih =>
    unfold drainPeerEvents
    dsimp only
    (repeat' (split <;> (try (rename_i heq; have hh := congrArg Prod.snd heq; dsimp only at hh; subst hh)))) <;> first | with_reducible rfl | simp (disch := first | assumption | (intro t x; first | with_reducible rfl | simp (disch := assumption) only [↓hwPost_keeps, ↓blank_trv, ↓apply_ite (blank l), ite_self, ↓ih] | ((repeat' (split <;> (try (rename_i heq; have hh := congrArg Prod.snd heq; dsimp only at hh; subst hh)))) <;> first | with_reducible rfl | simp (disch := assumption) only [↓hwPost_keeps, ↓blank_trv, ↓apply_ite (blank l), ite_self, ↓ih] | rfl))) only [↓hwPost_keeps, ↓blank_trv, ↓apply_ite (blank l), ite_self, ↓ih, ↓foldl_keeps, ↓foldr_keeps, ↓forUpTo_keeps, ↓foldl_snd_keeps] | rfl

theorem raisePeer_keeps {l : List Comp} (h_regs : Has l .regs) (h_pool : Has l .pool) (h_tens : Has l .tens) (h_trv : Has l .trv) (h_msixHeld : Has l .msixHeld) (h_emitted : Has l .emitted) (h_fresh : Has l .fresh) :
    ∀ s x1 x2 x3, blank l (raisePeer s x1 x2 x3) = blank l s := by
  intro s x1 x2 x3
  unfold raisePeer
  simp (disch := assumption) only [↓setErr_keeps, ↓setEvt_keeps, ↓drainPeerEvents_keeps, ↓blank_trv, ↓apply_ite (blank l), ite_self]

theorem setPeer_keeps {l : List Comp} (h_regs : Has l .regs) (h_pool : Has l .pool) (h_tens : Has l .tens) (h_trv : Has l .trv) (h_msixHeld : Has l .msixHeld) (h_emitted : Has l .emitted) (h_fresh : Has l .fresh) :
    ∀ s x1 x2 x3, blank l (setPeer s x1 x2 x3) = blank l s := by
  intro s x1 x2 x3
  unfold setPeer
  simp (disch := assumption) only [↓raisePeer_keeps, ↓blank_trv, ↓apply_ite (blank l), ite_self]

theorem authDrop_keeps {l : List Comp} (h_regs : Has l .regs) (h_pool : Has l .pool) (h_tens : Has l .tens) (h_trv : Has l .trv) (h_msixHeld : Has l .msixHeld) (h_emitted : Has l .emitted) (h_fresh : Has l .fresh) :
    ∀ s x1, blank l (authDrop s x1) = blank l s := by
  intro s x1
  unfold authDrop
  simp (disch := assumption) only [↓addSat_keeps, ↓report_keeps]

theorem reply_keeps {l : List Comp} (h_emitted : Has l .emitted) :
    ∀ s x1 x2 x3 x4 x5, blank l (reply s x1 x2 x3 x4 x5) = blank l s := by
  intro s x1 x2 x3 x4 x5
  unfold reply
  simp (disch := assumption) only [↓emit_keeps]

theorem refuseHeld_keeps {l : List Comp} (h_regs : Has l .regs) (h_trv : Has l .trv) (h_emitted : Has l .emitted) :
    ∀ s x1 x2, blank l (refuseHeld s x1 x2) = blank l s := by
  intro s x1 x2
  unfold refuseHeld
  dsimp only
  rw [blank_trv h_trv]
  refine foldl_keeps _ (fun t x => ?_) _ _
  rw [reply_keeps h_emitted]
  ((repeat' (split)) <;> first | with_reducible rfl | simp (disch := assumption) only [↓addSat_keeps, ↓reply_keeps, ↓blank_trv, ↓blank_regs, ↓blank_emitted, ↓apply_ite (blank l), ↓apply_ite Prod.snd, ite_self])

theorem fenceNow_keeps {l : List Comp} (h_regs : Has l .regs) (h_ptns : Has l .ptns) (h_pool : Has l .pool) (h_mer : Has l .mer) (h_plat : Has l .plat) (h_tens : Has l .tens) (h_trv : Has l .trv) (h_hostMem : Has l .hostMem) (h_msixHeld : Has l .msixHeld) (h_emitted : Has l .emitted) (h_fresh : Has l .fresh) :
    ∀ s, blank l (fenceNow s) = blank l s := by
  intro s
  unfold fenceNow
  (repeat' (split)) <;> first | with_reducible rfl | simp (disch := first | assumption | (intro t x; first | with_reducible rfl | simp (disch := assumption) only [↓wr_keeps, ↓addSat_keeps, ↓emit_keeps, ↓setEvt_keeps, ↓bumpHealth_keeps, ↓endWhere_keeps, ↓refuseHeld_keeps] | ((repeat' (split)) <;> first | with_reducible rfl | simp (disch := assumption) only [↓wr_keeps, ↓addSat_keeps, ↓emit_keeps, ↓setEvt_keeps, ↓bumpHealth_keeps, ↓endWhere_keeps, ↓refuseHeld_keeps] | rfl))) only [↓wr_keeps, ↓addSat_keeps, ↓emit_keeps, ↓setEvt_keeps, ↓bumpHealth_keeps, ↓endWhere_keeps, ↓refuseHeld_keeps, ↓foldl_keeps, ↓foldr_keeps, ↓forUpTo_keeps, ↓foldl_snd_keeps]

theorem abortOwn_keeps {l : List Comp} (h_regs : Has l .regs) (h_ptns : Has l .ptns) (h_movs : Has l .movs) (h_pool : Has l .pool) (h_plat : Has l .plat) (h_hostMem : Has l .hostMem) (h_msixHeld : Has l .msixHeld) (h_emitted : Has l .emitted) :
    ∀ s x1 x2, blank l (abortOwn s x1 x2) = blank l s := by
  intro s x1 x2
  unfold abortOwn
  simp (disch := assumption) only [↓abortQueue_keeps, ↓apply_ite (blank l), ite_self]

theorem abortChannel_keeps {l : List Comp} (h_regs : Has l .regs) (h_ptns : Has l .ptns) (h_movs : Has l .movs) (h_pool : Has l .pool) (h_mer : Has l .mer) (h_plat : Has l .plat) (h_tens : Has l .tens) (h_trv : Has l .trv) (h_hostMem : Has l .hostMem) (h_msixHeld : Has l .msixHeld) (h_emitted : Has l .emitted) :
    ∀ s x1, blank l (abortChannel s x1) = blank l s := by
  intro s x1
  unfold abortChannel
  (repeat' (split)) <;> first | with_reducible rfl | simp (disch := first | assumption | (intro t x; first | with_reducible rfl | simp (disch := assumption) only [↓setTrc_keeps, ↓freeStake_keeps, ↓dropStakeWait_keeps, ↓withdrawAgent_keeps, ↓dropBarrier_keeps, ↓abortOwn_keeps] | ((repeat' (split)) <;> first | with_reducible rfl | simp (disch := assumption) only [↓setTrc_keeps, ↓freeStake_keeps, ↓dropStakeWait_keeps, ↓withdrawAgent_keeps, ↓dropBarrier_keeps, ↓abortOwn_keeps] | rfl))) only [↓setTrc_keeps, ↓freeStake_keeps, ↓dropStakeWait_keeps, ↓withdrawAgent_keeps, ↓dropBarrier_keeps, ↓abortOwn_keeps, ↓foldl_keeps, ↓foldr_keeps, ↓forUpTo_keeps, ↓foldl_snd_keeps]

theorem closeExposure_keeps {l : List Comp} (h_regs : Has l .regs) (h_eff : Has l .eff) :
    ∀ s x1, blank l (closeExposure s x1) = blank l s := by
  intro s x1
  unfold closeExposure
  (repeat' (split)) <;> first | with_reducible rfl | simp (disch := first | assumption | (intro t x; first | with_reducible rfl | simp (disch := assumption) only [↓wr_keeps, ↓wrApplied_keeps] | ((repeat' (split)) <;> first | with_reducible rfl | simp (disch := assumption) only [↓wr_keeps, ↓wrApplied_keeps] | rfl))) only [↓wr_keeps, ↓wrApplied_keeps, ↓foldl_keeps, ↓foldr_keeps, ↓forUpTo_keeps, ↓foldl_snd_keeps]

theorem tearDownSlot_keeps {l : List Comp} (h_regs : Has l .regs) (h_eff : Has l .eff) (h_ptns : Has l .ptns) (h_movs : Has l .movs) (h_pool : Has l .pool) (h_mer : Has l .mer) (h_plat : Has l .plat) (h_tens : Has l .tens) (h_trv : Has l .trv) (h_hostMem : Has l .hostMem) (h_msixHeld : Has l .msixHeld) (h_emitted : Has l .emitted) (h_fresh : Has l .fresh) :
    ∀ s x1 x2, blank l (tearDownSlot s x1 x2) = blank l s := by
  intro s x1 x2
  unfold tearDownSlot
  (repeat' (split)) <;> first | with_reducible rfl | simp (disch := first | assumption | (intro t x; first | with_reducible rfl | simp (disch := assumption) only [↓wr_keeps, ↓setEvt_keeps, ↓endWhere_keeps, ↓refuseHeld_keeps, ↓abortOwn_keeps, ↓abortChannel_keeps, ↓closeExposure_keeps, ↓blank_trv, ↓apply_ite (blank l), ite_self] | ((repeat' (split)) <;> first | with_reducible rfl | simp (disch := assumption) only [↓wr_keeps, ↓setEvt_keeps, ↓endWhere_keeps, ↓refuseHeld_keeps, ↓abortOwn_keeps, ↓abortChannel_keeps, ↓closeExposure_keeps, ↓blank_trv, ↓apply_ite (blank l), ite_self] | rfl))) only [↓wr_keeps, ↓setEvt_keeps, ↓endWhere_keeps, ↓refuseHeld_keeps, ↓abortOwn_keeps, ↓abortChannel_keeps, ↓closeExposure_keeps, ↓blank_trv, ↓apply_ite (blank l), ite_self, ↓foldl_keeps, ↓foldr_keeps, ↓forUpTo_keeps, ↓foldl_snd_keeps]

theorem tearDownAll_keeps {l : List Comp} (h_regs : Has l .regs) (h_eff : Has l .eff) (h_ptns : Has l .ptns) (h_movs : Has l .movs) (h_pool : Has l .pool) (h_mer : Has l .mer) (h_plat : Has l .plat) (h_tens : Has l .tens) (h_trv : Has l .trv) (h_hostMem : Has l .hostMem) (h_msixHeld : Has l .msixHeld) (h_emitted : Has l .emitted) (h_fresh : Has l .fresh) :
    ∀ s x1, blank l (tearDownAll s x1) = blank l s := by
  intro s x1
  unfold tearDownAll
  (repeat' (split)) <;> first | with_reducible rfl | simp (disch := first | assumption | (intro t x; first | with_reducible rfl | simp (disch := assumption) only [↓wr_keeps, ↓tearDownSlot_keeps, ↓blank_trv, ↓apply_ite (blank l), ite_self] | ((repeat' (split)) <;> first | with_reducible rfl | simp (disch := assumption) only [↓wr_keeps, ↓tearDownSlot_keeps, ↓blank_trv, ↓apply_ite (blank l), ite_self] | rfl))) only [↓wr_keeps, ↓tearDownSlot_keeps, ↓blank_trv, ↓apply_ite (blank l), ite_self, ↓foldl_keeps, ↓foldr_keeps, ↓forUpTo_keeps, ↓foldl_snd_keeps]

theorem postWatch_keeps {l : List Comp} (h_regs : Has l .regs) (h_pool : Has l .pool) (h_tens : Has l .tens) (h_trv : Has l .trv) (h_msixHeld : Has l .msixHeld) (h_emitted : Has l .emitted) (h_fresh : Has l .fresh) :
    ∀ s x1 x2, blank l (postWatch s x1 x2) = blank l s := by
  intro s x1 x2
  unfold postWatch
  dsimp only
  (repeat' (split <;> (try (rename_i heq; have hh := congrArg Prod.snd heq; dsimp only at hh; subst hh)))) <;> first | with_reducible rfl | simp (disch := assumption) only [↓wr_keeps, ↓hwPost_keeps, ↓blank_trv, ↓apply_ite (blank l), ite_self]

theorem bumpCounter_keeps {l : List Comp} (h_regs : Has l .regs) (h_pool : Has l .pool) (h_tens : Has l .tens) (h_trv : Has l .trv) (h_msixHeld : Has l .msixHeld) (h_emitted : Has l .emitted) (h_fresh : Has l .fresh) :
    ∀ s x1 x2 x3, blank l (bumpCounter s x1 x2 x3) = blank l s := by
  intro s x1 x2 x3
  unfold bumpCounter
  simp (disch := assumption) only [↓addSat_keeps, ↓postWatch_keeps, ↓apply_ite (blank l), ite_self]

theorem releaseBarrier_keeps {l : List Comp} (h_regs : Has l .regs) (h_ptns : Has l .ptns) (h_pool : Has l .pool) (h_plat : Has l .plat) (h_tens : Has l .tens) (h_trv : Has l .trv) (h_hostMem : Has l .hostMem) (h_msixHeld : Has l .msixHeld) (h_emitted : Has l .emitted) (h_fresh : Has l .fresh) :
    ∀ s x1, blank l (releaseBarrier s x1) = blank l s := by
  intro s x1
  unfold releaseBarrier
  (repeat' (split)) <;> first | with_reducible rfl | simp (disch := assumption) only [↓decideTrv_keeps, ↓postTrvAll_keeps, ↓blank_trv]

theorem receiveRelease_keeps {l : List Comp} (h_regs : Has l .regs) (h_ptns : Has l .ptns) (h_pool : Has l .pool) (h_mer : Has l .mer) (h_plat : Has l .plat) (h_tens : Has l .tens) (h_trv : Has l .trv) (h_hostMem : Has l .hostMem) (h_msixHeld : Has l .msixHeld) (h_emitted : Has l .emitted) (h_fresh : Has l .fresh) :
    ∀ s x1 x2 x3, blank l (receiveRelease s x1 x2 x3) = blank l s := by
  intro s x1 x2 x3
  unfold receiveRelease
  (repeat' (split)) <;> first | with_reducible rfl | simp (disch := assumption) only [↓wr_keeps, ↓addSat_keeps, ↓lateTrigger_keeps, ↓releaseBarrier_keeps, ↓blank_trv, ↓apply_ite (blank l), ite_self]

theorem countArrival_keeps {l : List Comp} (h_regs : Has l .regs) (h_ptns : Has l .ptns) (h_pool : Has l .pool) (h_mer : Has l .mer) (h_plat : Has l .plat) (h_tens : Has l .tens) (h_trv : Has l .trv) (h_hostMem : Has l .hostMem) (h_msixHeld : Has l .msixHeld) (h_emitted : Has l .emitted) (h_fresh : Has l .fresh) :
    ∀ s x1 x2 x3, blank l (countArrival s x1 x2 x3) = blank l s := by
  intro s x1 x2 x3
  unfold countArrival
  (repeat' (split)) <;> first | with_reducible rfl | simp (disch := first | assumption | (intro t x; first | with_reducible rfl | simp (disch := assumption) only [↓emit_keeps, ↓receiveRelease_keeps, ↓blank_trv, ↓apply_ite (blank l), ite_self] | ((repeat' (split)) <;> first | with_reducible rfl | simp (disch := assumption) only [↓emit_keeps, ↓receiveRelease_keeps, ↓blank_trv, ↓apply_ite (blank l), ite_self] | rfl))) only [↓emit_keeps, ↓receiveRelease_keeps, ↓blank_trv, ↓apply_ite (blank l), ite_self, ↓foldl_keeps, ↓foldr_keeps, ↓forUpTo_keeps, ↓foldl_snd_keeps]

end Sys2Proof.Machine
end

