-- ==== Sys2Proof/Laws/KeepPower.lean ====
section
/-! SUPPORT. What each operation of Machine/Power.lean leaves as it was. -/

set_option linter.unusedSimpArgs false

namespace Sys2Proof.Machine

theorem setRails_keeps {l : List Comp} (h_emitted : Has l .emitted) :
    ∀ s x1, blank l (setRails s x1) = blank l s := by
  intro s x1
  unfold setRails
  (repeat' (split)) <;> first | with_reducible rfl | simp (disch := first | assumption | (intro t x; first | with_reducible rfl | simp (disch := assumption) only [↓emit_keeps] | ((repeat' (split)) <;> first | with_reducible rfl | simp (disch := assumption) only [↓emit_keeps] | rfl))) only [↓emit_keeps, ↓foldl_keeps, ↓foldr_keeps, ↓forUpTo_keeps, ↓foldl_snd_keeps]

theorem setLevel_keeps {l : List Comp} (h_pwr : Has l .pwr) (h_emitted : Has l .emitted) :
    ∀ s x1, blank l (setLevel s x1) = blank l s := by
  intro s x1
  unfold setLevel
  simp (disch := assumption) only [↓setRails_keeps, ↓blank_pwr, ↓apply_ite (blank l), ite_self]

theorem changeLevel_keeps {l : List Comp} (h_regs : Has l .regs) (h_pwr : Has l .pwr) (h_emitted : Has l .emitted) :
    ∀ s x1, blank l (changeLevel s x1) = blank l s := by
  intro s x1
  unfold changeLevel
  simp (disch := assumption) only [↓addSat_keeps, ↓bumpHealth_keeps, ↓setLevel_keeps, ↓apply_ite (blank l), ite_self]

theorem levelBoundary_keeps {l : List Comp} (h_regs : Has l .regs) (h_pwr : Has l .pwr) (h_emitted : Has l .emitted) :
    ∀ s, blank l (levelBoundary s) = blank l s := by
  intro s
  unfold levelBoundary
  (repeat' (split)) <;> first | with_reducible rfl | simp (disch := assumption) only [↓changeLevel_keeps, ↓blank_pwr]

theorem showTemps_keeps {l : List Comp} (h_regs : Has l .regs) :
    ∀ s x1, blank l (showTemps s x1) = blank l s := by
  intro s x1
  unfold showTemps
  simp (disch := assumption) only [↓wr_keeps]

theorem recordRow_keeps {l : List Comp} (h_regs : Has l .regs) (h_pwr : Has l .pwr) (h_fresh : Has l .fresh) :
    ∀ s x1, blank l (recordRow s x1) = blank l s := by
  intro s x1
  unfold recordRow
  simp (disch := assumption) only [↓wr_keeps, ↓addSat_keeps, ↓nextFresh_keeps, ↓showTemps_keeps, ↓blank_pwr]

theorem decideLevel_keeps {l : List Comp} (h_regs : Has l .regs) (h_pwr : Has l .pwr) (h_emitted : Has l .emitted) :
    ∀ s x1 x2, blank l (decideLevel s x1 x2) = blank l s := by
  intro s x1 x2
  unfold decideLevel
  simp (disch := assumption) only [↓setRails_keeps, ↓changeLevel_keeps, ↓blank_pwr, ↓apply_ite (blank l), ite_self]

theorem governRow_keeps {l : List Comp} (h_regs : Has l .regs) (h_pwr : Has l .pwr) (h_emitted : Has l .emitted) :
    ∀ s x1 x2, blank l (governRow s x1 x2) = blank l s := by
  intro s x1 x2
  unfold governRow
  simp (disch := assumption) only [↓decideLevel_keeps, ↓blank_pwr, ↓apply_ite (blank l), ite_self]

theorem effGovernorDecision_keeps {l : List Comp} (h_regs : Has l .regs) (h_pwr : Has l .pwr) (h_emitted : Has l .emitted) (h_fresh : Has l .fresh) :
    ∀ x0 x1 s, blank l (effGovernorDecision x0 x1 s) = blank l s := by
  intro x0 x1 s
  unfold effGovernorDecision
  simp (disch := assumption) only [↓levelBoundary_keeps, ↓recordRow_keeps, ↓governRow_keeps, ↓apply_ite (blank l), ite_self]

theorem effHeadroomPublish_keeps {l : List Comp} (h_regs : Has l .regs) (h_plat : Has l .plat) (h_fresh : Has l .fresh) :
    ∀ s, blank l (effHeadroomPublish s) = blank l s := by
  intro s
  unfold effHeadroomPublish
  (repeat' (split)) <;> first | with_reducible rfl | simp (disch := assumption) only [↓wr_keeps, ↓nextFresh_keeps, ↓blank_plat, ↓apply_ite (blank l), ite_self]

theorem storePlSet_keeps {l : List Comp} (h_regs : Has l .regs) :
    ∀ s x1, blank l (storePlSet s x1) = blank l s := by
  intro s x1
  unfold storePlSet
  simp (disch := assumption) only [↓wr_keeps]

theorem effPlSetWrite_keeps {l : List Comp} (h_regs : Has l .regs) (h_msixHeld : Has l .msixHeld) (h_emitted : Has l .emitted) :
    ∀ x0 x1 s, blank l (effPlSetWrite x0 x1 s) = blank l s := by
  intro x0 x1 s
  unfold effPlSetWrite
  (repeat' (split)) <;> first | with_reducible rfl | simp (disch := assumption) only [↓denyAccess_keeps, ↓storePlSet_keeps, ↓apply_ite (blank l), ite_self]

theorem holdNow_keeps {l : List Comp} (h_pwr : Has l .pwr) (h_emitted : Has l .emitted) :
    ∀ s, blank l (holdNow s) = blank l s := by
  intro s
  unfold holdNow
  simp (disch := assumption) only [↓setLevel_keeps, ↓apply_ite (blank l), ite_self]

theorem effPwrbrk_keeps {l : List Comp} (h_pwr : Has l .pwr) (h_emitted : Has l .emitted) :
    ∀ s, blank l (effPwrbrk s) = blank l s := by
  intro s
  unfold effPwrbrk
  simp (disch := assumption) only [↓holdNow_keeps, ↓blank_pwr]

theorem effPwrbrkDeassert_keeps {l : List Comp} (h_pwr : Has l .pwr) :
    ∀ s, blank l (effPwrbrkDeassert s) = blank l s := by
  intro s
  unfold effPwrbrkDeassert
  simp (disch := assumption) only [↓blank_pwr]

theorem effTCrit_keeps {l : List Comp} (h_regs : Has l .regs) (h_pwr : Has l .pwr) (h_emitted : Has l .emitted) :
    ∀ x0 s, blank l (effTCrit x0 s) = blank l s := by
  intro x0 s
  unfold effTCrit
  simp (disch := assumption) only [↓showTemps_keeps, ↓holdNow_keeps, ↓blank_pwr, ↓apply_ite (blank l), ite_self]

theorem effTCritRelease_keeps {l : List Comp} (h_regs : Has l .regs) (h_pwr : Has l .pwr) :
    ∀ x0 s, blank l (effTCritRelease x0 s) = blank l s := by
  intro x0 s
  unfold effTCritRelease
  simp (disch := assumption) only [↓showTemps_keeps, ↓blank_pwr, ↓apply_ite (blank l), ite_self]

theorem effThermtrip_keeps {l : List Comp} (h_stage : Has l .stage) (h_regs : Has l .regs) (h_pwr : Has l .pwr) (h_emitted : Has l .emitted) :
    ∀ x0 s, blank l (effThermtrip x0 s) = blank l s := by
  intro x0 s
  unfold effThermtrip
  simp (disch := assumption) only [↓emit_keeps, ↓showTemps_keeps, ↓blank_stage, ↓blank_pwr, ↓blank_stage_pwr, ↓apply_ite (blank l), ite_self]

end Sys2Proof.Machine
end

