-- ==== Sys2Proof/Laws/KeepFlags.lean ====
section
/-! SUPPORT. What each operation of Machine/Flags.lean leaves as it was. -/

set_option linter.unusedSimpArgs false

namespace Sys2Proof.Machine

theorem countEvt_keeps {l : List Comp} (h_regs : Has l .regs) (h_msixHeld : Has l .msixHeld) (h_emitted : Has l .emitted) :
    ∀ s x1 x2 x3 x4, blank l (countEvt s x1 x2 x3 x4) = blank l s := by
  intro s x1 x2 x3 x4
  unfold countEvt
  simp (disch := assumption) only [↓addSat_keeps, ↓setEvt_keeps, ↓apply_ite (blank l), ite_self]

theorem arithCount_keeps {l : List Comp} (h_regs : Has l .regs) (h_msixHeld : Has l .msixHeld) (h_emitted : Has l .emitted) :
    ∀ s x1 x2, blank l (arithCount s x1 x2) = blank l s := by
  intro s x1 x2
  unfold arithCount
  simp (disch := assumption) only [↓countEvt_keeps]

theorem statElem_keeps {l : List Comp} (h_regs : Has l .regs) :
    ∀ s x1 x2 x3, blank l (statElem s x1 x2 x3) = blank l s := by
  intro s x1 x2 x3
  unfold statElem
  simp (disch := assumption) only [↓wr_keeps, ↓blank_regs, ↓apply_ite (blank l), ite_self]

theorem statRow_keeps {l : List Comp} (h_regs : Has l .regs) :
    ∀ s x1 x2, blank l (statRow s x1 x2) = blank l s := by
  intro s x1 x2
  unfold statRow
  (repeat' (split)) <;> first | with_reducible rfl | simp (disch := first | assumption | (intro t x; first | with_reducible rfl | simp (disch := assumption) only [↓addSat_keeps, ↓statElem_keeps] | ((repeat' (split)) <;> first | with_reducible rfl | simp (disch := assumption) only [↓addSat_keeps, ↓statElem_keeps] | rfl))) only [↓addSat_keeps, ↓statElem_keeps, ↓foldl_keeps, ↓foldr_keeps, ↓forUpTo_keeps, ↓foldl_snd_keeps]

theorem statClear_keeps {l : List Comp} (h_regs : Has l .regs) (h_stns : Has l .stns) (h_fresh : Has l .fresh) :
    ∀ s x1, blank l (statClear s x1) = blank l s := by
  intro s x1
  unfold statClear
  simp (disch := assumption) only [↓wr_keeps, ↓setStn_keeps, ↓nextFresh_keeps, ↓blank_regs, ↓apply_ite (blank l), ite_self]

theorem rqCount_keeps {l : List Comp} (h_regs : Has l .regs) (h_msixHeld : Has l .msixHeld) (h_emitted : Has l .emitted) :
    ∀ s x1 x2 x3, blank l (rqCount s x1 x2 x3) = blank l s := by
  intro s x1 x2 x3
  unfold rqCount
  simp (disch := assumption) only [↓addSat_keeps, ↓countEvt_keeps, ↓apply_ite (blank l), ite_self]

end Sys2Proof.Machine
end

