-- ==== Sys2Proof/Laws/KeepView.lean ====
section
/-! SUPPORT. What each operation of Machine/View.lean leaves as it was. -/

set_option linter.unusedSimpArgs false

namespace Sys2Proof.Machine

theorem capturePage_keeps {l : List Comp} (h_cap : Has l .cap) :
    ∀ s x1, blank l (capturePage s x1) = blank l s := by
  intro s x1
  unfold capturePage
  simp (disch := assumption) only [↓blank_cap, ↓apply_ite (blank l), ite_self]

theorem captureWindow_keeps {l : List Comp} (h_cap : Has l .cap) :
    ∀ s x1, blank l (captureWindow s x1) = blank l s := by
  intro s x1
  unfold captureWindow
  simp (disch := assumption) only [↓blank_cap]

theorem capture_keeps {l : List Comp} (h_regs : Has l .regs) (h_cap : Has l .cap) :
    ∀ s, blank l (capture s) = blank l s := by
  intro s
  unfold capture
  (repeat' (split)) <;> first | with_reducible rfl | simp (disch := first | assumption | (intro t x; first | with_reducible rfl | simp (disch := assumption) only [↓wr_keeps, ↓capturePage_keeps, ↓captureWindow_keeps] | ((repeat' (split)) <;> first | with_reducible rfl | simp (disch := assumption) only [↓wr_keeps, ↓capturePage_keeps, ↓captureWindow_keeps] | rfl))) only [↓wr_keeps, ↓capturePage_keeps, ↓captureWindow_keeps, ↓foldl_keeps, ↓foldr_keeps, ↓forUpTo_keeps, ↓foldl_snd_keeps]

theorem clearCapture_keeps {l : List Comp} (h_cap : Has l .cap) :
    ∀ s x1, blank l (clearCapture s x1) = blank l s := by
  intro s x1
  unfold clearCapture
  simp (disch := assumption) only [↓blank_cap]

end Sys2Proof.Machine
end

