-- ==== Sys2Proof/Laws/KeepHostCore.lean ====
section
/-! SUPPORT. What each operation of Machine/HostCore.lean leaves as it was. -/

set_option linter.unusedSimpArgs false

namespace Sys2Proof.Machine

theorem setSq_keeps {l : List Comp} (h_ptns : Has l .ptns) :
    ∀ s x1 x2 x3, blank l (setSq s x1 x2 x3) = blank l s := by
  intro s x1 x2 x3
  unfold setSq
  simp (disch := assumption) only [↓setPtn_keeps]

theorem setCq_keeps {l : List Comp} (h_ptns : Has l .ptns) :
    ∀ s x1 x2 x3, blank l (setCq s x1 x2 x3) = blank l s := by
  intro s x1 x2 x3
  unfold setCq
  simp (disch := assumption) only [↓setPtn_keeps]

theorem setHostItem_keeps {l : List Comp} (h_ptns : Has l .ptns) :
    ∀ s x1 x2 x3, blank l (setHostItem s x1 x2 x3) = blank l s := by
  intro s x1 x2 x3
  unfold setHostItem
  simp (disch := assumption) only [↓setPtn_keeps]

theorem dropItem_keeps {l : List Comp} (h_ptns : Has l .ptns) :
    ∀ s x1 x2, blank l (dropItem s x1 x2) = blank l s := by
  intro s x1 x2
  unfold dropItem
  simp (disch := assumption) only [↓setPtn_keeps]

theorem freeItemStake_keeps {l : List Comp} (h_plat : Has l .plat) :
    ∀ s x1, blank l (freeItemStake s x1) = blank l s := by
  intro s x1
  unfold freeItemStake
  (repeat' (split)) <;> first | with_reducible rfl | simp (disch := assumption) only [↓freeStake_keeps]

theorem dropHeld_keeps {l : List Comp} (h_regs : Has l .regs) (h_ptns : Has l .ptns) (h_pool : Has l .pool) (h_plat : Has l .plat) (h_tens : Has l .tens) (h_hostMem : Has l .hostMem) (h_msixHeld : Has l .msixHeld) (h_emitted : Has l .emitted) (h_fresh : Has l .fresh) :
    ∀ s x1 x2, blank l (dropHeld s x1 x2) = blank l s := by
  intro s x1 x2
  unfold dropHeld
  dsimp only
  (repeat' (split <;> (try (rename_i heq; have hh := congrArg Prod.snd heq; dsimp only at hh; subst hh)))) <;> first | with_reducible rfl | simp (disch := assumption) only [↓dropStakeWait_keeps, ↓recallParcel_keeps, ↓takeGranted_keeps, ↓withdrawAgent_keeps, ↓setSq_keeps, ↓freeItemStake_keeps]

theorem dropAllHeld_keeps {l : List Comp} (h_regs : Has l .regs) (h_ptns : Has l .ptns) (h_pool : Has l .pool) (h_plat : Has l .plat) (h_tens : Has l .tens) (h_hostMem : Has l .hostMem) (h_msixHeld : Has l .msixHeld) (h_emitted : Has l .emitted) (h_fresh : Has l .fresh) :
    ∀ s x1, blank l (dropAllHeld s x1) = blank l s := by
  intro s x1
  unfold dropAllHeld
  (repeat' (split)) <;> first | with_reducible rfl | simp (disch := first | assumption | (intro t x; first | with_reducible rfl | simp (disch := assumption) only [↓dropHeld_keeps] | ((repeat' (split)) <;> first | with_reducible rfl | simp (disch := assumption) only [↓dropHeld_keeps] | rfl))) only [↓dropHeld_keeps, ↓foldl_keeps, ↓foldr_keeps, ↓forUpTo_keeps, ↓foldl_snd_keeps]

theorem fetchEntry_keeps {l : List Comp} (h_regs : Has l .regs) (h_ptns : Has l .ptns) (h_hostMem : Has l .hostMem) (h_msixHeld : Has l .msixHeld) (h_emitted : Has l .emitted) :
    ∀ s x1 x2 x3, blank l (fetchEntry s x1 x2 x3) = blank l s := by
  intro s x1 x2 x3
  unfold fetchEntry
  (repeat' (split <;> (try (rename_i heq; have hh := congrArg Prod.snd heq; dsimp only at hh; subst hh)))) <;> first | with_reducible rfl | simp (disch := assumption) only [↓setErr_keeps, ↓hostLoad_keeps, ↓setSq_keeps, ↓apply_ite (blank l), ite_self]

theorem putItem_keeps {l : List Comp} (h_regs : Has l .regs) (h_ptns : Has l .ptns) :
    ∀ s x1 x2 x3, blank l (putItem s x1 x2 x3) = blank l s := by
  intro s x1 x2 x3
  unfold putItem
  simp (disch := assumption) only [↓wr_keeps, ↓addSat_keeps, ↓setPtn_keeps, ↓setSq_keeps, ↓setCq_keeps]

theorem statusItem_keeps {l : List Comp} (h_ptns : Has l .ptns) (h_hostMem : Has l .hostMem) (h_emitted : Has l .emitted) :
    ∀ s x1 x2 x3, blank l (statusItem s x1 x2 x3) = blank l s := by
  intro s x1 x2 x3
  unfold statusItem
  simp (disch := assumption) only [↓writeMirror_keeps, ↓setHostItem_keeps]

theorem commitItem_keeps {l : List Comp} (h_regs : Has l .regs) (h_ptns : Has l .ptns) (h_pool : Has l .pool) (h_plat : Has l .plat) (h_tens : Has l .tens) (h_hostMem : Has l .hostMem) (h_msixHeld : Has l .msixHeld) (h_emitted : Has l .emitted) (h_fresh : Has l .fresh) :
    ∀ s x1 x2, blank l (commitItem s x1 x2) = blank l s := by
  intro s x1 x2
  unfold commitItem
  (repeat' (split <;> (try (rename_i heq; have hh := congrArg Prod.snd heq; dsimp only at hh; subst hh)))) <;> first | with_reducible rfl | simp (disch := assumption) only [↓commitOp_keeps, ↓itemCode_keeps, ↓statusItem_keeps, ↓apply_ite (blank l), ite_self]

theorem acceptHeld_keeps {l : List Comp} (h_regs : Has l .regs) (h_ptns : Has l .ptns) (h_pool : Has l .pool) (h_plat : Has l .plat) (h_tens : Has l .tens) (h_hostMem : Has l .hostMem) (h_msixHeld : Has l .msixHeld) (h_emitted : Has l .emitted) (h_fresh : Has l .fresh) :
    ∀ s x1 x2 x3 x4, blank l (acceptHeld s x1 x2 x3 x4) = blank l s := by
  intro s x1 x2 x3 x4
  unfold acceptHeld
  (repeat' (split)) <;> first | with_reducible rfl | simp (disch := assumption) only [↓wr_keeps, ↓addSat_keeps, ↓setPtn_keeps, ↓hostPut_keeps, ↓writeMirror_keeps, ↓setSq_keeps, ↓putItem_keeps, ↓commitItem_keeps, ↓apply_ite (blank l), ite_self]

theorem heldStake_keeps {l : List Comp} (h_regs : Has l .regs) (h_plat : Has l .plat) :
    ∀ s x1 x2 x3, blank l (heldStake s x1 x2 x3).2 = blank l s := by
  intro s x1 x2 x3
  unfold heldStake
  (repeat' (split <;> (try (rename_i heq; have hh := congrArg Prod.snd heq; dsimp only at hh; subst hh)))) <;> first | with_reducible rfl | simp (disch := assumption) only [↓acquireStake_keeps]

theorem heldStatus_keeps {l : List Comp} (h_fresh : Has l .fresh) :
    ∀ s x1 x2, blank l (heldStatus s x1 x2).2 = blank l s := by
  intro s x1 x2
  unfold heldStatus
  simp (disch := assumption) only [↓itemCode_keeps]

theorem heldParcel_keeps {l : List Comp} (h_regs : Has l .regs) (h_pool : Has l .pool) (h_fresh : Has l .fresh) :
    ∀ s x1 x2 x3, blank l (heldParcel s x1 x2 x3).2 = blank l s := by
  intro s x1 x2 x3
  unfold heldParcel
  (repeat' (split <;> (try (rename_i heq; have hh := congrArg Prod.snd heq; dsimp only at hh; subst hh)))) <;> first | with_reducible rfl | simp (disch := assumption) only [↓reserveWait_keeps, ↓takeGranted_keeps, ↓takeEnded_keeps, ↓heldStatus_keeps, ↓apply_ite (blank l), ↓apply_ite Prod.snd, ite_self]

theorem heldCopy_keeps {l : List Comp} (h_regs : Has l .regs) (h_ptns : Has l .ptns) (h_pool : Has l .pool) (h_plat : Has l .plat) (h_tens : Has l .tens) (h_hostMem : Has l .hostMem) (h_msixHeld : Has l .msixHeld) (h_emitted : Has l .emitted) (h_fresh : Has l .fresh) :
    ∀ s x1 x2 x3, blank l (heldCopy s x1 x2 x3).2 = blank l s := by
  intro s x1 x2 x3
  unfold heldCopy
  (repeat' (split <;> (try (rename_i heq; have hh := congrArg Prod.snd heq; dsimp only at hh; subst hh)))) <;> first | with_reducible rfl | simp (disch := assumption) only [↓hostLoad_keeps, ↓writePayload_keeps, ↓recallParcel_keeps, ↓apply_ite (blank l), ↓apply_ite Prod.snd, ite_self]

theorem keepHeld_keeps {l : List Comp} (h_ptns : Has l .ptns) :
    ∀ s x1 x2 x3, blank l (keepHeld s x1 x2 x3) = blank l s := by
  intro s x1 x2 x3
  unfold keepHeld
  simp (disch := assumption) only [↓setSq_keeps]

theorem workHeld_keeps {l : List Comp} (h_regs : Has l .regs) (h_ptns : Has l .ptns) (h_pool : Has l .pool) (h_plat : Has l .plat) (h_tens : Has l .tens) (h_hostMem : Has l .hostMem) (h_msixHeld : Has l .msixHeld) (h_emitted : Has l .emitted) (h_fresh : Has l .fresh) :
    ∀ s x1 x2 x3, blank l (workHeld s x1 x2 x3) = blank l s := by
  intro s x1 x2 x3
  unfold workHeld
  dsimp only
  (repeat' (split <;> (try (rename_i heq; have hh := congrArg Prod.snd heq; dsimp only at hh; subst hh)))) <;> first | with_reducible rfl | simp (disch := assumption) only [↓acceptHeld_keeps, ↓heldStake_keeps, ↓heldParcel_keeps, ↓heldCopy_keeps, ↓keepHeld_keeps, ↓apply_ite (blank l), ite_self]

theorem cqIrq_keeps {l : List Comp} (h_msixHeld : Has l .msixHeld) (h_emitted : Has l .emitted) :
    ∀ s x1 x2, blank l (cqIrq s x1 x2) = blank l s := by
  intro s x1 x2
  unfold cqIrq
  (repeat' (split)) <;> first | with_reducible rfl | simp (disch := assumption) only [↓raiseMsix_keeps, ↓apply_ite (blank l), ite_self]

theorem cqWrite_keeps {l : List Comp} (h_regs : Has l .regs) (h_ptns : Has l .ptns) (h_plat : Has l .plat) (h_hostMem : Has l .hostMem) (h_msixHeld : Has l .msixHeld) (h_emitted : Has l .emitted) :
    ∀ s x1 x2 x3, blank l (cqWrite s x1 x2 x3) = blank l s := by
  intro s x1 x2 x3
  unfold cqWrite
  (repeat' (split)) <;> first | with_reducible rfl | simp (disch := assumption) only [↓wr_keeps, ↓hostPut_keeps, ↓writeMirror_keeps, ↓setCq_keeps, ↓setHostItem_keeps, ↓dropItem_keeps, ↓freeItemStake_keeps, ↓cqIrq_keeps, ↓apply_ite (blank l), ite_self]

theorem confirmItem_keeps {l : List Comp} (h_regs : Has l .regs) (h_ptns : Has l .ptns) (h_pool : Has l .pool) (h_plat : Has l .plat) (h_tens : Has l .tens) (h_hostMem : Has l .hostMem) (h_msixHeld : Has l .msixHeld) (h_emitted : Has l .emitted) (h_fresh : Has l .fresh) :
    ∀ s x1 x2, blank l (confirmItem s x1 x2) = blank l s := by
  intro s x1 x2
  unfold confirmItem
  (repeat' (split)) <;> first | with_reducible rfl | simp (disch := assumption) only [↓writeMirror_keeps, ↓setHostItem_keeps, ↓dropItem_keeps, ↓freeItemStake_keeps, ↓commitItem_keeps, ↓apply_ite (blank l), ite_self]

theorem forceItem_keeps {l : List Comp} (h_regs : Has l .regs) (h_ptns : Has l .ptns) (h_pool : Has l .pool) (h_plat : Has l .plat) (h_tens : Has l .tens) (h_hostMem : Has l .hostMem) (h_msixHeld : Has l .msixHeld) (h_emitted : Has l .emitted) (h_fresh : Has l .fresh) :
    ∀ s x1 x2 x3, blank l (forceItem s x1 x2 x3) = blank l s := by
  intro s x1 x2 x3
  unfold forceItem
  (repeat' (split)) <;> first | with_reducible rfl | simp (disch := assumption) only [↓writeMirror_keeps, ↓recallParcel_keeps, ↓setHostItem_keeps, ↓apply_ite (blank l), ite_self]

theorem loseInput_keeps {l : List Comp} (h_regs : Has l .regs) (h_ptns : Has l .ptns) (h_hostMem : Has l .hostMem) (h_emitted : Has l .emitted) :
    ∀ s x1 x2, blank l (loseInput s x1 x2) = blank l s := by
  intro s x1 x2
  unfold loseInput
  simp (disch := assumption) only [↓addSat_keeps, ↓statusItem_keeps]

theorem redeliver_keeps {l : List Comp} (h_regs : Has l .regs) (h_ptns : Has l .ptns) (h_pool : Has l .pool) (h_plat : Has l .plat) (h_tens : Has l .tens) (h_hostMem : Has l .hostMem) (h_msixHeld : Has l .msixHeld) (h_emitted : Has l .emitted) (h_fresh : Has l .fresh) :
    ∀ s x1 x2 x3 x4, blank l (redeliver s x1 x2 x3 x4).2 = blank l s := by
  intro s x1 x2 x3 x4
  unfold redeliver
  (repeat' (split <;> (try (rename_i heq; have hh := congrArg Prod.snd heq; dsimp only at hh; subst hh)))) <;> first | with_reducible rfl | simp (disch := assumption) only [↓addSat_keeps, ↓reserveWait_keeps, ↓writePayload_keeps, ↓takeGranted_keeps, ↓takeEnded_keeps, ↓itemCode_keeps, ↓setHostItem_keeps, ↓statusItem_keeps, ↓commitItem_keeps, ↓apply_ite (blank l), ↓apply_ite Prod.snd, ite_self]

theorem recoverAccepted_keeps {l : List Comp} (h_regs : Has l .regs) (h_ptns : Has l .ptns) (h_pool : Has l .pool) (h_plat : Has l .plat) (h_tens : Has l .tens) (h_hostMem : Has l .hostMem) (h_msixHeld : Has l .msixHeld) (h_emitted : Has l .emitted) (h_fresh : Has l .fresh) :
    ∀ s x1 x2 x3, blank l (recoverAccepted s x1 x2 x3).2 = blank l s := by
  intro s x1 x2 x3
  unfold recoverAccepted
  dsimp only
  (repeat' (split <;> (try (rename_i heq; have hh := congrArg Prod.snd heq; dsimp only at hh; subst hh)))) <;> first | with_reducible rfl | simp (disch := assumption) only [↓acquireStake_keeps, ↓setHostItem_keeps, ↓statusItem_keeps, ↓loseInput_keeps, ↓redeliver_keeps, ↓apply_ite (blank l), ↓apply_ite Prod.snd, ite_self]

theorem lbRead_keeps {l : List Comp} (h_regs : Has l .regs) (h_fp : Has l .fp) :
    ∀ s x1 x2, blank l (lbRead s x1 x2).2 = blank l s := by
  intro s x1 x2
  unfold lbRead
  simp (disch := assumption) only [↓takeFault_keeps, ↓countCe_keeps, ↓ueError_keeps, ↓apply_ite (blank l), ↓apply_ite Prod.snd, ite_self]

theorem recoverItem_keeps {l : List Comp} (h_regs : Has l .regs) (h_fp : Has l .fp) (h_ptns : Has l .ptns) (h_pool : Has l .pool) (h_plat : Has l .plat) (h_tens : Has l .tens) (h_hostMem : Has l .hostMem) (h_msixHeld : Has l .msixHeld) (h_emitted : Has l .emitted) (h_fresh : Has l .fresh) :
    ∀ s x1 x2, blank l (recoverItem s x1 x2).2 = blank l s := by
  intro s x1 x2
  unfold recoverItem
  (repeat' (split <;> (try (rename_i heq; have hh := congrArg Prod.snd heq; dsimp only at hh; subst hh)))) <;> first | with_reducible rfl | simp (disch := assumption) only [↓setHostItem_keeps, ↓dropItem_keeps, ↓freeItemStake_keeps, ↓loseInput_keeps, ↓recoverAccepted_keeps, ↓lbRead_keeps, ↓apply_ite (blank l), ↓apply_ite Prod.snd, ite_self]

theorem recoverRun_keeps {l : List Comp} (h_regs : Has l .regs) (h_fp : Has l .fp) (h_ptns : Has l .ptns) (h_pool : Has l .pool) (h_plat : Has l .plat) (h_tens : Has l .tens) (h_hostMem : Has l .hostMem) (h_msixHeld : Has l .msixHeld) (h_emitted : Has l .emitted) (h_fresh : Has l .fresh) :
    ∀ x0 x1 s, blank l (recoverRun x0 x1 s) = blank l s := by
  intro x0 x1 s
  induction x1 generalizing x0 s with
  | zero =>
    unfold recoverRun
    (repeat' (split <;> (try (rename_i heq; have hh := congrArg Prod.snd heq; dsimp only at hh; subst hh)))) <;> first | with_reducible rfl | simp (disch := first | assumption | (intro t x; first | with_reducible rfl | simp (disch := assumption) only [↓recoverItem_keeps, ↓blank_pool, ↓blank_fp, ↓blank_hostMem, ↓blank_plat, ↓blank_pool_fresh, ↓blank_ptns, ↓blank_regs, ↓blank_tens, ↓blank_msixHeld, ↓blank_fresh, ↓blank_emitted, ↓apply_ite (blank l), ↓apply_ite Prod.snd, ite_self] | ((repeat' (split <;> (try (rename_i heq; have hh := congrArg Prod.snd heq; dsimp only at hh; subst hh)))) <;> first | with_reducible rfl | simp (disch := assumption) only [↓recoverItem_keeps, ↓blank_pool, ↓blank_fp, ↓blank_hostMem, ↓blank_plat, ↓blank_pool_fresh, ↓blank_ptns, ↓blank_regs, ↓blank_tens, ↓blank_msixHeld, ↓blank_fresh, ↓blank_emitted, ↓apply_ite (blank l), ↓apply_ite Prod.snd, ite_self] | rfl))) only [↓recoverItem_keeps, ↓blank_pool, ↓blank_fp, ↓blank_hostMem, ↓blank_plat, ↓blank_pool_fresh, ↓blank_ptns, ↓blank_regs, ↓blank_tens, ↓blank_msixHeld, ↓blank_fresh, ↓blank_emitted, ↓apply_ite (blank l), ↓apply_ite Prod.snd, ite_self, ↓foldl_keeps, ↓foldr_keeps, ↓forUpTo_keeps, ↓foldl_snd_keeps] | rfl
  | succ n ih =>
    unfold recoverRun
    (repeat' (split <;> (try (rename_i heq; have hh := congrArg Prod.snd heq; dsimp only at hh; subst hh)))) <;> first | with_reducible rfl | simp (disch := first | assumption | (intro t x; first | with_reducible rfl | simp (disch := assumption) only [↓recoverItem_keeps, ↓blank_pool, ↓blank_fp, ↓blank_hostMem, ↓blank_plat, ↓blank_pool_fresh, ↓blank_ptns, ↓blank_regs, ↓blank_tens, ↓blank_msixHeld, ↓blank_fresh, ↓blank_emitted, ↓apply_ite (blank l), ↓apply_ite Prod.snd, ite_self, ↓ih] | ((repeat' (split <;> (try (rename_i heq; have hh := congrArg Prod.snd heq; dsimp only at hh; subst hh)))) <;> first | with_reducible rfl | simp (disch := assumption) only [↓recoverItem_keeps, ↓blank_pool, ↓blank_fp, ↓blank_hostMem, ↓blank_plat, ↓blank_pool_fresh, ↓blank_ptns, ↓blank_regs, ↓blank_tens, ↓blank_msixHeld, ↓blank_fresh, ↓blank_emitted, ↓apply_ite (blank l), ↓apply_ite Prod.snd, ite_self, ↓ih] | rfl))) only [↓recoverItem_keeps, ↓blank_pool, ↓blank_fp, ↓blank_hostMem, ↓blank_plat, ↓blank_pool_fresh, ↓blank_ptns, ↓blank_regs, ↓blank_tens, ↓blank_msixHeld, ↓blank_fresh, ↓blank_emitted, ↓apply_ite (blank l), ↓apply_ite Prod.snd, ite_self, ↓ih, ↓foldl_keeps, ↓foldr_keeps, ↓forUpTo_keeps, ↓foldl_snd_keeps] | rfl

theorem restoreSq_keeps {l : List Comp} (h_regs : Has l .regs) :
    ∀ s x1 x2, blank l (restoreSq s x1 x2) = blank l s := by
  intro s x1 x2
  unfold restoreSq
  simp (disch := assumption) only [↓wr_keeps, ↓apply_ite (blank l), ite_self]

theorem restoreCq_keeps {l : List Comp} (h_regs : Has l .regs) (h_ptns : Has l .ptns) :
    ∀ s x1 x2 x3, blank l (restoreCq s x1 x2 x3) = blank l s := by
  intro s x1 x2 x3
  unfold restoreCq
  simp (disch := assumption) only [↓wr_keeps, ↓setCq_keeps, ↓apply_ite (blank l), ite_self]

theorem restoreRings_keeps {l : List Comp} (h_regs : Has l .regs) (h_ptns : Has l .ptns) :
    ∀ s x1 x2, blank l (restoreRings s x1 x2) = blank l s := by
  intro s x1 x2
  unfold restoreRings
  (repeat' (split)) <;> first | with_reducible rfl | simp (disch := first | assumption | (intro t x; first | with_reducible rfl | simp (disch := assumption) only [↓restoreSq_keeps, ↓restoreCq_keeps] | ((repeat' (split)) <;> first | with_reducible rfl | simp (disch := assumption) only [↓restoreSq_keeps, ↓restoreCq_keeps] | rfl))) only [↓restoreSq_keeps, ↓restoreCq_keeps, ↓foldl_keeps, ↓foldr_keeps, ↓forUpTo_keeps, ↓foldl_snd_keeps]

theorem mirrorRecover_keeps {l : List Comp} (h_regs : Has l .regs) (h_ptns : Has l .ptns) (h_hostMem : Has l .hostMem) (h_emitted : Has l .emitted) :
    ∀ s x1 x2, blank l (mirrorRecover s x1 x2) = blank l s := by
  intro s x1 x2
  unfold mirrorRecover
  (repeat' (split)) <;> first | with_reducible rfl | simp (disch := first | assumption | (intro t x; first | with_reducible rfl | simp (disch := assumption) only [↓wr_keeps, ↓setPtn_keeps, ↓loseInput_keeps, ↓restoreRings_keeps, ↓apply_ite (blank l), ite_self] | ((repeat' (split)) <;> first | with_reducible rfl | simp (disch := assumption) only [↓wr_keeps, ↓setPtn_keeps, ↓loseInput_keeps, ↓restoreRings_keeps, ↓apply_ite (blank l), ite_self] | rfl))) only [↓wr_keeps, ↓setPtn_keeps, ↓loseInput_keeps, ↓restoreRings_keeps, ↓apply_ite (blank l), ite_self, ↓foldl_keeps, ↓foldr_keeps, ↓forUpTo_keeps, ↓foldl_snd_keeps]

theorem recoverOn_keeps {l : List Comp} (h_regs : Has l .regs) (h_fp : Has l .fp) (h_ptns : Has l .ptns) (h_pool : Has l .pool) (h_plat : Has l .plat) (h_tens : Has l .tens) (h_hostMem : Has l .hostMem) (h_msixHeld : Has l .msixHeld) (h_emitted : Has l .emitted) (h_fresh : Has l .fresh) :
    ∀ s x1, blank l (recoverOn s x1) = blank l s := by
  intro s x1
  unfold recoverOn
  (repeat' (split)) <;> first | with_reducible rfl | simp (disch := assumption) only [↓setPtn_keeps, ↓recoverRun_keeps, ↓mirrorRecover_keeps, ↓apply_ite (blank l), ite_self]

theorem recoverStart_keeps {l : List Comp} (h_regs : Has l .regs) (h_ptns : Has l .ptns) :
    ∀ s x1, blank l (recoverStart s x1) = blank l s := by
  intro s x1
  unfold recoverStart
  simp (disch := assumption) only [↓wr_keeps, ↓setPtn_keeps]

theorem recordTimeout_keeps {l : List Comp} (h_regs : Has l .regs) (h_ptns : Has l .ptns) (h_plat : Has l .plat) (h_hostMem : Has l .hostMem) (h_emitted : Has l .emitted) :
    ∀ s x1 x2, blank l (recordTimeout s x1 x2) = blank l s := by
  intro s x1 x2
  unfold recordTimeout
  (repeat' (split)) <;> first | with_reducible rfl | simp (disch := assumption) only [↓addSat_keeps, ↓dropStakeWait_keeps, ↓loseInput_keeps, ↓apply_ite (blank l), ite_self]

theorem lbIdle_keeps {l : List Comp} (h_regs : Has l .regs) :
    ∀ s x1, blank l (lbIdle s x1) = blank l s := by
  intro s x1
  unfold lbIdle
  simp (disch := assumption) only [↓wr_keeps]

theorem stopJournaled_keeps {l : List Comp} (h_regs : Has l .regs) (h_ptns : Has l .ptns) (h_pool : Has l .pool) (h_plat : Has l .plat) (h_tens : Has l .tens) (h_hostMem : Has l .hostMem) (h_msixHeld : Has l .msixHeld) (h_emitted : Has l .emitted) (h_fresh : Has l .fresh) :
    ∀ s x1 x2, blank l (stopJournaled s x1 x2) = blank l s := by
  intro s x1 x2
  unfold stopJournaled
  (repeat' (split)) <;> first | with_reducible rfl | simp (disch := assumption) only [↓recallParcel_keeps, ↓setHostItem_keeps, ↓freeItemStake_keeps, ↓apply_ite (blank l), ite_self]

end Sys2Proof.Machine
end

