-- ==== Sys2Proof/Laws/KeepSeals.lean ====
section
/-! SUPPORT. What each operation of Machine/Seals.lean leaves as it was. -/

set_option linter.unusedSimpArgs false

namespace Sys2Proof.Machine

theorem applyField_keeps {l : List Comp} (h_eff : Has l .eff) :
    ∀ s x1 x2, blank l (applyField s x1 x2) = blank l s := by
  intro s x1 x2
  unfold applyField
  (repeat' (split)) <;> first | with_reducible rfl | simp (disch := first | assumption | (intro t x; first | with_reducible rfl | simp (disch := assumption) only [↓wrApplied_keeps] | ((repeat' (split)) <;> first | with_reducible rfl | simp (disch := assumption) only [↓wrApplied_keeps] | rfl))) only [↓wrApplied_keeps, ↓foldl_keeps, ↓foldr_keeps, ↓forUpTo_keeps, ↓foldl_snd_keeps]

theorem applyShadows_keeps {l : List Comp} (h_regs : Has l .regs) (h_eff : Has l .eff) (h_sealAt : Has l .sealAt) (h_msixHeld : Has l .msixHeld) (h_emitted : Has l .emitted) :
    ∀ s x1 x2, blank l (applyShadows s x1 x2) = blank l s := by
  intro s x1 x2
  unfold applyShadows
  (repeat' (split)) <;> first | with_reducible rfl | simp (disch := first | assumption | (intro t x; first | with_reducible rfl | simp (disch := assumption) only [↓wr_keeps, ↓setEvt_keeps, ↓applyField_keeps, ↓blank_sealAt, ↓apply_ite (blank l), ite_self] | ((repeat' (split)) <;> first | with_reducible rfl | simp (disch := assumption) only [↓wr_keeps, ↓setEvt_keeps, ↓applyField_keeps, ↓blank_sealAt, ↓apply_ite (blank l), ite_self] | rfl))) only [↓wr_keeps, ↓setEvt_keeps, ↓applyField_keeps, ↓blank_sealAt, ↓apply_ite (blank l), ite_self, ↓foldl_keeps, ↓foldr_keeps, ↓forUpTo_keeps, ↓foldl_snd_keeps]

theorem applyDue_keeps {l : List Comp} (h_regs : Has l .regs) (h_eff : Has l .eff) (h_sealAt : Has l .sealAt) (h_msixHeld : Has l .msixHeld) (h_emitted : Has l .emitted) :
    ∀ s x1, blank l (applyDue s x1) = blank l s := by
  intro s x1
  unfold applyDue
  (repeat' (split)) <;> first | with_reducible rfl | simp (disch := first | assumption | (intro t x; first | with_reducible rfl | simp (disch := assumption) only [↓applyShadows_keeps] | ((repeat' (split)) <;> first | with_reducible rfl | simp (disch := assumption) only [↓applyShadows_keeps] | rfl))) only [↓applyShadows_keeps, ↓foldl_keeps, ↓foldr_keeps, ↓forUpTo_keeps, ↓foldl_snd_keeps]

end Sys2Proof.Machine
end

