-- ==== Sys2Proof/Laws/KeepTraverse.lean ====
section
/-! SUPPORT. What each operation of Machine/Traverse.lean leaves as it was. -/

set_option linter.unusedSimpArgs false

namespace Sys2Proof.Machine

theorem readAt_keeps {l : List Comp} (h_regs : Has l .regs) (h_fp : Has l .fp) (h_ptns : Has l .ptns) (h_migs : Has l .migs) (h_locs : Has l .locs) (h_tens : Has l .tens) (h_cdus : Has l .cdus) (h_fresh : Has l .fresh) :
    ∀ s x1 x2 x3, blank l (readAt s x1 x2 x3).2 = blank l s := by
  intro s x1 x2 x3
  unfold readAt
  simp (disch := assumption) only [↓readTile_keeps, ↓readLoc_keeps, ↓apply_ite (blank l), ↓apply_ite Prod.snd, ite_self]

theorem writeAt_keeps {l : List Comp} (h_regs : Has l .regs) (h_fp : Has l .fp) (h_stns : Has l .stns) (h_ptns : Has l .ptns) (h_migs : Has l .migs) (h_locs : Has l .locs) (h_spillFreed : Has l .spillFreed) (h_tens : Has l .tens) (h_cdus : Has l .cdus) (h_hostMem : Has l .hostMem) (h_emitted : Has l .emitted) (h_fresh : Has l .fresh) :
    ∀ s x1 x2 x3, blank l (writeAt s x1 x2 x3).2 = blank l s := by
  intro s x1 x2 x3
  unfold writeAt
  simp (disch := assumption) only [↓writeLoc_keeps, ↓apply_ite (blank l), ↓apply_ite Prod.snd, ite_self]

theorem readAll_keeps {l : List Comp} (h_regs : Has l .regs) (h_fp : Has l .fp) (h_ptns : Has l .ptns) (h_migs : Has l .migs) (h_locs : Has l .locs) (h_tens : Has l .tens) (h_cdus : Has l .cdus) (h_fresh : Has l .fresh) :
    ∀ x0 x1 s, blank l (readAll x0 x1 s).2 = blank l s := by
  intro x0 x1 s
  induction x1 generalizing x0 s with
  | nil =>
    unfold readAll
    (repeat' (split <;> (try (rename_i heq; have hh := congrArg Prod.snd heq; dsimp only at hh; subst hh)))) <;> first | with_reducible rfl | simp (disch := first | assumption | (intro t x; first | with_reducible rfl | simp (disch := assumption) only [↓readAt_keeps, ↓blank_cdus, ↓blank_fp, ↓blank_ptns, ↓blank_regs, ↓blank_tens, ↓blank_locs, ↓blank_migs, ↓blank_fresh, ↓apply_ite (blank l), ↓apply_ite Prod.snd, ite_self] | ((repeat' (split <;> (try (rename_i heq; have hh := congrArg Prod.snd heq; dsimp only at hh; subst hh)))) <;> first | with_reducible rfl | simp (disch := assumption) only [↓readAt_keeps, ↓blank_cdus, ↓blank_fp, ↓blank_ptns, ↓blank_regs, ↓blank_tens, ↓blank_locs, ↓blank_migs, ↓blank_fresh, ↓apply_ite (blank l), ↓apply_ite Prod.snd, ite_self] | rfl))) only [↓readAt_keeps, ↓blank_cdus, ↓blank_fp, ↓blank_ptns, ↓blank_regs, ↓blank_tens, ↓blank_locs, ↓blank_migs, ↓blank_fresh, ↓apply_ite (blank l), ↓apply_ite Prod.snd, ite_self, ↓foldl_keeps, ↓foldr_keeps, ↓forUpTo_keeps, ↓foldl_snd_keeps] | rfl
  | cons a r ih =>
    unfold readAll
    (repeat' (split <;> (try (rename_i heq; have hh := congrArg Prod.snd heq; dsimp only at hh; subst hh)))) <;> first | with_reducible rfl | simp (disch := first | assumption | (intro t x; first | with_reducible rfl | simp (disch := assumption) only [↓readAt_keeps, ↓blank_cdus, ↓blank_fp, ↓blank_ptns, ↓blank_regs, ↓blank_tens, ↓blank_locs, ↓blank_migs, ↓blank_fresh, ↓apply_ite (blank l), ↓apply_ite Prod.snd, ite_self, ↓ih] | ((repeat' (split <;> (try (rename_i heq; have hh := congrArg Prod.snd heq; dsimp only at hh; subst hh)))) <;> first | with_reducible rfl | simp (disch := assumption) only [↓readAt_keeps, ↓blank_cdus, ↓blank_fp, ↓blank_ptns, ↓blank_regs, ↓blank_tens, ↓blank_locs, ↓blank_migs, ↓blank_fresh, ↓apply_ite (blank l), ↓apply_ite Prod.snd, ite_self, ↓ih] | rfl))) only [↓readAt_keeps, ↓blank_cdus, ↓blank_fp, ↓blank_ptns, ↓blank_regs, ↓blank_tens, ↓blank_locs, ↓blank_migs, ↓blank_fresh, ↓apply_ite (blank l), ↓apply_ite Prod.snd, ite_self, ↓ih, ↓foldl_keeps, ↓foldr_keeps, ↓forUpTo_keeps, ↓foldl_snd_keeps] | rfl

theorem writeAll_keeps {l : List Comp} (h_regs : Has l .regs) (h_fp : Has l .fp) (h_stns : Has l .stns) (h_ptns : Has l .ptns) (h_migs : Has l .migs) (h_locs : Has l .locs) (h_spillFreed : Has l .spillFreed) (h_tens : Has l .tens) (h_cdus : Has l .cdus) (h_hostMem : Has l .hostMem) (h_emitted : Has l .emitted) (h_fresh : Has l .fresh) :
    ∀ x0 x1 x2 s, blank l (writeAll x0 x1 x2 s).2 = blank l s := by
  intro x0 x1 x2 s
  induction x1 generalizing x0 x2 s with
  | nil =>
    unfold writeAll
    (repeat' (split <;> (try (rename_i heq; have hh := congrArg Prod.snd heq; dsimp only at hh; subst hh)))) <;> first | with_reducible rfl | simp (disch := first | assumption | (intro t x; first | with_reducible rfl | simp (disch := assumption) only [↓writeAt_keeps, ↓blank_cdus, ↓blank_fp, ↓blank_hostMem, ↓blank_ptns, ↓blank_regs, ↓blank_tens, ↓blank_locs, ↓blank_migs, ↓blank_fresh, ↓blank_stns, ↓blank_spillFreed, ↓blank_emitted, ↓apply_ite (blank l), ↓apply_ite Prod.snd, ite_self] | ((repeat' (split <;> (try (rename_i heq; have hh := congrArg Prod.snd heq; dsimp only at hh; subst hh)))) <;> first | with_reducible rfl | simp (disch := assumption) only [↓writeAt_keeps, ↓blank_cdus, ↓blank_fp, ↓blank_hostMem, ↓blank_ptns, ↓blank_regs, ↓blank_tens, ↓blank_locs, ↓blank_migs, ↓blank_fresh, ↓blank_stns, ↓blank_spillFreed, ↓blank_emitted, ↓apply_ite (blank l), ↓apply_ite Prod.snd, ite_self] | rfl))) only [↓writeAt_keeps, ↓blank_cdus, ↓blank_fp, ↓blank_hostMem, ↓blank_ptns, ↓blank_regs, ↓blank_tens, ↓blank_locs, ↓blank_migs, ↓blank_fresh, ↓blank_stns, ↓blank_spillFreed, ↓blank_emitted, ↓apply_ite (blank l), ↓apply_ite Prod.snd, ite_self, ↓foldl_keeps, ↓foldr_keeps, ↓forUpTo_keeps, ↓foldl_snd_keeps] | rfl
  | cons a r ih =>
    unfold writeAll
    (repeat' (split <;> (try (rename_i heq; have hh := congrArg Prod.snd heq; dsimp only at hh; subst hh)))) <;> first | with_reducible rfl | simp (disch := first | assumption | (intro t x; first | with_reducible rfl | simp (disch := assumption) only [↓writeAt_keeps, ↓blank_cdus, ↓blank_fp, ↓blank_hostMem, ↓blank_ptns, ↓blank_regs, ↓blank_tens, ↓blank_locs, ↓blank_migs, ↓blank_fresh, ↓blank_stns, ↓blank_spillFreed, ↓blank_emitted, ↓apply_ite (blank l), ↓apply_ite Prod.snd, ite_self, ↓ih] | ((repeat' (split <;> (try (rename_i heq; have hh := congrArg Prod.snd heq; dsimp only at hh; subst hh)))) <;> first | with_reducible rfl | simp (disch := assumption) only [↓writeAt_keeps, ↓blank_cdus, ↓blank_fp, ↓blank_hostMem, ↓blank_ptns, ↓blank_regs, ↓blank_tens, ↓blank_locs, ↓blank_migs, ↓blank_fresh, ↓blank_stns, ↓blank_spillFreed, ↓blank_emitted, ↓apply_ite (blank l), ↓apply_ite Prod.snd, ite_self, ↓ih] | rfl))) only [↓writeAt_keeps, ↓blank_cdus, ↓blank_fp, ↓blank_hostMem, ↓blank_ptns, ↓blank_regs, ↓blank_tens, ↓blank_locs, ↓blank_migs, ↓blank_fresh, ↓blank_stns, ↓blank_spillFreed, ↓blank_emitted, ↓apply_ite (blank l), ↓apply_ite Prod.snd, ite_self, ↓ih, ↓foldl_keeps, ↓foldr_keeps, ↓forUpTo_keeps, ↓foldl_snd_keeps] | rfl

theorem beginBarrier_keeps {l : List Comp} (h_regs : Has l .regs) (h_ptns : Has l .ptns) (h_pool : Has l .pool) (h_mer : Has l .mer) (h_plat : Has l .plat) (h_tens : Has l .tens) (h_trv : Has l .trv) (h_hostMem : Has l .hostMem) (h_msixHeld : Has l .msixHeld) (h_emitted : Has l .emitted) (h_fresh : Has l .fresh) :
    ∀ s x1 x2 x3, blank l (beginBarrier s x1 x2 x3) = blank l s := by
  intro s x1 x2 x3
  unfold beginBarrier
  dsimp only
  (repeat' (split)) <;> first | with_reducible rfl | simp (disch := assumption) only [↓setTrvItem_keeps, ↓countArrival_keeps, ↓blank_trv, ↓apply_ite (blank l), ite_self]

theorem acceptTrv_keeps {l : List Comp} (h_regs : Has l .regs) (h_ptns : Has l .ptns) (h_pool : Has l .pool) (h_mer : Has l .mer) (h_plat : Has l .plat) (h_tens : Has l .tens) (h_trv : Has l .trv) (h_hostMem : Has l .hostMem) (h_msixHeld : Has l .msixHeld) (h_emitted : Has l .emitted) (h_fresh : Has l .fresh) :
    ∀ s x1 x2 x3 x4, blank l (acceptTrv s x1 x2 x3 x4) = blank l s := by
  intro s x1 x2 x3 x4
  unfold acceptTrv
  simp (disch := assumption) only [↓setTrc_keeps, ↓hwRead_keeps, ↓postTrv_keeps, ↓beginBarrier_keeps, ↓blank_trv, ↓apply_ite (blank l), ite_self]

theorem reserveTrvCpl_keeps {l : List Comp} (h_regs : Has l .regs) (h_ptns : Has l .ptns) (h_pool : Has l .pool) (h_mer : Has l .mer) (h_plat : Has l .plat) (h_tens : Has l .tens) (h_trv : Has l .trv) (h_hostMem : Has l .hostMem) (h_msixHeld : Has l .msixHeld) (h_emitted : Has l .emitted) (h_fresh : Has l .fresh) :
    ∀ s x1 x2 x3, blank l (reserveTrvCpl s x1 x2 x3) = blank l s := by
  intro s x1 x2 x3
  unfold reserveTrvCpl
  dsimp only
  (repeat' (split <;> (try (rename_i heq; have hh := congrArg Prod.snd heq; dsimp only at hh; subst hh)))) <;> first | with_reducible rfl | simp (disch := assumption) only [↓freeStake_keeps, ↓reserveWait_keeps, ↓takeGranted_keeps, ↓keepStake_keeps, ↓acceptTrv_keeps, ↓apply_ite (blank l), ite_self]

theorem tryAcceptTrv_keeps {l : List Comp} (h_regs : Has l .regs) (h_ptns : Has l .ptns) (h_pool : Has l .pool) (h_mer : Has l .mer) (h_plat : Has l .plat) (h_tens : Has l .tens) (h_trv : Has l .trv) (h_hostMem : Has l .hostMem) (h_msixHeld : Has l .msixHeld) (h_emitted : Has l .emitted) (h_fresh : Has l .fresh) :
    ∀ s x1 x2, blank l (tryAcceptTrv s x1 x2) = blank l s := by
  intro s x1 x2
  unfold tryAcceptTrv
  dsimp only
  (repeat' (split <;> (try (rename_i heq; have hh := congrArg Prod.snd heq; dsimp only at hh; subst hh)))) <;> first | with_reducible rfl | simp (disch := assumption) only [↓acquireStake_keeps, ↓hwRead_keeps, ↓takeEnded_keeps, ↓reserveTrvCpl_keeps, ↓apply_ite (blank l), ite_self]

theorem emitPacket_keeps {l : List Comp} (h_regs : Has l .regs) (h_mer : Has l .mer) (h_msixHeld : Has l .msixHeld) (h_emitted : Has l .emitted) (h_fresh : Has l .fresh) :
    ∀ s x1 x2 x3 x4 x5 x6 x7, blank l (emitPacket s x1 x2 x3 x4 x5 x6 x7) = blank l s := by
  intro s x1 x2 x3 x4 x5 x6 x7
  unfold emitPacket
  simp (disch := assumption) only [↓emit_keeps, ↓pushStamp_keeps, ↓apply_ite (blank l), ite_self]

theorem sendPacket_keeps {l : List Comp} (h_regs : Has l .regs) (h_mer : Has l .mer) (h_trv : Has l .trv) (h_msixHeld : Has l .msixHeld) (h_emitted : Has l .emitted) (h_fresh : Has l .fresh) :
    ∀ s x1 x2 x3 x4 x5 x6, blank l (sendPacket s x1 x2 x3 x4 x5 x6) = blank l s := by
  intro s x1 x2 x3 x4 x5 x6
  unfold sendPacket
  simp (disch := assumption) only [↓setTrvItem_keeps, ↓emitPacket_keeps, ↓blank_trv]

theorem sendNext_keeps {l : List Comp} (h_regs : Has l .regs) (h_fp : Has l .fp) (h_ptns : Has l .ptns) (h_migs : Has l .migs) (h_locs : Has l .locs) (h_pool : Has l .pool) (h_mer : Has l .mer) (h_plat : Has l .plat) (h_tens : Has l .tens) (h_cdus : Has l .cdus) (h_trv : Has l .trv) (h_hostMem : Has l .hostMem) (h_msixHeld : Has l .msixHeld) (h_emitted : Has l .emitted) (h_fresh : Has l .fresh) :
    ∀ s x1 x2, ∀ t, sendNext s x1 x2 = some t → blank l t = blank l s := by
  intro s x1 x2 t h
  unfold sendNext at h
  dsimp only at h
  (repeat' (split at h <;> (try (rename_i heq; have hh := congrArg Prod.snd heq; dsimp only at hh; subst hh)))) <;> (cases h <;> (first | with_reducible rfl | simp (disch := assumption) only [↓ueHit_keeps, ↓setTrvItem_keeps, ↓endTrv_keeps, ↓postTrvAll_keeps, ↓readAll_keeps, ↓sendPacket_keeps, ↓apply_ite (blank l), ↓apply_ite Prod.snd, ite_self] | ((repeat' (split <;> (try (rename_i heq; have hh := congrArg Prod.snd heq; dsimp only at hh; subst hh)))) <;> first | with_reducible rfl | simp (disch := first | assumption | (intro t x; first | with_reducible rfl | simp (disch := assumption) only [↓ueHit_keeps, ↓setTrvItem_keeps, ↓endTrv_keeps, ↓postTrvAll_keeps, ↓readAll_keeps, ↓sendPacket_keeps, ↓apply_ite (blank l), ↓apply_ite Prod.snd, ite_self] | ((repeat' (split <;> (try (rename_i heq; have hh := congrArg Prod.snd heq; dsimp only at hh; subst hh)))) <;> first | with_reducible rfl | simp (disch := assumption) only [↓ueHit_keeps, ↓setTrvItem_keeps, ↓endTrv_keeps, ↓postTrvAll_keeps, ↓readAll_keeps, ↓sendPacket_keeps, ↓apply_ite (blank l), ↓apply_ite Prod.snd, ite_self] | rfl))) only [↓ueHit_keeps, ↓setTrvItem_keeps, ↓endTrv_keeps, ↓postTrvAll_keeps, ↓readAll_keeps, ↓sendPacket_keeps, ↓apply_ite (blank l), ↓apply_ite Prod.snd, ite_self, ↓foldl_keeps, ↓foldr_keeps, ↓forUpTo_keeps, ↓foldl_snd_keeps] | rfl)))

theorem sendAll_keeps {l : List Comp} (h_regs : Has l .regs) (h_fp : Has l .fp) (h_ptns : Has l .ptns) (h_migs : Has l .migs) (h_locs : Has l .locs) (h_pool : Has l .pool) (h_mer : Has l .mer) (h_plat : Has l .plat) (h_tens : Has l .tens) (h_cdus : Has l .cdus) (h_trv : Has l .trv) (h_hostMem : Has l .hostMem) (h_msixHeld : Has l .msixHeld) (h_emitted : Has l .emitted) (h_fresh : Has l .fresh) :
    ∀ x0 x1 x2 s, blank l (sendAll x0 x1 x2 s) = blank l s := by
  intro x0 x1 x2 s
  induction x2 generalizing x0 x1 s with
  | zero =>
    unfold sendAll
    (repeat' (split <;> (try (rename_i heq; have hh := sendNext_keeps h_regs h_fp h_ptns h_migs h_locs h_pool h_mer h_plat h_tens h_cdus h_trv h_hostMem h_msixHeld h_emitted h_fresh _ _ _ _ heq)))) <;> first | with_reducible rfl | simp (disch := first | assumption | (intro t x; first | with_reducible rfl | simp (disch := assumption) only [ite_self, *] | ((repeat' (split <;> (try (rename_i heq; have hh := sendNext_keeps h_regs h_fp h_ptns h_migs h_locs h_pool h_mer h_plat h_tens h_cdus h_trv h_hostMem h_msixHeld h_emitted h_fresh _ _ _ _ heq)))) <;> first | with_reducible rfl | simp (disch := assumption) only [ite_self, *] | rfl))) only [ite_self, ↓foldl_keeps, ↓foldr_keeps, ↓forUpTo_keeps, ↓foldl_snd_keeps, *] | rfl
  | succ n ih =>
    unfold sendAll
    (repeat' (split <;> (try (rename_i heq; have hh := sendNext_keeps h_regs h_fp h_ptns h_migs h_locs h_pool h_mer h_plat h_tens h_cdus h_trv h_hostMem h_msixHeld h_emitted h_fresh _ _ _ _ heq)))) <;> first | with_reducible rfl | simp (disch := first | assumption | (intro t x; first | with_reducible rfl | simp (disch := assumption) only [ite_self, ↓ih, *] | ((repeat' (split <;> (try (rename_i heq; have hh := sendNext_keeps h_regs h_fp h_ptns h_migs h_locs h_pool h_mer h_plat h_tens h_cdus h_trv h_hostMem h_msixHeld h_emitted h_fresh _ _ _ _ heq)))) <;> first | with_reducible rfl | simp (disch := assumption) only [ite_self, ↓ih, *] | rfl))) only [ite_self, ↓ih, ↓foldl_keeps, ↓foldr_keeps, ↓forUpTo_keeps, ↓foldl_snd_keeps, *] | rfl

theorem sendOps_keeps {l : List Comp} (h_regs : Has l .regs) (h_fp : Has l .fp) (h_ptns : Has l .ptns) (h_migs : Has l .migs) (h_locs : Has l .locs) (h_pool : Has l .pool) (h_mer : Has l .mer) (h_plat : Has l .plat) (h_tens : Has l .tens) (h_cdus : Has l .cdus) (h_trv : Has l .trv) (h_hostMem : Has l .hostMem) (h_msixHeld : Has l .msixHeld) (h_emitted : Has l .emitted) (h_fresh : Has l .fresh) :
    ∀ s x1 x2, blank l (sendOps s x1 x2) = blank l s := by
  intro s x1 x2
  unfold sendOps
  (repeat' (split)) <;> first | with_reducible rfl | simp (disch := first | assumption | (intro t x; first | with_reducible rfl | simp (disch := assumption) only [↓sendAll_keeps, ↓apply_ite (blank l), ite_self] | ((repeat' (split)) <;> first | with_reducible rfl | simp (disch := assumption) only [↓sendAll_keeps, ↓apply_ite (blank l), ite_self] | rfl))) only [↓sendAll_keeps, ↓apply_ite (blank l), ite_self, ↓foldl_keeps, ↓foldr_keeps, ↓forUpTo_keeps, ↓foldl_snd_keeps]

theorem trvRun_keeps {l : List Comp} (h_regs : Has l .regs) (h_fp : Has l .fp) (h_ptns : Has l .ptns) (h_migs : Has l .migs) (h_locs : Has l .locs) (h_pool : Has l .pool) (h_mer : Has l .mer) (h_plat : Has l .plat) (h_tens : Has l .tens) (h_cdus : Has l .cdus) (h_trv : Has l .trv) (h_hostMem : Has l .hostMem) (h_msixHeld : Has l .msixHeld) (h_emitted : Has l .emitted) (h_fresh : Has l .fresh) :
    ∀ x0 x1 s, blank l (trvRun x0 x1 s) = blank l s := by
  intro x0 x1 s
  unfold trvRun
  simp (disch := assumption) only [↓tryAcceptTrv_keeps, ↓sendOps_keeps]

theorem effLoad_keeps {l : List Comp} (h_regs : Has l .regs) (h_fp : Has l .fp) (h_ptns : Has l .ptns) (h_migs : Has l .migs) (h_locs : Has l .locs) (h_pool : Has l .pool) (h_mer : Has l .mer) (h_plat : Has l .plat) (h_tens : Has l .tens) (h_cdus : Has l .cdus) (h_trv : Has l .trv) (h_hostMem : Has l .hostMem) (h_msixHeld : Has l .msixHeld) (h_emitted : Has l .emitted) (h_fresh : Has l .fresh) :
    ∀ x0 s, blank l (effLoad x0 s) = blank l s := by
  intro x0 s
  unfold effLoad
  simp (disch := assumption) only [↓trvRun_keeps]

theorem effStore_keeps {l : List Comp} (h_regs : Has l .regs) (h_fp : Has l .fp) (h_ptns : Has l .ptns) (h_migs : Has l .migs) (h_locs : Has l .locs) (h_pool : Has l .pool) (h_mer : Has l .mer) (h_plat : Has l .plat) (h_tens : Has l .tens) (h_cdus : Has l .cdus) (h_trv : Has l .trv) (h_hostMem : Has l .hostMem) (h_msixHeld : Has l .msixHeld) (h_emitted : Has l .emitted) (h_fresh : Has l .fresh) :
    ∀ x0 s, blank l (effStore x0 s) = blank l s := by
  intro x0 s
  unfold effStore
  simp (disch := assumption) only [↓trvRun_keeps]

theorem effFlag_keeps {l : List Comp} (h_regs : Has l .regs) (h_fp : Has l .fp) (h_ptns : Has l .ptns) (h_migs : Has l .migs) (h_locs : Has l .locs) (h_pool : Has l .pool) (h_mer : Has l .mer) (h_plat : Has l .plat) (h_tens : Has l .tens) (h_cdus : Has l .cdus) (h_trv : Has l .trv) (h_hostMem : Has l .hostMem) (h_msixHeld : Has l .msixHeld) (h_emitted : Has l .emitted) (h_fresh : Has l .fresh) :
    ∀ x0 s, blank l (effFlag x0 s) = blank l s := by
  intro x0 s
  unfold effFlag
  simp (disch := assumption) only [↓trvRun_keeps]

theorem effAtomic_keeps {l : List Comp} (h_regs : Has l .regs) (h_fp : Has l .fp) (h_ptns : Has l .ptns) (h_migs : Has l .migs) (h_locs : Has l .locs) (h_pool : Has l .pool) (h_mer : Has l .mer) (h_plat : Has l .plat) (h_tens : Has l .tens) (h_cdus : Has l .cdus) (h_trv : Has l .trv) (h_hostMem : Has l .hostMem) (h_msixHeld : Has l .msixHeld) (h_emitted : Has l .emitted) (h_fresh : Has l .fresh) :
    ∀ x0 s, blank l (effAtomic x0 s) = blank l s := by
  intro x0 s
  unfold effAtomic
  simp (disch := assumption) only [↓trvRun_keeps]

theorem effMerge_keeps {l : List Comp} (h_regs : Has l .regs) (h_fp : Has l .fp) (h_ptns : Has l .ptns) (h_migs : Has l .migs) (h_locs : Has l .locs) (h_pool : Has l .pool) (h_mer : Has l .mer) (h_plat : Has l .plat) (h_tens : Has l .tens) (h_cdus : Has l .cdus) (h_trv : Has l .trv) (h_hostMem : Has l .hostMem) (h_msixHeld : Has l .msixHeld) (h_emitted : Has l .emitted) (h_fresh : Has l .fresh) :
    ∀ x0 s, blank l (effMerge x0 s) = blank l s := by
  intro x0 s
  unfold effMerge
  simp (disch := assumption) only [↓trvRun_keeps]

theorem effPut_keeps {l : List Comp} (h_regs : Has l .regs) (h_fp : Has l .fp) (h_ptns : Has l .ptns) (h_migs : Has l .migs) (h_locs : Has l .locs) (h_pool : Has l .pool) (h_mer : Has l .mer) (h_plat : Has l .plat) (h_tens : Has l .tens) (h_cdus : Has l .cdus) (h_trv : Has l .trv) (h_hostMem : Has l .hostMem) (h_msixHeld : Has l .msixHeld) (h_emitted : Has l .emitted) (h_fresh : Has l .fresh) :
    ∀ x0 s, blank l (effPut x0 s) = blank l s := by
  intro x0 s
  unfold effPut
  simp (disch := assumption) only [↓trvRun_keeps]

theorem effGet_keeps {l : List Comp} (h_regs : Has l .regs) (h_fp : Has l .fp) (h_ptns : Has l .ptns) (h_migs : Has l .migs) (h_locs : Has l .locs) (h_pool : Has l .pool) (h_mer : Has l .mer) (h_plat : Has l .plat) (h_tens : Has l .tens) (h_cdus : Has l .cdus) (h_trv : Has l .trv) (h_hostMem : Has l .hostMem) (h_msixHeld : Has l .msixHeld) (h_emitted : Has l .emitted) (h_fresh : Has l .fresh) :
    ∀ x0 s, blank l (effGet x0 s) = blank l s := by
  intro x0 s
  unfold effGet
  simp (disch := assumption) only [↓trvRun_keeps]

theorem effBarrier_keeps {l : List Comp} (h_regs : Has l .regs) (h_fp : Has l .fp) (h_ptns : Has l .ptns) (h_migs : Has l .migs) (h_locs : Has l .locs) (h_pool : Has l .pool) (h_mer : Has l .mer) (h_plat : Has l .plat) (h_tens : Has l .tens) (h_cdus : Has l .cdus) (h_trv : Has l .trv) (h_hostMem : Has l .hostMem) (h_msixHeld : Has l .msixHeld) (h_emitted : Has l .emitted) (h_fresh : Has l .fresh) :
    ∀ x0 s, blank l (effBarrier x0 s) = blank l s := by
  intro x0 s
  unfold effBarrier
  simp (disch := assumption) only [↓trvRun_keeps]

theorem landLoad_keeps {l : List Comp} (h_regs : Has l .regs) (h_fp : Has l .fp) (h_stns : Has l .stns) (h_ptns : Has l .ptns) (h_migs : Has l .migs) (h_locs : Has l .locs) (h_spillFreed : Has l .spillFreed) (h_tens : Has l .tens) (h_cdus : Has l .cdus) (h_trv : Has l .trv) (h_hostMem : Has l .hostMem) (h_emitted : Has l .emitted) (h_fresh : Has l .fresh) :
    ∀ s x1 x2 x3 x4, blank l (landLoad s x1 x2 x3 x4).2 = blank l s := by
  intro s x1 x2 x3 x4
  unfold landLoad
  (repeat' (split <;> (try (rename_i heq; have hh := congrArg Prod.snd heq; dsimp only at hh; subst hh)))) <;> first | with_reducible rfl | simp (disch := assumption) only [↓ueHit_keeps, ↓decideTrv_keeps, ↓writeAll_keeps, ↓apply_ite (blank l), ↓apply_ite Prod.snd, ite_self]

theorem landLoads_keeps {l : List Comp} (h_regs : Has l .regs) (h_fp : Has l .fp) (h_stns : Has l .stns) (h_ptns : Has l .ptns) (h_migs : Has l .migs) (h_locs : Has l .locs) (h_spillFreed : Has l .spillFreed) (h_pool : Has l .pool) (h_plat : Has l .plat) (h_tens : Has l .tens) (h_cdus : Has l .cdus) (h_trv : Has l .trv) (h_hostMem : Has l .hostMem) (h_msixHeld : Has l .msixHeld) (h_emitted : Has l .emitted) (h_fresh : Has l .fresh) :
    ∀ s x1 x2 x3 x4, blank l (landLoads s x1 x2 x3 x4).2 = blank l s := by
  intro s x1 x2 x3 x4
  unfold landLoads
  dsimp only
  have key : blank l ((attachedTo s x2.id ++ [(x1, x2)]).foldl (fun (r : Bool × State) e =>
      if r.1 then landLoad r.2 e.1 e.2 x3 (ofBool x4) else r) (true, s)).2 = blank l s := by
    refine foldl_snd_keeps _ (fun t x => ?_) _ _
    split
    · exact landLoad_keeps h_regs h_fp h_stns h_ptns h_migs h_locs h_spillFreed h_tens h_cdus h_trv h_hostMem h_emitted h_fresh _ _ _ _ _
    · rfl
  split
  · rw [postTrvAll_keeps h_regs h_ptns h_pool h_plat h_tens h_trv h_hostMem h_msixHeld h_emitted h_fresh, key]
  · exact key

theorem answeredPart_keeps {l : List Comp} (h_regs : Has l .regs) (h_ptns : Has l .ptns) (h_pool : Has l .pool) (h_plat : Has l .plat) (h_tens : Has l .tens) (h_trv : Has l .trv) (h_hostMem : Has l .hostMem) (h_msixHeld : Has l .msixHeld) (h_emitted : Has l .emitted) (h_fresh : Has l .fresh) :
    ∀ s x1 x2, blank l (answeredPart s x1 x2) = blank l s := by
  intro s x1 x2
  unfold answeredPart
  simp (disch := assumption) only [↓setTrvItem_keeps, ↓decideTrv_keeps, ↓postTrvAll_keeps, ↓bumpCounter_keeps, ↓apply_ite (blank l), ite_self]

theorem goodReply_keeps {l : List Comp} (h_regs : Has l .regs) (h_fp : Has l .fp) (h_stns : Has l .stns) (h_ptns : Has l .ptns) (h_migs : Has l .migs) (h_locs : Has l .locs) (h_spillFreed : Has l .spillFreed) (h_pool : Has l .pool) (h_plat : Has l .plat) (h_tens : Has l .tens) (h_cdus : Has l .cdus) (h_trv : Has l .trv) (h_hostMem : Has l .hostMem) (h_msixHeld : Has l .msixHeld) (h_emitted : Has l .emitted) (h_fresh : Has l .fresh) :
    ∀ s x1 x2 x3 x4 x5, blank l (goodReply s x1 x2 x3 x4 x5).2 = blank l s := by
  intro s x1 x2 x3 x4 x5
  unfold goodReply
  (repeat' (split <;> (try (rename_i heq; have hh := congrArg Prod.snd heq; dsimp only at hh; subst hh)))) <;> first | with_reducible rfl | simp (disch := assumption) only [↓ueHit_keeps, ↓decideTrv_keeps, ↓endTrv_keeps, ↓postTrvAll_keeps, ↓writeAll_keeps, ↓landLoads_keeps, ↓answeredPart_keeps]

theorem landReply_keeps {l : List Comp} (h_regs : Has l .regs) (h_fp : Has l .fp) (h_stns : Has l .stns) (h_ptns : Has l .ptns) (h_migs : Has l .migs) (h_locs : Has l .locs) (h_spillFreed : Has l .spillFreed) (h_pool : Has l .pool) (h_plat : Has l .plat) (h_tens : Has l .tens) (h_cdus : Has l .cdus) (h_trv : Has l .trv) (h_hostMem : Has l .hostMem) (h_msixHeld : Has l .msixHeld) (h_emitted : Has l .emitted) (h_fresh : Has l .fresh) :
    ∀ s x1, blank l (landReply s x1) = blank l s := by
  intro s x1
  unfold landReply
  dsimp only
  (repeat' (split <;> (try (rename_i heq; have hh := congrArg Prod.snd heq; dsimp only at hh; subst hh)))) <;> first | with_reducible rfl | simp (disch := assumption) only [↓reply_keeps, ↓goodReply_keeps, ↓blank_trv, ↓apply_ite (blank l), ite_self]

theorem effReplyArrival_keeps {l : List Comp} (h_regs : Has l .regs) (h_fp : Has l .fp) (h_stns : Has l .stns) (h_ptns : Has l .ptns) (h_migs : Has l .migs) (h_locs : Has l .locs) (h_spillFreed : Has l .spillFreed) (h_pool : Has l .pool) (h_plat : Has l .plat) (h_tens : Has l .tens) (h_cdus : Has l .cdus) (h_trv : Has l .trv) (h_hostMem : Has l .hostMem) (h_msixHeld : Has l .msixHeld) (h_emitted : Has l .emitted) (h_fresh : Has l .fresh) :
    ∀ x0 x1 x2 s, blank l (effReplyArrival x0 x1 x2 s) = blank l s := by
  intro x0 x1 x2 s
  unfold effReplyArrival
  (repeat' (split)) <;> first | with_reducible rfl | simp (disch := assumption) only [↓setTrvItem_keeps, ↓endTrv_keeps, ↓postTrvAll_keeps, ↓authDrop_keeps, ↓reply_keeps, ↓landReply_keeps, ↓apply_ite (blank l), ite_self]

theorem resend_keeps {l : List Comp} (h_regs : Has l .regs) (h_fp : Has l .fp) (h_ptns : Has l .ptns) (h_migs : Has l .migs) (h_locs : Has l .locs) (h_pool : Has l .pool) (h_mer : Has l .mer) (h_plat : Has l .plat) (h_tens : Has l .tens) (h_cdus : Has l .cdus) (h_trv : Has l .trv) (h_hostMem : Has l .hostMem) (h_msixHeld : Has l .msixHeld) (h_emitted : Has l .emitted) (h_fresh : Has l .fresh) :
    ∀ s x1 x2 x3, blank l (resend s x1 x2 x3) = blank l s := by
  intro s x1 x2 x3
  unfold resend
  (repeat' (split <;> (try (rename_i heq; have hh := congrArg Prod.snd heq; dsimp only at hh; subst hh)))) <;> first | with_reducible rfl | simp (disch := assumption) only [↓addSat_keeps, ↓ueHit_keeps, ↓setTrvItem_keeps, ↓endTrv_keeps, ↓postTrvAll_keeps, ↓readAll_keeps, ↓emitPacket_keeps, ↓apply_ite (blank l), ite_self]

theorem effRetryTimeout_keeps {l : List Comp} (h_regs : Has l .regs) (h_fp : Has l .fp) (h_ptns : Has l .ptns) (h_migs : Has l .migs) (h_locs : Has l .locs) (h_pool : Has l .pool) (h_mer : Has l .mer) (h_plat : Has l .plat) (h_tens : Has l .tens) (h_cdus : Has l .cdus) (h_trv : Has l .trv) (h_hostMem : Has l .hostMem) (h_msixHeld : Has l .msixHeld) (h_emitted : Has l .emitted) (h_fresh : Has l .fresh) :
    ∀ x0 s, blank l (effRetryTimeout x0 s) = blank l s := by
  intro x0 s
  unfold effRetryTimeout
  (repeat' (split)) <;> first | with_reducible rfl | simp (disch := assumption) only [↓endTrv_keeps, ↓postTrvAll_keeps, ↓resend_keeps, ↓apply_ite (blank l), ite_self]

theorem replyBusy_keeps {l : List Comp} (h_emitted : Has l .emitted) :
    ∀ s x1 x2 x3, blank l (replyBusy s x1 x2 x3) = blank l s := by
  intro s x1 x2 x3
  unfold replyBusy
  simp (disch := assumption) only [↓emit_keeps]

theorem inboundGate_keeps {l : List Comp} (h_regs : Has l .regs) (h_emitted : Has l .emitted) :
    ∀ s x1 x2 x3, ∀ t, inboundGate s x1 x2 x3 = .inr t → blank l t = blank l s := by
  intro s x1 x2 x3 t h
  unfold inboundGate at h
  dsimp only at h
  (repeat' (split at h)) <;> (cases h <;> (first | with_reducible rfl | simp (disch := assumption) only [↓addSat_keeps, ↓reply_keeps, ↓replyBusy_keeps, ↓apply_ite (blank l), ↓apply_ite Prod.snd, ite_self] | ((repeat' (split)) <;> first | with_reducible rfl | simp (disch := first | assumption | (intro t x; first | with_reducible rfl | simp (disch := assumption) only [↓addSat_keeps, ↓reply_keeps, ↓replyBusy_keeps, ↓apply_ite (blank l), ↓apply_ite Prod.snd, ite_self] | ((repeat' (split)) <;> first | with_reducible rfl | simp (disch := assumption) only [↓addSat_keeps, ↓reply_keeps, ↓replyBusy_keeps, ↓apply_ite (blank l), ↓apply_ite Prod.snd, ite_self] | rfl))) only [↓addSat_keeps, ↓reply_keeps, ↓replyBusy_keeps, ↓apply_ite (blank l), ↓apply_ite Prod.snd, ite_self, ↓foldl_keeps, ↓foldr_keeps, ↓forUpTo_keeps, ↓foldl_snd_keeps] | rfl)))

theorem applied_keeps {l : List Comp} (h_regs : Has l .regs) :
    ∀ s x1, blank l (applied s x1) = blank l s := by
  intro s x1
  unfold applied
  simp (disch := assumption) only [↓addSat_keeps]

theorem countPut_keeps {l : List Comp} (h_regs : Has l .regs) (h_pool : Has l .pool) (h_tens : Has l .tens) (h_trv : Has l .trv) (h_msixHeld : Has l .msixHeld) (h_emitted : Has l .emitted) (h_fresh : Has l .fresh) :
    ∀ s x1 x2 x3, blank l (countPut s x1 x2 x3) = blank l s := by
  intro s x1 x2 x3
  unfold countPut
  simp (disch := assumption) only [↓bumpCounter_keeps, ↓blank_trv, ↓apply_ite (blank l), ite_self]

theorem applyValue_keeps {l : List Comp} (h_regs : Has l .regs) (h_fp : Has l .fp) (h_stns : Has l .stns) (h_ptns : Has l .ptns) (h_migs : Has l .migs) (h_locs : Has l .locs) (h_spillFreed : Has l .spillFreed) (h_tens : Has l .tens) (h_cdus : Has l .cdus) (h_hostMem : Has l .hostMem) (h_emitted : Has l .emitted) (h_fresh : Has l .fresh) :
    ∀ s x1 x2 x3, blank l (applyValue s x1 x2 x3).2 = blank l s := by
  intro s x1 x2 x3
  unfold applyValue
  (repeat' (split <;> (try (rename_i heq; have hh := congrArg Prod.snd heq; dsimp only at hh; subst hh)))) <;> first | with_reducible rfl | simp (disch := assumption) only [↓readAll_keeps, ↓writeAll_keeps]

theorem dropPut_keeps {l : List Comp} (h_trv : Has l .trv) :
    ∀ s x1 x2, blank l (dropPut s x1 x2) = blank l s := by
  intro s x1 x2
  unfold dropPut
  simp (disch := assumption) only [↓blank_trv]

theorem applyReq_keeps {l : List Comp} (h_regs : Has l .regs) (h_fp : Has l .fp) (h_stns : Has l .stns) (h_ptns : Has l .ptns) (h_migs : Has l .migs) (h_locs : Has l .locs) (h_spillFreed : Has l .spillFreed) (h_pool : Has l .pool) (h_tens : Has l .tens) (h_cdus : Has l .cdus) (h_trv : Has l .trv) (h_hostMem : Has l .hostMem) (h_msixHeld : Has l .msixHeld) (h_emitted : Has l .emitted) (h_fresh : Has l .fresh) :
    ∀ s x1 x2 x3 x4, blank l (applyReq s x1 x2 x3 x4).2 = blank l s := by
  intro s x1 x2 x3 x4
  unfold applyReq
  dsimp only
  (repeat' (split <;> (try (rename_i heq; have hh := congrArg Prod.snd heq; dsimp only at hh; subst hh)))) <;> first | with_reducible rfl | simp (disch := assumption) only [↓readAll_keeps, ↓writeAll_keeps, ↓applied_keeps, ↓countPut_keeps, ↓applyValue_keeps, ↓dropPut_keeps, ↓apply_ite (blank l), ↓apply_ite Prod.snd, ite_self]

theorem serveAtomic_keeps {l : List Comp} (h_regs : Has l .regs) (h_fp : Has l .fp) (h_stns : Has l .stns) (h_ptns : Has l .ptns) (h_migs : Has l .migs) (h_locs : Has l .locs) (h_spillFreed : Has l .spillFreed) (h_tens : Has l .tens) (h_cdus : Has l .cdus) (h_trv : Has l .trv) (h_hostMem : Has l .hostMem) (h_emitted : Has l .emitted) (h_fresh : Has l .fresh) :
    ∀ s x1 x2 x3, blank l (serveAtomic s x1 x2 x3).2 = blank l s := by
  intro s x1 x2 x3
  unfold serveAtomic
  dsimp only
  (repeat' (split <;> (try (rename_i heq; have hh := congrArg Prod.snd heq; dsimp only at hh; subst hh)))) <;> first | with_reducible rfl | simp (disch := assumption) only [↓addSat_keeps, ↓ueHit_keeps, ↓reply_keeps, ↓replyBusy_keeps, ↓applied_keeps, ↓applyValue_keeps, ↓blank_trv, ↓apply_ite (blank l), ↓apply_ite Prod.snd, ite_self]

theorem answerAll_keeps {l : List Comp} (h_regs : Has l .regs) (h_trv : Has l .trv) (h_emitted : Has l .emitted) :
    ∀ s x1 x2 x3 x4, blank l (answerAll s x1 x2 x3 x4) = blank l s := by
  intro s x1 x2 x3 x4
  unfold answerAll
  (repeat' (split)) <;> first | with_reducible rfl | simp (disch := first | assumption | (intro t x; first | with_reducible rfl | simp (disch := assumption) only [↓reply_keeps, ↓applied_keeps, ↓blank_trv, ↓apply_ite (blank l), ite_self] | ((repeat' (split)) <;> first | with_reducible rfl | simp (disch := assumption) only [↓reply_keeps, ↓applied_keeps, ↓blank_trv, ↓apply_ite (blank l), ite_self] | rfl))) only [↓reply_keeps, ↓applied_keeps, ↓blank_trv, ↓apply_ite (blank l), ite_self, ↓foldl_keeps, ↓foldr_keeps, ↓forUpTo_keeps, ↓foldl_snd_keeps]

theorem serveReq_keeps {l : List Comp} (h_regs : Has l .regs) (h_fp : Has l .fp) (h_stns : Has l .stns) (h_ptns : Has l .ptns) (h_migs : Has l .migs) (h_locs : Has l .locs) (h_spillFreed : Has l .spillFreed) (h_pool : Has l .pool) (h_tens : Has l .tens) (h_cdus : Has l .cdus) (h_trv : Has l .trv) (h_hostMem : Has l .hostMem) (h_msixHeld : Has l .msixHeld) (h_emitted : Has l .emitted) (h_fresh : Has l .fresh) :
    ∀ s x1, blank l (serveReq s x1).2 = blank l s := by
  intro s x1
  unfold serveReq
  split
  · rename_i heq
    exact inboundGate_keeps h_regs h_emitted _ _ _ _ _ heq
  · split
    · simp (disch := assumption) only [↓ueHit_keeps, ↓applyReq_keeps, ↓serveAtomic_keeps, ↓answerAll_keeps, ↓blank_cdus, ↓blank_pool, ↓blank_fp, ↓blank_hostMem, ↓blank_pool_fresh, ↓blank_trv, ↓blank_ptns, ↓blank_regs, ↓blank_tens, ↓blank_locs, ↓blank_msixHeld, ↓blank_migs, ↓blank_fresh, ↓blank_stns, ↓blank_spillFreed, ↓blank_emitted, ↓apply_ite (blank l), ↓apply_ite Prod.snd, ite_self]
    · split <;> (rename_i heq; have hh := congrArg Prod.snd heq; dsimp only at hh; subst hh) <;> simp (disch := assumption) only [↓ueHit_keeps, ↓applyReq_keeps, ↓serveAtomic_keeps, ↓answerAll_keeps, ↓blank_cdus, ↓blank_pool, ↓blank_fp, ↓blank_hostMem, ↓blank_pool_fresh, ↓blank_trv, ↓blank_ptns, ↓blank_regs, ↓blank_tens, ↓blank_locs, ↓blank_msixHeld, ↓blank_migs, ↓blank_fresh, ↓blank_stns, ↓blank_spillFreed, ↓blank_emitted, ↓apply_ite (blank l), ↓apply_ite Prod.snd, ite_self]

theorem serveOnce_keeps {l : List Comp} (h_regs : Has l .regs) (h_fp : Has l .fp) (h_stns : Has l .stns) (h_ptns : Has l .ptns) (h_migs : Has l .migs) (h_locs : Has l .locs) (h_spillFreed : Has l .spillFreed) (h_pool : Has l .pool) (h_tens : Has l .tens) (h_cdus : Has l .cdus) (h_trv : Has l .trv) (h_hostMem : Has l .hostMem) (h_msixHeld : Has l .msixHeld) (h_emitted : Has l .emitted) (h_fresh : Has l .fresh) :
    ∀ s, blank l (serveOnce s) = blank l s := by
  intro s
  unfold serveOnce
  (repeat' (split <;> (try (rename_i heq; have hh := congrArg Prod.snd heq; dsimp only at hh; subst hh)))) <;> first | with_reducible rfl | simp (disch := first | assumption | (intro t x; first | with_reducible rfl | simp (disch := assumption) only [↓serveReq_keeps, ↓blank_trv, ↓apply_ite (blank l), ite_self] | ((repeat' (split <;> (try (rename_i heq; have hh := congrArg Prod.snd heq; dsimp only at hh; subst hh)))) <;> first | with_reducible rfl | simp (disch := assumption) only [↓serveReq_keeps, ↓blank_trv, ↓apply_ite (blank l), ite_self] | rfl))) only [↓serveReq_keeps, ↓blank_trv, ↓apply_ite (blank l), ite_self, ↓foldl_keeps, ↓foldr_keeps, ↓forUpTo_keeps, ↓foldl_snd_keeps]

theorem serveInbound_keeps {l : List Comp} (h_regs : Has l .regs) (h_fp : Has l .fp) (h_stns : Has l .stns) (h_ptns : Has l .ptns) (h_migs : Has l .migs) (h_locs : Has l .locs) (h_spillFreed : Has l .spillFreed) (h_pool : Has l .pool) (h_tens : Has l .tens) (h_cdus : Has l .cdus) (h_trv : Has l .trv) (h_hostMem : Has l .hostMem) (h_msixHeld : Has l .msixHeld) (h_emitted : Has l .emitted) (h_fresh : Has l .fresh) :
    ∀ x0 s, blank l (serveInbound x0 s) = blank l s := by
  intro x0 s
  induction x0 generalizing s with
  | zero =>
    unfold serveInbound
    (repeat' (split)) <;> first | with_reducible rfl | simp (disch := first | assumption | (intro t x; first | with_reducible rfl | simp (disch := assumption) only [↓serveOnce_keeps, ↓apply_ite (blank l), ite_self] | ((repeat' (split)) <;> first | with_reducible rfl | simp (disch := assumption) only [↓serveOnce_keeps, ↓apply_ite (blank l), ite_self] | rfl))) only [↓serveOnce_keeps, ↓apply_ite (blank l), ite_self, ↓foldl_keeps, ↓foldr_keeps, ↓forUpTo_keeps, ↓foldl_snd_keeps] | rfl
  | succ n ih =>
    unfold serveInbound
    (repeat' (split)) <;> first | with_reducible rfl | simp (disch := first | assumption | (intro t x; first | with_reducible rfl | simp (disch := assumption) only [↓serveOnce_keeps, ↓apply_ite (blank l), ite_self, ↓ih] | ((repeat' (split)) <;> first | with_reducible rfl | simp (disch := assumption) only [↓serveOnce_keeps, ↓apply_ite (blank l), ite_self, ↓ih] | rfl))) only [↓serveOnce_keeps, ↓apply_ite (blank l), ite_self, ↓ih, ↓foldl_keeps, ↓foldr_keeps, ↓forUpTo_keeps, ↓foldl_snd_keeps] | rfl

theorem serveTraverse_keeps {l : List Comp} (h_regs : Has l .regs) (h_fp : Has l .fp) (h_stns : Has l .stns) (h_ptns : Has l .ptns) (h_migs : Has l .migs) (h_locs : Has l .locs) (h_spillFreed : Has l .spillFreed) (h_pool : Has l .pool) (h_plat : Has l .plat) (h_tens : Has l .tens) (h_cdus : Has l .cdus) (h_trv : Has l .trv) (h_hostMem : Has l .hostMem) (h_msixHeld : Has l .msixHeld) (h_emitted : Has l .emitted) (h_fresh : Has l .fresh) :
    ∀ s, blank l (serveTraverse s) = blank l s := by
  intro s
  unfold serveTraverse
  (repeat' (split)) <;> first | with_reducible rfl | simp (disch := first | assumption | (intro t x; first | with_reducible rfl | simp (disch := assumption) only [↓landReply_keeps, ↓serveInbound_keeps] | ((repeat' (split)) <;> first | with_reducible rfl | simp (disch := assumption) only [↓landReply_keeps, ↓serveInbound_keeps] | rfl))) only [↓landReply_keeps, ↓serveInbound_keeps, ↓foldl_keeps, ↓foldr_keeps, ↓forUpTo_keeps, ↓foldl_snd_keeps]

theorem enterHome_keeps {l : List Comp} (h_regs : Has l .regs) (h_fp : Has l .fp) (h_stns : Has l .stns) (h_ptns : Has l .ptns) (h_migs : Has l .migs) (h_locs : Has l .locs) (h_spillFreed : Has l .spillFreed) (h_pool : Has l .pool) (h_tens : Has l .tens) (h_cdus : Has l .cdus) (h_trv : Has l .trv) (h_hostMem : Has l .hostMem) (h_msixHeld : Has l .msixHeld) (h_emitted : Has l .emitted) (h_fresh : Has l .fresh) :
    ∀ s x1, blank l (enterHome s x1) = blank l s := by
  intro s x1
  unfold enterHome
  simp (disch := assumption) only [↓addSat_keeps, ↓nextFresh_keeps, ↓serveReq_keeps, ↓serveInbound_keeps, ↓blank_trv, ↓apply_ite (blank l), ite_self]

theorem arrive_keeps {l : List Comp} (h_regs : Has l .regs) (h_fp : Has l .fp) (h_stns : Has l .stns) (h_ptns : Has l .ptns) (h_migs : Has l .migs) (h_locs : Has l .locs) (h_spillFreed : Has l .spillFreed) (h_pool : Has l .pool) (h_tens : Has l .tens) (h_cdus : Has l .cdus) (h_trv : Has l .trv) (h_hostMem : Has l .hostMem) (h_msixHeld : Has l .msixHeld) (h_emitted : Has l .emitted) (h_fresh : Has l .fresh) :
    ∀ s x1 x2 x3 x4, blank l (arrive s x1 x2 x3 x4) = blank l s := by
  intro s x1 x2 x3 x4
  unfold arrive
  (repeat' (split <;> (try (rename_i heq; have hh := inboundGate_keeps h_regs h_emitted _ _ _ _ _ heq)))) <;> first | with_reducible rfl | simp (disch := assumption) only [↓authDrop_keeps, ↓enterHome_keeps, ↓apply_ite (blank l), ite_self, *]

theorem effInboundRequest_keeps {l : List Comp} (h_regs : Has l .regs) (h_fp : Has l .fp) (h_stns : Has l .stns) (h_ptns : Has l .ptns) (h_migs : Has l .migs) (h_locs : Has l .locs) (h_spillFreed : Has l .spillFreed) (h_pool : Has l .pool) (h_tens : Has l .tens) (h_cdus : Has l .cdus) (h_trv : Has l .trv) (h_hostMem : Has l .hostMem) (h_msixHeld : Has l .msixHeld) (h_emitted : Has l .emitted) (h_fresh : Has l .fresh) :
    ∀ x0 x1 x2 x3 s, blank l (effInboundRequest x0 x1 x2 x3 s) = blank l s := by
  intro x0 x1 x2 x3 s
  unfold effInboundRequest
  (repeat' (split)) <;> first | with_reducible rfl | simp (disch := first | assumption | (intro t x; first | with_reducible rfl | simp (disch := assumption) only [↓arrive_keeps, ↓apply_ite (blank l), ite_self] | ((repeat' (split)) <;> first | with_reducible rfl | simp (disch := assumption) only [↓arrive_keeps, ↓apply_ite (blank l), ite_self] | rfl))) only [↓arrive_keeps, ↓apply_ite (blank l), ite_self, ↓foldl_keeps, ↓foldr_keeps, ↓forUpTo_keeps, ↓foldl_snd_keeps]

theorem effInboundAtomic_keeps {l : List Comp} (h_regs : Has l .regs) (h_fp : Has l .fp) (h_stns : Has l .stns) (h_ptns : Has l .ptns) (h_migs : Has l .migs) (h_locs : Has l .locs) (h_spillFreed : Has l .spillFreed) (h_pool : Has l .pool) (h_tens : Has l .tens) (h_cdus : Has l .cdus) (h_trv : Has l .trv) (h_hostMem : Has l .hostMem) (h_msixHeld : Has l .msixHeld) (h_emitted : Has l .emitted) (h_fresh : Has l .fresh) :
    ∀ x0 x1 x2 x3 s, blank l (effInboundAtomic x0 x1 x2 x3 s) = blank l s := by
  intro x0 x1 x2 x3 s
  unfold effInboundAtomic
  (repeat' (split)) <;> first | with_reducible rfl | simp (disch := assumption) only [↓arrive_keeps, ↓apply_ite (blank l), ite_self]

theorem effReplayEntryExpiry_keeps {l : List Comp} (h_trv : Has l .trv) :
    ∀ x0 x1 x2 s, blank l (effReplayEntryExpiry x0 x1 x2 s) = blank l s := by
  intro x0 x1 x2 s
  unfold effReplayEntryExpiry
  simp (disch := assumption) only [↓blank_trv]

theorem effCounterWrite_keeps {l : List Comp} (h_regs : Has l .regs) (h_msixHeld : Has l .msixHeld) (h_emitted : Has l .emitted) :
    ∀ x0 x1 x2 x3 s, blank l (effCounterWrite x0 x1 x2 x3 s) = blank l s := by
  intro x0 x1 x2 x3 s
  unfold effCounterWrite
  simp (disch := first | assumption | (intros; (first | with_reducible rfl | simp (disch := assumption) only [↓wr_keeps, ↓withWrite_keeps, ↓blank_regs, ↓blank_msixHeld, ↓blank_emitted, ↓apply_ite (blank l), ↓apply_ite Prod.snd, ite_self] | (try dsimp only; (repeat' (split)) <;> first | done | with_reducible rfl | simp (disch := assumption) only [↓wr_keeps, ↓withWrite_keeps, ↓blank_regs, ↓blank_msixHeld, ↓blank_emitted, ↓apply_ite (blank l), ↓apply_ite Prod.snd, ite_self] | rfl)))) only [↓wr_keeps, ↓withWrite_keeps, ↓blank_regs, ↓blank_msixHeld, ↓blank_emitted, ↓apply_ite (blank l), ↓apply_ite Prod.snd, ite_self, ↓foldl_keeps, ↓foldr_keeps, ↓forUpTo_keeps, ↓foldl_snd_keeps]

theorem effWatchRetry_keeps {l : List Comp} (h_regs : Has l .regs) (h_pool : Has l .pool) (h_tens : Has l .tens) (h_trv : Has l .trv) (h_msixHeld : Has l .msixHeld) (h_emitted : Has l .emitted) (h_fresh : Has l .fresh) :
    ∀ x0 x1 s, blank l (effWatchRetry x0 x1 s) = blank l s := by
  intro x0 x1 s
  unfold effWatchRetry
  simp (disch := assumption) only [↓postWatch_keeps, ↓apply_ite (blank l), ite_self]

theorem authFail_keeps {l : List Comp} (h_regs : Has l .regs) (h_msixHeld : Has l .msixHeld) (h_emitted : Has l .emitted) :
    ∀ s, blank l (authFail s) = blank l s := by
  intro s
  unfold authFail
  simp (disch := assumption) only [↓setErr_keeps]

theorem withLease_keeps {l : List Comp} (h_regs : Has l .regs) (h_msixHeld : Has l .msixHeld) (h_emitted : Has l .emitted) :
    ∀ s x1 x2 x3 x4, (∀ y0, blank l (x4 y0) = blank l y0) → blank l (withLease s x1 x2 x3 x4) = blank l s := by
  intro s x1 x2 x3 x4 hf0
  unfold withLease
  (repeat' (split)) <;> first | with_reducible rfl | simp (disch := assumption) only [↓authFail_keeps, ↓apply_ite (blank l), ite_self, ↓hf0]

theorem effGrant_keeps {l : List Comp} (h_regs : Has l .regs) (h_trv : Has l .trv) (h_msixHeld : Has l .msixHeld) (h_emitted : Has l .emitted) :
    ∀ x0 x1 x2 x3 s, blank l (effGrant x0 x1 x2 x3 s) = blank l s := by
  intro x0 x1 x2 x3 s
  unfold effGrant
  (repeat' (split)) <;> first | with_reducible rfl | simp (disch := assumption) only [↓wr_keeps, ↓setEvt_keeps, ↓authFail_keeps, ↓blank_trv, ↓apply_ite (blank l), ite_self]

theorem effRenew_keeps {l : List Comp} (h_regs : Has l .regs) (h_msixHeld : Has l .msixHeld) (h_emitted : Has l .emitted) :
    ∀ x0 x1 s, blank l (effRenew x0 x1 s) = blank l s := by
  intro x0 x1 s
  unfold effRenew
  simp (disch := first | assumption | (intros; (first | with_reducible rfl | simp (disch := assumption) only [↓wr_keeps, ↓addSat_keeps, ↓withLease_keeps, ↓blank_regs, ↓blank_msixHeld, ↓blank_emitted, ↓apply_ite (blank l), ↓apply_ite Prod.snd, ite_self] | (try dsimp only; (repeat' (split)) <;> first | done | with_reducible rfl | simp (disch := assumption) only [↓wr_keeps, ↓addSat_keeps, ↓withLease_keeps, ↓blank_regs, ↓blank_msixHeld, ↓blank_emitted, ↓apply_ite (blank l), ↓apply_ite Prod.snd, ite_self] | rfl)))) only [↓wr_keeps, ↓addSat_keeps, ↓withLease_keeps, ↓blank_regs, ↓blank_msixHeld, ↓blank_emitted, ↓apply_ite (blank l), ↓apply_ite Prod.snd, ite_self, ↓foldl_keeps, ↓foldr_keeps, ↓forUpTo_keeps, ↓foldl_snd_keeps]

theorem effJobBind_keeps {l : List Comp} (h_regs : Has l .regs) (h_trv : Has l .trv) (h_msixHeld : Has l .msixHeld) (h_emitted : Has l .emitted) :
    ∀ x0 x1 x2 x3 s, blank l (effJobBind x0 x1 x2 x3 s) = blank l s := by
  intro x0 x1 x2 x3 s
  unfold effJobBind
  apply withLease_keeps <;> first | assumption | skip
  intro t
  dsimp only
  ((repeat' (split)) <;> first | with_reducible rfl | simp (disch := assumption) only [↓wr_keeps, ↓authFail_keeps, ↓withLease_keeps, ↓blank_trv, ↓blank_regs, ↓blank_msixHeld, ↓blank_emitted, ↓apply_ite (blank l), ↓apply_ite Prod.snd, ite_self])

theorem effPeerUp_keeps {l : List Comp} (h_regs : Has l .regs) (h_pool : Has l .pool) (h_tens : Has l .tens) (h_trv : Has l .trv) (h_msixHeld : Has l .msixHeld) (h_emitted : Has l .emitted) (h_fresh : Has l .fresh) :
    ∀ x0 x1 x2 s, blank l (effPeerUp x0 x1 x2 s) = blank l s := by
  intro x0 x1 x2 s
  unfold effPeerUp
  simp (disch := first | assumption | (intros; (first | with_reducible rfl | simp (disch := assumption) only [↓setPeer_keeps, ↓withLease_keeps, ↓blank_pool, ↓blank_pool_fresh, ↓blank_trv, ↓blank_regs, ↓blank_tens, ↓blank_msixHeld, ↓blank_fresh, ↓blank_emitted, ↓apply_ite (blank l), ↓apply_ite Prod.snd, ite_self] | (try dsimp only; (repeat' (split)) <;> first | done | with_reducible rfl | simp (disch := assumption) only [↓setPeer_keeps, ↓withLease_keeps, ↓blank_pool, ↓blank_pool_fresh, ↓blank_trv, ↓blank_regs, ↓blank_tens, ↓blank_msixHeld, ↓blank_fresh, ↓blank_emitted, ↓apply_ite (blank l), ↓apply_ite Prod.snd, ite_self] | rfl)))) only [↓setPeer_keeps, ↓withLease_keeps, ↓blank_pool, ↓blank_pool_fresh, ↓blank_trv, ↓blank_regs, ↓blank_tens, ↓blank_msixHeld, ↓blank_fresh, ↓blank_emitted, ↓apply_ite (blank l), ↓apply_ite Prod.snd, ite_self, ↓foldl_keeps, ↓foldr_keeps, ↓forUpTo_keeps, ↓foldl_snd_keeps]

theorem effPeerDown_keeps {l : List Comp} (h_regs : Has l .regs) (h_ptns : Has l .ptns) (h_pool : Has l .pool) (h_mer : Has l .mer) (h_plat : Has l .plat) (h_tens : Has l .tens) (h_trv : Has l .trv) (h_hostMem : Has l .hostMem) (h_msixHeld : Has l .msixHeld) (h_emitted : Has l .emitted) (h_fresh : Has l .fresh) :
    ∀ x0 x1 s, blank l (effPeerDown x0 x1 s) = blank l s := by
  intro x0 x1 s
  unfold effPeerDown
  simp (disch := first | assumption | (intros; (first | with_reducible rfl | simp (disch := assumption) only [↓endWhere_keeps, ↓setPeer_keeps, ↓withLease_keeps, ↓blank_pool, ↓blank_hostMem, ↓blank_plat, ↓blank_pool_fresh, ↓blank_trv, ↓blank_ptns, ↓blank_regs, ↓blank_tens, ↓blank_msixHeld, ↓blank_mer, ↓blank_fresh, ↓blank_emitted, ↓apply_ite (blank l), ↓apply_ite Prod.snd, ite_self] | (try dsimp only; (repeat' (split)) <;> first | done | with_reducible rfl | simp (disch := assumption) only [↓endWhere_keeps, ↓setPeer_keeps, ↓withLease_keeps, ↓blank_pool, ↓blank_hostMem, ↓blank_plat, ↓blank_pool_fresh, ↓blank_trv, ↓blank_ptns, ↓blank_regs, ↓blank_tens, ↓blank_msixHeld, ↓blank_mer, ↓blank_fresh, ↓blank_emitted, ↓apply_ite (blank l), ↓apply_ite Prod.snd, ite_self] | rfl)))) only [↓endWhere_keeps, ↓setPeer_keeps, ↓withLease_keeps, ↓blank_pool, ↓blank_hostMem, ↓blank_plat, ↓blank_pool_fresh, ↓blank_trv, ↓blank_ptns, ↓blank_regs, ↓blank_tens, ↓blank_msixHeld, ↓blank_mer, ↓blank_fresh, ↓blank_emitted, ↓apply_ite (blank l), ↓apply_ite Prod.snd, ite_self, ↓foldl_keeps, ↓foldr_keeps, ↓forUpTo_keeps, ↓foldl_snd_keeps]

theorem effTearDown_keeps {l : List Comp} (h_regs : Has l .regs) (h_eff : Has l .eff) (h_ptns : Has l .ptns) (h_movs : Has l .movs) (h_pool : Has l .pool) (h_mer : Has l .mer) (h_plat : Has l .plat) (h_tens : Has l .tens) (h_trv : Has l .trv) (h_hostMem : Has l .hostMem) (h_msixHeld : Has l .msixHeld) (h_emitted : Has l .emitted) (h_fresh : Has l .fresh) :
    ∀ x0 x1 x2 s, blank l (effTearDown x0 x1 x2 s) = blank l s := by
  intro x0 x1 x2 s
  unfold effTearDown
  apply withLease_keeps <;> first | assumption | skip
  intro t
  ((repeat' (split)) <;> first | with_reducible rfl | simp (disch := assumption) only [↓tearDownSlot_keeps, ↓tearDownAll_keeps, ↓withLease_keeps, ↓blank_pool, ↓blank_hostMem, ↓blank_plat, ↓blank_pool_fresh, ↓blank_trv, ↓blank_eff, ↓blank_ptns, ↓blank_regs, ↓blank_tens, ↓blank_msixHeld, ↓blank_mer, ↓blank_fresh, ↓blank_movs, ↓blank_emitted, ↓apply_ite (blank l), ↓apply_ite Prod.snd, ite_self])

theorem effLeaseFence_keeps {l : List Comp} (h_regs : Has l .regs) (h_ptns : Has l .ptns) (h_pool : Has l .pool) (h_mer : Has l .mer) (h_plat : Has l .plat) (h_tens : Has l .tens) (h_trv : Has l .trv) (h_hostMem : Has l .hostMem) (h_msixHeld : Has l .msixHeld) (h_emitted : Has l .emitted) (h_fresh : Has l .fresh) :
    ∀ s, blank l (effLeaseFence s) = blank l s := by
  intro s
  unfold effLeaseFence
  simp (disch := assumption) only [↓fenceNow_keeps, ↓apply_ite (blank l), ite_self]

theorem effPeerEventRetry_keeps {l : List Comp} (h_regs : Has l .regs) (h_pool : Has l .pool) (h_tens : Has l .tens) (h_trv : Has l .trv) (h_msixHeld : Has l .msixHeld) (h_emitted : Has l .emitted) (h_fresh : Has l .fresh) :
    ∀ s, blank l (effPeerEventRetry s) = blank l s := by
  intro s
  unfold effPeerEventRetry
  simp (disch := assumption) only [↓drainPeerEvents_keeps]

theorem effWitnessPacket_keeps {l : List Comp} (h_regs : Has l .regs) (h_pool : Has l .pool) (h_tens : Has l .tens) (h_trv : Has l .trv) (h_msixHeld : Has l .msixHeld) (h_emitted : Has l .emitted) (h_fresh : Has l .fresh) :
    ∀ x0 x1 x2 s, blank l (effWitnessPacket x0 x1 x2 s) = blank l s := by
  intro x0 x1 x2 s
  unfold effWitnessPacket
  simp (disch := assumption) only [↓report_keeps, ↓apply_ite (blank l), ite_self]

theorem effWitnessClose_keeps {l : List Comp} (h_regs : Has l .regs) (h_pool : Has l .pool) (h_tens : Has l .tens) (h_trv : Has l .trv) (h_msixHeld : Has l .msixHeld) (h_emitted : Has l .emitted) (h_fresh : Has l .fresh) :
    ∀ x0 x1 x2 s, blank l (effWitnessClose x0 x1 x2 s) = blank l s := by
  intro x0 x1 x2 s
  unfold effWitnessClose
  (repeat' (split)) <;> first | with_reducible rfl | simp (disch := assumption) only [↓closeWitness_keeps, ↓apply_ite (blank l), ite_self]

theorem effBarrierArrive_keeps {l : List Comp} (h_regs : Has l .regs) (h_ptns : Has l .ptns) (h_pool : Has l .pool) (h_mer : Has l .mer) (h_plat : Has l .plat) (h_tens : Has l .tens) (h_trv : Has l .trv) (h_hostMem : Has l .hostMem) (h_msixHeld : Has l .msixHeld) (h_emitted : Has l .emitted) (h_fresh : Has l .fresh) :
    ∀ x0 x1 x2 s, blank l (effBarrierArrive x0 x1 x2 s) = blank l s := by
  intro x0 x1 x2 s
  unfold effBarrierArrive
  simp (disch := assumption) only [↓authDrop_keeps, ↓countArrival_keeps, ↓apply_ite (blank l), ite_self]

theorem effBarrierReleaseReceive_keeps {l : List Comp} (h_regs : Has l .regs) (h_ptns : Has l .ptns) (h_pool : Has l .pool) (h_mer : Has l .mer) (h_plat : Has l .plat) (h_tens : Has l .tens) (h_trv : Has l .trv) (h_hostMem : Has l .hostMem) (h_msixHeld : Has l .msixHeld) (h_emitted : Has l .emitted) (h_fresh : Has l .fresh) :
    ∀ x0 x1 x2 s, blank l (effBarrierReleaseReceive x0 x1 x2 s) = blank l s := by
  intro x0 x1 x2 s
  unfold effBarrierReleaseReceive
  simp (disch := assumption) only [↓authDrop_keeps, ↓receiveRelease_keeps, ↓apply_ite (blank l), ite_self]

theorem effBarrierRelease_keeps {l : List Comp} (h_regs : Has l .regs) (h_ptns : Has l .ptns) (h_pool : Has l .pool) (h_plat : Has l .plat) (h_tens : Has l .tens) (h_trv : Has l .trv) (h_hostMem : Has l .hostMem) (h_msixHeld : Has l .msixHeld) (h_emitted : Has l .emitted) (h_fresh : Has l .fresh) :
    ∀ x0 s, blank l (effBarrierRelease x0 s) = blank l s := by
  intro x0 s
  unfold effBarrierRelease
  (repeat' (split)) <;> first | with_reducible rfl | simp (disch := assumption) only [↓releaseBarrier_keeps, ↓apply_ite (blank l), ite_self]

theorem effBarrierTimeout_keeps {l : List Comp} (h_regs : Has l .regs) (h_ptns : Has l .ptns) (h_pool : Has l .pool) (h_mer : Has l .mer) (h_plat : Has l .plat) (h_tens : Has l .tens) (h_trv : Has l .trv) (h_hostMem : Has l .hostMem) (h_msixHeld : Has l .msixHeld) (h_emitted : Has l .emitted) (h_fresh : Has l .fresh) :
    ∀ x0 s, blank l (effBarrierTimeout x0 s) = blank l s := by
  intro x0 s
  unfold effBarrierTimeout
  (repeat' (split)) <;> first | with_reducible rfl | simp (disch := assumption) only [↓endWhere_keeps, ↓apply_ite (blank l), ite_self]

theorem effBarrierEpochDiscard_keeps {l : List Comp} (h_trv : Has l .trv) :
    ∀ x0 x1 s, blank l (effBarrierEpochDiscard x0 x1 s) = blank l s := by
  intro x0 x1 s
  unfold effBarrierEpochDiscard
  (repeat' (split)) <;> first | with_reducible rfl | simp (disch := assumption) only [↓blank_trv, ↓apply_ite (blank l), ite_self]

theorem uncorrWords_keeps {l : List Comp} (h_regs : Has l .regs) (h_fresh : Has l .fresh) :
    ∀ s, blank l (uncorrWords s) = blank l s := by
  intro s
  unfold uncorrWords
  simp (disch := assumption) only [↓addSat_keeps, ↓nextFresh_keeps]

theorem tvLinkDown_keeps {l : List Comp} (h_regs : Has l .regs) (h_pool : Has l .pool) (h_tens : Has l .tens) (h_trv : Has l .trv) (h_msixHeld : Has l .msixHeld) (h_emitted : Has l .emitted) (h_fresh : Has l .fresh) :
    ∀ s x1, blank l (tvLinkDown s x1) = blank l s := by
  intro s x1
  unfold tvLinkDown
  (repeat' (split)) <;> first | with_reducible rfl | simp (disch := first | assumption | (intro t x; first | with_reducible rfl | simp (disch := assumption) only [↓setEvt_keeps, ↓bumpHealth_keeps, ↓leavePort_keeps, ↓report_keeps, ↓uncorrWords_keeps, ↓blank_trv] | ((repeat' (split)) <;> first | with_reducible rfl | simp (disch := assumption) only [↓setEvt_keeps, ↓bumpHealth_keeps, ↓leavePort_keeps, ↓report_keeps, ↓uncorrWords_keeps, ↓blank_trv] | rfl))) only [↓setEvt_keeps, ↓bumpHealth_keeps, ↓leavePort_keeps, ↓report_keeps, ↓uncorrWords_keeps, ↓blank_trv, ↓foldl_keeps, ↓foldr_keeps, ↓forUpTo_keeps, ↓foldl_snd_keeps]

theorem effLinkDown_keeps {l : List Comp} (h_regs : Has l .regs) (h_pool : Has l .pool) (h_tens : Has l .tens) (h_fhps : Has l .fhps) (h_trv : Has l .trv) (h_msixHeld : Has l .msixHeld) (h_emitted : Has l .emitted) (h_fresh : Has l .fresh) :
    ∀ x0 s, blank l (effLinkDown x0 s) = blank l s := by
  intro x0 s
  unfold effLinkDown
  ((repeat' (split)) <;> first | with_reducible rfl | simp (disch := assumption) only [↓fhLinkDown_keeps, ↓tvLinkDown_keeps, ↓blank_pool, ↓blank_pool_fresh, ↓blank_trv, ↓blank_regs, ↓blank_tens, ↓blank_msixHeld, ↓blank_fresh, ↓blank_fhps, ↓blank_emitted, ↓apply_ite (blank l), ↓apply_ite Prod.snd, ite_self])

theorem effLinkUp_keeps {l : List Comp} (h_regs : Has l .regs) (h_fhps : Has l .fhps) (h_trv : Has l .trv) (h_msixHeld : Has l .msixHeld) (h_emitted : Has l .emitted) :
    ∀ x0 s, blank l (effLinkUp x0 s) = blank l s := by
  intro x0 s
  unfold effLinkUp
  (repeat' (split)) <;> first | with_reducible rfl | simp (disch := assumption) only [↓setEvt_keeps, ↓setFhp_keeps, ↓blank_trv, ↓apply_ite (blank l), ite_self]

end Sys2Proof.Machine
end

