-- ==== Sys2Proof/Laws/KeepStations.lean ====
section
/-! SUPPORT. What each operation of Machine/Stations.lean leaves as it was. -/

set_option linter.unusedSimpArgs false

namespace Sys2Proof.Machine

theorem effStationJobStart_keeps {l : List Comp} (h_regs : Has l .regs) (h_stns : Has l .stns) (h_pool : Has l .pool) (h_plat : Has l .plat) (h_msixHeld : Has l .msixHeld) (h_emitted : Has l .emitted) :
    ∀ x0 s, blank l (effStationJobStart x0 s) = blank l s := by
  intro x0 s
  unfold effStationJobStart
  dsimp only
  (repeat' (split <;> (try (rename_i heq; have hh := congrArg Prod.snd heq; dsimp only at hh; subst hh)))) <;> first | with_reducible rfl | simp (disch := assumption) only [↓addSat_keeps, ↓setErr_keeps, ↓freeStake_keeps, ↓acquireStake_keeps, ↓hwRead_keeps, ↓takeEnded_keeps, ↓endJob_keeps, ↓startRun_keeps, ↓apply_ite (blank l), ite_self]

theorem effStationJobComplete_keeps {l : List Comp} (h_regs : Has l .regs) (h_stns : Has l .stns) (h_ptns : Has l .ptns) (h_pool : Has l .pool) (h_plat : Has l .plat) (h_tens : Has l .tens) (h_hostMem : Has l .hostMem) (h_msixHeld : Has l .msixHeld) (h_emitted : Has l .emitted) (h_fresh : Has l .fresh) :
    ∀ x0 s, blank l (effStationJobComplete x0 s) = blank l s := by
  intro x0 s
  unfold effStationJobComplete
  dsimp only
  (repeat' (split)) <;> first | with_reducible rfl | simp (disch := assumption) only [↓setStn_keeps, ↓withdrawRun_keeps, ↓dropGrants_keeps, ↓postEnd_keeps, ↓resumeOwner_keeps, ↓apply_ite (blank l), ite_self]

theorem effNop_keeps {l : List Comp} (h_stns : Has l .stns) :
    ∀ x0 s, blank l (effNop x0 s) = blank l s := by
  intro x0 s
  unfold effNop
  simp (disch := first | assumption | (intros; (first | with_reducible rfl | simp (disch := assumption) only [↓setStn_keeps, ↓issue_keeps, ↓blank_stns, ↓apply_ite (blank l), ↓apply_ite Prod.snd, ite_self] | (try dsimp only; (repeat' (split)) <;> first | done | with_reducible rfl | simp (disch := assumption) only [↓setStn_keeps, ↓issue_keeps, ↓blank_stns, ↓apply_ite (blank l), ↓apply_ite Prod.snd, ite_self] | rfl)))) only [↓setStn_keeps, ↓issue_keeps, ↓blank_stns, ↓apply_ite (blank l), ↓apply_ite Prod.snd, ite_self, ↓foldl_keeps, ↓foldr_keeps, ↓forUpTo_keeps, ↓foldl_snd_keeps]

theorem effSeti_keeps {l : List Comp} (h_stns : Has l .stns) :
    ∀ x0 s, blank l (effSeti x0 s) = blank l s := by
  intro x0 s
  unfold effSeti
  simp (disch := first | assumption | (intros; (first | with_reducible rfl | simp (disch := assumption) only [↓setStn_keeps, ↓issue_keeps, ↓blank_stns, ↓apply_ite (blank l), ↓apply_ite Prod.snd, ite_self] | (try dsimp only; (repeat' (split)) <;> first | done | with_reducible rfl | simp (disch := assumption) only [↓setStn_keeps, ↓issue_keeps, ↓blank_stns, ↓apply_ite (blank l), ↓apply_ite Prod.snd, ite_self] | rfl)))) only [↓setStn_keeps, ↓issue_keeps, ↓blank_stns, ↓apply_ite (blank l), ↓apply_ite Prod.snd, ite_self, ↓foldl_keeps, ↓foldr_keeps, ↓forUpTo_keeps, ↓foldl_snd_keeps]

theorem effAddi_keeps {l : List Comp} (h_stns : Has l .stns) :
    ∀ x0 s, blank l (effAddi x0 s) = blank l s := by
  intro x0 s
  unfold effAddi
  simp (disch := first | assumption | (intros; (first | with_reducible rfl | simp (disch := assumption) only [↓setStn_keeps, ↓issue_keeps, ↓blank_stns, ↓apply_ite (blank l), ↓apply_ite Prod.snd, ite_self] | (try dsimp only; (repeat' (split)) <;> first | done | with_reducible rfl | simp (disch := assumption) only [↓setStn_keeps, ↓issue_keeps, ↓blank_stns, ↓apply_ite (blank l), ↓apply_ite Prod.snd, ite_self] | rfl)))) only [↓setStn_keeps, ↓issue_keeps, ↓blank_stns, ↓apply_ite (blank l), ↓apply_ite Prod.snd, ite_self, ↓foldl_keeps, ↓foldr_keeps, ↓forUpTo_keeps, ↓foldl_snd_keeps]

theorem effLoop_keeps {l : List Comp} (h_stns : Has l .stns) :
    ∀ x0 s, blank l (effLoop x0 s) = blank l s := by
  intro x0 s
  unfold effLoop
  simp (disch := first | assumption | (intros; (first | with_reducible rfl | simp (disch := assumption) only [↓setStn_keeps, ↓issue_keeps, ↓blank_stns, ↓apply_ite (blank l), ↓apply_ite Prod.snd, ite_self] | (try dsimp only; (repeat' (split)) <;> first | done | with_reducible rfl | simp (disch := assumption) only [↓setStn_keeps, ↓issue_keeps, ↓blank_stns, ↓apply_ite (blank l), ↓apply_ite Prod.snd, ite_self] | rfl)))) only [↓setStn_keeps, ↓issue_keeps, ↓blank_stns, ↓apply_ite (blank l), ↓apply_ite Prod.snd, ite_self, ↓foldl_keeps, ↓foldr_keeps, ↓forUpTo_keeps, ↓foldl_snd_keeps]

theorem effJmp_keeps {l : List Comp} (h_stns : Has l .stns) :
    ∀ x0 s, blank l (effJmp x0 s) = blank l s := by
  intro x0 s
  unfold effJmp
  simp (disch := first | assumption | (intros; (first | with_reducible rfl | simp (disch := assumption) only [↓setStn_keeps, ↓issue_keeps, ↓blank_stns, ↓apply_ite (blank l), ↓apply_ite Prod.snd, ite_self] | (try dsimp only; (repeat' (split)) <;> first | done | with_reducible rfl | simp (disch := assumption) only [↓setStn_keeps, ↓issue_keeps, ↓blank_stns, ↓apply_ite (blank l), ↓apply_ite Prod.snd, ite_self] | rfl)))) only [↓setStn_keeps, ↓issue_keeps, ↓blank_stns, ↓apply_ite (blank l), ↓apply_ite Prod.snd, ite_self, ↓foldl_keeps, ↓foldr_keeps, ↓forUpTo_keeps, ↓foldl_snd_keeps]

theorem storesRead_keeps {l : List Comp} (h_regs : Has l .regs) (h_fp : Has l .fp) (h_tens : Has l .tens) (h_cdus : Has l .cdus) :
    ∀ s x1, blank l (storesRead s x1).2 = blank l s := by
  intro s x1
  unfold storesRead
  (repeat' (split <;> (try (rename_i heq; have hh := congrArg Prod.snd heq; dsimp only at hh; subst hh)))) <;> first | with_reducible rfl | simp (disch := first | assumption | (intro t x; first | with_reducible rfl | simp (disch := assumption) only [↓unitRead_keeps] | ((repeat' (split <;> (try (rename_i heq; have hh := congrArg Prod.snd heq; dsimp only at hh; subst hh)))) <;> first | with_reducible rfl | simp (disch := assumption) only [↓unitRead_keeps] | rfl))) only [↓unitRead_keeps, ↓foldl_keeps, ↓foldr_keeps, ↓forUpTo_keeps, ↓foldl_snd_keeps]

theorem afterRead_keeps {l : List Comp} (h_regs : Has l .regs) (h_fp : Has l .fp) (h_stns : Has l .stns) (h_tens : Has l .tens) (h_cdus : Has l .cdus) :
    ∀ s x1 x2 x3 x4, (∀ y0, blank l (x4 y0) = blank l y0) → blank l (afterRead s x1 x2 x3 x4) = blank l s := by
  intro s x1 x2 x3 x4 hf0
  unfold afterRead
  simp (disch := assumption) only [↓endJob_keeps, ↓storesRead_keeps, ↓apply_ite (blank l), ite_self, ↓hf0]

theorem effLdw_keeps {l : List Comp} (h_regs : Has l .regs) (h_fp : Has l .fp) (h_stns : Has l .stns) (h_tens : Has l .tens) (h_cdus : Has l .cdus) :
    ∀ x0 s, blank l (effLdw x0 s) = blank l s := by
  intro x0 s
  unfold effLdw
  apply issue_keeps <;> first | assumption | skip
  intro j w st
  dsimp only
  split
  · rfl
  · split
    · simp (disch := assumption) only [↓addSat_keeps, ↓setStn_keeps, ↓endJob_keeps, ↓issue_keeps, ↓afterRead_keeps, ↓blank_cdus, ↓blank_fp, ↓blank_regs, ↓blank_tens, ↓blank_stns, ↓apply_ite (blank l), ↓apply_ite Prod.snd, ite_self]
    · apply afterRead_keeps <;> first | assumption | skip
      intro t
      rw [setStn_keeps h_stns, foldl_keeps]
      intro t x
      ((repeat' (split)) <;> first | with_reducible rfl | simp (disch := assumption) only [↓addSat_keeps, ↓setStn_keeps, ↓endJob_keeps, ↓issue_keeps, ↓afterRead_keeps, ↓blank_cdus, ↓blank_fp, ↓blank_regs, ↓blank_tens, ↓blank_stns, ↓apply_ite (blank l), ↓apply_ite Prod.snd, ite_self])

theorem mmaRows_keeps {l : List Comp} (h_regs : Has l .regs) (h_stns : Has l .stns) (h_msixHeld : Has l .msixHeld) (h_emitted : Has l .emitted) :
    ∀ s x1 x2 x3 x4 x5, blank l (mmaRows s x1 x2 x3 x4 x5) = blank l s := by
  intro s x1 x2 x3 x4 x5
  unfold mmaRows
  (repeat' (split)) <;> first | with_reducible rfl | simp (disch := first | assumption | (intro t x; first | with_reducible rfl | simp (disch := assumption) only [↓addSat_keeps, ↓setStn_keeps, ↓arithCount_keeps, ↓apply_ite (blank l), ite_self] | ((repeat' (split)) <;> first | with_reducible rfl | simp (disch := assumption) only [↓addSat_keeps, ↓setStn_keeps, ↓arithCount_keeps, ↓apply_ite (blank l), ite_self] | rfl))) only [↓addSat_keeps, ↓setStn_keeps, ↓arithCount_keeps, ↓apply_ite (blank l), ite_self, ↓foldl_keeps, ↓foldr_keeps, ↓forUpTo_keeps, ↓foldl_snd_keeps]

theorem effMma_keeps {l : List Comp} (h_regs : Has l .regs) (h_fp : Has l .fp) (h_stns : Has l .stns) (h_tens : Has l .tens) (h_cdus : Has l .cdus) (h_msixHeld : Has l .msixHeld) (h_emitted : Has l .emitted) :
    ∀ x0 s, blank l (effMma x0 s) = blank l s := by
  intro x0 s
  unfold effMma
  apply issue_keeps <;> first | assumption | skip
  intro j w st
  dsimp only
  split
  · simp (disch := assumption) only [↓setStn_keeps, ↓endJob_keeps, ↓issue_keeps, ↓storesRead_keeps, ↓mmaRows_keeps, ↓blank_cdus, ↓blank_fp, ↓blank_regs, ↓blank_tens, ↓blank_msixHeld, ↓blank_stns, ↓blank_emitted, ↓apply_ite (blank l), ↓apply_ite Prod.snd, ite_self]
  · split
    · rfl
    · split
      · simp (disch := assumption) only [↓setStn_keeps, ↓endJob_keeps, ↓issue_keeps, ↓storesRead_keeps, ↓mmaRows_keeps, ↓blank_cdus, ↓blank_fp, ↓blank_regs, ↓blank_tens, ↓blank_msixHeld, ↓blank_stns, ↓blank_emitted, ↓apply_ite (blank l), ↓apply_ite Prod.snd, ite_self]
      · split
        · simp (disch := assumption) only [↓setStn_keeps, ↓endJob_keeps, ↓issue_keeps, ↓storesRead_keeps, ↓mmaRows_keeps, ↓blank_cdus, ↓blank_fp, ↓blank_regs, ↓blank_tens, ↓blank_msixHeld, ↓blank_stns, ↓blank_emitted, ↓apply_ite (blank l), ↓apply_ite Prod.snd, ite_self]
        · simp (disch := assumption) only [↓setStn_keeps, ↓endJob_keeps, ↓issue_keeps, ↓storesRead_keeps, ↓mmaRows_keeps, ↓blank_cdus, ↓blank_fp, ↓blank_regs, ↓blank_tens, ↓blank_msixHeld, ↓blank_stns, ↓blank_emitted, ↓apply_ite (blank l), ↓apply_ite Prod.snd, ite_self]

theorem effRqo_keeps {l : List Comp} (h_stns : Has l .stns) :
    ∀ x0 s, blank l (effRqo x0 s) = blank l s := by
  intro x0 s
  unfold effRqo
  simp (disch := first | assumption | (intros; (first | with_reducible rfl | simp (disch := assumption) only [↓setStn_keeps, ↓endJob_keeps, ↓issue_keeps, ↓blank_stns, ↓apply_ite (blank l), ↓apply_ite Prod.snd, ite_self] | (try dsimp only; (repeat' (split)) <;> first | done | with_reducible rfl | simp (disch := assumption) only [↓setStn_keeps, ↓endJob_keeps, ↓issue_keeps, ↓blank_stns, ↓apply_ite (blank l), ↓apply_ite Prod.snd, ite_self] | rfl)))) only [↓setStn_keeps, ↓endJob_keeps, ↓issue_keeps, ↓blank_stns, ↓apply_ite (blank l), ↓apply_ite Prod.snd, ite_self, ↓foldl_keeps, ↓foldr_keeps, ↓forUpTo_keeps, ↓foldl_snd_keeps]

theorem effRqoStart_keeps {l : List Comp} (h_regs : Has l .regs) (h_fp : Has l .fp) (h_stns : Has l .stns) (h_tens : Has l .tens) (h_cdus : Has l .cdus) :
    ∀ x0 s, blank l (effRqoStart x0 s) = blank l s := by
  intro x0 s
  unfold effRqoStart
  dsimp only
  (repeat' (split <;> (try (rename_i heq; have hh := congrArg Prod.snd heq; dsimp only at hh; subst hh)))) <;> first | with_reducible rfl | simp (disch := first | assumption | (intro t x; first | with_reducible rfl | simp (disch := assumption) only [↓setStn_keeps, ↓endJob_keeps, ↓storesRead_keeps, ↓blank_cdus, ↓blank_fp, ↓blank_regs, ↓blank_tens, ↓blank_stns, ↓apply_ite (blank l), ↓apply_ite Prod.snd, ite_self] | ((repeat' (split <;> (try (rename_i heq; have hh := congrArg Prod.snd heq; dsimp only at hh; subst hh)))) <;> first | with_reducible rfl | simp (disch := assumption) only [↓setStn_keeps, ↓endJob_keeps, ↓storesRead_keeps, ↓blank_cdus, ↓blank_fp, ↓blank_regs, ↓blank_tens, ↓blank_stns, ↓apply_ite (blank l), ↓apply_ite Prod.snd, ite_self] | rfl))) only [↓setStn_keeps, ↓endJob_keeps, ↓storesRead_keeps, ↓blank_cdus, ↓blank_fp, ↓blank_regs, ↓blank_tens, ↓blank_stns, ↓apply_ite (blank l), ↓apply_ite Prod.snd, ite_self, ↓foldl_keeps, ↓foldr_keeps, ↓forUpTo_keeps, ↓foldl_snd_keeps] | rfl

theorem writeRows_keeps {l : List Comp} (h_regs : Has l .regs) (h_fp : Has l .fp) (h_stns : Has l .stns) (h_tens : Has l .tens) (h_cdus : Has l .cdus) :
    ∀ x0 x1 s, blank l (writeRows x0 x1 s).2 = blank l s := by
  intro x0 x1 s
  induction x1 generalizing x0 s with
  | nil =>
    unfold writeRows
    (repeat' (split <;> (try (rename_i heq; have hh := congrArg Prod.snd heq; dsimp only at hh; subst hh)))) <;> first | with_reducible rfl | simp (disch := first | assumption | (intro t x; first | with_reducible rfl | simp (disch := assumption) only [↓setStn_keeps, ↓unitRead_keeps, ↓apply_ite (blank l), ↓apply_ite Prod.snd, ite_self] | ((repeat' (split <;> (try (rename_i heq; have hh := congrArg Prod.snd heq; dsimp only at hh; subst hh)))) <;> first | with_reducible rfl | simp (disch := assumption) only [↓setStn_keeps, ↓unitRead_keeps, ↓apply_ite (blank l), ↓apply_ite Prod.snd, ite_self] | rfl))) only [↓setStn_keeps, ↓unitRead_keeps, ↓apply_ite (blank l), ↓apply_ite Prod.snd, ite_self, ↓foldl_keeps, ↓foldr_keeps, ↓forUpTo_keeps, ↓foldl_snd_keeps] | rfl
  | cons a r ih =>
    unfold writeRows
    (repeat' (split <;> (try (rename_i heq; have hh := congrArg Prod.snd heq; dsimp only at hh; subst hh)))) <;> first | with_reducible rfl | simp (disch := first | assumption | (intro t x; first | with_reducible rfl | simp (disch := assumption) only [↓setStn_keeps, ↓unitRead_keeps, ↓apply_ite (blank l), ↓apply_ite Prod.snd, ite_self, ↓ih] | ((repeat' (split <;> (try (rename_i heq; have hh := congrArg Prod.snd heq; dsimp only at hh; subst hh)))) <;> first | with_reducible rfl | simp (disch := assumption) only [↓setStn_keeps, ↓unitRead_keeps, ↓apply_ite (blank l), ↓apply_ite Prod.snd, ite_self, ↓ih] | rfl))) only [↓setStn_keeps, ↓unitRead_keeps, ↓apply_ite (blank l), ↓apply_ite Prod.snd, ite_self, ↓ih, ↓foldl_keeps, ↓foldr_keeps, ↓forUpTo_keeps, ↓foldl_snd_keeps] | rfl

theorem countRows_keeps {l : List Comp} (h_regs : Has l .regs) (h_msixHeld : Has l .msixHeld) (h_emitted : Has l .emitted) :
    ∀ s x1 x2 x3 x4, blank l (countRows s x1 x2 x3 x4) = blank l s := by
  intro s x1 x2 x3 x4
  unfold countRows
  (repeat' (split)) <;> first | with_reducible rfl | simp (disch := first | assumption | (intro t x; first | with_reducible rfl | simp (disch := assumption) only [↓statRow_keeps, ↓rqCount_keeps, ↓apply_ite (blank l), ite_self] | ((repeat' (split)) <;> first | with_reducible rfl | simp (disch := assumption) only [↓statRow_keeps, ↓rqCount_keeps, ↓apply_ite (blank l), ite_self] | rfl))) only [↓statRow_keeps, ↓rqCount_keeps, ↓apply_ite (blank l), ite_self, ↓foldl_keeps, ↓foldr_keeps, ↓forUpTo_keeps, ↓foldl_snd_keeps]

theorem rqoFinish_keeps {l : List Comp} (h_regs : Has l .regs) (h_fp : Has l .fp) (h_stns : Has l .stns) (h_tens : Has l .tens) (h_cdus : Has l .cdus) (h_msixHeld : Has l .msixHeld) (h_emitted : Has l .emitted) :
    ∀ s x1 x2 x3 x4 x5, blank l (rqoFinish s x1 x2 x3 x4 x5).2 = blank l s := by
  intro s x1 x2 x3 x4 x5
  unfold rqoFinish
  (repeat' (split <;> (try (rename_i heq; have hh := congrArg Prod.snd heq; dsimp only at hh; subst hh)))) <;> first | with_reducible rfl | simp (disch := first | assumption | (intro t x; first | with_reducible rfl | simp (disch := assumption) only [↓setStn_keeps, ↓writeRows_keeps, ↓countRows_keeps, ↓apply_ite (blank l), ↓apply_ite Prod.snd, ite_self] | ((repeat' (split <;> (try (rename_i heq; have hh := congrArg Prod.snd heq; dsimp only at hh; subst hh)))) <;> first | with_reducible rfl | simp (disch := assumption) only [↓setStn_keeps, ↓writeRows_keeps, ↓countRows_keeps, ↓apply_ite (blank l), ↓apply_ite Prod.snd, ite_self] | rfl))) only [↓setStn_keeps, ↓writeRows_keeps, ↓countRows_keeps, ↓apply_ite (blank l), ↓apply_ite Prod.snd, ite_self, ↓foldl_keeps, ↓foldr_keeps, ↓forUpTo_keeps, ↓foldl_snd_keeps]

theorem rqoAll_keeps {l : List Comp} (h_regs : Has l .regs) (h_fp : Has l .fp) (h_stns : Has l .stns) (h_tens : Has l .tens) (h_cdus : Has l .cdus) (h_msixHeld : Has l .msixHeld) (h_emitted : Has l .emitted) :
    ∀ x0 x1 x2 x3 s, blank l (rqoAll x0 x1 x2 x3 s).2 = blank l s := by
  intro x0 x1 x2 x3 s
  unfold rqoAll
  (repeat' (split <;> (try (rename_i heq; have hh := congrArg Prod.snd heq; dsimp only at hh; subst hh)))) <;> first | with_reducible rfl | simp (disch := first | assumption | (intro t x; first | with_reducible rfl | simp (disch := assumption) only [↓rqoFinish_keeps] | ((repeat' (split <;> (try (rename_i heq; have hh := congrArg Prod.snd heq; dsimp only at hh; subst hh)))) <;> first | with_reducible rfl | simp (disch := assumption) only [↓rqoFinish_keeps] | rfl))) only [↓rqoFinish_keeps, ↓foldl_keeps, ↓foldr_keeps, ↓forUpTo_keeps, ↓foldl_snd_keeps]

theorem dropStage_keeps {l : List Comp} (h_stns : Has l .stns) :
    ∀ s x1, blank l (dropStage s x1) = blank l s := by
  intro s x1
  unfold dropStage
  simp (disch := assumption) only [↓setStn_keeps]

theorem effRqoComplete_keeps {l : List Comp} (h_regs : Has l .regs) (h_fp : Has l .fp) (h_stns : Has l .stns) (h_tens : Has l .tens) (h_cdus : Has l .cdus) (h_msixHeld : Has l .msixHeld) (h_emitted : Has l .emitted) :
    ∀ x0 s, blank l (effRqoComplete x0 s) = blank l s := by
  intro x0 s
  unfold effRqoComplete
  dsimp only
  (repeat' (split <;> (try (rename_i heq; have hh := congrArg Prod.snd heq; dsimp only at hh; subst hh)))) <;> first | with_reducible rfl | simp (disch := first | assumption | (intro t x; first | with_reducible rfl | simp (disch := assumption) only [↓setStn_keeps, ↓endJob_keeps, ↓rqoAll_keeps, ↓dropStage_keeps, ↓blank_cdus, ↓blank_fp, ↓blank_regs, ↓blank_tens, ↓blank_msixHeld, ↓blank_stns, ↓blank_emitted, ↓apply_ite (blank l), ↓apply_ite Prod.snd, ite_self] | ((repeat' (split <;> (try (rename_i heq; have hh := congrArg Prod.snd heq; dsimp only at hh; subst hh)))) <;> first | with_reducible rfl | simp (disch := assumption) only [↓setStn_keeps, ↓endJob_keeps, ↓rqoAll_keeps, ↓dropStage_keeps, ↓blank_cdus, ↓blank_fp, ↓blank_regs, ↓blank_tens, ↓blank_msixHeld, ↓blank_stns, ↓blank_emitted, ↓apply_ite (blank l), ↓apply_ite Prod.snd, ite_self] | rfl))) only [↓setStn_keeps, ↓endJob_keeps, ↓rqoAll_keeps, ↓dropStage_keeps, ↓blank_cdus, ↓blank_fp, ↓blank_regs, ↓blank_tens, ↓blank_msixHeld, ↓blank_stns, ↓blank_emitted, ↓apply_ite (blank l), ↓apply_ite Prod.snd, ite_self, ↓foldl_keeps, ↓foldr_keeps, ↓forUpTo_keeps, ↓foldl_snd_keeps] | rfl

theorem effWaitt_keeps {l : List Comp} (h_stns : Has l .stns) :
    ∀ x0 s, blank l (effWaitt x0 s) = blank l s := by
  intro x0 s
  unfold effWaitt
  simp (disch := first | assumption | (intros; (first | with_reducible rfl | simp (disch := assumption) only [↓setStn_keeps, ↓endJob_keeps, ↓issue_keeps, ↓requestSave_keeps, ↓blank_stns, ↓apply_ite (blank l), ↓apply_ite Prod.snd, ite_self] | (try dsimp only; (repeat' (split)) <;> first | done | with_reducible rfl | simp (disch := assumption) only [↓setStn_keeps, ↓endJob_keeps, ↓issue_keeps, ↓requestSave_keeps, ↓blank_stns, ↓apply_ite (blank l), ↓apply_ite Prod.snd, ite_self] | rfl)))) only [↓setStn_keeps, ↓endJob_keeps, ↓issue_keeps, ↓requestSave_keeps, ↓blank_stns, ↓apply_ite (blank l), ↓apply_ite Prod.snd, ite_self, ↓foldl_keeps, ↓foldr_keeps, ↓forUpTo_keeps, ↓foldl_snd_keeps]

theorem effRelt_keeps {l : List Comp} (h_stns : Has l .stns) :
    ∀ x0 s, blank l (effRelt x0 s) = blank l s := by
  intro x0 s
  unfold effRelt
  apply issue_keeps <;> first | assumption | skip
  intro j w st
  dsimp only
  split
  · simp (disch := assumption) only [↓setStn_keeps, ↓endJob_keeps, ↓issue_keeps, ↓blank_stns, ↓apply_ite (blank l), ↓apply_ite Prod.snd, ite_self]
  · rw [setStn_keeps h_stns, foldl_keeps]
    intro t x
    ((repeat' (split)) <;> first | with_reducible rfl | simp (disch := assumption) only [↓setStn_keeps, ↓endJob_keeps, ↓issue_keeps, ↓blank_stns, ↓apply_ite (blank l), ↓apply_ite Prod.snd, ite_self])

theorem effPost_keeps {l : List Comp} (h_regs : Has l .regs) (h_stns : Has l .stns) (h_pool : Has l .pool) (h_tens : Has l .tens) (h_msixHeld : Has l .msixHeld) (h_emitted : Has l .emitted) (h_fresh : Has l .fresh) :
    ∀ x0 s, blank l (effPost x0 s) = blank l s := by
  intro x0 s
  unfold effPost
  apply issue_keeps <;> first | assumption | skip
  intro j w st
  dsimp only
  ((repeat' (split <;> (try (rename_i heq; have hh := congrArg Prod.snd heq; dsimp only at hh; subst hh)))) <;> first | with_reducible rfl | simp (disch := assumption) only [↓setStn_keeps, ↓hwPost_keeps, ↓takeGranted_keeps, ↓takeEnded_keeps, ↓endJob_keeps, ↓issue_keeps, ↓blank_pool, ↓blank_pool_fresh, ↓blank_regs, ↓blank_tens, ↓blank_msixHeld, ↓blank_fresh, ↓blank_stns, ↓blank_emitted, ↓apply_ite (blank l), ↓apply_ite Prod.snd, ite_self])

theorem effFence_keeps {l : List Comp} (h_stns : Has l .stns) :
    ∀ x0 s, blank l (effFence x0 s) = blank l s := by
  intro x0 s
  unfold effFence
  simp (disch := first | assumption | (intros; (first | with_reducible rfl | simp (disch := assumption) only [↓setStn_keeps, ↓issue_keeps, ↓blank_stns, ↓apply_ite (blank l), ↓apply_ite Prod.snd, ite_self] | (try dsimp only; (repeat' (split)) <;> first | done | with_reducible rfl | simp (disch := assumption) only [↓setStn_keeps, ↓issue_keeps, ↓blank_stns, ↓apply_ite (blank l), ↓apply_ite Prod.snd, ite_self] | rfl)))) only [↓setStn_keeps, ↓issue_keeps, ↓blank_stns, ↓apply_ite (blank l), ↓apply_ite Prod.snd, ite_self, ↓foldl_keeps, ↓foldr_keeps, ↓forUpTo_keeps, ↓foldl_snd_keeps]

theorem effStnEnd_keeps {l : List Comp} (h_stns : Has l .stns) :
    ∀ x0 s, blank l (effStnEnd x0 s) = blank l s := by
  intro x0 s
  unfold effStnEnd
  simp (disch := first | assumption | (intros; (first | with_reducible rfl | simp (disch := assumption) only [↓setStn_keeps, ↓endJob_keeps, ↓issue_keeps, ↓blank_stns, ↓apply_ite (blank l), ↓apply_ite Prod.snd, ite_self] | (try dsimp only; (repeat' (split)) <;> first | done | with_reducible rfl | simp (disch := assumption) only [↓setStn_keeps, ↓endJob_keeps, ↓issue_keeps, ↓blank_stns, ↓apply_ite (blank l), ↓apply_ite Prod.snd, ite_self] | rfl)))) only [↓setStn_keeps, ↓endJob_keeps, ↓issue_keeps, ↓blank_stns, ↓apply_ite (blank l), ↓apply_ite Prod.snd, ite_self, ↓foldl_keeps, ↓foldr_keeps, ↓forUpTo_keeps, ↓foldl_snd_keeps]

theorem effStationSave_keeps {l : List Comp} (h_regs : Has l .regs) (h_stns : Has l .stns) (h_ptns : Has l .ptns) (h_pool : Has l .pool) (h_plat : Has l .plat) (h_tens : Has l .tens) (h_hostMem : Has l .hostMem) (h_msixHeld : Has l .msixHeld) (h_emitted : Has l .emitted) :
    ∀ x0 s, blank l (effStationSave x0 s) = blank l s := by
  intro x0 s
  unfold effStationSave
  dsimp only
  (repeat' (split)) <;> first | with_reducible rfl | simp (disch := assumption) only [↓saveRun_keeps, ↓resumeSaved_keeps, ↓apply_ite (blank l), ite_self]

theorem effLendResZeroingDone_keeps {l : List Comp} (h_regs : Has l .regs) (h_fp : Has l .fp) (h_stns : Has l .stns) (h_ptns : Has l .ptns) (h_migs : Has l .migs) (h_locs : Has l .locs) (h_spillFreed : Has l .spillFreed) (h_pool : Has l .pool) (h_plat : Has l .plat) (h_tens : Has l .tens) (h_cdus : Has l .cdus) (h_trv : Has l .trv) (h_hostMem : Has l .hostMem) (h_msixHeld : Has l .msixHeld) (h_emitted : Has l .emitted) (h_fresh : Has l .fresh) :
    ∀ x0 s, blank l (effLendResZeroingDone x0 s) = blank l s := by
  intro x0 s
  unfold effLendResZeroingDone
  (repeat' (split)) <;> first | with_reducible rfl | simp (disch := assumption) only [↓wr_keeps, ↓setStn_keeps, ↓resumeStnPage_keeps, ↓serveTraverse_keeps]

theorem effStationStoreZeroed_keeps {l : List Comp} (h_regs : Has l .regs) (h_fp : Has l .fp) (h_stns : Has l .stns) (h_ptns : Has l .ptns) (h_migs : Has l .migs) (h_locs : Has l .locs) (h_spillFreed : Has l .spillFreed) (h_pool : Has l .pool) (h_plat : Has l .plat) (h_tens : Has l .tens) (h_cdus : Has l .cdus) (h_trv : Has l .trv) (h_hostMem : Has l .hostMem) (h_msixHeld : Has l .msixHeld) (h_emitted : Has l .emitted) (h_fresh : Has l .fresh) :
    ∀ x0 s, blank l (effStationStoreZeroed x0 s) = blank l s := by
  intro x0 s
  unfold effStationStoreZeroed
  simp (disch := assumption) only [↓setStn_keeps, ↓wipeAll_keeps, ↓resumeStnPage_keeps, ↓serveTraverse_keeps, ↓blank_stns, ↓apply_ite (blank l), ite_self]

theorem effInstructionMemoryWrite_keeps {l : List Comp} (h_regs : Has l .regs) (h_stns : Has l .stns) (h_msixHeld : Has l .msixHeld) (h_emitted : Has l .emitted) :
    ∀ x0 x1 x2 x3 s, blank l (effInstructionMemoryWrite x0 x1 x2 x3 s) = blank l s := by
  intro x0 x1 x2 x3 s
  unfold effInstructionMemoryWrite
  simp (disch := assumption) only [↓setErr_keeps, ↓denyAccess_keeps, ↓setStn_keeps, ↓apply_ite (blank l), ite_self]

theorem effStatClr_keeps {l : List Comp} (h_regs : Has l .regs) (h_stns : Has l .stns) (h_msixHeld : Has l .msixHeld) (h_emitted : Has l .emitted) (h_fresh : Has l .fresh) :
    ∀ x0 x1 s, blank l (effStatClr x0 x1 s) = blank l s := by
  intro x0 x1 s
  unfold effStatClr
  simp (disch := first | assumption | (intros; (first | with_reducible rfl | simp (disch := assumption) only [↓withWrite_keeps, ↓statClear_keeps, ↓blank_regs, ↓blank_msixHeld, ↓blank_fresh, ↓blank_stns, ↓blank_emitted, ↓apply_ite (blank l), ↓apply_ite Prod.snd, ite_self] | (try dsimp only; (repeat' (split)) <;> first | done | with_reducible rfl | simp (disch := assumption) only [↓withWrite_keeps, ↓statClear_keeps, ↓blank_regs, ↓blank_msixHeld, ↓blank_fresh, ↓blank_stns, ↓blank_emitted, ↓apply_ite (blank l), ↓apply_ite Prod.snd, ite_self] | rfl)))) only [↓withWrite_keeps, ↓statClear_keeps, ↓blank_regs, ↓blank_msixHeld, ↓blank_fresh, ↓blank_stns, ↓blank_emitted, ↓apply_ite (blank l), ↓apply_ite Prod.snd, ite_self, ↓foldl_keeps, ↓foldr_keeps, ↓forUpTo_keeps, ↓foldl_snd_keeps]

theorem setJoined_keeps {l : List Comp} (h_regs : Has l .regs) :
    ∀ s x1 x2, blank l (setJoined s x1 x2) = blank l s := by
  intro s x1 x2
  unfold setJoined
  simp (disch := assumption) only [↓wr_keeps, ↓apply_ite (blank l), ite_self]

theorem carryCopy_keeps {l : List Comp} (h_stns : Has l .stns) :
    ∀ s x1 x2 x3, blank l (carryCopy s x1 x2 x3) = blank l s := by
  intro s x1 x2 x3
  exact setStn_keeps h_stns _ _ _

theorem carryClaims_keeps {l : List Comp} (h_movs : Has l .movs) :
    ∀ s x1 x2 x3, blank l (carryClaims s x1 x2 x3) = blank l s := by
  intro s x1 x2 x3
  unfold carryClaims
  simp (disch := assumption) only [↓blank_movs, ↓apply_ite (blank l), ite_self]

theorem carry_keeps {l : List Comp} (h_regs : Has l .regs) (h_stns : Has l .stns) (h_ptns : Has l .ptns) (h_movs : Has l .movs) (h_pool : Has l .pool) (h_plat : Has l .plat) (h_tens : Has l .tens) (h_hostMem : Has l .hostMem) (h_msixHeld : Has l .msixHeld) (h_emitted : Has l .emitted) (h_fresh : Has l .fresh) :
    ∀ s x1 x2, blank l (carry s x1 x2) = blank l s := by
  intro s x1 x2
  unfold carry
  dsimp only
  (repeat' (split)) <;> first | with_reducible rfl | simp (disch := first | assumption | (intro t x; first | with_reducible rfl | simp (disch := assumption) only [↓setStn_keeps, ↓dropSaved_keeps, ↓carryCopy_keeps, ↓carryClaims_keeps, ↓blank_pool, ↓blank_hostMem, ↓blank_plat, ↓blank_pool_fresh, ↓blank_ptns, ↓blank_regs, ↓blank_tens, ↓blank_msixHeld, ↓blank_fresh, ↓blank_movs, ↓blank_stns, ↓blank_emitted, ↓apply_ite (blank l), ↓apply_ite Prod.snd, ite_self] | ((repeat' (split)) <;> first | with_reducible rfl | simp (disch := assumption) only [↓setStn_keeps, ↓dropSaved_keeps, ↓carryCopy_keeps, ↓carryClaims_keeps, ↓blank_pool, ↓blank_hostMem, ↓blank_plat, ↓blank_pool_fresh, ↓blank_ptns, ↓blank_regs, ↓blank_tens, ↓blank_msixHeld, ↓blank_fresh, ↓blank_movs, ↓blank_stns, ↓blank_emitted, ↓apply_ite (blank l), ↓apply_ite Prod.snd, ite_self] | rfl))) only [↓setStn_keeps, ↓dropSaved_keeps, ↓carryCopy_keeps, ↓carryClaims_keeps, ↓blank_pool, ↓blank_hostMem, ↓blank_plat, ↓blank_pool_fresh, ↓blank_ptns, ↓blank_regs, ↓blank_tens, ↓blank_msixHeld, ↓blank_fresh, ↓blank_movs, ↓blank_stns, ↓blank_emitted, ↓apply_ite (blank l), ↓apply_ite Prod.snd, ite_self, ↓foldl_keeps, ↓foldr_keeps, ↓forUpTo_keeps, ↓foldl_snd_keeps] | rfl

theorem showBinding_keeps {l : List Comp} (h_regs : Has l .regs) :
    ∀ s x1, blank l (showBinding s x1) = blank l s := by
  intro s x1
  unfold showBinding
  (repeat' (split)) <;> first | with_reducible rfl | simp (disch := assumption) only [↓wr_keeps]

theorem bindApply_keeps {l : List Comp} (h_regs : Has l .regs) (h_stns : Has l .stns) (h_ptns : Has l .ptns) (h_movs : Has l .movs) (h_pool : Has l .pool) (h_plat : Has l .plat) (h_tens : Has l .tens) (h_hostMem : Has l .hostMem) (h_msixHeld : Has l .msixHeld) (h_emitted : Has l .emitted) (h_fresh : Has l .fresh) :
    ∀ s x1, blank l (bindApply s x1) = blank l s := by
  intro s x1
  unfold bindApply
  dsimp only
  (repeat' (split)) <;> first | with_reducible rfl | simp (disch := assumption) only [↓setPtn_keeps, ↓setJoined_keeps, ↓carry_keeps, ↓apply_ite (blank l), ite_self]

theorem bindGo_keeps {l : List Comp} (h_regs : Has l .regs) (h_stns : Has l .stns) (h_ptns : Has l .ptns) (h_movs : Has l .movs) (h_pool : Has l .pool) (h_plat : Has l .plat) (h_tens : Has l .tens) (h_hostMem : Has l .hostMem) (h_msixHeld : Has l .msixHeld) (h_emitted : Has l .emitted) (h_fresh : Has l .fresh) :
    ∀ s x1, blank l (bindGo s x1) = blank l s := by
  intro s x1
  unfold bindGo
  simp (disch := assumption) only [↓wr_keeps, ↓setErr_keeps, ↓showBinding_keeps, ↓bindApply_keeps, ↓apply_ite (blank l), ite_self]

theorem effBindGo_keeps {l : List Comp} (h_regs : Has l .regs) (h_stns : Has l .stns) (h_ptns : Has l .ptns) (h_movs : Has l .movs) (h_pool : Has l .pool) (h_plat : Has l .plat) (h_tens : Has l .tens) (h_hostMem : Has l .hostMem) (h_msixHeld : Has l .msixHeld) (h_emitted : Has l .emitted) (h_fresh : Has l .fresh) :
    ∀ x0 x1 s, blank l (effBindGo x0 x1 s) = blank l s := by
  intro x0 x1 s
  unfold effBindGo
  simp (disch := first | assumption | (intros; (first | with_reducible rfl | simp (disch := assumption) only [↓withWrite_keeps, ↓bindGo_keeps, ↓blank_pool, ↓blank_hostMem, ↓blank_plat, ↓blank_pool_fresh, ↓blank_ptns, ↓blank_regs, ↓blank_tens, ↓blank_msixHeld, ↓blank_fresh, ↓blank_movs, ↓blank_stns, ↓blank_emitted, ↓apply_ite (blank l), ↓apply_ite Prod.snd, ite_self] | (try dsimp only; (repeat' (split)) <;> first | done | with_reducible rfl | simp (disch := assumption) only [↓withWrite_keeps, ↓bindGo_keeps, ↓blank_pool, ↓blank_hostMem, ↓blank_plat, ↓blank_pool_fresh, ↓blank_ptns, ↓blank_regs, ↓blank_tens, ↓blank_msixHeld, ↓blank_fresh, ↓blank_movs, ↓blank_stns, ↓blank_emitted, ↓apply_ite (blank l), ↓apply_ite Prod.snd, ite_self] | rfl)))) only [↓withWrite_keeps, ↓bindGo_keeps, ↓blank_pool, ↓blank_hostMem, ↓blank_plat, ↓blank_pool_fresh, ↓blank_ptns, ↓blank_regs, ↓blank_tens, ↓blank_msixHeld, ↓blank_fresh, ↓blank_movs, ↓blank_stns, ↓blank_emitted, ↓apply_ite (blank l), ↓apply_ite Prod.snd, ite_self, ↓foldl_keeps, ↓foldr_keeps, ↓forUpTo_keeps, ↓foldl_snd_keeps]

theorem effLookup_keeps {l : List Comp} (h_regs : Has l .regs) (h_msixHeld : Has l .msixHeld) (h_emitted : Has l .emitted) :
    ∀ x0 x1 s, blank l (effLookup x0 x1 s) = blank l s := by
  intro x0 x1 s
  unfold effLookup
  simp (disch := first | assumption | (intros; (first | with_reducible rfl | simp (disch := assumption) only [↓wr_keeps, ↓withWrite_keeps, ↓showBinding_keeps, ↓blank_regs, ↓blank_msixHeld, ↓blank_emitted, ↓apply_ite (blank l), ↓apply_ite Prod.snd, ite_self] | (try dsimp only; (repeat' (split)) <;> first | done | with_reducible rfl | simp (disch := assumption) only [↓wr_keeps, ↓withWrite_keeps, ↓showBinding_keeps, ↓blank_regs, ↓blank_msixHeld, ↓blank_emitted, ↓apply_ite (blank l), ↓apply_ite Prod.snd, ite_self] | rfl)))) only [↓wr_keeps, ↓withWrite_keeps, ↓showBinding_keeps, ↓blank_regs, ↓blank_msixHeld, ↓blank_emitted, ↓apply_ite (blank l), ↓apply_ite Prod.snd, ite_self, ↓foldl_keeps, ↓foldr_keeps, ↓forUpTo_keeps, ↓foldl_snd_keeps]

theorem effCarryComplete_keeps {l : List Comp} (h_regs : Has l .regs) (h_stns : Has l .stns) (h_msixHeld : Has l .msixHeld) (h_emitted : Has l .emitted) :
    ∀ x0 s, blank l (effCarryComplete x0 s) = blank l s := by
  intro x0 s
  unfold effCarryComplete
  simp (disch := assumption) only [↓setStn_keeps, ↓resumeStnPage_keeps, ↓carry_keeps, ↓apply_ite (blank l), ite_self]

end Sys2Proof.Machine
end

