-- ==== Sys2Proof/Laws/KeepPageCore.lean ====
section
/-! SUPPORT. What each operation of Machine/PageCore.lean leaves as it was. -/

set_option linter.unusedSimpArgs false

namespace Sys2Proof.Machine

theorem clearPage_keeps {l : List Comp} (h_regs : Has l .regs) (h_eff : Has l .eff) (h_cap : Has l .cap) (h_sealAt : Has l .sealAt) :
    ∀ s x1, blank l (clearPage s x1) = blank l s := by
  intro s x1
  unfold clearPage
  (repeat' (split)) <;> first | with_reducible rfl | simp (disch := assumption) only [↓clearCapture_keeps, ↓blank_eff, ↓blank_regs_eff_sealAt, ↓blank_regs, ↓blank_sealAt]

theorem ringsApplied_keeps {l : List Comp} (h_regs : Has l .regs) (h_ptns : Has l .ptns) :
    ∀ x0 s x2, blank l (ringsApplied x0 s x2) = blank l s := by
  intro x0 s x2
  unfold ringsApplied
  (repeat' (split)) <;> first | with_reducible rfl | simp (disch := first | assumption | (intro t x; first | with_reducible rfl | simp (disch := assumption) only [↓wr_keeps, ↓setSq_keeps, ↓setCq_keeps, ↓apply_ite (blank l), ite_self] | ((repeat' (split)) <;> first | with_reducible rfl | simp (disch := assumption) only [↓wr_keeps, ↓setSq_keeps, ↓setCq_keeps, ↓apply_ite (blank l), ite_self] | rfl))) only [↓wr_keeps, ↓setSq_keeps, ↓setCq_keeps, ↓apply_ite (blank l), ite_self, ↓foldl_keeps, ↓foldr_keeps, ↓forUpTo_keeps, ↓foldl_snd_keeps]

theorem levelBookApplied_keeps {l : List Comp} (h_regs : Has l .regs) (h_ptns : Has l .ptns) :
    ∀ s x1, blank l (levelBookApplied s x1) = blank l s := by
  intro s x1
  unfold levelBookApplied
  simp (disch := assumption) only [↓setPtn_keeps, ↓recoverStart_keeps, ↓lbIdle_keeps, ↓apply_ite (blank l), ite_self]

theorem jobqApplied_keeps {l : List Comp} (h_regs : Has l .regs) (h_ptns : Has l .ptns) (h_pool : Has l .pool) (h_plat : Has l .plat) (h_tens : Has l .tens) (h_hostMem : Has l .hostMem) (h_msixHeld : Has l .msixHeld) (h_emitted : Has l .emitted) :
    ∀ x0 s x2, blank l (jobqApplied x0 s x2) = blank l s := by
  intro x0 s x2
  unfold jobqApplied
  (repeat' (split)) <;> first | with_reducible rfl | simp (disch := first | assumption | (intro t x; first | with_reducible rfl | simp (disch := assumption) only [↓dropStakeWait_keeps, ↓withdrawAgent_keeps, ↓apply_ite (blank l), ite_self] | ((repeat' (split)) <;> first | with_reducible rfl | simp (disch := assumption) only [↓dropStakeWait_keeps, ↓withdrawAgent_keeps, ↓apply_ite (blank l), ite_self] | rfl))) only [↓dropStakeWait_keeps, ↓withdrawAgent_keeps, ↓apply_ite (blank l), ite_self, ↓foldl_keeps, ↓foldr_keeps, ↓forUpTo_keeps, ↓foldl_snd_keeps]

theorem applyGroups_keeps {l : List Comp} (h_regs : Has l .regs) (h_eff : Has l .eff) (h_sealAt : Has l .sealAt) (h_ptns : Has l .ptns) (h_migs : Has l .migs) (h_locs : Has l .locs) (h_spillFreed : Has l .spillFreed) (h_pool : Has l .pool) (h_plat : Has l .plat) (h_tens : Has l .tens) (h_book : Has l .book) (h_hostMem : Has l .hostMem) (h_msixHeld : Has l .msixHeld) (h_emitted : Has l .emitted) :
    ∀ s x1 x2, blank l (applyGroups s x1 x2) = blank l s := by
  intro s x1 x2
  unfold applyGroups
  dsimp only
  split
  · simp (disch := assumption) only [↓quotaFollow_keeps, ↓rangesApplied_keeps, ↓bookApplied_keeps, ↓applyShadows_keeps, ↓ringsApplied_keeps, ↓levelBookApplied_keeps, ↓jobqApplied_keeps, ↓blank_pool, ↓blank_hostMem, ↓blank_plat, ↓blank_eff, ↓blank_regs_eff_sealAt, ↓blank_ptns, ↓blank_regs, ↓blank_tens, ↓blank_locs, ↓blank_msixHeld, ↓blank_migs, ↓blank_sealAt, ↓blank_spillFreed, ↓blank_book, ↓blank_emitted, ↓apply_ite (blank l), ↓apply_ite Prod.snd, ite_self]
  · simp (disch := assumption) only [↓quotaFollow_keeps, ↓rangesApplied_keeps, ↓bookApplied_keeps, ↓applyShadows_keeps, ↓ringsApplied_keeps, ↓levelBookApplied_keeps, ↓jobqApplied_keeps, ↓blank_pool, ↓blank_hostMem, ↓blank_plat, ↓blank_eff, ↓blank_regs_eff_sealAt, ↓blank_ptns, ↓blank_regs, ↓blank_tens, ↓blank_locs, ↓blank_msixHeld, ↓blank_migs, ↓blank_sealAt, ↓blank_spillFreed, ↓blank_book, ↓blank_emitted, ↓apply_ite (blank l), ↓apply_ite Prod.snd, ite_self]

theorem reachQuiesced_keeps {l : List Comp} (h_regs : Has l .regs) (h_eff : Has l .eff) (h_sealAt : Has l .sealAt) (h_ptns : Has l .ptns) (h_migs : Has l .migs) (h_locs : Has l .locs) (h_spillFreed : Has l .spillFreed) (h_pool : Has l .pool) (h_plat : Has l .plat) (h_tens : Has l .tens) (h_book : Has l .book) (h_hostMem : Has l .hostMem) (h_msixHeld : Has l .msixHeld) (h_emitted : Has l .emitted) :
    ∀ s x1, blank l (reachQuiesced s x1) = blank l s := by
  intro s x1
  unfold reachQuiesced
  simp (disch := assumption) only [↓wr_keeps, ↓setEvt_keeps, ↓applyGroups_keeps, ↓apply_ite (blank l), ite_self]

theorem forceQuiesced_keeps {l : List Comp} (h_regs : Has l .regs) (h_eff : Has l .eff) (h_sealAt : Has l .sealAt) (h_ptns : Has l .ptns) (h_migs : Has l .migs) (h_locs : Has l .locs) (h_spillFreed : Has l .spillFreed) (h_pool : Has l .pool) (h_plat : Has l .plat) (h_tens : Has l .tens) (h_book : Has l .book) (h_hostMem : Has l .hostMem) (h_msixHeld : Has l .msixHeld) (h_emitted : Has l .emitted) :
    ∀ s x1, blank l (forceQuiesced s x1) = blank l s := by
  intro s x1
  unfold forceQuiesced
  simp (disch := assumption) only [↓wr_keeps, ↓reachQuiesced_keeps, ↓apply_ite (blank l), ite_self]

theorem finishRqo_keeps {l : List Comp} (h_regs : Has l .regs) (h_fp : Has l .fp) (h_stns : Has l .stns) (h_tens : Has l .tens) (h_cdus : Has l .cdus) (h_msixHeld : Has l .msixHeld) (h_emitted : Has l .emitted) :
    ∀ s x1, blank l (finishRqo s x1) = blank l s := by
  intro s x1
  unfold finishRqo
  (repeat' (split)) <;> first | with_reducible rfl | simp (disch := assumption) only [↓effRqoStart_keeps, ↓effRqoComplete_keeps, ↓apply_ite (blank l), ite_self]

theorem silentJob_keeps {l : List Comp} (h_stns : Has l .stns) (h_pool : Has l .pool) (h_plat : Has l .plat) :
    ∀ s x1 x2, blank l (silentJob s x1 x2) = blank l s := by
  intro s x1 x2
  unfold silentJob
  (repeat' (split)) <;> first | with_reducible rfl | simp (disch := first | assumption | (intro t x; first | with_reducible rfl | simp (disch := assumption) only [↓freeStake_keeps, ↓freeParcel_keeps, ↓freeFills_keeps] | ((repeat' (split)) <;> first | with_reducible rfl | simp (disch := assumption) only [↓freeStake_keeps, ↓freeParcel_keeps, ↓freeFills_keeps] | rfl))) only [↓freeStake_keeps, ↓freeParcel_keeps, ↓freeFills_keeps, ↓foldl_keeps, ↓foldr_keeps, ↓forUpTo_keeps, ↓foldl_snd_keeps]

theorem stopRun_keeps {l : List Comp} (h_regs : Has l .regs) (h_fp : Has l .fp) (h_stns : Has l .stns) (h_ptns : Has l .ptns) (h_pool : Has l .pool) (h_plat : Has l .plat) (h_tens : Has l .tens) (h_cdus : Has l .cdus) (h_hostMem : Has l .hostMem) (h_msixHeld : Has l .msixHeld) (h_emitted : Has l .emitted) (h_fresh : Has l .fresh) :
    ∀ s x1 x2, blank l (stopRun s x1 x2) = blank l s := by
  intro s x1 x2
  unfold stopRun
  (repeat' (split)) <;> first | with_reducible rfl | simp (disch := assumption) only [↓setStn_keeps, ↓withdrawRun_keeps, ↓dropGrants_keeps, ↓dropRun_keeps, ↓finishRqo_keeps, ↓silentJob_keeps, ↓apply_ite (blank l), ite_self]

theorem stopSaved_keeps {l : List Comp} (h_regs : Has l .regs) (h_stns : Has l .stns) (h_ptns : Has l .ptns) (h_pool : Has l .pool) (h_plat : Has l .plat) (h_tens : Has l .tens) (h_hostMem : Has l .hostMem) (h_msixHeld : Has l .msixHeld) (h_emitted : Has l .emitted) (h_fresh : Has l .fresh) :
    ∀ s x1 x2, blank l (stopSaved s x1 x2) = blank l s := by
  intro s x1 x2
  unfold stopSaved
  (repeat' (split)) <;> first | with_reducible rfl | simp (disch := assumption) only [↓setStn_keeps, ↓dropSaved_keeps, ↓silentJob_keeps, ↓apply_ite (blank l), ite_self]

theorem dropTake_keeps {l : List Comp} (h_regs : Has l .regs) (h_ptns : Has l .ptns) (h_pool : Has l .pool) (h_plat : Has l .plat) (h_tens : Has l .tens) (h_hostMem : Has l .hostMem) (h_msixHeld : Has l .msixHeld) (h_emitted : Has l .emitted) :
    ∀ s x1, blank l (dropTake s x1) = blank l s := by
  intro s x1
  unfold dropTake
  simp (disch := assumption) only [↓dropStakeWait_keeps, ↓withdrawAgent_keeps]

theorem stopStation_keeps {l : List Comp} (h_regs : Has l .regs) (h_fp : Has l .fp) (h_stns : Has l .stns) (h_ptns : Has l .ptns) (h_pool : Has l .pool) (h_plat : Has l .plat) (h_tens : Has l .tens) (h_cdus : Has l .cdus) (h_hostMem : Has l .hostMem) (h_msixHeld : Has l .msixHeld) (h_emitted : Has l .emitted) (h_fresh : Has l .fresh) :
    ∀ s x1 x2, blank l (stopStation s x1 x2) = blank l s := by
  intro s x1 x2
  unfold stopStation
  dsimp only
  (repeat' (split)) <;> first | with_reducible rfl | simp (disch := first | assumption | (intro t x; first | with_reducible rfl | simp (disch := assumption) only [↓freeFills_keeps, ↓stopRun_keeps, ↓stopSaved_keeps, ↓dropTake_keeps, ↓blank_cdus, ↓blank_pool, ↓blank_fp, ↓blank_hostMem, ↓blank_plat, ↓blank_pool_fresh, ↓blank_ptns, ↓blank_regs, ↓blank_tens, ↓blank_msixHeld, ↓blank_fresh, ↓blank_stns, ↓blank_emitted, ↓apply_ite (blank l), ↓apply_ite Prod.snd, ite_self] | ((repeat' (split)) <;> first | with_reducible rfl | simp (disch := assumption) only [↓freeFills_keeps, ↓stopRun_keeps, ↓stopSaved_keeps, ↓dropTake_keeps, ↓blank_cdus, ↓blank_pool, ↓blank_fp, ↓blank_hostMem, ↓blank_plat, ↓blank_pool_fresh, ↓blank_ptns, ↓blank_regs, ↓blank_tens, ↓blank_msixHeld, ↓blank_fresh, ↓blank_stns, ↓blank_emitted, ↓apply_ite (blank l), ↓apply_ite Prod.snd, ite_self] | rfl))) only [↓freeFills_keeps, ↓stopRun_keeps, ↓stopSaved_keeps, ↓dropTake_keeps, ↓blank_cdus, ↓blank_pool, ↓blank_fp, ↓blank_hostMem, ↓blank_plat, ↓blank_pool_fresh, ↓blank_ptns, ↓blank_regs, ↓blank_tens, ↓blank_msixHeld, ↓blank_fresh, ↓blank_stns, ↓blank_emitted, ↓apply_ite (blank l), ↓apply_ite Prod.snd, ite_self, ↓foldl_keeps, ↓foldr_keeps, ↓forUpTo_keeps, ↓foldl_snd_keeps] | rfl

theorem stopDescs_keeps {l : List Comp} (h_regs : Has l .regs) (h_stns : Has l .stns) (h_ptns : Has l .ptns) (h_movs : Has l .movs) (h_pool : Has l .pool) (h_plat : Has l .plat) (h_tens : Has l .tens) (h_hostMem : Has l .hostMem) (h_msixHeld : Has l .msixHeld) (h_emitted : Has l .emitted) (h_fresh : Has l .fresh) :
    ∀ s x1 x2 x3, blank l (stopDescs s x1 x2 x3) = blank l s := by
  intro s x1 x2 x3
  unfold stopDescs
  (repeat' (split <;> (try (rename_i heq; have hh := congrArg Prod.snd heq; dsimp only at hh; subst hh)))) <;> first | with_reducible rfl | simp (disch := first | assumption | (intro t x; first | with_reducible rfl | simp (disch := assumption) only [↓setMov_keeps, ↓freeStake_keeps, ↓freeParcel_keeps, ↓commitOp_keeps, ↓finishItem_keeps, ↓postAll_keeps, ↓apply_ite (blank l), ite_self] | ((repeat' (split <;> (try (rename_i heq; have hh := congrArg Prod.snd heq; dsimp only at hh; subst hh)))) <;> first | with_reducible rfl | simp (disch := assumption) only [↓setMov_keeps, ↓freeStake_keeps, ↓freeParcel_keeps, ↓commitOp_keeps, ↓finishItem_keeps, ↓postAll_keeps, ↓apply_ite (blank l), ite_self] | rfl))) only [↓setMov_keeps, ↓freeStake_keeps, ↓freeParcel_keeps, ↓commitOp_keeps, ↓finishItem_keeps, ↓postAll_keeps, ↓apply_ite (blank l), ite_self, ↓foldl_keeps, ↓foldr_keeps, ↓forUpTo_keeps, ↓foldl_snd_keeps]

theorem stopWindow_keeps {l : List Comp} (h_regs : Has l .regs) (h_stns : Has l .stns) (h_ptns : Has l .ptns) (h_movs : Has l .movs) (h_pool : Has l .pool) (h_plat : Has l .plat) (h_tens : Has l .tens) (h_hostMem : Has l .hostMem) (h_msixHeld : Has l .msixHeld) (h_emitted : Has l .emitted) (h_fresh : Has l .fresh) :
    ∀ s x1 x2, blank l (stopWindow s x1 x2) = blank l s := by
  intro s x1 x2
  unfold stopWindow
  (repeat' (split)) <;> first | with_reducible rfl | simp (disch := first | assumption | (intro t x; first | with_reducible rfl | simp (disch := assumption) only [↓stopDescs_keeps] | ((repeat' (split)) <;> first | with_reducible rfl | simp (disch := assumption) only [↓stopDescs_keeps] | rfl))) only [↓stopDescs_keeps, ↓foldl_keeps, ↓foldr_keeps, ↓forUpTo_keeps, ↓foldl_snd_keeps]

theorem stopUnsent_keeps {l : List Comp} (h_regs : Has l .regs) (h_ptns : Has l .ptns) (h_pool : Has l .pool) (h_mer : Has l .mer) (h_plat : Has l .plat) (h_tens : Has l .tens) (h_trv : Has l .trv) (h_hostMem : Has l .hostMem) (h_msixHeld : Has l .msixHeld) (h_emitted : Has l .emitted) (h_fresh : Has l .fresh) :
    ∀ s x1 x2, blank l (stopUnsent s x1 x2) = blank l s := by
  intro s x1 x2
  unfold stopUnsent
  dsimp only
  (repeat' (split <;> (try (rename_i heq; have hh := congrArg Prod.snd heq; dsimp only at hh; subst hh)))) <;> first | with_reducible rfl | simp (disch := first | assumption | (intro t x; first | with_reducible rfl | simp (disch := assumption) only [↓setTrc_keeps, ↓freeStake_keeps, ↓dropStakeWait_keeps, ↓freeParcel_keeps, ↓commitOp_keeps, ↓takeGranted_keeps, ↓withdrawAgent_keeps, ↓dropBarrier_keeps, ↓endWhere_keeps, ↓blank_pool, ↓blank_hostMem, ↓blank_plat, ↓blank_pool_fresh, ↓blank_trv, ↓blank_ptns, ↓blank_regs, ↓blank_tens, ↓blank_msixHeld, ↓blank_mer, ↓blank_fresh, ↓blank_emitted, ↓apply_ite (blank l), ↓apply_ite Prod.snd, ite_self] | ((repeat' (split <;> (try (rename_i heq; have hh := congrArg Prod.snd heq; dsimp only at hh; subst hh)))) <;> first | with_reducible rfl | simp (disch := assumption) only [↓setTrc_keeps, ↓freeStake_keeps, ↓dropStakeWait_keeps, ↓freeParcel_keeps, ↓commitOp_keeps, ↓takeGranted_keeps, ↓withdrawAgent_keeps, ↓dropBarrier_keeps, ↓endWhere_keeps, ↓blank_pool, ↓blank_hostMem, ↓blank_plat, ↓blank_pool_fresh, ↓blank_trv, ↓blank_ptns, ↓blank_regs, ↓blank_tens, ↓blank_msixHeld, ↓blank_mer, ↓blank_fresh, ↓blank_emitted, ↓apply_ite (blank l), ↓apply_ite Prod.snd, ite_self] | rfl))) only [↓setTrc_keeps, ↓freeStake_keeps, ↓dropStakeWait_keeps, ↓freeParcel_keeps, ↓commitOp_keeps, ↓takeGranted_keeps, ↓withdrawAgent_keeps, ↓dropBarrier_keeps, ↓endWhere_keeps, ↓blank_pool, ↓blank_hostMem, ↓blank_plat, ↓blank_pool_fresh, ↓blank_trv, ↓blank_ptns, ↓blank_regs, ↓blank_tens, ↓blank_msixHeld, ↓blank_mer, ↓blank_fresh, ↓blank_emitted, ↓apply_ite (blank l), ↓apply_ite Prod.snd, ite_self, ↓foldl_keeps, ↓foldr_keeps, ↓forUpTo_keeps, ↓foldl_snd_keeps] | rfl

theorem ownerLeaves_keeps {l : List Comp} (h_regs : Has l .regs) (h_eff : Has l .eff) (h_cap : Has l .cap) (h_sealAt : Has l .sealAt) (h_fp : Has l .fp) (h_stns : Has l .stns) (h_ptns : Has l .ptns) (h_movs : Has l .movs) (h_pool : Has l .pool) (h_mer : Has l .mer) (h_plat : Has l .plat) (h_tens : Has l .tens) (h_cdus : Has l .cdus) (h_fhqs : Has l .fhqs) (h_trv : Has l .trv) (h_hostMem : Has l .hostMem) (h_msixHeld : Has l .msixHeld) (h_emitted : Has l .emitted) (h_fresh : Has l .fresh) :
    ∀ s x1, blank l (ownerLeaves s x1) = blank l s := by
  intro s x1
  unfold ownerLeaves
  split
  case h_3 =>
    rw [forUpTo_keeps]
    intro i t
    simp (disch := assumption) only [↓wr_keeps, ↓setStn_keeps, ↓setMov_keeps, ↓setFhq_keeps, ↓resetQueue_keeps, ↓movReset_keeps, ↓trcReset_keeps, ↓clearPage_keeps, ↓stopStation_keeps, ↓blank_cdus, ↓blank_pool, ↓blank_fp, ↓blank_hostMem, ↓blank_plat, ↓blank_pool_fresh, ↓blank_trv, ↓blank_eff, ↓blank_regs_eff_sealAt, ↓blank_ptns, ↓blank_regs, ↓blank_tens, ↓blank_msixHeld, ↓blank_sealAt, ↓blank_mer, ↓blank_fresh, ↓blank_regs_eff_cap_sealAt, ↓blank_cap, ↓blank_movs, ↓blank_stns, ↓blank_fhqs, ↓blank_emitted, ↓apply_ite (blank l), ↓apply_ite Prod.snd, ite_self]
  case h_1 => ((repeat' (split)) <;> first | with_reducible rfl | simp (disch := assumption) only [↓wr_keeps, ↓setStn_keeps, ↓setMov_keeps, ↓setFhq_keeps, ↓resetQueue_keeps, ↓movReset_keeps, ↓trcReset_keeps, ↓clearPage_keeps, ↓stopStation_keeps, ↓blank_cdus, ↓blank_pool, ↓blank_fp, ↓blank_hostMem, ↓blank_plat, ↓blank_pool_fresh, ↓blank_trv, ↓blank_eff, ↓blank_regs_eff_sealAt, ↓blank_ptns, ↓blank_regs, ↓blank_tens, ↓blank_msixHeld, ↓blank_sealAt, ↓blank_mer, ↓blank_fresh, ↓blank_regs_eff_cap_sealAt, ↓blank_cap, ↓blank_movs, ↓blank_stns, ↓blank_fhqs, ↓blank_emitted, ↓apply_ite (blank l), ↓apply_ite Prod.snd, ite_self])
  case h_2 => simp (disch := assumption) only [↓wr_keeps, ↓setStn_keeps, ↓setMov_keeps, ↓setFhq_keeps, ↓resetQueue_keeps, ↓movReset_keeps, ↓trcReset_keeps, ↓clearPage_keeps, ↓stopStation_keeps, ↓blank_cdus, ↓blank_pool, ↓blank_fp, ↓blank_hostMem, ↓blank_plat, ↓blank_pool_fresh, ↓blank_trv, ↓blank_eff, ↓blank_regs_eff_sealAt, ↓blank_ptns, ↓blank_regs, ↓blank_tens, ↓blank_msixHeld, ↓blank_sealAt, ↓blank_mer, ↓blank_fresh, ↓blank_regs_eff_cap_sealAt, ↓blank_cap, ↓blank_movs, ↓blank_stns, ↓blank_fhqs, ↓blank_emitted, ↓apply_ite (blank l), ↓apply_ite Prod.snd, ite_self]
  case h_4 => simp (disch := assumption) only [↓wr_keeps, ↓setStn_keeps, ↓setMov_keeps, ↓setFhq_keeps, ↓resetQueue_keeps, ↓movReset_keeps, ↓trcReset_keeps, ↓clearPage_keeps, ↓stopStation_keeps, ↓blank_cdus, ↓blank_pool, ↓blank_fp, ↓blank_hostMem, ↓blank_plat, ↓blank_pool_fresh, ↓blank_trv, ↓blank_eff, ↓blank_regs_eff_sealAt, ↓blank_ptns, ↓blank_regs, ↓blank_tens, ↓blank_msixHeld, ↓blank_sealAt, ↓blank_mer, ↓blank_fresh, ↓blank_regs_eff_cap_sealAt, ↓blank_cap, ↓blank_movs, ↓blank_stns, ↓blank_fhqs, ↓blank_emitted, ↓apply_ite (blank l), ↓apply_ite Prod.snd, ite_self]
  case h_5 => simp (disch := assumption) only [↓wr_keeps, ↓setStn_keeps, ↓setMov_keeps, ↓setFhq_keeps, ↓resetQueue_keeps, ↓movReset_keeps, ↓trcReset_keeps, ↓clearPage_keeps, ↓stopStation_keeps, ↓blank_cdus, ↓blank_pool, ↓blank_fp, ↓blank_hostMem, ↓blank_plat, ↓blank_pool_fresh, ↓blank_trv, ↓blank_eff, ↓blank_regs_eff_sealAt, ↓blank_ptns, ↓blank_regs, ↓blank_tens, ↓blank_msixHeld, ↓blank_sealAt, ↓blank_mer, ↓blank_fresh, ↓blank_regs_eff_cap_sealAt, ↓blank_cap, ↓blank_movs, ↓blank_stns, ↓blank_fhqs, ↓blank_emitted, ↓apply_ite (blank l), ↓apply_ite Prod.snd, ite_self]
  case h_6 => rfl

theorem changeOwner_keeps {l : List Comp} (h_regs : Has l .regs) (h_eff : Has l .eff) (h_cap : Has l .cap) (h_sealAt : Has l .sealAt) (h_fp : Has l .fp) (h_stns : Has l .stns) (h_ptns : Has l .ptns) (h_movs : Has l .movs) (h_pool : Has l .pool) (h_mer : Has l .mer) (h_plat : Has l .plat) (h_tens : Has l .tens) (h_cdus : Has l .cdus) (h_fhqs : Has l .fhqs) (h_trv : Has l .trv) (h_hostMem : Has l .hostMem) (h_msixHeld : Has l .msixHeld) (h_emitted : Has l .emitted) (h_fresh : Has l .fresh) :
    ∀ s x1 x2, blank l (changeOwner s x1 x2) = blank l s := by
  intro s x1 x2
  unfold changeOwner
  simp (disch := assumption) only [↓wr_keeps, ↓ownerLevels_keeps, ↓clearPage_keeps, ↓ownerLeaves_keeps]

theorem resetResult_keeps {l : List Comp} (h_regs : Has l .regs) :
    ∀ s x1, blank l (resetResult s x1) = blank l s := by
  intro s x1
  unfold resetResult
  simp (disch := assumption) only [↓wr_keeps]

theorem resetMade_keeps {l : List Comp} (h_regs : Has l .regs) (h_hlt : Has l .hlt) :
    ∀ s x1, blank l (resetMade s x1) = blank l s := by
  intro s x1
  unfold resetMade
  simp (disch := assumption) only [↓wr_keeps, ↓resetResult_keeps, ↓blank_hlt, ↓apply_ite (blank l), ite_self]

theorem resetSettle_keeps {l : List Comp} (h_regs : Has l .regs) (h_hlt : Has l .hlt) :
    ∀ s, blank l (resetSettle s) = blank l s := by
  intro s
  unfold resetSettle
  simp (disch := assumption) only [↓wr_keeps, ↓resetResult_keeps, ↓blank_hlt, ↓apply_ite (blank l), ite_self]

theorem stopPage_keeps {l : List Comp} (h_regs : Has l .regs) (h_fp : Has l .fp) (h_stns : Has l .stns) (h_ptns : Has l .ptns) (h_movs : Has l .movs) (h_pool : Has l .pool) (h_mer : Has l .mer) (h_plat : Has l .plat) (h_tens : Has l .tens) (h_cdus : Has l .cdus) (h_trv : Has l .trv) (h_hostMem : Has l .hostMem) (h_msixHeld : Has l .msixHeld) (h_emitted : Has l .emitted) (h_fresh : Has l .fresh) :
    ∀ s x1 x2, blank l (stopPage s x1 x2) = blank l s := by
  intro s x1 x2
  unfold stopPage
  ((repeat' (split)) <;> first | with_reducible rfl | simp (disch := assumption) only [↓dropAccept_keeps, ↓stopStation_keeps, ↓stopDescs_keeps, ↓stopUnsent_keeps, ↓blank_cdus, ↓blank_pool, ↓blank_fp, ↓blank_hostMem, ↓blank_plat, ↓blank_pool_fresh, ↓blank_trv, ↓blank_ptns, ↓blank_regs, ↓blank_tens, ↓blank_msixHeld, ↓blank_mer, ↓blank_fresh, ↓blank_movs, ↓blank_stns, ↓blank_emitted, ↓apply_ite (blank l), ↓apply_ite Prod.snd, ite_self])

theorem ptnResetFields_keeps {l : List Comp} (h_regs : Has l .regs) (h_mon : Has l .mon) :
    ∀ s x1, blank l (ptnResetFields s x1) = blank l s := by
  intro s x1
  unfold ptnResetFields
  (repeat' (split)) <;> first | with_reducible rfl | simp (disch := first | assumption | (intro t x; first | with_reducible rfl | simp (disch := assumption) only [↓wr_keeps, ↓blank_mon] | ((repeat' (split)) <;> first | with_reducible rfl | simp (disch := assumption) only [↓wr_keeps, ↓blank_mon] | rfl))) only [↓wr_keeps, ↓blank_mon, ↓foldl_keeps, ↓foldr_keeps, ↓forUpTo_keeps, ↓foldl_snd_keeps]

theorem resetPartition_keeps {l : List Comp} (h_regs : Has l .regs) (h_eff : Has l .eff) (h_sealAt : Has l .sealAt) (h_fp : Has l .fp) (h_stns : Has l .stns) (h_ptns : Has l .ptns) (h_migs : Has l .migs) (h_locs : Has l .locs) (h_spillFreed : Has l .spillFreed) (h_movs : Has l .movs) (h_pool : Has l .pool) (h_mer : Has l .mer) (h_plat : Has l .plat) (h_tens : Has l .tens) (h_cdus : Has l .cdus) (h_book : Has l .book) (h_trv : Has l .trv) (h_mon : Has l .mon) (h_hostMem : Has l .hostMem) (h_msixHeld : Has l .msixHeld) (h_emitted : Has l .emitted) (h_fresh : Has l .fresh) :
    ∀ s x1, blank l (resetPartition s x1) = blank l s := by
  intro s x1
  unfold resetPartition
  (repeat' (split)) <;> first | with_reducible rfl | simp (disch := first | assumption | (intro t x; first | with_reducible rfl | simp (disch := assumption) only [↓setPtn_keeps, ↓dropOwed_keeps, ↓withdrawAll_keeps, ↓dropAllHeld_keeps, ↓lbIdle_keeps, ↓stopJournaled_keeps, ↓forceQuiesced_keeps, ↓stopPage_keeps, ↓ptnResetFields_keeps] | ((repeat' (split)) <;> first | with_reducible rfl | simp (disch := assumption) only [↓setPtn_keeps, ↓dropOwed_keeps, ↓withdrawAll_keeps, ↓dropAllHeld_keeps, ↓lbIdle_keeps, ↓stopJournaled_keeps, ↓forceQuiesced_keeps, ↓stopPage_keeps, ↓ptnResetFields_keeps] | rfl))) only [↓setPtn_keeps, ↓dropOwed_keeps, ↓withdrawAll_keeps, ↓dropAllHeld_keeps, ↓lbIdle_keeps, ↓stopJournaled_keeps, ↓forceQuiesced_keeps, ↓stopPage_keeps, ↓ptnResetFields_keeps, ↓foldl_keeps, ↓foldr_keeps, ↓forUpTo_keeps, ↓foldl_snd_keeps]

end Sys2Proof.Machine
end

