-- ==== Sys2Proof/Laws/KeepPlat.lean ====
section
/-! SUPPORT. What each operation of Machine/Plat.lean leaves as it was. -/

set_option linter.unusedSimpArgs false

namespace Sys2Proof.Machine

theorem cmdResult_keeps {l : List Comp} (h_regs : Has l .regs) (h_msixHeld : Has l .msixHeld) (h_emitted : Has l .emitted) :
    ∀ s x1, blank l (cmdResult s x1) = blank l s := by
  intro s x1
  unfold cmdResult
  simp (disch := assumption) only [↓wr_keeps, ↓setEvt_keeps]

theorem platCmd_keeps {l : List Comp} (h_regs : Has l .regs) (h_msixHeld : Has l .msixHeld) (h_emitted : Has l .emitted) :
    ∀ s x1 x2 x3, (∀ y0, blank l (x3 y0) = blank l y0) → blank l (platCmd s x1 x2 x3) = blank l s := by
  intro s x1 x2 x3 hf0
  unfold platCmd
  simp (disch := first | assumption | (intros; (first | with_reducible rfl | simp (disch := assumption) only [↓setErr_keeps, ↓withWrite_keeps, ↓blank_regs, ↓blank_msixHeld, ↓blank_emitted, ↓apply_ite (blank l), ↓apply_ite Prod.snd, ite_self, ↓hf0] | (try dsimp only; (repeat' (split)) <;> first | done | with_reducible rfl | simp (disch := assumption) only [↓setErr_keeps, ↓withWrite_keeps, ↓blank_regs, ↓blank_msixHeld, ↓blank_emitted, ↓apply_ite (blank l), ↓apply_ite Prod.snd, ite_self, ↓hf0] | rfl)))) only [↓setErr_keeps, ↓withWrite_keeps, ↓blank_regs, ↓blank_msixHeld, ↓blank_emitted, ↓apply_ite (blank l), ↓apply_ite Prod.snd, ite_self, ↓hf0, ↓foldl_keeps, ↓foldr_keeps, ↓forUpTo_keeps, ↓foldl_snd_keeps]

theorem effPatternCommit_keeps {l : List Comp} (h_regs : Has l .regs) (h_plat : Has l .plat) (h_msixHeld : Has l .msixHeld) (h_emitted : Has l .emitted) :
    ∀ x0 x1 s, blank l (effPatternCommit x0 x1 s) = blank l s := by
  intro x0 x1 s
  unfold effPatternCommit
  simp (disch := first | assumption | (intros; (first | with_reducible rfl | simp (disch := assumption) only [↓wr_keeps, ↓platCmd_keeps, ↓blank_plat, ↓blank_regs, ↓blank_msixHeld, ↓blank_emitted, ↓apply_ite (blank l), ↓apply_ite Prod.snd, ite_self] | (try dsimp only; (repeat' (split)) <;> first | done | with_reducible rfl | simp (disch := assumption) only [↓wr_keeps, ↓platCmd_keeps, ↓blank_plat, ↓blank_regs, ↓blank_msixHeld, ↓blank_emitted, ↓apply_ite (blank l), ↓apply_ite Prod.snd, ite_self] | rfl)))) only [↓wr_keeps, ↓platCmd_keeps, ↓blank_plat, ↓blank_regs, ↓blank_msixHeld, ↓blank_emitted, ↓apply_ite (blank l), ↓apply_ite Prod.snd, ite_self, ↓foldl_keeps, ↓foldr_keeps, ↓forUpTo_keeps, ↓foldl_snd_keeps]

theorem withdrawConsent_keeps {l : List Comp} (h_regs : Has l .regs) (h_hlt : Has l .hlt) :
    ∀ s, blank l (withdrawConsent s) = blank l s := by
  intro s
  unfold withdrawConsent
  simp (disch := assumption) only [↓wr_keeps, ↓blank_hlt, ↓apply_ite (blank l), ite_self]

theorem effCommitValidation_keeps {l : List Comp} (h_regs : Has l .regs) (h_plat : Has l .plat) (h_hlt : Has l .hlt) (h_msixHeld : Has l .msixHeld) (h_emitted : Has l .emitted) :
    ∀ s, blank l (effCommitValidation s) = blank l s := by
  intro s
  unfold effCommitValidation
  dsimp only
  (repeat' (split)) <;> first | with_reducible rfl | simp (disch := assumption) only [↓cmdResult_keeps, ↓withdrawConsent_keeps, ↓blank_plat]

theorem effUncommit_keeps {l : List Comp} (h_regs : Has l .regs) (h_plat : Has l .plat) (h_msixHeld : Has l .msixHeld) (h_emitted : Has l .emitted) :
    ∀ x0 x1 s, blank l (effUncommit x0 x1 s) = blank l s := by
  intro x0 x1 s
  unfold effUncommit
  simp (disch := first | assumption | (intros; (first | with_reducible rfl | simp (disch := assumption) only [↓wr_keeps, ↓cmdResult_keeps, ↓platCmd_keeps, ↓blank_plat, ↓blank_regs, ↓blank_msixHeld, ↓blank_emitted, ↓apply_ite (blank l), ↓apply_ite Prod.snd, ite_self] | (try dsimp only; (repeat' (split)) <;> first | done | with_reducible rfl | simp (disch := assumption) only [↓wr_keeps, ↓cmdResult_keeps, ↓platCmd_keeps, ↓blank_plat, ↓blank_regs, ↓blank_msixHeld, ↓blank_emitted, ↓apply_ite (blank l), ↓apply_ite Prod.snd, ite_self] | rfl)))) only [↓wr_keeps, ↓cmdResult_keeps, ↓platCmd_keeps, ↓blank_plat, ↓blank_regs, ↓blank_msixHeld, ↓blank_emitted, ↓apply_ite (blank l), ↓apply_ite Prod.snd, ite_self, ↓foldl_keeps, ↓foldr_keeps, ↓forUpTo_keeps, ↓foldl_snd_keeps]

theorem effStop_keeps {l : List Comp} (h_regs : Has l .regs) (h_plat : Has l .plat) (h_msixHeld : Has l .msixHeld) (h_emitted : Has l .emitted) :
    ∀ x0 s, blank l (effStop x0 s) = blank l s := by
  intro x0 s
  unfold effStop
  simp (disch := first | assumption | (intros; (first | with_reducible rfl | simp (disch := assumption) only [↓cmdResult_keeps, ↓platCmd_keeps, ↓blank_plat, ↓blank_regs, ↓blank_msixHeld, ↓blank_emitted, ↓apply_ite (blank l), ↓apply_ite Prod.snd, ite_self] | (try dsimp only; (repeat' (split)) <;> first | done | with_reducible rfl | simp (disch := assumption) only [↓cmdResult_keeps, ↓platCmd_keeps, ↓blank_plat, ↓blank_regs, ↓blank_msixHeld, ↓blank_emitted, ↓apply_ite (blank l), ↓apply_ite Prod.snd, ite_self] | rfl)))) only [↓cmdResult_keeps, ↓platCmd_keeps, ↓blank_plat, ↓blank_regs, ↓blank_msixHeld, ↓blank_emitted, ↓apply_ite (blank l), ↓apply_ite Prod.snd, ite_self, ↓foldl_keeps, ↓foldr_keeps, ↓forUpTo_keeps, ↓foldl_snd_keeps]

theorem armTrim_keeps {l : List Comp} (h_regs : Has l .regs) (h_plat : Has l .plat) (h_msixHeld : Has l .msixHeld) (h_emitted : Has l .emitted) :
    ∀ s x1, blank l (armTrim s x1) = blank l s := by
  intro s x1
  unfold armTrim
  simp (disch := assumption) only [↓wr_keeps, ↓setErr_keeps, ↓blank_plat, ↓apply_ite (blank l), ite_self]

theorem effTrimArm_keeps {l : List Comp} (h_regs : Has l .regs) (h_plat : Has l .plat) (h_msixHeld : Has l .msixHeld) (h_emitted : Has l .emitted) :
    ∀ x0 x1 s, blank l (effTrimArm x0 x1 s) = blank l s := by
  intro x0 x1 s
  unfold effTrimArm
  simp (disch := first | assumption | (intros; (first | with_reducible rfl | simp (disch := assumption) only [↓wr_keeps, ↓withWrite_keeps, ↓armTrim_keeps, ↓blank_plat, ↓blank_regs, ↓blank_msixHeld, ↓blank_emitted, ↓apply_ite (blank l), ↓apply_ite Prod.snd, ite_self] | (try dsimp only; (repeat' (split)) <;> first | done | with_reducible rfl | simp (disch := assumption) only [↓wr_keeps, ↓withWrite_keeps, ↓armTrim_keeps, ↓blank_plat, ↓blank_regs, ↓blank_msixHeld, ↓blank_emitted, ↓apply_ite (blank l), ↓apply_ite Prod.snd, ite_self] | rfl)))) only [↓wr_keeps, ↓withWrite_keeps, ↓armTrim_keeps, ↓blank_plat, ↓blank_regs, ↓blank_msixHeld, ↓blank_emitted, ↓apply_ite (blank l), ↓apply_ite Prod.snd, ite_self, ↓foldl_keeps, ↓foldr_keeps, ↓forUpTo_keeps, ↓foldl_snd_keeps]

theorem imageWrite_keeps {l : List Comp} (h_regs : Has l .regs) (h_plat : Has l .plat) (h_msixHeld : Has l .msixHeld) (h_emitted : Has l .emitted) :
    ∀ s x1 x2 x3 x4, blank l (imageWrite s x1 x2 x3 x4) = blank l s := by
  intro s x1 x2 x3 x4
  unfold imageWrite
  simp (disch := assumption) only [↓setErr_keeps, ↓blank_plat, ↓apply_ite (blank l), ite_self]

theorem effPatternImageWrite_keeps {l : List Comp} (h_regs : Has l .regs) (h_plat : Has l .plat) (h_msixHeld : Has l .msixHeld) (h_emitted : Has l .emitted) :
    ∀ x0 x1 x2 x3 s, blank l (effPatternImageWrite x0 x1 x2 x3 s) = blank l s := by
  intro x0 x1 x2 x3 s
  unfold effPatternImageWrite
  (repeat' (split)) <;> first | with_reducible rfl | simp (disch := assumption) only [↓denyAccess_keeps, ↓imageWrite_keeps, ↓apply_ite (blank l), ite_self]

theorem loadStake_keeps {l : List Comp} (h_regs : Has l .regs) :
    ∀ s x1, blank l (loadStake s x1) = blank l s := by
  intro s x1
  unfold loadStake
  simp (disch := assumption) only [↓wr_keeps]

theorem effStakeQuery_keeps {l : List Comp} (h_regs : Has l .regs) (h_msixHeld : Has l .msixHeld) (h_emitted : Has l .emitted) :
    ∀ x0 x1 s, blank l (effStakeQuery x0 x1 s) = blank l s := by
  intro x0 x1 s
  unfold effStakeQuery
  simp (disch := first | assumption | (intros; (first | with_reducible rfl | simp (disch := assumption) only [↓withWrite_keeps, ↓loadStake_keeps, ↓blank_regs, ↓blank_msixHeld, ↓blank_emitted, ↓apply_ite (blank l), ↓apply_ite Prod.snd, ite_self] | (try dsimp only; (repeat' (split)) <;> first | done | with_reducible rfl | simp (disch := assumption) only [↓withWrite_keeps, ↓loadStake_keeps, ↓blank_regs, ↓blank_msixHeld, ↓blank_emitted, ↓apply_ite (blank l), ↓apply_ite Prod.snd, ite_self] | rfl)))) only [↓withWrite_keeps, ↓loadStake_keeps, ↓blank_regs, ↓blank_msixHeld, ↓blank_emitted, ↓apply_ite (blank l), ↓apply_ite Prod.snd, ite_self, ↓foldl_keeps, ↓foldr_keeps, ↓forUpTo_keeps, ↓foldl_snd_keeps]

theorem returnStations_keeps {l : List Comp} (h_stns : Has l .stns) :
    ∀ s x1, blank l (returnStations s x1) = blank l s := by
  intro s x1
  unfold returnStations
  (repeat' (split)) <;> first | with_reducible rfl | simp (disch := first | assumption | (intro t x; first | with_reducible rfl | simp (disch := assumption) only [↓setStn_keeps, ↓resumeStation_keeps] | ((repeat' (split)) <;> first | with_reducible rfl | simp (disch := assumption) only [↓setStn_keeps, ↓resumeStation_keeps] | rfl))) only [↓setStn_keeps, ↓resumeStation_keeps, ↓foldl_keeps, ↓foldr_keeps, ↓forUpTo_keeps, ↓foldl_snd_keeps]

theorem lendStations_keeps {l : List Comp} (h_regs : Has l .regs) (h_stns : Has l .stns) :
    ∀ s x1, blank l (lendStations s x1) = blank l s := by
  intro s x1
  unfold lendStations
  (repeat' (split)) <;> first | with_reducible rfl | simp (disch := first | assumption | (intro t x; first | with_reducible rfl | simp (disch := assumption) only [↓addSat_keeps, ↓setStn_keeps, ↓requestSave_keeps, ↓apply_ite (blank l), ite_self] | ((repeat' (split)) <;> first | with_reducible rfl | simp (disch := assumption) only [↓addSat_keeps, ↓setStn_keeps, ↓requestSave_keeps, ↓apply_ite (blank l), ite_self] | rfl))) only [↓addSat_keeps, ↓setStn_keeps, ↓requestSave_keeps, ↓apply_ite (blank l), ite_self, ↓foldl_keeps, ↓foldr_keeps, ↓forUpTo_keeps, ↓foldl_snd_keeps]

theorem takeBackEngines_keeps {l : List Comp} (h_regs : Has l .regs) (h_movs : Has l .movs) :
    ∀ s, blank l (takeBackEngines s) = blank l s := by
  intro s
  unfold takeBackEngines
  (repeat' (split)) <;> first | with_reducible rfl | simp (disch := first | assumption | (intro t x; first | with_reducible rfl | simp (disch := assumption) only [↓yieldItems_keeps] | ((repeat' (split)) <;> first | with_reducible rfl | simp (disch := assumption) only [↓yieldItems_keeps] | rfl))) only [↓yieldItems_keeps, ↓foldl_keeps, ↓foldr_keeps, ↓forUpTo_keeps, ↓foldl_snd_keeps]

theorem takeHeadroom_keeps {l : List Comp} (h_regs : Has l .regs) (h_plat : Has l .plat) (h_msixHeld : Has l .msixHeld) (h_emitted : Has l .emitted) :
    ∀ s, blank l (takeHeadroom s) = blank l s := by
  intro s
  unfold takeHeadroom
  (repeat' (split)) <;> first | with_reducible rfl | simp (disch := assumption) only [↓wr_keeps, ↓addSat_keeps, ↓setEvt_keeps, ↓blank_plat]

theorem meteredDispatch_keeps {l : List Comp} (h_regs : Has l .regs) (h_plat : Has l .plat) (h_pwr : Has l .pwr) :
    ∀ s, blank l (meteredDispatch s) = blank l s := by
  intro s
  unfold meteredDispatch
  dsimp only
  have key : ∀ (f : Nat × Nat → Int) (r : List (Nat × Nat)) (x : Int × List (Nat × Nat) × State),
      blank l (r.foldl (fun (x : Int × List (Nat × Nat) × State) e =>
        if f e ≤ x.1 then (x.1 - f e, x.2.1 ++ [e], x.2.2)
        else (x.1, x.2.1, addSat x.2.2 (.ptn e.1) F.ptn_METER_HELD 1)) x).2.2 = blank l x.2.2 := by
    intro f r
    induction r with
    | nil => intro x; rfl
    | cons a r ih =>
      intro x
      refine (ih _).trans ?_
      dsimp only
      split
      · rfl
      · exact addSat_keeps h_regs _ _ _ _
  rw [blank_plat_pwr h_plat h_pwr]
  exact key (fun e => ef s (.ptn e.1) F.ptn_METER_STN_UJ) _ _

theorem recordPhase_keeps {l : List Comp} (h_regs : Has l .regs) (h_plat : Has l .plat) (h_msixHeld : Has l .msixHeld) (h_emitted : Has l .emitted) (h_fresh : Has l .fresh) :
    ∀ s, blank l (recordPhase s) = blank l s := by
  intro s
  unfold recordPhase
  simp (disch := assumption) only [↓wr_keeps, ↓setEvt_keeps, ↓nextFresh_keeps, ↓blank_plat, ↓apply_ite (blank l), ite_self]

theorem frameStart_keeps {l : List Comp} (h_regs : Has l .regs) (h_plat : Has l .plat) (h_msixHeld : Has l .msixHeld) (h_emitted : Has l .emitted) (h_fresh : Has l .fresh) :
    ∀ s, blank l (frameStart s) = blank l s := by
  intro s
  unfold frameStart
  simp (disch := assumption) only [↓wr_keeps, ↓setEvt_keeps, ↓recordPhase_keeps, ↓apply_ite (blank l), ite_self]

theorem rowStart_keeps {l : List Comp} (h_regs : Has l .regs) (h_eff : Has l .eff) (h_sealAt : Has l .sealAt) (h_stns : Has l .stns) (h_movs : Has l .movs) (h_plat : Has l .plat) (h_pwr : Has l .pwr) (h_msixHeld : Has l .msixHeld) (h_emitted : Has l .emitted) :
    ∀ s x1, blank l (rowStart s x1) = blank l s := by
  intro s x1
  unfold rowStart
  simp (disch := assumption) only [↓levelBoundary_keeps, ↓applyDue_keeps, ↓returnStations_keeps, ↓lendStations_keeps, ↓takeBackEngines_keeps, ↓takeHeadroom_keeps, ↓meteredDispatch_keeps, ↓blank_plat]

theorem platStart_keeps {l : List Comp} (h_regs : Has l .regs) (h_eff : Has l .eff) (h_sealAt : Has l .sealAt) (h_stns : Has l .stns) (h_movs : Has l .movs) (h_plat : Has l .plat) (h_pwr : Has l .pwr) (h_msixHeld : Has l .msixHeld) (h_emitted : Has l .emitted) (h_fresh : Has l .fresh) :
    ∀ s, blank l (platStart s) = blank l s := by
  intro s
  unfold platStart
  simp (disch := assumption) only [↓wr_keeps, ↓setEvt_keeps, ↓frameStart_keeps, ↓rowStart_keeps, ↓blank_plat, ↓blank_pwr, ↓blank_plat_pwr, ↓apply_ite (blank l), ite_self]

theorem nextRow_keeps {l : List Comp} (h_regs : Has l .regs) (h_eff : Has l .eff) (h_sealAt : Has l .sealAt) (h_stns : Has l .stns) (h_movs : Has l .movs) (h_plat : Has l .plat) (h_pwr : Has l .pwr) (h_msixHeld : Has l .msixHeld) (h_emitted : Has l .emitted) :
    ∀ s, blank l (nextRow s) = blank l s := by
  intro s
  unfold nextRow
  simp (disch := assumption) only [↓rowStart_keeps, ↓blank_plat]

theorem nextFrame_keeps {l : List Comp} (h_regs : Has l .regs) (h_eff : Has l .eff) (h_sealAt : Has l .sealAt) (h_stns : Has l .stns) (h_movs : Has l .movs) (h_plat : Has l .plat) (h_pwr : Has l .pwr) (h_msixHeld : Has l .msixHeld) (h_emitted : Has l .emitted) (h_fresh : Has l .fresh) :
    ∀ s, blank l (nextFrame s) = blank l s := by
  intro s
  unfold nextFrame
  (repeat' (split)) <;> first | with_reducible rfl | simp (disch := assumption) only [↓wr_keeps, ↓levelBoundary_keeps, ↓applyDue_keeps, ↓returnStations_keeps, ↓frameStart_keeps, ↓rowStart_keeps, ↓blank_plat, ↓apply_ite (blank l), ite_self]

theorem effRowBoundary_keeps {l : List Comp} (h_regs : Has l .regs) (h_eff : Has l .eff) (h_sealAt : Has l .sealAt) (h_stns : Has l .stns) (h_movs : Has l .movs) (h_plat : Has l .plat) (h_pwr : Has l .pwr) (h_msixHeld : Has l .msixHeld) (h_emitted : Has l .emitted) (h_fresh : Has l .fresh) :
    ∀ s, blank l (effRowBoundary s) = blank l s := by
  intro s
  unfold effRowBoundary
  simp (disch := assumption) only [↓nextRow_keeps, ↓nextFrame_keeps, ↓apply_ite (blank l), ite_self]

theorem effPlatStopped_keeps {l : List Comp} (h_regs : Has l .regs) (h_eff : Has l .eff) (h_sealAt : Has l .sealAt) (h_stns : Has l .stns) (h_plat : Has l .plat) (h_pwr : Has l .pwr) (h_msixHeld : Has l .msixHeld) (h_emitted : Has l .emitted) :
    ∀ s, blank l (effPlatStopped s) = blank l s := by
  intro s
  unfold effPlatStopped
  simp (disch := assumption) only [↓wr_keeps, ↓setEvt_keeps, ↓applyDue_keeps, ↓returnStations_keeps, ↓blank_plat, ↓blank_pwr, ↓blank_plat_pwr, ↓apply_ite (blank l), ite_self]

theorem startItem_keeps {l : List Comp} (h_regs : Has l .regs) (h_stns : Has l .stns) (h_ptns : Has l .ptns) (h_pool : Has l .pool) (h_plat : Has l .plat) (h_tens : Has l .tens) (h_cdus : Has l .cdus) (h_hostMem : Has l .hostMem) (h_msixHeld : Has l .msixHeld) (h_emitted : Has l .emitted) (h_fresh : Has l .fresh) :
    ∀ s x1 x2, blank l (startItem s x1 x2) = blank l s := by
  intro s x1 x2
  unfold startItem
  simp (disch := assumption) only [↓setStn_keeps, ↓endWork_keeps, ↓engineStart_keeps, ↓cduStart_keeps, ↓rowStart_keeps, ↓apply_ite (blank l), ite_self]

theorem dispatch_keeps {l : List Comp} (h_regs : Has l .regs) (h_stns : Has l .stns) (h_ptns : Has l .ptns) (h_pool : Has l .pool) (h_plat : Has l .plat) (h_tens : Has l .tens) (h_cdus : Has l .cdus) (h_hostMem : Has l .hostMem) (h_msixHeld : Has l .msixHeld) (h_emitted : Has l .emitted) (h_fresh : Has l .fresh) :
    ∀ s x1, blank l (dispatch s x1) = blank l s := by
  intro s x1
  unfold dispatch
  dsimp only
  (repeat' (split <;> (try (rename_i heq; have hh := takeStake_keeps h_plat _ _ _ _ _ heq)))) <;> first | with_reducible rfl | simp (disch := assumption) only [↓slotBegin_keeps, ↓settleGrant_keeps, ↓rowStart_keeps, ↓startItem_keeps, ↓blank_plat, ↓apply_ite (blank l), ite_self, *]

theorem startAgain_keeps {l : List Comp} (h_regs : Has l .regs) (h_stns : Has l .stns) (h_ptns : Has l .ptns) (h_pool : Has l .pool) (h_plat : Has l .plat) (h_tens : Has l .tens) (h_cdus : Has l .cdus) (h_hostMem : Has l .hostMem) (h_msixHeld : Has l .msixHeld) (h_emitted : Has l .emitted) (h_fresh : Has l .fresh) :
    ∀ s x1, blank l (startAgain s x1) = blank l s := by
  intro s x1
  unfold startAgain
  (repeat' (split)) <;> first | with_reducible rfl | simp (disch := first | assumption | (intro t x; first | with_reducible rfl | simp (disch := assumption) only [↓startItem_keeps, ↓apply_ite (blank l), ite_self] | ((repeat' (split)) <;> first | with_reducible rfl | simp (disch := assumption) only [↓startItem_keeps, ↓apply_ite (blank l), ite_self] | rfl))) only [↓startItem_keeps, ↓apply_ite (blank l), ite_self, ↓foldl_keeps, ↓foldr_keeps, ↓forUpTo_keeps, ↓foldl_snd_keeps]

theorem effGrantDispatch_keeps {l : List Comp} (h_regs : Has l .regs) (h_stns : Has l .stns) (h_ptns : Has l .ptns) (h_pool : Has l .pool) (h_plat : Has l .plat) (h_tens : Has l .tens) (h_cdus : Has l .cdus) (h_hostMem : Has l .hostMem) (h_msixHeld : Has l .msixHeld) (h_emitted : Has l .emitted) (h_fresh : Has l .fresh) :
    ∀ x0 s, blank l (effGrantDispatch x0 s) = blank l s := by
  intro x0 s
  unfold effGrantDispatch
  (repeat' (split)) <;> first | with_reducible rfl | simp (disch := assumption) only [↓dispatch_keeps, ↓startAgain_keeps, ↓apply_ite (blank l), ite_self]

theorem overrunItem_keeps {l : List Comp} (h_regs : Has l .regs) (h_stns : Has l .stns) (h_ptns : Has l .ptns) (h_pool : Has l .pool) (h_plat : Has l .plat) (h_tens : Has l .tens) (h_cdus : Has l .cdus) (h_book : Has l .book) (h_hostMem : Has l .hostMem) (h_msixHeld : Has l .msixHeld) (h_emitted : Has l .emitted) (h_fresh : Has l .fresh) :
    ∀ s x1 x2, blank l (overrunItem s x1 x2) = blank l s := by
  intro s x1 x2
  unfold overrunItem
  dsimp only
  (repeat' (split)) <;> first | with_reducible rfl | simp (disch := assumption) only [↓setStn_keeps, ↓endWork_keeps, ↓dropRun_keeps, ↓resumeOwner_keeps, ↓engineFinish_keeps, ↓cduFinish_keeps, ↓apply_ite (blank l), ite_self]

theorem effGrantOverrun_keeps {l : List Comp} (h_regs : Has l .regs) (h_stns : Has l .stns) (h_ptns : Has l .ptns) (h_pool : Has l .pool) (h_plat : Has l .plat) (h_tens : Has l .tens) (h_cdus : Has l .cdus) (h_book : Has l .book) (h_hostMem : Has l .hostMem) (h_msixHeld : Has l .msixHeld) (h_emitted : Has l .emitted) (h_fresh : Has l .fresh) :
    ∀ x0 s, blank l (effGrantOverrun x0 s) = blank l s := by
  intro x0 s
  unfold effGrantOverrun
  (repeat' (split)) <;> first | with_reducible rfl | simp (disch := assumption) only [↓addSat_keeps, ↓setEvt_keeps, ↓bumpHealth_keeps, ↓rowStart_keeps, ↓overrunItem_keeps, ↓apply_ite (blank l), ite_self]

theorem effLentJobStart_keeps {l : List Comp} (h_stns : Has l .stns) :
    ∀ x0 s, blank l (effLentJobStart x0 s) = blank l s := by
  intro x0 s
  unfold effLentJobStart
  (repeat' (split)) <;> first | with_reducible rfl | simp (disch := first | assumption | (intro t x; first | with_reducible rfl | simp (disch := assumption) only [↓setStn_keeps, ↓startRun_keeps, ↓apply_ite (blank l), ite_self] | ((repeat' (split)) <;> first | with_reducible rfl | simp (disch := assumption) only [↓setStn_keeps, ↓startRun_keeps, ↓apply_ite (blank l), ite_self] | rfl))) only [↓setStn_keeps, ↓startRun_keeps, ↓apply_ite (blank l), ite_self, ↓foldl_keeps, ↓foldr_keeps, ↓forUpTo_keeps, ↓foldl_snd_keeps]

end Sys2Proof.Machine
end

