-- ==== Sys2Proof/Laws/KeepResets.lean ====
section
/-! SUPPORT. What each operation of Machine/Resets.lean leaves as it was. -/

set_option linter.unusedSimpArgs false

namespace Sys2Proof.Machine

theorem storeLink_keeps {l : List Comp} (h_regs : Has l .regs) :
    ∀ s x1 x2, blank l (storeLink s x1 x2) = blank l s := by
  intro s x1 x2
  unfold storeLink
  simp (disch := assumption) only [↓wr_keeps]

theorem appendTrain_keeps {l : List Comp} (h_fp : Has l .fp) :
    ∀ s x1 x2 x3, blank l (appendTrain s x1 x2 x3) = blank l s := by
  intro s x1 x2 x3
  unfold appendTrain
  simp (disch := assumption) only [↓fdrAppend_keeps, ↓blank_fp, ↓apply_ite (blank l), ite_self]

theorem buildRecord_keeps {l : List Comp} (h_fp : Has l .fp) :
    ∀ s x1, blank l (buildRecord s x1) = blank l s := by
  intro s x1
  unfold buildRecord
  (repeat' (split)) <;> first | with_reducible rfl | simp (disch := first | assumption | (intro t x; first | with_reducible rfl | simp (disch := assumption) only [↓appendTrain_keeps, ↓blank_fp] | ((repeat' (split)) <;> first | with_reducible rfl | simp (disch := assumption) only [↓appendTrain_keeps, ↓blank_fp] | rfl))) only [↓appendTrain_keeps, ↓blank_fp, ↓foldl_keeps, ↓foldr_keeps, ↓forUpTo_keeps, ↓foldl_snd_keeps]

theorem extendM_keeps {l : List Comp} (h_regs : Has l .regs) :
    ∀ s x1 x2, blank l (extendM s x1 x2) = blank l s := by
  intro s x1 x2
  unfold extendM
  (repeat' (split)) <;> first | with_reducible rfl | simp (disch := first | assumption | (intro t x; first | with_reducible rfl | simp (disch := assumption) only [↓wr_keeps] | ((repeat' (split)) <;> first | with_reducible rfl | simp (disch := assumption) only [↓wr_keeps] | rfl))) only [↓wr_keeps, ↓foldl_keeps, ↓foldr_keeps, ↓forUpTo_keeps, ↓foldl_snd_keeps]

theorem extendAll_keeps {l : List Comp} (h_regs : Has l .regs) :
    ∀ s x1 x2 x3, blank l (extendAll s x1 x2 x3) = blank l s := by
  intro s x1 x2 x3
  unfold extendAll
  (repeat' (split)) <;> first | with_reducible rfl | simp (disch := first | assumption | (intro t x; first | with_reducible rfl | simp (disch := assumption) only [↓extendM_keeps, ↓apply_ite (blank l), ite_self] | ((repeat' (split)) <;> first | with_reducible rfl | simp (disch := assumption) only [↓extendM_keeps, ↓apply_ite (blank l), ite_self] | rfl))) only [↓extendM_keeps, ↓apply_ite (blank l), ite_self, ↓foldl_keeps, ↓foldr_keeps, ↓forUpTo_keeps, ↓foldl_snd_keeps]

theorem coldState_keeps {l : List Comp} (h_stage : Has l .stage) (h_regs : Has l .regs) (h_eff : Has l .eff) (h_cap : Has l .cap) (h_sealAt : Has l .sealAt) (h_fp : Has l .fp) (h_stns : Has l .stns) (h_ptns : Has l .ptns) (h_migs : Has l .migs) (h_locs : Has l .locs) (h_spillNext : Has l .spillNext) (h_spillFreed : Has l .spillFreed) (h_tierHeld : Has l .tierHeld) (h_movs : Has l .movs) (h_xlate : Has l .xlate) (h_pool : Has l .pool) (h_mer : Has l .mer) (h_plat : Has l .plat) (h_tens : Has l .tens) (h_cdus : Has l .cdus) (h_book : Has l .book) (h_fhps : Has l .fhps) (h_fhqs : Has l .fhqs) (h_flows : Has l .flows) (h_flowSeq : Has l .flowSeq) (h_trv : Has l .trv) (h_hlt : Has l .hlt) (h_mon : Has l .mon) (h_pwr : Has l .pwr) (h_bme : Has l .bme) (h_msixOff : Has l .msixOff) (h_msixHeld : Has l .msixHeld) (h_emitted : Has l .emitted) :
    ∀ s x1, blank l (coldState s x1) = blank l s := by
  intro s x1
  unfold coldState
  dsimp only
  rw [setRails_keeps h_emitted, wr_keeps h_regs, wr_keeps h_regs]
  simp only [blank, pick_has h_stage, pick_has h_regs, pick_has h_eff, pick_has h_cap, pick_has h_sealAt, pick_has h_fp, pick_has h_stns, pick_has h_ptns, pick_has h_migs, pick_has h_locs, pick_has h_spillNext, pick_has h_spillFreed, pick_has h_tierHeld, pick_has h_movs, pick_has h_xlate, pick_has h_pool, pick_has h_mer, pick_has h_plat, pick_has h_tens, pick_has h_cdus, pick_has h_book, pick_has h_fhps, pick_has h_fhqs, pick_has h_flows, pick_has h_flowSeq, pick_has h_trv, pick_has h_hlt, pick_has h_mon, pick_has h_pwr, pick_has h_bme, pick_has h_msixOff, pick_has h_msixHeld]

theorem bootChain_keeps {l : List Comp} (h_stage : Has l .stage) (h_regs : Has l .regs) (h_fp : Has l .fp) (h_locs : Has l .locs) (h_mon : Has l .mon) :
    ∀ s x1, blank l (bootChain s x1) = blank l s := by
  intro s x1
  unfold bootChain
  dsimp only
  split
  · simp (disch := assumption) only [↓wr_keeps, ↓buildRecord_keeps, ↓extendM_keeps, ↓extendAll_keeps, ↓blank_fp, ↓blank_mon, ↓blank_stage, ↓blank_regs, ↓blank_locs, ↓blank_stage_locs, ↓blank_stage_mon, ↓apply_ite (blank l), ↓apply_ite Prod.snd, ite_self]
  · rw [blank_locs h_locs, buildRecord_keeps h_fp, extendAll_keeps h_regs, forUpTo_keeps]
    · simp (disch := assumption) only [↓wr_keeps, ↓buildRecord_keeps, ↓extendM_keeps, ↓extendAll_keeps, ↓blank_fp, ↓blank_mon, ↓blank_stage, ↓blank_regs, ↓blank_locs, ↓blank_stage_locs, ↓blank_stage_mon, ↓apply_ite (blank l), ↓apply_ite Prod.snd, ite_self]
    · intro i t
      simp (disch := assumption) only [↓wr_keeps, ↓buildRecord_keeps, ↓extendM_keeps, ↓extendAll_keeps, ↓blank_fp, ↓blank_mon, ↓blank_stage, ↓blank_regs, ↓blank_locs, ↓blank_stage_locs, ↓blank_stage_mon, ↓apply_ite (blank l), ↓apply_ite Prod.snd, ite_self]

theorem effColdDeviceReset_keeps {l : List Comp} (h_stage : Has l .stage) (h_regs : Has l .regs) (h_eff : Has l .eff) (h_cap : Has l .cap) (h_sealAt : Has l .sealAt) (h_fp : Has l .fp) (h_stns : Has l .stns) (h_ptns : Has l .ptns) (h_migs : Has l .migs) (h_locs : Has l .locs) (h_spillNext : Has l .spillNext) (h_spillFreed : Has l .spillFreed) (h_tierHeld : Has l .tierHeld) (h_movs : Has l .movs) (h_xlate : Has l .xlate) (h_pool : Has l .pool) (h_mer : Has l .mer) (h_plat : Has l .plat) (h_tens : Has l .tens) (h_cdus : Has l .cdus) (h_book : Has l .book) (h_fhps : Has l .fhps) (h_fhqs : Has l .fhqs) (h_flows : Has l .flows) (h_flowSeq : Has l .flowSeq) (h_trv : Has l .trv) (h_hlt : Has l .hlt) (h_mon : Has l .mon) (h_pwr : Has l .pwr) (h_bme : Has l .bme) (h_msixOff : Has l .msixOff) (h_msixHeld : Has l .msixHeld) (h_emitted : Has l .emitted) :
    ∀ x0 x1 s, blank l (effColdDeviceReset x0 x1 s) = blank l s := by
  intro x0 x1 s
  unfold effColdDeviceReset
  simp (disch := assumption) only [↓coldState_keeps, ↓bootChain_keeps, ↓blank_pwr, ↓apply_ite (blank l), ite_self]

theorem effPwrokDeassert_keeps {l : List Comp} (h_stage : Has l .stage) (h_regs : Has l .regs) (h_eff : Has l .eff) (h_cap : Has l .cap) (h_sealAt : Has l .sealAt) (h_fp : Has l .fp) (h_stns : Has l .stns) (h_ptns : Has l .ptns) (h_migs : Has l .migs) (h_locs : Has l .locs) (h_spillNext : Has l .spillNext) (h_spillFreed : Has l .spillFreed) (h_tierHeld : Has l .tierHeld) (h_movs : Has l .movs) (h_xlate : Has l .xlate) (h_pool : Has l .pool) (h_mer : Has l .mer) (h_plat : Has l .plat) (h_tens : Has l .tens) (h_cdus : Has l .cdus) (h_book : Has l .book) (h_fhps : Has l .fhps) (h_fhqs : Has l .fhqs) (h_flows : Has l .flows) (h_flowSeq : Has l .flowSeq) (h_trv : Has l .trv) (h_hlt : Has l .hlt) (h_mon : Has l .mon) (h_pwr : Has l .pwr) (h_bme : Has l .bme) (h_msixOff : Has l .msixOff) (h_msixHeld : Has l .msixHeld) (h_emitted : Has l .emitted) :
    ∀ s, blank l (effPwrokDeassert s) = blank l s := by
  intro s
  unfold effPwrokDeassert
  simp (disch := assumption) only [↓emit_keeps, ↓coldState_keeps, ↓blank_pwr]

theorem effPerstDeassert_keeps {l : List Comp} (h_pwr : Has l .pwr) :
    ∀ s, blank l (effPerstDeassert s) = blank l s := by
  intro s
  unfold effPerstDeassert
  simp (disch := assumption) only [↓blank_pwr]

theorem raiseSvn_keeps {l : List Comp} (h_mon : Has l .mon) :
    ∀ s, blank l (raiseSvn s) = blank l s := by
  intro s
  unfold raiseSvn
  simp (disch := assumption) only [↓blank_mon]

theorem firstGrade_keeps {l : List Comp} (h_regs : Has l .regs) (h_hlt : Has l .hlt) :
    ∀ s, blank l (firstGrade s) = blank l s := by
  intro s
  unfold firstGrade
  simp (disch := assumption) only [↓wr_keeps, ↓blank_hlt]

theorem setReady_keeps {l : List Comp} (h_stage : Has l .stage) (h_regs : Has l .regs) (h_msixHeld : Has l .msixHeld) (h_emitted : Has l .emitted) :
    ∀ s, blank l (setReady s) = blank l s := by
  intro s
  unfold setReady
  simp (disch := assumption) only [↓setEvt_keeps, ↓blank_stage]

theorem linkLow_keeps {l : List Comp} (h_stage : Has l .stage) (h_regs : Has l .regs) (h_msixHeld : Has l .msixHeld) (h_emitted : Has l .emitted) :
    ∀ s, blank l (linkLow s) = blank l s := by
  intro s
  unfold linkLow
  simp (disch := assumption) only [↓wr_keeps, ↓emit_keeps, ↓setErr_keeps, ↓blank_stage]

theorem effTrainingComplete_keeps {l : List Comp} (h_stage : Has l .stage) (h_regs : Has l .regs) (h_fp : Has l .fp) (h_hlt : Has l .hlt) (h_mon : Has l .mon) (h_msixHeld : Has l .msixHeld) (h_emitted : Has l .emitted) :
    ∀ x0 x1 x2 x3 s, blank l (effTrainingComplete x0 x1 x2 x3 s) = blank l s := by
  intro x0 x1 x2 x3 s
  unfold effTrainingComplete
  simp (disch := assumption) only [↓wr_keeps, ↓storeLink_keeps, ↓raiseSvn_keeps, ↓firstGrade_keeps, ↓setReady_keeps, ↓linkLow_keeps, ↓blank_fp, ↓apply_ite (blank l), ite_self]

theorem effConfigRequest_keeps {l : List Comp} (h_regs : Has l .regs) (h_emitted : Has l .emitted) :
    ∀ x0 s, blank l (effConfigRequest x0 s) = blank l s := by
  intro x0 s
  unfold effConfigRequest
  (repeat' (split)) <;> first | with_reducible rfl | simp (disch := assumption) only [↓wr_keeps, ↓emit_keeps, ↓apply_ite (blank l), ite_self]

theorem effLinkRetrain_keeps {l : List Comp} (h_regs : Has l .regs) (h_msixHeld : Has l .msixHeld) (h_emitted : Has l .emitted) :
    ∀ x0 x1 s, blank l (effLinkRetrain x0 x1 s) = blank l s := by
  intro x0 x1 s
  unfold effLinkRetrain
  simp (disch := assumption) only [↓setEvt_keeps, ↓storeLink_keeps, ↓apply_ite (blank l), ite_self]

theorem resetGo_keeps {l : List Comp} (h_regs : Has l .regs) :
    ∀ s x1 x2 x3, (∀ y0, blank l (x3 y0) = blank l y0) → blank l (resetGo s x1 x2 x3) = blank l s := by
  intro s x1 x2 x3 hf0
  unfold resetGo
  simp (disch := assumption) only [↓wr_keeps, ↓apply_ite (blank l), ite_self, ↓hf0]

theorem resetRefused_keeps {l : List Comp} (h_regs : Has l .regs) (h_msixHeld : Has l .msixHeld) (h_emitted : Has l .emitted) :
    ∀ s x1, blank l (resetRefused s x1) = blank l s := by
  intro s x1
  unfold resetRefused
  (repeat' (split)) <;> first | with_reducible rfl | simp (disch := first | assumption | (intro t x; first | with_reducible rfl | simp (disch := assumption) only [↓setErr_keeps, ↓resetResult_keeps] | ((repeat' (split)) <;> first | with_reducible rfl | simp (disch := assumption) only [↓setErr_keeps, ↓resetResult_keeps] | rfl))) only [↓setErr_keeps, ↓resetResult_keeps, ↓foldl_keeps, ↓foldr_keeps, ↓forUpTo_keeps, ↓foldl_snd_keeps]

theorem resetStation_keeps {l : List Comp} (h_regs : Has l .regs) (h_eff : Has l .eff) (h_sealAt : Has l .sealAt) (h_fp : Has l .fp) (h_stns : Has l .stns) (h_ptns : Has l .ptns) (h_migs : Has l .migs) (h_locs : Has l .locs) (h_spillFreed : Has l .spillFreed) (h_movs : Has l .movs) (h_pool : Has l .pool) (h_plat : Has l .plat) (h_tens : Has l .tens) (h_cdus : Has l .cdus) (h_book : Has l .book) (h_hostMem : Has l .hostMem) (h_msixHeld : Has l .msixHeld) (h_emitted : Has l .emitted) (h_fresh : Has l .fresh) :
    ∀ s x1, blank l (resetStation s x1) = blank l s := by
  intro s x1
  unfold resetStation
  simp (disch := assumption) only [↓forceQuiesced_keeps, ↓stopStation_keeps, ↓stopWindow_keeps, ↓apply_ite (blank l), ite_self]

theorem resetStations_keeps {l : List Comp} (h_regs : Has l .regs) (h_eff : Has l .eff) (h_sealAt : Has l .sealAt) (h_fp : Has l .fp) (h_stns : Has l .stns) (h_ptns : Has l .ptns) (h_migs : Has l .migs) (h_locs : Has l .locs) (h_spillFreed : Has l .spillFreed) (h_movs : Has l .movs) (h_pool : Has l .pool) (h_mer : Has l .mer) (h_plat : Has l .plat) (h_tens : Has l .tens) (h_cdus : Has l .cdus) (h_book : Has l .book) (h_trv : Has l .trv) (h_hlt : Has l .hlt) (h_mon : Has l .mon) (h_hostMem : Has l .hostMem) (h_msixHeld : Has l .msixHeld) (h_emitted : Has l .emitted) (h_fresh : Has l .fresh) :
    ∀ s x1, blank l (resetStations s x1) = blank l s := by
  intro s x1
  unfold resetStations
  (repeat' (split)) <;> first | with_reducible rfl | simp (disch := first | assumption | (intro t x; first | with_reducible rfl | simp (disch := assumption) only [↓wr_keeps, ↓resetMade_keeps, ↓resetPartition_keeps, ↓resetRefused_keeps, ↓resetStation_keeps, ↓apply_ite (blank l), ite_self] | ((repeat' (split)) <;> first | with_reducible rfl | simp (disch := assumption) only [↓wr_keeps, ↓resetMade_keeps, ↓resetPartition_keeps, ↓resetRefused_keeps, ↓resetStation_keeps, ↓apply_ite (blank l), ite_self] | rfl))) only [↓wr_keeps, ↓resetMade_keeps, ↓resetPartition_keeps, ↓resetRefused_keeps, ↓resetStation_keeps, ↓apply_ite (blank l), ite_self, ↓foldl_keeps, ↓foldr_keeps, ↓forUpTo_keeps, ↓foldl_snd_keeps]

theorem stationReset_keeps {l : List Comp} (h_regs : Has l .regs) (h_eff : Has l .eff) (h_sealAt : Has l .sealAt) (h_fp : Has l .fp) (h_stns : Has l .stns) (h_ptns : Has l .ptns) (h_migs : Has l .migs) (h_locs : Has l .locs) (h_spillFreed : Has l .spillFreed) (h_movs : Has l .movs) (h_pool : Has l .pool) (h_mer : Has l .mer) (h_plat : Has l .plat) (h_tens : Has l .tens) (h_cdus : Has l .cdus) (h_book : Has l .book) (h_trv : Has l .trv) (h_hlt : Has l .hlt) (h_mon : Has l .mon) (h_hostMem : Has l .hostMem) (h_msixHeld : Has l .msixHeld) (h_emitted : Has l .emitted) (h_fresh : Has l .fresh) :
    ∀ s x1, blank l (stationReset s x1) = blank l s := by
  intro s x1
  unfold stationReset
  simp (disch := first | assumption | (intros; (first | with_reducible rfl | simp (disch := assumption) only [↓resetResult_keeps, ↓resetGo_keeps, ↓resetStations_keeps, ↓blank_cdus, ↓blank_hlt, ↓blank_pool, ↓blank_fp, ↓blank_hostMem, ↓blank_plat, ↓blank_pool_fresh, ↓blank_trv, ↓blank_ptns_migs_hlt, ↓blank_mon, ↓blank_eff, ↓blank_regs_eff_sealAt, ↓blank_ptns, ↓blank_regs, ↓blank_tens, ↓blank_locs, ↓blank_msixHeld, ↓blank_migs, ↓blank_sealAt, ↓blank_mer, ↓blank_fresh, ↓blank_movs, ↓blank_stns, ↓blank_spillFreed, ↓blank_book, ↓blank_emitted, ↓apply_ite (blank l), ↓apply_ite Prod.snd, ite_self] | (try dsimp only; (repeat' (split)) <;> first | done | with_reducible rfl | simp (disch := assumption) only [↓resetResult_keeps, ↓resetGo_keeps, ↓resetStations_keeps, ↓blank_cdus, ↓blank_hlt, ↓blank_pool, ↓blank_fp, ↓blank_hostMem, ↓blank_plat, ↓blank_pool_fresh, ↓blank_trv, ↓blank_ptns_migs_hlt, ↓blank_mon, ↓blank_eff, ↓blank_regs_eff_sealAt, ↓blank_ptns, ↓blank_regs, ↓blank_tens, ↓blank_locs, ↓blank_msixHeld, ↓blank_migs, ↓blank_sealAt, ↓blank_mer, ↓blank_fresh, ↓blank_movs, ↓blank_stns, ↓blank_spillFreed, ↓blank_book, ↓blank_emitted, ↓apply_ite (blank l), ↓apply_ite Prod.snd, ite_self] | rfl)))) only [↓resetResult_keeps, ↓resetGo_keeps, ↓resetStations_keeps, ↓blank_cdus, ↓blank_hlt, ↓blank_pool, ↓blank_fp, ↓blank_hostMem, ↓blank_plat, ↓blank_pool_fresh, ↓blank_trv, ↓blank_ptns_migs_hlt, ↓blank_mon, ↓blank_eff, ↓blank_regs_eff_sealAt, ↓blank_ptns, ↓blank_regs, ↓blank_tens, ↓blank_locs, ↓blank_msixHeld, ↓blank_migs, ↓blank_sealAt, ↓blank_mer, ↓blank_fresh, ↓blank_movs, ↓blank_stns, ↓blank_spillFreed, ↓blank_book, ↓blank_emitted, ↓apply_ite (blank l), ↓apply_ite Prod.snd, ite_self, ↓foldl_keeps, ↓foldr_keeps, ↓forUpTo_keeps, ↓foldl_snd_keeps]

theorem effStationReset_keeps {l : List Comp} (h_regs : Has l .regs) (h_eff : Has l .eff) (h_sealAt : Has l .sealAt) (h_fp : Has l .fp) (h_stns : Has l .stns) (h_ptns : Has l .ptns) (h_migs : Has l .migs) (h_locs : Has l .locs) (h_spillFreed : Has l .spillFreed) (h_movs : Has l .movs) (h_pool : Has l .pool) (h_mer : Has l .mer) (h_plat : Has l .plat) (h_tens : Has l .tens) (h_cdus : Has l .cdus) (h_book : Has l .book) (h_trv : Has l .trv) (h_hlt : Has l .hlt) (h_mon : Has l .mon) (h_hostMem : Has l .hostMem) (h_msixHeld : Has l .msixHeld) (h_emitted : Has l .emitted) (h_fresh : Has l .fresh) :
    ∀ x0 s, blank l (effStationReset x0 s) = blank l s := by
  intro x0 s
  unfold effStationReset
  simp (disch := assumption) only [↓stationReset_keeps]

theorem clusterCheck_keeps {l : List Comp} (h_regs : Has l .regs) (h_fp : Has l .fp) (h_stns : Has l .stns) (h_ptns : Has l .ptns) (h_migs : Has l .migs) (h_locs : Has l .locs) (h_spillFreed : Has l .spillFreed) (h_movs : Has l .movs) (h_pool : Has l .pool) (h_plat : Has l .plat) (h_tens : Has l .tens) (h_cdus : Has l .cdus) (h_book : Has l .book) (h_hostMem : Has l .hostMem) (h_msixHeld : Has l .msixHeld) (h_emitted : Has l .emitted) (h_fresh : Has l .fresh) :
    ∀ s x1 x2, blank l (clusterCheck s x1 x2) = blank l s := by
  intro s x1 x2
  unfold clusterCheck
  simp (disch := assumption) only [↓setStn_keeps, ↓condemn_keeps, ↓apply_ite (blank l), ite_self]

theorem clusterReset_keeps {l : List Comp} (h_regs : Has l .regs) (h_eff : Has l .eff) (h_sealAt : Has l .sealAt) (h_fp : Has l .fp) (h_stns : Has l .stns) (h_ptns : Has l .ptns) (h_migs : Has l .migs) (h_locs : Has l .locs) (h_spillFreed : Has l .spillFreed) (h_movs : Has l .movs) (h_pool : Has l .pool) (h_mer : Has l .mer) (h_plat : Has l .plat) (h_tens : Has l .tens) (h_cdus : Has l .cdus) (h_book : Has l .book) (h_trv : Has l .trv) (h_hlt : Has l .hlt) (h_mon : Has l .mon) (h_hostMem : Has l .hostMem) (h_msixHeld : Has l .msixHeld) (h_emitted : Has l .emitted) (h_fresh : Has l .fresh) :
    ∀ s x1 x2, blank l (clusterReset s x1 x2) = blank l s := by
  intro s x1 x2
  unfold clusterReset
  dsimp only
  apply resetGo_keeps <;> first | assumption | skip
  intro t
  split
  · simp (disch := assumption) only [↓forceQuiesced_keeps, ↓resetResult_keeps, ↓resetGo_keeps, ↓resetStations_keeps, ↓clusterCheck_keeps, ↓blank_cdus, ↓blank_hlt, ↓blank_pool, ↓blank_fp, ↓blank_hostMem, ↓blank_plat, ↓blank_pool_fresh, ↓blank_trv, ↓blank_ptns_migs_hlt, ↓blank_mon, ↓blank_eff, ↓blank_regs_eff_sealAt, ↓blank_ptns, ↓blank_regs, ↓blank_tens, ↓blank_locs, ↓blank_msixHeld, ↓blank_migs, ↓blank_sealAt, ↓blank_mer, ↓blank_fresh, ↓blank_movs, ↓blank_stns, ↓blank_spillFreed, ↓blank_book, ↓blank_emitted, ↓apply_ite (blank l), ↓apply_ite Prod.snd, ite_self]
  · split
    · simp (disch := assumption) only [↓forceQuiesced_keeps, ↓resetResult_keeps, ↓resetGo_keeps, ↓resetStations_keeps, ↓clusterCheck_keeps, ↓blank_cdus, ↓blank_hlt, ↓blank_pool, ↓blank_fp, ↓blank_hostMem, ↓blank_plat, ↓blank_pool_fresh, ↓blank_trv, ↓blank_ptns_migs_hlt, ↓blank_mon, ↓blank_eff, ↓blank_regs_eff_sealAt, ↓blank_ptns, ↓blank_regs, ↓blank_tens, ↓blank_locs, ↓blank_msixHeld, ↓blank_migs, ↓blank_sealAt, ↓blank_mer, ↓blank_fresh, ↓blank_movs, ↓blank_stns, ↓blank_spillFreed, ↓blank_book, ↓blank_emitted, ↓apply_ite (blank l), ↓apply_ite Prod.snd, ite_self]
    · split
      · simp (disch := assumption) only [↓forceQuiesced_keeps, ↓resetResult_keeps, ↓resetGo_keeps, ↓resetStations_keeps, ↓clusterCheck_keeps, ↓blank_cdus, ↓blank_hlt, ↓blank_pool, ↓blank_fp, ↓blank_hostMem, ↓blank_plat, ↓blank_pool_fresh, ↓blank_trv, ↓blank_ptns_migs_hlt, ↓blank_mon, ↓blank_eff, ↓blank_regs_eff_sealAt, ↓blank_ptns, ↓blank_regs, ↓blank_tens, ↓blank_locs, ↓blank_msixHeld, ↓blank_migs, ↓blank_sealAt, ↓blank_mer, ↓blank_fresh, ↓blank_movs, ↓blank_stns, ↓blank_spillFreed, ↓blank_book, ↓blank_emitted, ↓apply_ite (blank l), ↓apply_ite Prod.snd, ite_self]
      · rw [foldl_keeps]
        · rw [forUpTo_keeps]
          · simp (disch := assumption) only [↓forceQuiesced_keeps, ↓resetResult_keeps, ↓resetGo_keeps, ↓resetStations_keeps, ↓clusterCheck_keeps, ↓blank_cdus, ↓blank_hlt, ↓blank_pool, ↓blank_fp, ↓blank_hostMem, ↓blank_plat, ↓blank_pool_fresh, ↓blank_trv, ↓blank_ptns_migs_hlt, ↓blank_mon, ↓blank_eff, ↓blank_regs_eff_sealAt, ↓blank_ptns, ↓blank_regs, ↓blank_tens, ↓blank_locs, ↓blank_msixHeld, ↓blank_migs, ↓blank_sealAt, ↓blank_mer, ↓blank_fresh, ↓blank_movs, ↓blank_stns, ↓blank_spillFreed, ↓blank_book, ↓blank_emitted, ↓apply_ite (blank l), ↓apply_ite Prod.snd, ite_self]
          · intro t x
            simp (disch := assumption) only [↓forceQuiesced_keeps, ↓resetResult_keeps, ↓resetGo_keeps, ↓resetStations_keeps, ↓clusterCheck_keeps, ↓blank_cdus, ↓blank_hlt, ↓blank_pool, ↓blank_fp, ↓blank_hostMem, ↓blank_plat, ↓blank_pool_fresh, ↓blank_trv, ↓blank_ptns_migs_hlt, ↓blank_mon, ↓blank_eff, ↓blank_regs_eff_sealAt, ↓blank_ptns, ↓blank_regs, ↓blank_tens, ↓blank_locs, ↓blank_msixHeld, ↓blank_migs, ↓blank_sealAt, ↓blank_mer, ↓blank_fresh, ↓blank_movs, ↓blank_stns, ↓blank_spillFreed, ↓blank_book, ↓blank_emitted, ↓apply_ite (blank l), ↓apply_ite Prod.snd, ite_self]
        · intro t x
          ((repeat' (split)) <;> first | with_reducible rfl | simp (disch := assumption) only [↓forceQuiesced_keeps, ↓resetResult_keeps, ↓resetGo_keeps, ↓resetStations_keeps, ↓clusterCheck_keeps, ↓blank_cdus, ↓blank_hlt, ↓blank_pool, ↓blank_fp, ↓blank_hostMem, ↓blank_plat, ↓blank_pool_fresh, ↓blank_trv, ↓blank_ptns_migs_hlt, ↓blank_mon, ↓blank_eff, ↓blank_regs_eff_sealAt, ↓blank_ptns, ↓blank_regs, ↓blank_tens, ↓blank_locs, ↓blank_msixHeld, ↓blank_migs, ↓blank_sealAt, ↓blank_mer, ↓blank_fresh, ↓blank_movs, ↓blank_stns, ↓blank_spillFreed, ↓blank_book, ↓blank_emitted, ↓apply_ite (blank l), ↓apply_ite Prod.snd, ite_self])

theorem effClusterReset_keeps {l : List Comp} (h_regs : Has l .regs) (h_eff : Has l .eff) (h_sealAt : Has l .sealAt) (h_fp : Has l .fp) (h_stns : Has l .stns) (h_ptns : Has l .ptns) (h_migs : Has l .migs) (h_locs : Has l .locs) (h_spillFreed : Has l .spillFreed) (h_movs : Has l .movs) (h_pool : Has l .pool) (h_mer : Has l .mer) (h_plat : Has l .plat) (h_tens : Has l .tens) (h_cdus : Has l .cdus) (h_book : Has l .book) (h_trv : Has l .trv) (h_hlt : Has l .hlt) (h_mon : Has l .mon) (h_hostMem : Has l .hostMem) (h_msixHeld : Has l .msixHeld) (h_emitted : Has l .emitted) (h_fresh : Has l .fresh) :
    ∀ x0 x1 s, blank l (effClusterReset x0 x1 s) = blank l s := by
  intro x0 x1 s
  unfold effClusterReset
  simp (disch := assumption) only [↓clusterReset_keeps]

theorem partitionReset_keeps {l : List Comp} (h_regs : Has l .regs) (h_eff : Has l .eff) (h_sealAt : Has l .sealAt) (h_fp : Has l .fp) (h_stns : Has l .stns) (h_ptns : Has l .ptns) (h_migs : Has l .migs) (h_locs : Has l .locs) (h_spillFreed : Has l .spillFreed) (h_movs : Has l .movs) (h_pool : Has l .pool) (h_mer : Has l .mer) (h_plat : Has l .plat) (h_tens : Has l .tens) (h_cdus : Has l .cdus) (h_book : Has l .book) (h_trv : Has l .trv) (h_hlt : Has l .hlt) (h_mon : Has l .mon) (h_hostMem : Has l .hostMem) (h_msixHeld : Has l .msixHeld) (h_emitted : Has l .emitted) (h_fresh : Has l .fresh) :
    ∀ s x1, blank l (partitionReset s x1) = blank l s := by
  intro s x1
  unfold partitionReset
  simp (disch := first | assumption | (intros; (first | with_reducible rfl | simp (disch := assumption) only [↓wr_keeps, ↓resetResult_keeps, ↓resetMade_keeps, ↓resetPartition_keeps, ↓resetGo_keeps, ↓resetRefused_keeps, ↓blank_cdus, ↓blank_hlt, ↓blank_pool, ↓blank_fp, ↓blank_hostMem, ↓blank_plat, ↓blank_pool_fresh, ↓blank_trv, ↓blank_ptns_migs_hlt, ↓blank_mon, ↓blank_eff, ↓blank_regs_eff_sealAt, ↓blank_ptns, ↓blank_regs, ↓blank_tens, ↓blank_locs, ↓blank_msixHeld, ↓blank_migs, ↓blank_sealAt, ↓blank_mer, ↓blank_fresh, ↓blank_movs, ↓blank_stns, ↓blank_spillFreed, ↓blank_book, ↓blank_emitted, ↓apply_ite (blank l), ↓apply_ite Prod.snd, ite_self] | (try dsimp only; (repeat' (split)) <;> first | done | with_reducible rfl | simp (disch := assumption) only [↓wr_keeps, ↓resetResult_keeps, ↓resetMade_keeps, ↓resetPartition_keeps, ↓resetGo_keeps, ↓resetRefused_keeps, ↓blank_cdus, ↓blank_hlt, ↓blank_pool, ↓blank_fp, ↓blank_hostMem, ↓blank_plat, ↓blank_pool_fresh, ↓blank_trv, ↓blank_ptns_migs_hlt, ↓blank_mon, ↓blank_eff, ↓blank_regs_eff_sealAt, ↓blank_ptns, ↓blank_regs, ↓blank_tens, ↓blank_locs, ↓blank_msixHeld, ↓blank_migs, ↓blank_sealAt, ↓blank_mer, ↓blank_fresh, ↓blank_movs, ↓blank_stns, ↓blank_spillFreed, ↓blank_book, ↓blank_emitted, ↓apply_ite (blank l), ↓apply_ite Prod.snd, ite_self] | rfl)))) only [↓wr_keeps, ↓resetResult_keeps, ↓resetMade_keeps, ↓resetPartition_keeps, ↓resetGo_keeps, ↓resetRefused_keeps, ↓blank_cdus, ↓blank_hlt, ↓blank_pool, ↓blank_fp, ↓blank_hostMem, ↓blank_plat, ↓blank_pool_fresh, ↓blank_trv, ↓blank_ptns_migs_hlt, ↓blank_mon, ↓blank_eff, ↓blank_regs_eff_sealAt, ↓blank_ptns, ↓blank_regs, ↓blank_tens, ↓blank_locs, ↓blank_msixHeld, ↓blank_migs, ↓blank_sealAt, ↓blank_mer, ↓blank_fresh, ↓blank_movs, ↓blank_stns, ↓blank_spillFreed, ↓blank_book, ↓blank_emitted, ↓apply_ite (blank l), ↓apply_ite Prod.snd, ite_self, ↓foldl_keeps, ↓foldr_keeps, ↓forUpTo_keeps, ↓foldl_snd_keeps]

theorem effPartitionReset_keeps {l : List Comp} (h_regs : Has l .regs) (h_eff : Has l .eff) (h_sealAt : Has l .sealAt) (h_fp : Has l .fp) (h_stns : Has l .stns) (h_ptns : Has l .ptns) (h_migs : Has l .migs) (h_locs : Has l .locs) (h_spillFreed : Has l .spillFreed) (h_movs : Has l .movs) (h_pool : Has l .pool) (h_mer : Has l .mer) (h_plat : Has l .plat) (h_tens : Has l .tens) (h_cdus : Has l .cdus) (h_book : Has l .book) (h_trv : Has l .trv) (h_hlt : Has l .hlt) (h_mon : Has l .mon) (h_hostMem : Has l .hostMem) (h_msixHeld : Has l .msixHeld) (h_emitted : Has l .emitted) (h_fresh : Has l .fresh) :
    ∀ x0 s, blank l (effPartitionReset x0 s) = blank l s := by
  intro x0 s
  unfold effPartitionReset
  simp (disch := assumption) only [↓partitionReset_keeps]

theorem showDiscarded_keeps {l : List Comp} (h_regs : Has l .regs) :
    ∀ s x1, blank l (showDiscarded s x1) = blank l s := by
  intro s x1
  unfold showDiscarded
  simp (disch := assumption) only [↓wr_keeps]

theorem warmMigs_keeps {l : List Comp} (h_regs : Has l .regs) (h_ptns : Has l .ptns) (h_migs : Has l .migs) (h_locs : Has l .locs) (h_spillFreed : Has l .spillFreed) :
    ∀ s, blank l (warmMigs s) = blank l s := by
  intro s
  unfold warmMigs
  (repeat' (split)) <;> first | with_reducible rfl | simp (disch := first | assumption | (intro t x; first | with_reducible rfl | simp (disch := assumption) only [↓freeLoc_keeps, ↓abandonMig_keeps, ↓blank_migs, ↓apply_ite (blank l), ite_self] | ((repeat' (split)) <;> first | with_reducible rfl | simp (disch := assumption) only [↓freeLoc_keeps, ↓abandonMig_keeps, ↓blank_migs, ↓apply_ite (blank l), ite_self] | rfl))) only [↓freeLoc_keeps, ↓abandonMig_keeps, ↓blank_migs, ↓apply_ite (blank l), ite_self, ↓foldl_keeps, ↓foldr_keeps, ↓forUpTo_keeps, ↓foldl_snd_keeps]

theorem blocksReset_keeps {l : List Comp} (h_stns : Has l .stns) (h_tierHeld : Has l .tierHeld) (h_movs : Has l .movs) (h_xlate : Has l .xlate) (h_pool : Has l .pool) (h_mer : Has l .mer) (h_plat : Has l .plat) (h_tens : Has l .tens) (h_cdus : Has l .cdus) (h_book : Has l .book) (h_fhps : Has l .fhps) (h_fhqs : Has l .fhqs) (h_flows : Has l .flows) (h_flowSeq : Has l .flowSeq) (h_trv : Has l .trv) (h_pwr : Has l .pwr) (h_msixHeld : Has l .msixHeld) :
    ∀ s, blank l (blocksReset s) = blank l s := by
  intro s
  unfold blocksReset
  simp (disch := assumption) only [↓blank_flows, ↓blank_cdus, ↓blank_pool, ↓blank_plat, ↓blank_trv, ↓blank_tierHeld, ↓blank_tens, ↓blank_pwr, ↓blank_msixHeld, ↓blank_flowSeq, ↓blank_xlate, ↓blank_mer, ↓blank_stns_tierHeld_movs_xlate_pool_mer_plat_tens_cdus_book_fhps_fhqs_flows_flowSeq_trv_pwr_msixHeld, ↓blank_plat_pwr, ↓blank_movs, ↓blank_stns, ↓blank_fhqs, ↓blank_tierHeld_plat_tens_book_flows_trv, ↓blank_book, ↓blank_fhps]

theorem registersReset_keeps {l : List Comp} (h_regs : Has l .regs) (h_eff : Has l .eff) (h_cap : Has l .cap) (h_sealAt : Has l .sealAt) (h_mer : Has l .mer) :
    ∀ s, blank l (registersReset s) = blank l s := by
  intro s
  unfold registersReset
  dsimp only
  rw [foldl_keeps, foldl_keeps]
  · simp (disch := assumption) only [↓disarmAll_keeps, ↓setJoined_keeps, ↓showDiscarded_keeps, ↓blank_eff, ↓blank_regs_eff_sealAt, ↓blank_regs, ↓blank_sealAt, ↓blank_mer, ↓blank_regs_eff_cap_sealAt, ↓blank_cap, ↓apply_ite (blank l), ↓apply_ite Prod.snd, ite_self]
  · intro t x
    simp (disch := assumption) only [↓disarmAll_keeps, ↓setJoined_keeps, ↓showDiscarded_keeps, ↓blank_eff, ↓blank_regs_eff_sealAt, ↓blank_regs, ↓blank_sealAt, ↓blank_mer, ↓blank_regs_eff_cap_sealAt, ↓blank_cap, ↓apply_ite (blank l), ↓apply_ite Prod.snd, ite_self]
  · intro t x
    refine foldl_keeps _ (fun t x => ?_) _ _
    simp (disch := assumption) only [↓disarmAll_keeps, ↓setJoined_keeps, ↓showDiscarded_keeps, ↓blank_eff, ↓blank_regs_eff_sealAt, ↓blank_regs, ↓blank_sealAt, ↓blank_mer, ↓blank_regs_eff_cap_sealAt, ↓blank_cap, ↓apply_ite (blank l), ↓apply_ite Prod.snd, ite_self]

theorem hotReset_keeps {l : List Comp} (h_regs : Has l .regs) (h_bme : Has l .bme) (h_msixOff : Has l .msixOff) :
    ∀ s, blank l (hotReset s) = blank l s := by
  intro s
  unfold hotReset
  simp (disch := assumption) only [↓wr_keeps, ↓blank_bme_msixOff, ↓blank_bme]

theorem warmNow_keeps {l : List Comp} (h_stage : Has l .stage) (h_regs : Has l .regs) (h_eff : Has l .eff) (h_cap : Has l .cap) (h_sealAt : Has l .sealAt) (h_stns : Has l .stns) (h_ptns : Has l .ptns) (h_migs : Has l .migs) (h_locs : Has l .locs) (h_spillFreed : Has l .spillFreed) (h_tierHeld : Has l .tierHeld) (h_movs : Has l .movs) (h_xlate : Has l .xlate) (h_pool : Has l .pool) (h_mer : Has l .mer) (h_plat : Has l .plat) (h_tens : Has l .tens) (h_cdus : Has l .cdus) (h_book : Has l .book) (h_fhps : Has l .fhps) (h_fhqs : Has l .fhqs) (h_flows : Has l .flows) (h_flowSeq : Has l .flowSeq) (h_trv : Has l .trv) (h_hlt : Has l .hlt) (h_mon : Has l .mon) (h_pwr : Has l .pwr) (h_hostMem : Has l .hostMem) (h_bme : Has l .bme) (h_msixOff : Has l .msixOff) (h_msixHeld : Has l .msixHeld) (h_emitted : Has l .emitted) (h_fresh : Has l .fresh) :
    ∀ s x1, blank l (warmNow s x1) = blank l s := by
  intro s x1
  unfold warmNow
  (repeat' (split)) <;> first | with_reducible rfl | simp (disch := first | assumption | (intro t x; first | with_reducible rfl | simp (disch := assumption) only [↓wr_keeps, ↓bumpHealth_keeps, ↓setLocs_keeps, ↓clearWritten_keeps, ↓fenceNow_keeps, ↓lbIdle_keeps, ↓resetResult_keeps, ↓warmMigs_keeps, ↓blocksReset_keeps, ↓registersReset_keeps, ↓hotReset_keeps, ↓blank_hlt, ↓blank_mon, ↓blank_ptns, ↓blank_stage, ↓blank_stage_hlt_mon, ↓blank_stage_mon, ↓apply_ite (blank l), ite_self] | ((repeat' (split)) <;> first | with_reducible rfl | simp (disch := assumption) only [↓wr_keeps, ↓bumpHealth_keeps, ↓setLocs_keeps, ↓clearWritten_keeps, ↓fenceNow_keeps, ↓lbIdle_keeps, ↓resetResult_keeps, ↓warmMigs_keeps, ↓blocksReset_keeps, ↓registersReset_keeps, ↓hotReset_keeps, ↓blank_hlt, ↓blank_mon, ↓blank_ptns, ↓blank_stage, ↓blank_stage_hlt_mon, ↓blank_stage_mon, ↓apply_ite (blank l), ite_self] | rfl))) only [↓wr_keeps, ↓bumpHealth_keeps, ↓setLocs_keeps, ↓clearWritten_keeps, ↓fenceNow_keeps, ↓lbIdle_keeps, ↓resetResult_keeps, ↓warmMigs_keeps, ↓blocksReset_keeps, ↓registersReset_keeps, ↓hotReset_keeps, ↓blank_hlt, ↓blank_mon, ↓blank_ptns, ↓blank_stage, ↓blank_stage_hlt_mon, ↓blank_stage_mon, ↓apply_ite (blank l), ite_self, ↓foldl_keeps, ↓foldr_keeps, ↓forUpTo_keeps, ↓foldl_snd_keeps]

theorem warmReset_keeps {l : List Comp} (h_stage : Has l .stage) (h_regs : Has l .regs) (h_eff : Has l .eff) (h_cap : Has l .cap) (h_sealAt : Has l .sealAt) (h_stns : Has l .stns) (h_ptns : Has l .ptns) (h_migs : Has l .migs) (h_locs : Has l .locs) (h_spillFreed : Has l .spillFreed) (h_tierHeld : Has l .tierHeld) (h_movs : Has l .movs) (h_xlate : Has l .xlate) (h_pool : Has l .pool) (h_mer : Has l .mer) (h_plat : Has l .plat) (h_tens : Has l .tens) (h_cdus : Has l .cdus) (h_book : Has l .book) (h_fhps : Has l .fhps) (h_fhqs : Has l .fhqs) (h_flows : Has l .flows) (h_flowSeq : Has l .flowSeq) (h_trv : Has l .trv) (h_hlt : Has l .hlt) (h_mon : Has l .mon) (h_pwr : Has l .pwr) (h_hostMem : Has l .hostMem) (h_bme : Has l .bme) (h_msixOff : Has l .msixOff) (h_msixHeld : Has l .msixHeld) (h_emitted : Has l .emitted) (h_fresh : Has l .fresh) :
    ∀ s x1, blank l (warmReset s x1) = blank l s := by
  intro s x1
  unfold warmReset
  (repeat' (split)) <;> first | with_reducible rfl | simp (disch := assumption) only [↓wr_keeps, ↓warmNow_keeps, ↓blank_mon, ↓apply_ite (blank l), ite_self]

theorem effWarmDeviceReset_keeps {l : List Comp} (h_stage : Has l .stage) (h_regs : Has l .regs) (h_eff : Has l .eff) (h_cap : Has l .cap) (h_sealAt : Has l .sealAt) (h_stns : Has l .stns) (h_ptns : Has l .ptns) (h_migs : Has l .migs) (h_locs : Has l .locs) (h_spillFreed : Has l .spillFreed) (h_tierHeld : Has l .tierHeld) (h_movs : Has l .movs) (h_xlate : Has l .xlate) (h_pool : Has l .pool) (h_mer : Has l .mer) (h_plat : Has l .plat) (h_tens : Has l .tens) (h_cdus : Has l .cdus) (h_book : Has l .book) (h_fhps : Has l .fhps) (h_fhqs : Has l .fhqs) (h_flows : Has l .flows) (h_flowSeq : Has l .flowSeq) (h_trv : Has l .trv) (h_hlt : Has l .hlt) (h_mon : Has l .mon) (h_pwr : Has l .pwr) (h_hostMem : Has l .hostMem) (h_bme : Has l .bme) (h_msixOff : Has l .msixOff) (h_msixHeld : Has l .msixHeld) (h_emitted : Has l .emitted) (h_fresh : Has l .fresh) :
    ∀ x0 s, blank l (effWarmDeviceReset x0 s) = blank l s := by
  intro x0 s
  unfold effWarmDeviceReset
  simp (disch := assumption) only [↓wr_keeps, ↓warmReset_keeps, ↓apply_ite (blank l), ite_self]

theorem effMonumentWatchdog_keeps {l : List Comp} (h_stage : Has l .stage) (h_regs : Has l .regs) (h_eff : Has l .eff) (h_cap : Has l .cap) (h_sealAt : Has l .sealAt) (h_stns : Has l .stns) (h_ptns : Has l .ptns) (h_migs : Has l .migs) (h_locs : Has l .locs) (h_spillFreed : Has l .spillFreed) (h_tierHeld : Has l .tierHeld) (h_movs : Has l .movs) (h_xlate : Has l .xlate) (h_pool : Has l .pool) (h_mer : Has l .mer) (h_plat : Has l .plat) (h_tens : Has l .tens) (h_cdus : Has l .cdus) (h_book : Has l .book) (h_fhps : Has l .fhps) (h_fhqs : Has l .fhqs) (h_flows : Has l .flows) (h_flowSeq : Has l .flowSeq) (h_trv : Has l .trv) (h_hlt : Has l .hlt) (h_mon : Has l .mon) (h_pwr : Has l .pwr) (h_hostMem : Has l .hostMem) (h_bme : Has l .bme) (h_msixOff : Has l .msixOff) (h_msixHeld : Has l .msixHeld) (h_emitted : Has l .emitted) (h_fresh : Has l .fresh) :
    ∀ s, blank l (effMonumentWatchdog s) = blank l s := by
  intro s
  unfold effMonumentWatchdog
  simp (disch := assumption) only [↓warmReset_keeps]

theorem condemnDeferred_keeps {l : List Comp} (h_regs : Has l .regs) (h_fp : Has l .fp) (h_stns : Has l .stns) (h_ptns : Has l .ptns) (h_migs : Has l .migs) (h_locs : Has l .locs) (h_spillFreed : Has l .spillFreed) (h_movs : Has l .movs) (h_pool : Has l .pool) (h_plat : Has l .plat) (h_tens : Has l .tens) (h_cdus : Has l .cdus) (h_book : Has l .book) (h_hostMem : Has l .hostMem) (h_msixHeld : Has l .msixHeld) (h_emitted : Has l .emitted) (h_fresh : Has l .fresh) :
    ∀ s, blank l (condemnDeferred s) = blank l s := by
  intro s
  unfold condemnDeferred
  (repeat' (split)) <;> first | with_reducible rfl | simp (disch := first | assumption | (intro t x; first | with_reducible rfl | simp (disch := assumption) only [↓condemn_keeps, ↓blank_fp] | ((repeat' (split)) <;> first | with_reducible rfl | simp (disch := assumption) only [↓condemn_keeps, ↓blank_fp] | rfl))) only [↓condemn_keeps, ↓blank_fp, ↓foldl_keeps, ↓foldr_keeps, ↓forUpTo_keeps, ↓foldl_snd_keeps]

theorem effWarmResetComplete_keeps {l : List Comp} (h_stage : Has l .stage) (h_regs : Has l .regs) (h_fp : Has l .fp) (h_stns : Has l .stns) (h_ptns : Has l .ptns) (h_migs : Has l .migs) (h_locs : Has l .locs) (h_spillFreed : Has l .spillFreed) (h_movs : Has l .movs) (h_pool : Has l .pool) (h_plat : Has l .plat) (h_tens : Has l .tens) (h_cdus : Has l .cdus) (h_book : Has l .book) (h_hlt : Has l .hlt) (h_mon : Has l .mon) (h_hostMem : Has l .hostMem) (h_msixHeld : Has l .msixHeld) (h_emitted : Has l .emitted) (h_fresh : Has l .fresh) :
    ∀ s, blank l (effWarmResetComplete s) = blank l s := by
  intro s
  unfold effWarmResetComplete
  simp (disch := assumption) only [↓wr_keeps, ↓raiseSvn_keeps, ↓firstGrade_keeps, ↓setReady_keeps, ↓linkLow_keeps, ↓condemnDeferred_keeps, ↓apply_ite (blank l), ite_self]

theorem effSequencerWatchdog_keeps {l : List Comp} (h_regs : Has l .regs) (h_fp : Has l .fp) (h_stns : Has l .stns) (h_ptns : Has l .ptns) (h_migs : Has l .migs) (h_locs : Has l .locs) (h_spillFreed : Has l .spillFreed) (h_movs : Has l .movs) (h_pool : Has l .pool) (h_plat : Has l .plat) (h_tens : Has l .tens) (h_cdus : Has l .cdus) (h_book : Has l .book) (h_hostMem : Has l .hostMem) (h_msixHeld : Has l .msixHeld) (h_emitted : Has l .emitted) (h_fresh : Has l .fresh) :
    ∀ x0 s, blank l (effSequencerWatchdog x0 s) = blank l s := by
  intro x0 s
  unfold effSequencerWatchdog
  simp (disch := assumption) only [↓condemn_keeps, ↓apply_ite (blank l), ite_self]

theorem linksAfterLoss_keeps {l : List Comp} (h_regs : Has l .regs) (h_pool : Has l .pool) (h_tens : Has l .tens) (h_fhps : Has l .fhps) (h_trv : Has l .trv) (h_msixHeld : Has l .msixHeld) (h_emitted : Has l .emitted) (h_fresh : Has l .fresh) :
    ∀ s x1, blank l (linksAfterLoss s x1) = blank l s := by
  intro s x1
  unfold linksAfterLoss
  (repeat' (split)) <;> first | with_reducible rfl | simp (disch := first | assumption | (intro t x; first | with_reducible rfl | simp (disch := assumption) only [↓fhLinkDown_keeps, ↓tvLinkDown_keeps, ↓apply_ite (blank l), ite_self] | ((repeat' (split)) <;> first | with_reducible rfl | simp (disch := assumption) only [↓fhLinkDown_keeps, ↓tvLinkDown_keeps, ↓apply_ite (blank l), ite_self] | rfl))) only [↓fhLinkDown_keeps, ↓tvLinkDown_keeps, ↓apply_ite (blank l), ite_self, ↓foldl_keeps, ↓foldr_keeps, ↓forUpTo_keeps, ↓foldl_snd_keeps]

theorem effLockLossTimeout_keeps {l : List Comp} (h_regs : Has l .regs) (h_fp : Has l .fp) (h_stns : Has l .stns) (h_ptns : Has l .ptns) (h_migs : Has l .migs) (h_locs : Has l .locs) (h_spillFreed : Has l .spillFreed) (h_movs : Has l .movs) (h_pool : Has l .pool) (h_plat : Has l .plat) (h_tens : Has l .tens) (h_cdus : Has l .cdus) (h_book : Has l .book) (h_fhps : Has l .fhps) (h_trv : Has l .trv) (h_hostMem : Has l .hostMem) (h_msixHeld : Has l .msixHeld) (h_emitted : Has l .emitted) (h_fresh : Has l .fresh) :
    ∀ x0 s, blank l (effLockLossTimeout x0 s) = blank l s := by
  intro x0 s
  unfold effLockLossTimeout
  simp (disch := assumption) only [↓condemn_keeps, ↓linksAfterLoss_keeps, ↓apply_ite (blank l), ite_self]

theorem effArraySelfCheck_keeps {l : List Comp} (h_regs : Has l .regs) (h_fp : Has l .fp) (h_stns : Has l .stns) (h_ptns : Has l .ptns) (h_migs : Has l .migs) (h_locs : Has l .locs) (h_spillFreed : Has l .spillFreed) (h_movs : Has l .movs) (h_pool : Has l .pool) (h_plat : Has l .plat) (h_tens : Has l .tens) (h_cdus : Has l .cdus) (h_book : Has l .book) (h_hostMem : Has l .hostMem) (h_msixHeld : Has l .msixHeld) (h_emitted : Has l .emitted) (h_fresh : Has l .fresh) :
    ∀ x0 x1 s, blank l (effArraySelfCheck x0 x1 s) = blank l s := by
  intro x0 x1 s
  unfold effArraySelfCheck
  simp (disch := assumption) only [↓setStn_keeps, ↓condemn_keeps, ↓apply_ite (blank l), ite_self]

end Sys2Proof.Machine
end

