-- ==== Sys2Proof/Laws/KeepHealth.lean ====
section
/-! SUPPORT. What each operation of Machine/Health.lean leaves as it was. -/

set_option linter.unusedSimpArgs false

namespace Sys2Proof.Machine

theorem closeKind_keeps {l : List Comp} (h_regs : Has l .regs) (h_hlt : Has l .hlt) :
    ∀ s x1, blank l (closeKind s x1) = blank l s := by
  intro s x1
  unfold closeKind
  simp (disch := assumption) only [↓wr_keeps, ↓blank_hlt]

theorem gradeAtClose_keeps {l : List Comp} (h_regs : Has l .regs) (h_msixHeld : Has l .msixHeld) (h_emitted : Has l .emitted) :
    ∀ x0 s, blank l (gradeAtClose x0 s) = blank l s := by
  intro x0 s
  unfold gradeAtClose
  simp (disch := assumption) only [↓wr_keeps, ↓emit_keeps, ↓setEvt_keeps, ↓apply_ite (blank l), ite_self]

theorem effHealthWindowClose_keeps {l : List Comp} (h_regs : Has l .regs) (h_hlt : Has l .hlt) (h_msixHeld : Has l .msixHeld) (h_emitted : Has l .emitted) :
    ∀ s, blank l (effHealthWindowClose s) = blank l s := by
  intro s
  unfold effHealthWindowClose
  (repeat' (split)) <;> first | with_reducible rfl | simp (disch := first | assumption | (intro t x; first | with_reducible rfl | simp (disch := assumption) only [↓closeKind_keeps, ↓gradeAtClose_keeps, ↓blank_hlt, ↓apply_ite (blank l), ite_self] | ((repeat' (split)) <;> first | with_reducible rfl | simp (disch := assumption) only [↓closeKind_keeps, ↓gradeAtClose_keeps, ↓blank_hlt, ↓apply_ite (blank l), ite_self] | rfl))) only [↓closeKind_keeps, ↓gradeAtClose_keeps, ↓blank_hlt, ↓apply_ite (blank l), ite_self, ↓foldl_keeps, ↓foldr_keeps, ↓forUpTo_keeps, ↓foldl_snd_keeps]

theorem mgmtAnswer_keeps {l : List Comp} (h_emitted : Has l .emitted) :
    ∀ s x1 x2, blank l (mgmtAnswer s x1 x2) = blank l s := by
  intro s x1 x2
  unfold mgmtAnswer
  simp (disch := assumption) only [↓emit_keeps]

theorem fmInstruction_keeps {l : List Comp} (h_regs : Has l .regs) (h_mon : Has l .mon) (h_msixHeld : Has l .msixHeld) (h_emitted : Has l .emitted) :
    ∀ s x1 x2 x3, (∀ y0, blank l (x3 y0) = blank l y0) → blank l (fmInstruction s x1 x2 x3) = blank l s := by
  intro s x1 x2 x3 hf0
  unfold fmInstruction
  simp (disch := assumption) only [↓wr_keeps, ↓addSat_keeps, ↓setEvt_keeps, ↓mgmtAnswer_keeps, ↓blank_mon, ↓apply_ite (blank l), ite_self, ↓hf0]

theorem effDrain_keeps {l : List Comp} (h_regs : Has l .regs) (h_mon : Has l .mon) (h_msixHeld : Has l .msixHeld) (h_emitted : Has l .emitted) :
    ∀ x0 s, blank l (effDrain x0 s) = blank l s := by
  intro x0 s
  unfold effDrain
  simp (disch := first | assumption | (intros; (first | with_reducible rfl | simp (disch := assumption) only [↓wr_keeps, ↓fmInstruction_keeps, ↓blank_mon, ↓blank_regs, ↓blank_msixHeld, ↓blank_emitted, ↓apply_ite (blank l), ↓apply_ite Prod.snd, ite_self] | (try dsimp only; (repeat' (split)) <;> first | done | with_reducible rfl | simp (disch := assumption) only [↓wr_keeps, ↓fmInstruction_keeps, ↓blank_mon, ↓blank_regs, ↓blank_msixHeld, ↓blank_emitted, ↓apply_ite (blank l), ↓apply_ite Prod.snd, ite_self] | rfl)))) only [↓wr_keeps, ↓fmInstruction_keeps, ↓blank_mon, ↓blank_regs, ↓blank_msixHeld, ↓blank_emitted, ↓apply_ite (blank l), ↓apply_ite Prod.snd, ite_self, ↓foldl_keeps, ↓foldr_keeps, ↓forUpTo_keeps, ↓foldl_snd_keeps]

theorem effUndrain_keeps {l : List Comp} (h_regs : Has l .regs) (h_mon : Has l .mon) (h_msixHeld : Has l .msixHeld) (h_emitted : Has l .emitted) :
    ∀ x0 s, blank l (effUndrain x0 s) = blank l s := by
  intro x0 s
  unfold effUndrain
  simp (disch := first | assumption | (intros; (first | with_reducible rfl | simp (disch := assumption) only [↓wr_keeps, ↓fmInstruction_keeps, ↓blank_mon, ↓blank_regs, ↓blank_msixHeld, ↓blank_emitted, ↓apply_ite (blank l), ↓apply_ite Prod.snd, ite_self] | (try dsimp only; (repeat' (split)) <;> first | done | with_reducible rfl | simp (disch := assumption) only [↓wr_keeps, ↓fmInstruction_keeps, ↓blank_mon, ↓blank_regs, ↓blank_msixHeld, ↓blank_emitted, ↓apply_ite (blank l), ↓apply_ite Prod.snd, ite_self] | rfl)))) only [↓wr_keeps, ↓fmInstruction_keeps, ↓blank_mon, ↓blank_regs, ↓blank_msixHeld, ↓blank_emitted, ↓apply_ite (blank l), ↓apply_ite Prod.snd, ite_self, ↓foldl_keeps, ↓foldr_keeps, ↓forUpTo_keeps, ↓foldl_snd_keeps]

theorem expelNow_keeps {l : List Comp} (h_regs : Has l .regs) (h_ptns : Has l .ptns) (h_pool : Has l .pool) (h_mer : Has l .mer) (h_plat : Has l .plat) (h_tens : Has l .tens) (h_trv : Has l .trv) (h_hostMem : Has l .hostMem) (h_msixHeld : Has l .msixHeld) (h_emitted : Has l .emitted) (h_fresh : Has l .fresh) :
    ∀ s, blank l (expelNow s) = blank l s := by
  intro s
  unfold expelNow
  simp (disch := assumption) only [↓wr_keeps, ↓emit_keeps, ↓setEvt_keeps, ↓fenceNow_keeps, ↓blank_plat, ↓apply_ite (blank l), ite_self]

theorem effExpel_keeps {l : List Comp} (h_regs : Has l .regs) (h_ptns : Has l .ptns) (h_pool : Has l .pool) (h_mer : Has l .mer) (h_plat : Has l .plat) (h_tens : Has l .tens) (h_trv : Has l .trv) (h_mon : Has l .mon) (h_hostMem : Has l .hostMem) (h_msixHeld : Has l .msixHeld) (h_emitted : Has l .emitted) (h_fresh : Has l .fresh) :
    ∀ x0 s, blank l (effExpel x0 s) = blank l s := by
  intro x0 s
  unfold effExpel
  simp (disch := first | assumption | (intros; (first | with_reducible rfl | simp (disch := assumption) only [↓fmInstruction_keeps, ↓expelNow_keeps, ↓blank_pool, ↓blank_hostMem, ↓blank_plat, ↓blank_pool_fresh, ↓blank_trv, ↓blank_mon, ↓blank_ptns, ↓blank_regs, ↓blank_tens, ↓blank_msixHeld, ↓blank_mer, ↓blank_fresh, ↓blank_emitted, ↓apply_ite (blank l), ↓apply_ite Prod.snd, ite_self] | (try dsimp only; (repeat' (split)) <;> first | done | with_reducible rfl | simp (disch := assumption) only [↓fmInstruction_keeps, ↓expelNow_keeps, ↓blank_pool, ↓blank_hostMem, ↓blank_plat, ↓blank_pool_fresh, ↓blank_trv, ↓blank_mon, ↓blank_ptns, ↓blank_regs, ↓blank_tens, ↓blank_msixHeld, ↓blank_mer, ↓blank_fresh, ↓blank_emitted, ↓apply_ite (blank l), ↓apply_ite Prod.snd, ite_self] | rfl)))) only [↓fmInstruction_keeps, ↓expelNow_keeps, ↓blank_pool, ↓blank_hostMem, ↓blank_plat, ↓blank_pool_fresh, ↓blank_trv, ↓blank_mon, ↓blank_ptns, ↓blank_regs, ↓blank_tens, ↓blank_msixHeld, ↓blank_mer, ↓blank_fresh, ↓blank_emitted, ↓apply_ite (blank l), ↓apply_ite Prod.snd, ite_self, ↓foldl_keeps, ↓foldr_keeps, ↓forUpTo_keeps, ↓foldl_snd_keeps]

theorem effDrainComplete_keeps {l : List Comp} (h_regs : Has l .regs) (h_msixHeld : Has l .msixHeld) (h_emitted : Has l .emitted) :
    ∀ s, blank l (effDrainComplete s) = blank l s := by
  intro s
  unfold effDrainComplete
  simp (disch := assumption) only [↓wr_keeps, ↓emit_keeps, ↓setEvt_keeps, ↓apply_ite (blank l), ite_self]

theorem setConsent_keeps {l : List Comp} (h_regs : Has l .regs) (h_hlt : Has l .hlt) :
    ∀ s x1, blank l (setConsent s x1) = blank l s := by
  intro s x1
  unfold setConsent
  simp (disch := assumption) only [↓wr_keeps, ↓blank_hlt]

theorem requestConsent_keeps {l : List Comp} (h_regs : Has l .regs) (h_hlt : Has l .hlt) :
    ∀ s, blank l (requestConsent s) = blank l s := by
  intro s
  unfold requestConsent
  simp (disch := assumption) only [↓setConsent_keeps, ↓apply_ite (blank l), ite_self]

theorem effInjReq_keeps {l : List Comp} (h_regs : Has l .regs) (h_hlt : Has l .hlt) (h_msixHeld : Has l .msixHeld) (h_emitted : Has l .emitted) :
    ∀ x0 x1 x2 s, blank l (effInjReq x0 x1 x2 s) = blank l s := by
  intro x0 x1 x2 s
  unfold effInjReq
  simp (disch := first | assumption | (intros; (first | with_reducible rfl | simp (disch := assumption) only [↓wr_keeps, ↓withWrite_keeps, ↓requestConsent_keeps, ↓blank_hlt, ↓blank_regs, ↓blank_msixHeld, ↓blank_emitted, ↓apply_ite (blank l), ↓apply_ite Prod.snd, ite_self] | (try dsimp only; (repeat' (split)) <;> first | done | with_reducible rfl | simp (disch := assumption) only [↓wr_keeps, ↓withWrite_keeps, ↓requestConsent_keeps, ↓blank_hlt, ↓blank_regs, ↓blank_msixHeld, ↓blank_emitted, ↓apply_ite (blank l), ↓apply_ite Prod.snd, ite_self] | rfl)))) only [↓wr_keeps, ↓withWrite_keeps, ↓requestConsent_keeps, ↓blank_hlt, ↓blank_regs, ↓blank_msixHeld, ↓blank_emitted, ↓apply_ite (blank l), ↓apply_ite Prod.snd, ite_self, ↓foldl_keeps, ↓foldr_keeps, ↓forUpTo_keeps, ↓foldl_snd_keeps]

theorem effInjConsentExpiry_keeps {l : List Comp} (h_regs : Has l .regs) (h_hlt : Has l .hlt) :
    ∀ s, blank l (effInjConsentExpiry s) = blank l s := by
  intro s
  unfold effInjConsentExpiry
  (repeat' (split)) <;> first | with_reducible rfl | simp (disch := assumption) only [↓setConsent_keeps, ↓apply_ite (blank l), ite_self]

theorem condemnLanes_keeps {l : List Comp} (h_regs : Has l .regs) (h_fp : Has l .fp) (h_stns : Has l .stns) (h_ptns : Has l .ptns) (h_migs : Has l .migs) (h_locs : Has l .locs) (h_spillFreed : Has l .spillFreed) (h_movs : Has l .movs) (h_pool : Has l .pool) (h_plat : Has l .plat) (h_tens : Has l .tens) (h_cdus : Has l .cdus) (h_book : Has l .book) (h_fhps : Has l .fhps) (h_trv : Has l .trv) (h_hostMem : Has l .hostMem) (h_msixHeld : Has l .msixHeld) (h_emitted : Has l .emitted) (h_fresh : Has l .fresh) :
    ∀ s x1, blank l (condemnLanes s x1) = blank l s := by
  intro s x1
  unfold condemnLanes
  (repeat' (split)) <;> first | with_reducible rfl | simp (disch := first | assumption | (intro t x; first | with_reducible rfl | simp (disch := assumption) only [↓condemn_keeps, ↓linksAfterLoss_keeps] | ((repeat' (split)) <;> first | with_reducible rfl | simp (disch := assumption) only [↓condemn_keeps, ↓linksAfterLoss_keeps] | rfl))) only [↓condemn_keeps, ↓linksAfterLoss_keeps, ↓foldl_keeps, ↓foldr_keeps, ↓forUpTo_keeps, ↓foldl_snd_keeps]

theorem injectFault_keeps {l : List Comp} (h_regs : Has l .regs) (h_fp : Has l .fp) (h_stns : Has l .stns) (h_ptns : Has l .ptns) (h_migs : Has l .migs) (h_locs : Has l .locs) (h_spillFreed : Has l .spillFreed) (h_movs : Has l .movs) (h_pool : Has l .pool) (h_plat : Has l .plat) (h_tens : Has l .tens) (h_cdus : Has l .cdus) (h_book : Has l .book) (h_fhps : Has l .fhps) (h_trv : Has l .trv) (h_hostMem : Has l .hostMem) (h_msixHeld : Has l .msixHeld) (h_emitted : Has l .emitted) (h_fresh : Has l .fresh) :
    ∀ s x1 x2, blank l (injectFault s x1 x2) = blank l s := by
  intro s x1 x2
  unfold injectFault
  dsimp only
  ((repeat' (split)) <;> first | with_reducible rfl | simp (disch := assumption) only [↓wr_keeps, ↓addSat_keeps, ↓setErr_keeps, ↓condemn_keeps, ↓fhLinkDown_keeps, ↓condemnLanes_keeps, ↓blank_cdus, ↓blank_pool, ↓blank_fp, ↓blank_hostMem, ↓blank_plat, ↓blank_pool_fresh, ↓blank_trv, ↓blank_ptns, ↓blank_regs, ↓blank_tens, ↓blank_locs, ↓blank_msixHeld, ↓blank_migs, ↓blank_fresh, ↓blank_movs, ↓blank_stns, ↓blank_spillFreed, ↓blank_book, ↓blank_fhps, ↓blank_emitted, ↓apply_ite (blank l), ↓apply_ite Prod.snd, ite_self])

theorem inject_keeps {l : List Comp} (h_regs : Has l .regs) (h_fp : Has l .fp) (h_stns : Has l .stns) (h_ptns : Has l .ptns) (h_migs : Has l .migs) (h_locs : Has l .locs) (h_spillFreed : Has l .spillFreed) (h_movs : Has l .movs) (h_pool : Has l .pool) (h_plat : Has l .plat) (h_tens : Has l .tens) (h_cdus : Has l .cdus) (h_book : Has l .book) (h_fhps : Has l .fhps) (h_trv : Has l .trv) (h_hostMem : Has l .hostMem) (h_msixHeld : Has l .msixHeld) (h_emitted : Has l .emitted) (h_fresh : Has l .fresh) :
    ∀ s x1 x2 x3, blank l (inject s x1 x2 x3) = blank l s := by
  intro s x1 x2 x3
  unfold inject
  (repeat' (split)) <;> first | with_reducible rfl | simp (disch := assumption) only [↓setErr_keeps, ↓denyAccess_keeps, ↓injectFault_keeps, ↓apply_ite (blank l), ite_self]

theorem effInjectCorrectable_keeps {l : List Comp} (h_regs : Has l .regs) (h_fp : Has l .fp) (h_stns : Has l .stns) (h_ptns : Has l .ptns) (h_migs : Has l .migs) (h_locs : Has l .locs) (h_spillFreed : Has l .spillFreed) (h_movs : Has l .movs) (h_pool : Has l .pool) (h_plat : Has l .plat) (h_tens : Has l .tens) (h_cdus : Has l .cdus) (h_book : Has l .book) (h_fhps : Has l .fhps) (h_trv : Has l .trv) (h_hostMem : Has l .hostMem) (h_msixHeld : Has l .msixHeld) (h_emitted : Has l .emitted) (h_fresh : Has l .fresh) :
    ∀ x0 x1 s, blank l (effInjectCorrectable x0 x1 s) = blank l s := by
  intro x0 x1 s
  unfold effInjectCorrectable
  simp (disch := assumption) only [↓inject_keeps]

theorem effInjectUncorrectable_keeps {l : List Comp} (h_regs : Has l .regs) (h_fp : Has l .fp) (h_stns : Has l .stns) (h_ptns : Has l .ptns) (h_migs : Has l .migs) (h_locs : Has l .locs) (h_spillFreed : Has l .spillFreed) (h_movs : Has l .movs) (h_pool : Has l .pool) (h_plat : Has l .plat) (h_tens : Has l .tens) (h_cdus : Has l .cdus) (h_book : Has l .book) (h_fhps : Has l .fhps) (h_trv : Has l .trv) (h_hostMem : Has l .hostMem) (h_msixHeld : Has l .msixHeld) (h_emitted : Has l .emitted) (h_fresh : Has l .fresh) :
    ∀ x0 x1 s, blank l (effInjectUncorrectable x0 x1 s) = blank l s := by
  intro x0 x1 s
  unfold effInjectUncorrectable
  simp (disch := assumption) only [↓inject_keeps]

theorem effInjectCondemn_keeps {l : List Comp} (h_regs : Has l .regs) (h_fp : Has l .fp) (h_stns : Has l .stns) (h_ptns : Has l .ptns) (h_migs : Has l .migs) (h_locs : Has l .locs) (h_spillFreed : Has l .spillFreed) (h_movs : Has l .movs) (h_pool : Has l .pool) (h_plat : Has l .plat) (h_tens : Has l .tens) (h_cdus : Has l .cdus) (h_book : Has l .book) (h_fhps : Has l .fhps) (h_trv : Has l .trv) (h_hostMem : Has l .hostMem) (h_msixHeld : Has l .msixHeld) (h_emitted : Has l .emitted) (h_fresh : Has l .fresh) :
    ∀ x0 x1 s, blank l (effInjectCondemn x0 x1 s) = blank l s := by
  intro x0 x1 s
  unfold effInjectCondemn
  simp (disch := assumption) only [↓inject_keeps]

theorem effInjectLockLoss_keeps {l : List Comp} (h_regs : Has l .regs) (h_fp : Has l .fp) (h_stns : Has l .stns) (h_ptns : Has l .ptns) (h_migs : Has l .migs) (h_locs : Has l .locs) (h_spillFreed : Has l .spillFreed) (h_movs : Has l .movs) (h_pool : Has l .pool) (h_plat : Has l .plat) (h_tens : Has l .tens) (h_cdus : Has l .cdus) (h_book : Has l .book) (h_fhps : Has l .fhps) (h_trv : Has l .trv) (h_hostMem : Has l .hostMem) (h_msixHeld : Has l .msixHeld) (h_emitted : Has l .emitted) (h_fresh : Has l .fresh) :
    ∀ x0 x1 s, blank l (effInjectLockLoss x0 x1 s) = blank l s := by
  intro x0 x1 s
  unfold effInjectLockLoss
  simp (disch := assumption) only [↓inject_keeps]

end Sys2Proof.Machine
end

