-- ==== Sys2Proof/Laws/KeepTiers.lean ====
section
/-! SUPPORT. What each operation of Machine/Tiers.lean leaves as it was. -/

set_option linter.unusedSimpArgs false

namespace Sys2Proof.Machine

theorem windowRead_keeps {l : List Comp} (h_regs : Has l .regs) (h_fp : Has l .fp) (h_ptns : Has l .ptns) (h_migs : Has l .migs) (h_locs : Has l .locs) (h_tens : Has l .tens) (h_cdus : Has l .cdus) (h_fresh : Has l .fresh) :
    ∀ s x1 x2 x3, blank l (windowRead s x1 x2 x3).2 = blank l s := by
  intro s x1 x2 x3
  unfold windowRead
  (repeat' (split <;> (try (rename_i heq; have hh := congrArg Prod.snd heq; dsimp only at hh; subst hh)))) <;> first | with_reducible rfl | simp (disch := assumption) only [↓readTile_keeps, ↓unitRead_keeps, ↓apply_ite (blank l), ↓apply_ite Prod.snd, ite_self]

theorem windowWrite_keeps {l : List Comp} (h_regs : Has l .regs) (h_fp : Has l .fp) (h_stns : Has l .stns) (h_ptns : Has l .ptns) (h_migs : Has l .migs) (h_locs : Has l .locs) (h_spillFreed : Has l .spillFreed) (h_tens : Has l .tens) (h_cdus : Has l .cdus) (h_hostMem : Has l .hostMem) (h_emitted : Has l .emitted) (h_fresh : Has l .fresh) :
    ∀ s x1 x2 x3, blank l (windowWrite s x1 x2 x3).2 = blank l s := by
  intro s x1 x2 x3
  unfold windowWrite
  (repeat' (split <;> (try (rename_i heq; have hh := congrArg Prod.snd heq; dsimp only at hh; subst hh)))) <;> first | with_reducible rfl | simp (disch := assumption) only [↓writeTile_keeps, ↓writeWindow_keeps, ↓apply_ite (blank l), ↓apply_ite Prod.snd, ite_self]

theorem windowReads_keeps {l : List Comp} (h_regs : Has l .regs) (h_fp : Has l .fp) (h_ptns : Has l .ptns) (h_migs : Has l .migs) (h_locs : Has l .locs) (h_tens : Has l .tens) (h_cdus : Has l .cdus) (h_fresh : Has l .fresh) :
    ∀ x0 x1 x2 x3 s, blank l (windowReads x0 x1 x2 x3 s).2 = blank l s := by
  intro x0 x1 x2 x3 s
  induction x1 generalizing x0 x2 x3 s with
  | zero =>
    unfold windowReads
    (repeat' (split <;> (try (rename_i heq; have hh := congrArg Prod.snd heq; dsimp only at hh; subst hh)))) <;> first | with_reducible rfl | simp (disch := first | assumption | (intro t x; first | with_reducible rfl | simp (disch := assumption) only [↓windowRead_keeps, ↓blank_cdus, ↓blank_fp, ↓blank_ptns, ↓blank_regs, ↓blank_tens, ↓blank_locs, ↓blank_migs, ↓blank_fresh, ↓apply_ite (blank l), ↓apply_ite Prod.snd, ite_self] | ((repeat' (split <;> (try (rename_i heq; have hh := congrArg Prod.snd heq; dsimp only at hh; subst hh)))) <;> first | with_reducible rfl | simp (disch := assumption) only [↓windowRead_keeps, ↓blank_cdus, ↓blank_fp, ↓blank_ptns, ↓blank_regs, ↓blank_tens, ↓blank_locs, ↓blank_migs, ↓blank_fresh, ↓apply_ite (blank l), ↓apply_ite Prod.snd, ite_self] | rfl))) only [↓windowRead_keeps, ↓blank_cdus, ↓blank_fp, ↓blank_ptns, ↓blank_regs, ↓blank_tens, ↓blank_locs, ↓blank_migs, ↓blank_fresh, ↓apply_ite (blank l), ↓apply_ite Prod.snd, ite_self, ↓foldl_keeps, ↓foldr_keeps, ↓forUpTo_keeps, ↓foldl_snd_keeps] | rfl
  | succ n ih =>
    unfold windowReads
    dsimp only
    (repeat' (split <;> (try (rename_i heq; have hh := congrArg Prod.snd heq; dsimp only at hh; subst hh)))) <;> first | with_reducible rfl | simp (disch := first | assumption | (intro t x; first | with_reducible rfl | simp (disch := assumption) only [↓windowRead_keeps, ↓blank_cdus, ↓blank_fp, ↓blank_ptns, ↓blank_regs, ↓blank_tens, ↓blank_locs, ↓blank_migs, ↓blank_fresh, ↓apply_ite (blank l), ↓apply_ite Prod.snd, ite_self, ↓ih] | ((repeat' (split <;> (try (rename_i heq; have hh := congrArg Prod.snd heq; dsimp only at hh; subst hh)))) <;> first | with_reducible rfl | simp (disch := assumption) only [↓windowRead_keeps, ↓blank_cdus, ↓blank_fp, ↓blank_ptns, ↓blank_regs, ↓blank_tens, ↓blank_locs, ↓blank_migs, ↓blank_fresh, ↓apply_ite (blank l), ↓apply_ite Prod.snd, ite_self, ↓ih] | rfl))) only [↓windowRead_keeps, ↓blank_cdus, ↓blank_fp, ↓blank_ptns, ↓blank_regs, ↓blank_tens, ↓blank_locs, ↓blank_migs, ↓blank_fresh, ↓apply_ite (blank l), ↓apply_ite Prod.snd, ite_self, ↓ih, ↓foldl_keeps, ↓foldr_keeps, ↓forUpTo_keeps, ↓foldl_snd_keeps] | rfl

theorem windowWrites_keeps {l : List Comp} (h_regs : Has l .regs) (h_fp : Has l .fp) (h_stns : Has l .stns) (h_ptns : Has l .ptns) (h_migs : Has l .migs) (h_locs : Has l .locs) (h_spillFreed : Has l .spillFreed) (h_tens : Has l .tens) (h_cdus : Has l .cdus) (h_hostMem : Has l .hostMem) (h_emitted : Has l .emitted) (h_fresh : Has l .fresh) :
    ∀ x0 x1 x2 x3 s, blank l (windowWrites x0 x1 x2 x3 s).2.2.2 = blank l s := by
  intro x0 x1 x2 x3 s
  induction x1 generalizing x0 x2 x3 s with
  | zero =>
    unfold windowWrites
    (repeat' (split <;> (try (rename_i heq; have hh := congrArg Prod.snd heq; dsimp only at hh; subst hh)))) <;> first | with_reducible rfl | simp (disch := first | assumption | (intro t x; first | with_reducible rfl | simp (disch := assumption) only [↓windowWrite_keeps, ↓blank_cdus, ↓blank_fp, ↓blank_hostMem, ↓blank_ptns, ↓blank_regs, ↓blank_tens, ↓blank_locs, ↓blank_migs, ↓blank_fresh, ↓blank_stns, ↓blank_spillFreed, ↓blank_emitted, ↓apply_ite (blank l), ↓apply_ite Prod.snd, ite_self] | ((repeat' (split <;> (try (rename_i heq; have hh := congrArg Prod.snd heq; dsimp only at hh; subst hh)))) <;> first | with_reducible rfl | simp (disch := assumption) only [↓windowWrite_keeps, ↓blank_cdus, ↓blank_fp, ↓blank_hostMem, ↓blank_ptns, ↓blank_regs, ↓blank_tens, ↓blank_locs, ↓blank_migs, ↓blank_fresh, ↓blank_stns, ↓blank_spillFreed, ↓blank_emitted, ↓apply_ite (blank l), ↓apply_ite Prod.snd, ite_self] | rfl))) only [↓windowWrite_keeps, ↓blank_cdus, ↓blank_fp, ↓blank_hostMem, ↓blank_ptns, ↓blank_regs, ↓blank_tens, ↓blank_locs, ↓blank_migs, ↓blank_fresh, ↓blank_stns, ↓blank_spillFreed, ↓blank_emitted, ↓apply_ite (blank l), ↓apply_ite Prod.snd, ite_self, ↓foldl_keeps, ↓foldr_keeps, ↓forUpTo_keeps, ↓foldl_snd_keeps] | rfl
  | succ n ih =>
    unfold windowWrites
    dsimp only
    (repeat' (split <;> (try (rename_i heq; have hh := congrArg Prod.snd heq; dsimp only at hh; subst hh)))) <;> first | with_reducible rfl | simp (disch := first | assumption | (intro t x; first | with_reducible rfl | simp (disch := assumption) only [↓windowWrite_keeps, ↓blank_cdus, ↓blank_fp, ↓blank_hostMem, ↓blank_ptns, ↓blank_regs, ↓blank_tens, ↓blank_locs, ↓blank_migs, ↓blank_fresh, ↓blank_stns, ↓blank_spillFreed, ↓blank_emitted, ↓apply_ite (blank l), ↓apply_ite Prod.snd, ite_self, ↓ih] | ((repeat' (split <;> (try (rename_i heq; have hh := congrArg Prod.snd heq; dsimp only at hh; subst hh)))) <;> first | with_reducible rfl | simp (disch := assumption) only [↓windowWrite_keeps, ↓blank_cdus, ↓blank_fp, ↓blank_hostMem, ↓blank_ptns, ↓blank_regs, ↓blank_tens, ↓blank_locs, ↓blank_migs, ↓blank_fresh, ↓blank_stns, ↓blank_spillFreed, ↓blank_emitted, ↓apply_ite (blank l), ↓apply_ite Prod.snd, ite_self, ↓ih] | rfl))) only [↓windowWrite_keeps, ↓blank_cdus, ↓blank_fp, ↓blank_hostMem, ↓blank_ptns, ↓blank_regs, ↓blank_tens, ↓blank_locs, ↓blank_migs, ↓blank_fresh, ↓blank_stns, ↓blank_spillFreed, ↓blank_emitted, ↓apply_ite (blank l), ↓apply_ite Prod.snd, ite_self, ↓ih, ↓foldl_keeps, ↓foldr_keeps, ↓forUpTo_keeps, ↓foldl_snd_keeps] | rfl

theorem windowTry_keeps {l : List Comp} (h_regs : Has l .regs) (h_fp : Has l .fp) (h_stns : Has l .stns) (h_ptns : Has l .ptns) (h_migs : Has l .migs) (h_locs : Has l .locs) (h_spillFreed : Has l .spillFreed) (h_tens : Has l .tens) (h_cdus : Has l .cdus) (h_hostMem : Has l .hostMem) (h_emitted : Has l .emitted) (h_fresh : Has l .fresh) :
    ∀ s x1 x2 x3, blank l (windowTry s x1 x2 x3).2 = blank l s := by
  intro s x1 x2 x3
  unfold windowTry
  (repeat' (split <;> (try (rename_i heq; have hh := congrArg (fun r => r.2.2.2) heq; dsimp only at hh; subst hh)) <;> (try (rename_i heq; have hh := congrArg Prod.snd heq; dsimp only at hh; subst hh)))) <;> first | with_reducible rfl | simp (disch := assumption) only [↓emit_keeps, ↓ueHit_keeps, ↓windowReads_keeps, ↓windowWrites_keeps]

theorem windowAccess_keeps {l : List Comp} (h_regs : Has l .regs) (h_fp : Has l .fp) (h_stns : Has l .stns) (h_ptns : Has l .ptns) (h_migs : Has l .migs) (h_locs : Has l .locs) (h_spillFreed : Has l .spillFreed) (h_tierHeld : Has l .tierHeld) (h_tens : Has l .tens) (h_cdus : Has l .cdus) (h_hostMem : Has l .hostMem) (h_emitted : Has l .emitted) (h_fresh : Has l .fresh) :
    ∀ s x1 x2 x3, blank l (windowAccess s x1 x2 x3) = blank l s := by
  intro s x1 x2 x3
  unfold windowAccess
  (repeat' (split <;> (try (rename_i heq; have hh := congrArg Prod.snd heq; dsimp only at hh; subst hh)))) <;> first | with_reducible rfl | simp (disch := assumption) only [↓windowTry_keeps, ↓blank_tierHeld, ↓apply_ite (blank l), ite_self]

theorem serveHeld_keeps {l : List Comp} (h_regs : Has l .regs) (h_fp : Has l .fp) (h_stns : Has l .stns) (h_ptns : Has l .ptns) (h_migs : Has l .migs) (h_locs : Has l .locs) (h_spillFreed : Has l .spillFreed) (h_tierHeld : Has l .tierHeld) (h_tens : Has l .tens) (h_cdus : Has l .cdus) (h_hostMem : Has l .hostMem) (h_emitted : Has l .emitted) (h_fresh : Has l .fresh) :
    ∀ s, blank l (serveHeld s) = blank l s := by
  intro s
  unfold serveHeld
  (repeat' (split)) <;> first | with_reducible rfl | simp (disch := first | assumption | (intro t x; first | with_reducible rfl | simp (disch := assumption) only [↓windowAccess_keeps, ↓blank_tierHeld] | ((repeat' (split)) <;> first | with_reducible rfl | simp (disch := assumption) only [↓windowAccess_keeps, ↓blank_tierHeld] | rfl))) only [↓windowAccess_keeps, ↓blank_tierHeld, ↓foldl_keeps, ↓foldr_keeps, ↓forUpTo_keeps, ↓foldl_snd_keeps]

theorem windowDenied_keeps {l : List Comp} (h_emitted : Has l .emitted) :
    ∀ s x1, blank l (windowDenied s x1) = blank l s := by
  intro s x1
  unfold windowDenied
  (repeat' (split)) <;> first | with_reducible rfl | simp (disch := assumption) only [↓emit_keeps]

theorem effBar2Access_keeps {l : List Comp} (h_regs : Has l .regs) (h_fp : Has l .fp) (h_stns : Has l .stns) (h_ptns : Has l .ptns) (h_migs : Has l .migs) (h_locs : Has l .locs) (h_spillFreed : Has l .spillFreed) (h_tierHeld : Has l .tierHeld) (h_tens : Has l .tens) (h_cdus : Has l .cdus) (h_hostMem : Has l .hostMem) (h_emitted : Has l .emitted) (h_fresh : Has l .fresh) :
    ∀ x0 x1 x2 s, blank l (effBar2Access x0 x1 x2 s) = blank l s := by
  intro x0 x1 x2 s
  unfold effBar2Access
  (repeat' (split)) <;> first | with_reducible rfl | simp (disch := assumption) only [↓windowAccess_keeps, ↓windowDenied_keeps, ↓apply_ite (blank l), ite_self]

theorem effManagerWindowAccess_keeps {l : List Comp} (h_regs : Has l .regs) (h_fp : Has l .fp) (h_stns : Has l .stns) (h_ptns : Has l .ptns) (h_migs : Has l .migs) (h_locs : Has l .locs) (h_spillFreed : Has l .spillFreed) (h_tierHeld : Has l .tierHeld) (h_tens : Has l .tens) (h_cdus : Has l .cdus) (h_hostMem : Has l .hostMem) (h_msixHeld : Has l .msixHeld) (h_emitted : Has l .emitted) (h_fresh : Has l .fresh) :
    ∀ x0 x1 s, blank l (effManagerWindowAccess x0 x1 s) = blank l s := by
  intro x0 x1 s
  unfold effManagerWindowAccess
  simp (disch := assumption) only [↓setErr_keeps, ↓windowAccess_keeps, ↓windowDenied_keeps, ↓apply_ite (blank l), ite_self]

theorem effAgeBoundary_keeps {l : List Comp} (h_ptns : Has l .ptns) :
    ∀ s, blank l (effAgeBoundary s) = blank l s := by
  intro s
  unfold effAgeBoundary
  simp (disch := assumption) only [↓blank_ptns, ↓apply_ite (blank l), ite_self]

theorem moveBytes_keeps {l : List Comp} (h_ptns : Has l .ptns) (h_hostMem : Has l .hostMem) (h_emitted : Has l .emitted) :
    ∀ s x1 x2 x3 x4, blank l (moveBytes s x1 x2 x3 x4) = blank l s := by
  intro s x1 x2 x3 x4
  unfold moveBytes
  simp (disch := assumption) only [↓spillStore_keeps, ↓putBytes_keeps, ↓apply_ite (blank l), ite_self]

theorem commitMig_keeps {l : List Comp} (h_regs : Has l .regs) (h_ptns : Has l .ptns) (h_migs : Has l .migs) (h_locs : Has l .locs) (h_spillFreed : Has l .spillFreed) (h_hostMem : Has l .hostMem) (h_emitted : Has l .emitted) :
    ∀ s x1 x2 x3 x4 x5, blank l (commitMig s x1 x2 x3 x4 x5) = blank l s := by
  intro s x1 x2 x3 x4 x5
  unfold commitMig
  (repeat' (split)) <;> first | with_reducible rfl | simp (disch := assumption) only [↓addSat_keeps, ↓setTile_keeps, ↓releaseSwap_keeps, ↓serveMigs_keeps, ↓pinFollow_keeps, ↓moveBytes_keeps, ↓blank_migs, ↓apply_ite (blank l), ite_self]

theorem stickTile_keeps {l : List Comp} (h_regs : Has l .regs) (h_ptns : Has l .ptns) (h_migs : Has l .migs) (h_locs : Has l .locs) (h_spillFreed : Has l .spillFreed) :
    ∀ s x1 x2 x3, blank l (stickTile s x1 x2 x3) = blank l s := by
  intro s x1 x2 x3
  unfold stickTile
  simp (disch := assumption) only [↓setTile_keeps, ↓endMig_keeps, ↓serveMigs_keeps]

theorem effMigrationCommit_keeps {l : List Comp} (h_regs : Has l .regs) (h_fp : Has l .fp) (h_ptns : Has l .ptns) (h_migs : Has l .migs) (h_locs : Has l .locs) (h_spillFreed : Has l .spillFreed) (h_hostMem : Has l .hostMem) (h_emitted : Has l .emitted) (h_fresh : Has l .fresh) :
    ∀ x0 x1 s, blank l (effMigrationCommit x0 x1 s) = blank l s := by
  intro x0 x1 s
  unfold effMigrationCommit
  (repeat' (split <;> (try (rename_i heq; have hh := congrArg Prod.snd heq; dsimp only at hh; subst hh)))) <;> first | with_reducible rfl | simp (disch := assumption) only [↓setTile_keeps, ↓countCe_keeps, ↓softTier_keeps, ↓tierFault_keeps, ↓ueHit_keeps, ↓commitMig_keeps, ↓stickTile_keeps, ↓blank_migs, ↓apply_ite (blank l), ite_self]

theorem effMigrationSourceFreed_keeps {l : List Comp} (h_ptns : Has l .ptns) (h_migs : Has l .migs) (h_locs : Has l .locs) (h_spillFreed : Has l .spillFreed) :
    ∀ x0 x1 s, blank l (effMigrationSourceFreed x0 x1 s) = blank l s := by
  intro x0 x1 s
  unfold effMigrationSourceFreed
  (repeat' (split)) <;> first | with_reducible rfl | simp (disch := assumption) only [↓freeLoc_keeps, ↓quotaFollow_keeps, ↓blank_migs]

theorem zeroSlot_keeps {l : List Comp} (h_spillNext : Has l .spillNext) (h_spillFreed : Has l .spillFreed) (h_hostMem : Has l .hostMem) :
    ∀ s, blank l (zeroSlot s) = blank l s := by
  intro s
  unfold zeroSlot
  (repeat' (split)) <;> first | with_reducible rfl | simp (disch := assumption) only [↓blank_hostMem, ↓blank_spillNext_spillFreed, ↓blank_spillNext, ↓blank_spillFreed]

theorem wipeLoc_keeps {l : List Comp} (h_ptns : Has l .ptns) :
    ∀ s x1 x2, blank l (wipeLoc s x1 x2) = blank l s := by
  intro s x1 x2
  unfold wipeLoc
  simp (disch := assumption) only [↓wipeAll_keeps, ↓apply_ite (blank l), ite_self]

theorem effLocationZeroed_keeps {l : List Comp} (h_regs : Has l .regs) (h_fp : Has l .fp) (h_stns : Has l .stns) (h_ptns : Has l .ptns) (h_migs : Has l .migs) (h_locs : Has l .locs) (h_spillNext : Has l .spillNext) (h_spillFreed : Has l .spillFreed) (h_tierHeld : Has l .tierHeld) (h_pool : Has l .pool) (h_plat : Has l .plat) (h_tens : Has l .tens) (h_cdus : Has l .cdus) (h_trv : Has l .trv) (h_hostMem : Has l .hostMem) (h_msixHeld : Has l .msixHeld) (h_emitted : Has l .emitted) (h_fresh : Has l .fresh) :
    ∀ x0 x1 s, blank l (effLocationZeroed x0 x1 s) = blank l s := by
  intro x0 x1 s
  unfold effLocationZeroed
  (repeat' (split)) <;> first | with_reducible rfl | simp (disch := first | assumption | (intro t x; first | with_reducible rfl | simp (disch := assumption) only [↓setLocs_keeps, ↓serveMigs_keeps, ↓quotaFollow_keeps, ↓serveTraverse_keeps, ↓serveHeld_keeps, ↓zeroSlot_keeps, ↓wipeLoc_keeps, ↓apply_ite (blank l), ite_self] | ((repeat' (split)) <;> first | with_reducible rfl | simp (disch := assumption) only [↓setLocs_keeps, ↓serveMigs_keeps, ↓quotaFollow_keeps, ↓serveTraverse_keeps, ↓serveHeld_keeps, ↓zeroSlot_keeps, ↓wipeLoc_keeps, ↓apply_ite (blank l), ite_self] | rfl))) only [↓setLocs_keeps, ↓serveMigs_keeps, ↓quotaFollow_keeps, ↓serveTraverse_keeps, ↓serveHeld_keeps, ↓zeroSlot_keeps, ↓wipeLoc_keeps, ↓apply_ite (blank l), ite_self, ↓foldl_keeps, ↓foldr_keeps, ↓forUpTo_keeps, ↓foldl_snd_keeps]

theorem effPinComplete_keeps {l : List Comp} (h_regs : Has l .regs) :
    ∀ x0 x1 s, blank l (effPinComplete x0 x1 s) = blank l s := by
  intro x0 x1 s
  unfold effPinComplete
  simp (disch := assumption) only [↓setPinned_keeps, ↓setPinning_keeps, ↓apply_ite (blank l), ite_self]

theorem freeRange_keeps {l : List Comp} (h_regs : Has l .regs) (h_ptns : Has l .ptns) (h_migs : Has l .migs) (h_locs : Has l .locs) (h_spillFreed : Has l .spillFreed) :
    ∀ s x1, blank l (freeRange s x1) = blank l s := by
  intro s x1
  unfold freeRange
  (repeat' (split)) <;> first | with_reducible rfl | simp (disch := first | assumption | (intro t x; first | with_reducible rfl | simp (disch := assumption) only [↓wr_keeps, ↓freeTile_keeps, ↓apply_ite (blank l), ite_self] | ((repeat' (split)) <;> first | with_reducible rfl | simp (disch := assumption) only [↓wr_keeps, ↓freeTile_keeps, ↓apply_ite (blank l), ite_self] | rfl))) only [↓wr_keeps, ↓freeTile_keeps, ↓apply_ite (blank l), ite_self, ↓foldl_keeps, ↓foldr_keeps, ↓forUpTo_keeps, ↓foldl_snd_keeps]

theorem effFreeGo_keeps {l : List Comp} (h_regs : Has l .regs) (h_ptns : Has l .ptns) (h_migs : Has l .migs) (h_locs : Has l .locs) (h_spillFreed : Has l .spillFreed) (h_msixHeld : Has l .msixHeld) (h_emitted : Has l .emitted) :
    ∀ x0 x1 s, blank l (effFreeGo x0 x1 s) = blank l s := by
  intro x0 x1 s
  unfold effFreeGo
  simp (disch := first | assumption | (intros; (first | with_reducible rfl | simp (disch := assumption) only [↓withWrite_keeps, ↓freeRange_keeps, ↓blank_ptns, ↓blank_regs, ↓blank_locs, ↓blank_msixHeld, ↓blank_migs, ↓blank_spillFreed, ↓blank_emitted, ↓apply_ite (blank l), ↓apply_ite Prod.snd, ite_self] | (try dsimp only; (repeat' (split)) <;> first | done | with_reducible rfl | simp (disch := assumption) only [↓withWrite_keeps, ↓freeRange_keeps, ↓blank_ptns, ↓blank_regs, ↓blank_locs, ↓blank_msixHeld, ↓blank_migs, ↓blank_spillFreed, ↓blank_emitted, ↓apply_ite (blank l), ↓apply_ite Prod.snd, ite_self] | rfl)))) only [↓withWrite_keeps, ↓freeRange_keeps, ↓blank_ptns, ↓blank_regs, ↓blank_locs, ↓blank_msixHeld, ↓blank_migs, ↓blank_spillFreed, ↓blank_emitted, ↓apply_ite (blank l), ↓apply_ite Prod.snd, ite_self, ↓foldl_keeps, ↓foldr_keeps, ↓forUpTo_keeps, ↓foldl_snd_keeps]

theorem loadTileInfo_keeps {l : List Comp} (h_regs : Has l .regs) :
    ∀ s x1 x2, blank l (loadTileInfo s x1 x2) = blank l s := by
  intro s x1 x2
  unfold loadTileInfo
  simp (disch := assumption) only [↓wr_keeps]

theorem effTileQuery_keeps {l : List Comp} (h_regs : Has l .regs) (h_msixHeld : Has l .msixHeld) (h_emitted : Has l .emitted) :
    ∀ x0 x1 x2 s, blank l (effTileQuery x0 x1 x2 s) = blank l s := by
  intro x0 x1 x2 s
  unfold effTileQuery
  simp (disch := first | assumption | (intros; (first | with_reducible rfl | simp (disch := assumption) only [↓withWrite_keeps, ↓loadTileInfo_keeps, ↓blank_regs, ↓blank_msixHeld, ↓blank_emitted, ↓apply_ite (blank l), ↓apply_ite Prod.snd, ite_self] | (try dsimp only; (repeat' (split)) <;> first | done | with_reducible rfl | simp (disch := assumption) only [↓withWrite_keeps, ↓loadTileInfo_keeps, ↓blank_regs, ↓blank_msixHeld, ↓blank_emitted, ↓apply_ite (blank l), ↓apply_ite Prod.snd, ite_self] | rfl)))) only [↓withWrite_keeps, ↓loadTileInfo_keeps, ↓blank_regs, ↓blank_msixHeld, ↓blank_emitted, ↓apply_ite (blank l), ↓apply_ite Prod.snd, ite_self, ↓foldl_keeps, ↓foldr_keeps, ↓forUpTo_keeps, ↓foldl_snd_keeps]

theorem effTirTileQuery_keeps {l : List Comp} (h_regs : Has l .regs) (h_msixHeld : Has l .msixHeld) (h_emitted : Has l .emitted) :
    ∀ x0 s, blank l (effTirTileQuery x0 s) = blank l s := by
  intro x0 s
  unfold effTirTileQuery
  simp (disch := first | assumption | (intros; (first | with_reducible rfl | simp (disch := assumption) only [↓wr_keeps, ↓withWrite_keeps, ↓blank_regs, ↓blank_msixHeld, ↓blank_emitted, ↓apply_ite (blank l), ↓apply_ite Prod.snd, ite_self] | (try dsimp only; (repeat' (split)) <;> first | done | with_reducible rfl | simp (disch := assumption) only [↓wr_keeps, ↓withWrite_keeps, ↓blank_regs, ↓blank_msixHeld, ↓blank_emitted, ↓apply_ite (blank l), ↓apply_ite Prod.snd, ite_self] | rfl)))) only [↓wr_keeps, ↓withWrite_keeps, ↓blank_regs, ↓blank_msixHeld, ↓blank_emitted, ↓apply_ite (blank l), ↓apply_ite Prod.snd, ite_self, ↓foldl_keeps, ↓foldr_keeps, ↓forUpTo_keeps, ↓foldl_snd_keeps]

theorem scrubSoft_keeps {l : List Comp} (h_regs : Has l .regs) (h_ptns : Has l .ptns) :
    ∀ s x1 x2 x3, blank l (scrubSoft s x1 x2 x3) = blank l s := by
  intro s x1 x2 x3
  unfold scrubSoft
  (repeat' (split)) <;> first | with_reducible rfl | simp (disch := first | assumption | (intro t x; first | with_reducible rfl | simp (disch := assumption) only [↓countCe_keeps, ↓blank_ptns] | ((repeat' (split)) <;> first | with_reducible rfl | simp (disch := assumption) only [↓countCe_keeps, ↓blank_ptns] | rfl))) only [↓countCe_keeps, ↓blank_ptns, ↓foldl_keeps, ↓foldr_keeps, ↓forUpTo_keeps, ↓foldl_snd_keeps]

theorem effPatrolScrub_keeps {l : List Comp} (h_regs : Has l .regs) (h_fp : Has l .fp) (h_ptns : Has l .ptns) (h_tens : Has l .tens) (h_cdus : Has l .cdus) :
    ∀ x0 s, blank l (effPatrolScrub x0 s) = blank l s := by
  intro x0 s
  unfold effPatrolScrub
  (repeat' (split <;> (try (rename_i heq; have hh := congrArg Prod.snd heq; dsimp only at hh; subst hh)))) <;> first | with_reducible rfl | simp (disch := first | assumption | (intro t x; first | with_reducible rfl | simp (disch := assumption) only [↓ueError_keeps, ↓unitRead_keeps, ↓scrubSoft_keeps, ↓apply_ite (blank l), ite_self] | ((repeat' (split <;> (try (rename_i heq; have hh := congrArg Prod.snd heq; dsimp only at hh; subst hh)))) <;> first | with_reducible rfl | simp (disch := assumption) only [↓ueError_keeps, ↓unitRead_keeps, ↓scrubSoft_keeps, ↓apply_ite (blank l), ite_self] | rfl))) only [↓ueError_keeps, ↓unitRead_keeps, ↓scrubSoft_keeps, ↓apply_ite (blank l), ite_self, ↓foldl_keeps, ↓foldr_keeps, ↓forUpTo_keeps, ↓foldl_snd_keeps]

end Sys2Proof.Machine
end

