-- ==== Sys2Proof/Laws/KeepHostLink.lean ====
section
/-! SUPPORT. What each operation of Machine/HostLink.lean leaves as it was. -/

set_option linter.unusedSimpArgs false

namespace Sys2Proof.Machine

theorem partResult_keeps {l : List Comp} (h_regs : Has l .regs) (h_msixHeld : Has l .msixHeld) (h_emitted : Has l .emitted) :
    ∀ s x1, blank l (partResult s x1) = blank l s := by
  intro s x1
  unfold partResult
  simp (disch := assumption) only [↓wr_keeps, ↓setEvt_keeps]

theorem partCmd_keeps {l : List Comp} (h_regs : Has l .regs) (h_msixHeld : Has l .msixHeld) (h_emitted : Has l .emitted) :
    ∀ s x1 x2 x3 x4 x5, (∀ y0, blank l (x5 y0) = blank l y0) → blank l (partCmd s x1 x2 x3 x4 x5) = blank l s := by
  intro s x1 x2 x3 x4 x5 hf0
  unfold partCmd
  simp (disch := first | assumption | (intros; (first | with_reducible rfl | simp (disch := assumption) only [↓wr_keeps, ↓withWrite_keeps, ↓blank_regs, ↓blank_msixHeld, ↓blank_emitted, ↓apply_ite (blank l), ↓apply_ite Prod.snd, ite_self, ↓hf0] | (try dsimp only; (repeat' (split)) <;> first | done | with_reducible rfl | simp (disch := assumption) only [↓wr_keeps, ↓withWrite_keeps, ↓blank_regs, ↓blank_msixHeld, ↓blank_emitted, ↓apply_ite (blank l), ↓apply_ite Prod.snd, ite_self, ↓hf0] | rfl)))) only [↓wr_keeps, ↓withWrite_keeps, ↓blank_regs, ↓blank_msixHeld, ↓blank_emitted, ↓apply_ite (blank l), ↓apply_ite Prod.snd, ite_self, ↓hf0, ↓foldl_keeps, ↓foldr_keeps, ↓forUpTo_keeps, ↓foldl_snd_keeps]

theorem createPartition_keeps {l : List Comp} (h_regs : Has l .regs) (h_eff : Has l .eff) (h_cap : Has l .cap) (h_sealAt : Has l .sealAt) (h_ptns : Has l .ptns) (h_mon : Has l .mon) :
    ∀ s x1 x2, blank l (createPartition s x1 x2) = blank l s := by
  intro s x1 x2
  unfold createPartition
  simp (disch := assumption) only [↓wr_keeps, ↓setPtn_keeps, ↓clearPage_keeps, ↓blank_mon]

theorem effCreate_keeps {l : List Comp} (h_regs : Has l .regs) (h_eff : Has l .eff) (h_cap : Has l .cap) (h_sealAt : Has l .sealAt) (h_ptns : Has l .ptns) (h_mon : Has l .mon) (h_msixHeld : Has l .msixHeld) (h_emitted : Has l .emitted) :
    ∀ x0 x1 x2 s, blank l (effCreate x0 x1 x2 s) = blank l s := by
  intro x0 x1 x2 s
  unfold effCreate
  simp (disch := first | assumption | (intros; (first | with_reducible rfl | simp (disch := assumption) only [↓partResult_keeps, ↓partCmd_keeps, ↓createPartition_keeps, ↓blank_mon, ↓blank_eff, ↓blank_regs_eff_sealAt, ↓blank_ptns, ↓blank_regs, ↓blank_msixHeld, ↓blank_sealAt, ↓blank_regs_eff_cap_sealAt, ↓blank_cap, ↓blank_emitted, ↓apply_ite (blank l), ↓apply_ite Prod.snd, ite_self] | (try dsimp only; (repeat' (split)) <;> first | done | with_reducible rfl | simp (disch := assumption) only [↓partResult_keeps, ↓partCmd_keeps, ↓createPartition_keeps, ↓blank_mon, ↓blank_eff, ↓blank_regs_eff_sealAt, ↓blank_ptns, ↓blank_regs, ↓blank_msixHeld, ↓blank_sealAt, ↓blank_regs_eff_cap_sealAt, ↓blank_cap, ↓blank_emitted, ↓apply_ite (blank l), ↓apply_ite Prod.snd, ite_self] | rfl)))) only [↓partResult_keeps, ↓partCmd_keeps, ↓createPartition_keeps, ↓blank_mon, ↓blank_eff, ↓blank_regs_eff_sealAt, ↓blank_ptns, ↓blank_regs, ↓blank_msixHeld, ↓blank_sealAt, ↓blank_regs_eff_cap_sealAt, ↓blank_cap, ↓blank_emitted, ↓apply_ite (blank l), ↓apply_ite Prod.snd, ite_self, ↓foldl_keeps, ↓foldr_keeps, ↓forUpTo_keeps, ↓foldl_snd_keeps]

theorem abortItems_keeps {l : List Comp} (h_regs : Has l .regs) (h_ptns : Has l .ptns) (h_pool : Has l .pool) (h_plat : Has l .plat) (h_tens : Has l .tens) (h_hostMem : Has l .hostMem) (h_msixHeld : Has l .msixHeld) (h_emitted : Has l .emitted) (h_fresh : Has l .fresh) :
    ∀ s x1 x2, blank l (abortItems s x1 x2) = blank l s := by
  intro s x1 x2
  unfold abortItems
  (repeat' (split)) <;> first | with_reducible rfl | simp (disch := first | assumption | (intro t x; first | with_reducible rfl | simp (disch := assumption) only [↓forceItem_keeps] | ((repeat' (split)) <;> first | with_reducible rfl | simp (disch := assumption) only [↓forceItem_keeps] | rfl))) only [↓forceItem_keeps, ↓foldl_keeps, ↓foldr_keeps, ↓forUpTo_keeps, ↓foldl_snd_keeps]

theorem cqFlush_keeps {l : List Comp} (h_regs : Has l .regs) (h_ptns : Has l .ptns) (h_plat : Has l .plat) (h_hostMem : Has l .hostMem) (h_msixHeld : Has l .msixHeld) (h_emitted : Has l .emitted) :
    ∀ x0 x1 x2 s, blank l (cqFlush x0 x1 x2 s) = blank l s := by
  intro x0 x1 x2 s
  induction x2 generalizing x0 x1 s with
  | zero =>
    unfold cqFlush
    (repeat' (split)) <;> first | with_reducible rfl | simp (disch := first | assumption | (intro t x; first | with_reducible rfl | simp (disch := assumption) only [↓cqWrite_keeps, ↓apply_ite (blank l), ite_self] | ((repeat' (split)) <;> first | with_reducible rfl | simp (disch := assumption) only [↓cqWrite_keeps, ↓apply_ite (blank l), ite_self] | rfl))) only [↓cqWrite_keeps, ↓apply_ite (blank l), ite_self, ↓foldl_keeps, ↓foldr_keeps, ↓forUpTo_keeps, ↓foldl_snd_keeps] | rfl
  | succ n ih =>
    unfold cqFlush
    (repeat' (split)) <;> first | with_reducible rfl | simp (disch := first | assumption | (intro t x; first | with_reducible rfl | simp (disch := assumption) only [↓cqWrite_keeps, ↓apply_ite (blank l), ite_self, ↓ih] | ((repeat' (split)) <;> first | with_reducible rfl | simp (disch := assumption) only [↓cqWrite_keeps, ↓apply_ite (blank l), ite_self, ↓ih] | rfl))) only [↓cqWrite_keeps, ↓apply_ite (blank l), ite_self, ↓ih, ↓foldl_keeps, ↓foldr_keeps, ↓forUpTo_keeps, ↓foldl_snd_keeps] | rfl

theorem destroyItems_keeps {l : List Comp} (h_regs : Has l .regs) (h_ptns : Has l .ptns) (h_pool : Has l .pool) (h_plat : Has l .plat) (h_tens : Has l .tens) (h_hostMem : Has l .hostMem) (h_msixHeld : Has l .msixHeld) (h_emitted : Has l .emitted) (h_fresh : Has l .fresh) :
    ∀ s x1, blank l (destroyItems s x1) = blank l s := by
  intro s x1
  unfold destroyItems
  (repeat' (split)) <;> first | with_reducible rfl | simp (disch := first | assumption | (intro t x; first | with_reducible rfl | simp (disch := assumption) only [↓setPtn_keeps, ↓freeItemStake_keeps, ↓dropAllHeld_keeps, ↓abortItems_keeps, ↓cqFlush_keeps, ↓apply_ite (blank l), ite_self] | ((repeat' (split)) <;> first | with_reducible rfl | simp (disch := assumption) only [↓setPtn_keeps, ↓freeItemStake_keeps, ↓dropAllHeld_keeps, ↓abortItems_keeps, ↓cqFlush_keeps, ↓apply_ite (blank l), ite_self] | rfl))) only [↓setPtn_keeps, ↓freeItemStake_keeps, ↓dropAllHeld_keeps, ↓abortItems_keeps, ↓cqFlush_keeps, ↓apply_ite (blank l), ite_self, ↓foldl_keeps, ↓foldr_keeps, ↓forUpTo_keeps, ↓foldl_snd_keeps]

theorem destroyStorage_keeps {l : List Comp} (h_regs : Has l .regs) (h_ptns : Has l .ptns) (h_migs : Has l .migs) (h_locs : Has l .locs) (h_spillFreed : Has l .spillFreed) (h_tierHeld : Has l .tierHeld) (h_plat : Has l .plat) (h_book : Has l .book) :
    ∀ s x1, blank l (destroyStorage s x1) = blank l s := by
  intro s x1
  unfold destroyStorage
  (repeat' (split)) <;> first | with_reducible rfl | simp (disch := first | assumption | (intro t x; first | with_reducible rfl | simp (disch := assumption) only [↓freeStake_keeps, ↓freeAllTiles_keeps, ↓zeroBook_keeps, ↓blank_tierHeld] | ((repeat' (split)) <;> first | with_reducible rfl | simp (disch := assumption) only [↓freeStake_keeps, ↓freeAllTiles_keeps, ↓zeroBook_keeps, ↓blank_tierHeld] | rfl))) only [↓freeStake_keeps, ↓freeAllTiles_keeps, ↓zeroBook_keeps, ↓blank_tierHeld, ↓foldl_keeps, ↓foldr_keeps, ↓forUpTo_keeps, ↓foldl_snd_keeps]

theorem unjoinAll_keeps {l : List Comp} (h_regs : Has l .regs) :
    ∀ s x1, blank l (unjoinAll s x1) = blank l s := by
  intro s x1
  unfold unjoinAll
  (repeat' (split)) <;> first | with_reducible rfl | simp (disch := first | assumption | (intro t x; first | with_reducible rfl | simp (disch := assumption) only [↓setJoined_keeps] | ((repeat' (split)) <;> first | with_reducible rfl | simp (disch := assumption) only [↓setJoined_keeps] | rfl))) only [↓setJoined_keeps, ↓foldl_keeps, ↓foldr_keeps, ↓forUpTo_keeps, ↓foldl_snd_keeps]

theorem unbindVf_keeps {l : List Comp} (h_regs : Has l .regs) (h_ptns : Has l .ptns) (h_msixHeld : Has l .msixHeld) :
    ∀ s x1, blank l (unbindVf s x1) = blank l s := by
  intro s x1
  unfold unbindVf
  simp (disch := assumption) only [↓wr_keeps, ↓setPtn_keeps, ↓unjoinAll_keeps, ↓blank_msixHeld]

theorem destroyPartition_keeps {l : List Comp} (h_regs : Has l .regs) (h_eff : Has l .eff) (h_cap : Has l .cap) (h_sealAt : Has l .sealAt) (h_fp : Has l .fp) (h_stns : Has l .stns) (h_ptns : Has l .ptns) (h_migs : Has l .migs) (h_locs : Has l .locs) (h_spillFreed : Has l .spillFreed) (h_tierHeld : Has l .tierHeld) (h_movs : Has l .movs) (h_pool : Has l .pool) (h_mer : Has l .mer) (h_plat : Has l .plat) (h_tens : Has l .tens) (h_cdus : Has l .cdus) (h_book : Has l .book) (h_fhqs : Has l .fhqs) (h_trv : Has l .trv) (h_hostMem : Has l .hostMem) (h_msixHeld : Has l .msixHeld) (h_emitted : Has l .emitted) (h_fresh : Has l .fresh) :
    ∀ s x1, blank l (destroyPartition s x1) = blank l s := by
  intro s x1
  unfold destroyPartition
  (repeat' (split)) <;> first | with_reducible rfl | simp (disch := first | assumption | (intro t x; first | with_reducible rfl | simp (disch := assumption) only [↓wr_keeps, ↓setPtn_keeps, ↓withdrawAll_keeps, ↓reachQuiesced_keeps, ↓changeOwner_keeps, ↓destroyItems_keeps, ↓destroyStorage_keeps, ↓unbindVf_keeps] | ((repeat' (split)) <;> first | with_reducible rfl | simp (disch := assumption) only [↓wr_keeps, ↓setPtn_keeps, ↓withdrawAll_keeps, ↓reachQuiesced_keeps, ↓changeOwner_keeps, ↓destroyItems_keeps, ↓destroyStorage_keeps, ↓unbindVf_keeps] | rfl))) only [↓wr_keeps, ↓setPtn_keeps, ↓withdrawAll_keeps, ↓reachQuiesced_keeps, ↓changeOwner_keeps, ↓destroyItems_keeps, ↓destroyStorage_keeps, ↓unbindVf_keeps, ↓foldl_keeps, ↓foldr_keeps, ↓forUpTo_keeps, ↓foldl_snd_keeps]

theorem effDestroy_keeps {l : List Comp} (h_regs : Has l .regs) (h_eff : Has l .eff) (h_cap : Has l .cap) (h_sealAt : Has l .sealAt) (h_fp : Has l .fp) (h_stns : Has l .stns) (h_ptns : Has l .ptns) (h_migs : Has l .migs) (h_locs : Has l .locs) (h_spillFreed : Has l .spillFreed) (h_tierHeld : Has l .tierHeld) (h_movs : Has l .movs) (h_pool : Has l .pool) (h_mer : Has l .mer) (h_plat : Has l .plat) (h_tens : Has l .tens) (h_cdus : Has l .cdus) (h_book : Has l .book) (h_fhqs : Has l .fhqs) (h_trv : Has l .trv) (h_hostMem : Has l .hostMem) (h_msixHeld : Has l .msixHeld) (h_emitted : Has l .emitted) (h_fresh : Has l .fresh) :
    ∀ x0 x1 s, blank l (effDestroy x0 x1 s) = blank l s := by
  intro x0 x1 s
  unfold effDestroy
  simp (disch := first | assumption | (intros; (first | with_reducible rfl | simp (disch := assumption) only [↓partResult_keeps, ↓partCmd_keeps, ↓destroyPartition_keeps, ↓blank_cdus, ↓blank_pool, ↓blank_fp, ↓blank_hostMem, ↓blank_plat, ↓blank_pool_fresh, ↓blank_trv, ↓blank_eff, ↓blank_regs_eff_sealAt, ↓blank_ptns, ↓blank_regs, ↓blank_tierHeld, ↓blank_tens, ↓blank_locs, ↓blank_msixHeld, ↓blank_migs, ↓blank_sealAt, ↓blank_mer, ↓blank_fresh, ↓blank_regs_eff_cap_sealAt, ↓blank_cap, ↓blank_movs, ↓blank_stns, ↓blank_fhqs, ↓blank_spillFreed, ↓blank_book, ↓blank_emitted, ↓apply_ite (blank l), ↓apply_ite Prod.snd, ite_self] | (try dsimp only; (repeat' (split)) <;> first | done | with_reducible rfl | simp (disch := assumption) only [↓partResult_keeps, ↓partCmd_keeps, ↓destroyPartition_keeps, ↓blank_cdus, ↓blank_pool, ↓blank_fp, ↓blank_hostMem, ↓blank_plat, ↓blank_pool_fresh, ↓blank_trv, ↓blank_eff, ↓blank_regs_eff_sealAt, ↓blank_ptns, ↓blank_regs, ↓blank_tierHeld, ↓blank_tens, ↓blank_locs, ↓blank_msixHeld, ↓blank_migs, ↓blank_sealAt, ↓blank_mer, ↓blank_fresh, ↓blank_regs_eff_cap_sealAt, ↓blank_cap, ↓blank_movs, ↓blank_stns, ↓blank_fhqs, ↓blank_spillFreed, ↓blank_book, ↓blank_emitted, ↓apply_ite (blank l), ↓apply_ite Prod.snd, ite_self] | rfl)))) only [↓partResult_keeps, ↓partCmd_keeps, ↓destroyPartition_keeps, ↓blank_cdus, ↓blank_pool, ↓blank_fp, ↓blank_hostMem, ↓blank_plat, ↓blank_pool_fresh, ↓blank_trv, ↓blank_eff, ↓blank_regs_eff_sealAt, ↓blank_ptns, ↓blank_regs, ↓blank_tierHeld, ↓blank_tens, ↓blank_locs, ↓blank_msixHeld, ↓blank_migs, ↓blank_sealAt, ↓blank_mer, ↓blank_fresh, ↓blank_regs_eff_cap_sealAt, ↓blank_cap, ↓blank_movs, ↓blank_stns, ↓blank_fhqs, ↓blank_spillFreed, ↓blank_book, ↓blank_emitted, ↓apply_ite (blank l), ↓apply_ite Prod.snd, ite_self, ↓foldl_keeps, ↓foldr_keeps, ↓forUpTo_keeps, ↓foldl_snd_keeps]

theorem effPartitionFreed_keeps {l : List Comp} (h_regs : Has l .regs) (h_msixHeld : Has l .msixHeld) (h_emitted : Has l .emitted) :
    ∀ x0 s, blank l (effPartitionFreed x0 s) = blank l s := by
  intro x0 s
  unfold effPartitionFreed
  simp (disch := assumption) only [↓wr_keeps, ↓partResult_keeps, ↓apply_ite (blank l), ite_self]

theorem effAbortPending_keeps {l : List Comp} (h_regs : Has l .regs) (h_ptns : Has l .ptns) (h_pool : Has l .pool) (h_plat : Has l .plat) (h_tens : Has l .tens) (h_hostMem : Has l .hostMem) (h_msixHeld : Has l .msixHeld) (h_emitted : Has l .emitted) (h_fresh : Has l .fresh) :
    ∀ x0 x1 s, blank l (effAbortPending x0 x1 s) = blank l s := by
  intro x0 x1 s
  unfold effAbortPending
  simp (disch := first | assumption | (intros; (first | with_reducible rfl | simp (disch := assumption) only [↓partResult_keeps, ↓partCmd_keeps, ↓abortItems_keeps, ↓blank_pool, ↓blank_hostMem, ↓blank_plat, ↓blank_pool_fresh, ↓blank_ptns, ↓blank_regs, ↓blank_tens, ↓blank_msixHeld, ↓blank_fresh, ↓blank_emitted, ↓apply_ite (blank l), ↓apply_ite Prod.snd, ite_self] | (try dsimp only; (repeat' (split)) <;> first | done | with_reducible rfl | simp (disch := assumption) only [↓partResult_keeps, ↓partCmd_keeps, ↓abortItems_keeps, ↓blank_pool, ↓blank_hostMem, ↓blank_plat, ↓blank_pool_fresh, ↓blank_ptns, ↓blank_regs, ↓blank_tens, ↓blank_msixHeld, ↓blank_fresh, ↓blank_emitted, ↓apply_ite (blank l), ↓apply_ite Prod.snd, ite_self] | rfl)))) only [↓partResult_keeps, ↓partCmd_keeps, ↓abortItems_keeps, ↓blank_pool, ↓blank_hostMem, ↓blank_plat, ↓blank_pool_fresh, ↓blank_ptns, ↓blank_regs, ↓blank_tens, ↓blank_msixHeld, ↓blank_fresh, ↓blank_emitted, ↓apply_ite (blank l), ↓apply_ite Prod.snd, ite_self, ↓foldl_keeps, ↓foldr_keeps, ↓forUpTo_keeps, ↓foldl_snd_keeps]

theorem sqDoorbell_keeps {l : List Comp} (h_regs : Has l .regs) (h_msixHeld : Has l .msixHeld) (h_emitted : Has l .emitted) :
    ∀ s x1 x2 x3, blank l (sqDoorbell s x1 x2 x3) = blank l s := by
  intro s x1 x2 x3
  unfold sqDoorbell
  simp (disch := assumption) only [↓wr_keeps, ↓setErr_keeps, ↓apply_ite (blank l), ite_self]

theorem effSqDoorbell_keeps {l : List Comp} (h_regs : Has l .regs) (h_msixHeld : Has l .msixHeld) (h_emitted : Has l .emitted) :
    ∀ x0 x1 x2 x3 s, blank l (effSqDoorbell x0 x1 x2 x3 s) = blank l s := by
  intro x0 x1 x2 x3 s
  unfold effSqDoorbell
  simp (disch := first | assumption | (intros; (first | with_reducible rfl | simp (disch := assumption) only [↓withWrite_keeps, ↓sqDoorbell_keeps, ↓blank_regs, ↓blank_msixHeld, ↓blank_emitted, ↓apply_ite (blank l), ↓apply_ite Prod.snd, ite_self] | (try dsimp only; (repeat' (split)) <;> first | done | with_reducible rfl | simp (disch := assumption) only [↓withWrite_keeps, ↓sqDoorbell_keeps, ↓blank_regs, ↓blank_msixHeld, ↓blank_emitted, ↓apply_ite (blank l), ↓apply_ite Prod.snd, ite_self] | rfl)))) only [↓withWrite_keeps, ↓sqDoorbell_keeps, ↓blank_regs, ↓blank_msixHeld, ↓blank_emitted, ↓apply_ite (blank l), ↓apply_ite Prod.snd, ite_self, ↓foldl_keeps, ↓foldr_keeps, ↓forUpTo_keeps, ↓foldl_snd_keeps]

theorem cqHead_keeps {l : List Comp} (h_regs : Has l .regs) (h_ptns : Has l .ptns) (h_msixHeld : Has l .msixHeld) (h_emitted : Has l .emitted) :
    ∀ s x1 x2 x3, blank l (cqHead s x1 x2 x3) = blank l s := by
  intro s x1 x2 x3
  unfold cqHead
  simp (disch := assumption) only [↓wr_keeps, ↓setErr_keeps, ↓setCq_keeps, ↓cqIrq_keeps, ↓apply_ite (blank l), ite_self]

theorem effCqHeadWrite_keeps {l : List Comp} (h_regs : Has l .regs) (h_ptns : Has l .ptns) (h_msixHeld : Has l .msixHeld) (h_emitted : Has l .emitted) :
    ∀ x0 x1 x2 x3 s, blank l (effCqHeadWrite x0 x1 x2 x3 s) = blank l s := by
  intro x0 x1 x2 x3 s
  unfold effCqHeadWrite
  simp (disch := first | assumption | (intros; (first | with_reducible rfl | simp (disch := assumption) only [↓withWrite_keeps, ↓cqHead_keeps, ↓blank_ptns, ↓blank_regs, ↓blank_msixHeld, ↓blank_emitted, ↓apply_ite (blank l), ↓apply_ite Prod.snd, ite_self] | (try dsimp only; (repeat' (split)) <;> first | done | with_reducible rfl | simp (disch := assumption) only [↓withWrite_keeps, ↓cqHead_keeps, ↓blank_ptns, ↓blank_regs, ↓blank_msixHeld, ↓blank_emitted, ↓apply_ite (blank l), ↓apply_ite Prod.snd, ite_self] | rfl)))) only [↓withWrite_keeps, ↓cqHead_keeps, ↓blank_ptns, ↓blank_regs, ↓blank_msixHeld, ↓blank_emitted, ↓apply_ite (blank l), ↓apply_ite Prod.snd, ite_self, ↓foldl_keeps, ↓foldr_keeps, ↓forUpTo_keeps, ↓foldl_snd_keeps]

theorem effSqFetch_keeps {l : List Comp} (h_regs : Has l .regs) (h_ptns : Has l .ptns) (h_hostMem : Has l .hostMem) (h_msixHeld : Has l .msixHeld) (h_emitted : Has l .emitted) :
    ∀ x0 x1 x2 s, blank l (effSqFetch x0 x1 x2 s) = blank l s := by
  intro x0 x1 x2 s
  unfold effSqFetch
  simp (disch := assumption) only [↓fetchEntry_keeps]

theorem effParcel_keeps {l : List Comp} (h_regs : Has l .regs) (h_ptns : Has l .ptns) (h_pool : Has l .pool) (h_plat : Has l .plat) (h_tens : Has l .tens) (h_hostMem : Has l .hostMem) (h_msixHeld : Has l .msixHeld) (h_emitted : Has l .emitted) (h_fresh : Has l .fresh) :
    ∀ x0 x1 x2 s, blank l (effParcel x0 x1 x2 s) = blank l s := by
  intro x0 x1 x2 s
  unfold effParcel
  simp (disch := assumption) only [↓workHeld_keeps, ↓apply_ite (blank l), ite_self]

theorem effSqNop_keeps {l : List Comp} (h_regs : Has l .regs) (h_ptns : Has l .ptns) (h_pool : Has l .pool) (h_plat : Has l .plat) (h_tens : Has l .tens) (h_hostMem : Has l .hostMem) (h_msixHeld : Has l .msixHeld) (h_emitted : Has l .emitted) (h_fresh : Has l .fresh) :
    ∀ x0 x1 s, blank l (effSqNop x0 x1 s) = blank l s := by
  intro x0 x1 s
  unfold effSqNop
  simp (disch := assumption) only [↓workHeld_keeps, ↓apply_ite (blank l), ite_self]

theorem effConfirmReadDone_keeps {l : List Comp} (h_regs : Has l .regs) (h_ptns : Has l .ptns) (h_pool : Has l .pool) (h_plat : Has l .plat) (h_tens : Has l .tens) (h_hostMem : Has l .hostMem) (h_msixHeld : Has l .msixHeld) (h_emitted : Has l .emitted) (h_fresh : Has l .fresh) :
    ∀ x0 x1 s, blank l (effConfirmReadDone x0 x1 s) = blank l s := by
  intro x0 x1 s
  unfold effConfirmReadDone
  (repeat' (split)) <;> first | with_reducible rfl | simp (disch := first | assumption | (intro t x; first | with_reducible rfl | simp (disch := assumption) only [↓addSat_keeps, ↓confirmItem_keeps, ↓apply_ite (blank l), ite_self] | ((repeat' (split)) <;> first | with_reducible rfl | simp (disch := assumption) only [↓addSat_keeps, ↓confirmItem_keeps, ↓apply_ite (blank l), ite_self] | rfl))) only [↓addSat_keeps, ↓confirmItem_keeps, ↓apply_ite (blank l), ite_self, ↓foldl_keeps, ↓foldr_keeps, ↓forUpTo_keeps, ↓foldl_snd_keeps]

theorem effCqEntryWrite_keeps {l : List Comp} (h_regs : Has l .regs) (h_ptns : Has l .ptns) (h_plat : Has l .plat) (h_hostMem : Has l .hostMem) (h_msixHeld : Has l .msixHeld) (h_emitted : Has l .emitted) :
    ∀ x0 x1 s, blank l (effCqEntryWrite x0 x1 s) = blank l s := by
  intro x0 x1 s
  unfold effCqEntryWrite
  (repeat' (split)) <;> first | with_reducible rfl | simp (disch := assumption) only [↓cqWrite_keeps, ↓apply_ite (blank l), ite_self]

theorem effRecoveryEnd_keeps {l : List Comp} (h_regs : Has l .regs) (h_fp : Has l .fp) (h_ptns : Has l .ptns) (h_pool : Has l .pool) (h_plat : Has l .plat) (h_tens : Has l .tens) (h_hostMem : Has l .hostMem) (h_msixHeld : Has l .msixHeld) (h_emitted : Has l .emitted) (h_fresh : Has l .fresh) :
    ∀ x0 s, blank l (effRecoveryEnd x0 s) = blank l s := by
  intro x0 s
  unfold effRecoveryEnd
  simp (disch := assumption) only [↓setEvt_keeps, ↓setPtn_keeps, ↓recoverOn_keeps, ↓lbIdle_keeps, ↓apply_ite (blank l), ite_self]

theorem effFunctionLevelReset_keeps {l : List Comp} (h_regs : Has l .regs) (h_eff : Has l .eff) (h_ptns : Has l .ptns) (h_pool : Has l .pool) (h_plat : Has l .plat) (h_tens : Has l .tens) (h_hostMem : Has l .hostMem) (h_bme : Has l .bme) (h_msixOff : Has l .msixOff) (h_msixHeld : Has l .msixHeld) (h_emitted : Has l .emitted) (h_fresh : Has l .fresh) :
    ∀ x0 s, blank l (effFunctionLevelReset x0 s) = blank l s := by
  intro x0 s
  unfold effFunctionLevelReset
  dsimp only
  split
  · simp (disch := assumption) only [↓wrApplied_keeps, ↓setSq_keeps, ↓dropAllHeld_keeps, ↓blank_msixOff_msixHeld, ↓blank_pool, ↓blank_hostMem, ↓blank_plat, ↓blank_pool_fresh, ↓blank_eff, ↓blank_ptns, ↓blank_regs, ↓blank_bme_msixOff, ↓blank_bme_msixOff_msixHeld, ↓blank_tens, ↓blank_msixHeld, ↓blank_bme, ↓blank_fresh, ↓blank_emitted, ↓apply_ite (blank l), ↓apply_ite Prod.snd, ite_self]
  · rw [forUpTo_keeps]
    · simp (disch := assumption) only [↓wrApplied_keeps, ↓setSq_keeps, ↓dropAllHeld_keeps, ↓blank_msixOff_msixHeld, ↓blank_pool, ↓blank_hostMem, ↓blank_plat, ↓blank_pool_fresh, ↓blank_eff, ↓blank_ptns, ↓blank_regs, ↓blank_bme_msixOff, ↓blank_bme_msixOff_msixHeld, ↓blank_tens, ↓blank_msixHeld, ↓blank_bme, ↓blank_fresh, ↓blank_emitted, ↓apply_ite (blank l), ↓apply_ite Prod.snd, ite_self]
    · intro i t
      simp (disch := assumption) only [↓wrApplied_keeps, ↓setSq_keeps, ↓dropAllHeld_keeps, ↓blank_msixOff_msixHeld, ↓blank_pool, ↓blank_hostMem, ↓blank_plat, ↓blank_pool_fresh, ↓blank_eff, ↓blank_ptns, ↓blank_regs, ↓blank_bme_msixOff, ↓blank_bme_msixOff_msixHeld, ↓blank_tens, ↓blank_msixHeld, ↓blank_bme, ↓blank_fresh, ↓blank_emitted, ↓apply_ite (blank l), ↓apply_ite Prod.snd, ite_self]

theorem mirrorCatchUp_keeps {l : List Comp} (h_hostMem : Has l .hostMem) (h_emitted : Has l .emitted) :
    ∀ s x1, blank l (mirrorCatchUp s x1) = blank l s := by
  intro s x1
  unfold mirrorCatchUp
  (repeat' (split)) <;> first | with_reducible rfl | simp (disch := first | assumption | (intro t x; first | with_reducible rfl | simp (disch := assumption) only [↓writeMirror_keeps] | ((repeat' (split)) <;> first | with_reducible rfl | simp (disch := assumption) only [↓writeMirror_keeps] | rfl))) only [↓writeMirror_keeps, ↓foldl_keeps, ↓foldr_keeps, ↓forUpTo_keeps, ↓foldl_snd_keeps]

theorem effBusMasterEnable_keeps {l : List Comp} (h_hostMem : Has l .hostMem) (h_bme : Has l .bme) (h_msixOff : Has l .msixOff) (h_msixHeld : Has l .msixHeld) (h_emitted : Has l .emitted) :
    ∀ x0 x1 s, blank l (effBusMasterEnable x0 x1 s) = blank l s := by
  intro x0 x1 s
  unfold effBusMasterEnable
  dsimp only
  (repeat' (split)) <;> first | with_reducible rfl | simp (disch := first | assumption | (intro t x; first | with_reducible rfl | simp (disch := assumption) only [↓emit_keeps, ↓mirrorCatchUp_keeps, ↓blank_msixOff_msixHeld, ↓blank_hostMem, ↓blank_bme_msixOff, ↓blank_bme_msixOff_msixHeld, ↓blank_msixHeld, ↓blank_bme, ↓blank_emitted, ↓apply_ite (blank l), ↓apply_ite Prod.snd, ite_self] | ((repeat' (split)) <;> first | with_reducible rfl | simp (disch := assumption) only [↓emit_keeps, ↓mirrorCatchUp_keeps, ↓blank_msixOff_msixHeld, ↓blank_hostMem, ↓blank_bme_msixOff, ↓blank_bme_msixOff_msixHeld, ↓blank_msixHeld, ↓blank_bme, ↓blank_emitted, ↓apply_ite (blank l), ↓apply_ite Prod.snd, ite_self] | rfl))) only [↓emit_keeps, ↓mirrorCatchUp_keeps, ↓blank_msixOff_msixHeld, ↓blank_hostMem, ↓blank_bme_msixOff, ↓blank_bme_msixOff_msixHeld, ↓blank_msixHeld, ↓blank_bme, ↓blank_emitted, ↓apply_ite (blank l), ↓apply_ite Prod.snd, ite_self, ↓foldl_keeps, ↓foldr_keeps, ↓forUpTo_keeps, ↓foldl_snd_keeps] | rfl

theorem moverTimeout_keeps {l : List Comp} (h_regs : Has l .regs) (h_stns : Has l .stns) (h_ptns : Has l .ptns) (h_movs : Has l .movs) (h_pool : Has l .pool) (h_plat : Has l .plat) (h_tens : Has l .tens) (h_hostMem : Has l .hostMem) (h_msixHeld : Has l .msixHeld) (h_emitted : Has l .emitted) (h_fresh : Has l .fresh) :
    ∀ s x1, blank l (moverTimeout s x1) = blank l s := by
  intro s x1
  unfold moverTimeout
  (repeat' (split)) <;> first | with_reducible rfl | simp (disch := assumption) only [↓addSat_keeps, ↓finishItem_keeps, ↓postAll_keeps, ↓apply_ite (blank l), ite_self]

theorem copyTimeout_keeps {l : List Comp} (h_regs : Has l .regs) (h_ptns : Has l .ptns) (h_migs : Has l .migs) (h_locs : Has l .locs) (h_spillFreed : Has l .spillFreed) :
    ∀ s x1 x2, blank l (copyTimeout s x1 x2) = blank l s := by
  intro s x1 x2
  unfold copyTimeout
  (repeat' (split)) <;> first | with_reducible rfl | simp (disch := assumption) only [↓addSat_keeps, ↓stickTile_keeps, ↓apply_ite (blank l), ite_self]

theorem effCplTimeout_keeps {l : List Comp} (h_regs : Has l .regs) (h_stns : Has l .stns) (h_ptns : Has l .ptns) (h_migs : Has l .migs) (h_locs : Has l .locs) (h_spillFreed : Has l .spillFreed) (h_movs : Has l .movs) (h_pool : Has l .pool) (h_plat : Has l .plat) (h_tens : Has l .tens) (h_hostMem : Has l .hostMem) (h_msixHeld : Has l .msixHeld) (h_emitted : Has l .emitted) (h_fresh : Has l .fresh) :
    ∀ x0 s, blank l (effCplTimeout x0 s) = blank l s := by
  intro x0 s
  unfold effCplTimeout
  (repeat' (split)) <;> first | with_reducible rfl | simp (disch := assumption) only [↓addSat_keeps, ↓fetchEntry_keeps, ↓workHeld_keeps, ↓recordTimeout_keeps, ↓effConfirmReadDone_keeps, ↓moverTimeout_keeps, ↓copyTimeout_keeps, ↓apply_ite (blank l), ite_self]

end Sys2Proof.Machine
end

