-- ==== Sys2Proof/Laws/KeepMeridian.lean ====
section
/-! SUPPORT. What each operation of Machine/Meridian.lean leaves as it was. -/

set_option linter.unusedSimpArgs false

namespace Sys2Proof.Machine

theorem effSourceLost_keeps {l : List Comp} (h_regs : Has l .regs) (h_mer : Has l .mer) (h_msixHeld : Has l .msixHeld) (h_emitted : Has l .emitted) :
    ∀ s, blank l (effSourceLost s) = blank l s := by
  intro s
  unfold effSourceLost
  simp (disch := assumption) only [↓addSat_keeps, ↓setEvt_keeps, ↓bumpHealth_keeps, ↓blank_mer, ↓apply_ite (blank l), ite_self]

theorem effRelock_keeps {l : List Comp} (h_regs : Has l .regs) (h_mer : Has l .mer) (h_msixHeld : Has l .msixHeld) (h_emitted : Has l .emitted) :
    ∀ s, blank l (effRelock s) = blank l s := by
  intro s
  unfold effRelock
  simp (disch := assumption) only [↓setEvt_keeps, ↓blank_mer, ↓apply_ite (blank l), ite_self]

theorem doStep_keeps {l : List Comp} (h_regs : Has l .regs) (h_mer : Has l .mer) (h_msixHeld : Has l .msixHeld) (h_emitted : Has l .emitted) :
    ∀ s, blank l (doStep s) = blank l s := by
  intro s
  unfold doStep
  simp (disch := assumption) only [↓wr_keeps, ↓setEvt_keeps, ↓blank_mer, ↓apply_ite (blank l), ite_self]

theorem effStepGo_keeps {l : List Comp} (h_regs : Has l .regs) (h_mer : Has l .mer) (h_msixHeld : Has l .msixHeld) (h_emitted : Has l .emitted) :
    ∀ x0 s, blank l (effStepGo x0 s) = blank l s := by
  intro x0 s
  unfold effStepGo
  simp (disch := first | assumption | (intros; (first | with_reducible rfl | simp (disch := assumption) only [↓setErr_keeps, ↓withWrite_keeps, ↓doStep_keeps, ↓blank_regs, ↓blank_msixHeld, ↓blank_mer, ↓blank_emitted, ↓apply_ite (blank l), ↓apply_ite Prod.snd, ite_self] | (try dsimp only; (repeat' (split)) <;> first | done | with_reducible rfl | simp (disch := assumption) only [↓setErr_keeps, ↓withWrite_keeps, ↓doStep_keeps, ↓blank_regs, ↓blank_msixHeld, ↓blank_mer, ↓blank_emitted, ↓apply_ite (blank l), ↓apply_ite Prod.snd, ite_self] | rfl)))) only [↓setErr_keeps, ↓withWrite_keeps, ↓doStep_keeps, ↓blank_regs, ↓blank_msixHeld, ↓blank_mer, ↓blank_emitted, ↓apply_ite (blank l), ↓apply_ite Prod.snd, ite_self, ↓foldl_keeps, ↓foldr_keeps, ↓forUpTo_keeps, ↓foldl_snd_keeps]

theorem setRate_keeps {l : List Comp} (h_regs : Has l .regs) (h_mer : Has l .mer) :
    ∀ s x1, blank l (setRate s x1) = blank l s := by
  intro s x1
  unfold setRate
  simp (disch := assumption) only [↓wr_keeps, ↓blank_mer]

theorem effRateWrite_keeps {l : List Comp} (h_regs : Has l .regs) (h_mer : Has l .mer) (h_msixHeld : Has l .msixHeld) (h_emitted : Has l .emitted) :
    ∀ x0 x1 s, blank l (effRateWrite x0 x1 s) = blank l s := by
  intro x0 x1 s
  unfold effRateWrite
  simp (disch := first | assumption | (intros; (first | with_reducible rfl | simp (disch := assumption) only [↓setErr_keeps, ↓withWrite_keeps, ↓setRate_keeps, ↓blank_regs, ↓blank_msixHeld, ↓blank_mer, ↓blank_emitted, ↓apply_ite (blank l), ↓apply_ite Prod.snd, ite_self] | (try dsimp only; (repeat' (split)) <;> first | done | with_reducible rfl | simp (disch := assumption) only [↓setErr_keeps, ↓withWrite_keeps, ↓setRate_keeps, ↓blank_regs, ↓blank_msixHeld, ↓blank_mer, ↓blank_emitted, ↓apply_ite (blank l), ↓apply_ite Prod.snd, ite_self] | rfl)))) only [↓setErr_keeps, ↓withWrite_keeps, ↓setRate_keeps, ↓blank_regs, ↓blank_msixHeld, ↓blank_mer, ↓blank_emitted, ↓apply_ite (blank l), ↓apply_ite Prod.snd, ite_self, ↓foldl_keeps, ↓foldr_keeps, ↓forUpTo_keeps, ↓foldl_snd_keeps]

theorem effAdjWrite_keeps {l : List Comp} (h_regs : Has l .regs) (h_mer : Has l .mer) (h_msixHeld : Has l .msixHeld) (h_emitted : Has l .emitted) :
    ∀ x0 x1 s, blank l (effAdjWrite x0 x1 s) = blank l s := by
  intro x0 x1 s
  unfold effAdjWrite
  simp (disch := first | assumption | (intros; (first | with_reducible rfl | simp (disch := assumption) only [↓setErr_keeps, ↓withWrite_keeps, ↓blank_regs, ↓blank_msixHeld, ↓blank_mer, ↓blank_emitted, ↓apply_ite (blank l), ↓apply_ite Prod.snd, ite_self] | (try dsimp only; (repeat' (split)) <;> first | done | with_reducible rfl | simp (disch := assumption) only [↓setErr_keeps, ↓withWrite_keeps, ↓blank_regs, ↓blank_msixHeld, ↓blank_mer, ↓blank_emitted, ↓apply_ite (blank l), ↓apply_ite Prod.snd, ite_self] | rfl)))) only [↓setErr_keeps, ↓withWrite_keeps, ↓blank_regs, ↓blank_msixHeld, ↓blank_mer, ↓blank_emitted, ↓apply_ite (blank l), ↓apply_ite Prod.snd, ite_self, ↓foldl_keeps, ↓foldr_keeps, ↓forUpTo_keeps, ↓foldl_snd_keeps]

theorem effTdr_keeps {l : List Comp} (h_regs : Has l .regs) (h_mer : Has l .mer) (h_msixHeld : Has l .msixHeld) (h_emitted : Has l .emitted) :
    ∀ x0 s, blank l (effTdr x0 s) = blank l s := by
  intro x0 s
  unfold effTdr
  apply withWrite_keeps <;> first | assumption | skip
  intro t
  apply withS_keeps <;> first | assumption | skip
  intro t
  simp (disch := assumption) only [↓withWrite_keeps, ↓withS_keeps, ↓timeDomainReset_keeps, ↓blank_regs, ↓blank_msixHeld, ↓blank_mer, ↓blank_emitted, ↓apply_ite (blank l), ↓apply_ite Prod.snd, ite_self]

theorem withRead_keeps {l : List Comp} (h_regs : Has l .regs) (h_msixHeld : Has l .msixHeld) (h_emitted : Has l .emitted) :
    ∀ s x1 x2, (∀ y0, blank l (x2 y0) = blank l y0) → blank l (withRead s x1 x2) = blank l s := by
  intro s x1 x2 hf0
  unfold withRead
  simp (disch := assumption) only [↓emit_keeps, ↓denyAccess_keeps, ↓apply_ite (blank l), ite_self, ↓hf0]

theorem effNowNsfRead_keeps {l : List Comp} (h_regs : Has l .regs) (h_msixHeld : Has l .msixHeld) (h_emitted : Has l .emitted) :
    ∀ x0 s, blank l (effNowNsfRead x0 s) = blank l s := by
  intro x0 s
  unfold effNowNsfRead
  simp (disch := first | assumption | (intros; (first | with_reducible rfl | simp (disch := assumption) only [↓wr_keeps, ↓emit_keeps, ↓withRead_keeps, ↓blank_regs, ↓blank_msixHeld, ↓blank_emitted, ↓apply_ite (blank l), ↓apply_ite Prod.snd, ite_self] | (try dsimp only; (repeat' (split)) <;> first | done | with_reducible rfl | simp (disch := assumption) only [↓wr_keeps, ↓emit_keeps, ↓withRead_keeps, ↓blank_regs, ↓blank_msixHeld, ↓blank_emitted, ↓apply_ite (blank l), ↓apply_ite Prod.snd, ite_self] | rfl)))) only [↓wr_keeps, ↓emit_keeps, ↓withRead_keeps, ↓blank_regs, ↓blank_msixHeld, ↓blank_emitted, ↓apply_ite (blank l), ↓apply_ite Prod.snd, ite_self, ↓foldl_keeps, ↓foldr_keeps, ↓forUpTo_keeps, ↓foldl_snd_keeps]

theorem setPop_keeps {l : List Comp} (h_regs : Has l .regs) (h_emitted : Has l .emitted) :
    ∀ s x1 x2 x3 x4, blank l (setPop s x1 x2 x3 x4) = blank l s := by
  intro s x1 x2 x3 x4
  unfold setPop
  simp (disch := assumption) only [↓wr_keeps, ↓emit_keeps]

theorem effTsqPop_keeps {l : List Comp} (h_regs : Has l .regs) (h_mer : Has l .mer) (h_msixHeld : Has l .msixHeld) (h_emitted : Has l .emitted) :
    ∀ x0 s, blank l (effTsqPop x0 s) = blank l s := by
  intro x0 s
  unfold effTsqPop
  apply withRead_keeps <;> first | assumption | skip
  intro t
  dsimp only
  cases (if rd t .mer F.mer_TSQ_SEL < 40 then mapGet [] t.mer.tsq (rd t .mer F.mer_TSQ_SEL) else []) <;> dsimp only <;> simp (disch := assumption) only [↓wr_keeps, ↓withRead_keeps, ↓setPop_keeps, ↓blank_regs, ↓blank_msixHeld, ↓blank_mer, ↓blank_emitted, ↓apply_ite (blank l), ↓apply_ite Prod.snd, ite_self]

theorem effPpsInEdge_keeps {l : List Comp} (h_regs : Has l .regs) (h_msixHeld : Has l .msixHeld) (h_emitted : Has l .emitted) :
    ∀ s, blank l (effPpsInEdge s) = blank l s := by
  intro s
  unfold effPpsInEdge
  simp (disch := assumption) only [↓wr_keeps, ↓setEvt_keeps, ↓apply_ite (blank l), ite_self]

theorem effPpsOutPulse_keeps {l : List Comp} (h_mer : Has l .mer) (h_emitted : Has l .emitted) :
    ∀ s, blank l (effPpsOutPulse s) = blank l s := by
  intro s
  unfold effPpsOutPulse
  simp (disch := assumption) only [↓emit_keeps, ↓blank_mer, ↓apply_ite (blank l), ite_self]

theorem armTrigger_keeps {l : List Comp} (h_regs : Has l .regs) (h_mer : Has l .mer) (h_msixHeld : Has l .msixHeld) (h_emitted : Has l .emitted) :
    ∀ s x1, blank l (armTrigger s x1) = blank l s := by
  intro s x1
  unfold armTrigger
  simp (disch := assumption) only [↓wr_keeps, ↓lateTrigger_keeps, ↓apply_ite (blank l), ite_self]

theorem writeArm_keeps {l : List Comp} (h_regs : Has l .regs) (h_mer : Has l .mer) (h_msixHeld : Has l .msixHeld) (h_emitted : Has l .emitted) :
    ∀ s x1, blank l (writeArm s x1) = blank l s := by
  intro s x1
  unfold writeArm
  simp (disch := assumption) only [↓setErr_keeps, ↓armTrigger_keeps, ↓apply_ite (blank l), ite_self]

theorem effArm_keeps {l : List Comp} (h_regs : Has l .regs) (h_mer : Has l .mer) (h_msixHeld : Has l .msixHeld) (h_emitted : Has l .emitted) :
    ∀ x0 x1 s, blank l (effArm x0 x1 s) = blank l s := by
  intro x0 x1 s
  unfold effArm
  simp (disch := first | assumption | (intros; (first | with_reducible rfl | simp (disch := assumption) only [↓withWrite_keeps, ↓writeArm_keeps, ↓blank_regs, ↓blank_msixHeld, ↓blank_mer, ↓blank_emitted, ↓apply_ite (blank l), ↓apply_ite Prod.snd, ite_self] | (try dsimp only; (repeat' (split)) <;> first | done | with_reducible rfl | simp (disch := assumption) only [↓withWrite_keeps, ↓writeArm_keeps, ↓blank_regs, ↓blank_msixHeld, ↓blank_mer, ↓blank_emitted, ↓apply_ite (blank l), ↓apply_ite Prod.snd, ite_self] | rfl)))) only [↓withWrite_keeps, ↓writeArm_keeps, ↓blank_regs, ↓blank_msixHeld, ↓blank_mer, ↓blank_emitted, ↓apply_ite (blank l), ↓apply_ite Prod.snd, ite_self, ↓foldl_keeps, ↓foldr_keeps, ↓forUpTo_keeps, ↓foldl_snd_keeps]

theorem writeDisarm_keeps {l : List Comp} (h_regs : Has l .regs) (h_mer : Has l .mer) (h_msixHeld : Has l .msixHeld) (h_emitted : Has l .emitted) :
    ∀ s x1, blank l (writeDisarm s x1) = blank l s := by
  intro s x1
  unfold writeDisarm
  (repeat' (split)) <;> first | with_reducible rfl | simp (disch := assumption) only [↓setErr_keeps, ↓disarmTrigger_keeps, ↓blank_mer, ↓apply_ite (blank l), ite_self]

theorem effDisarm_keeps {l : List Comp} (h_regs : Has l .regs) (h_mer : Has l .mer) (h_msixHeld : Has l .msixHeld) (h_emitted : Has l .emitted) :
    ∀ x0 x1 s, blank l (effDisarm x0 x1 s) = blank l s := by
  intro x0 x1 s
  unfold effDisarm
  simp (disch := first | assumption | (intros; (first | with_reducible rfl | simp (disch := assumption) only [↓withWrite_keeps, ↓writeDisarm_keeps, ↓blank_regs, ↓blank_msixHeld, ↓blank_mer, ↓blank_emitted, ↓apply_ite (blank l), ↓apply_ite Prod.snd, ite_self] | (try dsimp only; (repeat' (split)) <;> first | done | with_reducible rfl | simp (disch := assumption) only [↓withWrite_keeps, ↓writeDisarm_keeps, ↓blank_regs, ↓blank_msixHeld, ↓blank_mer, ↓blank_emitted, ↓apply_ite (blank l), ↓apply_ite Prod.snd, ite_self] | rfl)))) only [↓withWrite_keeps, ↓writeDisarm_keeps, ↓blank_regs, ↓blank_msixHeld, ↓blank_mer, ↓blank_emitted, ↓apply_ite (blank l), ↓apply_ite Prod.snd, ite_self, ↓foldl_keeps, ↓foldr_keeps, ↓forUpTo_keeps, ↓foldl_snd_keeps]

theorem lateConversion_keeps {l : List Comp} (h_regs : Has l .regs) (h_ptns : Has l .ptns) (h_pool : Has l .pool) (h_mer : Has l .mer) (h_plat : Has l .plat) (h_tens : Has l .tens) (h_trv : Has l .trv) (h_hostMem : Has l .hostMem) (h_msixHeld : Has l .msixHeld) (h_emitted : Has l .emitted) (h_fresh : Has l .fresh) :
    ∀ s x1, blank l (lateConversion s x1) = blank l s := by
  intro s x1
  unfold lateConversion
  dsimp only
  (repeat' (split)) <;> first | with_reducible rfl | simp (disch := assumption) only [↓addSat_keeps, ↓lateTrigger_keeps, ↓releaseBarrier_keeps, ↓blank_trv, ↓apply_ite (blank l), ite_self]

theorem effTriggerConversion_keeps {l : List Comp} (h_regs : Has l .regs) (h_ptns : Has l .ptns) (h_pool : Has l .pool) (h_mer : Has l .mer) (h_plat : Has l .plat) (h_tens : Has l .tens) (h_trv : Has l .trv) (h_hostMem : Has l .hostMem) (h_msixHeld : Has l .msixHeld) (h_emitted : Has l .emitted) (h_fresh : Has l .fresh) :
    ∀ x0 s, blank l (effTriggerConversion x0 s) = blank l s := by
  intro x0 s
  unfold effTriggerConversion
  simp (disch := assumption) only [↓lateConversion_keeps, ↓blank_mer, ↓apply_ite (blank l), ite_self]

theorem fireRole_keeps {l : List Comp} (h_regs : Has l .regs) (h_eff : Has l .eff) (h_cap : Has l .cap) (h_sealAt : Has l .sealAt) (h_stns : Has l .stns) (h_movs : Has l .movs) (h_plat : Has l .plat) (h_fhps : Has l .fhps) (h_trv : Has l .trv) (h_pwr : Has l .pwr) (h_msixHeld : Has l .msixHeld) (h_emitted : Has l .emitted) (h_fresh : Has l .fresh) :
    ∀ s x1, blank l (fireRole s x1) = blank l s := by
  intro s x1
  unfold fireRole
  (repeat' (split)) <;> first | with_reducible rfl | simp (disch := assumption) only [↓wr_keeps, ↓setEvt_keeps, ↓openWindow_keeps, ↓capture_keeps, ↓platStart_keeps, ↓blank_trv, ↓apply_ite (blank l), ite_self]

theorem afterFire_keeps {l : List Comp} (h_regs : Has l .regs) (h_mer : Has l .mer) :
    ∀ s x1, blank l (afterFire s x1) = blank l s := by
  intro s x1
  unfold afterFire
  simp (disch := assumption) only [↓wr_keeps, ↓disarmTrigger_keeps, ↓blank_mer, ↓apply_ite (blank l), ite_self]

theorem effTriggerFire_keeps {l : List Comp} (h_regs : Has l .regs) (h_eff : Has l .eff) (h_cap : Has l .cap) (h_sealAt : Has l .sealAt) (h_stns : Has l .stns) (h_movs : Has l .movs) (h_mer : Has l .mer) (h_plat : Has l .plat) (h_fhps : Has l .fhps) (h_trv : Has l .trv) (h_pwr : Has l .pwr) (h_msixHeld : Has l .msixHeld) (h_emitted : Has l .emitted) (h_fresh : Has l .fresh) :
    ∀ x0 s, blank l (effTriggerFire x0 s) = blank l s := by
  intro x0 s
  unfold effTriggerFire
  (repeat' (split)) <;> first | with_reducible rfl | simp (disch := assumption) only [↓fireRole_keeps, ↓afterFire_keeps, ↓apply_ite (blank l), ite_self]

end Sys2Proof.Machine
end

