-- ==== Sys2Proof/Laws/KeepMonument.lean ====
section
/-! SUPPORT. What each operation of Machine/Monument.lean leaves as it was. -/

set_option linter.unusedSimpArgs false

namespace Sys2Proof.Machine

theorem nextDraw_keeps {l : List Comp} (h_mon : Has l .mon) :
    ∀ s, blank l (nextDraw s) = blank l s := by
  intro s
  unfold nextDraw
  simp (disch := assumption) only [↓blank_mon]

theorem requestReport_keeps {l : List Comp} (h_regs : Has l .regs) (h_mon : Has l .mon) :
    ∀ s x1, blank l (requestReport s x1) = blank l s := by
  intro s x1
  unfold requestReport
  (repeat' (split)) <;> first | with_reducible rfl | simp (disch := assumption) only [↓wr_keeps, ↓blank_mon, ↓apply_ite (blank l), ite_self]

theorem effAttestGo_keeps {l : List Comp} (h_regs : Has l .regs) (h_mon : Has l .mon) (h_msixHeld : Has l .msixHeld) (h_emitted : Has l .emitted) :
    ∀ x0 x1 s, blank l (effAttestGo x0 x1 s) = blank l s := by
  intro x0 x1 s
  unfold effAttestGo
  split
  · rfl
  · apply withWrite_keeps <;> first | assumption | skip
    intro t
    simp (disch := assumption) only [↓withWrite_keeps, ↓requestReport_keeps, ↓blank_mon, ↓blank_regs, ↓blank_msixHeld, ↓blank_emitted, ↓apply_ite (blank l), ↓apply_ite Prod.snd, ite_self]

theorem endReport_keeps {l : List Comp} (h_regs : Has l .regs) (h_msixHeld : Has l .msixHeld) (h_emitted : Has l .emitted) :
    ∀ s x1 x2, blank l (endReport s x1 x2) = blank l s := by
  intro s x1 x2
  unfold endReport
  (repeat' (split)) <;> first | with_reducible rfl | simp (disch := assumption) only [↓wr_keeps, ↓addSat_keeps, ↓setErr_keeps, ↓setEvt_keeps, ↓apply_ite (blank l), ite_self]

theorem serveReport_keeps {l : List Comp} (h_regs : Has l .regs) (h_pool : Has l .pool) (h_tens : Has l .tens) (h_mon : Has l .mon) (h_msixHeld : Has l .msixHeld) (h_emitted : Has l .emitted) (h_fresh : Has l .fresh) :
    ∀ s x1 x2, blank l (serveReport s x1 x2) = blank l s := by
  intro s x1 x2
  unfold serveReport
  dsimp only
  (repeat' (split <;> (try (rename_i heq; have hh := congrArg Prod.snd heq; dsimp only at hh; subst hh)))) <;> first | with_reducible rfl | simp (disch := assumption) only [↓hwPost_keeps, ↓nextDraw_keeps, ↓endReport_keeps, ↓apply_ite (blank l), ite_self]

theorem effAttestReport_keeps {l : List Comp} (h_regs : Has l .regs) (h_pool : Has l .pool) (h_tens : Has l .tens) (h_mon : Has l .mon) (h_msixHeld : Has l .msixHeld) (h_emitted : Has l .emitted) (h_fresh : Has l .fresh) :
    ∀ x0 s, blank l (effAttestReport x0 s) = blank l s := by
  intro x0 s
  unfold effAttestReport
  (repeat' (split)) <;> first | with_reducible rfl | simp (disch := assumption) only [↓serveReport_keeps, ↓blank_mon, ↓apply_ite (blank l), ite_self]

theorem effAnchorSet_keeps {l : List Comp} (h_mon : Has l .mon) (h_emitted : Has l .emitted) :
    ∀ x0 x1 x2 s, blank l (effAnchorSet x0 x1 x2 s) = blank l s := by
  intro x0 x1 x2 s
  unfold effAnchorSet
  (repeat' (split)) <;> first | with_reducible rfl | simp (disch := assumption) only [↓mgmtAnswer_keeps, ↓blank_mon, ↓apply_ite (blank l), ite_self]

theorem effInjPolicy_keeps {l : List Comp} (h_mon : Has l .mon) (h_emitted : Has l .emitted) :
    ∀ x0 s, blank l (effInjPolicy x0 s) = blank l s := by
  intro x0 s
  unfold effInjPolicy
  simp (disch := assumption) only [↓mgmtAnswer_keeps, ↓blank_mon, ↓apply_ite (blank l), ite_self]

theorem lockAnswer_keeps {l : List Comp} (h_emitted : Has l .emitted) :
    ∀ s x1 x2, blank l (lockAnswer s x1 x2) = blank l s := by
  intro s x1 x2
  unfold lockAnswer
  simp (disch := assumption) only [↓mgmtAnswer_keeps, ↓apply_ite (blank l), ite_self]

theorem effDbgChallenge_keeps {l : List Comp} (h_mon : Has l .mon) (h_emitted : Has l .emitted) :
    ∀ s, blank l (effDbgChallenge s) = blank l s := by
  intro s
  unfold effDbgChallenge
  simp (disch := assumption) only [↓nextDraw_keeps, ↓lockAnswer_keeps, ↓blank_mon, ↓apply_ite (blank l), ite_self]

theorem effChallengeExpiry_keeps {l : List Comp} (h_mon : Has l .mon) :
    ∀ s, blank l (effChallengeExpiry s) = blank l s := by
  intro s
  unfold effChallengeExpiry
  (repeat' (split)) <;> first | with_reducible rfl | simp (disch := assumption) only [↓blank_mon, ↓apply_ite (blank l), ite_self]

theorem destroyAll_keeps {l : List Comp} (h_regs : Has l .regs) (h_eff : Has l .eff) (h_cap : Has l .cap) (h_sealAt : Has l .sealAt) (h_stns : Has l .stns) (h_ptns : Has l .ptns) (h_migs : Has l .migs) (h_tierHeld : Has l .tierHeld) (h_movs : Has l .movs) (h_xlate : Has l .xlate) (h_pool : Has l .pool) (h_mer : Has l .mer) (h_plat : Has l .plat) (h_tens : Has l .tens) (h_cdus : Has l .cdus) (h_book : Has l .book) (h_fhps : Has l .fhps) (h_fhqs : Has l .fhqs) (h_flows : Has l .flows) (h_flowSeq : Has l .flowSeq) (h_trv : Has l .trv) (h_hlt : Has l .hlt) (h_pwr : Has l .pwr) (h_msixHeld : Has l .msixHeld) :
    ∀ s, blank l (destroyAll s) = blank l s := by
  intro s
  unfold destroyAll
  (repeat' (split)) <;> first | with_reducible rfl | simp (disch := first | assumption | (intro t x; first | with_reducible rfl | simp (disch := assumption) only [↓clearPage_keeps, ↓blocksReset_keeps, ↓registersReset_keeps, ↓blank_flows, ↓blank_hlt, ↓blank_plat, ↓blank_trv, ↓blank_ptns_migs_hlt, ↓blank_ptns, ↓blank_tierHeld, ↓blank_tens, ↓blank_migs, ↓blank_tierHeld_plat_tens_book_flows_trv, ↓blank_book] | ((repeat' (split)) <;> first | with_reducible rfl | simp (disch := assumption) only [↓clearPage_keeps, ↓blocksReset_keeps, ↓registersReset_keeps, ↓blank_flows, ↓blank_hlt, ↓blank_plat, ↓blank_trv, ↓blank_ptns_migs_hlt, ↓blank_ptns, ↓blank_tierHeld, ↓blank_tens, ↓blank_migs, ↓blank_tierHeld_plat_tens_book_flows_trv, ↓blank_book] | rfl))) only [↓clearPage_keeps, ↓blocksReset_keeps, ↓registersReset_keeps, ↓blank_flows, ↓blank_hlt, ↓blank_plat, ↓blank_trv, ↓blank_ptns_migs_hlt, ↓blank_ptns, ↓blank_tierHeld, ↓blank_tens, ↓blank_migs, ↓blank_tierHeld_plat_tens_book_flows_trv, ↓blank_book, ↓foldl_keeps, ↓foldr_keeps, ↓forUpTo_keeps, ↓foldl_snd_keeps]

theorem keepFence_keeps {l : List Comp} (h_regs : Has l .regs) :
    ∀ s x1, blank l (keepFence s x1) = blank l s := by
  intro s x1
  unfold keepFence
  simp (disch := assumption) only [↓wr_keeps, ↓apply_ite (blank l), ite_self]

theorem startErase_keeps {l : List Comp} (h_stage : Has l .stage) (h_regs : Has l .regs) (h_eff : Has l .eff) (h_cap : Has l .cap) (h_sealAt : Has l .sealAt) (h_stns : Has l .stns) (h_ptns : Has l .ptns) (h_migs : Has l .migs) (h_tierHeld : Has l .tierHeld) (h_movs : Has l .movs) (h_xlate : Has l .xlate) (h_pool : Has l .pool) (h_mer : Has l .mer) (h_plat : Has l .plat) (h_tens : Has l .tens) (h_cdus : Has l .cdus) (h_book : Has l .book) (h_fhps : Has l .fhps) (h_fhqs : Has l .fhqs) (h_flows : Has l .flows) (h_flowSeq : Has l .flowSeq) (h_trv : Has l .trv) (h_hlt : Has l .hlt) (h_mon : Has l .mon) (h_pwr : Has l .pwr) (h_hostMem : Has l .hostMem) (h_msixHeld : Has l .msixHeld) (h_emitted : Has l .emitted) (h_fresh : Has l .fresh) :
    ∀ s x1, blank l (startErase s x1) = blank l s := by
  intro s x1
  unfold startErase
  simp (disch := assumption) only [↓wr_keeps, ↓emit_keeps, ↓setEvt_keeps, ↓fenceNow_keeps, ↓destroyAll_keeps, ↓keepFence_keeps, ↓blank_mon, ↓blank_stage, ↓blank_stage_mon, ↓apply_ite (blank l), ite_self]

theorem effDbgUnlock_keeps {l : List Comp} (h_stage : Has l .stage) (h_regs : Has l .regs) (h_eff : Has l .eff) (h_cap : Has l .cap) (h_sealAt : Has l .sealAt) (h_stns : Has l .stns) (h_ptns : Has l .ptns) (h_migs : Has l .migs) (h_tierHeld : Has l .tierHeld) (h_movs : Has l .movs) (h_xlate : Has l .xlate) (h_pool : Has l .pool) (h_mer : Has l .mer) (h_plat : Has l .plat) (h_tens : Has l .tens) (h_cdus : Has l .cdus) (h_book : Has l .book) (h_fhps : Has l .fhps) (h_fhqs : Has l .fhqs) (h_flows : Has l .flows) (h_flowSeq : Has l .flowSeq) (h_trv : Has l .trv) (h_hlt : Has l .hlt) (h_mon : Has l .mon) (h_pwr : Has l .pwr) (h_hostMem : Has l .hostMem) (h_msixHeld : Has l .msixHeld) (h_emitted : Has l .emitted) (h_fresh : Has l .fresh) :
    ∀ x0 s, blank l (effDbgUnlock x0 s) = blank l s := by
  intro x0 s
  unfold effDbgUnlock
  simp (disch := assumption) only [↓addSat_keeps, ↓lockAnswer_keeps, ↓startErase_keeps, ↓apply_ite (blank l), ite_self]

theorem openDebug_keeps {l : List Comp} (h_regs : Has l .regs) (h_mon : Has l .mon) (h_msixHeld : Has l .msixHeld) (h_emitted : Has l .emitted) :
    ∀ s, blank l (openDebug s) = blank l s := by
  intro s
  unfold openDebug
  simp (disch := assumption) only [↓wr_keeps, ↓emit_keeps, ↓setEvt_keeps, ↓extendM_keeps, ↓blank_mon]

theorem effDebugEraseComplete_keeps {l : List Comp} (h_stage : Has l .stage) (h_regs : Has l .regs) (h_eff : Has l .eff) (h_cap : Has l .cap) (h_sealAt : Has l .sealAt) (h_stns : Has l .stns) (h_ptns : Has l .ptns) (h_migs : Has l .migs) (h_locs : Has l .locs) (h_spillFreed : Has l .spillFreed) (h_tierHeld : Has l .tierHeld) (h_movs : Has l .movs) (h_xlate : Has l .xlate) (h_pool : Has l .pool) (h_mer : Has l .mer) (h_plat : Has l .plat) (h_tens : Has l .tens) (h_cdus : Has l .cdus) (h_book : Has l .book) (h_fhps : Has l .fhps) (h_fhqs : Has l .fhqs) (h_flows : Has l .flows) (h_flowSeq : Has l .flowSeq) (h_trv : Has l .trv) (h_hlt : Has l .hlt) (h_mon : Has l .mon) (h_pwr : Has l .pwr) (h_hostMem : Has l .hostMem) (h_bme : Has l .bme) (h_msixOff : Has l .msixOff) (h_msixHeld : Has l .msixHeld) (h_emitted : Has l .emitted) (h_fresh : Has l .fresh) :
    ∀ s, blank l (effDebugEraseComplete s) = blank l s := by
  intro s
  unfold effDebugEraseComplete
  split
  · dsimp only
    split
    · simp (disch := assumption) only [↓wr_keeps, ↓warmNow_keeps, ↓openDebug_keeps, ↓blank_flows, ↓blank_msixOff_msixHeld, ↓blank_cdus, ↓blank_hlt, ↓blank_pool, ↓blank_hostMem, ↓blank_plat, ↓blank_pool_fresh, ↓blank_trv, ↓blank_ptns_migs_hlt, ↓blank_mon, ↓blank_eff, ↓blank_regs_eff_sealAt, ↓blank_ptns, ↓blank_stage, ↓blank_regs, ↓blank_bme_msixOff, ↓blank_tierHeld, ↓blank_bme_msixOff_msixHeld, ↓blank_tens, ↓blank_pwr, ↓blank_locs, ↓blank_stage_locs, ↓blank_msixHeld, ↓blank_flowSeq, ↓blank_xlate, ↓blank_migs, ↓blank_sealAt, ↓blank_mer, ↓blank_stage_hlt_mon, ↓blank_stns_tierHeld_movs_xlate_pool_mer_plat_tens_cdus_book_fhps_fhqs_flows_flowSeq_trv_pwr_msixHeld, ↓blank_bme, ↓blank_fresh, ↓blank_regs_eff_cap_sealAt, ↓blank_plat_pwr, ↓blank_cap, ↓blank_movs, ↓blank_stns, ↓blank_fhqs, ↓blank_stage_pwr, ↓blank_spillFreed, ↓blank_tierHeld_plat_tens_book_flows_trv, ↓blank_book, ↓blank_stage_mon, ↓blank_fhps, ↓blank_emitted, ↓apply_ite (blank l), ↓apply_ite Prod.snd, ite_self]
    · rw [warmNow_keeps] <;> first | assumption | simp (disch := assumption) only [↓wr_keeps, ↓warmNow_keeps, ↓openDebug_keeps, ↓blank_flows, ↓blank_msixOff_msixHeld, ↓blank_cdus, ↓blank_hlt, ↓blank_pool, ↓blank_hostMem, ↓blank_plat, ↓blank_pool_fresh, ↓blank_trv, ↓blank_ptns_migs_hlt, ↓blank_mon, ↓blank_eff, ↓blank_regs_eff_sealAt, ↓blank_ptns, ↓blank_stage, ↓blank_regs, ↓blank_bme_msixOff, ↓blank_tierHeld, ↓blank_bme_msixOff_msixHeld, ↓blank_tens, ↓blank_pwr, ↓blank_locs, ↓blank_stage_locs, ↓blank_msixHeld, ↓blank_flowSeq, ↓blank_xlate, ↓blank_migs, ↓blank_sealAt, ↓blank_mer, ↓blank_stage_hlt_mon, ↓blank_stns_tierHeld_movs_xlate_pool_mer_plat_tens_cdus_book_fhps_fhqs_flows_flowSeq_trv_pwr_msixHeld, ↓blank_bme, ↓blank_fresh, ↓blank_regs_eff_cap_sealAt, ↓blank_plat_pwr, ↓blank_cap, ↓blank_movs, ↓blank_stns, ↓blank_fhqs, ↓blank_stage_pwr, ↓blank_spillFreed, ↓blank_tierHeld_plat_tens_book_flows_trv, ↓blank_book, ↓blank_stage_mon, ↓blank_fhps, ↓blank_emitted, ↓apply_ite (blank l), ↓apply_ite Prod.snd, ite_self]
  · rfl

theorem effFirmwareUpdate_keeps {l : List Comp} (h_mon : Has l .mon) (h_emitted : Has l .emitted) :
    ∀ x0 x1 x2 s, blank l (effFirmwareUpdate x0 x1 x2 s) = blank l s := by
  intro x0 x1 x2 s
  unfold effFirmwareUpdate
  simp (disch := assumption) only [↓mgmtAnswer_keeps, ↓blank_mon, ↓apply_ite (blank l), ite_self]

theorem effGetCertificate_keeps {l : List Comp} (h_emitted : Has l .emitted) :
    ∀ x0 x1 x2 s, blank l (effGetCertificate x0 x1 x2 s) = blank l s := by
  intro x0 x1 x2 s
  unfold effGetCertificate
  simp (disch := assumption) only [↓mgmtAnswer_keeps, ↓apply_ite (blank l), ite_self]

theorem effChallenge_keeps {l : List Comp} (h_mon : Has l .mon) (h_emitted : Has l .emitted) :
    ∀ x0 x1 s, blank l (effChallenge x0 x1 s) = blank l s := by
  intro x0 x1 s
  unfold effChallenge
  simp (disch := assumption) only [↓mgmtAnswer_keeps, ↓nextDraw_keeps, ↓apply_ite (blank l), ite_self]

theorem effGetMeasurements_keeps {l : List Comp} (h_emitted : Has l .emitted) :
    ∀ x0 s, blank l (effGetMeasurements x0 s) = blank l s := by
  intro x0 s
  unfold effGetMeasurements
  simp (disch := assumption) only [↓mgmtAnswer_keeps, ↓apply_ite (blank l), ite_self]

theorem effSetEndpointId_keeps {l : List Comp} (h_mon : Has l .mon) (h_emitted : Has l .emitted) :
    ∀ x0 s, blank l (effSetEndpointId x0 s) = blank l s := by
  intro x0 s
  unfold effSetEndpointId
  simp (disch := assumption) only [↓mgmtAnswer_keeps, ↓blank_mon, ↓apply_ite (blank l), ite_self]

end Sys2Proof.Machine
end

