-- ==== Sys2Proof/Laws/KeepParcelQueues.lean ====
section
/-! SUPPORT. What each operation of Machine/ParcelQueues.lean leaves as it was. -/

set_option linter.unusedSimpArgs false

namespace Sys2Proof.Machine

theorem pageStatus_keeps {l : List Comp} (h_regs : Has l .regs) (h_msixHeld : Has l .msixHeld) (h_emitted : Has l .emitted) :
    ∀ s x1 x2, blank l (pageStatus s x1 x2) = blank l s := by
  intro s x1 x2
  unfold pageStatus
  simp (disch := assumption) only [↓wr_keeps, ↓setErr_keeps, ↓apply_ite (blank l), ite_self]

theorem withPq_keeps {l : List Comp} (h_regs : Has l .regs) (h_msixHeld : Has l .msixHeld) (h_emitted : Has l .emitted) :
    ∀ s x1 x2 x3 x4 x5, (∀ y0 y1, blank l (x4 y0 y1) = blank l y1) → (∀ y0 y1 y2, blank l (x5 y0 y1 y2) = blank l y2) → blank l (withPq s x1 x2 x3 x4 x5) = blank l s := by
  intro s x1 x2 x3 x4 x5 hf0 hf1
  unfold withPq
  (repeat' (split)) <;> first | with_reducible rfl | simp (disch := assumption) only [↓denyAccess_keeps, ↓apply_ite (blank l), ite_self, ↓hf0, ↓hf1]

theorem effReserve_keeps {l : List Comp} (h_regs : Has l .regs) (h_pool : Has l .pool) (h_msixHeld : Has l .msixHeld) (h_emitted : Has l .emitted) (h_fresh : Has l .fresh) :
    ∀ x0 x1 x2 x3 s, blank l (effReserve x0 x1 x2 x3 s) = blank l s := by
  intro x0 x1 x2 x3 s
  unfold effReserve
  apply withPq_keeps <;> first | assumption | skip
  · intro f t
    ((repeat' (split <;> (try (rename_i heq; have hh := congrArg Prod.snd heq; dsimp only at hh; subst hh)))) <;> first | with_reducible rfl | simp (disch := assumption) only [↓wr_keeps, ↓reserveNow_keeps, ↓reserveWait_keeps, ↓pageStatus_keeps, ↓withPq_keeps, ↓blank_pool, ↓blank_pool_fresh, ↓blank_regs, ↓blank_msixHeld, ↓blank_fresh, ↓blank_emitted, ↓apply_ite (blank l), ↓apply_ite Prod.snd, ite_self])
  · intro a w t
    dsimp only
    have h : ∀ c : Bool, ∀ r : ResWait, ∀ i j k m, blank l (if c then reserveWait t x1 r else reserveNow t x1 i j k m).2 = blank l t := by
      intro c r i j k m
      ((repeat' (split <;> (try (rename_i heq; have hh := congrArg Prod.snd heq; dsimp only at hh; subst hh)))) <;> first | with_reducible rfl | simp (disch := assumption) only [↓wr_keeps, ↓reserveNow_keeps, ↓reserveWait_keeps, ↓pageStatus_keeps, ↓withPq_keeps, ↓blank_pool, ↓blank_pool_fresh, ↓blank_regs, ↓blank_msixHeld, ↓blank_fresh, ↓blank_emitted, ↓apply_ite (blank l), ↓apply_ite Prod.snd, ite_self])
    split <;> rename_i heq <;> have hh := congrArg Prod.snd heq <;> dsimp only at hh <;> subst hh <;> (try simp (disch := assumption) only [↓wr_keeps, ↓reserveNow_keeps, ↓reserveWait_keeps, ↓pageStatus_keeps, ↓withPq_keeps, ↓blank_pool, ↓blank_pool_fresh, ↓blank_regs, ↓blank_msixHeld, ↓blank_fresh, ↓blank_emitted, ↓apply_ite (blank l), ↓apply_ite Prod.snd, ite_self]) <;> exact h _ _ _ _ _ _

theorem effCommit_keeps {l : List Comp} (h_regs : Has l .regs) (h_ptns : Has l .ptns) (h_pool : Has l .pool) (h_plat : Has l .plat) (h_tens : Has l .tens) (h_hostMem : Has l .hostMem) (h_msixHeld : Has l .msixHeld) (h_emitted : Has l .emitted) (h_fresh : Has l .fresh) :
    ∀ x0 x1 x2 x3 s, blank l (effCommit x0 x1 x2 x3 s) = blank l s := by
  intro x0 x1 x2 x3 s
  unfold effCommit
  dsimp only
  (repeat' (split <;> (try (rename_i heq; have hh := congrArg Prod.snd heq; dsimp only at hh; subst hh)))) <;> first | with_reducible rfl | simp (disch := first | assumption | (intros; (first | with_reducible rfl | simp (disch := assumption) only [↓commitOp_keeps, ↓pageStatus_keeps, ↓withPq_keeps, ↓blank_pool, ↓blank_hostMem, ↓blank_plat, ↓blank_pool_fresh, ↓blank_ptns, ↓blank_regs, ↓blank_tens, ↓blank_msixHeld, ↓blank_fresh, ↓blank_emitted, ↓apply_ite (blank l), ↓apply_ite Prod.snd, ite_self] | (try dsimp only; (repeat' (split <;> (try (rename_i heq; have hh := congrArg Prod.snd heq; dsimp only at hh; subst hh)))) <;> first | done | with_reducible rfl | simp (disch := assumption) only [↓commitOp_keeps, ↓pageStatus_keeps, ↓withPq_keeps, ↓blank_pool, ↓blank_hostMem, ↓blank_plat, ↓blank_pool_fresh, ↓blank_ptns, ↓blank_regs, ↓blank_tens, ↓blank_msixHeld, ↓blank_fresh, ↓blank_emitted, ↓apply_ite (blank l), ↓apply_ite Prod.snd, ite_self] | rfl)))) only [↓commitOp_keeps, ↓pageStatus_keeps, ↓withPq_keeps, ↓blank_pool, ↓blank_hostMem, ↓blank_plat, ↓blank_pool_fresh, ↓blank_ptns, ↓blank_regs, ↓blank_tens, ↓blank_msixHeld, ↓blank_fresh, ↓blank_emitted, ↓apply_ite (blank l), ↓apply_ite Prod.snd, ite_self, ↓foldl_keeps, ↓foldr_keeps, ↓forUpTo_keeps, ↓foldl_snd_keeps] | rfl

theorem pageRead_keeps {l : List Comp} (h_regs : Has l .regs) (h_pool : Has l .pool) (h_msixHeld : Has l .msixHeld) (h_emitted : Has l .emitted) :
    ∀ s x1, blank l (pageRead s x1) = blank l s := by
  intro s x1
  unfold pageRead
  dsimp only
  (repeat' (split)) <;> first | with_reducible rfl | simp (disch := assumption) only [↓wr_keeps, ↓deliver_keeps, ↓pageStatus_keeps, ↓apply_ite (blank l), ite_self]

theorem effRead_keeps {l : List Comp} (h_regs : Has l .regs) (h_pool : Has l .pool) (h_msixHeld : Has l .msixHeld) (h_emitted : Has l .emitted) :
    ∀ x0 x1 s, blank l (effRead x0 x1 s) = blank l s := by
  intro x0 x1 s
  unfold effRead
  apply withPq_keeps <;> first | assumption | skip
  · intro f t
    ((repeat' (split <;> (try (rename_i heq; have hh := congrArg Prod.snd heq; dsimp only at hh; subst hh)))) <;> first | with_reducible rfl | simp (disch := assumption) only [↓hwRead_keeps, ↓withPq_keeps, ↓pageRead_keeps, ↓blank_pool, ↓blank_regs, ↓blank_msixHeld, ↓blank_emitted, ↓apply_ite (blank l), ↓apply_ite Prod.snd, ite_self])
  · intro a w t
    ((repeat' (split <;> (try (rename_i heq; have hh := congrArg Prod.snd heq; dsimp only at hh; subst hh)))) <;> first | with_reducible rfl | simp (disch := assumption) only [↓hwRead_keeps, ↓withPq_keeps, ↓pageRead_keeps, ↓blank_pool, ↓blank_regs, ↓blank_msixHeld, ↓blank_emitted, ↓apply_ite (blank l), ↓apply_ite Prod.snd, ite_self])

theorem simpleOp_keeps {l : List Comp} (h_regs : Has l .regs) (h_msixHeld : Has l .msixHeld) (h_emitted : Has l .emitted) :
    ∀ x0 x1 s x3, (∀ y0, blank l (x3 y0) = blank l y0) → blank l (simpleOp x0 x1 s x3) = blank l s := by
  intro x0 x1 s x3 hf0
  unfold simpleOp
  apply withPq_keeps <;> first | assumption | skip
  · intro f t
    ((repeat' (split)) <;> first | with_reducible rfl | simp (disch := assumption) only [↓pageStatus_keeps, ↓withPq_keeps, ↓blank_regs, ↓blank_msixHeld, ↓blank_emitted, ↓apply_ite (blank l), ↓apply_ite Prod.snd, ite_self, ↓hf0])
  · intro a w t
    ((repeat' (split)) <;> first | with_reducible rfl | simp (disch := assumption) only [↓pageStatus_keeps, ↓withPq_keeps, ↓blank_regs, ↓blank_msixHeld, ↓blank_emitted, ↓apply_ite (blank l), ↓apply_ite Prod.snd, ite_self, ↓hf0])

theorem markQueue_keeps {l : List Comp} (h_pool : Has l .pool) :
    ∀ s x1, blank l (markQueue s x1) = blank l s := by
  intro s x1
  unfold markQueue
  simp (disch := assumption) only [↓setQueue_keeps]

theorem effMark_keeps {l : List Comp} (h_regs : Has l .regs) (h_pool : Has l .pool) (h_msixHeld : Has l .msixHeld) (h_emitted : Has l .emitted) :
    ∀ x0 x1 s, blank l (effMark x0 x1 s) = blank l s := by
  intro x0 x1 s
  unfold effMark
  simp (disch := first | assumption | (intros; (first | with_reducible rfl | simp (disch := assumption) only [↓simpleOp_keeps, ↓markQueue_keeps, ↓blank_pool, ↓blank_regs, ↓blank_msixHeld, ↓blank_emitted, ↓apply_ite (blank l), ↓apply_ite Prod.snd, ite_self] | (try dsimp only; (repeat' (split)) <;> first | done | with_reducible rfl | simp (disch := assumption) only [↓simpleOp_keeps, ↓markQueue_keeps, ↓blank_pool, ↓blank_regs, ↓blank_msixHeld, ↓blank_emitted, ↓apply_ite (blank l), ↓apply_ite Prod.snd, ite_self] | rfl)))) only [↓simpleOp_keeps, ↓markQueue_keeps, ↓blank_pool, ↓blank_regs, ↓blank_msixHeld, ↓blank_emitted, ↓apply_ite (blank l), ↓apply_ite Prod.snd, ite_self, ↓foldl_keeps, ↓foldr_keeps, ↓forUpTo_keeps, ↓foldl_snd_keeps]

theorem rewindQueue_keeps {l : List Comp} (h_regs : Has l .regs) (h_pool : Has l .pool) (h_tens : Has l .tens) (h_msixHeld : Has l .msixHeld) (h_emitted : Has l .emitted) :
    ∀ s x1, blank l (rewindQueue s x1) = blank l s := by
  intro s x1
  unfold rewindQueue
  simp (disch := assumption) only [↓setQueue_keeps, ↓noteNonempty_keeps, ↓wake_keeps]

theorem effRewind_keeps {l : List Comp} (h_regs : Has l .regs) (h_pool : Has l .pool) (h_tens : Has l .tens) (h_msixHeld : Has l .msixHeld) (h_emitted : Has l .emitted) :
    ∀ x0 x1 s, blank l (effRewind x0 x1 s) = blank l s := by
  intro x0 x1 s
  unfold effRewind
  simp (disch := first | assumption | (intros; (first | with_reducible rfl | simp (disch := assumption) only [↓simpleOp_keeps, ↓rewindQueue_keeps, ↓blank_pool, ↓blank_regs, ↓blank_tens, ↓blank_msixHeld, ↓blank_emitted, ↓apply_ite (blank l), ↓apply_ite Prod.snd, ite_self] | (try dsimp only; (repeat' (split)) <;> first | done | with_reducible rfl | simp (disch := assumption) only [↓simpleOp_keeps, ↓rewindQueue_keeps, ↓blank_pool, ↓blank_regs, ↓blank_tens, ↓blank_msixHeld, ↓blank_emitted, ↓apply_ite (blank l), ↓apply_ite Prod.snd, ite_self] | rfl)))) only [↓simpleOp_keeps, ↓rewindQueue_keeps, ↓blank_pool, ↓blank_regs, ↓blank_tens, ↓blank_msixHeld, ↓blank_emitted, ↓apply_ite (blank l), ↓apply_ite Prod.snd, ite_self, ↓foldl_keeps, ↓foldr_keeps, ↓forUpTo_keeps, ↓foldl_snd_keeps]

theorem releaseQueue_keeps {l : List Comp} (h_regs : Has l .regs) (h_ptns : Has l .ptns) (h_pool : Has l .pool) (h_hostMem : Has l .hostMem) (h_emitted : Has l .emitted) :
    ∀ s x1, blank l (releaseQueue s x1) = blank l s := by
  intro s x1
  unfold releaseQueue
  (repeat' (split)) <;> first | with_reducible rfl | simp (disch := first | assumption | (intro t x; first | with_reducible rfl | simp (disch := assumption) only [↓releaseAs_keeps] | ((repeat' (split)) <;> first | with_reducible rfl | simp (disch := assumption) only [↓releaseAs_keeps] | rfl))) only [↓releaseAs_keeps, ↓foldl_keeps, ↓foldr_keeps, ↓forUpTo_keeps, ↓foldl_snd_keeps]

theorem effRelease_keeps {l : List Comp} (h_regs : Has l .regs) (h_ptns : Has l .ptns) (h_pool : Has l .pool) (h_hostMem : Has l .hostMem) (h_msixHeld : Has l .msixHeld) (h_emitted : Has l .emitted) :
    ∀ x0 x1 s, blank l (effRelease x0 x1 s) = blank l s := by
  intro x0 x1 s
  unfold effRelease
  simp (disch := first | assumption | (intros; (first | with_reducible rfl | simp (disch := assumption) only [↓simpleOp_keeps, ↓releaseQueue_keeps, ↓blank_pool, ↓blank_hostMem, ↓blank_ptns, ↓blank_regs, ↓blank_msixHeld, ↓blank_emitted, ↓apply_ite (blank l), ↓apply_ite Prod.snd, ite_self] | (try dsimp only; (repeat' (split)) <;> first | done | with_reducible rfl | simp (disch := assumption) only [↓simpleOp_keeps, ↓releaseQueue_keeps, ↓blank_pool, ↓blank_hostMem, ↓blank_ptns, ↓blank_regs, ↓blank_msixHeld, ↓blank_emitted, ↓apply_ite (blank l), ↓apply_ite Prod.snd, ite_self] | rfl)))) only [↓simpleOp_keeps, ↓releaseQueue_keeps, ↓blank_pool, ↓blank_hostMem, ↓blank_ptns, ↓blank_regs, ↓blank_msixHeld, ↓blank_emitted, ↓apply_ite (blank l), ↓apply_ite Prod.snd, ite_self, ↓foldl_keeps, ↓foldr_keeps, ↓forUpTo_keeps, ↓foldl_snd_keeps]

theorem releaseH_keeps {l : List Comp} (h_regs : Has l .regs) (h_ptns : Has l .ptns) (h_pool : Has l .pool) (h_hostMem : Has l .hostMem) (h_emitted : Has l .emitted) :
    ∀ s x1 x2, blank l (releaseH s x1 x2).2 = blank l s := by
  intro s x1 x2
  unfold releaseH
  (repeat' (split)) <;> first | with_reducible rfl | simp (disch := assumption) only [↓releaseAs_keeps, ↓apply_ite (blank l), ↓apply_ite Prod.snd, ite_self]

theorem effReleaseH_keeps {l : List Comp} (h_regs : Has l .regs) (h_ptns : Has l .ptns) (h_pool : Has l .pool) (h_hostMem : Has l .hostMem) (h_msixHeld : Has l .msixHeld) (h_emitted : Has l .emitted) :
    ∀ x0 x1 x2 s, blank l (effReleaseH x0 x1 x2 s) = blank l s := by
  intro x0 x1 x2 s
  unfold effReleaseH
  dsimp only
  (repeat' (split <;> (try (rename_i heq; have hh := congrArg Prod.snd heq; dsimp only at hh; subst hh)))) <;> first | with_reducible rfl | simp (disch := first | assumption | (intros; (first | with_reducible rfl | simp (disch := assumption) only [↓pageStatus_keeps, ↓withPq_keeps, ↓releaseH_keeps, ↓blank_pool, ↓blank_hostMem, ↓blank_ptns, ↓blank_regs, ↓blank_msixHeld, ↓blank_emitted, ↓apply_ite (blank l), ↓apply_ite Prod.snd, ite_self] | (try dsimp only; (repeat' (split <;> (try (rename_i heq; have hh := congrArg Prod.snd heq; dsimp only at hh; subst hh)))) <;> first | done | with_reducible rfl | simp (disch := assumption) only [↓pageStatus_keeps, ↓withPq_keeps, ↓releaseH_keeps, ↓blank_pool, ↓blank_hostMem, ↓blank_ptns, ↓blank_regs, ↓blank_msixHeld, ↓blank_emitted, ↓apply_ite (blank l), ↓apply_ite Prod.snd, ite_self] | rfl)))) only [↓pageStatus_keeps, ↓withPq_keeps, ↓releaseH_keeps, ↓blank_pool, ↓blank_hostMem, ↓blank_ptns, ↓blank_regs, ↓blank_msixHeld, ↓blank_emitted, ↓apply_ite (blank l), ↓apply_ite Prod.snd, ite_self, ↓foldl_keeps, ↓foldr_keeps, ↓forUpTo_keeps, ↓foldl_snd_keeps] | rfl

theorem effWaitLimitExpiry_keeps {l : List Comp} (h_pool : Has l .pool) :
    ∀ x0 s, blank l (effWaitLimitExpiry x0 s) = blank l s := by
  intro x0 s
  unfold effWaitLimitExpiry
  simp (disch := assumption) only [↓setQueue_keeps, ↓wake_keeps, ↓blank_pool]

theorem effCellsFreed_keeps {l : List Comp} (h_regs : Has l .regs) (h_ptns : Has l .ptns) (h_pool : Has l .pool) (h_plat : Has l .plat) (h_tens : Has l .tens) (h_hostMem : Has l .hostMem) (h_msixHeld : Has l .msixHeld) (h_emitted : Has l .emitted) (h_fresh : Has l .fresh) :
    ∀ x0 s, blank l (effCellsFreed x0 s) = blank l s := by
  intro x0 s
  unfold effCellsFreed
  simp (disch := assumption) only [↓wipeAll_keeps, ↓retryLines_keeps, ↓blank_pool]

theorem effAbort_keeps {l : List Comp} (h_regs : Has l .regs) (h_ptns : Has l .ptns) (h_movs : Has l .movs) (h_pool : Has l .pool) (h_plat : Has l .plat) (h_hostMem : Has l .hostMem) (h_msixHeld : Has l .msixHeld) (h_emitted : Has l .emitted) :
    ∀ x0 x1 s, blank l (effAbort x0 x1 s) = blank l s := by
  intro x0 x1 s
  unfold effAbort
  simp (disch := first | assumption | (intros; (first | with_reducible rfl | simp (disch := assumption) only [↓withWrite_keeps, ↓abortQueue_keeps, ↓blank_pool, ↓blank_hostMem, ↓blank_plat, ↓blank_ptns, ↓blank_regs, ↓blank_msixHeld, ↓blank_movs, ↓blank_emitted, ↓apply_ite (blank l), ↓apply_ite Prod.snd, ite_self] | (try dsimp only; (repeat' (split)) <;> first | done | with_reducible rfl | simp (disch := assumption) only [↓withWrite_keeps, ↓abortQueue_keeps, ↓blank_pool, ↓blank_hostMem, ↓blank_plat, ↓blank_ptns, ↓blank_regs, ↓blank_msixHeld, ↓blank_movs, ↓blank_emitted, ↓apply_ite (blank l), ↓apply_ite Prod.snd, ite_self] | rfl)))) only [↓withWrite_keeps, ↓abortQueue_keeps, ↓blank_pool, ↓blank_hostMem, ↓blank_plat, ↓blank_ptns, ↓blank_regs, ↓blank_msixHeld, ↓blank_movs, ↓blank_emitted, ↓apply_ite (blank l), ↓apply_ite Prod.snd, ite_self, ↓foldl_keeps, ↓foldr_keeps, ↓forUpTo_keeps, ↓foldl_snd_keeps]

theorem effClear_keeps {l : List Comp} (h_regs : Has l .regs) (h_pool : Has l .pool) (h_msixHeld : Has l .msixHeld) (h_emitted : Has l .emitted) :
    ∀ x0 x1 s, blank l (effClear x0 x1 s) = blank l s := by
  intro x0 x1 s
  unfold effClear
  simp (disch := first | assumption | (intros; (first | with_reducible rfl | simp (disch := assumption) only [↓withWrite_keeps, ↓setQueue_keeps, ↓blank_pool, ↓blank_regs, ↓blank_msixHeld, ↓blank_emitted, ↓apply_ite (blank l), ↓apply_ite Prod.snd, ite_self] | (try dsimp only; (repeat' (split)) <;> first | done | with_reducible rfl | simp (disch := assumption) only [↓withWrite_keeps, ↓setQueue_keeps, ↓blank_pool, ↓blank_regs, ↓blank_msixHeld, ↓blank_emitted, ↓apply_ite (blank l), ↓apply_ite Prod.snd, ite_self] | rfl)))) only [↓withWrite_keeps, ↓setQueue_keeps, ↓blank_pool, ↓blank_regs, ↓blank_msixHeld, ↓blank_emitted, ↓apply_ite (blank l), ↓apply_ite Prod.snd, ite_self, ↓foldl_keeps, ↓foldr_keeps, ↓forUpTo_keeps, ↓foldl_snd_keeps]

theorem effQueueEnable_keeps {l : List Comp} (h_regs : Has l .regs) (h_ptns : Has l .ptns) (h_movs : Has l .movs) (h_pool : Has l .pool) (h_plat : Has l .plat) (h_tens : Has l .tens) (h_hostMem : Has l .hostMem) (h_msixHeld : Has l .msixHeld) (h_emitted : Has l .emitted) :
    ∀ x0 x1 x2 s, blank l (effQueueEnable x0 x1 x2 s) = blank l s := by
  intro x0 x1 x2 s
  unfold effQueueEnable
  apply withWrite_keeps <;> first | assumption | skip
  intro t
  apply withS_keeps <;> first | assumption | skip
  intro t
  ((repeat' (split)) <;> first | with_reducible rfl | simp (disch := assumption) only [↓withWrite_keeps, ↓withS_keeps, ↓disableQueue_keeps, ↓enableQueue_keeps, ↓blank_pool, ↓blank_hostMem, ↓blank_plat, ↓blank_ptns, ↓blank_regs, ↓blank_tens, ↓blank_msixHeld, ↓blank_movs, ↓blank_emitted, ↓apply_ite (blank l), ↓apply_ite Prod.snd, ite_self])

theorem effDataWindowAccess_keeps {l : List Comp} (h_regs : Has l .regs) (h_pool : Has l .pool) (h_msixHeld : Has l .msixHeld) (h_emitted : Has l .emitted) :
    ∀ x0 x1 x2 x3 s, blank l (effDataWindowAccess x0 x1 x2 x3 s) = blank l s := by
  intro x0 x1 x2 x3 s
  unfold effDataWindowAccess
  (repeat' (split)) <;> first | with_reducible rfl | simp (disch := assumption) only [↓emit_keeps, ↓setErr_keeps, ↓denyAccess_keeps, ↓writePayload_keeps, ↓apply_ite (blank l), ite_self]

end Sys2Proof.Machine
end

