-- ==== Sys2Proof/Laws/KeepTransit.lean ====
section
/-! SUPPORT. What each operation of Machine/Transit.lean leaves as it was. -/

set_option linter.unusedSimpArgs false

namespace Sys2Proof.Machine

theorem bundleEnd_keeps {l : List Comp} (h_regs : Has l .regs) (h_ptns : Has l .ptns) (h_pool : Has l .pool) (h_plat : Has l .plat) (h_tens : Has l .tens) (h_hostMem : Has l .hostMem) (h_msixHeld : Has l .msixHeld) (h_emitted : Has l .emitted) (h_fresh : Has l .fresh) :
    ∀ s x1, blank l (bundleEnd s x1) = blank l s := by
  intro s x1
  unfold bundleEnd
  dsimp only
  (repeat' (split)) <;> first | with_reducible rfl | simp (disch := assumption) only [↓addSat_keeps, ↓setTen_keeps, ↓engineFinish_keeps, ↓apply_ite (blank l), ite_self]

theorem slotIssued_keeps {l : List Comp} (h_regs : Has l .regs) (h_ptns : Has l .ptns) (h_pool : Has l .pool) (h_plat : Has l .plat) (h_tens : Has l .tens) (h_hostMem : Has l .hostMem) (h_msixHeld : Has l .msixHeld) (h_emitted : Has l .emitted) (h_fresh : Has l .fresh) :
    ∀ s x1 x2 x3, blank l (slotIssued s x1 x2 x3) = blank l s := by
  intro s x1 x2 x3
  unfold slotIssued
  simp (disch := assumption) only [↓setTen_keeps, ↓bundleEnd_keeps, ↓apply_ite (blank l), ite_self]

theorem slotFault_keeps {l : List Comp} (h_regs : Has l .regs) (h_ptns : Has l .ptns) (h_pool : Has l .pool) (h_plat : Has l .plat) (h_tens : Has l .tens) (h_hostMem : Has l .hostMem) (h_msixHeld : Has l .msixHeld) (h_emitted : Has l .emitted) (h_fresh : Has l .fresh) :
    ∀ s x1 x2 x3 x4, blank l (slotFault s x1 x2 x3 x4) = blank l s := by
  intro s x1 x2 x3 x4
  unfold slotFault
  simp (disch := assumption) only [↓slotIssued_keeps, ↓apply_ite (blank l), ite_self]

theorem bundleFault_keeps {l : List Comp} (h_regs : Has l .regs) (h_ptns : Has l .ptns) (h_pool : Has l .pool) (h_plat : Has l .plat) (h_tens : Has l .tens) (h_hostMem : Has l .hostMem) (h_msixHeld : Has l .msixHeld) (h_emitted : Has l .emitted) (h_fresh : Has l .fresh) :
    ∀ s x1 x2, blank l (bundleFault s x1 x2) = blank l s := by
  intro s x1 x2
  unfold bundleFault
  simp (disch := assumption) only [↓addSat_keeps, ↓engineFinish_keeps]

theorem issueSlot_keeps {l : List Comp} (h_regs : Has l .regs) (h_ptns : Has l .ptns) (h_pool : Has l .pool) (h_plat : Has l .plat) (h_tens : Has l .tens) (h_hostMem : Has l .hostMem) (h_msixHeld : Has l .msixHeld) (h_emitted : Has l .emitted) (h_fresh : Has l .fresh) :
    ∀ s x1 x2 x3 x4, (∀ y0 y1, blank l (x4 y0 y1) = blank l s) → blank l (issueSlot s x1 x2 x3 x4) = blank l s := by
  intro s x1 x2 x3 x4 hf0
  unfold issueSlot
  simp (disch := assumption) only [↓bundleFault_keeps, ↓apply_ite (blank l), ite_self, ↓hf0]

theorem issueWrite_keeps {l : List Comp} (h_regs : Has l .regs) (h_ptns : Has l .ptns) (h_pool : Has l .pool) (h_plat : Has l .plat) (h_tens : Has l .tens) (h_hostMem : Has l .hostMem) (h_msixHeld : Has l .msixHeld) (h_emitted : Has l .emitted) (h_fresh : Has l .fresh) :
    ∀ s x1 x2 x3 x4 x5, blank l (issueWrite s x1 x2 x3 x4 x5) = blank l s := by
  intro s x1 x2 x3 x4 x5
  unfold issueWrite
  (repeat' (split)) <;> first | with_reducible rfl | simp (disch := first | assumption | (intro t x; first | with_reducible rfl | simp (disch := assumption) only [↓slotIssued_keeps, ↓issueSlot_keeps] | ((repeat' (split)) <;> first | with_reducible rfl | simp (disch := assumption) only [↓slotIssued_keeps, ↓issueSlot_keeps] | rfl))) only [↓slotIssued_keeps, ↓issueSlot_keeps, ↓foldl_keeps, ↓foldr_keeps, ↓forUpTo_keeps, ↓foldl_snd_keeps]

theorem effTenNop_keeps {l : List Comp} (h_regs : Has l .regs) (h_ptns : Has l .ptns) (h_pool : Has l .pool) (h_plat : Has l .plat) (h_tens : Has l .tens) (h_hostMem : Has l .hostMem) (h_msixHeld : Has l .msixHeld) (h_emitted : Has l .emitted) (h_fresh : Has l .fresh) :
    ∀ x0 x1 s, blank l (effTenNop x0 x1 s) = blank l s := by
  intro x0 x1 s
  unfold effTenNop
  (repeat' (split)) <;> first | with_reducible rfl | simp (disch := first | assumption | (intro t x; first | with_reducible rfl | simp (disch := assumption) only [↓slotIssued_keeps, ↓issueSlot_keeps] | ((repeat' (split)) <;> first | with_reducible rfl | simp (disch := assumption) only [↓slotIssued_keeps, ↓issueSlot_keeps] | rfl))) only [↓slotIssued_keeps, ↓issueSlot_keeps, ↓foldl_keeps, ↓foldr_keeps, ↓forUpTo_keeps, ↓foldl_snd_keeps]

theorem effTenSeti_keeps {l : List Comp} (h_regs : Has l .regs) (h_ptns : Has l .ptns) (h_pool : Has l .pool) (h_plat : Has l .plat) (h_tens : Has l .tens) (h_hostMem : Has l .hostMem) (h_msixHeld : Has l .msixHeld) (h_emitted : Has l .emitted) (h_fresh : Has l .fresh) :
    ∀ x0 x1 s, blank l (effTenSeti x0 x1 s) = blank l s := by
  intro x0 x1 s
  unfold effTenSeti
  simp (disch := assumption) only [↓issueWrite_keeps]

theorem effSeth_keeps {l : List Comp} (h_regs : Has l .regs) (h_ptns : Has l .ptns) (h_pool : Has l .pool) (h_plat : Has l .plat) (h_tens : Has l .tens) (h_hostMem : Has l .hostMem) (h_msixHeld : Has l .msixHeld) (h_emitted : Has l .emitted) (h_fresh : Has l .fresh) :
    ∀ x0 x1 s, blank l (effSeth x0 x1 s) = blank l s := by
  intro x0 x1 s
  unfold effSeth
  simp (disch := assumption) only [↓issueWrite_keeps]

theorem effTenAddi_keeps {l : List Comp} (h_regs : Has l .regs) (h_ptns : Has l .ptns) (h_pool : Has l .pool) (h_plat : Has l .plat) (h_tens : Has l .tens) (h_hostMem : Has l .hostMem) (h_msixHeld : Has l .msixHeld) (h_emitted : Has l .emitted) (h_fresh : Has l .fresh) :
    ∀ x0 x1 s, blank l (effTenAddi x0 x1 s) = blank l s := by
  intro x0 x1 s
  unfold effTenAddi
  simp (disch := assumption) only [↓issueWrite_keeps]

theorem effAlu_keeps {l : List Comp} (h_regs : Has l .regs) (h_ptns : Has l .ptns) (h_pool : Has l .pool) (h_plat : Has l .plat) (h_tens : Has l .tens) (h_hostMem : Has l .hostMem) (h_msixHeld : Has l .msixHeld) (h_emitted : Has l .emitted) (h_fresh : Has l .fresh) :
    ∀ x0 x1 s, blank l (effAlu x0 x1 s) = blank l s := by
  intro x0 x1 s
  unfold effAlu
  simp (disch := assumption) only [↓issueWrite_keeps]

theorem effRdt_keeps {l : List Comp} (h_regs : Has l .regs) (h_ptns : Has l .ptns) (h_pool : Has l .pool) (h_plat : Has l .plat) (h_tens : Has l .tens) (h_hostMem : Has l .hostMem) (h_msixHeld : Has l .msixHeld) (h_emitted : Has l .emitted) (h_fresh : Has l .fresh) :
    ∀ x0 x1 s, blank l (effRdt x0 x1 s) = blank l s := by
  intro x0 x1 s
  unfold effRdt
  simp (disch := assumption) only [↓issueWrite_keeps]

theorem effBr_keeps {l : List Comp} (h_regs : Has l .regs) (h_ptns : Has l .ptns) (h_pool : Has l .pool) (h_plat : Has l .plat) (h_tens : Has l .tens) (h_hostMem : Has l .hostMem) (h_msixHeld : Has l .msixHeld) (h_emitted : Has l .emitted) (h_fresh : Has l .fresh) :
    ∀ x0 x1 s, blank l (effBr x0 x1 s) = blank l s := by
  intro x0 x1 s
  unfold effBr
  (repeat' (split)) <;> first | with_reducible rfl | simp (disch := first | assumption | (intro t x; first | with_reducible rfl | simp (disch := assumption) only [↓slotIssued_keeps, ↓issueSlot_keeps] | ((repeat' (split)) <;> first | with_reducible rfl | simp (disch := assumption) only [↓slotIssued_keeps, ↓issueSlot_keeps] | rfl))) only [↓slotIssued_keeps, ↓issueSlot_keeps, ↓foldl_keeps, ↓foldr_keeps, ↓forUpTo_keeps, ↓foldl_snd_keeps]

theorem effBrz_keeps {l : List Comp} (h_regs : Has l .regs) (h_ptns : Has l .ptns) (h_pool : Has l .pool) (h_plat : Has l .plat) (h_tens : Has l .tens) (h_hostMem : Has l .hostMem) (h_msixHeld : Has l .msixHeld) (h_emitted : Has l .emitted) (h_fresh : Has l .fresh) :
    ∀ x0 x1 s, blank l (effBrz x0 x1 s) = blank l s := by
  intro x0 x1 s
  unfold effBrz
  (repeat' (split)) <;> first | with_reducible rfl | simp (disch := first | assumption | (intro t x; first | with_reducible rfl | simp (disch := assumption) only [↓slotIssued_keeps, ↓issueSlot_keeps] | ((repeat' (split)) <;> first | with_reducible rfl | simp (disch := assumption) only [↓slotIssued_keeps, ↓issueSlot_keeps] | rfl))) only [↓slotIssued_keeps, ↓issueSlot_keeps, ↓foldl_keeps, ↓foldr_keeps, ↓forUpTo_keeps, ↓foldl_snd_keeps]

theorem effBrnz_keeps {l : List Comp} (h_regs : Has l .regs) (h_ptns : Has l .ptns) (h_pool : Has l .pool) (h_plat : Has l .plat) (h_tens : Has l .tens) (h_hostMem : Has l .hostMem) (h_msixHeld : Has l .msixHeld) (h_emitted : Has l .emitted) (h_fresh : Has l .fresh) :
    ∀ x0 x1 s, blank l (effBrnz x0 x1 s) = blank l s := by
  intro x0 x1 s
  unfold effBrnz
  (repeat' (split)) <;> first | with_reducible rfl | simp (disch := first | assumption | (intro t x; first | with_reducible rfl | simp (disch := assumption) only [↓slotIssued_keeps, ↓issueSlot_keeps] | ((repeat' (split)) <;> first | with_reducible rfl | simp (disch := assumption) only [↓slotIssued_keeps, ↓issueSlot_keeps] | rfl))) only [↓slotIssued_keeps, ↓issueSlot_keeps, ↓foldl_keeps, ↓foldr_keeps, ↓forUpTo_keeps, ↓foldl_snd_keeps]

theorem effRep_keeps {l : List Comp} (h_regs : Has l .regs) (h_ptns : Has l .ptns) (h_pool : Has l .pool) (h_plat : Has l .plat) (h_tens : Has l .tens) (h_hostMem : Has l .hostMem) (h_msixHeld : Has l .msixHeld) (h_emitted : Has l .emitted) (h_fresh : Has l .fresh) :
    ∀ x0 x1 s, blank l (effRep x0 x1 s) = blank l s := by
  intro x0 x1 s
  unfold effRep
  (repeat' (split)) <;> first | with_reducible rfl | simp (disch := first | assumption | (intro t x; first | with_reducible rfl | simp (disch := assumption) only [↓slotIssued_keeps, ↓issueSlot_keeps] | ((repeat' (split)) <;> first | with_reducible rfl | simp (disch := assumption) only [↓slotIssued_keeps, ↓issueSlot_keeps] | rfl))) only [↓slotIssued_keeps, ↓issueSlot_keeps, ↓foldl_keeps, ↓foldr_keeps, ↓forUpTo_keeps, ↓foldl_snd_keeps]

theorem effSqh_keeps {l : List Comp} (h_regs : Has l .regs) (h_ptns : Has l .ptns) (h_pool : Has l .pool) (h_plat : Has l .plat) (h_tens : Has l .tens) (h_hostMem : Has l .hostMem) (h_msixHeld : Has l .msixHeld) (h_emitted : Has l .emitted) (h_fresh : Has l .fresh) :
    ∀ x0 x1 s, blank l (effSqh x0 x1 s) = blank l s := by
  intro x0 x1 s
  unfold effSqh
  (repeat' (split)) <;> first | with_reducible rfl | simp (disch := first | assumption | (intro t x; first | with_reducible rfl | simp (disch := assumption) only [↓setErr_keeps, ↓slotIssued_keeps, ↓slotFault_keeps, ↓issueSlot_keeps, ↓apply_ite (blank l), ite_self] | ((repeat' (split)) <;> first | with_reducible rfl | simp (disch := assumption) only [↓setErr_keeps, ↓slotIssued_keeps, ↓slotFault_keeps, ↓issueSlot_keeps, ↓apply_ite (blank l), ite_self] | rfl))) only [↓setErr_keeps, ↓slotIssued_keeps, ↓slotFault_keeps, ↓issueSlot_keeps, ↓apply_ite (blank l), ite_self, ↓foldl_keeps, ↓foldr_keeps, ↓forUpTo_keeps, ↓foldl_snd_keeps]

theorem effStc_keeps {l : List Comp} (h_regs : Has l .regs) (h_ptns : Has l .ptns) (h_pool : Has l .pool) (h_plat : Has l .plat) (h_tens : Has l .tens) (h_hostMem : Has l .hostMem) (h_msixHeld : Has l .msixHeld) (h_emitted : Has l .emitted) (h_fresh : Has l .fresh) :
    ∀ x0 x1 s, blank l (effStc x0 x1 s) = blank l s := by
  intro x0 x1 s
  unfold effStc
  (repeat' (split)) <;> first | with_reducible rfl | simp (disch := first | assumption | (intro t x; first | with_reducible rfl | simp (disch := assumption) only [↓slotIssued_keeps, ↓issueSlot_keeps] | ((repeat' (split)) <;> first | with_reducible rfl | simp (disch := assumption) only [↓slotIssued_keeps, ↓issueSlot_keeps] | rfl))) only [↓slotIssued_keeps, ↓issueSlot_keeps, ↓foldl_keeps, ↓foldr_keeps, ↓forUpTo_keeps, ↓foldl_snd_keeps]

theorem effSetiv_keeps {l : List Comp} (h_regs : Has l .regs) (h_ptns : Has l .ptns) (h_pool : Has l .pool) (h_plat : Has l .plat) (h_tens : Has l .tens) (h_hostMem : Has l .hostMem) (h_msixHeld : Has l .msixHeld) (h_emitted : Has l .emitted) (h_fresh : Has l .fresh) :
    ∀ x0 x1 s, blank l (effSetiv x0 x1 s) = blank l s := by
  intro x0 x1 s
  unfold effSetiv
  (repeat' (split)) <;> first | with_reducible rfl | simp (disch := first | assumption | (intro t x; first | with_reducible rfl | simp (disch := assumption) only [↓slotIssued_keeps, ↓issueSlot_keeps] | ((repeat' (split)) <;> first | with_reducible rfl | simp (disch := assumption) only [↓slotIssued_keeps, ↓issueSlot_keeps] | rfl))) only [↓slotIssued_keeps, ↓issueSlot_keeps, ↓foldl_keeps, ↓foldr_keeps, ↓forUpTo_keeps, ↓foldl_snd_keeps]

theorem effRdi_keeps {l : List Comp} (h_regs : Has l .regs) (h_ptns : Has l .ptns) (h_pool : Has l .pool) (h_plat : Has l .plat) (h_tens : Has l .tens) (h_hostMem : Has l .hostMem) (h_msixHeld : Has l .msixHeld) (h_emitted : Has l .emitted) (h_fresh : Has l .fresh) :
    ∀ x0 x1 s, blank l (effRdi x0 x1 s) = blank l s := by
  intro x0 x1 s
  unfold effRdi
  simp (disch := assumption) only [↓issueWrite_keeps]

theorem effRti_keeps {l : List Comp} (h_regs : Has l .regs) (h_ptns : Has l .ptns) (h_pool : Has l .pool) (h_plat : Has l .plat) (h_tens : Has l .tens) (h_hostMem : Has l .hostMem) (h_msixHeld : Has l .msixHeld) (h_emitted : Has l .emitted) (h_fresh : Has l .fresh) :
    ∀ x0 x1 s, blank l (effRti x0 x1 s) = blank l s := by
  intro x0 x1 s
  unfold effRti
  (repeat' (split)) <;> first | with_reducible rfl | simp (disch := first | assumption | (intro t x; first | with_reducible rfl | simp (disch := assumption) only [↓slotIssued_keeps, ↓issueSlot_keeps] | ((repeat' (split)) <;> first | with_reducible rfl | simp (disch := assumption) only [↓slotIssued_keeps, ↓issueSlot_keeps] | rfl))) only [↓slotIssued_keeps, ↓issueSlot_keeps, ↓foldl_keeps, ↓foldr_keeps, ↓forUpTo_keeps, ↓foldl_snd_keeps]

theorem handleOwn_keeps {l : List Comp} (h_regs : Has l .regs) (h_msixHeld : Has l .msixHeld) (h_emitted : Has l .emitted) :
    ∀ s x1 x2, blank l (handleOwn s x1 x2).2 = blank l s := by
  intro s x1 x2
  unfold handleOwn
  dsimp only
  (repeat' (split)) <;> first | with_reducible rfl | simp (disch := assumption) only [↓setErr_keeps, ↓apply_ite (blank l), ↓apply_ite Prod.snd, ite_self]

theorem poolEnd_keeps {l : List Comp} (h_regs : Has l .regs) (h_ptns : Has l .ptns) (h_pool : Has l .pool) (h_plat : Has l .plat) (h_tens : Has l .tens) (h_hostMem : Has l .hostMem) (h_msixHeld : Has l .msixHeld) (h_emitted : Has l .emitted) (h_fresh : Has l .fresh) :
    ∀ s x1 x2, blank l (poolEnd s x1 x2) = blank l s := by
  intro s x1 x2
  unfold poolEnd
  simp (disch := assumption) only [↓itemCode_keeps, ↓countWait_keeps, ↓bundleFault_keeps]

theorem prdCopy_keeps {l : List Comp} (h_regs : Has l .regs) (h_fp : Has l .fp) (h_ptns : Has l .ptns) (h_pool : Has l .pool) (h_plat : Has l .plat) (h_tens : Has l .tens) (h_cdus : Has l .cdus) (h_hostMem : Has l .hostMem) (h_msixHeld : Has l .msixHeld) (h_emitted : Has l .emitted) (h_fresh : Has l .fresh) :
    ∀ s x1 x2 x3, blank l (prdCopy s x1 x2 x3) = blank l s := by
  intro s x1 x2 x3
  unfold prdCopy
  dsimp only
  (repeat' (split <;> (try (rename_i heq; have hh := congrArg Prod.snd heq; dsimp only at hh; subst hh)))) <;> first | with_reducible rfl | simp (disch := assumption) only [↓setTen_keeps, ↓countWait_keeps, ↓unitRead_keeps, ↓slotIssued_keeps, ↓bundleFault_keeps, ↓apply_ite (blank l), ite_self]

theorem effPrd_keeps {l : List Comp} (h_regs : Has l .regs) (h_fp : Has l .fp) (h_ptns : Has l .ptns) (h_pool : Has l .pool) (h_plat : Has l .plat) (h_tens : Has l .tens) (h_cdus : Has l .cdus) (h_hostMem : Has l .hostMem) (h_msixHeld : Has l .msixHeld) (h_emitted : Has l .emitted) (h_fresh : Has l .fresh) :
    ∀ x0 x1 s, blank l (effPrd x0 x1 s) = blank l s := by
  intro x0 x1 s
  unfold effPrd
  (repeat' (split <;> (try (rename_i heq; have hh := congrArg Prod.snd heq; dsimp only at hh; subst hh)))) <;> first | with_reducible rfl | simp (disch := first | assumption | (intro t x; first | with_reducible rfl | simp (disch := assumption) only [↓hwRead_keeps, ↓takeEnded_keeps, ↓bundleFault_keeps, ↓issueSlot_keeps, ↓handleOwn_keeps, ↓poolEnd_keeps, ↓prdCopy_keeps] | ((repeat' (split <;> (try (rename_i heq; have hh := congrArg Prod.snd heq; dsimp only at hh; subst hh)))) <;> first | with_reducible rfl | simp (disch := assumption) only [↓hwRead_keeps, ↓takeEnded_keeps, ↓bundleFault_keeps, ↓issueSlot_keeps, ↓handleOwn_keeps, ↓poolEnd_keeps, ↓prdCopy_keeps] | rfl))) only [↓hwRead_keeps, ↓takeEnded_keeps, ↓bundleFault_keeps, ↓issueSlot_keeps, ↓handleOwn_keeps, ↓poolEnd_keeps, ↓prdCopy_keeps, ↓foldl_keeps, ↓foldr_keeps, ↓forUpTo_keeps, ↓foldl_snd_keeps]

theorem pwrCopy_keeps {l : List Comp} (h_regs : Has l .regs) (h_fp : Has l .fp) (h_ptns : Has l .ptns) (h_pool : Has l .pool) (h_plat : Has l .plat) (h_tens : Has l .tens) (h_cdus : Has l .cdus) (h_hostMem : Has l .hostMem) (h_msixHeld : Has l .msixHeld) (h_emitted : Has l .emitted) (h_fresh : Has l .fresh) :
    ∀ s x1 x2 x3, blank l (pwrCopy s x1 x2 x3) = blank l s := by
  intro s x1 x2 x3
  unfold pwrCopy
  simp (disch := assumption) only [↓setTen_keeps, ↓writePayload_keeps, ↓countWait_keeps, ↓unitRead_keeps, ↓slotIssued_keeps, ↓bundleFault_keeps, ↓apply_ite (blank l), ite_self]

theorem effPwr_keeps {l : List Comp} (h_regs : Has l .regs) (h_fp : Has l .fp) (h_ptns : Has l .ptns) (h_pool : Has l .pool) (h_plat : Has l .plat) (h_tens : Has l .tens) (h_cdus : Has l .cdus) (h_hostMem : Has l .hostMem) (h_msixHeld : Has l .msixHeld) (h_emitted : Has l .emitted) (h_fresh : Has l .fresh) :
    ∀ x0 x1 s, blank l (effPwr x0 x1 s) = blank l s := by
  intro x0 x1 s
  unfold effPwr
  refine issueSlot_keeps h_regs h_ptns h_pool h_plat h_tens h_hostMem h_msixHeld h_emitted h_fresh s x0 x1 _ _ (fun e w => ?_)
  dsimp only
  ((repeat' (split <;> (try (rename_i heq; have hh := congrArg Prod.snd heq; dsimp only at hh; subst hh)))) <;> first | with_reducible rfl | simp (disch := assumption) only [↓reserveWait_keeps, ↓takeGranted_keeps, ↓takeEnded_keeps, ↓bundleFault_keeps, ↓issueSlot_keeps, ↓handleOwn_keeps, ↓poolEnd_keeps, ↓pwrCopy_keeps, ↓blank_cdus, ↓blank_pool, ↓blank_fp, ↓blank_hostMem, ↓blank_plat, ↓blank_pool_fresh, ↓blank_ptns, ↓blank_regs, ↓blank_tens, ↓blank_msixHeld, ↓blank_fresh, ↓blank_emitted, ↓apply_ite (blank l), ↓apply_ite Prod.snd, ite_self])

theorem effTenEnd_keeps {l : List Comp} (h_regs : Has l .regs) (h_ptns : Has l .ptns) (h_pool : Has l .pool) (h_plat : Has l .plat) (h_tens : Has l .tens) (h_hostMem : Has l .hostMem) (h_msixHeld : Has l .msixHeld) (h_emitted : Has l .emitted) (h_fresh : Has l .fresh) :
    ∀ x0 x1 s, blank l (effTenEnd x0 x1 s) = blank l s := by
  intro x0 x1 s
  unfold effTenEnd
  (repeat' (split)) <;> first | with_reducible rfl | simp (disch := first | assumption | (intro t x; first | with_reducible rfl | simp (disch := assumption) only [↓slotIssued_keeps, ↓issueSlot_keeps] | ((repeat' (split)) <;> first | with_reducible rfl | simp (disch := assumption) only [↓slotIssued_keeps, ↓issueSlot_keeps] | rfl))) only [↓slotIssued_keeps, ↓issueSlot_keeps, ↓foldl_keeps, ↓foldr_keeps, ↓forUpTo_keeps, ↓foldl_snd_keeps]

theorem issueMem_keeps {l : List Comp} (h_regs : Has l .regs) (h_ptns : Has l .ptns) (h_pool : Has l .pool) (h_plat : Has l .plat) (h_tens : Has l .tens) (h_hostMem : Has l .hostMem) (h_msixHeld : Has l .msixHeld) (h_emitted : Has l .emitted) (h_fresh : Has l .fresh) :
    ∀ s x1 x2 x3 x4, (∀ y0 y1 y2, blank l (x4 y0 y1 y2) = blank l s) → blank l (issueMem s x1 x2 x3 x4) = blank l s := by
  intro s x1 x2 x3 x4 hf0
  unfold issueMem
  (repeat' (split)) <;> first | with_reducible rfl | simp (disch := first | assumption | (intro t x; first | with_reducible rfl | simp (disch := assumption) only [↓slotFault_keeps, ↓issueSlot_keeps, ↓apply_ite (blank l), ite_self, ↓hf0] | ((repeat' (split)) <;> first | with_reducible rfl | simp (disch := assumption) only [↓slotFault_keeps, ↓issueSlot_keeps, ↓apply_ite (blank l), ite_self, ↓hf0] | rfl))) only [↓slotFault_keeps, ↓issueSlot_keeps, ↓apply_ite (blank l), ite_self, ↓hf0, ↓foldl_keeps, ↓foldr_keeps, ↓forUpTo_keeps, ↓foldl_snd_keeps]

theorem issueLoad_keeps {l : List Comp} (h_regs : Has l .regs) (h_fp : Has l .fp) (h_ptns : Has l .ptns) (h_pool : Has l .pool) (h_plat : Has l .plat) (h_tens : Has l .tens) (h_cdus : Has l .cdus) (h_hostMem : Has l .hostMem) (h_msixHeld : Has l .msixHeld) (h_emitted : Has l .emitted) (h_fresh : Has l .fresh) :
    ∀ s x1 x2 x3 x4, blank l (issueLoad s x1 x2 x3 x4) = blank l s := by
  intro s x1 x2 x3 x4
  unfold issueLoad
  simp (disch := first | assumption | (intros; (first | with_reducible rfl | simp (disch := assumption) only [↓unitRead_keeps, ↓slotIssued_keeps, ↓slotFault_keeps, ↓issueMem_keeps, ↓blank_cdus, ↓blank_pool, ↓blank_fp, ↓blank_hostMem, ↓blank_plat, ↓blank_pool_fresh, ↓blank_ptns, ↓blank_regs, ↓blank_tens, ↓blank_msixHeld, ↓blank_fresh, ↓blank_emitted, ↓apply_ite (blank l), ↓apply_ite Prod.snd, ite_self] | (try dsimp only; (repeat' (split <;> (try (rename_i heq; have hh := congrArg Prod.snd heq; dsimp only at hh; subst hh)))) <;> first | done | with_reducible rfl | simp (disch := assumption) only [↓unitRead_keeps, ↓slotIssued_keeps, ↓slotFault_keeps, ↓issueMem_keeps, ↓blank_cdus, ↓blank_pool, ↓blank_fp, ↓blank_hostMem, ↓blank_plat, ↓blank_pool_fresh, ↓blank_ptns, ↓blank_regs, ↓blank_tens, ↓blank_msixHeld, ↓blank_fresh, ↓blank_emitted, ↓apply_ite (blank l), ↓apply_ite Prod.snd, ite_self] | rfl)))) only [↓unitRead_keeps, ↓slotIssued_keeps, ↓slotFault_keeps, ↓issueMem_keeps, ↓blank_cdus, ↓blank_pool, ↓blank_fp, ↓blank_hostMem, ↓blank_plat, ↓blank_pool_fresh, ↓blank_ptns, ↓blank_regs, ↓blank_tens, ↓blank_msixHeld, ↓blank_fresh, ↓blank_emitted, ↓apply_ite (blank l), ↓apply_ite Prod.snd, ite_self, ↓foldl_keeps, ↓foldr_keeps, ↓forUpTo_keeps, ↓foldl_snd_keeps]

theorem effSld_keeps {l : List Comp} (h_regs : Has l .regs) (h_fp : Has l .fp) (h_ptns : Has l .ptns) (h_pool : Has l .pool) (h_plat : Has l .plat) (h_tens : Has l .tens) (h_cdus : Has l .cdus) (h_hostMem : Has l .hostMem) (h_msixHeld : Has l .msixHeld) (h_emitted : Has l .emitted) (h_fresh : Has l .fresh) :
    ∀ x0 x1 s, blank l (effSld x0 x1 s) = blank l s := by
  intro x0 x1 s
  unfold effSld
  simp (disch := assumption) only [↓issueLoad_keeps]

theorem effSst_keeps {l : List Comp} (h_regs : Has l .regs) (h_fp : Has l .fp) (h_ptns : Has l .ptns) (h_pool : Has l .pool) (h_plat : Has l .plat) (h_tens : Has l .tens) (h_cdus : Has l .cdus) (h_hostMem : Has l .hostMem) (h_msixHeld : Has l .msixHeld) (h_emitted : Has l .emitted) (h_fresh : Has l .fresh) :
    ∀ x0 x1 s, blank l (effSst x0 x1 s) = blank l s := by
  intro x0 x1 s
  unfold effSst
  simp (disch := first | assumption | (intros; (first | with_reducible rfl | simp (disch := assumption) only [↓unitRead_keeps, ↓slotIssued_keeps, ↓slotFault_keeps, ↓issueMem_keeps, ↓blank_cdus, ↓blank_pool, ↓blank_fp, ↓blank_hostMem, ↓blank_plat, ↓blank_pool_fresh, ↓blank_ptns, ↓blank_regs, ↓blank_tens, ↓blank_msixHeld, ↓blank_fresh, ↓blank_emitted, ↓apply_ite (blank l), ↓apply_ite Prod.snd, ite_self] | (try dsimp only; (repeat' (split <;> (try (rename_i heq; have hh := congrArg Prod.snd heq; dsimp only at hh; subst hh)))) <;> first | done | with_reducible rfl | simp (disch := assumption) only [↓unitRead_keeps, ↓slotIssued_keeps, ↓slotFault_keeps, ↓issueMem_keeps, ↓blank_cdus, ↓blank_pool, ↓blank_fp, ↓blank_hostMem, ↓blank_plat, ↓blank_pool_fresh, ↓blank_ptns, ↓blank_regs, ↓blank_tens, ↓blank_msixHeld, ↓blank_fresh, ↓blank_emitted, ↓apply_ite (blank l), ↓apply_ite Prod.snd, ite_self] | rfl)))) only [↓unitRead_keeps, ↓slotIssued_keeps, ↓slotFault_keeps, ↓issueMem_keeps, ↓blank_cdus, ↓blank_pool, ↓blank_fp, ↓blank_hostMem, ↓blank_plat, ↓blank_pool_fresh, ↓blank_ptns, ↓blank_regs, ↓blank_tens, ↓blank_msixHeld, ↓blank_fresh, ↓blank_emitted, ↓apply_ite (blank l), ↓apply_ite Prod.snd, ite_self, ↓foldl_keeps, ↓foldr_keeps, ↓forUpTo_keeps, ↓foldl_snd_keeps]

theorem effVld_keeps {l : List Comp} (h_regs : Has l .regs) (h_fp : Has l .fp) (h_ptns : Has l .ptns) (h_pool : Has l .pool) (h_plat : Has l .plat) (h_tens : Has l .tens) (h_cdus : Has l .cdus) (h_hostMem : Has l .hostMem) (h_msixHeld : Has l .msixHeld) (h_emitted : Has l .emitted) (h_fresh : Has l .fresh) :
    ∀ x0 x1 s, blank l (effVld x0 x1 s) = blank l s := by
  intro x0 x1 s
  unfold effVld
  simp (disch := assumption) only [↓issueLoad_keeps]

theorem effVst_keeps {l : List Comp} (h_regs : Has l .regs) (h_ptns : Has l .ptns) (h_pool : Has l .pool) (h_plat : Has l .plat) (h_tens : Has l .tens) (h_hostMem : Has l .hostMem) (h_msixHeld : Has l .msixHeld) (h_emitted : Has l .emitted) (h_fresh : Has l .fresh) :
    ∀ x0 x1 s, blank l (effVst x0 x1 s) = blank l s := by
  intro x0 x1 s
  unfold effVst
  simp (disch := first | assumption | (intros; (first | with_reducible rfl | simp (disch := assumption) only [↓slotIssued_keeps, ↓slotFault_keeps, ↓issueMem_keeps, ↓blank_pool, ↓blank_hostMem, ↓blank_plat, ↓blank_pool_fresh, ↓blank_ptns, ↓blank_regs, ↓blank_tens, ↓blank_msixHeld, ↓blank_fresh, ↓blank_emitted, ↓apply_ite (blank l), ↓apply_ite Prod.snd, ite_self] | (try dsimp only; (repeat' (split)) <;> first | done | with_reducible rfl | simp (disch := assumption) only [↓slotIssued_keeps, ↓slotFault_keeps, ↓issueMem_keeps, ↓blank_pool, ↓blank_hostMem, ↓blank_plat, ↓blank_pool_fresh, ↓blank_ptns, ↓blank_regs, ↓blank_tens, ↓blank_msixHeld, ↓blank_fresh, ↓blank_emitted, ↓apply_ite (blank l), ↓apply_ite Prod.snd, ite_self] | rfl)))) only [↓slotIssued_keeps, ↓slotFault_keeps, ↓issueMem_keeps, ↓blank_pool, ↓blank_hostMem, ↓blank_plat, ↓blank_pool_fresh, ↓blank_ptns, ↓blank_regs, ↓blank_tens, ↓blank_msixHeld, ↓blank_fresh, ↓blank_emitted, ↓apply_ite (blank l), ↓apply_ite Prod.snd, ite_self, ↓foldl_keeps, ↓foldr_keeps, ↓forUpTo_keeps, ↓foldl_snd_keeps]

theorem issueScaled_keeps {l : List Comp} (h_regs : Has l .regs) (h_ptns : Has l .ptns) (h_pool : Has l .pool) (h_plat : Has l .plat) (h_tens : Has l .tens) (h_hostMem : Has l .hostMem) (h_msixHeld : Has l .msixHeld) (h_emitted : Has l .emitted) (h_fresh : Has l .fresh) :
    ∀ s x1 x2 x3 x4 x5 x6, blank l (issueScaled s x1 x2 x3 x4 x5 x6) = blank l s := by
  intro s x1 x2 x3 x4 x5 x6
  unfold issueScaled
  simp (disch := assumption) only [↓addSat_keeps, ↓slotIssued_keeps, ↓slotFault_keeps, ↓apply_ite (blank l), ite_self]

theorem effVmv_keeps {l : List Comp} (h_regs : Has l .regs) (h_ptns : Has l .ptns) (h_pool : Has l .pool) (h_plat : Has l .plat) (h_tens : Has l .tens) (h_hostMem : Has l .hostMem) (h_msixHeld : Has l .msixHeld) (h_emitted : Has l .emitted) (h_fresh : Has l .fresh) :
    ∀ x0 x1 s, blank l (effVmv x0 x1 s) = blank l s := by
  intro x0 x1 s
  unfold effVmv
  (repeat' (split)) <;> first | with_reducible rfl | simp (disch := first | assumption | (intro t x; first | with_reducible rfl | simp (disch := assumption) only [↓issueSlot_keeps, ↓issueScaled_keeps] | ((repeat' (split)) <;> first | with_reducible rfl | simp (disch := assumption) only [↓issueSlot_keeps, ↓issueScaled_keeps] | rfl))) only [↓issueSlot_keeps, ↓issueScaled_keeps, ↓foldl_keeps, ↓foldr_keeps, ↓forUpTo_keeps, ↓foldl_snd_keeps]

theorem effVpk_keeps {l : List Comp} (h_regs : Has l .regs) (h_ptns : Has l .ptns) (h_pool : Has l .pool) (h_plat : Has l .plat) (h_tens : Has l .tens) (h_hostMem : Has l .hostMem) (h_msixHeld : Has l .msixHeld) (h_emitted : Has l .emitted) (h_fresh : Has l .fresh) :
    ∀ x0 x1 s, blank l (effVpk x0 x1 s) = blank l s := by
  intro x0 x1 s
  unfold effVpk
  (repeat' (split)) <;> first | with_reducible rfl | simp (disch := first | assumption | (intro t x; first | with_reducible rfl | simp (disch := assumption) only [↓issueSlot_keeps, ↓issueScaled_keeps] | ((repeat' (split)) <;> first | with_reducible rfl | simp (disch := assumption) only [↓issueSlot_keeps, ↓issueScaled_keeps] | rfl))) only [↓issueSlot_keeps, ↓issueScaled_keeps, ↓foldl_keeps, ↓foldr_keeps, ↓forUpTo_keeps, ↓foldl_snd_keeps]

theorem issueAcc_keeps {l : List Comp} (h_regs : Has l .regs) (h_ptns : Has l .ptns) (h_pool : Has l .pool) (h_plat : Has l .plat) (h_tens : Has l .tens) (h_hostMem : Has l .hostMem) (h_msixHeld : Has l .msixHeld) (h_emitted : Has l .emitted) (h_fresh : Has l .fresh) :
    ∀ s x1 x2 x3 x4 x5, blank l (issueAcc s x1 x2 x3 x4 x5) = blank l s := by
  intro s x1 x2 x3 x4 x5
  unfold issueAcc
  simp (disch := assumption) only [↓issueScaled_keeps]

theorem effVmac_keeps {l : List Comp} (h_regs : Has l .regs) (h_ptns : Has l .ptns) (h_pool : Has l .pool) (h_plat : Has l .plat) (h_tens : Has l .tens) (h_hostMem : Has l .hostMem) (h_msixHeld : Has l .msixHeld) (h_emitted : Has l .emitted) (h_fresh : Has l .fresh) :
    ∀ x0 x1 s, blank l (effVmac x0 x1 s) = blank l s := by
  intro x0 x1 s
  unfold effVmac
  (repeat' (split)) <;> first | with_reducible rfl | simp (disch := first | assumption | (intro t x; first | with_reducible rfl | simp (disch := assumption) only [↓issueSlot_keeps, ↓issueAcc_keeps] | ((repeat' (split)) <;> first | with_reducible rfl | simp (disch := assumption) only [↓issueSlot_keeps, ↓issueAcc_keeps] | rfl))) only [↓issueSlot_keeps, ↓issueAcc_keeps, ↓foldl_keeps, ↓foldr_keeps, ↓forUpTo_keeps, ↓foldl_snd_keeps]

theorem effVmacb_keeps {l : List Comp} (h_regs : Has l .regs) (h_ptns : Has l .ptns) (h_pool : Has l .pool) (h_plat : Has l .plat) (h_tens : Has l .tens) (h_hostMem : Has l .hostMem) (h_msixHeld : Has l .msixHeld) (h_emitted : Has l .emitted) (h_fresh : Has l .fresh) :
    ∀ x0 x1 s, blank l (effVmacb x0 x1 s) = blank l s := by
  intro x0 x1 s
  unfold effVmacb
  (repeat' (split)) <;> first | with_reducible rfl | simp (disch := first | assumption | (intro t x; first | with_reducible rfl | simp (disch := assumption) only [↓issueSlot_keeps, ↓issueAcc_keeps] | ((repeat' (split)) <;> first | with_reducible rfl | simp (disch := assumption) only [↓issueSlot_keeps, ↓issueAcc_keeps] | rfl))) only [↓issueSlot_keeps, ↓issueAcc_keeps, ↓foldl_keeps, ↓foldr_keeps, ↓forUpTo_keeps, ↓foldl_snd_keeps]

theorem effVada_keeps {l : List Comp} (h_regs : Has l .regs) (h_ptns : Has l .ptns) (h_pool : Has l .pool) (h_plat : Has l .plat) (h_tens : Has l .tens) (h_hostMem : Has l .hostMem) (h_msixHeld : Has l .msixHeld) (h_emitted : Has l .emitted) (h_fresh : Has l .fresh) :
    ∀ x0 x1 s, blank l (effVada x0 x1 s) = blank l s := by
  intro x0 x1 s
  unfold effVada
  (repeat' (split)) <;> first | with_reducible rfl | simp (disch := first | assumption | (intro t x; first | with_reducible rfl | simp (disch := assumption) only [↓issueSlot_keeps, ↓issueAcc_keeps, ↓apply_ite (blank l), ite_self] | ((repeat' (split)) <;> first | with_reducible rfl | simp (disch := assumption) only [↓issueSlot_keeps, ↓issueAcc_keeps, ↓apply_ite (blank l), ite_self] | rfl))) only [↓issueSlot_keeps, ↓issueAcc_keeps, ↓apply_ite (blank l), ite_self, ↓foldl_keeps, ↓foldr_keeps, ↓forUpTo_keeps, ↓foldl_snd_keeps]

theorem effWarn_keeps {l : List Comp} (h_tens : Has l .tens) :
    ∀ x0 s, blank l (effWarn x0 s) = blank l s := by
  intro x0 s
  unfold effWarn
  simp (disch := assumption) only [↓setTen_keeps, ↓apply_ite (blank l), ite_self]

theorem effTick_keeps {l : List Comp} (h_tens : Has l .tens) :
    ∀ x0 s, blank l (effTick x0 s) = blank l s := by
  intro x0 s
  unfold effTick
  dsimp only
  (repeat' (split)) <;> first | with_reducible rfl | simp (disch := assumption) only [↓setTen_keeps, ↓apply_ite (blank l), ite_self]

theorem effInterruptEntry_keeps {l : List Comp} (h_regs : Has l .regs) (h_ptns : Has l .ptns) (h_pool : Has l .pool) (h_plat : Has l .plat) (h_tens : Has l .tens) (h_hostMem : Has l .hostMem) (h_msixHeld : Has l .msixHeld) (h_emitted : Has l .emitted) (h_fresh : Has l .fresh) :
    ∀ x0 s, blank l (effInterruptEntry x0 s) = blank l s := by
  intro x0 s
  unfold effInterruptEntry
  simp (disch := assumption) only [↓wr_keeps, ↓addSat_keeps, ↓setTen_keeps, ↓nextFresh_keeps, ↓withdrawWait_keeps, ↓apply_ite (blank l), ite_self]

theorem effEngineZeroingDone_keeps {l : List Comp} (h_tens : Has l .tens) :
    ∀ x0 s, blank l (effEngineZeroingDone x0 s) = blank l s := by
  intro x0 s
  unfold effEngineZeroingDone
  simp (disch := assumption) only [↓setTen_keeps, ↓apply_ite (blank l), ite_self]

theorem effProgramWindowWrite_keeps {l : List Comp} (h_regs : Has l .regs) (h_tens : Has l .tens) (h_msixHeld : Has l .msixHeld) (h_emitted : Has l .emitted) :
    ∀ x0 x1 x2 x3 s, blank l (effProgramWindowWrite x0 x1 x2 x3 s) = blank l s := by
  intro x0 x1 x2 x3 s
  unfold effProgramWindowWrite
  simp (disch := assumption) only [↓setErr_keeps, ↓denyAccess_keeps, ↓setTen_keeps, ↓apply_ite (blank l), ite_self]

end Sys2Proof.Machine
end

