-- ==== Sys2Proof/Laws/KeepRegisters.lean ====
section
/-! SUPPORT. What each operation of Machine/Registers.lean leaves as it was. -/

set_option linter.unusedSimpArgs false

namespace Sys2Proof.Machine

theorem armGroups_keeps {l : List Comp} (h_regs : Has l .regs) (h_sealAt : Has l .sealAt) :
    ∀ s x1 x2, blank l (armGroups s x1 x2) = blank l s := by
  intro s x1 x2
  unfold armGroups
  (repeat' (split)) <;> first | with_reducible rfl | simp (disch := first | assumption | (intro t x; first | with_reducible rfl | simp (disch := assumption) only [↓wr_keeps, ↓blank_sealAt, ↓apply_ite (blank l), ite_self] | ((repeat' (split)) <;> first | with_reducible rfl | simp (disch := assumption) only [↓wr_keeps, ↓blank_sealAt, ↓apply_ite (blank l), ite_self] | rfl))) only [↓wr_keeps, ↓blank_sealAt, ↓apply_ite (blank l), ite_self, ↓foldl_keeps, ↓foldr_keeps, ↓forUpTo_keeps, ↓foldl_snd_keeps]

theorem refuseSeal_keeps {l : List Comp} (h_regs : Has l .regs) (h_msixHeld : Has l .msixHeld) (h_emitted : Has l .emitted) :
    ∀ s x1 x2 x3 x4, blank l (refuseSeal s x1 x2 x3 x4) = blank l s := by
  intro s x1 x2 x3 x4
  unfold refuseSeal
  simp (disch := assumption) only [↓wr_keeps, ↓setErr_keeps]

theorem sealGroups_keeps {l : List Comp} (h_regs : Has l .regs) (h_eff : Has l .eff) (h_sealAt : Has l .sealAt) (h_ptns : Has l .ptns) (h_migs : Has l .migs) (h_locs : Has l .locs) (h_spillFreed : Has l .spillFreed) (h_pool : Has l .pool) (h_plat : Has l .plat) (h_tens : Has l .tens) (h_book : Has l .book) (h_hostMem : Has l .hostMem) (h_msixHeld : Has l .msixHeld) (h_emitted : Has l .emitted) :
    ∀ s x1 x2 x3, blank l (sealGroups s x1 x2 x3) = blank l s := by
  intro s x1 x2 x3
  unfold sealGroups
  simp (disch := assumption) only [↓applyGroups_keeps, ↓armGroups_keeps, ↓refuseSeal_keeps, ↓apply_ite (blank l), ite_self]

theorem writeSeal_keeps {l : List Comp} (h_regs : Has l .regs) (h_eff : Has l .eff) (h_sealAt : Has l .sealAt) (h_ptns : Has l .ptns) (h_migs : Has l .migs) (h_locs : Has l .locs) (h_spillFreed : Has l .spillFreed) (h_pool : Has l .pool) (h_plat : Has l .plat) (h_tens : Has l .tens) (h_book : Has l .book) (h_hostMem : Has l .hostMem) (h_msixHeld : Has l .msixHeld) (h_emitted : Has l .emitted) :
    ∀ s x1 x2 x3, blank l (writeSeal s x1 x2 x3) = blank l s := by
  intro s x1 x2 x3
  unfold writeSeal
  simp (disch := assumption) only [↓sealGroups_keeps, ↓apply_ite (blank l), ite_self]

theorem withPage_keeps {l : List Comp} (h_regs : Has l .regs) (h_msixHeld : Has l .msixHeld) (h_emitted : Has l .emitted) :
    ∀ s x1 x2 x3, (∀ y0, blank l (x3 y0) = blank l y0) → blank l (withPage s x1 x2 x3) = blank l s := by
  intro s x1 x2 x3 hf0
  unfold withPage
  simp (disch := assumption) only [↓denyAccess_keeps, ↓apply_ite (blank l), ite_self, ↓hf0]

theorem effSeal_keeps {l : List Comp} (h_regs : Has l .regs) (h_eff : Has l .eff) (h_sealAt : Has l .sealAt) (h_ptns : Has l .ptns) (h_migs : Has l .migs) (h_locs : Has l .locs) (h_spillFreed : Has l .spillFreed) (h_pool : Has l .pool) (h_plat : Has l .plat) (h_tens : Has l .tens) (h_book : Has l .book) (h_hostMem : Has l .hostMem) (h_msixHeld : Has l .msixHeld) (h_emitted : Has l .emitted) :
    ∀ x0 x1 x2 s, blank l (effSeal x0 x1 x2 s) = blank l s := by
  intro x0 x1 x2 s
  unfold effSeal
  simp (disch := first | assumption | (intros; (first | with_reducible rfl | simp (disch := assumption) only [↓writeSeal_keeps, ↓withPage_keeps, ↓blank_pool, ↓blank_hostMem, ↓blank_plat, ↓blank_eff, ↓blank_regs_eff_sealAt, ↓blank_ptns, ↓blank_regs, ↓blank_tens, ↓blank_locs, ↓blank_msixHeld, ↓blank_migs, ↓blank_sealAt, ↓blank_spillFreed, ↓blank_book, ↓blank_emitted, ↓apply_ite (blank l), ↓apply_ite Prod.snd, ite_self] | (try dsimp only; (repeat' (split)) <;> first | done | with_reducible rfl | simp (disch := assumption) only [↓writeSeal_keeps, ↓withPage_keeps, ↓blank_pool, ↓blank_hostMem, ↓blank_plat, ↓blank_eff, ↓blank_regs_eff_sealAt, ↓blank_ptns, ↓blank_regs, ↓blank_tens, ↓blank_locs, ↓blank_msixHeld, ↓blank_migs, ↓blank_sealAt, ↓blank_spillFreed, ↓blank_book, ↓blank_emitted, ↓apply_ite (blank l), ↓apply_ite Prod.snd, ite_self] | rfl)))) only [↓writeSeal_keeps, ↓withPage_keeps, ↓blank_pool, ↓blank_hostMem, ↓blank_plat, ↓blank_eff, ↓blank_regs_eff_sealAt, ↓blank_ptns, ↓blank_regs, ↓blank_tens, ↓blank_locs, ↓blank_msixHeld, ↓blank_migs, ↓blank_sealAt, ↓blank_spillFreed, ↓blank_book, ↓blank_emitted, ↓apply_ite (blank l), ↓apply_ite Prod.snd, ite_self, ↓foldl_keeps, ↓foldr_keeps, ↓forUpTo_keeps, ↓foldl_snd_keeps]

theorem writeExpert_keeps {l : List Comp} (h_regs : Has l .regs) (h_eff : Has l .eff) (h_sealAt : Has l .sealAt) (h_ptns : Has l .ptns) (h_migs : Has l .migs) (h_locs : Has l .locs) (h_spillFreed : Has l .spillFreed) (h_pool : Has l .pool) (h_plat : Has l .plat) (h_tens : Has l .tens) (h_book : Has l .book) (h_hostMem : Has l .hostMem) (h_msixHeld : Has l .msixHeld) (h_emitted : Has l .emitted) :
    ∀ s x1 x2 x3, blank l (writeExpert s x1 x2 x3) = blank l s := by
  intro s x1 x2 x3
  unfold writeExpert
  simp (disch := assumption) only [↓wr_keeps, ↓setErr_keeps, ↓sealGroups_keeps, ↓apply_ite (blank l), ite_self]

theorem effExpertEnWrite_keeps {l : List Comp} (h_regs : Has l .regs) (h_eff : Has l .eff) (h_sealAt : Has l .sealAt) (h_ptns : Has l .ptns) (h_migs : Has l .migs) (h_locs : Has l .locs) (h_spillFreed : Has l .spillFreed) (h_pool : Has l .pool) (h_plat : Has l .plat) (h_tens : Has l .tens) (h_book : Has l .book) (h_hostMem : Has l .hostMem) (h_msixHeld : Has l .msixHeld) (h_emitted : Has l .emitted) :
    ∀ x0 x1 x2 s, blank l (effExpertEnWrite x0 x1 x2 s) = blank l s := by
  intro x0 x1 x2 s
  unfold effExpertEnWrite
  simp (disch := first | assumption | (intros; (first | with_reducible rfl | simp (disch := assumption) only [↓withPage_keeps, ↓writeExpert_keeps, ↓blank_pool, ↓blank_hostMem, ↓blank_plat, ↓blank_eff, ↓blank_regs_eff_sealAt, ↓blank_ptns, ↓blank_regs, ↓blank_tens, ↓blank_locs, ↓blank_msixHeld, ↓blank_migs, ↓blank_sealAt, ↓blank_spillFreed, ↓blank_book, ↓blank_emitted, ↓apply_ite (blank l), ↓apply_ite Prod.snd, ite_self] | (try dsimp only; (repeat' (split)) <;> first | done | with_reducible rfl | simp (disch := assumption) only [↓withPage_keeps, ↓writeExpert_keeps, ↓blank_pool, ↓blank_hostMem, ↓blank_plat, ↓blank_eff, ↓blank_regs_eff_sealAt, ↓blank_ptns, ↓blank_regs, ↓blank_tens, ↓blank_locs, ↓blank_msixHeld, ↓blank_migs, ↓blank_sealAt, ↓blank_spillFreed, ↓blank_book, ↓blank_emitted, ↓apply_ite (blank l), ↓apply_ite Prod.snd, ite_self] | rfl)))) only [↓withPage_keeps, ↓writeExpert_keeps, ↓blank_pool, ↓blank_hostMem, ↓blank_plat, ↓blank_eff, ↓blank_regs_eff_sealAt, ↓blank_ptns, ↓blank_regs, ↓blank_tens, ↓blank_locs, ↓blank_msixHeld, ↓blank_migs, ↓blank_sealAt, ↓blank_spillFreed, ↓blank_book, ↓blank_emitted, ↓apply_ite (blank l), ↓apply_ite Prod.snd, ite_self, ↓foldl_keeps, ↓foldr_keeps, ↓forUpTo_keeps, ↓foldl_snd_keeps]

theorem effSealCommit_keeps {l : List Comp} (h_regs : Has l .regs) (h_eff : Has l .eff) (h_sealAt : Has l .sealAt) (h_ptns : Has l .ptns) (h_migs : Has l .migs) (h_locs : Has l .locs) (h_spillFreed : Has l .spillFreed) (h_pool : Has l .pool) (h_plat : Has l .plat) (h_tens : Has l .tens) (h_book : Has l .book) (h_hostMem : Has l .hostMem) (h_msixHeld : Has l .msixHeld) (h_emitted : Has l .emitted) :
    ∀ x0 s, blank l (effSealCommit x0 s) = blank l s := by
  intro x0 s
  unfold effSealCommit
  simp (disch := assumption) only [↓applyGroups_keeps, ↓apply_ite (blank l), ite_self]

theorem stopStn_keeps {l : List Comp} (h_regs : Has l .regs) (h_stns : Has l .stns) (h_ptns : Has l .ptns) (h_pool : Has l .pool) (h_plat : Has l .plat) (h_tens : Has l .tens) (h_hostMem : Has l .hostMem) (h_msixHeld : Has l .msixHeld) (h_emitted : Has l .emitted) :
    ∀ s x1, blank l (stopStn s x1) = blank l s := by
  intro s x1
  unfold stopStn
  dsimp only
  (repeat' (split)) <;> first | with_reducible rfl | simp (disch := assumption) only [↓requestSave_keeps, ↓dropTake_keeps]

theorem pauseFault_keeps {l : List Comp} (h_movs : Has l .movs) :
    ∀ s x1, blank l (pauseFault s x1) = blank l s := by
  intro s x1
  unfold pauseFault
  (repeat' (split)) <;> first | with_reducible rfl | simp (disch := assumption) only [↓setMov_keeps]

theorem resumeFault_keeps {l : List Comp} (h_movs : Has l .movs) :
    ∀ s x1, blank l (resumeFault s x1) = blank l s := by
  intro s x1
  unfold resumeFault
  simp (disch := assumption) only [↓setMov_keeps, ↓apply_ite (blank l), ite_self]

theorem dropTrvAccept_keeps {l : List Comp} (h_regs : Has l .regs) (h_ptns : Has l .ptns) (h_pool : Has l .pool) (h_plat : Has l .plat) (h_tens : Has l .tens) (h_hostMem : Has l .hostMem) (h_msixHeld : Has l .msixHeld) (h_emitted : Has l .emitted) (h_fresh : Has l .fresh) :
    ∀ s x1, blank l (dropTrvAccept s x1) = blank l s := by
  intro s x1
  unfold dropTrvAccept
  dsimp only
  (repeat' (split <;> (try (rename_i heq; have hh := congrArg Prod.snd heq; dsimp only at hh; subst hh)))) <;> first | with_reducible rfl | simp (disch := assumption) only [↓dropStakeWait_keeps, ↓commitOp_keeps, ↓takeGranted_keeps, ↓withdrawAgent_keeps]

theorem stopBlock_keeps {l : List Comp} (h_regs : Has l .regs) (h_stns : Has l .stns) (h_ptns : Has l .ptns) (h_movs : Has l .movs) (h_pool : Has l .pool) (h_plat : Has l .plat) (h_tens : Has l .tens) (h_hostMem : Has l .hostMem) (h_msixHeld : Has l .msixHeld) (h_emitted : Has l .emitted) (h_fresh : Has l .fresh) :
    ∀ s x1, blank l (stopBlock s x1) = blank l s := by
  intro s x1
  unfold stopBlock
  (repeat' (split)) <;> first | with_reducible rfl | simp (disch := first | assumption | (intro t x; first | with_reducible rfl | simp (disch := assumption) only [↓withdrawAgent_keeps, ↓withdrawAll_keeps, ↓dropAccept_keeps, ↓yieldItems_keeps, ↓stopStn_keeps, ↓pauseFault_keeps, ↓dropTrvAccept_keeps, ↓apply_ite (blank l), ite_self] | ((repeat' (split)) <;> first | with_reducible rfl | simp (disch := assumption) only [↓withdrawAgent_keeps, ↓withdrawAll_keeps, ↓dropAccept_keeps, ↓yieldItems_keeps, ↓stopStn_keeps, ↓pauseFault_keeps, ↓dropTrvAccept_keeps, ↓apply_ite (blank l), ite_self] | rfl))) only [↓withdrawAgent_keeps, ↓withdrawAll_keeps, ↓dropAccept_keeps, ↓yieldItems_keeps, ↓stopStn_keeps, ↓pauseFault_keeps, ↓dropTrvAccept_keeps, ↓apply_ite (blank l), ite_self, ↓foldl_keeps, ↓foldr_keeps, ↓forUpTo_keeps, ↓foldl_snd_keeps]

theorem beginQuiesce_keeps {l : List Comp} (h_regs : Has l .regs) (h_stns : Has l .stns) (h_ptns : Has l .ptns) (h_movs : Has l .movs) (h_pool : Has l .pool) (h_plat : Has l .plat) (h_tens : Has l .tens) (h_hostMem : Has l .hostMem) (h_msixHeld : Has l .msixHeld) (h_emitted : Has l .emitted) (h_fresh : Has l .fresh) :
    ∀ s x1, blank l (beginQuiesce s x1) = blank l s := by
  intro s x1
  unfold beginQuiesce
  (repeat' (split)) <;> first | with_reducible rfl | simp (disch := first | assumption | (intro t x; first | with_reducible rfl | simp (disch := assumption) only [↓dropAllHeld_keeps, ↓stopBlock_keeps, ↓apply_ite (blank l), ite_self] | ((repeat' (split)) <;> first | with_reducible rfl | simp (disch := assumption) only [↓dropAllHeld_keeps, ↓stopBlock_keeps, ↓apply_ite (blank l), ite_self] | rfl))) only [↓dropAllHeld_keeps, ↓stopBlock_keeps, ↓apply_ite (blank l), ite_self, ↓foldl_keeps, ↓foldr_keeps, ↓forUpTo_keeps, ↓foldl_snd_keeps]

theorem setQuiesce_keeps {l : List Comp} (h_regs : Has l .regs) (h_stns : Has l .stns) (h_ptns : Has l .ptns) (h_movs : Has l .movs) (h_pool : Has l .pool) (h_plat : Has l .plat) (h_tens : Has l .tens) (h_hostMem : Has l .hostMem) (h_msixHeld : Has l .msixHeld) (h_emitted : Has l .emitted) (h_fresh : Has l .fresh) :
    ∀ s x1, blank l (setQuiesce s x1) = blank l s := by
  intro s x1
  unfold setQuiesce
  simp (disch := assumption) only [↓wr_keeps, ↓setErr_keeps, ↓beginQuiesce_keeps, ↓apply_ite (blank l), ite_self]

theorem reachStn_keeps {l : List Comp} (h_regs : Has l .regs) (h_eff : Has l .eff) (h_sealAt : Has l .sealAt) (h_ptns : Has l .ptns) (h_migs : Has l .migs) (h_locs : Has l .locs) (h_spillFreed : Has l .spillFreed) (h_pool : Has l .pool) (h_plat : Has l .plat) (h_tens : Has l .tens) (h_book : Has l .book) (h_hostMem : Has l .hostMem) (h_msixHeld : Has l .msixHeld) (h_emitted : Has l .emitted) :
    ∀ s x1, blank l (reachStn s x1) = blank l s := by
  intro s x1
  unfold reachStn
  (repeat' (split)) <;> first | with_reducible rfl | simp (disch := first | assumption | (intro t x; first | with_reducible rfl | simp (disch := assumption) only [↓reachQuiesced_keeps, ↓apply_ite (blank l), ite_self] | ((repeat' (split)) <;> first | with_reducible rfl | simp (disch := assumption) only [↓reachQuiesced_keeps, ↓apply_ite (blank l), ite_self] | rfl))) only [↓reachQuiesced_keeps, ↓apply_ite (blank l), ite_self, ↓foldl_keeps, ↓foldr_keeps, ↓forUpTo_keeps, ↓foldl_snd_keeps]

theorem effQuiesceComplete_keeps {l : List Comp} (h_regs : Has l .regs) (h_eff : Has l .eff) (h_sealAt : Has l .sealAt) (h_ptns : Has l .ptns) (h_migs : Has l .migs) (h_locs : Has l .locs) (h_spillFreed : Has l .spillFreed) (h_pool : Has l .pool) (h_plat : Has l .plat) (h_tens : Has l .tens) (h_book : Has l .book) (h_hlt : Has l .hlt) (h_hostMem : Has l .hostMem) (h_msixHeld : Has l .msixHeld) (h_emitted : Has l .emitted) :
    ∀ x0 s, blank l (effQuiesceComplete x0 s) = blank l s := by
  intro x0 s
  unfold effQuiesceComplete
  (repeat' (split)) <;> first | with_reducible rfl | simp (disch := assumption) only [↓reachQuiesced_keeps, ↓resetSettle_keeps, ↓reachStn_keeps, ↓apply_ite (blank l), ite_self]

theorem resumePage_keeps {l : List Comp} (h_regs : Has l .regs) (h_fp : Has l .fp) (h_stns : Has l .stns) (h_ptns : Has l .ptns) (h_migs : Has l .migs) (h_locs : Has l .locs) (h_spillFreed : Has l .spillFreed) (h_tierHeld : Has l .tierHeld) (h_movs : Has l .movs) (h_pool : Has l .pool) (h_plat : Has l .plat) (h_tens : Has l .tens) (h_cdus : Has l .cdus) (h_trv : Has l .trv) (h_hostMem : Has l .hostMem) (h_msixHeld : Has l .msixHeld) (h_emitted : Has l .emitted) (h_fresh : Has l .fresh) :
    ∀ s x1, blank l (resumePage s x1) = blank l s := by
  intro s x1
  unfold resumePage
  split
  · rfl
  · split
    case h_4 =>
      rw [forUpTo_keeps]
      · simp (disch := assumption) only [↓wake_keeps, ↓leaveQuiesced_keeps, ↓resumeStnPage_keeps, ↓serveMigs_keeps, ↓pinsResume_keeps, ↓quotaFollow_keeps, ↓serveTraverse_keeps, ↓serveHeld_keeps, ↓resumeFault_keeps, ↓blank_cdus, ↓blank_pool, ↓blank_fp, ↓blank_hostMem, ↓blank_plat, ↓blank_pool_fresh, ↓blank_trv, ↓blank_ptns, ↓blank_regs, ↓blank_tierHeld, ↓blank_tens, ↓blank_locs, ↓blank_msixHeld, ↓blank_migs, ↓blank_fresh, ↓blank_movs, ↓blank_stns, ↓blank_spillFreed, ↓blank_emitted, ↓apply_ite (blank l), ↓apply_ite Prod.snd, ite_self]
      · intro i t
        simp (disch := assumption) only [↓wake_keeps, ↓leaveQuiesced_keeps, ↓resumeStnPage_keeps, ↓serveMigs_keeps, ↓pinsResume_keeps, ↓quotaFollow_keeps, ↓serveTraverse_keeps, ↓serveHeld_keeps, ↓resumeFault_keeps, ↓blank_cdus, ↓blank_pool, ↓blank_fp, ↓blank_hostMem, ↓blank_plat, ↓blank_pool_fresh, ↓blank_trv, ↓blank_ptns, ↓blank_regs, ↓blank_tierHeld, ↓blank_tens, ↓blank_locs, ↓blank_msixHeld, ↓blank_migs, ↓blank_fresh, ↓blank_movs, ↓blank_stns, ↓blank_spillFreed, ↓blank_emitted, ↓apply_ite (blank l), ↓apply_ite Prod.snd, ite_self]
    case h_5 =>
      rw [serveTraverse_keeps h_regs h_fp h_stns h_ptns h_migs h_locs h_spillFreed h_pool h_plat h_tens h_cdus h_trv h_hostMem h_msixHeld h_emitted h_fresh, serveHeld_keeps h_regs h_fp h_stns h_ptns h_migs h_locs h_spillFreed h_tierHeld h_tens h_cdus h_hostMem h_emitted h_fresh, serveMigs_keeps h_regs h_ptns h_migs h_locs h_spillFreed, forUpTo_keeps]
      · simp (disch := assumption) only [↓wake_keeps, ↓leaveQuiesced_keeps, ↓resumeStnPage_keeps, ↓serveMigs_keeps, ↓pinsResume_keeps, ↓quotaFollow_keeps, ↓serveTraverse_keeps, ↓serveHeld_keeps, ↓resumeFault_keeps, ↓blank_cdus, ↓blank_pool, ↓blank_fp, ↓blank_hostMem, ↓blank_plat, ↓blank_pool_fresh, ↓blank_trv, ↓blank_ptns, ↓blank_regs, ↓blank_tierHeld, ↓blank_tens, ↓blank_locs, ↓blank_msixHeld, ↓blank_migs, ↓blank_fresh, ↓blank_movs, ↓blank_stns, ↓blank_spillFreed, ↓blank_emitted, ↓apply_ite (blank l), ↓apply_ite Prod.snd, ite_self]
      · intro i t
        simp (disch := assumption) only [↓wake_keeps, ↓leaveQuiesced_keeps, ↓resumeStnPage_keeps, ↓serveMigs_keeps, ↓pinsResume_keeps, ↓quotaFollow_keeps, ↓serveTraverse_keeps, ↓serveHeld_keeps, ↓resumeFault_keeps, ↓blank_cdus, ↓blank_pool, ↓blank_fp, ↓blank_hostMem, ↓blank_plat, ↓blank_pool_fresh, ↓blank_trv, ↓blank_ptns, ↓blank_regs, ↓blank_tierHeld, ↓blank_tens, ↓blank_locs, ↓blank_msixHeld, ↓blank_migs, ↓blank_fresh, ↓blank_movs, ↓blank_stns, ↓blank_spillFreed, ↓blank_emitted, ↓apply_ite (blank l), ↓apply_ite Prod.snd, ite_self]
    all_goals ((repeat' (split)) <;> first | with_reducible rfl | simp (disch := assumption) only [↓wake_keeps, ↓leaveQuiesced_keeps, ↓resumeStnPage_keeps, ↓serveMigs_keeps, ↓pinsResume_keeps, ↓quotaFollow_keeps, ↓serveTraverse_keeps, ↓serveHeld_keeps, ↓resumeFault_keeps, ↓blank_cdus, ↓blank_pool, ↓blank_fp, ↓blank_hostMem, ↓blank_plat, ↓blank_pool_fresh, ↓blank_trv, ↓blank_ptns, ↓blank_regs, ↓blank_tierHeld, ↓blank_tens, ↓blank_locs, ↓blank_msixHeld, ↓blank_migs, ↓blank_fresh, ↓blank_movs, ↓blank_stns, ↓blank_spillFreed, ↓blank_emitted, ↓apply_ite (blank l), ↓apply_ite Prod.snd, ite_self])

theorem clearQuiesce_keeps {l : List Comp} (h_regs : Has l .regs) (h_fp : Has l .fp) (h_stns : Has l .stns) (h_ptns : Has l .ptns) (h_migs : Has l .migs) (h_locs : Has l .locs) (h_spillFreed : Has l .spillFreed) (h_tierHeld : Has l .tierHeld) (h_movs : Has l .movs) (h_pool : Has l .pool) (h_plat : Has l .plat) (h_tens : Has l .tens) (h_cdus : Has l .cdus) (h_trv : Has l .trv) (h_hlt : Has l .hlt) (h_hostMem : Has l .hostMem) (h_msixHeld : Has l .msixHeld) (h_emitted : Has l .emitted) (h_fresh : Has l .fresh) :
    ∀ s x1, blank l (clearQuiesce s x1) = blank l s := by
  intro s x1
  unfold clearQuiesce
  (repeat' (split)) <;> first | with_reducible rfl | simp (disch := first | assumption | (intro t x; first | with_reducible rfl | simp (disch := assumption) only [↓wr_keeps, ↓recoverStart_keeps, ↓resetSettle_keeps, ↓resumePage_keeps, ↓apply_ite (blank l), ite_self] | ((repeat' (split)) <;> first | with_reducible rfl | simp (disch := assumption) only [↓wr_keeps, ↓recoverStart_keeps, ↓resetSettle_keeps, ↓resumePage_keeps, ↓apply_ite (blank l), ite_self] | rfl))) only [↓wr_keeps, ↓recoverStart_keeps, ↓resetSettle_keeps, ↓resumePage_keeps, ↓apply_ite (blank l), ite_self, ↓foldl_keeps, ↓foldr_keeps, ↓forUpTo_keeps, ↓foldl_snd_keeps]

theorem writeQuiesce_keeps {l : List Comp} (h_regs : Has l .regs) (h_fp : Has l .fp) (h_stns : Has l .stns) (h_ptns : Has l .ptns) (h_migs : Has l .migs) (h_locs : Has l .locs) (h_spillFreed : Has l .spillFreed) (h_tierHeld : Has l .tierHeld) (h_movs : Has l .movs) (h_pool : Has l .pool) (h_plat : Has l .plat) (h_tens : Has l .tens) (h_cdus : Has l .cdus) (h_trv : Has l .trv) (h_hlt : Has l .hlt) (h_hostMem : Has l .hostMem) (h_msixHeld : Has l .msixHeld) (h_emitted : Has l .emitted) (h_fresh : Has l .fresh) :
    ∀ s x1 x2 x3, blank l (writeQuiesce s x1 x2 x3) = blank l s := by
  intro s x1 x2 x3
  unfold writeQuiesce
  (repeat' (split)) <;> first | with_reducible rfl | simp (disch := assumption) only [↓setErr_keeps, ↓setQuiesce_keeps, ↓clearQuiesce_keeps, ↓apply_ite (blank l), ite_self]

theorem effQuiesceRequest_keeps {l : List Comp} (h_regs : Has l .regs) (h_fp : Has l .fp) (h_stns : Has l .stns) (h_ptns : Has l .ptns) (h_migs : Has l .migs) (h_locs : Has l .locs) (h_spillFreed : Has l .spillFreed) (h_tierHeld : Has l .tierHeld) (h_movs : Has l .movs) (h_pool : Has l .pool) (h_plat : Has l .plat) (h_tens : Has l .tens) (h_cdus : Has l .cdus) (h_trv : Has l .trv) (h_hlt : Has l .hlt) (h_hostMem : Has l .hostMem) (h_msixHeld : Has l .msixHeld) (h_emitted : Has l .emitted) (h_fresh : Has l .fresh) :
    ∀ x0 x1 s, blank l (effQuiesceRequest x0 x1 s) = blank l s := by
  intro x0 x1 s
  unfold effQuiesceRequest
  simp (disch := first | assumption | (intros; (first | with_reducible rfl | simp (disch := assumption) only [↓withPage_keeps, ↓writeQuiesce_keeps, ↓blank_cdus, ↓blank_hlt, ↓blank_pool, ↓blank_fp, ↓blank_hostMem, ↓blank_plat, ↓blank_pool_fresh, ↓blank_trv, ↓blank_ptns_migs_hlt, ↓blank_ptns, ↓blank_regs, ↓blank_tierHeld, ↓blank_tens, ↓blank_locs, ↓blank_msixHeld, ↓blank_migs, ↓blank_fresh, ↓blank_movs, ↓blank_stns, ↓blank_spillFreed, ↓blank_emitted, ↓apply_ite (blank l), ↓apply_ite Prod.snd, ite_self] | (try dsimp only; (repeat' (split)) <;> first | done | with_reducible rfl | simp (disch := assumption) only [↓withPage_keeps, ↓writeQuiesce_keeps, ↓blank_cdus, ↓blank_hlt, ↓blank_pool, ↓blank_fp, ↓blank_hostMem, ↓blank_plat, ↓blank_pool_fresh, ↓blank_trv, ↓blank_ptns_migs_hlt, ↓blank_ptns, ↓blank_regs, ↓blank_tierHeld, ↓blank_tens, ↓blank_locs, ↓blank_msixHeld, ↓blank_migs, ↓blank_fresh, ↓blank_movs, ↓blank_stns, ↓blank_spillFreed, ↓blank_emitted, ↓apply_ite (blank l), ↓apply_ite Prod.snd, ite_self] | rfl)))) only [↓withPage_keeps, ↓writeQuiesce_keeps, ↓blank_cdus, ↓blank_hlt, ↓blank_pool, ↓blank_fp, ↓blank_hostMem, ↓blank_plat, ↓blank_pool_fresh, ↓blank_trv, ↓blank_ptns_migs_hlt, ↓blank_ptns, ↓blank_regs, ↓blank_tierHeld, ↓blank_tens, ↓blank_locs, ↓blank_msixHeld, ↓blank_migs, ↓blank_fresh, ↓blank_movs, ↓blank_stns, ↓blank_spillFreed, ↓blank_emitted, ↓apply_ite (blank l), ↓apply_ite Prod.snd, ite_self, ↓foldl_keeps, ↓foldr_keeps, ↓forUpTo_keeps, ↓foldl_snd_keeps]

theorem effQuiesceClear_keeps {l : List Comp} (h_regs : Has l .regs) (h_fp : Has l .fp) (h_stns : Has l .stns) (h_ptns : Has l .ptns) (h_migs : Has l .migs) (h_locs : Has l .locs) (h_spillFreed : Has l .spillFreed) (h_tierHeld : Has l .tierHeld) (h_movs : Has l .movs) (h_pool : Has l .pool) (h_plat : Has l .plat) (h_tens : Has l .tens) (h_cdus : Has l .cdus) (h_trv : Has l .trv) (h_hlt : Has l .hlt) (h_hostMem : Has l .hostMem) (h_msixHeld : Has l .msixHeld) (h_emitted : Has l .emitted) (h_fresh : Has l .fresh) :
    ∀ x0 x1 s, blank l (effQuiesceClear x0 x1 s) = blank l s := by
  intro x0 x1 s
  unfold effQuiesceClear
  simp (disch := first | assumption | (intros; (first | with_reducible rfl | simp (disch := assumption) only [↓withPage_keeps, ↓writeQuiesce_keeps, ↓blank_cdus, ↓blank_hlt, ↓blank_pool, ↓blank_fp, ↓blank_hostMem, ↓blank_plat, ↓blank_pool_fresh, ↓blank_trv, ↓blank_ptns_migs_hlt, ↓blank_ptns, ↓blank_regs, ↓blank_tierHeld, ↓blank_tens, ↓blank_locs, ↓blank_msixHeld, ↓blank_migs, ↓blank_fresh, ↓blank_movs, ↓blank_stns, ↓blank_spillFreed, ↓blank_emitted, ↓apply_ite (blank l), ↓apply_ite Prod.snd, ite_self] | (try dsimp only; (repeat' (split)) <;> first | done | with_reducible rfl | simp (disch := assumption) only [↓withPage_keeps, ↓writeQuiesce_keeps, ↓blank_cdus, ↓blank_hlt, ↓blank_pool, ↓blank_fp, ↓blank_hostMem, ↓blank_plat, ↓blank_pool_fresh, ↓blank_trv, ↓blank_ptns_migs_hlt, ↓blank_ptns, ↓blank_regs, ↓blank_tierHeld, ↓blank_tens, ↓blank_locs, ↓blank_msixHeld, ↓blank_migs, ↓blank_fresh, ↓blank_movs, ↓blank_stns, ↓blank_spillFreed, ↓blank_emitted, ↓apply_ite (blank l), ↓apply_ite Prod.snd, ite_self] | rfl)))) only [↓withPage_keeps, ↓writeQuiesce_keeps, ↓blank_cdus, ↓blank_hlt, ↓blank_pool, ↓blank_fp, ↓blank_hostMem, ↓blank_plat, ↓blank_pool_fresh, ↓blank_trv, ↓blank_ptns_migs_hlt, ↓blank_ptns, ↓blank_regs, ↓blank_tierHeld, ↓blank_tens, ↓blank_locs, ↓blank_msixHeld, ↓blank_migs, ↓blank_fresh, ↓blank_movs, ↓blank_stns, ↓blank_spillFreed, ↓blank_emitted, ↓apply_ite (blank l), ↓apply_ite Prod.snd, ite_self, ↓foldl_keeps, ↓foldr_keeps, ↓forUpTo_keeps, ↓foldl_snd_keeps]

theorem writeOwner_keeps {l : List Comp} (h_regs : Has l .regs) (h_eff : Has l .eff) (h_cap : Has l .cap) (h_sealAt : Has l .sealAt) (h_fp : Has l .fp) (h_stns : Has l .stns) (h_ptns : Has l .ptns) (h_movs : Has l .movs) (h_pool : Has l .pool) (h_mer : Has l .mer) (h_plat : Has l .plat) (h_tens : Has l .tens) (h_cdus : Has l .cdus) (h_fhqs : Has l .fhqs) (h_trv : Has l .trv) (h_hostMem : Has l .hostMem) (h_msixHeld : Has l .msixHeld) (h_emitted : Has l .emitted) (h_fresh : Has l .fresh) :
    ∀ s x1 x2 x3, blank l (writeOwner s x1 x2 x3) = blank l s := by
  intro s x1 x2 x3
  unfold writeOwner
  (repeat' (split)) <;> first | with_reducible rfl | simp (disch := assumption) only [↓setErr_keeps, ↓changeOwner_keeps, ↓apply_ite (blank l), ite_self]

theorem effOwnerWrite_keeps {l : List Comp} (h_regs : Has l .regs) (h_eff : Has l .eff) (h_cap : Has l .cap) (h_sealAt : Has l .sealAt) (h_fp : Has l .fp) (h_stns : Has l .stns) (h_ptns : Has l .ptns) (h_movs : Has l .movs) (h_pool : Has l .pool) (h_mer : Has l .mer) (h_plat : Has l .plat) (h_tens : Has l .tens) (h_cdus : Has l .cdus) (h_fhqs : Has l .fhqs) (h_trv : Has l .trv) (h_hostMem : Has l .hostMem) (h_msixHeld : Has l .msixHeld) (h_emitted : Has l .emitted) (h_fresh : Has l .fresh) :
    ∀ x0 x1 x2 s, blank l (effOwnerWrite x0 x1 x2 s) = blank l s := by
  intro x0 x1 x2 s
  unfold effOwnerWrite
  simp (disch := first | assumption | (intros; (first | with_reducible rfl | simp (disch := assumption) only [↓withPage_keeps, ↓writeOwner_keeps, ↓blank_cdus, ↓blank_pool, ↓blank_fp, ↓blank_hostMem, ↓blank_plat, ↓blank_pool_fresh, ↓blank_trv, ↓blank_eff, ↓blank_regs_eff_sealAt, ↓blank_ptns, ↓blank_regs, ↓blank_tens, ↓blank_msixHeld, ↓blank_sealAt, ↓blank_mer, ↓blank_fresh, ↓blank_regs_eff_cap_sealAt, ↓blank_cap, ↓blank_movs, ↓blank_stns, ↓blank_fhqs, ↓blank_emitted, ↓apply_ite (blank l), ↓apply_ite Prod.snd, ite_self] | (try dsimp only; (repeat' (split)) <;> first | done | with_reducible rfl | simp (disch := assumption) only [↓withPage_keeps, ↓writeOwner_keeps, ↓blank_cdus, ↓blank_pool, ↓blank_fp, ↓blank_hostMem, ↓blank_plat, ↓blank_pool_fresh, ↓blank_trv, ↓blank_eff, ↓blank_regs_eff_sealAt, ↓blank_ptns, ↓blank_regs, ↓blank_tens, ↓blank_msixHeld, ↓blank_sealAt, ↓blank_mer, ↓blank_fresh, ↓blank_regs_eff_cap_sealAt, ↓blank_cap, ↓blank_movs, ↓blank_stns, ↓blank_fhqs, ↓blank_emitted, ↓apply_ite (blank l), ↓apply_ite Prod.snd, ite_self] | rfl)))) only [↓withPage_keeps, ↓writeOwner_keeps, ↓blank_cdus, ↓blank_pool, ↓blank_fp, ↓blank_hostMem, ↓blank_plat, ↓blank_pool_fresh, ↓blank_trv, ↓blank_eff, ↓blank_regs_eff_sealAt, ↓blank_ptns, ↓blank_regs, ↓blank_tens, ↓blank_msixHeld, ↓blank_sealAt, ↓blank_mer, ↓blank_fresh, ↓blank_regs_eff_cap_sealAt, ↓blank_cap, ↓blank_movs, ↓blank_stns, ↓blank_fhqs, ↓blank_emitted, ↓apply_ite (blank l), ↓apply_ite Prod.snd, ite_self, ↓foldl_keeps, ↓foldr_keeps, ↓forUpTo_keeps, ↓foldl_snd_keeps]

theorem storeField_keeps {l : List Comp} (h_regs : Has l .regs) (h_msixHeld : Has l .msixHeld) (h_emitted : Has l .emitted) :
    ∀ x0 x1 x2 s x4, blank l (storeField x0 x1 x2 s x4) = blank l s := by
  intro x0 x1 x2 s x4
  unfold storeField
  (repeat' (split)) <;> first | with_reducible rfl | simp (disch := assumption) only [↓wr_keeps, ↓setErr_keeps, ↓apply_ite (blank l), ite_self]

theorem ptnActs_keeps {l : List Comp} (h_regs : Has l .regs) (h_stns : Has l .stns) (h_ptns : Has l .ptns) (h_migs : Has l .migs) (h_locs : Has l .locs) (h_spillFreed : Has l .spillFreed) (h_movs : Has l .movs) (h_pool : Has l .pool) (h_plat : Has l .plat) (h_tens : Has l .tens) (h_mon : Has l .mon) (h_hostMem : Has l .hostMem) (h_msixHeld : Has l .msixHeld) (h_emitted : Has l .emitted) (h_fresh : Has l .fresh) :
    ∀ x0 x1 x2 x3 s, blank l (ptnActs x0 x1 x2 x3 s) = blank l s := by
  intro x0 x1 x2 x3 s
  unfold ptnActs
  simp (disch := assumption) only [↓wr_keeps, ↓showBinding_keeps, ↓bindGo_keeps, ↓freeRange_keeps, ↓loadTileInfo_keeps, ↓sqDoorbell_keeps, ↓cqHead_keeps, ↓requestReport_keeps, ↓apply_ite (blank l), ite_self]

theorem changeLendRes_keeps {l : List Comp} (h_stns : Has l .stns) :
    ∀ s x1 x2, blank l (changeLendRes s x1 x2) = blank l s := by
  intro s x1 x2
  unfold changeLendRes
  simp (disch := assumption) only [↓setStn_keeps, ↓apply_ite (blank l), ite_self]

theorem stnActs_keeps {l : List Comp} (h_regs : Has l .regs) (h_stns : Has l .stns) (h_fresh : Has l .fresh) :
    ∀ x0 x1 x2 x3 s, blank l (stnActs x0 x1 x2 x3 s) = blank l s := by
  intro x0 x1 x2 x3 s
  unfold stnActs
  simp (disch := assumption) only [↓statClear_keeps, ↓changeLendRes_keeps, ↓apply_ite (blank l), ite_self]

theorem hostConfigured_keeps {l : List Comp} (h_locs : Has l .locs) (h_spillNext : Has l .spillNext) (h_spillFreed : Has l .spillFreed) :
    ∀ x0 s, blank l (hostConfigured x0 s) = blank l s := by
  intro x0 s
  unfold hostConfigured
  simp (disch := assumption) only [↓setLocs_keeps, ↓blank_spillNext_spillFreed, ↓blank_spillNext, ↓blank_spillFreed, ↓apply_ite (blank l), ite_self]

theorem movActs_keeps {l : List Comp} (h_regs : Has l .regs) (h_stns : Has l .stns) (h_ptns : Has l .ptns) (h_movs : Has l .movs) (h_xlate : Has l .xlate) (h_pool : Has l .pool) (h_plat : Has l .plat) (h_tens : Has l .tens) (h_hostMem : Has l .hostMem) (h_msixHeld : Has l .msixHeld) (h_emitted : Has l .emitted) (h_fresh : Has l .fresh) :
    ∀ x0 x1 x2 x3 s, blank l (movActs x0 x1 x2 x3 s) = blank l s := by
  intro x0 x1 x2 x3 s
  unfold movActs
  simp (disch := assumption) only [↓effFltCmdResume_keeps, ↓effFltCmdAbort_keeps, ↓effInvGo_keeps, ↓apply_ite (blank l), ite_self]

theorem pqOperation_keeps {l : List Comp} (h_regs : Has l .regs) (h_ptns : Has l .ptns) (h_pool : Has l .pool) (h_plat : Has l .plat) (h_tens : Has l .tens) (h_hostMem : Has l .hostMem) (h_msixHeld : Has l .msixHeld) (h_emitted : Has l .emitted) (h_fresh : Has l .fresh) :
    ∀ x0 x1 s x3, blank l (pqOperation x0 x1 s x3) = blank l s := by
  intro x0 x1 s x3
  unfold pqOperation
  (repeat' (split)) <;> first | with_reducible rfl | simp (disch := assumption) only [↓effReserve_keeps, ↓effCommit_keeps, ↓effRead_keeps, ↓effMark_keeps, ↓effRewind_keeps, ↓effRelease_keeps, ↓effReleaseH_keeps]

theorem pqActs_keeps {l : List Comp} (h_regs : Has l .regs) (h_ptns : Has l .ptns) (h_movs : Has l .movs) (h_pool : Has l .pool) (h_plat : Has l .plat) (h_tens : Has l .tens) (h_hostMem : Has l .hostMem) (h_msixHeld : Has l .msixHeld) (h_emitted : Has l .emitted) (h_fresh : Has l .fresh) :
    ∀ x0 x1 x2 x3 s, blank l (pqActs x0 x1 x2 x3 s) = blank l s := by
  intro x0 x1 x2 x3 s
  unfold pqActs
  simp (disch := assumption) only [↓effAbort_keeps, ↓effClear_keeps, ↓effQueueEnable_keeps, ↓pqOperation_keeps, ↓apply_ite (blank l), ite_self]

theorem writeTrigger_keeps {l : List Comp} (h_regs : Has l .regs) (h_msixHeld : Has l .msixHeld) (h_emitted : Has l .emitted) :
    ∀ s x1 x2 x3, blank l (writeTrigger s x1 x2 x3) = blank l s := by
  intro s x1 x2 x3
  unfold writeTrigger
  simp (disch := assumption) only [↓wr_keeps, ↓setErr_keeps, ↓apply_ite (blank l), ite_self]

theorem merActs_keeps {l : List Comp} (h_regs : Has l .regs) (h_mer : Has l .mer) (h_msixHeld : Has l .msixHeld) (h_emitted : Has l .emitted) :
    ∀ x0 x1 x2 s, blank l (merActs x0 x1 x2 s) = blank l s := by
  intro x0 x1 x2 s
  unfold merActs
  simp (disch := assumption) only [↓timeDomainReset_keeps, ↓effStepGo_keeps, ↓effRateWrite_keeps, ↓effAdjWrite_keeps, ↓writeArm_keeps, ↓writeDisarm_keeps, ↓writeTrigger_keeps, ↓apply_ite (blank l), ite_self]

theorem pltActs_keeps {l : List Comp} (h_regs : Has l .regs) (h_plat : Has l .plat) (h_msixHeld : Has l .msixHeld) (h_emitted : Has l .emitted) :
    ∀ x0 x1 x2 s, blank l (pltActs x0 x1 x2 s) = blank l s := by
  intro x0 x1 x2 s
  unfold pltActs
  (repeat' (split)) <;> first | with_reducible rfl | simp (disch := assumption) only [↓wr_keeps, ↓effPatternCommit_keeps, ↓effUncommit_keeps, ↓effStop_keeps, ↓effTrimArm_keeps, ↓effStakeQuery_keeps, ↓apply_ite (blank l), ite_self]

theorem hifActs_keeps {l : List Comp} (h_regs : Has l .regs) (h_eff : Has l .eff) (h_cap : Has l .cap) (h_sealAt : Has l .sealAt) (h_fp : Has l .fp) (h_stns : Has l .stns) (h_ptns : Has l .ptns) (h_migs : Has l .migs) (h_locs : Has l .locs) (h_spillFreed : Has l .spillFreed) (h_tierHeld : Has l .tierHeld) (h_movs : Has l .movs) (h_pool : Has l .pool) (h_mer : Has l .mer) (h_plat : Has l .plat) (h_tens : Has l .tens) (h_cdus : Has l .cdus) (h_book : Has l .book) (h_fhqs : Has l .fhqs) (h_trv : Has l .trv) (h_mon : Has l .mon) (h_hostMem : Has l .hostMem) (h_msixHeld : Has l .msixHeld) (h_emitted : Has l .emitted) (h_fresh : Has l .fresh) :
    ∀ x0 x1 x2 s, blank l (hifActs x0 x1 x2 s) = blank l s := by
  intro x0 x1 x2 s
  unfold hifActs
  (repeat' (split)) <;> first | with_reducible rfl | simp (disch := assumption) only [↓effCreate_keeps, ↓effDestroy_keeps, ↓effAbortPending_keeps, ↓apply_ite (blank l), ite_self]

theorem hltActs_keeps {l : List Comp} (h_stage : Has l .stage) (h_regs : Has l .regs) (h_eff : Has l .eff) (h_cap : Has l .cap) (h_sealAt : Has l .sealAt) (h_fp : Has l .fp) (h_stns : Has l .stns) (h_ptns : Has l .ptns) (h_migs : Has l .migs) (h_locs : Has l .locs) (h_spillFreed : Has l .spillFreed) (h_tierHeld : Has l .tierHeld) (h_movs : Has l .movs) (h_xlate : Has l .xlate) (h_pool : Has l .pool) (h_mer : Has l .mer) (h_plat : Has l .plat) (h_tens : Has l .tens) (h_cdus : Has l .cdus) (h_book : Has l .book) (h_fhps : Has l .fhps) (h_fhqs : Has l .fhqs) (h_flows : Has l .flows) (h_flowSeq : Has l .flowSeq) (h_trv : Has l .trv) (h_hlt : Has l .hlt) (h_mon : Has l .mon) (h_pwr : Has l .pwr) (h_hostMem : Has l .hostMem) (h_bme : Has l .bme) (h_msixOff : Has l .msixOff) (h_msixHeld : Has l .msixHeld) (h_emitted : Has l .emitted) (h_fresh : Has l .fresh) :
    ∀ x0 x1 s, blank l (hltActs x0 x1 s) = blank l s := by
  intro x0 x1 s
  unfold hltActs
  dsimp only
  (repeat' (split)) <;> first | with_reducible rfl | simp (disch := first | assumption | (intros; (first | with_reducible rfl | simp (disch := assumption) only [↓wr_keeps, ↓resetGo_keeps, ↓stationReset_keeps, ↓clusterReset_keeps, ↓partitionReset_keeps, ↓warmReset_keeps, ↓requestConsent_keeps, ↓blank_flows, ↓blank_msixOff_msixHeld, ↓blank_cdus, ↓blank_hlt, ↓blank_pool, ↓blank_fp, ↓blank_hostMem, ↓blank_plat, ↓blank_pool_fresh, ↓blank_trv, ↓blank_ptns_migs_hlt, ↓blank_mon, ↓blank_eff, ↓blank_regs_eff_sealAt, ↓blank_ptns, ↓blank_stage, ↓blank_regs, ↓blank_bme_msixOff, ↓blank_tierHeld, ↓blank_bme_msixOff_msixHeld, ↓blank_tens, ↓blank_fp_mon_pwr, ↓blank_pwr, ↓blank_locs, ↓blank_stage_locs, ↓blank_msixHeld, ↓blank_flowSeq, ↓blank_xlate, ↓blank_migs, ↓blank_sealAt, ↓blank_mer, ↓blank_stage_hlt_mon, ↓blank_stns_tierHeld_movs_xlate_pool_mer_plat_tens_cdus_book_fhps_fhqs_flows_flowSeq_trv_pwr_msixHeld, ↓blank_bme, ↓blank_fresh, ↓blank_regs_eff_cap_sealAt, ↓blank_plat_pwr, ↓blank_cap, ↓blank_movs, ↓blank_stns, ↓blank_fhqs, ↓blank_stage_pwr, ↓blank_spillFreed, ↓blank_tierHeld_plat_tens_book_flows_trv, ↓blank_book, ↓blank_stage_mon, ↓blank_fhps, ↓blank_emitted, ↓apply_ite (blank l), ↓apply_ite Prod.snd, ite_self] | (try dsimp only; (repeat' (split)) <;> first | done | with_reducible rfl | simp (disch := assumption) only [↓wr_keeps, ↓resetGo_keeps, ↓stationReset_keeps, ↓clusterReset_keeps, ↓partitionReset_keeps, ↓warmReset_keeps, ↓requestConsent_keeps, ↓blank_flows, ↓blank_msixOff_msixHeld, ↓blank_cdus, ↓blank_hlt, ↓blank_pool, ↓blank_fp, ↓blank_hostMem, ↓blank_plat, ↓blank_pool_fresh, ↓blank_trv, ↓blank_ptns_migs_hlt, ↓blank_mon, ↓blank_eff, ↓blank_regs_eff_sealAt, ↓blank_ptns, ↓blank_stage, ↓blank_regs, ↓blank_bme_msixOff, ↓blank_tierHeld, ↓blank_bme_msixOff_msixHeld, ↓blank_tens, ↓blank_fp_mon_pwr, ↓blank_pwr, ↓blank_locs, ↓blank_stage_locs, ↓blank_msixHeld, ↓blank_flowSeq, ↓blank_xlate, ↓blank_migs, ↓blank_sealAt, ↓blank_mer, ↓blank_stage_hlt_mon, ↓blank_stns_tierHeld_movs_xlate_pool_mer_plat_tens_cdus_book_fhps_fhqs_flows_flowSeq_trv_pwr_msixHeld, ↓blank_bme, ↓blank_fresh, ↓blank_regs_eff_cap_sealAt, ↓blank_plat_pwr, ↓blank_cap, ↓blank_movs, ↓blank_stns, ↓blank_fhqs, ↓blank_stage_pwr, ↓blank_spillFreed, ↓blank_tierHeld_plat_tens_book_flows_trv, ↓blank_book, ↓blank_stage_mon, ↓blank_fhps, ↓blank_emitted, ↓apply_ite (blank l), ↓apply_ite Prod.snd, ite_self] | rfl)))) only [↓wr_keeps, ↓resetGo_keeps, ↓stationReset_keeps, ↓clusterReset_keeps, ↓partitionReset_keeps, ↓warmReset_keeps, ↓requestConsent_keeps, ↓blank_flows, ↓blank_msixOff_msixHeld, ↓blank_cdus, ↓blank_hlt, ↓blank_pool, ↓blank_fp, ↓blank_hostMem, ↓blank_plat, ↓blank_pool_fresh, ↓blank_trv, ↓blank_ptns_migs_hlt, ↓blank_mon, ↓blank_eff, ↓blank_regs_eff_sealAt, ↓blank_ptns, ↓blank_stage, ↓blank_regs, ↓blank_bme_msixOff, ↓blank_tierHeld, ↓blank_bme_msixOff_msixHeld, ↓blank_tens, ↓blank_fp_mon_pwr, ↓blank_pwr, ↓blank_locs, ↓blank_stage_locs, ↓blank_msixHeld, ↓blank_flowSeq, ↓blank_xlate, ↓blank_migs, ↓blank_sealAt, ↓blank_mer, ↓blank_stage_hlt_mon, ↓blank_stns_tierHeld_movs_xlate_pool_mer_plat_tens_cdus_book_fhps_fhqs_flows_flowSeq_trv_pwr_msixHeld, ↓blank_bme, ↓blank_fresh, ↓blank_regs_eff_cap_sealAt, ↓blank_plat_pwr, ↓blank_cap, ↓blank_movs, ↓blank_stns, ↓blank_fhqs, ↓blank_stage_pwr, ↓blank_spillFreed, ↓blank_tierHeld_plat_tens_book_flows_trv, ↓blank_book, ↓blank_stage_mon, ↓blank_fhps, ↓blank_emitted, ↓apply_ite (blank l), ↓apply_ite Prod.snd, ite_self, ↓foldl_keeps, ↓foldr_keeps, ↓forUpTo_keeps, ↓foldl_snd_keeps] | rfl

theorem fieldActs_keeps {l : List Comp} (h_stage : Has l .stage) (h_regs : Has l .regs) (h_eff : Has l .eff) (h_cap : Has l .cap) (h_sealAt : Has l .sealAt) (h_fp : Has l .fp) (h_stns : Has l .stns) (h_ptns : Has l .ptns) (h_migs : Has l .migs) (h_locs : Has l .locs) (h_spillNext : Has l .spillNext) (h_spillFreed : Has l .spillFreed) (h_tierHeld : Has l .tierHeld) (h_movs : Has l .movs) (h_xlate : Has l .xlate) (h_pool : Has l .pool) (h_mer : Has l .mer) (h_plat : Has l .plat) (h_tens : Has l .tens) (h_cdus : Has l .cdus) (h_book : Has l .book) (h_fhps : Has l .fhps) (h_fhqs : Has l .fhqs) (h_flows : Has l .flows) (h_flowSeq : Has l .flowSeq) (h_trv : Has l .trv) (h_hlt : Has l .hlt) (h_mon : Has l .mon) (h_pwr : Has l .pwr) (h_hostMem : Has l .hostMem) (h_bme : Has l .bme) (h_msixOff : Has l .msixOff) (h_msixHeld : Has l .msixHeld) (h_emitted : Has l .emitted) (h_fresh : Has l .fresh) :
    ∀ x0 x1 x2 x3 x4 s, blank l (fieldActs x0 x1 x2 x3 x4 s) = blank l s := by
  intro x0 x1 x2 x3 x4 s
  unfold fieldActs
  (repeat' (split)) <;> first | with_reducible rfl | simp (disch := assumption) only [↓widthChanged_keeps, ↓effTirTileQuery_keeps, ↓requestReport_keeps, ↓ptnActs_keeps, ↓stnActs_keeps, ↓hostConfigured_keeps, ↓movActs_keeps, ↓pqActs_keeps, ↓merActs_keeps, ↓pltActs_keeps, ↓hifActs_keeps, ↓hltActs_keeps, ↓blank_trv, ↓apply_ite (blank l), ite_self]

theorem writeInject_keeps {l : List Comp} (h_regs : Has l .regs) (h_fp : Has l .fp) (h_stns : Has l .stns) (h_ptns : Has l .ptns) (h_migs : Has l .migs) (h_locs : Has l .locs) (h_spillFreed : Has l .spillFreed) (h_movs : Has l .movs) (h_pool : Has l .pool) (h_plat : Has l .plat) (h_tens : Has l .tens) (h_cdus : Has l .cdus) (h_book : Has l .book) (h_fhps : Has l .fhps) (h_trv : Has l .trv) (h_hostMem : Has l .hostMem) (h_msixHeld : Has l .msixHeld) (h_emitted : Has l .emitted) (h_fresh : Has l .fresh) :
    ∀ s x1 x2 x3, blank l (writeInject s x1 x2 x3) = blank l s := by
  intro s x1 x2 x3
  unfold writeInject
  simp (disch := assumption) only [↓inject_keeps, ↓storeField_keeps, ↓apply_ite (blank l), ite_self]

theorem writeHeader_keeps {l : List Comp} (h_regs : Has l .regs) (h_eff : Has l .eff) (h_cap : Has l .cap) (h_sealAt : Has l .sealAt) (h_fp : Has l .fp) (h_stns : Has l .stns) (h_ptns : Has l .ptns) (h_migs : Has l .migs) (h_locs : Has l .locs) (h_spillFreed : Has l .spillFreed) (h_tierHeld : Has l .tierHeld) (h_movs : Has l .movs) (h_pool : Has l .pool) (h_mer : Has l .mer) (h_plat : Has l .plat) (h_tens : Has l .tens) (h_cdus : Has l .cdus) (h_book : Has l .book) (h_fhps : Has l .fhps) (h_fhqs : Has l .fhqs) (h_trv : Has l .trv) (h_hlt : Has l .hlt) (h_hostMem : Has l .hostMem) (h_msixHeld : Has l .msixHeld) (h_emitted : Has l .emitted) (h_fresh : Has l .fresh) :
    ∀ x0 x1 x2 x3 s, blank l (writeHeader x0 x1 x2 x3 s) = blank l s := by
  intro x0 x1 x2 x3 s
  unfold writeHeader
  (repeat' (split)) <;> first | with_reducible rfl | simp (disch := assumption) only [↓wrEnable_keeps, ↓writeSeal_keeps, ↓writeExpert_keeps, ↓writeQuiesce_keeps, ↓writeOwner_keeps, ↓storeField_keeps, ↓writeInject_keeps]

theorem writeReg_keeps {l : List Comp} (h_stage : Has l .stage) (h_regs : Has l .regs) (h_eff : Has l .eff) (h_cap : Has l .cap) (h_sealAt : Has l .sealAt) (h_fp : Has l .fp) (h_stns : Has l .stns) (h_ptns : Has l .ptns) (h_migs : Has l .migs) (h_locs : Has l .locs) (h_spillNext : Has l .spillNext) (h_spillFreed : Has l .spillFreed) (h_tierHeld : Has l .tierHeld) (h_movs : Has l .movs) (h_xlate : Has l .xlate) (h_pool : Has l .pool) (h_mer : Has l .mer) (h_plat : Has l .plat) (h_tens : Has l .tens) (h_cdus : Has l .cdus) (h_book : Has l .book) (h_fhps : Has l .fhps) (h_fhqs : Has l .fhqs) (h_flows : Has l .flows) (h_flowSeq : Has l .flowSeq) (h_trv : Has l .trv) (h_hlt : Has l .hlt) (h_mon : Has l .mon) (h_pwr : Has l .pwr) (h_hostMem : Has l .hostMem) (h_bme : Has l .bme) (h_msixOff : Has l .msixOff) (h_msixHeld : Has l .msixHeld) (h_emitted : Has l .emitted) (h_fresh : Has l .fresh) :
    ∀ x0 x1 x2 x3 s, blank l (writeReg x0 x1 x2 x3 s) = blank l s := by
  intro x0 x1 x2 x3 s
  unfold writeReg
  (repeat' (split)) <;> first | with_reducible rfl | simp (disch := first | assumption | (intro t x; first | with_reducible rfl | simp (disch := assumption) only [↓levelsRise_keeps, ↓storeField_keeps, ↓fieldActs_keeps, ↓writeHeader_keeps, ↓apply_ite (blank l), ite_self] | ((repeat' (split)) <;> first | with_reducible rfl | simp (disch := assumption) only [↓levelsRise_keeps, ↓storeField_keeps, ↓fieldActs_keeps, ↓writeHeader_keeps, ↓apply_ite (blank l), ite_self] | rfl))) only [↓levelsRise_keeps, ↓storeField_keeps, ↓fieldActs_keeps, ↓writeHeader_keeps, ↓apply_ite (blank l), ite_self, ↓foldl_keeps, ↓foldr_keeps, ↓forUpTo_keeps, ↓foldl_snd_keeps]

theorem write4_keeps {l : List Comp} (h_stage : Has l .stage) (h_regs : Has l .regs) (h_eff : Has l .eff) (h_cap : Has l .cap) (h_sealAt : Has l .sealAt) (h_fp : Has l .fp) (h_stns : Has l .stns) (h_ptns : Has l .ptns) (h_migs : Has l .migs) (h_locs : Has l .locs) (h_spillNext : Has l .spillNext) (h_spillFreed : Has l .spillFreed) (h_tierHeld : Has l .tierHeld) (h_movs : Has l .movs) (h_xlate : Has l .xlate) (h_pool : Has l .pool) (h_mer : Has l .mer) (h_plat : Has l .plat) (h_tens : Has l .tens) (h_cdus : Has l .cdus) (h_book : Has l .book) (h_fhps : Has l .fhps) (h_fhqs : Has l .fhqs) (h_flows : Has l .flows) (h_flowSeq : Has l .flowSeq) (h_trv : Has l .trv) (h_hlt : Has l .hlt) (h_mon : Has l .mon) (h_pwr : Has l .pwr) (h_hostMem : Has l .hostMem) (h_bme : Has l .bme) (h_msixOff : Has l .msixOff) (h_msixHeld : Has l .msixHeld) (h_emitted : Has l .emitted) (h_fresh : Has l .fresh) :
    ∀ x0 x1 x2 x3 s, blank l (write4 x0 x1 x2 x3 s) = blank l s := by
  intro x0 x1 x2 x3 s
  unfold write4
  simp (disch := assumption) only [↓setErr_keeps, ↓writeReg_keeps, ↓apply_ite (blank l), ite_self]

theorem writePage_keeps {l : List Comp} (h_stage : Has l .stage) (h_regs : Has l .regs) (h_eff : Has l .eff) (h_cap : Has l .cap) (h_sealAt : Has l .sealAt) (h_fp : Has l .fp) (h_stns : Has l .stns) (h_ptns : Has l .ptns) (h_migs : Has l .migs) (h_locs : Has l .locs) (h_spillNext : Has l .spillNext) (h_spillFreed : Has l .spillFreed) (h_tierHeld : Has l .tierHeld) (h_movs : Has l .movs) (h_xlate : Has l .xlate) (h_pool : Has l .pool) (h_mer : Has l .mer) (h_plat : Has l .plat) (h_tens : Has l .tens) (h_cdus : Has l .cdus) (h_book : Has l .book) (h_fhps : Has l .fhps) (h_fhqs : Has l .fhqs) (h_flows : Has l .flows) (h_flowSeq : Has l .flowSeq) (h_trv : Has l .trv) (h_hlt : Has l .hlt) (h_mon : Has l .mon) (h_pwr : Has l .pwr) (h_hostMem : Has l .hostMem) (h_bme : Has l .bme) (h_msixOff : Has l .msixOff) (h_msixHeld : Has l .msixHeld) (h_emitted : Has l .emitted) (h_fresh : Has l .fresh) :
    ∀ x0 x1 x2 x3 x4 s, blank l (writePage x0 x1 x2 x3 x4 s) = blank l s := by
  intro x0 x1 x2 x3 x4 s
  unfold writePage
  simp (disch := assumption) only [↓setErr_keeps, ↓writeReg_keeps, ↓write4_keeps, ↓apply_ite (blank l), ite_self]

theorem writeSlotMap_keeps {l : List Comp} (h_ptns : Has l .ptns) :
    ∀ s x1 x2 x3, blank l (writeSlotMap s x1 x2 x3) = blank l s := by
  intro s x1 x2 x3
  unfold writeSlotMap
  simp (disch := assumption) only [↓setPtn_keeps, ↓apply_ite (blank l), ite_self]

theorem managerWindow_keeps {l : List Comp} (h_regs : Has l .regs) (h_ptns : Has l .ptns) (h_fhps : Has l .fhps) (h_flows : Has l .flows) (h_msixHeld : Has l .msixHeld) (h_emitted : Has l .emitted) :
    ∀ s x1 x2 x3, blank l (managerWindow s x1 x2 x3) = blank l s := by
  intro s x1 x2 x3
  unfold managerWindow
  dsimp only
  (repeat' (split)) <;> first | with_reducible rfl | simp (disch := assumption) only [↓effDiscEntryClear_keeps, ↓storePlSet_keeps, ↓writeSlotMap_keeps, ↓blank_flows, ↓apply_ite (blank l), ite_self]

theorem badWidth_keeps {l : List Comp} (h_regs : Has l .regs) (h_msixHeld : Has l .msixHeld) (h_emitted : Has l .emitted) :
    ∀ s x1 x2 x3, blank l (badWidth s x1 x2 x3) = blank l s := by
  intro s x1 x2 x3
  unfold badWidth
  simp (disch := assumption) only [↓setErr_keeps, ↓denyAccess_keeps, ↓apply_ite (blank l), ite_self]

theorem stationWindow_keeps {l : List Comp} (h_regs : Has l .regs) (h_stns : Has l .stns) (h_msixHeld : Has l .msixHeld) (h_emitted : Has l .emitted) :
    ∀ s x1 x2 x3 x4 x5, blank l (stationWindow s x1 x2 x3 x4 x5) = blank l s := by
  intro s x1 x2 x3 x4 x5
  unfold stationWindow
  simp (disch := assumption) only [↓denyAccess_keeps, ↓effInstructionMemoryWrite_keeps, ↓badWidth_keeps, ↓apply_ite (blank l), ite_self]

theorem writeOutside_keeps {l : List Comp} (h_regs : Has l .regs) (h_stns : Has l .stns) (h_ptns : Has l .ptns) (h_pool : Has l .pool) (h_plat : Has l .plat) (h_tens : Has l .tens) (h_fhps : Has l .fhps) (h_flows : Has l .flows) (h_msixHeld : Has l .msixHeld) (h_emitted : Has l .emitted) :
    ∀ x0 x1 x2 x3 s, blank l (writeOutside x0 x1 x2 x3 s) = blank l s := by
  intro x0 x1 x2 x3 s
  unfold writeOutside
  (repeat' (split)) <;> first | with_reducible rfl | simp (disch := assumption) only [↓denyAccess_keeps, ↓effPatternImageWrite_keeps, ↓effDataWindowAccess_keeps, ↓effProgramWindowWrite_keeps, ↓managerWindow_keeps, ↓badWidth_keeps, ↓stationWindow_keeps, ↓apply_ite (blank l), ite_self]

theorem barWrite_keeps {l : List Comp} (h_stage : Has l .stage) (h_regs : Has l .regs) (h_eff : Has l .eff) (h_cap : Has l .cap) (h_sealAt : Has l .sealAt) (h_fp : Has l .fp) (h_stns : Has l .stns) (h_ptns : Has l .ptns) (h_migs : Has l .migs) (h_locs : Has l .locs) (h_spillNext : Has l .spillNext) (h_spillFreed : Has l .spillFreed) (h_tierHeld : Has l .tierHeld) (h_movs : Has l .movs) (h_xlate : Has l .xlate) (h_pool : Has l .pool) (h_mer : Has l .mer) (h_plat : Has l .plat) (h_tens : Has l .tens) (h_cdus : Has l .cdus) (h_book : Has l .book) (h_fhps : Has l .fhps) (h_fhqs : Has l .fhqs) (h_flows : Has l .flows) (h_flowSeq : Has l .flowSeq) (h_trv : Has l .trv) (h_hlt : Has l .hlt) (h_mon : Has l .mon) (h_pwr : Has l .pwr) (h_hostMem : Has l .hostMem) (h_bme : Has l .bme) (h_msixOff : Has l .msixOff) (h_msixHeld : Has l .msixHeld) (h_emitted : Has l .emitted) (h_fresh : Has l .fresh) :
    ∀ x0 x1 x2 x3 s, blank l (barWrite x0 x1 x2 x3 s) = blank l s := by
  intro x0 x1 x2 x3 s
  unfold barWrite
  (repeat' (split)) <;> first | with_reducible rfl | simp (disch := assumption) only [↓denyAccess_keeps, ↓writePage_keeps, ↓writeOutside_keeps, ↓apply_ite (blank l), ite_self]

theorem readZero_keeps {l : List Comp} (h_emitted : Has l .emitted) :
    ∀ s x1, blank l (readZero s x1) = blank l s := by
  intro s x1
  unfold readZero
  simp (disch := assumption) only [↓emit_keeps]

theorem answerRead_keeps {l : List Comp} (h_regs : Has l .regs) (h_msixHeld : Has l .msixHeld) (h_emitted : Has l .emitted) :
    ∀ x0 x1 x2 x3 s, blank l (answerRead x0 x1 x2 x3 s) = blank l s := by
  intro x0 x1 x2 x3 s
  unfold answerRead
  simp (disch := assumption) only [↓emit_keeps, ↓setErr_keeps, ↓readZero_keeps, ↓apply_ite (blank l), ite_self]

theorem barReads_keeps {l : List Comp} (h_regs : Has l .regs) (h_pool : Has l .pool) (h_mer : Has l .mer) (h_msixHeld : Has l .msixHeld) (h_emitted : Has l .emitted) :
    ∀ x0 x1 x2 s, blank l (barReads x0 x1 x2 s) = blank l s := by
  intro x0 x1 x2 s
  unfold barReads
  (repeat' (split)) <;> first | with_reducible rfl | simp (disch := assumption) only [↓emit_keeps, ↓setErr_keeps, ↓denyAccess_keeps, ↓effNowNsfRead_keeps, ↓effTsqPop_keeps, ↓effDataWindowAccess_keeps, ↓readZero_keeps, ↓answerRead_keeps, ↓apply_ite (blank l), ite_self]

theorem effRegisterWrite_keeps {l : List Comp} (h_stage : Has l .stage) (h_regs : Has l .regs) (h_eff : Has l .eff) (h_cap : Has l .cap) (h_sealAt : Has l .sealAt) (h_fp : Has l .fp) (h_stns : Has l .stns) (h_ptns : Has l .ptns) (h_migs : Has l .migs) (h_locs : Has l .locs) (h_spillNext : Has l .spillNext) (h_spillFreed : Has l .spillFreed) (h_tierHeld : Has l .tierHeld) (h_movs : Has l .movs) (h_xlate : Has l .xlate) (h_pool : Has l .pool) (h_mer : Has l .mer) (h_plat : Has l .plat) (h_tens : Has l .tens) (h_cdus : Has l .cdus) (h_book : Has l .book) (h_fhps : Has l .fhps) (h_fhqs : Has l .fhqs) (h_flows : Has l .flows) (h_flowSeq : Has l .flowSeq) (h_trv : Has l .trv) (h_hlt : Has l .hlt) (h_mon : Has l .mon) (h_pwr : Has l .pwr) (h_hostMem : Has l .hostMem) (h_bme : Has l .bme) (h_msixOff : Has l .msixOff) (h_msixHeld : Has l .msixHeld) (h_emitted : Has l .emitted) (h_fresh : Has l .fresh) :
    ∀ x0 x1 x2 x3 s, blank l (effRegisterWrite x0 x1 x2 x3 s) = blank l s := by
  intro x0 x1 x2 x3 s
  unfold effRegisterWrite
  (repeat' (split)) <;> first | with_reducible rfl | simp (disch := assumption) only [↓denyAccess_keeps, ↓barWrite_keeps, ↓readZero_keeps, ↓barReads_keeps]

end Sys2Proof.Machine
end

