-- ==== Sys2Proof/Laws/Maps.lean ====
section
/-! SUPPORT. The sparse map: what a write reads back, and that every operation keeps the canonical form. -/

namespace Sys2Proof

variable {α : Type}

/-! ### Reading after writing -/

theorem mapGet_mapPut (d : α) (m : NMap α) (k : Nat) (v : α) (j : Nat) :
    mapGet d (mapPut m k v) j = if j = k then v else mapGet d m j := by
  induction m with
  | nil => simp only [mapPut, mapGet]
  | cons e r ih =>
    obtain ⟨k', v'⟩ := e
    simp only [mapPut]
    split
    · simp only [mapGet]
    · split
      · next h => subst h; simp only [mapGet]; split <;> rfl
      · simp only [mapGet, ih]
        by_cases h1 : j = k
        · subst h1; simp only [if_true]; rw [if_neg (by assumption)]
        · simp only [if_neg h1]

theorem mapGet_mapErase (d : α) (m : NMap α) (k j : Nat) :
    mapGet d (mapErase m k) j = if j = k then d else mapGet d m j := by
  induction m with
  | nil => simp only [mapErase, mapGet, ite_self]
  | cons e r ih =>
    obtain ⟨k', v'⟩ := e
    simp only [mapErase]
    split
    · next h =>
      subst h
      rw [ih]
      by_cases h1 : j = k
      · simp only [if_pos h1]
      · simp only [if_neg h1, mapGet]
    · next h =>
      simp only [mapGet, ih]
      by_cases h1 : j = k
      · subst h1; simp only [if_neg h, if_true]
      · simp only [if_neg h1]

/-- A map reads what was last written at the key, and every other key as before. -/
theorem mapGet_mapSet [DecidableEq α] (d : α) (m : NMap α) (k : Nat) (v : α) (j : Nat) :
    mapGet d (mapSet d m k v) j = if j = k then v else mapGet d m j := by
  unfold mapSet
  split
  · next h => rw [mapGet_mapErase, h]
  · exact mapGet_mapPut d m k v j

@[simp] theorem mapGet_mapSet_same [DecidableEq α] (d : α) (m : NMap α) (k : Nat) (v : α) :
    mapGet d (mapSet d m k v) k = v := by
  rw [mapGet_mapSet, if_pos rfl]

theorem mapGet_mapSet_other [DecidableEq α] (d : α) (m : NMap α) {k j : Nat} (v : α) (h : j ≠ k) :
    mapGet d (mapSet d m k v) j = mapGet d m j := by
  rw [mapGet_mapSet, if_neg h]

/-! ### The canonical form -/

theorem mapRising_mono {lo lo' : Nat} {m : NMap α} (h : lo' ≤ lo) (hm : mapRising lo m = true) : mapRising lo' m = true := by
  cases m with
  | nil => rfl
  | cons e r =>
    simp only [mapRising, Bool.and_eq_true, decide_eq_true_eq] at hm ⊢
    exact ⟨Nat.le_trans h hm.1, hm.2⟩

theorem mapRising_mapPut {lo k : Nat} {m : NMap α} {v : α} (hk : lo ≤ k) (hm : mapRising lo m = true) :
    mapRising lo (mapPut m k v) = true := by
  induction m generalizing lo with
  | nil => simp only [mapPut, mapRising, Bool.and_true, decide_eq_true_eq, hk]
  | cons e r ih =>
    obtain ⟨k', v'⟩ := e
    simp only [mapRising, Bool.and_eq_true, decide_eq_true_eq] at hm
    simp only [mapPut]
    split
    · next h => simp only [mapRising, Bool.and_eq_true, decide_eq_true_eq]; exact ⟨hk, h, hm.2⟩
    · split
      · next h => subst h; simp only [mapRising, Bool.and_eq_true, decide_eq_true_eq]; exact hm
      · next h1 h2 =>
        simp only [mapRising, Bool.and_eq_true, decide_eq_true_eq]
        exact ⟨hm.1, ih (by omega) hm.2⟩

theorem mapRising_mapErase {lo k : Nat} {m : NMap α} (hm : mapRising lo m = true) : mapRising lo (mapErase m k) = true := by
  induction m generalizing lo with
  | nil => rfl
  | cons e r ih =>
    obtain ⟨k', v'⟩ := e
    simp only [mapRising, Bool.and_eq_true, decide_eq_true_eq] at hm
    simp only [mapErase]
    split
    · exact ih (mapRising_mono (by omega) hm.2)
    · simp only [mapRising, Bool.and_eq_true, decide_eq_true_eq]; exact ⟨hm.1, ih hm.2⟩

theorem mapRising_filter {lo : Nat} {m : NMap α} (p : Nat × α → Bool) (hm : mapRising lo m = true) :
    mapRising lo (m.filter p) = true := by
  induction m generalizing lo with
  | nil => rfl
  | cons e r ih =>
    simp only [mapRising, Bool.and_eq_true, decide_eq_true_eq] at hm
    simp only [List.filter_cons]
    split
    · simp only [mapRising, Bool.and_eq_true, decide_eq_true_eq]; exact ⟨hm.1, ih hm.2⟩
    · exact ih (mapRising_mono (by omega) hm.2)

theorem mapRising_map {lo : Nat} {m : NMap α} (f : Nat → α → α) (hm : mapRising lo m = true) :
    mapRising lo (m.map (fun e => (e.1, f e.1 e.2))) = true := by
  induction m generalizing lo with
  | nil => rfl
  | cons e r ih =>
    simp only [mapRising, Bool.and_eq_true, decide_eq_true_eq] at hm
    simp only [List.map_cons, mapRising, Bool.and_eq_true, decide_eq_true_eq]
    exact ⟨hm.1, ih hm.2⟩

theorem mem_mapPut {k : Nat} {m : NMap α} {v : α} {e : Nat × α} (h : e ∈ mapPut m k v) : e = (k, v) ∨ e ∈ m := by
  induction m with
  | nil => simp only [mapPut, List.mem_singleton] at h; exact .inl h
  | cons a r ih =>
    simp only [mapPut] at h
    split at h
    · exact (List.mem_cons.mp h)
    · split at h
      · rcases List.mem_cons.mp h with h | h
        · exact .inl h
        · exact .inr (List.mem_cons_of_mem _ h)
      · rcases List.mem_cons.mp h with h | h
        · exact .inr (h ▸ List.mem_cons_self)
        · rcases ih h with h | h
          · exact .inl h
          · exact .inr (List.mem_cons_of_mem _ h)

theorem mem_mapErase {k : Nat} {m : NMap α} {e : Nat × α} (h : e ∈ mapErase m k) : e ∈ m := by
  induction m with
  | nil => exact h
  | cons a r ih =>
    simp only [mapErase] at h
    split at h
    · exact List.mem_cons_of_mem _ (ih h)
    · rcases List.mem_cons.mp h with h | h
      · exact h ▸ List.mem_cons_self
      · exact List.mem_cons_of_mem _ (ih h)

variable [DecidableEq α]

theorem mapWf_iff (d : α) (m : NMap α) : mapWf d m = true ↔ mapRising 0 m = true ∧ ∀ e ∈ m, e.2 ≠ d := by
  simp only [mapWf, Bool.and_eq_true, List.all_eq_true, decide_eq_true_eq]

theorem mapWf_nil (d : α) : mapWf d ([] : NMap α) = true := rfl

theorem mapWf_mapErase {d : α} {m : NMap α} (k : Nat) (hm : mapWf d m = true) : mapWf d (mapErase m k) = true := by
  rw [mapWf_iff] at hm ⊢
  exact ⟨mapRising_mapErase hm.1, fun e he => hm.2 e (mem_mapErase he)⟩

theorem mapWf_mapPut {d : α} {m : NMap α} (k : Nat) {v : α} (hv : v ≠ d) (hm : mapWf d m = true) :
    mapWf d (mapPut m k v) = true := by
  rw [mapWf_iff] at hm ⊢
  refine ⟨mapRising_mapPut (Nat.zero_le k) hm.1, fun e he => ?_⟩
  rcases mem_mapPut he with h | h
  · exact h ▸ hv
  · exact hm.2 e h

/-- A write keeps the canonical form. -/
theorem mapWf_mapSet {d : α} {m : NMap α} (k : Nat) (v : α) (hm : mapWf d m = true) : mapWf d (mapSet d m k v) = true := by
  unfold mapSet
  split
  · exact mapWf_mapErase k hm
  · next h => exact mapWf_mapPut k h hm

theorem mapWf_filter {d : α} {m : NMap α} (p : Nat × α → Bool) (hm : mapWf d m = true) : mapWf d (m.filter p) = true := by
  rw [mapWf_iff] at hm ⊢
  exact ⟨mapRising_filter p hm.1, fun e he => hm.2 e (List.mem_filter.mp he).1⟩

theorem mapWf_mapDrop {d : α} {m : NMap α} (lo hi : Nat) (hm : mapWf d m = true) : mapWf d (mapDrop m lo hi) = true :=
  mapWf_filter _ hm

theorem mapWf_mapSlice {d : α} {m : NMap α} (lo hi : Nat) (hm : mapWf d m = true) : mapWf d (mapSlice m lo hi) = true :=
  mapWf_filter _ hm

theorem mapWf_mapAll {d : α} {m : NMap α} (f : Nat → α → α) (hm : mapWf d m = true) : mapWf d (mapAll d m f) = true := by
  rw [mapWf_iff] at hm ⊢
  refine ⟨mapRising_filter _ (mapRising_map f hm.1), fun e he => ?_⟩
  simpa only [decide_eq_true_eq] using (List.mem_filter.mp he).2

/-! ### Byte stores -/

/-- Storing bytes keeps the canonical form. -/
theorem mapWf_storeBytes {m : NMap Byte} (a : Nat) (l : List Byte) (hm : mapWf 0 m = true) :
    mapWf 0 (storeBytes m a l) = true := by
  induction l generalizing m a with
  | nil => exact hm
  | cons b r ih => exact ih (a + 1) (mapWf_mapSet a b hm)

theorem mapGet_storeBytes_below {m : NMap Byte} {a : Nat} (l : List Byte) {j : Nat} (h : j < a) :
    mapGet 0 (storeBytes m a l) j = mapGet 0 m j := by
  induction l generalizing m a with
  | nil => rfl
  | cons b r ih =>
    simp only [storeBytes]
    rw [ih (by omega), mapGet_mapSet_other _ _ _ (by omega)]

/-- A byte outside the bytes stored reads as before; a byte stored reads as stored. -/
theorem mapGet_storeBytes (m : NMap Byte) (a : Nat) (l : List Byte) (j : Nat) :
    mapGet 0 (storeBytes m a l) j = if a ≤ j ∧ j < a + l.length then l.getD (j - a) 0 else mapGet 0 m j := by
  induction l generalizing m a with
  | nil => simp only [storeBytes, List.length_nil]; rw [if_neg (by omega)]
  | cons b r ih =>
    simp only [storeBytes, List.length_cons]
    rcases Nat.lt_trichotomy j a with h | h | h
    · rw [mapGet_storeBytes_below r (by omega), mapGet_mapSet_other _ _ _ (by omega), if_neg (by omega)]
    · subst h
      rw [mapGet_storeBytes_below r (by omega), mapGet_mapSet_same, if_pos (by omega), Nat.sub_self]; rfl
    · rw [ih, mapGet_mapSet_other _ _ _ (by omega)]
      by_cases h1 : j < a + (r.length + 1)
      · rw [if_pos (by omega), if_pos (by omega)]
        obtain ⟨c, rfl⟩ : ∃ c, j = a + 1 + c := ⟨j - (a + 1), by omega⟩
        rw [show a + 1 + c - (a + 1) = c by omega, show a + 1 + c - a = c + 1 by omega, List.getD_cons_succ]
      · rw [if_neg (by omega), if_neg (by omega)]

/-! ### Reset -/

namespace Machine

/-- The byte stores of the machine after reset are in canonical form. -/
theorem reset_memoriesWf : memoriesWf State.reset = true := by decide

end Machine

end Sys2Proof
end

