-- ==== Sys2Proof/Laws/State.lean ====
section
/-! SUPPORT. What each named update of the state leaves in every other field, and what it reads back. -/

namespace Sys2Proof.Machine

/-! ### wr -/

@[simp] theorem wr_pending (s : State) (p : Page) (f : Fld) (v : Nat) : (wr s p f v).pending = s.pending := rfl
@[simp] theorem wr_part (s : State) (p : Page) (f : Fld) (v : Nat) : (wr s p f v).part = s.part := rfl
@[simp] theorem wr_stage (s : State) (p : Page) (f : Fld) (v : Nat) : (wr s p f v).stage = s.stage := rfl
@[simp] theorem wr_eff (s : State) (p : Page) (f : Fld) (v : Nat) : (wr s p f v).eff = s.eff := rfl
@[simp] theorem wr_cap (s : State) (p : Page) (f : Fld) (v : Nat) : (wr s p f v).cap = s.cap := rfl
@[simp] theorem wr_sealAt (s : State) (p : Page) (f : Fld) (v : Nat) : (wr s p f v).sealAt = s.sealAt := rfl
@[simp] theorem wr_fp (s : State) (p : Page) (f : Fld) (v : Nat) : (wr s p f v).fp = s.fp := rfl
@[simp] theorem wr_stns (s : State) (p : Page) (f : Fld) (v : Nat) : (wr s p f v).stns = s.stns := rfl
@[simp] theorem wr_ptns (s : State) (p : Page) (f : Fld) (v : Nat) : (wr s p f v).ptns = s.ptns := rfl
@[simp] theorem wr_migs (s : State) (p : Page) (f : Fld) (v : Nat) : (wr s p f v).migs = s.migs := rfl
@[simp] theorem wr_locs (s : State) (p : Page) (f : Fld) (v : Nat) : (wr s p f v).locs = s.locs := rfl
@[simp] theorem wr_spillNext (s : State) (p : Page) (f : Fld) (v : Nat) : (wr s p f v).spillNext = s.spillNext := rfl
@[simp] theorem wr_spillFreed (s : State) (p : Page) (f : Fld) (v : Nat) : (wr s p f v).spillFreed = s.spillFreed := rfl
@[simp] theorem wr_tierHeld (s : State) (p : Page) (f : Fld) (v : Nat) : (wr s p f v).tierHeld = s.tierHeld := rfl
@[simp] theorem wr_movs (s : State) (p : Page) (f : Fld) (v : Nat) : (wr s p f v).movs = s.movs := rfl
@[simp] theorem wr_xlate (s : State) (p : Page) (f : Fld) (v : Nat) : (wr s p f v).xlate = s.xlate := rfl
@[simp] theorem wr_pool (s : State) (p : Page) (f : Fld) (v : Nat) : (wr s p f v).pool = s.pool := rfl
@[simp] theorem wr_mer (s : State) (p : Page) (f : Fld) (v : Nat) : (wr s p f v).mer = s.mer := rfl
@[simp] theorem wr_plat (s : State) (p : Page) (f : Fld) (v : Nat) : (wr s p f v).plat = s.plat := rfl
@[simp] theorem wr_tens (s : State) (p : Page) (f : Fld) (v : Nat) : (wr s p f v).tens = s.tens := rfl
@[simp] theorem wr_cdus (s : State) (p : Page) (f : Fld) (v : Nat) : (wr s p f v).cdus = s.cdus := rfl
@[simp] theorem wr_book (s : State) (p : Page) (f : Fld) (v : Nat) : (wr s p f v).book = s.book := rfl
@[simp] theorem wr_fhps (s : State) (p : Page) (f : Fld) (v : Nat) : (wr s p f v).fhps = s.fhps := rfl
@[simp] theorem wr_fhqs (s : State) (p : Page) (f : Fld) (v : Nat) : (wr s p f v).fhqs = s.fhqs := rfl
@[simp] theorem wr_flows (s : State) (p : Page) (f : Fld) (v : Nat) : (wr s p f v).flows = s.flows := rfl
@[simp] theorem wr_flowSeq (s : State) (p : Page) (f : Fld) (v : Nat) : (wr s p f v).flowSeq = s.flowSeq := rfl
@[simp] theorem wr_trv (s : State) (p : Page) (f : Fld) (v : Nat) : (wr s p f v).trv = s.trv := rfl
@[simp] theorem wr_hlt (s : State) (p : Page) (f : Fld) (v : Nat) : (wr s p f v).hlt = s.hlt := rfl
@[simp] theorem wr_mon (s : State) (p : Page) (f : Fld) (v : Nat) : (wr s p f v).mon = s.mon := rfl
@[simp] theorem wr_pwr (s : State) (p : Page) (f : Fld) (v : Nat) : (wr s p f v).pwr = s.pwr := rfl
@[simp] theorem wr_hostMem (s : State) (p : Page) (f : Fld) (v : Nat) : (wr s p f v).hostMem = s.hostMem := rfl
@[simp] theorem wr_bme (s : State) (p : Page) (f : Fld) (v : Nat) : (wr s p f v).bme = s.bme := rfl
@[simp] theorem wr_msixOff (s : State) (p : Page) (f : Fld) (v : Nat) : (wr s p f v).msixOff = s.msixOff := rfl
@[simp] theorem wr_msixHeld (s : State) (p : Page) (f : Fld) (v : Nat) : (wr s p f v).msixHeld = s.msixHeld := rfl
@[simp] theorem wr_emitted (s : State) (p : Page) (f : Fld) (v : Nat) : (wr s p f v).emitted = s.emitted := rfl
@[simp] theorem wr_fresh (s : State) (p : Page) (f : Fld) (v : Nat) : (wr s p f v).fresh = s.fresh := rfl

/-! ### wrApplied -/

@[simp] theorem wrApplied_pending (s : State) (p : Page) (f : Fld) (v : Nat) : (wrApplied s p f v).pending = s.pending := rfl
@[simp] theorem wrApplied_part (s : State) (p : Page) (f : Fld) (v : Nat) : (wrApplied s p f v).part = s.part := rfl
@[simp] theorem wrApplied_stage (s : State) (p : Page) (f : Fld) (v : Nat) : (wrApplied s p f v).stage = s.stage := rfl
@[simp] theorem wrApplied_regs (s : State) (p : Page) (f : Fld) (v : Nat) : (wrApplied s p f v).regs = s.regs := rfl
@[simp] theorem wrApplied_cap (s : State) (p : Page) (f : Fld) (v : Nat) : (wrApplied s p f v).cap = s.cap := rfl
@[simp] theorem wrApplied_sealAt (s : State) (p : Page) (f : Fld) (v : Nat) : (wrApplied s p f v).sealAt = s.sealAt := rfl
@[simp] theorem wrApplied_fp (s : State) (p : Page) (f : Fld) (v : Nat) : (wrApplied s p f v).fp = s.fp := rfl
@[simp] theorem wrApplied_stns (s : State) (p : Page) (f : Fld) (v : Nat) : (wrApplied s p f v).stns = s.stns := rfl
@[simp] theorem wrApplied_ptns (s : State) (p : Page) (f : Fld) (v : Nat) : (wrApplied s p f v).ptns = s.ptns := rfl
@[simp] theorem wrApplied_migs (s : State) (p : Page) (f : Fld) (v : Nat) : (wrApplied s p f v).migs = s.migs := rfl
@[simp] theorem wrApplied_locs (s : State) (p : Page) (f : Fld) (v : Nat) : (wrApplied s p f v).locs = s.locs := rfl
@[simp] theorem wrApplied_spillNext (s : State) (p : Page) (f : Fld) (v : Nat) : (wrApplied s p f v).spillNext = s.spillNext := rfl
@[simp] theorem wrApplied_spillFreed (s : State) (p : Page) (f : Fld) (v : Nat) : (wrApplied s p f v).spillFreed = s.spillFreed := rfl
@[simp] theorem wrApplied_tierHeld (s : State) (p : Page) (f : Fld) (v : Nat) : (wrApplied s p f v).tierHeld = s.tierHeld := rfl
@[simp] theorem wrApplied_movs (s : State) (p : Page) (f : Fld) (v : Nat) : (wrApplied s p f v).movs = s.movs := rfl
@[simp] theorem wrApplied_xlate (s : State) (p : Page) (f : Fld) (v : Nat) : (wrApplied s p f v).xlate = s.xlate := rfl
@[simp] theorem wrApplied_pool (s : State) (p : Page) (f : Fld) (v : Nat) : (wrApplied s p f v).pool = s.pool := rfl
@[simp] theorem wrApplied_mer (s : State) (p : Page) (f : Fld) (v : Nat) : (wrApplied s p f v).mer = s.mer := rfl
@[simp] theorem wrApplied_plat (s : State) (p : Page) (f : Fld) (v : Nat) : (wrApplied s p f v).plat = s.plat := rfl
@[simp] theorem wrApplied_tens (s : State) (p : Page) (f : Fld) (v : Nat) : (wrApplied s p f v).tens = s.tens := rfl
@[simp] theorem wrApplied_cdus (s : State) (p : Page) (f : Fld) (v : Nat) : (wrApplied s p f v).cdus = s.cdus := rfl
@[simp] theorem wrApplied_book (s : State) (p : Page) (f : Fld) (v : Nat) : (wrApplied s p f v).book = s.book := rfl
@[simp] theorem wrApplied_fhps (s : State) (p : Page) (f : Fld) (v : Nat) : (wrApplied s p f v).fhps = s.fhps := rfl
@[simp] theorem wrApplied_fhqs (s : State) (p : Page) (f : Fld) (v : Nat) : (wrApplied s p f v).fhqs = s.fhqs := rfl
@[simp] theorem wrApplied_flows (s : State) (p : Page) (f : Fld) (v : Nat) : (wrApplied s p f v).flows = s.flows := rfl
@[simp] theorem wrApplied_flowSeq (s : State) (p : Page) (f : Fld) (v : Nat) : (wrApplied s p f v).flowSeq = s.flowSeq := rfl
@[simp] theorem wrApplied_trv (s : State) (p : Page) (f : Fld) (v : Nat) : (wrApplied s p f v).trv = s.trv := rfl
@[simp] theorem wrApplied_hlt (s : State) (p : Page) (f : Fld) (v : Nat) : (wrApplied s p f v).hlt = s.hlt := rfl
@[simp] theorem wrApplied_mon (s : State) (p : Page) (f : Fld) (v : Nat) : (wrApplied s p f v).mon = s.mon := rfl
@[simp] theorem wrApplied_pwr (s : State) (p : Page) (f : Fld) (v : Nat) : (wrApplied s p f v).pwr = s.pwr := rfl
@[simp] theorem wrApplied_hostMem (s : State) (p : Page) (f : Fld) (v : Nat) : (wrApplied s p f v).hostMem = s.hostMem := rfl
@[simp] theorem wrApplied_bme (s : State) (p : Page) (f : Fld) (v : Nat) : (wrApplied s p f v).bme = s.bme := rfl
@[simp] theorem wrApplied_msixOff (s : State) (p : Page) (f : Fld) (v : Nat) : (wrApplied s p f v).msixOff = s.msixOff := rfl
@[simp] theorem wrApplied_msixHeld (s : State) (p : Page) (f : Fld) (v : Nat) : (wrApplied s p f v).msixHeld = s.msixHeld := rfl
@[simp] theorem wrApplied_emitted (s : State) (p : Page) (f : Fld) (v : Nat) : (wrApplied s p f v).emitted = s.emitted := rfl
@[simp] theorem wrApplied_fresh (s : State) (p : Page) (f : Fld) (v : Nat) : (wrApplied s p f v).fresh = s.fresh := rfl

/-! ### emit -/

@[simp] theorem emit_pending (s : State) (e : Emit) : (emit s e).pending = s.pending := rfl
@[simp] theorem emit_part (s : State) (e : Emit) : (emit s e).part = s.part := rfl
@[simp] theorem emit_stage (s : State) (e : Emit) : (emit s e).stage = s.stage := rfl
@[simp] theorem emit_regs (s : State) (e : Emit) : (emit s e).regs = s.regs := rfl
@[simp] theorem emit_eff (s : State) (e : Emit) : (emit s e).eff = s.eff := rfl
@[simp] theorem emit_cap (s : State) (e : Emit) : (emit s e).cap = s.cap := rfl
@[simp] theorem emit_sealAt (s : State) (e : Emit) : (emit s e).sealAt = s.sealAt := rfl
@[simp] theorem emit_fp (s : State) (e : Emit) : (emit s e).fp = s.fp := rfl
@[simp] theorem emit_stns (s : State) (e : Emit) : (emit s e).stns = s.stns := rfl
@[simp] theorem emit_ptns (s : State) (e : Emit) : (emit s e).ptns = s.ptns := rfl
@[simp] theorem emit_migs (s : State) (e : Emit) : (emit s e).migs = s.migs := rfl
@[simp] theorem emit_locs (s : State) (e : Emit) : (emit s e).locs = s.locs := rfl
@[simp] theorem emit_spillNext (s : State) (e : Emit) : (emit s e).spillNext = s.spillNext := rfl
@[simp] theorem emit_spillFreed (s : State) (e : Emit) : (emit s e).spillFreed = s.spillFreed := rfl
@[simp] theorem emit_tierHeld (s : State) (e : Emit) : (emit s e).tierHeld = s.tierHeld := rfl
@[simp] theorem emit_movs (s : State) (e : Emit) : (emit s e).movs = s.movs := rfl
@[simp] theorem emit_xlate (s : State) (e : Emit) : (emit s e).xlate = s.xlate := rfl
@[simp] theorem emit_pool (s : State) (e : Emit) : (emit s e).pool = s.pool := rfl
@[simp] theorem emit_mer (s : State) (e : Emit) : (emit s e).mer = s.mer := rfl
@[simp] theorem emit_plat (s : State) (e : Emit) : (emit s e).plat = s.plat := rfl
@[simp] theorem emit_tens (s : State) (e : Emit) : (emit s e).tens = s.tens := rfl
@[simp] theorem emit_cdus (s : State) (e : Emit) : (emit s e).cdus = s.cdus := rfl
@[simp] theorem emit_book (s : State) (e : Emit) : (emit s e).book = s.book := rfl
@[simp] theorem emit_fhps (s : State) (e : Emit) : (emit s e).fhps = s.fhps := rfl
@[simp] theorem emit_fhqs (s : State) (e : Emit) : (emit s e).fhqs = s.fhqs := rfl
@[simp] theorem emit_flows (s : State) (e : Emit) : (emit s e).flows = s.flows := rfl
@[simp] theorem emit_flowSeq (s : State) (e : Emit) : (emit s e).flowSeq = s.flowSeq := rfl
@[simp] theorem emit_trv (s : State) (e : Emit) : (emit s e).trv = s.trv := rfl
@[simp] theorem emit_hlt (s : State) (e : Emit) : (emit s e).hlt = s.hlt := rfl
@[simp] theorem emit_mon (s : State) (e : Emit) : (emit s e).mon = s.mon := rfl
@[simp] theorem emit_pwr (s : State) (e : Emit) : (emit s e).pwr = s.pwr := rfl
@[simp] theorem emit_hostMem (s : State) (e : Emit) : (emit s e).hostMem = s.hostMem := rfl
@[simp] theorem emit_bme (s : State) (e : Emit) : (emit s e).bme = s.bme := rfl
@[simp] theorem emit_msixOff (s : State) (e : Emit) : (emit s e).msixOff = s.msixOff := rfl
@[simp] theorem emit_msixHeld (s : State) (e : Emit) : (emit s e).msixHeld = s.msixHeld := rfl
@[simp] theorem emit_fresh (s : State) (e : Emit) : (emit s e).fresh = s.fresh := rfl

/-! ### setStn -/

@[simp] theorem setStn_pending (s : State) (n : Nat) (x : Station) : (setStn s n x).pending = s.pending := rfl
@[simp] theorem setStn_part (s : State) (n : Nat) (x : Station) : (setStn s n x).part = s.part := rfl
@[simp] theorem setStn_stage (s : State) (n : Nat) (x : Station) : (setStn s n x).stage = s.stage := rfl
@[simp] theorem setStn_regs (s : State) (n : Nat) (x : Station) : (setStn s n x).regs = s.regs := rfl
@[simp] theorem setStn_eff (s : State) (n : Nat) (x : Station) : (setStn s n x).eff = s.eff := rfl
@[simp] theorem setStn_cap (s : State) (n : Nat) (x : Station) : (setStn s n x).cap = s.cap := rfl
@[simp] theorem setStn_sealAt (s : State) (n : Nat) (x : Station) : (setStn s n x).sealAt = s.sealAt := rfl
@[simp] theorem setStn_fp (s : State) (n : Nat) (x : Station) : (setStn s n x).fp = s.fp := rfl
@[simp] theorem setStn_ptns (s : State) (n : Nat) (x : Station) : (setStn s n x).ptns = s.ptns := rfl
@[simp] theorem setStn_migs (s : State) (n : Nat) (x : Station) : (setStn s n x).migs = s.migs := rfl
@[simp] theorem setStn_locs (s : State) (n : Nat) (x : Station) : (setStn s n x).locs = s.locs := rfl
@[simp] theorem setStn_spillNext (s : State) (n : Nat) (x : Station) : (setStn s n x).spillNext = s.spillNext := rfl
@[simp] theorem setStn_spillFreed (s : State) (n : Nat) (x : Station) : (setStn s n x).spillFreed = s.spillFreed := rfl
@[simp] theorem setStn_tierHeld (s : State) (n : Nat) (x : Station) : (setStn s n x).tierHeld = s.tierHeld := rfl
@[simp] theorem setStn_movs (s : State) (n : Nat) (x : Station) : (setStn s n x).movs = s.movs := rfl
@[simp] theorem setStn_xlate (s : State) (n : Nat) (x : Station) : (setStn s n x).xlate = s.xlate := rfl
@[simp] theorem setStn_pool (s : State) (n : Nat) (x : Station) : (setStn s n x).pool = s.pool := rfl
@[simp] theorem setStn_mer (s : State) (n : Nat) (x : Station) : (setStn s n x).mer = s.mer := rfl
@[simp] theorem setStn_plat (s : State) (n : Nat) (x : Station) : (setStn s n x).plat = s.plat := rfl
@[simp] theorem setStn_tens (s : State) (n : Nat) (x : Station) : (setStn s n x).tens = s.tens := rfl
@[simp] theorem setStn_cdus (s : State) (n : Nat) (x : Station) : (setStn s n x).cdus = s.cdus := rfl
@[simp] theorem setStn_book (s : State) (n : Nat) (x : Station) : (setStn s n x).book = s.book := rfl
@[simp] theorem setStn_fhps (s : State) (n : Nat) (x : Station) : (setStn s n x).fhps = s.fhps := rfl
@[simp] theorem setStn_fhqs (s : State) (n : Nat) (x : Station) : (setStn s n x).fhqs = s.fhqs := rfl
@[simp] theorem setStn_flows (s : State) (n : Nat) (x : Station) : (setStn s n x).flows = s.flows := rfl
@[simp] theorem setStn_flowSeq (s : State) (n : Nat) (x : Station) : (setStn s n x).flowSeq = s.flowSeq := rfl
@[simp] theorem setStn_trv (s : State) (n : Nat) (x : Station) : (setStn s n x).trv = s.trv := rfl
@[simp] theorem setStn_hlt (s : State) (n : Nat) (x : Station) : (setStn s n x).hlt = s.hlt := rfl
@[simp] theorem setStn_mon (s : State) (n : Nat) (x : Station) : (setStn s n x).mon = s.mon := rfl
@[simp] theorem setStn_pwr (s : State) (n : Nat) (x : Station) : (setStn s n x).pwr = s.pwr := rfl
@[simp] theorem setStn_hostMem (s : State) (n : Nat) (x : Station) : (setStn s n x).hostMem = s.hostMem := rfl
@[simp] theorem setStn_bme (s : State) (n : Nat) (x : Station) : (setStn s n x).bme = s.bme := rfl
@[simp] theorem setStn_msixOff (s : State) (n : Nat) (x : Station) : (setStn s n x).msixOff = s.msixOff := rfl
@[simp] theorem setStn_msixHeld (s : State) (n : Nat) (x : Station) : (setStn s n x).msixHeld = s.msixHeld := rfl
@[simp] theorem setStn_emitted (s : State) (n : Nat) (x : Station) : (setStn s n x).emitted = s.emitted := rfl
@[simp] theorem setStn_fresh (s : State) (n : Nat) (x : Station) : (setStn s n x).fresh = s.fresh := rfl

/-! ### setPtn -/

@[simp] theorem setPtn_pending (s : State) (n : Nat) (x : Partition) : (setPtn s n x).pending = s.pending := rfl
@[simp] theorem setPtn_part (s : State) (n : Nat) (x : Partition) : (setPtn s n x).part = s.part := rfl
@[simp] theorem setPtn_stage (s : State) (n : Nat) (x : Partition) : (setPtn s n x).stage = s.stage := rfl
@[simp] theorem setPtn_regs (s : State) (n : Nat) (x : Partition) : (setPtn s n x).regs = s.regs := rfl
@[simp] theorem setPtn_eff (s : State) (n : Nat) (x : Partition) : (setPtn s n x).eff = s.eff := rfl
@[simp] theorem setPtn_cap (s : State) (n : Nat) (x : Partition) : (setPtn s n x).cap = s.cap := rfl
@[simp] theorem setPtn_sealAt (s : State) (n : Nat) (x : Partition) : (setPtn s n x).sealAt = s.sealAt := rfl
@[simp] theorem setPtn_fp (s : State) (n : Nat) (x : Partition) : (setPtn s n x).fp = s.fp := rfl
@[simp] theorem setPtn_stns (s : State) (n : Nat) (x : Partition) : (setPtn s n x).stns = s.stns := rfl
@[simp] theorem setPtn_migs (s : State) (n : Nat) (x : Partition) : (setPtn s n x).migs = s.migs := rfl
@[simp] theorem setPtn_locs (s : State) (n : Nat) (x : Partition) : (setPtn s n x).locs = s.locs := rfl
@[simp] theorem setPtn_spillNext (s : State) (n : Nat) (x : Partition) : (setPtn s n x).spillNext = s.spillNext := rfl
@[simp] theorem setPtn_spillFreed (s : State) (n : Nat) (x : Partition) : (setPtn s n x).spillFreed = s.spillFreed := rfl
@[simp] theorem setPtn_tierHeld (s : State) (n : Nat) (x : Partition) : (setPtn s n x).tierHeld = s.tierHeld := rfl
@[simp] theorem setPtn_movs (s : State) (n : Nat) (x : Partition) : (setPtn s n x).movs = s.movs := rfl
@[simp] theorem setPtn_xlate (s : State) (n : Nat) (x : Partition) : (setPtn s n x).xlate = s.xlate := rfl
@[simp] theorem setPtn_pool (s : State) (n : Nat) (x : Partition) : (setPtn s n x).pool = s.pool := rfl
@[simp] theorem setPtn_mer (s : State) (n : Nat) (x : Partition) : (setPtn s n x).mer = s.mer := rfl
@[simp] theorem setPtn_plat (s : State) (n : Nat) (x : Partition) : (setPtn s n x).plat = s.plat := rfl
@[simp] theorem setPtn_tens (s : State) (n : Nat) (x : Partition) : (setPtn s n x).tens = s.tens := rfl
@[simp] theorem setPtn_cdus (s : State) (n : Nat) (x : Partition) : (setPtn s n x).cdus = s.cdus := rfl
@[simp] theorem setPtn_book (s : State) (n : Nat) (x : Partition) : (setPtn s n x).book = s.book := rfl
@[simp] theorem setPtn_fhps (s : State) (n : Nat) (x : Partition) : (setPtn s n x).fhps = s.fhps := rfl
@[simp] theorem setPtn_fhqs (s : State) (n : Nat) (x : Partition) : (setPtn s n x).fhqs = s.fhqs := rfl
@[simp] theorem setPtn_flows (s : State) (n : Nat) (x : Partition) : (setPtn s n x).flows = s.flows := rfl
@[simp] theorem setPtn_flowSeq (s : State) (n : Nat) (x : Partition) : (setPtn s n x).flowSeq = s.flowSeq := rfl
@[simp] theorem setPtn_trv (s : State) (n : Nat) (x : Partition) : (setPtn s n x).trv = s.trv := rfl
@[simp] theorem setPtn_hlt (s : State) (n : Nat) (x : Partition) : (setPtn s n x).hlt = s.hlt := rfl
@[simp] theorem setPtn_mon (s : State) (n : Nat) (x : Partition) : (setPtn s n x).mon = s.mon := rfl
@[simp] theorem setPtn_pwr (s : State) (n : Nat) (x : Partition) : (setPtn s n x).pwr = s.pwr := rfl
@[simp] theorem setPtn_hostMem (s : State) (n : Nat) (x : Partition) : (setPtn s n x).hostMem = s.hostMem := rfl
@[simp] theorem setPtn_bme (s : State) (n : Nat) (x : Partition) : (setPtn s n x).bme = s.bme := rfl
@[simp] theorem setPtn_msixOff (s : State) (n : Nat) (x : Partition) : (setPtn s n x).msixOff = s.msixOff := rfl
@[simp] theorem setPtn_msixHeld (s : State) (n : Nat) (x : Partition) : (setPtn s n x).msixHeld = s.msixHeld := rfl
@[simp] theorem setPtn_emitted (s : State) (n : Nat) (x : Partition) : (setPtn s n x).emitted = s.emitted := rfl
@[simp] theorem setPtn_fresh (s : State) (n : Nat) (x : Partition) : (setPtn s n x).fresh = s.fresh := rfl

/-! ### setMov -/

@[simp] theorem setMov_pending (s : State) (n : Nat) (x : Channel) : (setMov s n x).pending = s.pending := rfl
@[simp] theorem setMov_part (s : State) (n : Nat) (x : Channel) : (setMov s n x).part = s.part := rfl
@[simp] theorem setMov_stage (s : State) (n : Nat) (x : Channel) : (setMov s n x).stage = s.stage := rfl
@[simp] theorem setMov_regs (s : State) (n : Nat) (x : Channel) : (setMov s n x).regs = s.regs := rfl
@[simp] theorem setMov_eff (s : State) (n : Nat) (x : Channel) : (setMov s n x).eff = s.eff := rfl
@[simp] theorem setMov_cap (s : State) (n : Nat) (x : Channel) : (setMov s n x).cap = s.cap := rfl
@[simp] theorem setMov_sealAt (s : State) (n : Nat) (x : Channel) : (setMov s n x).sealAt = s.sealAt := rfl
@[simp] theorem setMov_fp (s : State) (n : Nat) (x : Channel) : (setMov s n x).fp = s.fp := rfl
@[simp] theorem setMov_stns (s : State) (n : Nat) (x : Channel) : (setMov s n x).stns = s.stns := rfl
@[simp] theorem setMov_ptns (s : State) (n : Nat) (x : Channel) : (setMov s n x).ptns = s.ptns := rfl
@[simp] theorem setMov_migs (s : State) (n : Nat) (x : Channel) : (setMov s n x).migs = s.migs := rfl
@[simp] theorem setMov_locs (s : State) (n : Nat) (x : Channel) : (setMov s n x).locs = s.locs := rfl
@[simp] theorem setMov_spillNext (s : State) (n : Nat) (x : Channel) : (setMov s n x).spillNext = s.spillNext := rfl
@[simp] theorem setMov_spillFreed (s : State) (n : Nat) (x : Channel) : (setMov s n x).spillFreed = s.spillFreed := rfl
@[simp] theorem setMov_tierHeld (s : State) (n : Nat) (x : Channel) : (setMov s n x).tierHeld = s.tierHeld := rfl
@[simp] theorem setMov_xlate (s : State) (n : Nat) (x : Channel) : (setMov s n x).xlate = s.xlate := rfl
@[simp] theorem setMov_pool (s : State) (n : Nat) (x : Channel) : (setMov s n x).pool = s.pool := rfl
@[simp] theorem setMov_mer (s : State) (n : Nat) (x : Channel) : (setMov s n x).mer = s.mer := rfl
@[simp] theorem setMov_plat (s : State) (n : Nat) (x : Channel) : (setMov s n x).plat = s.plat := rfl
@[simp] theorem setMov_tens (s : State) (n : Nat) (x : Channel) : (setMov s n x).tens = s.tens := rfl
@[simp] theorem setMov_cdus (s : State) (n : Nat) (x : Channel) : (setMov s n x).cdus = s.cdus := rfl
@[simp] theorem setMov_book (s : State) (n : Nat) (x : Channel) : (setMov s n x).book = s.book := rfl
@[simp] theorem setMov_fhps (s : State) (n : Nat) (x : Channel) : (setMov s n x).fhps = s.fhps := rfl
@[simp] theorem setMov_fhqs (s : State) (n : Nat) (x : Channel) : (setMov s n x).fhqs = s.fhqs := rfl
@[simp] theorem setMov_flows (s : State) (n : Nat) (x : Channel) : (setMov s n x).flows = s.flows := rfl
@[simp] theorem setMov_flowSeq (s : State) (n : Nat) (x : Channel) : (setMov s n x).flowSeq = s.flowSeq := rfl
@[simp] theorem setMov_trv (s : State) (n : Nat) (x : Channel) : (setMov s n x).trv = s.trv := rfl
@[simp] theorem setMov_hlt (s : State) (n : Nat) (x : Channel) : (setMov s n x).hlt = s.hlt := rfl
@[simp] theorem setMov_mon (s : State) (n : Nat) (x : Channel) : (setMov s n x).mon = s.mon := rfl
@[simp] theorem setMov_pwr (s : State) (n : Nat) (x : Channel) : (setMov s n x).pwr = s.pwr := rfl
@[simp] theorem setMov_hostMem (s : State) (n : Nat) (x : Channel) : (setMov s n x).hostMem = s.hostMem := rfl
@[simp] theorem setMov_bme (s : State) (n : Nat) (x : Channel) : (setMov s n x).bme = s.bme := rfl
@[simp] theorem setMov_msixOff (s : State) (n : Nat) (x : Channel) : (setMov s n x).msixOff = s.msixOff := rfl
@[simp] theorem setMov_msixHeld (s : State) (n : Nat) (x : Channel) : (setMov s n x).msixHeld = s.msixHeld := rfl
@[simp] theorem setMov_emitted (s : State) (n : Nat) (x : Channel) : (setMov s n x).emitted = s.emitted := rfl
@[simp] theorem setMov_fresh (s : State) (n : Nat) (x : Channel) : (setMov s n x).fresh = s.fresh := rfl

/-! ### setTen -/

@[simp] theorem setTen_pending (s : State) (n : Nat) (x : Engine) : (setTen s n x).pending = s.pending := rfl
@[simp] theorem setTen_part (s : State) (n : Nat) (x : Engine) : (setTen s n x).part = s.part := rfl
@[simp] theorem setTen_stage (s : State) (n : Nat) (x : Engine) : (setTen s n x).stage = s.stage := rfl
@[simp] theorem setTen_regs (s : State) (n : Nat) (x : Engine) : (setTen s n x).regs = s.regs := rfl
@[simp] theorem setTen_eff (s : State) (n : Nat) (x : Engine) : (setTen s n x).eff = s.eff := rfl
@[simp] theorem setTen_cap (s : State) (n : Nat) (x : Engine) : (setTen s n x).cap = s.cap := rfl
@[simp] theorem setTen_sealAt (s : State) (n : Nat) (x : Engine) : (setTen s n x).sealAt = s.sealAt := rfl
@[simp] theorem setTen_fp (s : State) (n : Nat) (x : Engine) : (setTen s n x).fp = s.fp := rfl
@[simp] theorem setTen_stns (s : State) (n : Nat) (x : Engine) : (setTen s n x).stns = s.stns := rfl
@[simp] theorem setTen_ptns (s : State) (n : Nat) (x : Engine) : (setTen s n x).ptns = s.ptns := rfl
@[simp] theorem setTen_migs (s : State) (n : Nat) (x : Engine) : (setTen s n x).migs = s.migs := rfl
@[simp] theorem setTen_locs (s : State) (n : Nat) (x : Engine) : (setTen s n x).locs = s.locs := rfl
@[simp] theorem setTen_spillNext (s : State) (n : Nat) (x : Engine) : (setTen s n x).spillNext = s.spillNext := rfl
@[simp] theorem setTen_spillFreed (s : State) (n : Nat) (x : Engine) : (setTen s n x).spillFreed = s.spillFreed := rfl
@[simp] theorem setTen_tierHeld (s : State) (n : Nat) (x : Engine) : (setTen s n x).tierHeld = s.tierHeld := rfl
@[simp] theorem setTen_movs (s : State) (n : Nat) (x : Engine) : (setTen s n x).movs = s.movs := rfl
@[simp] theorem setTen_xlate (s : State) (n : Nat) (x : Engine) : (setTen s n x).xlate = s.xlate := rfl
@[simp] theorem setTen_pool (s : State) (n : Nat) (x : Engine) : (setTen s n x).pool = s.pool := rfl
@[simp] theorem setTen_mer (s : State) (n : Nat) (x : Engine) : (setTen s n x).mer = s.mer := rfl
@[simp] theorem setTen_plat (s : State) (n : Nat) (x : Engine) : (setTen s n x).plat = s.plat := rfl
@[simp] theorem setTen_cdus (s : State) (n : Nat) (x : Engine) : (setTen s n x).cdus = s.cdus := rfl
@[simp] theorem setTen_book (s : State) (n : Nat) (x : Engine) : (setTen s n x).book = s.book := rfl
@[simp] theorem setTen_fhps (s : State) (n : Nat) (x : Engine) : (setTen s n x).fhps = s.fhps := rfl
@[simp] theorem setTen_fhqs (s : State) (n : Nat) (x : Engine) : (setTen s n x).fhqs = s.fhqs := rfl
@[simp] theorem setTen_flows (s : State) (n : Nat) (x : Engine) : (setTen s n x).flows = s.flows := rfl
@[simp] theorem setTen_flowSeq (s : State) (n : Nat) (x : Engine) : (setTen s n x).flowSeq = s.flowSeq := rfl
@[simp] theorem setTen_trv (s : State) (n : Nat) (x : Engine) : (setTen s n x).trv = s.trv := rfl
@[simp] theorem setTen_hlt (s : State) (n : Nat) (x : Engine) : (setTen s n x).hlt = s.hlt := rfl
@[simp] theorem setTen_mon (s : State) (n : Nat) (x : Engine) : (setTen s n x).mon = s.mon := rfl
@[simp] theorem setTen_pwr (s : State) (n : Nat) (x : Engine) : (setTen s n x).pwr = s.pwr := rfl
@[simp] theorem setTen_hostMem (s : State) (n : Nat) (x : Engine) : (setTen s n x).hostMem = s.hostMem := rfl
@[simp] theorem setTen_bme (s : State) (n : Nat) (x : Engine) : (setTen s n x).bme = s.bme := rfl
@[simp] theorem setTen_msixOff (s : State) (n : Nat) (x : Engine) : (setTen s n x).msixOff = s.msixOff := rfl
@[simp] theorem setTen_msixHeld (s : State) (n : Nat) (x : Engine) : (setTen s n x).msixHeld = s.msixHeld := rfl
@[simp] theorem setTen_emitted (s : State) (n : Nat) (x : Engine) : (setTen s n x).emitted = s.emitted := rfl
@[simp] theorem setTen_fresh (s : State) (n : Nat) (x : Engine) : (setTen s n x).fresh = s.fresh := rfl

/-! ### setCdu -/

@[simp] theorem setCdu_pending (s : State) (n : Nat) (x : CdUnit) : (setCdu s n x).pending = s.pending := rfl
@[simp] theorem setCdu_part (s : State) (n : Nat) (x : CdUnit) : (setCdu s n x).part = s.part := rfl
@[simp] theorem setCdu_stage (s : State) (n : Nat) (x : CdUnit) : (setCdu s n x).stage = s.stage := rfl
@[simp] theorem setCdu_regs (s : State) (n : Nat) (x : CdUnit) : (setCdu s n x).regs = s.regs := rfl
@[simp] theorem setCdu_eff (s : State) (n : Nat) (x : CdUnit) : (setCdu s n x).eff = s.eff := rfl
@[simp] theorem setCdu_cap (s : State) (n : Nat) (x : CdUnit) : (setCdu s n x).cap = s.cap := rfl
@[simp] theorem setCdu_sealAt (s : State) (n : Nat) (x : CdUnit) : (setCdu s n x).sealAt = s.sealAt := rfl
@[simp] theorem setCdu_fp (s : State) (n : Nat) (x : CdUnit) : (setCdu s n x).fp = s.fp := rfl
@[simp] theorem setCdu_stns (s : State) (n : Nat) (x : CdUnit) : (setCdu s n x).stns = s.stns := rfl
@[simp] theorem setCdu_ptns (s : State) (n : Nat) (x : CdUnit) : (setCdu s n x).ptns = s.ptns := rfl
@[simp] theorem setCdu_migs (s : State) (n : Nat) (x : CdUnit) : (setCdu s n x).migs = s.migs := rfl
@[simp] theorem setCdu_locs (s : State) (n : Nat) (x : CdUnit) : (setCdu s n x).locs = s.locs := rfl
@[simp] theorem setCdu_spillNext (s : State) (n : Nat) (x : CdUnit) : (setCdu s n x).spillNext = s.spillNext := rfl
@[simp] theorem setCdu_spillFreed (s : State) (n : Nat) (x : CdUnit) : (setCdu s n x).spillFreed = s.spillFreed := rfl
@[simp] theorem setCdu_tierHeld (s : State) (n : Nat) (x : CdUnit) : (setCdu s n x).tierHeld = s.tierHeld := rfl
@[simp] theorem setCdu_movs (s : State) (n : Nat) (x : CdUnit) : (setCdu s n x).movs = s.movs := rfl
@[simp] theorem setCdu_xlate (s : State) (n : Nat) (x : CdUnit) : (setCdu s n x).xlate = s.xlate := rfl
@[simp] theorem setCdu_pool (s : State) (n : Nat) (x : CdUnit) : (setCdu s n x).pool = s.pool := rfl
@[simp] theorem setCdu_mer (s : State) (n : Nat) (x : CdUnit) : (setCdu s n x).mer = s.mer := rfl
@[simp] theorem setCdu_plat (s : State) (n : Nat) (x : CdUnit) : (setCdu s n x).plat = s.plat := rfl
@[simp] theorem setCdu_tens (s : State) (n : Nat) (x : CdUnit) : (setCdu s n x).tens = s.tens := rfl
@[simp] theorem setCdu_book (s : State) (n : Nat) (x : CdUnit) : (setCdu s n x).book = s.book := rfl
@[simp] theorem setCdu_fhps (s : State) (n : Nat) (x : CdUnit) : (setCdu s n x).fhps = s.fhps := rfl
@[simp] theorem setCdu_fhqs (s : State) (n : Nat) (x : CdUnit) : (setCdu s n x).fhqs = s.fhqs := rfl
@[simp] theorem setCdu_flows (s : State) (n : Nat) (x : CdUnit) : (setCdu s n x).flows = s.flows := rfl
@[simp] theorem setCdu_flowSeq (s : State) (n : Nat) (x : CdUnit) : (setCdu s n x).flowSeq = s.flowSeq := rfl
@[simp] theorem setCdu_trv (s : State) (n : Nat) (x : CdUnit) : (setCdu s n x).trv = s.trv := rfl
@[simp] theorem setCdu_hlt (s : State) (n : Nat) (x : CdUnit) : (setCdu s n x).hlt = s.hlt := rfl
@[simp] theorem setCdu_mon (s : State) (n : Nat) (x : CdUnit) : (setCdu s n x).mon = s.mon := rfl
@[simp] theorem setCdu_pwr (s : State) (n : Nat) (x : CdUnit) : (setCdu s n x).pwr = s.pwr := rfl
@[simp] theorem setCdu_hostMem (s : State) (n : Nat) (x : CdUnit) : (setCdu s n x).hostMem = s.hostMem := rfl
@[simp] theorem setCdu_bme (s : State) (n : Nat) (x : CdUnit) : (setCdu s n x).bme = s.bme := rfl
@[simp] theorem setCdu_msixOff (s : State) (n : Nat) (x : CdUnit) : (setCdu s n x).msixOff = s.msixOff := rfl
@[simp] theorem setCdu_msixHeld (s : State) (n : Nat) (x : CdUnit) : (setCdu s n x).msixHeld = s.msixHeld := rfl
@[simp] theorem setCdu_emitted (s : State) (n : Nat) (x : CdUnit) : (setCdu s n x).emitted = s.emitted := rfl
@[simp] theorem setCdu_fresh (s : State) (n : Nat) (x : CdUnit) : (setCdu s n x).fresh = s.fresh := rfl

/-! ### setFhp -/

@[simp] theorem setFhp_pending (s : State) (n : Nat) (x : FhPort) : (setFhp s n x).pending = s.pending := rfl
@[simp] theorem setFhp_part (s : State) (n : Nat) (x : FhPort) : (setFhp s n x).part = s.part := rfl
@[simp] theorem setFhp_stage (s : State) (n : Nat) (x : FhPort) : (setFhp s n x).stage = s.stage := rfl
@[simp] theorem setFhp_regs (s : State) (n : Nat) (x : FhPort) : (setFhp s n x).regs = s.regs := rfl
@[simp] theorem setFhp_eff (s : State) (n : Nat) (x : FhPort) : (setFhp s n x).eff = s.eff := rfl
@[simp] theorem setFhp_cap (s : State) (n : Nat) (x : FhPort) : (setFhp s n x).cap = s.cap := rfl
@[simp] theorem setFhp_sealAt (s : State) (n : Nat) (x : FhPort) : (setFhp s n x).sealAt = s.sealAt := rfl
@[simp] theorem setFhp_fp (s : State) (n : Nat) (x : FhPort) : (setFhp s n x).fp = s.fp := rfl
@[simp] theorem setFhp_stns (s : State) (n : Nat) (x : FhPort) : (setFhp s n x).stns = s.stns := rfl
@[simp] theorem setFhp_ptns (s : State) (n : Nat) (x : FhPort) : (setFhp s n x).ptns = s.ptns := rfl
@[simp] theorem setFhp_migs (s : State) (n : Nat) (x : FhPort) : (setFhp s n x).migs = s.migs := rfl
@[simp] theorem setFhp_locs (s : State) (n : Nat) (x : FhPort) : (setFhp s n x).locs = s.locs := rfl
@[simp] theorem setFhp_spillNext (s : State) (n : Nat) (x : FhPort) : (setFhp s n x).spillNext = s.spillNext := rfl
@[simp] theorem setFhp_spillFreed (s : State) (n : Nat) (x : FhPort) : (setFhp s n x).spillFreed = s.spillFreed := rfl
@[simp] theorem setFhp_tierHeld (s : State) (n : Nat) (x : FhPort) : (setFhp s n x).tierHeld = s.tierHeld := rfl
@[simp] theorem setFhp_movs (s : State) (n : Nat) (x : FhPort) : (setFhp s n x).movs = s.movs := rfl
@[simp] theorem setFhp_xlate (s : State) (n : Nat) (x : FhPort) : (setFhp s n x).xlate = s.xlate := rfl
@[simp] theorem setFhp_pool (s : State) (n : Nat) (x : FhPort) : (setFhp s n x).pool = s.pool := rfl
@[simp] theorem setFhp_mer (s : State) (n : Nat) (x : FhPort) : (setFhp s n x).mer = s.mer := rfl
@[simp] theorem setFhp_plat (s : State) (n : Nat) (x : FhPort) : (setFhp s n x).plat = s.plat := rfl
@[simp] theorem setFhp_tens (s : State) (n : Nat) (x : FhPort) : (setFhp s n x).tens = s.tens := rfl
@[simp] theorem setFhp_cdus (s : State) (n : Nat) (x : FhPort) : (setFhp s n x).cdus = s.cdus := rfl
@[simp] theorem setFhp_book (s : State) (n : Nat) (x : FhPort) : (setFhp s n x).book = s.book := rfl
@[simp] theorem setFhp_fhqs (s : State) (n : Nat) (x : FhPort) : (setFhp s n x).fhqs = s.fhqs := rfl
@[simp] theorem setFhp_flows (s : State) (n : Nat) (x : FhPort) : (setFhp s n x).flows = s.flows := rfl
@[simp] theorem setFhp_flowSeq (s : State) (n : Nat) (x : FhPort) : (setFhp s n x).flowSeq = s.flowSeq := rfl
@[simp] theorem setFhp_trv (s : State) (n : Nat) (x : FhPort) : (setFhp s n x).trv = s.trv := rfl
@[simp] theorem setFhp_hlt (s : State) (n : Nat) (x : FhPort) : (setFhp s n x).hlt = s.hlt := rfl
@[simp] theorem setFhp_mon (s : State) (n : Nat) (x : FhPort) : (setFhp s n x).mon = s.mon := rfl
@[simp] theorem setFhp_pwr (s : State) (n : Nat) (x : FhPort) : (setFhp s n x).pwr = s.pwr := rfl
@[simp] theorem setFhp_hostMem (s : State) (n : Nat) (x : FhPort) : (setFhp s n x).hostMem = s.hostMem := rfl
@[simp] theorem setFhp_bme (s : State) (n : Nat) (x : FhPort) : (setFhp s n x).bme = s.bme := rfl
@[simp] theorem setFhp_msixOff (s : State) (n : Nat) (x : FhPort) : (setFhp s n x).msixOff = s.msixOff := rfl
@[simp] theorem setFhp_msixHeld (s : State) (n : Nat) (x : FhPort) : (setFhp s n x).msixHeld = s.msixHeld := rfl
@[simp] theorem setFhp_emitted (s : State) (n : Nat) (x : FhPort) : (setFhp s n x).emitted = s.emitted := rfl
@[simp] theorem setFhp_fresh (s : State) (n : Nat) (x : FhPort) : (setFhp s n x).fresh = s.fresh := rfl

/-! ### setFhq -/

@[simp] theorem setFhq_pending (s : State) (n : Nat) (x : FhQueue) : (setFhq s n x).pending = s.pending := rfl
@[simp] theorem setFhq_part (s : State) (n : Nat) (x : FhQueue) : (setFhq s n x).part = s.part := rfl
@[simp] theorem setFhq_stage (s : State) (n : Nat) (x : FhQueue) : (setFhq s n x).stage = s.stage := rfl
@[simp] theorem setFhq_regs (s : State) (n : Nat) (x : FhQueue) : (setFhq s n x).regs = s.regs := rfl
@[simp] theorem setFhq_eff (s : State) (n : Nat) (x : FhQueue) : (setFhq s n x).eff = s.eff := rfl
@[simp] theorem setFhq_cap (s : State) (n : Nat) (x : FhQueue) : (setFhq s n x).cap = s.cap := rfl
@[simp] theorem setFhq_sealAt (s : State) (n : Nat) (x : FhQueue) : (setFhq s n x).sealAt = s.sealAt := rfl
@[simp] theorem setFhq_fp (s : State) (n : Nat) (x : FhQueue) : (setFhq s n x).fp = s.fp := rfl
@[simp] theorem setFhq_stns (s : State) (n : Nat) (x : FhQueue) : (setFhq s n x).stns = s.stns := rfl
@[simp] theorem setFhq_ptns (s : State) (n : Nat) (x : FhQueue) : (setFhq s n x).ptns = s.ptns := rfl
@[simp] theorem setFhq_migs (s : State) (n : Nat) (x : FhQueue) : (setFhq s n x).migs = s.migs := rfl
@[simp] theorem setFhq_locs (s : State) (n : Nat) (x : FhQueue) : (setFhq s n x).locs = s.locs := rfl
@[simp] theorem setFhq_spillNext (s : State) (n : Nat) (x : FhQueue) : (setFhq s n x).spillNext = s.spillNext := rfl
@[simp] theorem setFhq_spillFreed (s : State) (n : Nat) (x : FhQueue) : (setFhq s n x).spillFreed = s.spillFreed := rfl
@[simp] theorem setFhq_tierHeld (s : State) (n : Nat) (x : FhQueue) : (setFhq s n x).tierHeld = s.tierHeld := rfl
@[simp] theorem setFhq_movs (s : State) (n : Nat) (x : FhQueue) : (setFhq s n x).movs = s.movs := rfl
@[simp] theorem setFhq_xlate (s : State) (n : Nat) (x : FhQueue) : (setFhq s n x).xlate = s.xlate := rfl
@[simp] theorem setFhq_pool (s : State) (n : Nat) (x : FhQueue) : (setFhq s n x).pool = s.pool := rfl
@[simp] theorem setFhq_mer (s : State) (n : Nat) (x : FhQueue) : (setFhq s n x).mer = s.mer := rfl
@[simp] theorem setFhq_plat (s : State) (n : Nat) (x : FhQueue) : (setFhq s n x).plat = s.plat := rfl
@[simp] theorem setFhq_tens (s : State) (n : Nat) (x : FhQueue) : (setFhq s n x).tens = s.tens := rfl
@[simp] theorem setFhq_cdus (s : State) (n : Nat) (x : FhQueue) : (setFhq s n x).cdus = s.cdus := rfl
@[simp] theorem setFhq_book (s : State) (n : Nat) (x : FhQueue) : (setFhq s n x).book = s.book := rfl
@[simp] theorem setFhq_fhps (s : State) (n : Nat) (x : FhQueue) : (setFhq s n x).fhps = s.fhps := rfl
@[simp] theorem setFhq_flows (s : State) (n : Nat) (x : FhQueue) : (setFhq s n x).flows = s.flows := rfl
@[simp] theorem setFhq_flowSeq (s : State) (n : Nat) (x : FhQueue) : (setFhq s n x).flowSeq = s.flowSeq := rfl
@[simp] theorem setFhq_trv (s : State) (n : Nat) (x : FhQueue) : (setFhq s n x).trv = s.trv := rfl
@[simp] theorem setFhq_hlt (s : State) (n : Nat) (x : FhQueue) : (setFhq s n x).hlt = s.hlt := rfl
@[simp] theorem setFhq_mon (s : State) (n : Nat) (x : FhQueue) : (setFhq s n x).mon = s.mon := rfl
@[simp] theorem setFhq_pwr (s : State) (n : Nat) (x : FhQueue) : (setFhq s n x).pwr = s.pwr := rfl
@[simp] theorem setFhq_hostMem (s : State) (n : Nat) (x : FhQueue) : (setFhq s n x).hostMem = s.hostMem := rfl
@[simp] theorem setFhq_bme (s : State) (n : Nat) (x : FhQueue) : (setFhq s n x).bme = s.bme := rfl
@[simp] theorem setFhq_msixOff (s : State) (n : Nat) (x : FhQueue) : (setFhq s n x).msixOff = s.msixOff := rfl
@[simp] theorem setFhq_msixHeld (s : State) (n : Nat) (x : FhQueue) : (setFhq s n x).msixHeld = s.msixHeld := rfl
@[simp] theorem setFhq_emitted (s : State) (n : Nat) (x : FhQueue) : (setFhq s n x).emitted = s.emitted := rfl
@[simp] theorem setFhq_fresh (s : State) (n : Nat) (x : FhQueue) : (setFhq s n x).fresh = s.fresh := rfl

/-! ### setTrc -/

@[simp] theorem setTrc_pending (s : State) (n : Nat) (x : List TrvItem) : (setTrc s n x).pending = s.pending := rfl
@[simp] theorem setTrc_part (s : State) (n : Nat) (x : List TrvItem) : (setTrc s n x).part = s.part := rfl
@[simp] theorem setTrc_stage (s : State) (n : Nat) (x : List TrvItem) : (setTrc s n x).stage = s.stage := rfl
@[simp] theorem setTrc_regs (s : State) (n : Nat) (x : List TrvItem) : (setTrc s n x).regs = s.regs := rfl
@[simp] theorem setTrc_eff (s : State) (n : Nat) (x : List TrvItem) : (setTrc s n x).eff = s.eff := rfl
@[simp] theorem setTrc_cap (s : State) (n : Nat) (x : List TrvItem) : (setTrc s n x).cap = s.cap := rfl
@[simp] theorem setTrc_sealAt (s : State) (n : Nat) (x : List TrvItem) : (setTrc s n x).sealAt = s.sealAt := rfl
@[simp] theorem setTrc_fp (s : State) (n : Nat) (x : List TrvItem) : (setTrc s n x).fp = s.fp := rfl
@[simp] theorem setTrc_stns (s : State) (n : Nat) (x : List TrvItem) : (setTrc s n x).stns = s.stns := rfl
@[simp] theorem setTrc_ptns (s : State) (n : Nat) (x : List TrvItem) : (setTrc s n x).ptns = s.ptns := rfl
@[simp] theorem setTrc_migs (s : State) (n : Nat) (x : List TrvItem) : (setTrc s n x).migs = s.migs := rfl
@[simp] theorem setTrc_locs (s : State) (n : Nat) (x : List TrvItem) : (setTrc s n x).locs = s.locs := rfl
@[simp] theorem setTrc_spillNext (s : State) (n : Nat) (x : List TrvItem) : (setTrc s n x).spillNext = s.spillNext := rfl
@[simp] theorem setTrc_spillFreed (s : State) (n : Nat) (x : List TrvItem) : (setTrc s n x).spillFreed = s.spillFreed := rfl
@[simp] theorem setTrc_tierHeld (s : State) (n : Nat) (x : List TrvItem) : (setTrc s n x).tierHeld = s.tierHeld := rfl
@[simp] theorem setTrc_movs (s : State) (n : Nat) (x : List TrvItem) : (setTrc s n x).movs = s.movs := rfl
@[simp] theorem setTrc_xlate (s : State) (n : Nat) (x : List TrvItem) : (setTrc s n x).xlate = s.xlate := rfl
@[simp] theorem setTrc_pool (s : State) (n : Nat) (x : List TrvItem) : (setTrc s n x).pool = s.pool := rfl
@[simp] theorem setTrc_mer (s : State) (n : Nat) (x : List TrvItem) : (setTrc s n x).mer = s.mer := rfl
@[simp] theorem setTrc_plat (s : State) (n : Nat) (x : List TrvItem) : (setTrc s n x).plat = s.plat := rfl
@[simp] theorem setTrc_tens (s : State) (n : Nat) (x : List TrvItem) : (setTrc s n x).tens = s.tens := rfl
@[simp] theorem setTrc_cdus (s : State) (n : Nat) (x : List TrvItem) : (setTrc s n x).cdus = s.cdus := rfl
@[simp] theorem setTrc_book (s : State) (n : Nat) (x : List TrvItem) : (setTrc s n x).book = s.book := rfl
@[simp] theorem setTrc_fhps (s : State) (n : Nat) (x : List TrvItem) : (setTrc s n x).fhps = s.fhps := rfl
@[simp] theorem setTrc_fhqs (s : State) (n : Nat) (x : List TrvItem) : (setTrc s n x).fhqs = s.fhqs := rfl
@[simp] theorem setTrc_flows (s : State) (n : Nat) (x : List TrvItem) : (setTrc s n x).flows = s.flows := rfl
@[simp] theorem setTrc_flowSeq (s : State) (n : Nat) (x : List TrvItem) : (setTrc s n x).flowSeq = s.flowSeq := rfl
@[simp] theorem setTrc_hlt (s : State) (n : Nat) (x : List TrvItem) : (setTrc s n x).hlt = s.hlt := rfl
@[simp] theorem setTrc_mon (s : State) (n : Nat) (x : List TrvItem) : (setTrc s n x).mon = s.mon := rfl
@[simp] theorem setTrc_pwr (s : State) (n : Nat) (x : List TrvItem) : (setTrc s n x).pwr = s.pwr := rfl
@[simp] theorem setTrc_hostMem (s : State) (n : Nat) (x : List TrvItem) : (setTrc s n x).hostMem = s.hostMem := rfl
@[simp] theorem setTrc_bme (s : State) (n : Nat) (x : List TrvItem) : (setTrc s n x).bme = s.bme := rfl
@[simp] theorem setTrc_msixOff (s : State) (n : Nat) (x : List TrvItem) : (setTrc s n x).msixOff = s.msixOff := rfl
@[simp] theorem setTrc_msixHeld (s : State) (n : Nat) (x : List TrvItem) : (setTrc s n x).msixHeld = s.msixHeld := rfl
@[simp] theorem setTrc_emitted (s : State) (n : Nat) (x : List TrvItem) : (setTrc s n x).emitted = s.emitted := rfl
@[simp] theorem setTrc_fresh (s : State) (n : Nat) (x : List TrvItem) : (setTrc s n x).fresh = s.fresh := rfl

/-! ### nextFresh -/

@[simp] theorem nextFresh_pending (s : State) : (nextFresh s).pending = s.pending := rfl
@[simp] theorem nextFresh_part (s : State) : (nextFresh s).part = s.part := rfl
@[simp] theorem nextFresh_stage (s : State) : (nextFresh s).stage = s.stage := rfl
@[simp] theorem nextFresh_regs (s : State) : (nextFresh s).regs = s.regs := rfl
@[simp] theorem nextFresh_eff (s : State) : (nextFresh s).eff = s.eff := rfl
@[simp] theorem nextFresh_cap (s : State) : (nextFresh s).cap = s.cap := rfl
@[simp] theorem nextFresh_sealAt (s : State) : (nextFresh s).sealAt = s.sealAt := rfl
@[simp] theorem nextFresh_fp (s : State) : (nextFresh s).fp = s.fp := rfl
@[simp] theorem nextFresh_stns (s : State) : (nextFresh s).stns = s.stns := rfl
@[simp] theorem nextFresh_ptns (s : State) : (nextFresh s).ptns = s.ptns := rfl
@[simp] theorem nextFresh_migs (s : State) : (nextFresh s).migs = s.migs := rfl
@[simp] theorem nextFresh_locs (s : State) : (nextFresh s).locs = s.locs := rfl
@[simp] theorem nextFresh_spillNext (s : State) : (nextFresh s).spillNext = s.spillNext := rfl
@[simp] theorem nextFresh_spillFreed (s : State) : (nextFresh s).spillFreed = s.spillFreed := rfl
@[simp] theorem nextFresh_tierHeld (s : State) : (nextFresh s).tierHeld = s.tierHeld := rfl
@[simp] theorem nextFresh_movs (s : State) : (nextFresh s).movs = s.movs := rfl
@[simp] theorem nextFresh_xlate (s : State) : (nextFresh s).xlate = s.xlate := rfl
@[simp] theorem nextFresh_pool (s : State) : (nextFresh s).pool = s.pool := rfl
@[simp] theorem nextFresh_mer (s : State) : (nextFresh s).mer = s.mer := rfl
@[simp] theorem nextFresh_plat (s : State) : (nextFresh s).plat = s.plat := rfl
@[simp] theorem nextFresh_tens (s : State) : (nextFresh s).tens = s.tens := rfl
@[simp] theorem nextFresh_cdus (s : State) : (nextFresh s).cdus = s.cdus := rfl
@[simp] theorem nextFresh_book (s : State) : (nextFresh s).book = s.book := rfl
@[simp] theorem nextFresh_fhps (s : State) : (nextFresh s).fhps = s.fhps := rfl
@[simp] theorem nextFresh_fhqs (s : State) : (nextFresh s).fhqs = s.fhqs := rfl
@[simp] theorem nextFresh_flows (s : State) : (nextFresh s).flows = s.flows := rfl
@[simp] theorem nextFresh_flowSeq (s : State) : (nextFresh s).flowSeq = s.flowSeq := rfl
@[simp] theorem nextFresh_trv (s : State) : (nextFresh s).trv = s.trv := rfl
@[simp] theorem nextFresh_hlt (s : State) : (nextFresh s).hlt = s.hlt := rfl
@[simp] theorem nextFresh_mon (s : State) : (nextFresh s).mon = s.mon := rfl
@[simp] theorem nextFresh_pwr (s : State) : (nextFresh s).pwr = s.pwr := rfl
@[simp] theorem nextFresh_hostMem (s : State) : (nextFresh s).hostMem = s.hostMem := rfl
@[simp] theorem nextFresh_bme (s : State) : (nextFresh s).bme = s.bme := rfl
@[simp] theorem nextFresh_msixOff (s : State) : (nextFresh s).msixOff = s.msixOff := rfl
@[simp] theorem nextFresh_msixHeld (s : State) : (nextFresh s).msixHeld = s.msixHeld := rfl
@[simp] theorem nextFresh_emitted (s : State) : (nextFresh s).emitted = s.emitted := rfl

/-! ### Reading back -/

/-- A field reads what was written to it, cut to its width. -/
@[simp] theorem rd_wr_same (s : State) (p : Page) (f : Fld) (v : Nat) : rd (wr s p f v) p f = v % 2 ^ f.w :=
  mapGet_mapSet_same _ _ _ _

/-- A field at another bit address reads as before. -/
theorem rd_wr_other (s : State) (p q : Page) (f g : Fld) (v : Nat) (h : fldKey q g ≠ fldKey p f) :
    rd (wr s p f v) q g = rd s q g := by
  unfold rd wr
  simp only [mapSet]
  split
  · rw [mapGet_mapErase, if_neg h]
  · rw [mapGet_mapPut, if_neg h]

/-- On one page, fields at different bit offsets are apart. -/
theorem rd_wr_off (s : State) (p : Page) (f g : Fld) (v : Nat) (h : 8 * g.off + g.lo ≠ 8 * f.off + f.lo) :
    rd (wr s p f v) p g = rd s p g := by
  refine rd_wr_other s p p f g v ?_
  unfold fldKey
  omega

@[simp] theorem rdApplied_wr (s : State) (p q : Page) (f g : Fld) (v : Nat) : rdApplied (wr s p f v) q g = rdApplied s q g := rfl
@[simp] theorem rd_wrApplied (s : State) (p q : Page) (f g : Fld) (v : Nat) : rd (wrApplied s p f v) q g = rd s q g := rfl

@[simp] theorem rdApplied_wrApplied_same (s : State) (p : Page) (f : Fld) (v : Nat) :
    rdApplied (wrApplied s p f v) p f = v % 2 ^ f.w := mapGet_mapSet_same _ _ _ _

@[simp] theorem stn_setStn_same (s : State) (n : Nat) (x : Station) : stn (setStn s n x) n = x := mapGet_mapSet_same _ _ _ _
theorem stn_setStn_other (s : State) {n k : Nat} (x : Station) (h : k ≠ n) : stn (setStn s n x) k = stn s k :=
  mapGet_mapSet_other _ _ _ h
@[simp] theorem stn_wr (s : State) (p : Page) (f : Fld) (v k : Nat) : stn (wr s p f v) k = stn s k := rfl

@[simp] theorem ptn_setPtn_same (s : State) (n : Nat) (x : Partition) : ptn (setPtn s n x) n = x := mapGet_mapSet_same _ _ _ _
theorem ptn_setPtn_other (s : State) {n k : Nat} (x : Partition) (h : k ≠ n) : ptn (setPtn s n x) k = ptn s k :=
  mapGet_mapSet_other _ _ _ h
@[simp] theorem ptn_wr (s : State) (p : Page) (f : Fld) (v k : Nat) : ptn (wr s p f v) k = ptn s k := rfl

@[simp] theorem mov_setMov_same (s : State) (n : Nat) (x : Channel) : mov (setMov s n x) n = x := mapGet_mapSet_same _ _ _ _
theorem mov_setMov_other (s : State) {n k : Nat} (x : Channel) (h : k ≠ n) : mov (setMov s n x) k = mov s k :=
  mapGet_mapSet_other _ _ _ h
@[simp] theorem mov_wr (s : State) (p : Page) (f : Fld) (v k : Nat) : mov (wr s p f v) k = mov s k := rfl

@[simp] theorem ten_setTen_same (s : State) (n : Nat) (x : Engine) : ten (setTen s n x) n = x := mapGet_mapSet_same _ _ _ _
theorem ten_setTen_other (s : State) {n k : Nat} (x : Engine) (h : k ≠ n) : ten (setTen s n x) k = ten s k :=
  mapGet_mapSet_other _ _ _ h
@[simp] theorem ten_wr (s : State) (p : Page) (f : Fld) (v k : Nat) : ten (wr s p f v) k = ten s k := rfl

@[simp] theorem cdu_setCdu_same (s : State) (n : Nat) (x : CdUnit) : cdu (setCdu s n x) n = x := mapGet_mapSet_same _ _ _ _
theorem cdu_setCdu_other (s : State) {n k : Nat} (x : CdUnit) (h : k ≠ n) : cdu (setCdu s n x) k = cdu s k :=
  mapGet_mapSet_other _ _ _ h
@[simp] theorem cdu_wr (s : State) (p : Page) (f : Fld) (v k : Nat) : cdu (wr s p f v) k = cdu s k := rfl

@[simp] theorem fhp_setFhp_same (s : State) (n : Nat) (x : FhPort) : fhp (setFhp s n x) n = x := mapGet_mapSet_same _ _ _ _
theorem fhp_setFhp_other (s : State) {n k : Nat} (x : FhPort) (h : k ≠ n) : fhp (setFhp s n x) k = fhp s k :=
  mapGet_mapSet_other _ _ _ h
@[simp] theorem fhp_wr (s : State) (p : Page) (f : Fld) (v k : Nat) : fhp (wr s p f v) k = fhp s k := rfl

@[simp] theorem fhq_setFhq_same (s : State) (n : Nat) (x : FhQueue) : fhq (setFhq s n x) n = x := mapGet_mapSet_same _ _ _ _
theorem fhq_setFhq_other (s : State) {n k : Nat} (x : FhQueue) (h : k ≠ n) : fhq (setFhq s n x) k = fhq s k :=
  mapGet_mapSet_other _ _ _ h
@[simp] theorem fhq_wr (s : State) (p : Page) (f : Fld) (v k : Nat) : fhq (wr s p f v) k = fhq s k := rfl

@[simp] theorem trc_setTrc_same (s : State) (n : Nat) (x : List TrvItem) : trc (setTrc s n x) n = x := mapGet_mapSet_same _ _ _ _
theorem trc_setTrc_other (s : State) {n k : Nat} (x : List TrvItem) (h : k ≠ n) : trc (setTrc s n x) k = trc s k :=
  mapGet_mapSet_other _ _ _ h
@[simp] theorem trc_wr (s : State) (p : Page) (f : Fld) (v k : Nat) : trc (wr s p f v) k = trc s k := rfl

/-! ### The outcome of a command -/

/-- A command that names units the spec has, while the part is not tripped, answers its effect. -/
theorem act_next {i : Instr} {s : State} (e : State) (hw : i.wf = true) (ht : s.stage ≠ .tripped) : act i s e = .next e := by
  unfold act
  rw [if_pos hw, decide_eq_false ht, Bool.false_and]
  rfl

/-- A next state is the command's effect, or the state as it was. -/
theorem act_cases {i : Instr} {s e t : State} (h : act i s e = .next t) : t = e ∨ t = s := by
  unfold act at h
  split at h
  · split at h <;> cases h
    · exact .inr rfl
    · exact .inl rfl
  · cases h

end Sys2Proof.Machine
end

