-- ==== Sys2Proof/Laws/Next.lean ====
section
/-! SUPPORT. What a command answers: one that names units the spec has, while the part is not tripped, its effect. -/

namespace Sys2Proof.Machine

theorem next_registerWrite {a0 a1 a2 a3} {s : State} (h : (Instr.registerWrite a0 a1 a2 a3).wf = true) (ht : s.stage ≠ .tripped) :
    exec (.registerWrite a0 a1 a2 a3) s = .next (effRegisterWrite a0 a1 a2 a3 s) := act_next _ h ht
theorem next_seal {a0 a1 a2} {s : State} (h : (Instr.seal a0 a1 a2).wf = true) (ht : s.stage ≠ .tripped) :
    exec (.seal a0 a1 a2) s = .next (effSeal a0 a1 a2 s) := act_next _ h ht
theorem next_expertEnWrite {a0 a1 a2} {s : State} (h : (Instr.expertEnWrite a0 a1 a2).wf = true) (ht : s.stage ≠ .tripped) :
    exec (.expertEnWrite a0 a1 a2) s = .next (effExpertEnWrite a0 a1 a2 s) := act_next _ h ht
theorem next_sealCommit {a0} {s : State} (h : (Instr.sealCommit a0).wf = true) (ht : s.stage ≠ .tripped) :
    exec (.sealCommit a0) s = .next (effSealCommit a0 s) := act_next _ h ht
theorem next_quiesceRequest {a0 a1} {s : State} (h : (Instr.quiesceRequest a0 a1).wf = true) (ht : s.stage ≠ .tripped) :
    exec (.quiesceRequest a0 a1) s = .next (effQuiesceRequest a0 a1 s) := act_next _ h ht
theorem next_quiesceComplete {a0} {s : State} (h : (Instr.quiesceComplete a0).wf = true) (ht : s.stage ≠ .tripped) :
    exec (.quiesceComplete a0) s = .next (effQuiesceComplete a0 s) := act_next _ h ht
theorem next_quiesceClear {a0 a1} {s : State} (h : (Instr.quiesceClear a0 a1).wf = true) (ht : s.stage ≠ .tripped) :
    exec (.quiesceClear a0 a1) s = .next (effQuiesceClear a0 a1 s) := act_next _ h ht
theorem next_ownerWrite {a0 a1 a2} {s : State} (h : (Instr.ownerWrite a0 a1 a2).wf = true) (ht : s.stage ≠ .tripped) :
    exec (.ownerWrite a0 a1 a2) s = .next (effOwnerWrite a0 a1 a2 s) := act_next _ h ht
theorem next_coldDeviceReset {a0 a1} {s : State} (h : (Instr.coldDeviceReset a0 a1).wf = true) (ht : s.stage ≠ .tripped) :
    exec (.coldDeviceReset a0 a1) s = .next (effColdDeviceReset a0 a1 s) := act_next _ h ht
theorem next_pwrokDeassert {s : State} (h : (Instr.pwrokDeassert).wf = true) (ht : s.stage ≠ .tripped) :
    exec (.pwrokDeassert) s = .next (effPwrokDeassert s) := act_next _ h ht
theorem next_trainingComplete {a0 a1 a2 a3} {s : State} (h : (Instr.trainingComplete a0 a1 a2 a3).wf = true) (ht : s.stage ≠ .tripped) :
    exec (.trainingComplete a0 a1 a2 a3) s = .next (effTrainingComplete a0 a1 a2 a3 s) := act_next _ h ht
theorem next_configRequest {a0} {s : State} (h : (Instr.configRequest a0).wf = true) (ht : s.stage ≠ .tripped) :
    exec (.configRequest a0) s = .next (effConfigRequest a0 s) := act_next _ h ht
theorem next_linkRetrain {a0 a1} {s : State} (h : (Instr.linkRetrain a0 a1).wf = true) (ht : s.stage ≠ .tripped) :
    exec (.linkRetrain a0 a1) s = .next (effLinkRetrain a0 a1 s) := act_next _ h ht
theorem next_stationReset {a0} {s : State} (h : (Instr.stationReset a0).wf = true) (ht : s.stage ≠ .tripped) :
    exec (.stationReset a0) s = .next (effStationReset a0 s) := act_next _ h ht
theorem next_clusterReset {a0 a1} {s : State} (h : (Instr.clusterReset a0 a1).wf = true) (ht : s.stage ≠ .tripped) :
    exec (.clusterReset a0 a1) s = .next (effClusterReset a0 a1 s) := act_next _ h ht
theorem next_partitionReset {a0} {s : State} (h : (Instr.partitionReset a0).wf = true) (ht : s.stage ≠ .tripped) :
    exec (.partitionReset a0) s = .next (effPartitionReset a0 s) := act_next _ h ht
theorem next_warmDeviceReset {a0} {s : State} (h : (Instr.warmDeviceReset a0).wf = true) (ht : s.stage ≠ .tripped) :
    exec (.warmDeviceReset a0) s = .next (effWarmDeviceReset a0 s) := act_next _ h ht
theorem next_warmResetComplete {s : State} (h : (Instr.warmResetComplete).wf = true) (ht : s.stage ≠ .tripped) :
    exec (.warmResetComplete) s = .next (effWarmResetComplete s) := act_next _ h ht
theorem next_sequencerWatchdog {a0} {s : State} (h : (Instr.sequencerWatchdog a0).wf = true) (ht : s.stage ≠ .tripped) :
    exec (.sequencerWatchdog a0) s = .next (effSequencerWatchdog a0 s) := act_next _ h ht
theorem next_lockLossTimeout {a0} {s : State} (h : (Instr.lockLossTimeout a0).wf = true) (ht : s.stage ≠ .tripped) :
    exec (.lockLossTimeout a0) s = .next (effLockLossTimeout a0 s) := act_next _ h ht
theorem next_arraySelfCheck {a0 a1} {s : State} (h : (Instr.arraySelfCheck a0 a1).wf = true) (ht : s.stage ≠ .tripped) :
    exec (.arraySelfCheck a0 a1) s = .next (effArraySelfCheck a0 a1 s) := act_next _ h ht
theorem next_stationJobStart {a0} {s : State} (h : (Instr.stationJobStart a0).wf = true) (ht : s.stage ≠ .tripped) :
    exec (.stationJobStart a0) s = .next (effStationJobStart a0 s) := act_next _ h ht
theorem next_nop {a0} {s : State} (h : (Instr.nop a0).wf = true) (ht : s.stage ≠ .tripped) :
    exec (.nop a0) s = .next (effNop a0 s) := act_next _ h ht
theorem next_seti {a0} {s : State} (h : (Instr.seti a0).wf = true) (ht : s.stage ≠ .tripped) :
    exec (.seti a0) s = .next (effSeti a0 s) := act_next _ h ht
theorem next_addi {a0} {s : State} (h : (Instr.addi a0).wf = true) (ht : s.stage ≠ .tripped) :
    exec (.addi a0) s = .next (effAddi a0 s) := act_next _ h ht
theorem next_loop {a0} {s : State} (h : (Instr.loop a0).wf = true) (ht : s.stage ≠ .tripped) :
    exec (.loop a0) s = .next (effLoop a0 s) := act_next _ h ht
theorem next_jmp {a0} {s : State} (h : (Instr.jmp a0).wf = true) (ht : s.stage ≠ .tripped) :
    exec (.jmp a0) s = .next (effJmp a0 s) := act_next _ h ht
theorem next_ldw {a0} {s : State} (h : (Instr.ldw a0).wf = true) (ht : s.stage ≠ .tripped) :
    exec (.ldw a0) s = .next (condemnDue (effLdw a0 s)) := act_next _ h ht
theorem next_mma {a0} {s : State} (h : (Instr.mma a0).wf = true) (ht : s.stage ≠ .tripped) :
    exec (.mma a0) s = .next (condemnDue (effMma a0 s)) := act_next _ h ht
theorem next_rqo {a0} {s : State} (h : (Instr.rqo a0).wf = true) (ht : s.stage ≠ .tripped) :
    exec (.rqo a0) s = .next (effRqo a0 s) := act_next _ h ht
theorem next_rqoStart {a0} {s : State} (h : (Instr.rqoStart a0).wf = true) (ht : s.stage ≠ .tripped) :
    exec (.rqoStart a0) s = .next (condemnDue (effRqoStart a0 s)) := act_next _ h ht
theorem next_rqoComplete {a0} {s : State} (h : (Instr.rqoComplete a0).wf = true) (ht : s.stage ≠ .tripped) :
    exec (.rqoComplete a0) s = .next (condemnDue (effRqoComplete a0 s)) := act_next _ h ht
theorem next_waitt {a0} {s : State} (h : (Instr.waitt a0).wf = true) (ht : s.stage ≠ .tripped) :
    exec (.waitt a0) s = .next (effWaitt a0 s) := act_next _ h ht
theorem next_relt {a0} {s : State} (h : (Instr.relt a0).wf = true) (ht : s.stage ≠ .tripped) :
    exec (.relt a0) s = .next (effRelt a0 s) := act_next _ h ht
theorem next_post {a0} {s : State} (h : (Instr.post a0).wf = true) (ht : s.stage ≠ .tripped) :
    exec (.post a0) s = .next (effPost a0 s) := act_next _ h ht
theorem next_fence {a0} {s : State} (h : (Instr.fence a0).wf = true) (ht : s.stage ≠ .tripped) :
    exec (.fence a0) s = .next (effFence a0 s) := act_next _ h ht
theorem next_stnEnd {a0} {s : State} (h : (Instr.stnEnd a0).wf = true) (ht : s.stage ≠ .tripped) :
    exec (.stnEnd a0) s = .next (effStnEnd a0 s) := act_next _ h ht
theorem next_stationJobComplete {a0} {s : State} (h : (Instr.stationJobComplete a0).wf = true) (ht : s.stage ≠ .tripped) :
    exec (.stationJobComplete a0) s = .next (effStationJobComplete a0 s) := act_next _ h ht
theorem next_stationSave {a0} {s : State} (h : (Instr.stationSave a0).wf = true) (ht : s.stage ≠ .tripped) :
    exec (.stationSave a0) s = .next (effStationSave a0 s) := act_next _ h ht
theorem next_lendResZeroingDone {a0} {s : State} (h : (Instr.lendResZeroingDone a0).wf = true) (ht : s.stage ≠ .tripped) :
    exec (.lendResZeroingDone a0) s = .next (condemnDue (effLendResZeroingDone a0 s)) := act_next _ h ht
theorem next_stationStoreZeroed {a0} {s : State} (h : (Instr.stationStoreZeroed a0).wf = true) (ht : s.stage ≠ .tripped) :
    exec (.stationStoreZeroed a0) s = .next (condemnDue (effStationStoreZeroed a0 s)) := act_next _ h ht
theorem next_instructionMemoryWrite {a0 a1 a2 a3} {s : State} (h : (Instr.instructionMemoryWrite a0 a1 a2 a3).wf = true) (ht : s.stage ≠ .tripped) :
    exec (.instructionMemoryWrite a0 a1 a2 a3) s = .next (effInstructionMemoryWrite a0 a1 a2 a3 s) := act_next _ h ht
theorem next_statClr {a0 a1} {s : State} (h : (Instr.statClr a0 a1).wf = true) (ht : s.stage ≠ .tripped) :
    exec (.statClr a0 a1) s = .next (effStatClr a0 a1 s) := act_next _ h ht
theorem next_bindGo {a0 a1} {s : State} (h : (Instr.bindGo a0 a1).wf = true) (ht : s.stage ≠ .tripped) :
    exec (.bindGo a0 a1) s = .next (effBindGo a0 a1 s) := act_next _ h ht
theorem next_lookup {a0 a1} {s : State} (h : (Instr.lookup a0 a1).wf = true) (ht : s.stage ≠ .tripped) :
    exec (.lookup a0 a1) s = .next (effLookup a0 a1 s) := act_next _ h ht
theorem next_carryComplete {a0} {s : State} (h : (Instr.carryComplete a0).wf = true) (ht : s.stage ≠ .tripped) :
    exec (.carryComplete a0) s = .next (effCarryComplete a0 s) := act_next _ h ht
theorem next_bar2Access {a0 a1 a2} {s : State} (h : (Instr.bar2Access a0 a1 a2).wf = true) (ht : s.stage ≠ .tripped) :
    exec (.bar2Access a0 a1 a2) s = .next (condemnDue (effBar2Access a0 a1 a2 s)) := act_next _ h ht
theorem next_managerWindowAccess {a0 a1} {s : State} (h : (Instr.managerWindowAccess a0 a1).wf = true) (ht : s.stage ≠ .tripped) :
    exec (.managerWindowAccess a0 a1) s = .next (condemnDue (effManagerWindowAccess a0 a1 s)) := act_next _ h ht
theorem next_ageBoundary {s : State} (h : (Instr.ageBoundary).wf = true) (ht : s.stage ≠ .tripped) :
    exec (.ageBoundary) s = .next (effAgeBoundary s) := act_next _ h ht
theorem next_migrationCommit {a0 a1} {s : State} (h : (Instr.migrationCommit a0 a1).wf = true) (ht : s.stage ≠ .tripped) :
    exec (.migrationCommit a0 a1) s = .next (condemnDue (effMigrationCommit a0 a1 s)) := act_next _ h ht
theorem next_migrationSourceFreed {a0 a1} {s : State} (h : (Instr.migrationSourceFreed a0 a1).wf = true) (ht : s.stage ≠ .tripped) :
    exec (.migrationSourceFreed a0 a1) s = .next (effMigrationSourceFreed a0 a1 s) := act_next _ h ht
theorem next_locationZeroed {a0 a1} {s : State} (h : (Instr.locationZeroed a0 a1).wf = true) (ht : s.stage ≠ .tripped) :
    exec (.locationZeroed a0 a1) s = .next (condemnDue (effLocationZeroed a0 a1 s)) := act_next _ h ht
theorem next_pinComplete {a0 a1} {s : State} (h : (Instr.pinComplete a0 a1).wf = true) (ht : s.stage ≠ .tripped) :
    exec (.pinComplete a0 a1) s = .next (effPinComplete a0 a1 s) := act_next _ h ht
theorem next_freeGo {a0 a1} {s : State} (h : (Instr.freeGo a0 a1).wf = true) (ht : s.stage ≠ .tripped) :
    exec (.freeGo a0 a1) s = .next (effFreeGo a0 a1 s) := act_next _ h ht
theorem next_tileQuery {a0 a1 a2} {s : State} (h : (Instr.tileQuery a0 a1 a2).wf = true) (ht : s.stage ≠ .tripped) :
    exec (.tileQuery a0 a1 a2) s = .next (effTileQuery a0 a1 a2 s) := act_next _ h ht
theorem next_tirTileQuery {a0} {s : State} (h : (Instr.tirTileQuery a0).wf = true) (ht : s.stage ≠ .tripped) :
    exec (.tirTileQuery a0) s = .next (effTirTileQuery a0 s) := act_next _ h ht
theorem next_patrolScrub {a0} {s : State} (h : (Instr.patrolScrub a0).wf = true) (ht : s.stage ≠ .tripped) :
    exec (.patrolScrub a0) s = .next (condemnDue (effPatrolScrub a0 s)) := act_next _ h ht
theorem next_moverAccept {a0} {s : State} (h : (Instr.moverAccept a0).wf = true) (ht : s.stage ≠ .tripped) :
    exec (.moverAccept a0) s = .next (condemnDue (effMoverAccept a0 s)) := act_next _ h ht
theorem next_cplReserveRetry {a0} {s : State} (h : (Instr.cplReserveRetry a0).wf = true) (ht : s.stage ≠ .tripped) :
    exec (.cplReserveRetry a0) s = .next (condemnDue (effCplReserveRetry a0 s)) := act_next _ h ht
theorem next_copy {a0 a1} {s : State} (h : (Instr.copy a0 a1).wf = true) (ht : s.stage ≠ .tripped) :
    exec (.copy a0 a1) s = .next (condemnDue (effCopy a0 a1 s)) := act_next _ h ht
theorem next_skew {a0 a1} {s : State} (h : (Instr.skew a0 a1).wf = true) (ht : s.stage ≠ .tripped) :
    exec (.skew a0 a1) s = .next (condemnDue (effSkew a0 a1 s)) := act_next _ h ht
theorem next_xpose {a0 a1} {s : State} (h : (Instr.xpose a0 a1).wf = true) (ht : s.stage ≠ .tripped) :
    exec (.xpose a0 a1) s = .next (condemnDue (effXpose a0 a1 s)) := act_next _ h ht
theorem next_descriptorComplete {a0} {s : State} (h : (Instr.descriptorComplete a0).wf = true) (ht : s.stage ≠ .tripped) :
    exec (.descriptorComplete a0) s = .next (effDescriptorComplete a0 s) := act_next _ h ht
theorem next_fltCmdResume {a0 a1} {s : State} (h : (Instr.fltCmdResume a0 a1).wf = true) (ht : s.stage ≠ .tripped) :
    exec (.fltCmdResume a0 a1) s = .next (effFltCmdResume a0 a1 s) := act_next _ h ht
theorem next_fltCmdAbort {a0 a1} {s : State} (h : (Instr.fltCmdAbort a0 a1).wf = true) (ht : s.stage ≠ .tripped) :
    exec (.fltCmdAbort a0 a1) s = .next (effFltCmdAbort a0 a1 s) := act_next _ h ht
theorem next_faultTimeout {a0} {s : State} (h : (Instr.faultTimeout a0).wf = true) (ht : s.stage ≠ .tripped) :
    exec (.faultTimeout a0) s = .next (effFaultTimeout a0 s) := act_next _ h ht
theorem next_invGo {a0 a1} {s : State} (h : (Instr.invGo a0 a1).wf = true) (ht : s.stage ≠ .tripped) :
    exec (.invGo a0 a1) s = .next (effInvGo a0 a1 s) := act_next _ h ht
theorem next_invalidationDone {a0} {s : State} (h : (Instr.invalidationDone a0).wf = true) (ht : s.stage ≠ .tripped) :
    exec (.invalidationDone a0) s = .next (effInvalidationDone a0 s) := act_next _ h ht
theorem next_reserve {a0 a1 a2 a3} {s : State} (h : (Instr.reserve a0 a1 a2 a3).wf = true) (ht : s.stage ≠ .tripped) :
    exec (.reserve a0 a1 a2 a3) s = .next (effReserve a0 a1 a2 a3 s) := act_next _ h ht
theorem next_commit {a0 a1 a2 a3} {s : State} (h : (Instr.commit a0 a1 a2 a3).wf = true) (ht : s.stage ≠ .tripped) :
    exec (.commit a0 a1 a2 a3) s = .next (effCommit a0 a1 a2 a3 s) := act_next _ h ht
theorem next_read {a0 a1} {s : State} (h : (Instr.read a0 a1).wf = true) (ht : s.stage ≠ .tripped) :
    exec (.read a0 a1) s = .next (effRead a0 a1 s) := act_next _ h ht
theorem next_mark {a0 a1} {s : State} (h : (Instr.mark a0 a1).wf = true) (ht : s.stage ≠ .tripped) :
    exec (.mark a0 a1) s = .next (effMark a0 a1 s) := act_next _ h ht
theorem next_rewind {a0 a1} {s : State} (h : (Instr.rewind a0 a1).wf = true) (ht : s.stage ≠ .tripped) :
    exec (.rewind a0 a1) s = .next (effRewind a0 a1 s) := act_next _ h ht
theorem next_release {a0 a1} {s : State} (h : (Instr.release a0 a1).wf = true) (ht : s.stage ≠ .tripped) :
    exec (.release a0 a1) s = .next (effRelease a0 a1 s) := act_next _ h ht
theorem next_releaseH {a0 a1 a2} {s : State} (h : (Instr.releaseH a0 a1 a2).wf = true) (ht : s.stage ≠ .tripped) :
    exec (.releaseH a0 a1 a2) s = .next (effReleaseH a0 a1 a2 s) := act_next _ h ht
theorem next_waitLimitExpiry {a0} {s : State} (h : (Instr.waitLimitExpiry a0).wf = true) (ht : s.stage ≠ .tripped) :
    exec (.waitLimitExpiry a0) s = .next (effWaitLimitExpiry a0 s) := act_next _ h ht
theorem next_cellsFreed {a0} {s : State} (h : (Instr.cellsFreed a0).wf = true) (ht : s.stage ≠ .tripped) :
    exec (.cellsFreed a0) s = .next (effCellsFreed a0 s) := act_next _ h ht
theorem next_abort {a0 a1} {s : State} (h : (Instr.abort a0 a1).wf = true) (ht : s.stage ≠ .tripped) :
    exec (.abort a0 a1) s = .next (effAbort a0 a1 s) := act_next _ h ht
theorem next_clear {a0 a1} {s : State} (h : (Instr.clear a0 a1).wf = true) (ht : s.stage ≠ .tripped) :
    exec (.clear a0 a1) s = .next (effClear a0 a1 s) := act_next _ h ht
theorem next_queueEnable {a0 a1 a2} {s : State} (h : (Instr.queueEnable a0 a1 a2).wf = true) (ht : s.stage ≠ .tripped) :
    exec (.queueEnable a0 a1 a2) s = .next (effQueueEnable a0 a1 a2 s) := act_next _ h ht
theorem next_dataWindowAccess {a0 a1 a2 a3} {s : State} (h : (Instr.dataWindowAccess a0 a1 a2 a3).wf = true) (ht : s.stage ≠ .tripped) :
    exec (.dataWindowAccess a0 a1 a2 a3) s = .next (effDataWindowAccess a0 a1 a2 a3 s) := act_next _ h ht
theorem next_sourceLost {s : State} (h : (Instr.sourceLost).wf = true) (ht : s.stage ≠ .tripped) :
    exec (.sourceLost) s = .next (effSourceLost s) := act_next _ h ht
theorem next_relock {s : State} (h : (Instr.relock).wf = true) (ht : s.stage ≠ .tripped) :
    exec (.relock) s = .next (effRelock s) := act_next _ h ht
theorem next_stepGo {a0} {s : State} (h : (Instr.stepGo a0).wf = true) (ht : s.stage ≠ .tripped) :
    exec (.stepGo a0) s = .next (effStepGo a0 s) := act_next _ h ht
theorem next_rateWrite {a0 a1} {s : State} (h : (Instr.rateWrite a0 a1).wf = true) (ht : s.stage ≠ .tripped) :
    exec (.rateWrite a0 a1) s = .next (effRateWrite a0 a1 s) := act_next _ h ht
theorem next_adjWrite {a0 a1} {s : State} (h : (Instr.adjWrite a0 a1).wf = true) (ht : s.stage ≠ .tripped) :
    exec (.adjWrite a0 a1) s = .next (effAdjWrite a0 a1 s) := act_next _ h ht
theorem next_tdr {a0} {s : State} (h : (Instr.tdr a0).wf = true) (ht : s.stage ≠ .tripped) :
    exec (.tdr a0) s = .next (effTdr a0 s) := act_next _ h ht
theorem next_nowNsfRead {a0} {s : State} (h : (Instr.nowNsfRead a0).wf = true) (ht : s.stage ≠ .tripped) :
    exec (.nowNsfRead a0) s = .next (effNowNsfRead a0 s) := act_next _ h ht
theorem next_tsqPop {a0} {s : State} (h : (Instr.tsqPop a0).wf = true) (ht : s.stage ≠ .tripped) :
    exec (.tsqPop a0) s = .next (effTsqPop a0 s) := act_next _ h ht
theorem next_ppsInEdge {s : State} (h : (Instr.ppsInEdge).wf = true) (ht : s.stage ≠ .tripped) :
    exec (.ppsInEdge) s = .next (effPpsInEdge s) := act_next _ h ht
theorem next_ppsOutPulse {s : State} (h : (Instr.ppsOutPulse).wf = true) (ht : s.stage ≠ .tripped) :
    exec (.ppsOutPulse) s = .next (effPpsOutPulse s) := act_next _ h ht
theorem next_arm {a0 a1} {s : State} (h : (Instr.arm a0 a1).wf = true) (ht : s.stage ≠ .tripped) :
    exec (.arm a0 a1) s = .next (effArm a0 a1 s) := act_next _ h ht
theorem next_disarm {a0 a1} {s : State} (h : (Instr.disarm a0 a1).wf = true) (ht : s.stage ≠ .tripped) :
    exec (.disarm a0 a1) s = .next (effDisarm a0 a1 s) := act_next _ h ht
theorem next_triggerConversion {a0} {s : State} (h : (Instr.triggerConversion a0).wf = true) (ht : s.stage ≠ .tripped) :
    exec (.triggerConversion a0) s = .next (effTriggerConversion a0 s) := act_next _ h ht
theorem next_triggerFire {a0} {s : State} (h : (Instr.triggerFire a0).wf = true) (ht : s.stage ≠ .tripped) :
    exec (.triggerFire a0) s = .next (effTriggerFire a0 s) := act_next _ h ht
theorem next_rowBoundary {s : State} (h : (Instr.rowBoundary).wf = true) (ht : s.stage ≠ .tripped) :
    exec (.rowBoundary) s = .next (effRowBoundary s) := act_next _ h ht
theorem next_grantDispatch {a0} {s : State} (h : (Instr.grantDispatch a0).wf = true) (ht : s.stage ≠ .tripped) :
    exec (.grantDispatch a0) s = .next (effGrantDispatch a0 s) := act_next _ h ht
theorem next_lentJobStart {a0} {s : State} (h : (Instr.lentJobStart a0).wf = true) (ht : s.stage ≠ .tripped) :
    exec (.lentJobStart a0) s = .next (effLentJobStart a0 s) := act_next _ h ht
theorem next_grantOverrun {a0} {s : State} (h : (Instr.grantOverrun a0).wf = true) (ht : s.stage ≠ .tripped) :
    exec (.grantOverrun a0) s = .next (effGrantOverrun a0 s) := act_next _ h ht
theorem next_platStopped {s : State} (h : (Instr.platStopped).wf = true) (ht : s.stage ≠ .tripped) :
    exec (.platStopped) s = .next (effPlatStopped s) := act_next _ h ht
theorem next_patternImageWrite {a0 a1 a2 a3} {s : State} (h : (Instr.patternImageWrite a0 a1 a2 a3).wf = true) (ht : s.stage ≠ .tripped) :
    exec (.patternImageWrite a0 a1 a2 a3) s = .next (effPatternImageWrite a0 a1 a2 a3 s) := act_next _ h ht
theorem next_patternCommit {a0 a1} {s : State} (h : (Instr.patternCommit a0 a1).wf = true) (ht : s.stage ≠ .tripped) :
    exec (.patternCommit a0 a1) s = .next (effPatternCommit a0 a1 s) := act_next _ h ht
theorem next_commitValidation {s : State} (h : (Instr.commitValidation).wf = true) (ht : s.stage ≠ .tripped) :
    exec (.commitValidation) s = .next (effCommitValidation s) := act_next _ h ht
theorem next_uncommit {a0 a1} {s : State} (h : (Instr.uncommit a0 a1).wf = true) (ht : s.stage ≠ .tripped) :
    exec (.uncommit a0 a1) s = .next (effUncommit a0 a1 s) := act_next _ h ht
theorem next_stop {a0} {s : State} (h : (Instr.stop a0).wf = true) (ht : s.stage ≠ .tripped) :
    exec (.stop a0) s = .next (effStop a0 s) := act_next _ h ht
theorem next_trimArm {a0 a1} {s : State} (h : (Instr.trimArm a0 a1).wf = true) (ht : s.stage ≠ .tripped) :
    exec (.trimArm a0 a1) s = .next (effTrimArm a0 a1 s) := act_next _ h ht
theorem next_stakeQuery {a0 a1} {s : State} (h : (Instr.stakeQuery a0 a1).wf = true) (ht : s.stage ≠ .tripped) :
    exec (.stakeQuery a0 a1) s = .next (effStakeQuery a0 a1 s) := act_next _ h ht
theorem next_headroomPublish {s : State} (h : (Instr.headroomPublish).wf = true) (ht : s.stage ≠ .tripped) :
    exec (.headroomPublish) s = .next (effHeadroomPublish s) := act_next _ h ht
theorem next_governorDecision {a0 a1} {s : State} (h : (Instr.governorDecision a0 a1).wf = true) (ht : s.stage ≠ .tripped) :
    exec (.governorDecision a0 a1) s = .next (effGovernorDecision a0 a1 s) := act_next _ h ht
theorem next_plSetWrite {a0 a1} {s : State} (h : (Instr.plSetWrite a0 a1).wf = true) (ht : s.stage ≠ .tripped) :
    exec (.plSetWrite a0 a1) s = .next (effPlSetWrite a0 a1 s) := act_next _ h ht
theorem next_pwrbrk {s : State} (h : (Instr.pwrbrk).wf = true) (ht : s.stage ≠ .tripped) :
    exec (.pwrbrk) s = .next (effPwrbrk s) := act_next _ h ht
theorem next_tCrit {a0} {s : State} (h : (Instr.tCrit a0).wf = true) (ht : s.stage ≠ .tripped) :
    exec (.tCrit a0) s = .next (effTCrit a0 s) := act_next _ h ht
theorem next_thermtrip {a0} {s : State} (h : (Instr.thermtrip a0).wf = true) (ht : s.stage ≠ .tripped) :
    exec (.thermtrip a0) s = .next (effThermtrip a0 s) := act_next _ h ht
theorem next_tenNop {a0 a1} {s : State} (h : (Instr.tenNop a0 a1).wf = true) (ht : s.stage ≠ .tripped) :
    exec (.tenNop a0 a1) s = .next (effTenNop a0 a1 s) := act_next _ h ht
theorem next_tenSeti {a0 a1} {s : State} (h : (Instr.tenSeti a0 a1).wf = true) (ht : s.stage ≠ .tripped) :
    exec (.tenSeti a0 a1) s = .next (effTenSeti a0 a1 s) := act_next _ h ht
theorem next_seth {a0 a1} {s : State} (h : (Instr.seth a0 a1).wf = true) (ht : s.stage ≠ .tripped) :
    exec (.seth a0 a1) s = .next (effSeth a0 a1 s) := act_next _ h ht
theorem next_tenAddi {a0 a1} {s : State} (h : (Instr.tenAddi a0 a1).wf = true) (ht : s.stage ≠ .tripped) :
    exec (.tenAddi a0 a1) s = .next (effTenAddi a0 a1 s) := act_next _ h ht
theorem next_alu {a0 a1} {s : State} (h : (Instr.alu a0 a1).wf = true) (ht : s.stage ≠ .tripped) :
    exec (.alu a0 a1) s = .next (effAlu a0 a1 s) := act_next _ h ht
theorem next_rdt {a0 a1} {s : State} (h : (Instr.rdt a0 a1).wf = true) (ht : s.stage ≠ .tripped) :
    exec (.rdt a0 a1) s = .next (effRdt a0 a1 s) := act_next _ h ht
theorem next_br {a0 a1} {s : State} (h : (Instr.br a0 a1).wf = true) (ht : s.stage ≠ .tripped) :
    exec (.br a0 a1) s = .next (effBr a0 a1 s) := act_next _ h ht
theorem next_brz {a0 a1} {s : State} (h : (Instr.brz a0 a1).wf = true) (ht : s.stage ≠ .tripped) :
    exec (.brz a0 a1) s = .next (effBrz a0 a1 s) := act_next _ h ht
theorem next_brnz {a0 a1} {s : State} (h : (Instr.brnz a0 a1).wf = true) (ht : s.stage ≠ .tripped) :
    exec (.brnz a0 a1) s = .next (effBrnz a0 a1 s) := act_next _ h ht
theorem next_rep {a0 a1} {s : State} (h : (Instr.rep a0 a1).wf = true) (ht : s.stage ≠ .tripped) :
    exec (.rep a0 a1) s = .next (effRep a0 a1 s) := act_next _ h ht
theorem next_sqh {a0 a1} {s : State} (h : (Instr.sqh a0 a1).wf = true) (ht : s.stage ≠ .tripped) :
    exec (.sqh a0 a1) s = .next (effSqh a0 a1 s) := act_next _ h ht
theorem next_stc {a0 a1} {s : State} (h : (Instr.stc a0 a1).wf = true) (ht : s.stage ≠ .tripped) :
    exec (.stc a0 a1) s = .next (effStc a0 a1 s) := act_next _ h ht
theorem next_setiv {a0 a1} {s : State} (h : (Instr.setiv a0 a1).wf = true) (ht : s.stage ≠ .tripped) :
    exec (.setiv a0 a1) s = .next (effSetiv a0 a1 s) := act_next _ h ht
theorem next_rdi {a0 a1} {s : State} (h : (Instr.rdi a0 a1).wf = true) (ht : s.stage ≠ .tripped) :
    exec (.rdi a0 a1) s = .next (effRdi a0 a1 s) := act_next _ h ht
theorem next_rti {a0 a1} {s : State} (h : (Instr.rti a0 a1).wf = true) (ht : s.stage ≠ .tripped) :
    exec (.rti a0 a1) s = .next (effRti a0 a1 s) := act_next _ h ht
theorem next_prd {a0 a1} {s : State} (h : (Instr.prd a0 a1).wf = true) (ht : s.stage ≠ .tripped) :
    exec (.prd a0 a1) s = .next (condemnDue (effPrd a0 a1 s)) := act_next _ h ht
theorem next_pwr {a0 a1} {s : State} (h : (Instr.pwr a0 a1).wf = true) (ht : s.stage ≠ .tripped) :
    exec (.pwr a0 a1) s = .next (condemnDue (effPwr a0 a1 s)) := act_next _ h ht
theorem next_tenEnd {a0 a1} {s : State} (h : (Instr.tenEnd a0 a1).wf = true) (ht : s.stage ≠ .tripped) :
    exec (.tenEnd a0 a1) s = .next (effTenEnd a0 a1 s) := act_next _ h ht
theorem next_sld {a0 a1} {s : State} (h : (Instr.sld a0 a1).wf = true) (ht : s.stage ≠ .tripped) :
    exec (.sld a0 a1) s = .next (condemnDue (effSld a0 a1 s)) := act_next _ h ht
theorem next_sst {a0 a1} {s : State} (h : (Instr.sst a0 a1).wf = true) (ht : s.stage ≠ .tripped) :
    exec (.sst a0 a1) s = .next (condemnDue (effSst a0 a1 s)) := act_next _ h ht
theorem next_vld {a0 a1} {s : State} (h : (Instr.vld a0 a1).wf = true) (ht : s.stage ≠ .tripped) :
    exec (.vld a0 a1) s = .next (condemnDue (effVld a0 a1 s)) := act_next _ h ht
theorem next_vst {a0 a1} {s : State} (h : (Instr.vst a0 a1).wf = true) (ht : s.stage ≠ .tripped) :
    exec (.vst a0 a1) s = .next (effVst a0 a1 s) := act_next _ h ht
theorem next_vmv {a0 a1} {s : State} (h : (Instr.vmv a0 a1).wf = true) (ht : s.stage ≠ .tripped) :
    exec (.vmv a0 a1) s = .next (effVmv a0 a1 s) := act_next _ h ht
theorem next_vpk {a0 a1} {s : State} (h : (Instr.vpk a0 a1).wf = true) (ht : s.stage ≠ .tripped) :
    exec (.vpk a0 a1) s = .next (effVpk a0 a1 s) := act_next _ h ht
theorem next_vmac {a0 a1} {s : State} (h : (Instr.vmac a0 a1).wf = true) (ht : s.stage ≠ .tripped) :
    exec (.vmac a0 a1) s = .next (effVmac a0 a1 s) := act_next _ h ht
theorem next_vmacb {a0 a1} {s : State} (h : (Instr.vmacb a0 a1).wf = true) (ht : s.stage ≠ .tripped) :
    exec (.vmacb a0 a1) s = .next (effVmacb a0 a1 s) := act_next _ h ht
theorem next_vada {a0 a1} {s : State} (h : (Instr.vada a0 a1).wf = true) (ht : s.stage ≠ .tripped) :
    exec (.vada a0 a1) s = .next (effVada a0 a1 s) := act_next _ h ht
theorem next_warn {a0} {s : State} (h : (Instr.warn a0).wf = true) (ht : s.stage ≠ .tripped) :
    exec (.warn a0) s = .next (effWarn a0 s) := act_next _ h ht
theorem next_tick {a0} {s : State} (h : (Instr.tick a0).wf = true) (ht : s.stage ≠ .tripped) :
    exec (.tick a0) s = .next (effTick a0 s) := act_next _ h ht
theorem next_interruptEntry {a0} {s : State} (h : (Instr.interruptEntry a0).wf = true) (ht : s.stage ≠ .tripped) :
    exec (.interruptEntry a0) s = .next (effInterruptEntry a0 s) := act_next _ h ht
theorem next_engineZeroingDone {a0} {s : State} (h : (Instr.engineZeroingDone a0).wf = true) (ht : s.stage ≠ .tripped) :
    exec (.engineZeroingDone a0) s = .next (effEngineZeroingDone a0 s) := act_next _ h ht
theorem next_programWindowWrite {a0 a1 a2 a3} {s : State} (h : (Instr.programWindowWrite a0 a1 a2 a3).wf = true) (ht : s.stage ≠ .tripped) :
    exec (.programWindowWrite a0 a1 a2 a3) s = .next (effProgramWindowWrite a0 a1 a2 a3 s) := act_next _ h ht
theorem next_codingJobStart {a0} {s : State} (h : (Instr.codingJobStart a0).wf = true) (ht : s.stage ≠ .tripped) :
    exec (.codingJobStart a0) s = .next (effCodingJobStart a0 s) := act_next _ h ht
theorem next_ldpcDecode {a0} {s : State} (h : (Instr.ldpcDecode a0).wf = true) (ht : s.stage ≠ .tripped) :
    exec (.ldpcDecode a0) s = .next (condemnDue (effLdpcDecode a0 s)) := act_next _ h ht
theorem next_ldpcEncode {a0} {s : State} (h : (Instr.ldpcEncode a0).wf = true) (ht : s.stage ≠ .tripped) :
    exec (.ldpcEncode a0) s = .next (condemnDue (effLdpcEncode a0 s)) := act_next _ h ht
theorem next_polarDecode {a0} {s : State} (h : (Instr.polarDecode a0).wf = true) (ht : s.stage ≠ .tripped) :
    exec (.polarDecode a0) s = .next (condemnDue (effPolarDecode a0 s)) := act_next _ h ht
theorem next_polarEncode {a0} {s : State} (h : (Instr.polarEncode a0).wf = true) (ht : s.stage ≠ .tripped) :
    exec (.polarEncode a0) s = .next (condemnDue (effPolarEncode a0 s)) := act_next _ h ht
theorem next_fixedLinkTransmit {a0} {s : State} (h : (Instr.fixedLinkTransmit a0).wf = true) (ht : s.stage ≠ .tripped) :
    exec (.fixedLinkTransmit a0) s = .next (condemnDue (effFixedLinkTransmit a0 s)) := act_next _ h ht
theorem next_fixedLinkReceive {a0} {s : State} (h : (Instr.fixedLinkReceive a0).wf = true) (ht : s.stage ≠ .tripped) :
    exec (.fixedLinkReceive a0) s = .next (condemnDue (effFixedLinkReceive a0 s)) := act_next _ h ht
theorem next_codingJobDone {a0} {s : State} (h : (Instr.codingJobDone a0).wf = true) (ht : s.stage ≠ .tripped) :
    exec (.codingJobDone a0) s = .next (effCodingJobDone a0 s) := act_next _ h ht
theorem next_fbRead {a0} {s : State} (h : (Instr.fbRead a0).wf = true) (ht : s.stage ≠ .tripped) :
    exec (.fbRead a0) s = .next (condemnDue (effFbRead a0 s)) := act_next _ h ht
theorem next_fbWrite {a0} {s : State} (h : (Instr.fbWrite a0).wf = true) (ht : s.stage ≠ .tripped) :
    exec (.fbWrite a0) s = .next (condemnDue (effFbWrite a0 s)) := act_next _ h ht
theorem next_harqReset {a0} {s : State} (h : (Instr.harqReset a0).wf = true) (ht : s.stage ≠ .tripped) :
    exec (.harqReset a0) s = .next (condemnDue (effHarqReset a0 s)) := act_next _ h ht
theorem next_frameReceive {a0 a1} {s : State} (h : (Instr.frameReceive a0 a1).wf = true) (ht : s.stage ≠ .tripped) :
    exec (.frameReceive a0 a1) s = .next (effFrameReceive a0 a1 s) := act_next _ h ht
theorem next_portSelection {a0} {s : State} (h : (Instr.portSelection a0).wf = true) (ht : s.stage ≠ .tripped) :
    exec (.portSelection a0) s = .next (effPortSelection a0 s) := act_next _ h ht
theorem next_tokenRefill {s : State} (h : (Instr.tokenRefill).wf = true) (ht : s.stage ≠ .tripped) :
    exec (.tokenRefill) s = .next (effTokenRefill s) := act_next _ h ht
theorem next_lateDrop {a0} {s : State} (h : (Instr.lateDrop a0).wf = true) (ht : s.stage ≠ .tripped) :
    exec (.lateDrop a0) s = .next (effLateDrop a0 s) := act_next _ h ht
theorem next_windowClose {a0} {s : State} (h : (Instr.windowClose a0).wf = true) (ht : s.stage ≠ .tripped) :
    exec (.windowClose a0) s = .next (effWindowClose a0 s) := act_next _ h ht
theorem next_ruTimeout {a0 a1} {s : State} (h : (Instr.ruTimeout a0 a1).wf = true) (ht : s.stage ≠ .tripped) :
    exec (.ruTimeout a0 a1) s = .next (effRuTimeout a0 a1 s) := act_next _ h ht
theorem next_linkDown {a0} {s : State} (h : (Instr.linkDown a0).wf = true) (ht : s.stage ≠ .tripped) :
    exec (.linkDown a0) s = .next (effLinkDown a0 s) := act_next _ h ht
theorem next_linkUp {a0} {s : State} (h : (Instr.linkUp a0).wf = true) (ht : s.stage ≠ .tripped) :
    exec (.linkUp a0) s = .next (effLinkUp a0 s) := act_next _ h ht
theorem next_discEventRetry {a0} {s : State} (h : (Instr.discEventRetry a0).wf = true) (ht : s.stage ≠ .tripped) :
    exec (.discEventRetry a0) s = .next (effDiscEventRetry a0 s) := act_next _ h ht
theorem next_discEntryClear {a0 a1 a2} {s : State} (h : (Instr.discEntryClear a0 a1 a2).wf = true) (ht : s.stage ≠ .tripped) :
    exec (.discEntryClear a0 a1 a2) s = .next (effDiscEntryClear a0 a1 a2 s) := act_next _ h ht
theorem next_depthSample {s : State} (h : (Instr.depthSample).wf = true) (ht : s.stage ≠ .tripped) :
    exec (.depthSample) s = .next (effDepthSample s) := act_next _ h ht
theorem next_grant {a0 a1 a2 a3} {s : State} (h : (Instr.grant a0 a1 a2 a3).wf = true) (ht : s.stage ≠ .tripped) :
    exec (.grant a0 a1 a2 a3) s = .next (effGrant a0 a1 a2 a3 s) := act_next _ h ht
theorem next_renew {a0 a1} {s : State} (h : (Instr.renew a0 a1).wf = true) (ht : s.stage ≠ .tripped) :
    exec (.renew a0 a1) s = .next (effRenew a0 a1 s) := act_next _ h ht
theorem next_jobBind {a0 a1 a2 a3} {s : State} (h : (Instr.jobBind a0 a1 a2 a3).wf = true) (ht : s.stage ≠ .tripped) :
    exec (.jobBind a0 a1 a2 a3) s = .next (effJobBind a0 a1 a2 a3 s) := act_next _ h ht
theorem next_peerUp {a0 a1 a2} {s : State} (h : (Instr.peerUp a0 a1 a2).wf = true) (ht : s.stage ≠ .tripped) :
    exec (.peerUp a0 a1 a2) s = .next (effPeerUp a0 a1 a2 s) := act_next _ h ht
theorem next_peerDown {a0 a1} {s : State} (h : (Instr.peerDown a0 a1).wf = true) (ht : s.stage ≠ .tripped) :
    exec (.peerDown a0 a1) s = .next (effPeerDown a0 a1 s) := act_next _ h ht
theorem next_tearDown {a0 a1 a2} {s : State} (h : (Instr.tearDown a0 a1 a2).wf = true) (ht : s.stage ≠ .tripped) :
    exec (.tearDown a0 a1 a2) s = .next (effTearDown a0 a1 a2 s) := act_next _ h ht
theorem next_leaseFence {s : State} (h : (Instr.leaseFence).wf = true) (ht : s.stage ≠ .tripped) :
    exec (.leaseFence) s = .next (effLeaseFence s) := act_next _ h ht
theorem next_peerEventRetry {s : State} (h : (Instr.peerEventRetry).wf = true) (ht : s.stage ≠ .tripped) :
    exec (.peerEventRetry) s = .next (effPeerEventRetry s) := act_next _ h ht
theorem next_load {a0} {s : State} (h : (Instr.load a0).wf = true) (ht : s.stage ≠ .tripped) :
    exec (.load a0) s = .next (condemnDue (effLoad a0 s)) := act_next _ h ht
theorem next_store {a0} {s : State} (h : (Instr.store a0).wf = true) (ht : s.stage ≠ .tripped) :
    exec (.store a0) s = .next (condemnDue (effStore a0 s)) := act_next _ h ht
theorem next_flag {a0} {s : State} (h : (Instr.flag a0).wf = true) (ht : s.stage ≠ .tripped) :
    exec (.flag a0) s = .next (condemnDue (effFlag a0 s)) := act_next _ h ht
theorem next_atomic {a0} {s : State} (h : (Instr.atomic a0).wf = true) (ht : s.stage ≠ .tripped) :
    exec (.atomic a0) s = .next (condemnDue (effAtomic a0 s)) := act_next _ h ht
theorem next_merge {a0} {s : State} (h : (Instr.merge a0).wf = true) (ht : s.stage ≠ .tripped) :
    exec (.merge a0) s = .next (condemnDue (effMerge a0 s)) := act_next _ h ht
theorem next_put {a0} {s : State} (h : (Instr.put a0).wf = true) (ht : s.stage ≠ .tripped) :
    exec (.put a0) s = .next (condemnDue (effPut a0 s)) := act_next _ h ht
theorem next_get {a0} {s : State} (h : (Instr.get a0).wf = true) (ht : s.stage ≠ .tripped) :
    exec (.get a0) s = .next (condemnDue (effGet a0 s)) := act_next _ h ht
theorem next_barrier {a0} {s : State} (h : (Instr.barrier a0).wf = true) (ht : s.stage ≠ .tripped) :
    exec (.barrier a0) s = .next (condemnDue (effBarrier a0 s)) := act_next _ h ht
theorem next_inboundRequest {a0 a1 a2 a3} {s : State} (h : (Instr.inboundRequest a0 a1 a2 a3).wf = true) (ht : s.stage ≠ .tripped) :
    exec (.inboundRequest a0 a1 a2 a3) s = .next (condemnDue (effInboundRequest a0 a1 a2 a3 s)) := act_next _ h ht
theorem next_inboundAtomic {a0 a1 a2 a3} {s : State} (h : (Instr.inboundAtomic a0 a1 a2 a3).wf = true) (ht : s.stage ≠ .tripped) :
    exec (.inboundAtomic a0 a1 a2 a3) s = .next (condemnDue (effInboundAtomic a0 a1 a2 a3 s)) := act_next _ h ht
theorem next_replyArrival {a0 a1 a2} {s : State} (h : (Instr.replyArrival a0 a1 a2).wf = true) (ht : s.stage ≠ .tripped) :
    exec (.replyArrival a0 a1 a2) s = .next (condemnDue (effReplyArrival a0 a1 a2 s)) := act_next _ h ht
theorem next_retryTimeout {a0} {s : State} (h : (Instr.retryTimeout a0).wf = true) (ht : s.stage ≠ .tripped) :
    exec (.retryTimeout a0) s = .next (condemnDue (effRetryTimeout a0 s)) := act_next _ h ht
theorem next_replayEntryExpiry {a0 a1 a2} {s : State} (h : (Instr.replayEntryExpiry a0 a1 a2).wf = true) (ht : s.stage ≠ .tripped) :
    exec (.replayEntryExpiry a0 a1 a2) s = .next (effReplayEntryExpiry a0 a1 a2 s) := act_next _ h ht
theorem next_witnessPacket {a0 a1 a2} {s : State} (h : (Instr.witnessPacket a0 a1 a2).wf = true) (ht : s.stage ≠ .tripped) :
    exec (.witnessPacket a0 a1 a2) s = .next (effWitnessPacket a0 a1 a2 s) := act_next _ h ht
theorem next_witnessClose {a0 a1 a2} {s : State} (h : (Instr.witnessClose a0 a1 a2).wf = true) (ht : s.stage ≠ .tripped) :
    exec (.witnessClose a0 a1 a2) s = .next (effWitnessClose a0 a1 a2 s) := act_next _ h ht
theorem next_counterWrite {a0 a1 a2 a3} {s : State} (h : (Instr.counterWrite a0 a1 a2 a3).wf = true) (ht : s.stage ≠ .tripped) :
    exec (.counterWrite a0 a1 a2 a3) s = .next (effCounterWrite a0 a1 a2 a3 s) := act_next _ h ht
theorem next_watchRetry {a0 a1} {s : State} (h : (Instr.watchRetry a0 a1).wf = true) (ht : s.stage ≠ .tripped) :
    exec (.watchRetry a0 a1) s = .next (effWatchRetry a0 a1 s) := act_next _ h ht
theorem next_barrierArrive {a0 a1 a2} {s : State} (h : (Instr.barrierArrive a0 a1 a2).wf = true) (ht : s.stage ≠ .tripped) :
    exec (.barrierArrive a0 a1 a2) s = .next (effBarrierArrive a0 a1 a2 s) := act_next _ h ht
theorem next_barrierReleaseReceive {a0 a1 a2} {s : State} (h : (Instr.barrierReleaseReceive a0 a1 a2).wf = true) (ht : s.stage ≠ .tripped) :
    exec (.barrierReleaseReceive a0 a1 a2) s = .next (effBarrierReleaseReceive a0 a1 a2 s) := act_next _ h ht
theorem next_barrierRelease {a0} {s : State} (h : (Instr.barrierRelease a0).wf = true) (ht : s.stage ≠ .tripped) :
    exec (.barrierRelease a0) s = .next (effBarrierRelease a0 s) := act_next _ h ht
theorem next_barrierTimeout {a0} {s : State} (h : (Instr.barrierTimeout a0).wf = true) (ht : s.stage ≠ .tripped) :
    exec (.barrierTimeout a0) s = .next (effBarrierTimeout a0 s) := act_next _ h ht
theorem next_barrierEpochDiscard {a0 a1} {s : State} (h : (Instr.barrierEpochDiscard a0 a1).wf = true) (ht : s.stage ≠ .tripped) :
    exec (.barrierEpochDiscard a0 a1) s = .next (effBarrierEpochDiscard a0 a1 s) := act_next _ h ht
theorem next_create {a0 a1 a2} {s : State} (h : (Instr.create a0 a1 a2).wf = true) (ht : s.stage ≠ .tripped) :
    exec (.create a0 a1 a2) s = .next (effCreate a0 a1 a2 s) := act_next _ h ht
theorem next_destroy {a0 a1} {s : State} (h : (Instr.destroy a0 a1).wf = true) (ht : s.stage ≠ .tripped) :
    exec (.destroy a0 a1) s = .next (effDestroy a0 a1 s) := act_next _ h ht
theorem next_partitionFreed {a0} {s : State} (h : (Instr.partitionFreed a0).wf = true) (ht : s.stage ≠ .tripped) :
    exec (.partitionFreed a0) s = .next (effPartitionFreed a0 s) := act_next _ h ht
theorem next_abortPending {a0 a1} {s : State} (h : (Instr.abortPending a0 a1).wf = true) (ht : s.stage ≠ .tripped) :
    exec (.abortPending a0 a1) s = .next (effAbortPending a0 a1 s) := act_next _ h ht
theorem next_sqDoorbell {a0 a1 a2 a3} {s : State} (h : (Instr.sqDoorbell a0 a1 a2 a3).wf = true) (ht : s.stage ≠ .tripped) :
    exec (.sqDoorbell a0 a1 a2 a3) s = .next (effSqDoorbell a0 a1 a2 a3 s) := act_next _ h ht
theorem next_cqHeadWrite {a0 a1 a2 a3} {s : State} (h : (Instr.cqHeadWrite a0 a1 a2 a3).wf = true) (ht : s.stage ≠ .tripped) :
    exec (.cqHeadWrite a0 a1 a2 a3) s = .next (effCqHeadWrite a0 a1 a2 a3 s) := act_next _ h ht
theorem next_sqFetch {a0 a1 a2} {s : State} (h : (Instr.sqFetch a0 a1 a2).wf = true) (ht : s.stage ≠ .tripped) :
    exec (.sqFetch a0 a1 a2) s = .next (effSqFetch a0 a1 a2 s) := act_next _ h ht
theorem next_parcel {a0 a1 a2} {s : State} (h : (Instr.parcel a0 a1 a2).wf = true) (ht : s.stage ≠ .tripped) :
    exec (.parcel a0 a1 a2) s = .next (effParcel a0 a1 a2 s) := act_next _ h ht
theorem next_sqNop {a0 a1} {s : State} (h : (Instr.sqNop a0 a1).wf = true) (ht : s.stage ≠ .tripped) :
    exec (.sqNop a0 a1) s = .next (effSqNop a0 a1 s) := act_next _ h ht
theorem next_confirmReadDone {a0 a1} {s : State} (h : (Instr.confirmReadDone a0 a1).wf = true) (ht : s.stage ≠ .tripped) :
    exec (.confirmReadDone a0 a1) s = .next (effConfirmReadDone a0 a1 s) := act_next _ h ht
theorem next_cqEntryWrite {a0 a1} {s : State} (h : (Instr.cqEntryWrite a0 a1).wf = true) (ht : s.stage ≠ .tripped) :
    exec (.cqEntryWrite a0 a1) s = .next (effCqEntryWrite a0 a1 s) := act_next _ h ht
theorem next_recoveryEnd {a0} {s : State} (h : (Instr.recoveryEnd a0).wf = true) (ht : s.stage ≠ .tripped) :
    exec (.recoveryEnd a0) s = .next (condemnDue (effRecoveryEnd a0 s)) := act_next _ h ht
theorem next_functionLevelReset {a0} {s : State} (h : (Instr.functionLevelReset a0).wf = true) (ht : s.stage ≠ .tripped) :
    exec (.functionLevelReset a0) s = .next (effFunctionLevelReset a0 s) := act_next _ h ht
theorem next_busMasterEnable {a0 a1} {s : State} (h : (Instr.busMasterEnable a0 a1).wf = true) (ht : s.stage ≠ .tripped) :
    exec (.busMasterEnable a0 a1) s = .next (effBusMasterEnable a0 a1 s) := act_next _ h ht
theorem next_cplTimeout {a0} {s : State} (h : (Instr.cplTimeout a0).wf = true) (ht : s.stage ≠ .tripped) :
    exec (.cplTimeout a0) s = .next (effCplTimeout a0 s) := act_next _ h ht
theorem next_healthWindowClose {s : State} (h : (Instr.healthWindowClose).wf = true) (ht : s.stage ≠ .tripped) :
    exec (.healthWindowClose) s = .next (effHealthWindowClose s) := act_next _ h ht
theorem next_drain {a0} {s : State} (h : (Instr.drain a0).wf = true) (ht : s.stage ≠ .tripped) :
    exec (.drain a0) s = .next (effDrain a0 s) := act_next _ h ht
theorem next_drainComplete {s : State} (h : (Instr.drainComplete).wf = true) (ht : s.stage ≠ .tripped) :
    exec (.drainComplete) s = .next (effDrainComplete s) := act_next _ h ht
theorem next_undrain {a0} {s : State} (h : (Instr.undrain a0).wf = true) (ht : s.stage ≠ .tripped) :
    exec (.undrain a0) s = .next (effUndrain a0 s) := act_next _ h ht
theorem next_expel {a0} {s : State} (h : (Instr.expel a0).wf = true) (ht : s.stage ≠ .tripped) :
    exec (.expel a0) s = .next (effExpel a0 s) := act_next _ h ht
theorem next_injReq {a0 a1 a2} {s : State} (h : (Instr.injReq a0 a1 a2).wf = true) (ht : s.stage ≠ .tripped) :
    exec (.injReq a0 a1 a2) s = .next (effInjReq a0 a1 a2 s) := act_next _ h ht
theorem next_injConsentExpiry {s : State} (h : (Instr.injConsentExpiry).wf = true) (ht : s.stage ≠ .tripped) :
    exec (.injConsentExpiry) s = .next (effInjConsentExpiry s) := act_next _ h ht
theorem next_injectCorrectable {a0 a1} {s : State} (h : (Instr.injectCorrectable a0 a1).wf = true) (ht : s.stage ≠ .tripped) :
    exec (.injectCorrectable a0 a1) s = .next (effInjectCorrectable a0 a1 s) := act_next _ h ht
theorem next_injectUncorrectable {a0 a1} {s : State} (h : (Instr.injectUncorrectable a0 a1).wf = true) (ht : s.stage ≠ .tripped) :
    exec (.injectUncorrectable a0 a1) s = .next (effInjectUncorrectable a0 a1 s) := act_next _ h ht
theorem next_injectCondemn {a0 a1} {s : State} (h : (Instr.injectCondemn a0 a1).wf = true) (ht : s.stage ≠ .tripped) :
    exec (.injectCondemn a0 a1) s = .next (effInjectCondemn a0 a1 s) := act_next _ h ht
theorem next_injectLockLoss {a0 a1} {s : State} (h : (Instr.injectLockLoss a0 a1).wf = true) (ht : s.stage ≠ .tripped) :
    exec (.injectLockLoss a0 a1) s = .next (effInjectLockLoss a0 a1 s) := act_next _ h ht
theorem next_monumentWatchdog {s : State} (h : (Instr.monumentWatchdog).wf = true) (ht : s.stage ≠ .tripped) :
    exec (.monumentWatchdog) s = .next (effMonumentWatchdog s) := act_next _ h ht
theorem next_attestGo {a0 a1} {s : State} (h : (Instr.attestGo a0 a1).wf = true) (ht : s.stage ≠ .tripped) :
    exec (.attestGo a0 a1) s = .next (effAttestGo a0 a1 s) := act_next _ h ht
theorem next_attestReport {a0} {s : State} (h : (Instr.attestReport a0).wf = true) (ht : s.stage ≠ .tripped) :
    exec (.attestReport a0) s = .next (effAttestReport a0 s) := act_next _ h ht
theorem next_anchorSet {a0 a1 a2} {s : State} (h : (Instr.anchorSet a0 a1 a2).wf = true) (ht : s.stage ≠ .tripped) :
    exec (.anchorSet a0 a1 a2) s = .next (effAnchorSet a0 a1 a2 s) := act_next _ h ht
theorem next_injPolicy {a0} {s : State} (h : (Instr.injPolicy a0).wf = true) (ht : s.stage ≠ .tripped) :
    exec (.injPolicy a0) s = .next (effInjPolicy a0 s) := act_next _ h ht
theorem next_dbgChallenge {s : State} (h : (Instr.dbgChallenge).wf = true) (ht : s.stage ≠ .tripped) :
    exec (.dbgChallenge) s = .next (effDbgChallenge s) := act_next _ h ht
theorem next_challengeExpiry {s : State} (h : (Instr.challengeExpiry).wf = true) (ht : s.stage ≠ .tripped) :
    exec (.challengeExpiry) s = .next (effChallengeExpiry s) := act_next _ h ht
theorem next_dbgUnlock {a0} {s : State} (h : (Instr.dbgUnlock a0).wf = true) (ht : s.stage ≠ .tripped) :
    exec (.dbgUnlock a0) s = .next (effDbgUnlock a0 s) := act_next _ h ht
theorem next_debugEraseComplete {s : State} (h : (Instr.debugEraseComplete).wf = true) (ht : s.stage ≠ .tripped) :
    exec (.debugEraseComplete) s = .next (effDebugEraseComplete s) := act_next _ h ht
theorem next_firmwareUpdate {a0 a1 a2} {s : State} (h : (Instr.firmwareUpdate a0 a1 a2).wf = true) (ht : s.stage ≠ .tripped) :
    exec (.firmwareUpdate a0 a1 a2) s = .next (effFirmwareUpdate a0 a1 a2 s) := act_next _ h ht
theorem next_getCertificate {a0 a1 a2} {s : State} (h : (Instr.getCertificate a0 a1 a2).wf = true) (ht : s.stage ≠ .tripped) :
    exec (.getCertificate a0 a1 a2) s = .next (effGetCertificate a0 a1 a2 s) := act_next _ h ht
theorem next_challenge {a0 a1} {s : State} (h : (Instr.challenge a0 a1).wf = true) (ht : s.stage ≠ .tripped) :
    exec (.challenge a0 a1) s = .next (effChallenge a0 a1 s) := act_next _ h ht
theorem next_getMeasurements {a0} {s : State} (h : (Instr.getMeasurements a0).wf = true) (ht : s.stage ≠ .tripped) :
    exec (.getMeasurements a0) s = .next (effGetMeasurements a0 s) := act_next _ h ht
theorem next_perstDeassert {s : State} (h : (Instr.perstDeassert).wf = true) (ht : s.stage ≠ .tripped) :
    exec (.perstDeassert) s = .next (effPerstDeassert s) := act_next _ h ht
theorem next_tCritRelease {a0} {s : State} (h : (Instr.tCritRelease a0).wf = true) (ht : s.stage ≠ .tripped) :
    exec (.tCritRelease a0) s = .next (effTCritRelease a0 s) := act_next _ h ht
theorem next_pwrbrkDeassert {s : State} (h : (Instr.pwrbrkDeassert).wf = true) (ht : s.stage ≠ .tripped) :
    exec (.pwrbrkDeassert) s = .next (effPwrbrkDeassert s) := act_next _ h ht
theorem next_setEndpointId {a0} {s : State} (h : (Instr.setEndpointId a0).wf = true) (ht : s.stage ≠ .tripped) :
    exec (.setEndpointId a0) s = .next (effSetEndpointId a0 s) := act_next _ h ht

end Sys2Proof.Machine
end

