-- ==== Sys2Proof/Tests/Slice0.lean ====
section
/-! SUPPORT. The model's own tests: the well-formedness smoke test, values of the spec's worked examples and tables, and one
theorem per statement whose hypotheses it shows satisfiable, case by case. -/

namespace Sys2Proof.Tests
open Sys2Proof.Machine
set_option Elab.async false

/-! ### States to test on -/

/-- The part once it is READY. -/
def rdy : State := { State.reset with stage := .ready }
/-- A page is active. -/
def act1 (s : State) (p : Page) : State := wr (wr s p F.QUIESCE_REQ 0) p F.QUIESCED 0
/-- The state after one step. -/
def stepOf (s : State) : State := match step s with
  | .next t => t
  | _ => s
/-- A page is active and belongs to partition `o`. -/
def own (s : State) (p : Page) (o : Nat) : State := wr (act1 s p) p F.OWNER o
/-- A class H field with the same value in the shadow and in effect. -/
def sh (s : State) (p : Page) (f : Fld) (v : Nat) : State := wrApplied (wr s p f v) p f v
/-- Partition `p` is active, with virtual function `p + 1`. -/
def part (s : State) (p : Nat) : State :=
  wr (wr (act1 s (.ptn p)) (.ptn p) F.ptn_PSTATE 1) (.ptn p) F.ptn_VF (p + 1)
/-- Queue `q` is enabled, with room, in a group of owner `o`. -/
def qOn (s : State) (q o : Nat) : State :=
  setQf (setQf (sh (own s (qPage q) o) (.ptn o) F.ptn_PQ_QUOTA 1000) q F.pq_ENABLE 1) q F.pq_CELL_LIMIT 100
/-- A committed parcel, number `pid`, on list 0 of queue `q`. -/
def mkParcel (q pid : Nat) (b : List Byte) : Parcel :=
  { q := q, prio := 0, n := b.length, len := b.length, committed := true, redelivered := false, delivered := false,
    srcPtn := 0, srcStake := 0, since := 0, data := storeBytes [] 0 b, cells := [pid], gen := 0 }
/-- A committed parcel waits in queue `q`. -/
def put (s : State) (q pid : Nat) (b : List Byte) : State :=
  let s1 := setParcel (setQueue s q ((queue s q).setList 0 { (queue s q).list 0 with items := ((queue s q).list 0).items ++ [pid] }))
    pid (mkParcel q pid b)
  { s1 with pool := { s1.pool with nextId := pid + 1 } }
/-- A job of partition 0. -/
def job0 : Job :=
  { ptn := 0, q := 0, pid := none, stake := 0, nameIdx := 0, cplEn := false, tag := 0, cplQ := 16, qh := [16], mode := 0,
    shape := 0, lent := none }
/-- Station `n`, active, runs job `j` and has instruction `w` next. -/
def runs (n : Nat) (j : Job) (w : Nat) : State :=
  setStn (own rdy (.stn n) 0) n { Station.idle with job := some j, imem := mapSet 0 [] 0 w }
/-- Change station `n`. -/
def mst (s : State) (n : Nat) (f : Station → Station) : State := setStn s n (f (stn s n))
/-- An RQO of one row. -/
def rqo0 : Rqo := { word := 0, words := [[]], row := 0, tsa := 64, gc := 0, ofmt := 7, mode := 0, skew := false, rows := 1, rqset := 0 }
/-- A tile of partition 0 in bank 0. -/
def tiled (s : State) (t : Nat) (x : Tile) : State := setTile s 0 t x
/-- A COPY descriptor of one row of 64 bytes, from tile 1 to tile 2. -/
def desc0 : Desc :=
  { op := 1, sx := false, dx := false, order := false, packed6 := false, fmt := 0, tag := 0, src := 65536, dst := 131072,
    rows := 1, rowBytes := 64, srcStride := 64, dstStride := 64, src2 := 0, dst2 := 0, reservedOk := true }
/-- A channel's configuration with one running descriptor. -/
def cfg0 : ChanCfg :=
  { faultMode := 0, timeout := 0, ctxEn := false, ctxRoot := 0, cls := 0, cplQ := 16, chunk := 0, conc := 1 }
/-- The accepted parcel of a descriptor. -/
def mit (d : Desc) (st : DescSt) : MovItem :=
  { pid := 0, stake := 0, cpl := 1, desc := d, cfg := cfg0, st := st, progress := 0, fault := none, slots := [], reads := [],
    lostCarry := false, buf := none, kept := [] }
/-- A SKEW of four rows. -/
def sk0 : MovItem := mit { desc0 with op := 2, fmt := 2, rows := 4, rowBytes := 128, srcStride := 128, dstStride := 128, dst := tieredEnd } (.running 0)
/-- An XPOSE of a matrix of four rows of four bytes. -/
def xp0 : MovItem := mit { desc0 with op := 3, fmt := 0, rows := 4, rowBytes := 4, srcStride := 4, dstStride := 4 } (.running 0)
/-- Channel `k`, active, of partition 0, with one accepted parcel. -/
def movs (s : State) (k : Nat) (it : MovItem) : State :=
  setMov (own (part s 0) (.mov k) 0) k { Channel.idle with items := [it] }
/-- The XPOSE's channel, with its tiles. -/
def xpS : State := tiled (tiled (movs rdy 0 xp0) 1 (newTile 1 0)) 2 (newTile 1 0)
/-- The SKEW's channel, with its source tile and its window. -/
def skS : State :=
  let s := own (tiled (movs rdy 0 sk0) 1 (newTile 1 0)) (.stn 0) 0
  setPtn s 0 { ptn s 0 with names := [(0, { name := [65], station := 0, pair := false })] }
/-- Channel 1023, whose next parcel has its stake and its completion parcel. -/
def accS : State :=
  let s := sh (put (put (qOn (wr (wr (own (part rdy 0) (.mov 1023) 0) (.mov 1023) F.mov_SUBMIT_Q 32) (.mov 1023) F.mov_CPL_Q 32) 32 0)
    32 5 ([1] ++ List.replicate 63 0)) 32 9 [1]) (.ptn 0) F.ptn_STAKE_QUOTA 8
  { s with
    plat := { s.plat with granted := [(.mover 1023, 3)] }
    pool := { s.pool with granted := [(.mover 1023, 1, 9)] } }
/-- The plat runs image 0, whose row 0 holds grant 0: a lent run of station 0 for cell 0, over the whole row. -/
def platS : State :=
  wr { rdy with plat := { Plat.reset with committed := [(0, true)], images :=
    [(0, 1), (1, 3), (4, 16), (0x8002, 1), (0x10000, 6), (0x1000C, 0x24), (0x1000D, 0xF4), (0x10011, 6)] } } .plt F.plt_RUNNING 1
/-- A dispatched work item. -/
def wi0 : WorkItem := { grant := 0, pattern := 0, frame := 0, row := 0, rowStart := 0, stake := 0, done := none }
/-- Engine 255 runs an item, with word `w` next in slot `k` and the slots before it NOP. -/
def eng (k w : Nat) (f : Engine → Engine) : State :=
  setTen rdy 255 (f { Engine.idle with
    item := some wi0, prog := mapSet 0 [] (k / 2) (w * 2 ^ (32 * (k % 2))), slots := List.replicate k 0, endTick := 100 })
/-- Unit `i` runs an item, and holds the jobs of a list. -/
def cduS (i : Nat) (l : List CdJob) : State := setCdu rdy i { CdUnit.idle with item := some wi0, held := l, qin := 32, qout := 33 }
/-- A job of `op` that has not been computed. -/
def cj (b : List Byte) : CdJob := { bytes := b, extra := [], out := none, status := 0 }
/-- A field-book request waits in queue 32 of partition 0, which has four contexts. -/
def fbS (b : List Byte) : State :=
  sh (wr (put (qOn (part (act1 rdy .cdp) 0) 32 0) 32 5 b) (.ptn 0) F.ptn_FB_REQ_Q 32) (.ptn 0) F.ptn_FB_COUNT 4
/-- A field-book request of operation `op` for context 3, to be answered in queue 33. -/
def fbReq (op : Byte) (d : List Byte) : List Byte := [op, 0, 3, 0, 0, 0, 3, 0, 33, 0, 0, 0, 0, 0, 0, 0] ++ d
/-- The word of a slot. -/
def tw (op d a b f : Nat) : Nat := f + 2 ^ 12 * b + 2 ^ 16 * a + 2 ^ 20 * d + 2 ^ 24 * op
/-- A context whose first byte names the fixed link. -/
def flCtx : List Byte := [2]
/-- All its bytes. -/
def flX : List Byte := [2] ++ List.replicate 255 0
/-- A fixed-link job of one block. -/
def flJob (op : Byte) : List Byte := [op, 0, 0, 0, 0, 0, 1, 0, 1, 0, 0, 0, 0]
/-- A frame of 60 bytes from address 7, of EtherType `t`, without errors. -/
def frT (t : Byte) : RxFrame :=
  { raw := [0, 0, 0, 0, 0, 0, 0, 0, 0, 0, 0, 7, t, 0xFE] ++ List.replicate 46 0, fcsOk := true, fecCorr := 0, fecUncorr := 0 }
/-- An eCPRI frame whose message has no type that the port takes. -/
def fr0 : RxFrame := frT 0xAE
/-- Port slot `q` is active and its link is up. -/
def fhS (q : Nat) : State := setFhp (act1 rdy (.fhp q)) q { FhPort.idle with up := true }
/-- Transmit queue 511 of port slot 0 has parcel `b` to send, from queue 32 of the manager. -/
def txS (b : List Byte) : State :=
  put (qOn (wr (act1 (fhS 0) (.fhq 511)) (.fhq 511) F.fhq_SRC_Q 32) 32 0xFF) 32 5 b
/-- A raw transmit parcel; `l` is LAUNCH_EN. -/
def txB (l : Byte) : List Byte := [0, 4 * l] ++ List.replicate 60 0
/-- A traffic key. -/
def ky : List Byte := [9]
/-- A LIVE lease, peer 5 up on port 0, and job 77 on slot 0 of partition 0, which exposes four tiles. -/
def trvS : State :=
  let s := sh (wr (wr (wr (own (part rdy 0) (.trj 0) 0) (.trj 0) F.trj_STATE 1) (.trj 0) F.trj_JOB_ID 77) .trg F.trg_LEASE_STATE 1)
    (.trj 0) F.trj_EXPOSE_TILES 4
  { s with
    mer := { s.mer with timeValid := true }
    trv := { s.trv with leaseKey := some [1], trafficKeys := [(0, ky)], linkUp := [(0, true)], peers := [(5, { st := 1, ports := 1, changes := 0 })] } }
/-- A message of kind `k` under the lease key of `trvS`. -/
def ctl (k : Nat) (fields : List Byte) : CtlMsg :=
  { epoch := 0, body := [], auth := Config.hmacSm3 [1] (ctlBytes k { epoch := 0, body := [], auth := [] } fields) }
/-- The descriptor of an operation of 8 bytes for peer 5. -/
def trvD (op : Byte) : List Byte := [op, 0, 5] ++ List.replicate 21 0 ++ [8] ++ List.replicate 4 0 ++ [255] ++ List.replicate 18 0
/-- Channel 255 of partition 0 has descriptor `b` in its submission queue. -/
def trcS (b : List Byte) : State :=
  let s := put (put (qOn (wr (wr (own trvS (.trc 255) 0) (.trc 255) F.trc_SUBMIT_Q 32) (.trc 255) F.trc_CPL_Q 33) 32 0) 32 5 b) 33 9 [1]
  { s with
    plat := { s.plat with granted := [(.trvChan 255, 3)] }
    pool := { s.pool with granted := [(.trvChan 255, 1, 9)] } }
/-- The state in which channel 255 has taken its descriptor, with its stake and completion parcel. -/
def took (s : State) : State :=
  (hwRead (takeGranted (acquireStake s (trvAg 255) 0 2).2 (trvAg 255) 1).2 (trvAg 255) 32).2
/-- The operation that it makes of it. -/
def opOf (s : State) : TrvItem :=
  { id := 0, pid := 5, stake := 3, cpl := 9, req := trvReqOf (took s) 255 (payload (took s) 5), laddr := 0, tsReq := false, tsId := 0,
    next := 0, got := 0, started := false, port := 0, pkts := [], done := none, attached := none }
/-- The state in which the operation has joined the channel. -/
def joined (s : State) : State := setTrc { took s with trv := { (took s).trv with nextId := 1 } } 255 [opOf s]
/-- The descriptor of a BARRIER. -/
def barD : List Byte := [8] ++ List.replicate 47 0
/-- Channel 255 has a BARRIER in its submission queue, for barrier 0, which has two members and its root here. -/
def barS : State := sh (trcS barD) .trg (F.trg_BAR_MEMBERS.ix 0) 2
/-- The same with its root at peer 5. -/
def barR : State := sh barS .trg (F.trg_BAR_ROOT.ix 0) 5
/-- A request of 8 bytes. -/
def rq (op : Nat) : TrvReq :=
  { op := op, combine := false, peer := 5, job := 77, tag := 1, raddr := 262136, len := 8, aop := 0, ctr := 255, ctrBytes := false,
    firstT := 0, stream := 0, seq := 0, payload := [1, 2, 3, 4, 5, 6, 7, 8], operand := 0, compare := 0 }
/-- An accepted operation that has not been sent. -/
def ti (op : Nat) : TrvItem :=
  { id := 0, pid := 5, stake := 3, cpl := 9, req := rq op, laddr := 0, tsReq := false, tsId := 0, next := 0, got := 0,
    started := false, port := 0, pkts := [], done := none, attached := none }
/-- Channel 255, quiesced, holds one operation. -/
def tiS (it : TrvItem) : State := setTrc (wr trvS (.trc 255) F.OWNER 0) 255 [it]
/-- `trvS` with storage for the last exposed tile. -/
def trvM : State := tiled trvS 3 (newTile 1 0)
/-- `trvM` where no request is too old: time is valid at 1 ms, and the table began before the reset. -/
def trvN : State := wr (sh trvM .trg F.trg_REPLAY_HOLD_MS 10000) .trg F.trg_REPLAY_SINCE (2 ^ 63)
/-- A request that awaits its reply. -/
def pk0 : TrvPkt := { id := 7, off := 0, len := 8, sentAt := 0, tries := 0, busy := false }
/-- An operation that has been sent. -/
def tp (op : Nat) : TrvItem := { ti op with started := true, pkts := [pk0] }
/-- A reply. -/
def rp (st : Nat) (b : Bool) : TrvReply := { status := st, busy := b, data := [1] }
/-- A barrier's operation on channel 255. -/
def bw (f : Bool) (r : Option Nat) : BarWait := { c := 255, id := 0, epoch := 9, since := 0, rel := r, late := false, fired := f }
/-- Barrier 15 has three members and its root here, and counts the epochs of a list. -/
def barE (l : List BarEpoch) (w : NMap BarWait) : State :=
  let s := sh (tiS (ti 8)) .trg (F.trg_BAR_MEMBERS.ix 15) 3
  { s with trv := { s.trv with epochs := l, barWait := w } }
/-- An item of CQ 15. -/
def hi0 : HostItem :=
  { sq := 15, sqi := 0, cq := 15, pos := 0, cid := 0, stake := none, seq := 0, journal := false, targetQ := 32, prio := 0,
    logOff := 0, logLen := 0, check := 0, pid := none, lb := .accepted, rerun := false, status := none, confirm := false,
    redo := false }
/-- A fetched entry that has its stake, room and parcel. -/
def hd (op : Byte) (pid : Option Nat) : SqHeld :=
  { bytes := [op, 0, 32, 0, 0, 0, 0, 0, 8] ++ List.replicate 55 0, stake := some 3, room := some 15, pid := pid, copied := false,
    status := none, counted := false }
/-- Partition 63 with Bus Master Enable, and SQ 15 with one entry to fetch. -/
def host : State :=
  { wr (sh (part (act1 rdy .hif) 63) (.ptn 63) (F.ptn_SQ_EN.ix 15) 1) (.ptn 63) (F.ptn_SQ_TAIL.ix 15) 1 with bme := [(64, true)] }
/-- `host` with an item. -/
def hostI (it : HostItem) : State := setPtn host 63 { ptn host 63 with items := [it] }
/-- `host` with a fetched entry. -/
def hostH (h : SqHeld) : State := setSq (put (qOn host 32 63) 32 5 [1, 2, 3, 4, 5, 6, 7, 8]) 63 15 { Sq.idle with held := some h }
/-- `hostH`, its parcel not yet committed. -/
def hostU (h : SqHeld) : State :=
  setParcel (hostH h) 5 { mkParcel 32 5 [1, 2, 3, 4, 5, 6, 7, 8] with committed := false }

/-- The part at tick `n` of the FRC. -/
def frcAt (s : State) (n : Nat) : State := { s with mer := { s.mer with frc := n } }
/-- The part with power good, so that the endpoint answers. -/
def pwr1 : State := { rdy with pwr := { rdy.pwr with pwrok := true } }
/-- The part without power good. -/
def pwr0 : State := { rdy with pwr := { rdy.pwr with pwrok := false } }
/-- An open health window, at tick `n`. -/
def hw (n : Nat) : State := wr (frcAt { rdy with hlt := { rdy.hlt with openTick := some 5 } } n) .hlt (F.hlt_K_LIVE.ix 12) 7
/-- An instruction of the fault manager, with SEQ 9. -/
def fmB (op : Byte) : List Byte := [op, 1, 0, 0, 9] ++ List.replicate 95 0
/-- Anchor slot `n` holds a key. -/
def anch (n : Nat) (s : State) : State := { s with mon := { s.mon with anchors := [(n, List.replicate 64 3)] } }
/-- Consent to injection, also of the page's owner, partition 0, for an active page. -/
def inj (p : Page) : State := wr (wr (own (part rdy 0) p 0) .hlt F.hlt_INJ_GRANTED 1) (.ptn 0) F.ptn_INJ_OK 1
/-- Monument's injection policy. -/
def pol (v : Nat) (s : State) : State := { s with mon := { s.mon with injPolicy := v } }
/-- A report is asked for on a page. -/
def asks (p : Page) (s : State) : State := { s with mon := { s.mon with attests := [(p, List.replicate 32 1), (.mon, [])] } }
/-- The state that a post leaves. -/
def posted (s : State) (q : Nat) (b : List Byte) : State := (hwPost s .monument q b 0xFF 0xFFFF 0 false).2
/-- A debug challenge was drawn at tick 5. -/
def chal (n : Nat) : State := frcAt { rdy with mon := { rdy.mon with challenge := some (List.replicate 32 1, 5) } } n
/-- A token for the debug challenge of `chal`. -/
def tok : List Byte := [1, 1, 7, 0] ++ List.replicate 16 0 ++ List.replicate 32 1 ++ List.replicate 68 0

/-! ### Lemmas for witnesses that hold an open value -/

/-- A pair whose first part is known. -/
theorem pair_eq {α β : Type} {x : α × β} {a : α} (h : x.1 = a) : x = (a, x.2) := by rw [← h]
/-- A triple whose first part is known. -/
theorem pair_eq3 {α β γ : Type} {x : (α × β) × γ} {a : α} (h : x.1.1 = a) : x = ((a, x.1.2), x.2) := by rw [← h]
/-- Without samples the energy is 0. -/
theorem energy_silent (n m : Nat) : energy (samplesOf []) n m = 0 := by
  have h (i : Nat) : energyAt (samplesOf []) i = 0 := by
    by_cases hi : i < 30720 <;> simp [energyAt, samplesOf, hi, signed]
  simp [energy, h]
/-- Without samples nothing triggers. -/
theorem trigger_silent (a n c : Nat) (h : 0 < n) : trigger (samplesOf []) a n c = none := by
  refine List.find?_eq_none.mpr fun x _ => ?_
  simp only [energy_silent, decide_eq_true_eq, Int.toNat_zero]
  have : 0 < (256 * n) ^ 40 * 10 ^ c := by positivity
  simpa using by omega

/-- An image without bytes reads as zero. -/
theorem imgNat_empty {s : State} (hs : s.plat.images = []) (p o n : Nat) : imgNat s p o n = 0 := by
  have h (l : List Nat) : leNat (l.map (fun _ => (0 : Byte))) = 0 := by
    induction l with
    | nil => rfl
    | cons _ l ih => simpa [leNat] using ih
  simpa [imgNat, loadBytes, hs, mapGet, mapFind] using h (List.range n)
/-- Such an image, not committed, has nothing that COMMIT refuses. -/
theorem commitFail_empty {s : State} {p : Nat} (hs : s.plat.images = []) (hc : committed s p = false) : commitFail s p = none := by
  have z := imgNat_empty hs
  have cell (c : Nat) : (cellOf s p c).valid = false := by simp only [cellOf, z]; decide
  have row (r : Nat) : rowOf s p r = { first := 0, count := 0, dst := 0, hbm := 0, rt := 0 } := by simp only [rowOf, z]; decide
  have b1 (c : Nat) : badCell s p c = false := by simp [badCell, cell]
  have b2 : overCell s p = none := by
    have : ∀ l : List Nat, l.foldl (fun n (_ : Nat) => n) 0 = 0 := fun l => by induction l <;> simp_all
    simp [overCell, cell, this]
  have b3 (r : Nat) : badRow s p r = false := by simp only [badRow, row, maskedNat, z]; decide
  have g : imageGrants s p = [] := by
    have : (List.range 160).flatMap (fun r => (rowGrants s p r).map (fun i => ({ row := r, idx := i, g := grantOf s p i } : GrantAt))) = [] := by
      simp [rowGrants, row]
    rw [imageGrants, this, List.mergeSort_nil]
  have b5 : shareBad { first := 0, count := 0, dst := 0, hbm := 0, rt := 0 } = false := by decide
  simp [commitFail, hc, b1, b2, b3, b5, g, grantFail, rowFail, stakeNeed, row]

/-! ### Well-formedness: for each check a command that it refuses, and the bounds that it allows -/

/-- One ill-formed command for each check of `Func.ok`, `Page.ok`, `Agent.ok`, `Requester.ok`, `LinkId.ok` and `PcieRead.ok`. -/
theorem test_wf_refuses_numbers :
    ([.statClr (.vf 0) 0, .statClr (.vf 65) 0, .sealCommit (.stn 144), .sealCommit (.bpr 72), .sealCommit (.dst 64),
      .sealCommit (.hbc 8), .sealCommit (.mov 1024), .sealCommit (.pq 1024), .sealCommit (.ten 256), .sealCommit (.cdu 144),
      .sealCommit (.fhp 32), .sealCommit (.fhq 512), .sealCommit (.trc 256), .sealCommit (.trj 64), .sealCommit (.ptn 64),
      .sealCommit .pwr, .read (.hw (.station 144) true) 0, .read (.hw (.mover 1024) true) 0, .read (.hw (.ten 256) true) 0,
      .read (.hw (.cdu 144) true) 0, .read (.hw (.fieldBook 64) true) 0, .read (.hw (.fhPort 32) true) 0,
      .read (.hw (.fhQueue 512) true) 0, .read (.hw (.trvChan 256) true) 0, .read (.hw (.trvJob 64) true) 0,
      .read (.hw (.hif 64 0) true) 0, .read (.hw (.hif 0 17) true) 0, .read (.page (.vf 65)) 0, .linkDown (.fh 32),
      .linkUp (.tv 8), .cplTimeout (.mover 1024), .cplTimeout (.sqEntry 64 0), .cplTimeout (.payload 0 16),
      .cplTimeout (.confirm 64), .cplTimeout (.record 64 0)] : List Instr).all (fun i => !i.wf) = true := by decide

/-- One ill-formed command for each other check of `Instr.wf`. -/
theorem test_wf_refuses_commands :
    ([.seal .pf (.stn 144) 0, .arraySelfCheck 144 true, .stationReset 256, .sequencerWatchdog 712, .mma 144,
      .instructionMemoryWrite .pf 0 2048 0, .bindGo .pf 64, .uncommit .pf 4, .bar2Access (.vf 65) 0 (.read 4), .migrationCommit 64 0,
      .locationZeroed 2 8, .pinComplete 0 8, .tileQuery .pf 64 0, .moverAccept 1024, .copy 0 64, .invGo .pf 1024,
      .reserve (.page .pf) 16384 0 0, .reserve (.page .pf) 0 0 8, .commit (.page .pf) 1024 0 0, .waitLimitExpiry 16384,
      .abort .pf 16384, .dataWindowAccess .pf 0 4096 (.read 4), .stepGo (.vf 0), .arm .pf 64, .triggerFire 64, .alu 256 0, .alu 0 4,
      .tick 256, .programWindowWrite .pf 0 0x8000 0, .ldpcDecode 144, .fbRead 64, .portSelection 32, .lateDrop 512,
      .ruTimeout 0 64, .discEntryClear .pf 0 64, .jobBind { epoch := 0, body := [], auth := [] } 64 0 [],
      .peerDown { epoch := 0, body := [], auth := [] } 16384, .tearDown { epoch := 0, body := [], auth := [] } (some 64) false,
      .load 256, .inboundRequest 8 0 [] (rq 1), .inboundAtomic 8 0 [] (rq 4),
      .counterWrite .pf 0 64 0, .watchRetry 64 0, .barrierTimeout 16, .create (.vf 65) 0 0, .destroy .pf 64, .partitionFreed 64,
      .sqDoorbell .pf 0 16 0, .sqNop 0 16, .functionLevelReset 65, .attestGo .pf (.ptn 64), .setEndpointId 256]
      : List Instr).all (fun i => !i.wf) = true := by decide

/-- The last number of each kind is well-formed. -/
theorem test_wf_allows_bounds :
    ([.statClr (.vf 64) 143, .sealCommit (.mov 1023), .sealCommit (.ten 255), .copy 1023 63, .reserve (.page .pf) 16383 0 7,
      .triggerFire 63, .alu 255 3, .barrierTimeout 15, .sqDoorbell (.vf 1) 63 15 0, .setEndpointId 255, .sequencerWatchdog 711]
      : List Instr).all Instr.wf = true := by decide

/-! ### Values of the spec's worked examples and tables -/

/-- 04_station_arithmetic.md, a row-joined FP8 pair in MODE 0: 2⁸ + 2⁻¹⁶ rounds to 2⁸. -/
theorem test_mma_mode0 :
    rn (sumFV [fv 0x43800000, mulFV (decodeF ⟨4, 3, 7, 2⟩ 0x02) (decodeF ⟨4, 3, 7, 2⟩ 0x02)]) = 0x43800000 := by decide

/-- The same example in MODE 1: the upper chain's 2⁻¹⁵ is added exactly. -/
theorem test_mma_mode1 : addB (rn (mulFV (decodeF ⟨4, 3, 7, 2⟩ 0x58) (decodeF ⟨4, 3, 7, 2⟩ 0x58)))
    (addB (rn (mulFV (decodeF ⟨4, 3, 7, 2⟩ 0x02) (decodeF ⟨4, 3, 7, 2⟩ 0x02)))
      (rn (mulFV (decodeF ⟨4, 3, 7, 2⟩ 0x02) (decodeF ⟨4, 3, 7, 2⟩ 0x02)))) = 0x43800001 := by decide

/-- 04_station_arithmetic.md, the CINT16 term and the convergent shift's table of halves. -/
theorem test_convergent_shift : [402653184, -134217728, 81920, 114688, -81920, -114688, 90112].map cr = [12288, -4096, 2, 4, -2, -4, 3] := by
  decide

/-- The record of 05_requantisation.md's worked example: GRAN 1, ROUND `r`, clamps −128 and 127, and for channels 0 to 3 BIAS 1.5,
SCALE 0.25, ZP −3. -/
def recEx (r : Nat) : List Byte :=
  natLE 1 (4 + 8 * r) ++ List.replicate 3 0 ++ natLE 2 0xFF80 ++ natLE 2 127 ++ List.replicate 120 0
    ++ (List.replicate 128 (natLE 4 0x3E800000)).flatten ++ (List.replicate 128 (natLE 4 0x3FC00000)).flatten
    ++ (List.replicate 128 (natLE 2 0xFFFD)).flatten

/-- The example's four columns: 37.25, 600, −14.5 and 8.5. -/
theorem test_rqo_int8 : ([(0, 0x42150000), (1, 0x44160000), (2, 0xC1680000), (3, 0x41080000)].map
    (fun e => ((floatElem (recEx 0) 2 e.1 e.2 e.2).code, (floatElem (recEx 0) 2 e.1 e.2 e.2).sat))) =
    [(0x07, false), (0x7F, true), (0xFA, false), (0xFF, false)] := by decide +kernel

/-- With ROUND 1 column 3 writes 0x00. -/
theorem test_rqo_round1 : (floatElem (recEx 1) 2 3 0x41080000 0x41080000).code = 0x00 := by decide +kernel

/-- 09_parcel_queues.md, the cells of 200, 1,000 and 120 bytes. -/
theorem test_reserve_cells : [200, 1000, 120].map cellsFor = [4, 16, 2] := by decide

/-- 12_transit_engines.md, the pack of one vector: RSH by 16. -/
theorem test_vpk_parts : [949043200, -189808640, 1900000000, 163840, 229376].map (fun a => rsh a 16) = [14481, -2896, 28992, 2, 4] := by
  decide

/-- The same example's product of lane 0, conjugated. -/
theorem test_vmac_product :
    [0, 1].map (prodPart { parts := [24576, 16384], ev := 0 } { parts := [23170, 23170], ev := 0 } true none) = [949043200, -189808640] := by
  decide

/-- 13_coding_pool_and_air_profiles.md, bit loading with GAP_Q 36, MARGIN_Q 8 and MAXB 12. -/
theorem test_bit_loading : [200, 160, 96, 40].map (fun v => bitLoad 12 v 36 8) = [12, 9, 4, 0] := by decide

/-- 14_fronthaul.md, selection 1 of three queues: queue 10 of weight 2 sends 8,000 bytes and its S becomes 4,000. -/
theorem test_start_tag : rd (chargeTags (sh rdy (.fhq 10) F.fhq_WEIGHT 2) 10 10 8000) (.fhq 10) F.fhq_START_TAG = 256 * 4000 := by
  decide +kernel

/-- 14_fronthaul.md, the selection takes the lower queue of the smallest tags (selection 4). -/
theorem test_choose_queue :
    chooseQueue (wr (wr (wr rdy (.fhq 10) F.fhq_START_TAG 8000) (.fhq 11) F.fhq_START_TAG 8000) (.fhq 12) F.fhq_START_TAG 9000)
      [10, 11, 12] = some 10 := by decide +kernel

/-- 09_parcel_queues.md, step 12: READ of an empty queue on a page completes with EMPTY, and OP_REFUSED stays clear. -/
theorem test_read_empty : rd (effRead (.page .pf) 32 (qOn rdy 32 0xFF)) (.pq 2) F.pq_OP_STATUS = 0x84
    ∧ bitAt (rd (effRead (.page .pf) 32 (qOn rdy 32 0xFF)) (.pq 2) F.ERR_STATUS) 16 = false := by decide +kernel

/-- 09_parcel_queues.md, step 5: a committed parcel is delivered with its length. -/
theorem test_read_delivers : rd (effRead (.page .pf) 32 (put (qOn rdy 32 0xFF) 32 5 (List.replicate 120 1))) (.pq 2) F.pq_OP_LEN = 120 := by
  decide +kernel

/-- R588: a token of another length is malformed. -/
theorem test_token_length : tokenStatus rdy (tok ++ [0]) = 2 := by decide +kernel

/-- R565: an instruction of the fault manager is 100 bytes long, and another length is malformed. -/
theorem test_fm_length : fmResult rdy (fmB 1 ++ [0]) = 5 := by decide +kernel

/-- The memories after reset have their canonical form. -/
theorem test_reset_wf : memoriesWf State.reset = true := by decide

/-! ### Witnesses of the statements' hypotheses -/

/-- Each case of `Obligations.RegisterMap` has a state and operands. -/
theorem witness_registerMap :
    (∃ (p : Page) (o : Nat), (p.ok = true ∨ p = Page.pwr) ∧ o < 4096) ∧
    (∃ (a : Nat) (p : Page), pageOf a = some p) ∧
    (∃ (p : Page) (q : Page) (f : Fld) (g : Fld), (p.ok = true ∨ p = Page.pwr) ∧ (q.ok = true ∨ q = Page.pwr) ∧ f ∈ expand (pageTable p) ∧
    g ∈ expand (pageTable q) ∧ (p, f) ≠ (q, g)) :=
  ⟨⟨.mon, 4095, by decide +kernel⟩,
   ⟨0x01000000, .stn 0, by decide +kernel⟩,
   ⟨.stn 0, .stn 1, F.SEAL, F.SEAL, by decide +kernel⟩⟩

/-- Each case of `Obligations.EveryCommandFrame` has a state and operands. -/
theorem witness_everyCommandFrame :
    ∃ (i : Instr) (s : State) (t : State), exec i s = Host.Outcome.next t :=
  ⟨.monumentWatchdog, rdy, (effMonumentWatchdog rdy), rfl⟩

/-- Each case of `Obligations.TrippedHolds` has a state and operands. -/
theorem witness_trippedHolds :
    ∃ (i : Instr) (s : State) (t : State), exec i s = Host.Outcome.next t ∧ s.stage = Stage.tripped ∧ runsTripped i = false :=
  ⟨.nop 0, { rdy with stage := .tripped }, ({ rdy with stage := .tripped }), rfl, by decide +kernel⟩

/-- Each case of `Obligations.NonvolatileNeverFalls` has a state and operands. -/
theorem witness_nonvolatileNeverFalls :
    ∃ (a : Nat) (b : Nat) (c : Nat) (s : State) (t : State), NonvolatileAtLeast a b c s ∧ step s = Host.Outcome.next t ∧ c ≤ 65535 :=
  ⟨0, 0, 0, { rdy with pending := [.relock] }, (stepOf ({ rdy with pending := [.relock] })),
    by unfold NonvolatileAtLeast; decide +kernel, rfl, by decide +kernel⟩

/-- Each case of `Obligations.TranslationCachesKept` has a state and operands. -/
theorem witness_translationCachesKept :
    ∃ (s : State) (t : State), CachesInv s ∧ step s = Host.Outcome.next t :=
  ⟨{ rdy with pending := [.relock] }, (stepOf ({ rdy with pending := [.relock] })), ⟨nofun, fun _ => Nat.zero_le _, fun _ => Nat.zero_le
    _⟩, rfl⟩

/-- Each case of `Obligations.ResetState` has a state and operands. -/
theorem witness_resetState :
    (∃ (p : Page), p ≠ Page.mon ∧ p ≠ Page.hlt ∧ p ≠ Page.pwr) ∧
    (∃ (p : Page), assignable p = true) :=
  ⟨⟨.stn 0, by decide +kernel⟩,
   ⟨.mov 1023, by decide +kernel⟩⟩

/-- Each case of `Obligations.RegisterWriteByClass` has a state and operands. -/
theorem witness_registerWriteByClass :
    (∃ (f : Func) (p : Page) (a : Nat) (off : Nat) (fl : Fld) (s : State), f.ok = true ∧ p.ok = true ∧ plainPage p = true ∧ barAddr s f a
    = some (pageBase p + off) ∧ off % 4 = 0 ∧ 64 ≤ off ∧ off < 2048 ∧ wideReg p off = false ∧ (off % 8 = 4 → wideReg p (off - 4) = false)
    ∧ regFields p off = [fl] ∧ fl.lo = 0 ∧ fl.w ≤ 32 ∧ reach s f p = true ∧ unitDown s p = false ∧ fl.cls = Cls.ro) ∧
    (∃ (f : Func) (p : Page) (a : Nat) (off : Nat) (fl : Fld) (s : State), f.ok = true ∧ p.ok = true ∧ plainPage p = true ∧ barAddr s f a
    = some (pageBase p + off) ∧ off % 4 = 0 ∧ 64 ≤ off ∧ off < 2048 ∧ wideReg p off = false ∧ (off % 8 = 4 → wideReg p (off - 4) = false)
    ∧ regFields p off = [fl] ∧ fl.lo = 0 ∧ fl.w ≤ 32 ∧ reach s f p = true ∧ unitDown s p = false ∧ fl.cls ≠ Cls.ro ∧ sideOk f fl.who =
    false) ∧
    (∃ (f : Func) (p : Page) (a : Nat) (off : Nat) (fl : Fld) (s : State), f.ok = true ∧ p.ok = true ∧ plainPage p = true ∧ barAddr s f a
    = some (pageBase p + off) ∧ off % 4 = 0 ∧ 64 ≤ off ∧ off < 2048 ∧ wideReg p off = false ∧ (off % 8 = 4 → wideReg p (off - 4) = false)
    ∧ regFields p off = [fl] ∧ fl.lo = 0 ∧ fl.w ≤ 32 ∧ reach s f p = true ∧ unitDown s p = false ∧ sideOk f fl.who = true ∧ fl.cls =
    Cls.d) ∧
    (∃ (f : Func) (p : Page) (a : Nat) (off : Nat) (fl : Fld) (s : State), f.ok = true ∧ p.ok = true ∧ plainPage p = true ∧ barAddr s f a
    = some (pageBase p + off) ∧ off % 4 = 0 ∧ 64 ≤ off ∧ off < 2048 ∧ wideReg p off = false ∧ (off % 8 = 4 → wideReg p (off - 4) = false)
    ∧ regFields p off = [fl] ∧ fl.lo = 0 ∧ fl.w ≤ 32 ∧ reach s f p = true ∧ unitDown s p = false ∧ sideOk f fl.who = true ∧ fl.cls = Cls.s
    ∧ quiesced s p = true) ∧
    (∃ (f : Func) (p : Page) (a : Nat) (off : Nat) (fl : Fld) (s : State), f.ok = true ∧ p.ok = true ∧ plainPage p = true ∧ barAddr s f a
    = some (pageBase p + off) ∧ off % 4 = 0 ∧ 64 ≤ off ∧ off < 2048 ∧ wideReg p off = false ∧ (off % 8 = 4 → wideReg p (off - 4) = false)
    ∧ regFields p off = [fl] ∧ fl.lo = 0 ∧ fl.w ≤ 32 ∧ reach s f p = true ∧ unitDown s p = false ∧ sideOk f fl.who = true ∧ fl.cls = Cls.s
    ∧ quiesced s p = false) ∧
    (∃ (f : Func) (p : Page) (a : Nat) (off : Nat) (fl : Fld) (s : State), f.ok = true ∧ p.ok = true ∧ plainPage p = true ∧ barAddr s f a
    = some (pageBase p + off) ∧ off % 4 = 0 ∧ 64 ≤ off ∧ off < 2048 ∧ wideReg p off = false ∧ (off % 8 = 4 → wideReg p (off - 4) = false)
    ∧ regFields p off = [fl] ∧ fl.lo = 0 ∧ fl.w ≤ 32 ∧ reach s f p = true ∧ unitDown s p = false ∧ sideOk f fl.who = true ∧ fl.cls = Cls.h
    ∧ bitAt (rd s p F.SEAL) fl.grp = false) ∧
    (∃ (f : Func) (p : Page) (a : Nat) (off : Nat) (fl : Fld) (s : State), f.ok = true ∧ p.ok = true ∧ plainPage p = true ∧ barAddr s f a
    = some (pageBase p + off) ∧ off % 4 = 0 ∧ 64 ≤ off ∧ off < 2048 ∧ wideReg p off = false ∧ (off % 8 = 4 → wideReg p (off - 4) = false)
    ∧ regFields p off = [fl] ∧ fl.lo = 0 ∧ fl.w ≤ 32 ∧ reach s f p = true ∧ unitDown s p = false ∧ sideOk f fl.who = true ∧ fl.cls = Cls.h
    ∧ bitAt (rd s p F.SEAL) fl.grp = true) :=
  ⟨⟨.pf, .trg, pageBase (.trg) + 152, 152, ((regFields (.trg) 152).headD F.SEAL), rdy, by decide +kernel⟩,
   ⟨.vf 1, .fhq 0, 0x1000 + 84, 84, ((regFields (.fhq 0) 84).headD F.SEAL),
    { setPtn (own (part rdy 0) (.fhq 0) 0) 0 { Partition.free with slotMap := [(1, 2 ^ 31 + pageBase (.fhq 0) / 0x1000)] } with stage := .ready },
    by decide +kernel⟩,
   ⟨.pf, .fhq 0, pageBase (.fhq 0) + 140, 140, ((regFields (.fhq 0) 140).headD F.SEAL), rdy, by decide +kernel⟩,
   ⟨.pf, .trc 0, pageBase (.trc 0) + 64, 64, ((regFields (.trc 0) 64).headD F.SEAL), rdy, by decide +kernel⟩,
   ⟨.pf, .trc 0, pageBase (.trc 0) + 64, 64, ((regFields (.trc 0) 64).headD F.SEAL), act1 rdy (.trc 0), by decide +kernel⟩,
   ⟨.pf, .trg, pageBase (.trg) + 84, 84, ((regFields (.trg) 84).headD F.SEAL), rdy, by decide +kernel⟩,
   ⟨.pf, .trg, pageBase (.trg) + 84, 84, ((regFields (.trg) 84).headD F.SEAL), wr rdy .trg F.SEAL 1, by decide +kernel⟩⟩

/-- Each case of `Obligations.SealRefused` has a state and operands. -/
theorem witness_sealRefused :
    (∃ (f : Func) (p : Page) (m : Nat) (s : State), (Instr.seal f p m).wf = true ∧ m % 65536 = 0 ∧ reach s f p = true) ∧
    (∃ (f : Func) (p : Page) (m : Nat) (s : State), (Instr.seal f p m).wf = true ∧ 0 < m ∧ m < 65536 ∧ reach s f p = true ∧ unitDown s p =
    false ∧ ((∃ g < 16, bitAt m g = true ∧ (bitAt (capsGroups p) g = false ∨ bitAt (rd s p F.SEAL) g = true)) ∨ f ≠ Func.pf ∧
    namesManagerField p m = true ∨ failedCheck s p m ≠ 0)) :=
  ⟨⟨.pf, .trg, 0, rdy, by decide +kernel⟩,
   ⟨.pf, .trg, 1, wr rdy .trg F.SEAL 1, by decide +kernel⟩⟩

/-- Each case of `Obligations.SealCommands` has a state and operands. -/
theorem witness_sealCommands :
    (∃ (f : Func) (p : Page) (m : Nat) (s : State), (Instr.seal f p m).wf = true ∧ reach s f p = true ∧ unitDown s p = false ∧ 0 < m ∧ m <
    65536 ∧ (∀ g < 16, bitAt m g = true → bitAt (capsGroups p) g = true ∧ bitAt (rd s p F.SEAL) g = false) ∧ (f = Func.pf ∨
    namesManagerField p m = false) ∧ failedCheck s p m = 0 ∧ commitsNow s p = false) ∧
    (∃ (f : Func) (p : Page) (m : Nat) (s : State), (Instr.seal f p m).wf = true ∧ reach s f p = true ∧ unitDown s p = false ∧ 0 < m ∧ m <
    65536 ∧ (∃ g < 16, bitAt m g = true ∧ bitAt (capsGroups p) g = false)) ∧
    (∃ (f : Func) (p : Page) (v : Bool) (s : State), (Instr.expertEnWrite f p v).wf = true ∧ reach s f p = true ∧ unitDown s p = false ∧
    bitAt (rd s p F.SEAL) 15 = false ∧ ofBool v = rdApplied s p F.EXPERT_EN) ∧
    (∃ (f : Func) (p : Page) (v : Bool) (s : State), (Instr.expertEnWrite f p v).wf = true ∧ reach s f p = true ∧ unitDown s p = false ∧
    bitAt (rd s p F.SEAL) 15 = false ∧ ofBool v ≠ rdApplied s p F.EXPERT_EN) ∧
    (∃ (p : Page) (s : State), (∀ (n : ℕ), p ≠ Page.ptn n) ∧ p.ok = true ∧ s.stage ≠ Stage.tripped ∧ atCommit s p = true ∧ rd s p F.SEAL %
    65536 ≠ 0) :=
  ⟨⟨.pf, .cdp, 1, wr (act1 rdy .cdp) .plt F.plt_RUNNING 1, by decide +kernel⟩,
   ⟨.pf, .trg, 0x4000, rdy, by decide +kernel⟩,
   ⟨.pf, .stn 0, false, rdy, by decide +kernel⟩,
   ⟨.pf, .stn 0, true, rdy, by decide +kernel⟩,
   ⟨.stn 0, wr rdy (.stn 0) F.SEAL 1, by intro _; nofun, by decide +kernel⟩⟩

/-- Each case of `Obligations.QuiesceAndOwner` has a state and operands. -/
theorem witness_quiesceAndOwner :
    (∃ (p : Page) (s : State), (∀ (m : ℕ), p ≠ Page.bpr m) ∧ (∀ (c : ℕ), p ≠ Page.trc c) ∧ (∀ (j : ℕ), p ≠ Page.fhq j) ∧ p.ok = true ∧
    plainPage p = true ∧ reach s Func.pf p = true ∧ unitDown s p = false ∧ rd s p F.QUIESCE_REQ = 0 ∧ quiesceRefused s p = false ∧ p ≠
    Page.cdp ∧ p ≠ Page.trg) ∧
    (∃ (p : Page) (s : State), (∀ (m : ℕ), p ≠ Page.bpr m) ∧ (∀ (c : ℕ), p ≠ Page.trc c) ∧ p.ok = true ∧ plainPage p = true ∧ reach s
    Func.pf p = true ∧ unitDown s p = false ∧ rd s p F.QUIESCE_REQ = 0 ∧ quiesceRefused s p = true) ∧
    (∃ (p : Page) (s : State), (∀ (n : ℕ), p ≠ Page.stn n) ∧ (∀ (m : ℕ), p ≠ Page.bpr m) ∧ (∀ (n : ℕ), p ≠ Page.ptn n) ∧ p.ok = true ∧
    s.stage ≠ Stage.tripped ∧ unitDown s p = false ∧ heldQuiesced s p = true ∧ drained s p = true ∧ rd s p F.QUIESCED = 0 ∧ rd s p F.SEAL
    = 0 ∧ s.hlt.resetWait = []) ∧
    (∃ (p : Page) (s : State), (∀ (m : ℕ), p ≠ Page.bpr m) ∧ p.ok = true ∧ plainPage p = true ∧ reach s Func.pf p = true ∧ unitDown s p =
    false ∧ rd s p F.QUIESCE_REQ = 1 ∧ heldQuiesced (wr s p F.QUIESCE_REQ 0) p = false ∧ s.hlt.resetWait = []) ∧
    (∃ (p : Page) (v : Nat) (s : State), p.ok = true ∧ assignable p = true ∧ (v < 64 ∨ v = 255) ∧ v ≠ rd s p F.OWNER ∧ reach s Func.pf p =
    true ∧ quiesced s p = true ∧ slotBound s p = false ∧ poolFull s p v = false) :=
  ⟨⟨.dst 63, act1 rdy (.dst 63), by intro _; nofun, by intro _; nofun, by intro _; nofun, by decide +kernel⟩,
   ⟨.trg, wr (act1 rdy .trg) .trg F.trg_LEASE_STATE 1, by intro _; nofun, by intro _; nofun, by decide +kernel⟩,
   ⟨.fhq 0, wr (act1 rdy (.fhq 0)) (.fhq 0) F.QUIESCE_REQ 1, by intro _; nofun, by intro _; nofun, by intro _; nofun, by decide +kernel⟩,
   ⟨.fhq 0, rdy, by intro _; nofun, by decide +kernel⟩,
   ⟨.fhq 0, 63, rdy, by decide +kernel⟩⟩

/-- Each case of `Obligations.ColdResets` has a state and operands. -/
theorem witness_coldResets :
    ∃ (cause : Nat) (s : State), (cause = 0 ∧ resetOpen s = true ∨ cause = 3 ∨ cause = 4 ∨ cause = 5) :=
  ⟨0, rdy, by decide +kernel⟩

/-- Each case of `Obligations.StationClusterPartitionReset` has a state and operands. -/
theorem witness_stationClusterPartitionReset :
    (∃ (n : Nat) (s : State), resetOpen s = true ∧ n < 144 ∧ unitUp s n = true ∧ pairJoined s n = false ∧ unitUsed (askedReset s 1 n) n =
    false ∧ (escalated (askedReset s 1 n) (stationPids (askedReset s 1 n) n)).any (partitionUsed (askedReset s 1 n)) = false) ∧
    (∃ (n : Nat) (s : State), resetOpen s = true ∧ 144 ≤ n ∧ n < 256) ∧
    (∃ (c : Nat) (s : State), resetOpen s = true ∧ c < 24 ∧ (∃ k < 6, unitUp s (6 * c + k) = true) ∧ (∀ k < 6, unitUsed (askedReset s 2 c)
    (6 * c + k) = false) ∧ ((escalated (askedReset s 2 c) (List.flatMap (stationPids (askedReset s 2 c)) (List.map (fun k => 6 * c + k)
    (List.range 6)))).any (partitionUsed (askedReset s 2 c)) = false)) ∧
    (∃ (c : Nat) (s : State), resetOpen s = true ∧ c < 24 ∧ (∀ k < 6, unitUp s (6 * c + k) = false)) ∧
    (∃ (p : Nat) (s : State), resetOpen s = true ∧ p < 64 ∧ pstate s p = 1 ∧ partitionUsed (askedReset s 3 p) p = false) ∧
    (∃ (p : Nat) (s : State), resetOpen s = true ∧ p < 64 ∧ pstate s p = 1 ∧ partitionUsed (askedReset s 3 p) p = true) :=
  ⟨⟨143, rdy, by decide +kernel⟩,
   ⟨144, rdy, by decide +kernel⟩,
   ⟨23, rdy, by decide +kernel⟩,
   ⟨0, { rdy with fp := { rdy.fp with units := (List.range 6).map (fun k => (k, 2)) } }, by decide +kernel⟩,
   ⟨63, part rdy 63, by decide +kernel⟩,
   ⟨0, { part rdy 0 with plat := { Plat.reset with images := [(0, 1)], committed := [(0, true)] } }, by decide +kernel⟩⟩

/-- Each case of `Obligations.ReadinessCommands` has a state and operands. -/
theorem witness_readinessCommands :
    (∃ (speed : Nat) (width : Nat) (ms : Nat) (s : State), trainingOpen s = true ∧ speed < 16 ∧ width < 64 ∧ ms < 65536 ∧ linkOk speed
    width = true) ∧
    (∃ (speed : Nat) (width : Nat) (s : State), trainingOpen s = true ∧ speed < 16 ∧ width < 64 ∧ linkOk speed width = false) ∧
    (∃ (n : Nat) (s : State), configServed s = true ∧ n ≤ 64) ∧
    (∃ (s : State), configServed s = true) ∧
    (∃ (s : State), s.stage ≠ Stage.tripped ∧ configServed s = false) ∧
    (∃ (speed : Nat) (width : Nat) (s : State), configServed s = true ∧ speed < 16 ∧ width < 64) ∧
    (∃ (cause : Nat) (s : State), s.stage = Stage.ready ∧ (cause = 1 ∨ cause = 2 ∨ cause = 0 ∧ resetOpen s = true)) ∧
    (∃ (s : State), s.stage = Stage.ready) ∧
    (∃ (cause : Nat) (s : State), s.stage = Stage.erased ∧ (cause = 1 ∨ cause = 2)) ∧
    (∃ (s : State), s.stage = Stage.warm ∧ linkGood s = true ∧ s.fp.deferred = []) ∧
    (∃ (s : State), s.stage = Stage.warm ∧ linkGood s = false) :=
  ⟨⟨5, 8, 0, State.reset, by decide +kernel⟩,
   ⟨4, 8, State.reset, by decide +kernel⟩,
   ⟨64, rdy, by decide +kernel⟩,
   ⟨rdy, by decide +kernel⟩,
   ⟨State.reset, by decide +kernel⟩,
   ⟨4, 8, rdy, by decide +kernel⟩,
   ⟨1, rdy, by decide +kernel⟩,
   ⟨rdy, by decide +kernel⟩,
   ⟨2, { rdy with stage := .erased }, by decide +kernel⟩,
   ⟨storeLink { rdy with stage := .warm } 6 16, by decide +kernel⟩,
   ⟨{ rdy with stage := .warm }, by decide +kernel⟩⟩

/-- Each case of `Obligations.RunTimeCriteria` has a state and operands. -/
theorem witness_runTimeCriteria :
    (∃ (u : Nat) (s : State), u < 712 ∧ s.stage = Stage.ready ∧ sequencerRuns s u = true ∧ unitUp s u = true) ∧
    (∃ (u : Nat) (s : State), 616 ≤ u ∧ u < 712 ∧ s.stage = Stage.ready ∧ unitUp s u = true) ∧
    (∃ (n : Nat) (s : State), n < 144 ∧ s.stage = Stage.ready ∧ unitUp s n = true ∧ stnAtCommit s n = true ∧ ef s (Page.stn n)
    F.stn_X_SELFCHECK ≤ (stn s n).array) ∧
    (∃ (n : Nat) (s : State), n < 144 ∧ s.stage ≠ Stage.tripped ∧ ((stn s n).array < ef s (Page.stn n) F.stn_X_SELFCHECK ∨ stnAtCommit s n
    = false)) ∧
    (∃ (s : State), (∀ e ∈ s.fp.ues, threeUes e.2 = true → unitUp s e.1 = false)) ∧
    (∃ (u : Nat) (l : List Nat) (s : State), s.fp.ues = [(u, l)] ∧ threeUes l = true ∧ unitUp s u = true) ∧
    (∃ (a : Nat) (b : Nat) (c : Nat), a ≤ b ∧ b ≤ c) :=
  ⟨⟨143, runs 143 job0 0, by decide +kernel⟩,
   ⟨711, rdy, by decide +kernel⟩,
   ⟨0, mst rdy 0 (fun x => { x with array := 10 ^ 12 }), by decide +kernel⟩,
   ⟨0, sh rdy (.stn 0) F.stn_X_SELFCHECK 5, by decide +kernel⟩,
   ⟨{ rdy with fp := { rdy.fp with ues := [(0, [4, 2])] } }, by decide +kernel⟩,
   ⟨215, [9, 4, 2], { rdy with fp := { rdy.fp with ues := [(215, [9, 4, 2])] } }, by decide +kernel⟩,
   ⟨5, 6, 1000000005, by decide +kernel⟩⟩

/-- Each case of `Obligations.StationScalarInstructions` has a state and operands. -/
theorem witness_stationScalarInstructions :
    (∃ (n : Nat) (j : Job) (w : Nat) (s : State), Issues s n j w ∧ iOpc w = 0) ∧
    (∃ (n : Nat) (j : Job) (w : Nat) (s : State), Issues s n j w ∧ iOpc w = 1) ∧
    (∃ (n : Nat) (j : Job) (w : Nat) (s : State), Issues s n j w ∧ iOpc w = 2) ∧
    (∃ (n : Nat) (j : Job) (w : Nat) (s : State), Issues s n j w ∧ iOpc w = 3) ∧
    (∃ (n : Nat) (j : Job) (w : Nat) (s : State), Issues s n j w ∧ iOpc w = 4) ∧
    (∃ (n : Nat) (j : Job) (s : State) (c : Instr × Nat), s.stage ≠ Stage.tripped ∧ n < 144 ∧ (stn s n).job = some j ∧ canIssue s n = true
    ∧ (wordIllegal (instrAt (stn s n)) = true ∨ pastEnd (stn s n) = true) ∧ c ∈ [(Instr.nop n, 0), (Instr.seti n, 1), (Instr.addi n, 2),
    (Instr.loop n, 3), (Instr.jmp n, 4), (Instr.ldw n, 16), (Instr.mma n, 17), (Instr.rqo n, 32), (Instr.waitt n, 48), (Instr.relt n, 49),
    (Instr.post n, 50), (Instr.fence n, 51), (Instr.stnEnd n, 63)] ∧ iOpc (instrAt (stn s n)) = c.2 ∧ (c.2 = 32 → (stn s n).rqoWait =
    none)) :=
  ⟨⟨143, job0, 0, runs 143 job0 (0), by decide +kernel⟩,
   ⟨0, job0, 0x01F00000FFFFFFFF, runs 0 job0 (0x01F00000FFFFFFFF), by decide +kernel⟩,
   ⟨0, job0, 0x02120000FFFFFFFF, mst (runs 0 job0 (0x02120000FFFFFFFF)) 0 (fun x => { x with g := [(1, 5), (2, 7)] }), by decide +kernel⟩,
   ⟨0, job0, 0x03100000000007FF, mst (runs 0 job0 (0x03100000000007FF)) 0 (fun x => { x with g := [(1, 5)] }), by decide +kernel⟩,
   ⟨0, job0, 0x04000000000007FF, runs 0 job0 (0x04000000000007FF), by decide +kernel⟩,
   ⟨0, job0, runs 0 job0 0x0000000000000001, (.nop 0, 0), by decide +kernel⟩⟩

/-- Each case of `Obligations.StationArrayInstructions` has a state and operands. -/
theorem witness_stationArrayInstructions :
    (∃ (n : Nat) (j : Job) (w : Nat) (s : State), Issues s n j w ∧ iOpc w = 16 ∧ checkDue s n j = false ∧ readHeld (stn s n) (bits (greg
    (stn s n) (iA w)) 0 15) (bits (greg (stn s n) (iA w)) 0 15 + blockUnits (iFmt w) - 1) = false ∧ (∀ m ∈ members n j, spanFaults s
    (members n j) m j.lent.isSome (bits (greg (stn s n) (iA w)) 0 15) (bits (greg (stn s n) (iA w)) 0 15 + blockUnits (iFmt w) - 1) = [])
    ∧ (storesRead s (List.map (fun m => (m, [unitBytes (bits (greg (stn s n) (iA w)) 0 15, bits (greg (stn s n) (iA w)) 0 15 + blockUnits
    (iFmt w) - 1)])) (members n j)) = (false, s))) ∧
    (∃ (n : Nat) (j : Job) (w : Nat) (l : Ldw) (s : State), Issues s n j w ∧ iOpc w = 17 ∧ (stn s n).ldw = some l ∧ mmaIssueCheck j w (stn
    s n) = none ∧ checkDue s n j = false ∧ (∀ e ∈ mmaSpans w (stn s n), readHeld (stn s n) e.1 e.2 = false) ∧ (∀ m ∈ streamMembers n j,
    mmaFaults s n j w (stn s n) m = []) ∧ (storesRead s (List.map (fun m => (m, List.map unitBytes (mmaSpansTo w (stn s n) (bits w 32 8 +
    1 + fmtD (iFmt w) - 1)))) (streamMembers n j)) = (false, s))) :=
  ⟨⟨0, job0, 0x1010000000000000, mst (runs 0 job0 (0x1010000000000000)) 0 (fun x => { x with g := [(1, 512)], slots := [(1, 3)] }),
    by decide +kernel⟩,
   ⟨0, job0, 0x1112000000000000, { tsa := 0, fmt := 0, t := false }, mst (runs 0 job0 (0x1112000000000000)) 0 (fun x =>
    { x with ldw := some ({ tsa := 0, fmt := 0, t := false }), g := [(1, 512), (2, 255)], slots := [(1, 3), (2, 2)] }), by decide +kernel⟩⟩

/-- Each case of `Obligations.StationRequantisation` has a state and operands. -/
theorem witness_stationRequantisation :
    (∃ (n : Nat) (j : Job) (w : Nat) (s : State), Issues s n j w ∧ iOpc w = 32 ∧ (stn s n).rqoRun = none ∧ (stn s n).rqoWait = none ∧ bits
    w 42 2 ≠ 3 ∧ bits (greg (stn s n) (iA w)) 0 8 + (bits w 32 8 + 1) ≤ 256) ∧
    (∃ (n : Nat) (j : Job) (r : Rqo) (t0 : Nat) (s : State), s.stage ≠ Stage.tripped ∧ n < 144 ∧ (stn s n).job = some j ∧ (stn s n).rqoRun
    = some r ∧ (stn s n).rqoRec = [] ∧ outMembers n j = [n] ∧ recordTsa s n j.lent.isSome r.rqset = some t0 ∧ rqoStartFaults s (members n
    j) j.lent.isSome r n = [] ∧ storesRead s [rqoReads s j.lent.isSome r n] = (false, s)) ∧
    (∃ (n : Nat) (c : Nat) (j : Job) (r : Rqo) (s : State), s.stage ≠ Stage.tripped ∧ n < 144 ∧ (stn s n).job = some j ∧ (stn s n).rqoRun
    = some r ∧ (stn s n).rqoRec = [] ∧ firstFault (List.flatMap (rqoStartFaults s (members n j) j.lent.isSome r) (outMembers n j)) = some
    c) ∧
    (∃ (n : Nat) (j : Job) (r : Rqo) (w : List Nat) (s : State), s.stage ≠ Stage.tripped ∧ n < 144 ∧ (stn s n).job = some j ∧ (stn s
    n).rqoRun = some r ∧ (stn s n).rqoRec ≠ [] ∧ outMembers n j = [n] ∧ r.words = [w] ∧ rqoHeld s n r = false ∧ rowFaults s (members n j)
    n j.lent.isSome r = [] ∧ (takeFault s (Page.stn n)).1 = 0 ∧ (stn s n).bad = []) :=
  ⟨⟨0, job0, 0x2000000000000000, runs 0 job0 (0x2000000000000000), by decide +kernel⟩,
   ⟨0, job0, rqo0, 0, mst (sh (sh (runs 0 job0 0) (.stn 0) F.stn_TBL_BASE 0) (.stn 0) F.stn_TBL_SETS 1) 0 (fun x =>
    { x with rqoRun := some rqo0, slots := [(0, 3)] }), by decide +kernel⟩,
   ⟨0, 0x83, job0, rqo0, mst (sh (sh (runs 0 job0 0) (.stn 0) F.stn_TBL_BASE 0) (.stn 0) F.stn_TBL_SETS 1) 0 (fun x =>
    { x with rqoRun := some rqo0 }), by decide +kernel⟩,
   ⟨0, job0, rqo0, [], mst (runs 0 job0 0) 0 (fun x => { x with rqoRun := some rqo0, rqoRec := [0] }), by decide +kernel⟩⟩

/-- Each case of `Obligations.StationSlotsAndEnd` has a state and operands. -/
theorem witness_stationSlotsAndEnd :
    (∃ (n : Nat) (j : Job) (w : Nat) (s : State), Issues s n j w ∧ iOpc w = 48 ∧ (∀ m ∈ members n j, slotAllowed s m j.lent.isSome (bits w
    16 6) = true) ∧ (∀ m ∈ streamMembers n j, 2 ≤ slotState (stn s m) (bits w 16 6))) ∧
    (∃ (n : Nat) (j : Job) (w : Nat) (s : State), Issues s n j w ∧ iOpc w = 48 ∧ (j.lent.isSome = true ∨ ∀ m ∈ streamMembers n j, ∀ e ∈
    s.movs, ∀ it ∈ e.2.items, ¬(it.slots.contains (m, bits w 16 6) = true ∧ it.st = DescSt.stopped)) ∧ (∀ m ∈ members n j, slotAllowed s m
    true (bits w 16 6) = true) ∧ (∃ m ∈ streamMembers n j, slotState (stn s m) (bits w 16 6) < 2) ∧ (∀ m ∈ streamMembers n j, slotState
    (stn s m) (bits w 16 6) = 1 → slotFilling s m (bits w 16 6) = true)) ∧
    (∃ (n : Nat) (j : Job) (w : Nat) (s : State), Issues s n j w ∧ iOpc w = 49 ∧ (∀ m ∈ members n j, slotAllowed s m j.lent.isSome (bits w
    16 6) = true)) ∧
    (∃ (n : Nat) (j : Job) (w : Nat) (pid : Nat) (s : State) (s1 : State), hwPost s (Agent.station n) (j.qh.getD (bits w 0 2) 0)
    (triggerBytes (greg (stn s n) (iA w)) (greg (stn s n) (iB w)) (bits w 8 8) j.stake) j.ptn j.stake 1 true = (PqRes.parcel pid, s1) ∧
    Issues s n j w ∧ iOpc w = 50 ∧ qOwner s (j.qh.getD (bits w 0 2) 0) = j.ptn ∧ (takeGranted s (Agent.station n) 1).1 = none ∧ (takeEnded
    s (Agent.station n) 1).1 = none ∧ (∀ e ∈ (queue s (j.qh.getD (bits w 0 2) 0)).line, ¬(e.agent = Agent.station n ∧ e.token = 1))) ∧
    (∃ (n : Nat) (j : Job) (w : Nat) (s : State), Issues s n j w ∧ iOpc w = 51) ∧
    (∃ (n : Nat) (j : Job) (w : Nat) (s : State), Issues s n j w ∧ iOpc w = 63 ∧ (stn s n).rqoRun = none) :=
  ⟨⟨0, job0, 0x30000000003D0000, mst (runs 0 job0 (0x30000000003D0000)) 0 (fun x => { x with slots := [(61, 2)] }), by decide +kernel⟩,
   ⟨0, job0, 0x3000000000300000, runs 0 (job0) (0x3000000000300000), by decide +kernel⟩,
   ⟨0, job0, 0x3100000000000000, runs 0 job0 (0x3100000000000000), by decide +kernel⟩,
   ⟨0, job0, 0x3212000000000100, 0, qOn (runs 0 job0 (0x3212000000000100)) 16 0, _, pair_eq (by decide +kernel), by decide +kernel⟩,
   ⟨0, job0, 0x3300000000000000, runs 0 job0 (0x3300000000000000), by decide +kernel⟩,
   ⟨0, job0, 0x3F00000000000000, runs 0 job0 (0x3F00000000000000), by decide +kernel⟩⟩

/-- Each case of `Obligations.StationJobs` has a state and operands. -/
theorem witness_stationJobs :
    (∃ (n : Nat) (idx : Nat) (k : Nat) (pid : Nat) (bd : Binding) (s : State) (s1 : State) (s2 : State), n < 144 ∧ s.stage ≠ Stage.tripped
    ∧ bindingOf s n = some (idx, bd) ∧ bd.pair = false ∧ stationBusy s n = false ∧ ef s (Page.ptn (ownerOf s (Page.stn n)))
    F.ptn_JOBQ_BASE + idx < 16384 ∧ qOwner s (ef s (Page.ptn (ownerOf s (Page.stn n))) F.ptn_JOBQ_BASE + idx) = ownerOf s (Page.stn n) ∧
    beHold s = false ∧ ef s (Page.ptn (ownerOf s (Page.stn n))) F.ptn_METERED = 0 ∧ ef s (Page.ptn (ownerOf s (Page.stn n)))
    F.ptn_BE_JOB_LIMIT = 0 ∧ takeEnded s (Agent.station n) (readToken (ef s (Page.ptn (ownerOf s (Page.stn n))) F.ptn_JOBQ_BASE + idx)) =
    (none, s) ∧ parcelWaits s (Agent.station n) (ef s (Page.ptn (ownerOf s (Page.stn n))) F.ptn_JOBQ_BASE + idx) = true ∧ acquireStake s
    (Agent.station n) (ownerOf s (Page.stn n)) 1 = (some k, s1) ∧ hwRead s1 (Agent.station n) (ef s (Page.ptn (ownerOf s (Page.stn n)))
    F.ptn_JOBQ_BASE + idx) = (PqRes.parcel pid, s2) ∧ unitUp s n = true ∧ jobParcelBad (payload s2 pid) idx = false) ∧
    (∃ (n : Nat) (c : Nat) (j : Job) (s : State), n < 144 ∧ s.stage ≠ Stage.tripped ∧ (stn s n).job = some j ∧ (stn s n).ended = some c ∧
    (stn s n).rqoRun = none ∧ j.lent = none ∧ j.cplEn = false) ∧
    (∃ (n : Nat) (c : Nat) (j : Job) (s : State), n < 144 ∧ s.stage ≠ Stage.tripped ∧ (stn s n).job = some j ∧ (stn s n).drain = some c ∧
    (stn s n).rqoRun = none ∧ (stn s n).ended = none ∧ j.lent = none ∧ j.shape = 0 ∧ rd s (Page.stn n) F.QUIESCE_REQ = 1) :=
  ⟨⟨143, 63, 7, 0, { name := [65], station := 143, pair := false },
    { setPtn (put (qOn (own (sh (sh (part rdy 0) (.ptn 0) F.ptn_JOBQ_BASE 0) (.ptn 0) F.ptn_STAKE_QUOTA 8) (.stn 143) 0) 63 0) 63 0 ([0, 0, 63] ++ List.replicate 61 0)) 0 { Partition.free with names := [(63, ({ name := [65], station := 143, pair := false }))] } with plat := { Plat.reset with granted := [(.station 143, 7)] }, pool := { (put (qOn rdy 63 0) 63 0 ([0, 0, 63] ++ List.replicate 61 0)).pool with inbox := [(.station 143, 63, 0)] } },
    (acquireStake
    ({ setPtn (put (qOn (own (sh (sh (part rdy 0) (.ptn 0) F.ptn_JOBQ_BASE 0) (.ptn 0) F.ptn_STAKE_QUOTA 8) (.stn 143) 0) 63 0) 63 0 ([0, 0, 63] ++ List.replicate 61 0)) 0 { Partition.free with names := [(63, ({ name := [65], station := 143, pair := false }))] } with plat := { Plat.reset with granted := [(.station 143, 7)] }, pool := { (put (qOn rdy 63 0) 63 0 ([0, 0, 63] ++ List.replicate 61 0)).pool with inbox := [(.station 143, 63, 0)] } })
    (.station 143) 0 1).2, (hwRead ((acquireStake
    ({ setPtn (put (qOn (own (sh (sh (part rdy 0) (.ptn 0) F.ptn_JOBQ_BASE 0) (.ptn 0) F.ptn_STAKE_QUOTA 8) (.stn 143) 0) 63 0) 63 0 ([0, 0, 63] ++ List.replicate 61 0)) 0 { Partition.free with names := [(63, ({ name := [65], station := 143, pair := false }))] } with plat := { Plat.reset with granted := [(.station 143, 7)] }, pool := { (put (qOn rdy 63 0) 63 0 ([0, 0, 63] ++ List.replicate 61 0)).pool with inbox := [(.station 143, 63, 0)] } })
    (.station 143) 0 1).2) (.station 143) 63).2, by decide +kernel⟩,
   ⟨0, 2, job0, mst (runs 0 job0 0) 0 (fun x => { x with ended := some 2 }), by decide +kernel⟩,
   ⟨143, 3, job0, mst (wr (runs 143 job0 0) (.stn 143) F.QUIESCE_REQ 1) 143 (fun x => { x with drain := some 3 }), by decide +kernel⟩⟩

/-- Each case of `Obligations.StationStores` has a state and operands. -/
theorem witness_stationStores :
    (∃ (n : Nat) (v : Nat) (s : State), n < 144 ∧ s.stage ≠ Stage.tripped ∧ (stn s n).zeroLend = some v ∧ rd s (Page.stn n) F.QUIESCE_REQ
    = 1) ∧
    (∃ (n : Nat) (s : State), n < 144 ∧ s.stage ≠ Stage.tripped ∧ (stn s n).zeroStore = true ∧ rd s (Page.stn n) F.QUIESCE_REQ = 1) ∧
    (∃ (s : State), s.trv.inbound = [] ∧ s.trv.landing = []) ∧
    (∃ (n : Nat) (s : State), n < 144 ∧ s.stage ≠ Stage.tripped ∧ (stn s n).carry = true ∧ rd s (Page.stn n) F.QUIESCE_REQ = 1) ∧
    (∃ (f : Func) (n : Nat) (i : Nat) (s : State), f.ok = true ∧ n < 144 ∧ i < 1536 ∧ reachWindow s f (Page.stn n) (pageBase (Page.stn n)
    + 16384 + 4096 * (i / 512)) = true ∧ unitDown s (Page.stn n) = false ∧ (stn s n).zeroStore = false) ∧
    (∃ (f : Func) (n : Nat) (s : State), f.ok = true ∧ n < 144 ∧ reach s f (Page.stn n) = true ∧ unitDown s (Page.stn n) = false) :=
  ⟨⟨0, 5, mst (wr rdy (.stn 0) F.QUIESCE_REQ 1) 0 (fun x => { x with zeroLend := some 5, store := [(48 * 65536, 7)] }),
    by decide +kernel⟩,
   ⟨143, mst (wr rdy (.stn 143) F.QUIESCE_REQ 1) 143 (fun x => { x with zeroStore := true, store := [(0, 7)] }), by decide +kernel⟩,
   ⟨rdy, by decide +kernel⟩,
   ⟨0, mst (wr rdy (.stn 0) F.QUIESCE_REQ 1) 0 (fun x => { x with carry := true }), by decide +kernel⟩,
   ⟨.pf, 143, 1535, rdy, by decide +kernel⟩,
   ⟨.pf, 143, rdy, by decide +kernel⟩⟩

/-- Each case of `Obligations.BindingCommands` has a state and operands. -/
theorem witness_bindingCommands :
    (∃ (p : Nat) (s : State), p < 64 ∧ reach s Func.pf (Page.ptn p) = true ∧ bindResult s p = 0 ∧ rd s (Page.ptn p) F.ptn_BIND_STATION <
    144 ∧ rd s (Page.ptn p) F.ptn_BIND_PAIR = 0 ∧ nameEntry s p (bindName s p) = none) ∧
    (∃ (p : Nat) (s : State), p < 64 ∧ reach s Func.pf (Page.ptn p) = true ∧ bindResult s p ≠ 0) ∧
    (∃ (f : Func) (p : Nat) (s : State), f.ok = true ∧ p < 64 ∧ reach s f (Page.ptn p) = true) :=
  ⟨⟨63, wr (wr (wr (wr (wr rdy (.stn 143) F.OWNER 63) (.ptn 63) F.ptn_PSTATE 1) (.ptn 63) (F.ptn_BIND_NAME.ix 0) 0x41) (.ptn 63)
    F.ptn_BIND_STATION 143) (.ptn 63) F.QUIESCED 1, by decide +kernel⟩,
   ⟨0, rdy, by decide +kernel⟩,
   ⟨.pf, 0, rdy, by decide +kernel⟩⟩

/-- Each case of `Obligations.HostWindows` has a state and operands. -/
theorem witness_hostWindows :
    (∃ (v : Nat) (p : Nat) (addr : Nat) (a : Nat) (n : Nat) (s : State), 1 ≤ v ∧ v ≤ 64 ∧ s.stage = Stage.ready ∧ ptnOfVf s v = some p ∧
    addr + n ≤ 2 ^ 30 ∧ a = rd s (Page.ptn p) F.ptn_VF_WIN_BASE * 2 ^ 30 + addr ∧ a % 65536 + n ≤ 65536 ∧ a < tieredEnd ∧ ((s.tierHeld.any
    fun h => decide (h.1 = p)) = false) ∧ tileOf s p (a / 65536) = none) ∧
    (∃ (v : Nat) (p : Nat) (addr : Nat) (a : Nat) (n : Nat) (s : State) (x : Tile), 1 ≤ v ∧ v ≤ 64 ∧ s.stage = Stage.ready ∧ ptnOfVf s v =
    some p ∧ addr + n ≤ 2 ^ 30 ∧ a = rd s (Page.ptn p) F.ptn_VF_WIN_BASE * 2 ^ 30 + addr ∧ a % 65536 + n ≤ 65536 ∧ a < tieredEnd ∧
    ((s.tierHeld.any fun h => decide (h.1 = p)) = false) ∧ tileOf s p (a / 65536) = some x ∧ 0 < n ∧ x.lost = true) ∧
    (∃ (v : Nat) (p : Nat) (addr : Nat) (a : Nat) (n : Nat) (s : State) (x : Tile), 1 ≤ v ∧ v ≤ 64 ∧ s.stage = Stage.ready ∧ ptnOfVf s v =
    some p ∧ addr + n ≤ 2 ^ 30 ∧ a = rd s (Page.ptn p) F.ptn_VF_WIN_BASE * 2 ^ 30 + addr ∧ a % 65536 + n ≤ 65536 ∧ a < tieredEnd ∧
    ((s.tierHeld.any fun h => decide (h.1 = p)) = false) ∧ tileOf s p (a / 65536) = some x ∧ 0 < n ∧ x.lost = false ∧ readsWell s x ∧
    badLine s p a n = false) ∧
    (∃ (v : Nat) (p : Nat) (addr : Nat) (a : Nat) (d : List Byte) (x : Tile) (s : State), 1 ≤ v ∧ v ≤ 64 ∧ s.stage = Stage.ready ∧ ptnOfVf
    s v = some p ∧ addr + d.length ≤ 2 ^ 30 ∧ a = rd s (Page.ptn p) F.ptn_VF_WIN_BASE * 2 ^ 30 + addr ∧ a % 65536 + d.length ≤ 65536 ∧ d ≠
    [] ∧ a < tieredEnd ∧ ((s.tierHeld.any fun h => decide (h.1 = p)) = false) ∧ tileOf s p (a / 65536) = some x ∧ x.lost = false ∧ x.stuck
    = false ∧ x.migrating = false ∧ migOf s p (a / 65536) = none ∧ mergeError s p a d.length = false ∧ (merges a d.length = true →
    readsWell s x)) ∧
    (∃ (v : Nat) (p : Nat) (addr : Nat) (x : Access) (s : State), 1 ≤ v ∧ v ≤ 64 ∧ s.stage = Stage.ready ∧ ptnOfVf s v = some p ∧ addr +
    accessLen x ≤ 2 ^ 30 ∧ ((s.tierHeld.any fun h => decide (h.1 = p)) = true)) ∧
    (∃ (v : Nat) (addr : Nat) (x : Access) (s : State), 1 ≤ v ∧ v ≤ 64 ∧ s.stage = Stage.ready ∧ ptnOfVf s v = none ∧ addr + accessLen x ≤
    2 ^ 30) ∧
    (∃ (w : Nat) (o : Nat) (n : Nat) (p : Nat) (a : Nat) (s : State), w < 16 ∧ o + n ≤ 2 ^ 32 ∧ o < 2 ^ 32 ∧ s.stage = Stage.ready ∧ rd s
    Page.tir (F.tir_WIN_PTN.ix w) = p ∧ rd s Page.tir (F.tir_WIN_VALID.ix w) = 1 ∧ pstate s p = 1 ∧ rd s (Page.ptn p) F.ptn_MGR_WINDOW_OK
    = 1 ∧ a = rd s Page.tir (F.tir_WIN_BASE.ix w) * 2 ^ 32 + o ∧ a % 65536 + n ≤ 65536 ∧ a < tieredEnd ∧ tileOf s p (a / 65536) = none ∧
    ((s.tierHeld.any fun h => decide (h.1 = p)) = false)) ∧
    (∃ (w : Nat) (o : Nat) (n : Nat) (s : State), w < 16 ∧ o + n ≤ 2 ^ 32 ∧ o < 2 ^ 32 ∧ s.stage = Stage.ready ∧ rd s Page.tir
    (F.tir_WIN_VALID.ix w) ≠ 1) :=
  ⟨⟨1, 0, 0, 0, 64, part rdy 0, by decide +kernel⟩,
   ⟨1, 0, 65536, 65536, 64, tiled (part rdy 0) 1 { newTile 1 0 with lost := true }, { newTile 1 0 with lost := true }, by decide +kernel⟩,
   ⟨1, 0, 65600, 65600, 64, tiled (part rdy 0) 1 (newTile 1 0), newTile 1 0, by decide +kernel⟩,
   ⟨1, 0, 65600, 65600, [1, 2], newTile 1 0, tiled (part rdy 0) 1 (newTile 1 0), by decide +kernel⟩,
   ⟨1, 0, 0, .read 4, { part rdy 0 with tierHeld := [(0, 0, .read 1)] }, by decide +kernel⟩,
   ⟨64, 2 ^ 30 - 4, .read 4, rdy, by decide +kernel⟩,
   ⟨15, 2 ^ 32 - 4, 4, 0, 2 ^ 32 - 4, wr (wr (wr (part rdy 0) .tir (F.tir_WIN_PTN.ix 15) 0) .tir (F.tir_WIN_VALID.ix 15) 1) (.ptn 0)
    F.ptn_MGR_WINDOW_OK 1, by decide +kernel⟩,
   ⟨0, 0, 64, rdy, by decide +kernel⟩⟩

/-- Each case of `Obligations.TierMigrations` has a state and operands. -/
theorem witness_tierMigrations :
    (∃ (s : State), s.stage ≠ Stage.tripped ∧ heldBlock s Page.tir = false) ∧
    (∃ (s : State), s.stage ≠ Stage.tripped ∧ heldBlock s Page.tir = true) ∧
    (∃ (p : Nat) (k : Nat) (u : Nat) (m : Migration) (x : Tile) (s : State), p < 64 ∧ s.stage ≠ Stage.tripped ∧ quiesced s Page.tir =
    false ∧ migOf s p k = some m ∧ m.dstUnit = some u ∧ m.after = none ∧ tileOf s p k = some x ∧ x.lost = false ∧ x.stuck = false ∧
    (x.tier ≠ 3 → rd s (tierPage x.tier x.unit) F.INJ_ARM = 0) ∧ (heldQuiesced s Page.tir = true ∨ s.migs = [m]) ∧ (∀ (j : ℕ), rangeOf s p
    (65536 * k) = some j → bitAt (rd s (Page.ptn p) F.ptn_PINNING) j = true → m.pin = true ∧ ef s (Page.ptn p) (F.ptn_PIN_TIER.ix j) =
    m.dstTier) ∧ readsWell s x ∧ tileBad s p k = false) ∧
    (∃ (p : Nat) (k : Nat) (u : Nat) (m : Migration) (x : Tile) (s : State), p < 64 ∧ s.stage ≠ Stage.tripped ∧ quiesced s Page.tir =
    false ∧ migOf s p k = some m ∧ m.dstUnit = some u ∧ m.after = none ∧ tileOf s p k = some x ∧ x.lost = false ∧ x.stuck = false ∧
    (x.tier ≠ 3 → rd s (tierPage x.tier x.unit) F.INJ_ARM = 0) ∧ (heldQuiesced s Page.tir = true ∨ s.migs = [m]) ∧ (∀ (j : ℕ), rangeOf s p
    (65536 * k) = some j → bitAt (rd s (Page.ptn p) F.ptn_PINNING) j = true → m.pin = true ∧ ef s (Page.ptn p) (F.ptn_PIN_TIER.ix j) =
    m.dstTier) ∧ tileBad s p k = true) ∧
    (∃ (p : Nat) (k : Nat) (u : Nat) (m : Migration) (s : State), p < 64 ∧ s.stage ≠ Stage.tripped ∧ quiesced s Page.tir = false ∧ migOf s
    p k = some m ∧ m.dstUnit = some u ∧ m.after = none ∧ tileOf s p k = none ∧ m.srcTier = 0) ∧
    (∃ (p : Nat) (k : Nat) (m : Migration) (s : State), p < 64 ∧ s.stage ≠ Stage.tripped ∧ (List.find? (fun m => decide (m.ptn = p) &&
    decide (m.tile = k) && m.committed) s.migs = some m) ∧ tierUp s m.srcTier m.srcUnit = true ∧ (m.srcTier = 3 → m.srcUnit < rd s
    Page.tir F.tir_HOST_TILES) ∧ tierUsed s p 1 ≤ ef s (Page.ptn p) F.ptn_DST_QUOTA) ∧
    (∃ (tier : Nat) (u : Nat) (s : State), (Instr.locationZeroed tier u).wf = true ∧ s.stage ≠ Stage.tripped ∧ s.migs = [] ∧ s.tierHeld =
    [] ∧ (∀ p < 64, tierUsed s p 1 ≤ ef s (Page.ptn p) F.ptn_DST_QUOTA) ∧ 0 < (locsAt s tier u).pending ∧ tierUp s tier u = true) ∧
    (∃ (p : Nat) (k : Nat) (s : State), p < 64 ∧ k < 8 ∧ s.stage ≠ Stage.tripped ∧ bitAt (rd s (Page.ptn p) F.ptn_PINNING) k = true ∧
    (rangeTiles s p k).all (tileInPlace s p (ef s (Page.ptn p) (F.ptn_PIN_TIER.ix k))) = true) ∧
    (∃ (p : Nat) (k : Nat) (s : State), p < 64 ∧ k < 8 ∧ s.stage ≠ Stage.tripped ∧ bitAt (rd s (Page.ptn p) F.ptn_PINNING) k = true ∧
    (rangeTiles s p k).all (tileInPlace s p (ef s (Page.ptn p) (F.ptn_PIN_TIER.ix k))) = false) ∧
    (∃ (p : Page) (tier : Nat) (u : Nat) (s : State), p.ok = true ∧ s.stage ≠ Stage.tripped ∧ pageTier p = some (tier, u) ∧ heldBlock s p
    = true) ∧
    (∃ (p : Page) (tier : Nat) (u : Nat) (s : State), p.ok = true ∧ s.stage ≠ Stage.tripped ∧ pageTier p = some (tier, u) ∧ heldBlock s p
    = false ∧ ef s p F.mem_SCRUB ≠ 0 ∧ rd s p F.INJ_ARM = 0 ∧ badLines s tier u = 0) ∧
    (∃ (p : Page) (tier : Nat) (u : Nat) (s : State), p.ok = true ∧ s.stage ≠ Stage.tripped ∧ pageTier p = some (tier, u) ∧ heldBlock s p
    = false ∧ ef s p F.mem_SCRUB ≠ 0 ∧ rd s p F.INJ_ARM = 0 ∧ badLines s tier u = 1) :=
  ⟨⟨tiled (act1 rdy .tir) 5 (newTile 1 0), by decide +kernel⟩,
   ⟨tiled rdy 5 (newTile 1 0), by decide +kernel⟩,
   ⟨0, 5, 3,
    { ptn := 0, tile := 5, srcTier := 1, srcUnit := 0, dstTier := 2, dstUnit := some 3, committed := false, pin := true, queued := false, after := none },
    { newTile 1 0 with migrating := true },
    { tiled (act1 (part rdy 0) .tir) 5 ({ newTile 1 0 with migrating := true }) with migs := [({ ptn := 0, tile := 5, srcTier := 1, srcUnit := 0, dstTier := 2, dstUnit := some 3, committed := false, pin := true, queued := false, after := none })] },
    by decide +kernel⟩,
   ⟨0, 5, 3,
    { ptn := 0, tile := 5, srcTier := 1, srcUnit := 0, dstTier := 2, dstUnit := some 3, committed := false, pin := true, queued := false, after := none },
    { newTile 1 0 with migrating := true },
    (let s := { tiled (act1 (part rdy 0) .tir) 5 ({ newTile 1 0 with migrating := true }) with migs := [({ ptn := 0, tile := 5, srcTier := 1, srcUnit := 0, dstTier := 2, dstUnit := some 3, committed := false, pin := true, queued := false, after := none })] }; setPtn s 0 { ptn s 0 with bad := [(5120, true)] }),
    by decide +kernel⟩,
   ⟨0, 5, 3,
    { ptn := 0, tile := 5, srcTier := 0, srcUnit := 0, dstTier := 2, dstUnit := some 3, committed := false, pin := true, queued := false, after := none },
    { act1 (part rdy 0) .tir with migs := [({ ptn := 0, tile := 5, srcTier := 0, srcUnit := 0, dstTier := 2, dstUnit := some 3, committed := false, pin := true, queued := false, after := none })] },
    by decide +kernel⟩,
   ⟨0, 5,
    { ptn := 0, tile := 5, srcTier := 1, srcUnit := 0, dstTier := 2, dstUnit := some 3, committed := true, pin := false, queued := false, after := none },
    { tiled (part rdy 0) 5 (newTile 2 3) with migs := [({ ptn := 0, tile := 5, srcTier := 1, srcUnit := 0, dstTier := 2, dstUnit := some 3, committed := true, pin := false, queued := false, after := none })] },
    by decide +kernel⟩,
   ⟨2, 7, rdy, by decide +kernel⟩,
   ⟨63, 7, setTile (wr (sh (sh (part rdy 63) (.ptn 63) (F.ptn_RANGE_TILES.ix 7) 1) (.ptn 63) (F.ptn_PIN_TIER.ix 7) 1) (.ptn 63)
    F.ptn_PINNING 128) 63 0 { newTile 1 0 with pinned := true }, by decide +kernel⟩,
   ⟨63, 7, wr (sh (sh (part rdy 63) (.ptn 63) (F.ptn_RANGE_TILES.ix 7) 1) (.ptn 63) (F.ptn_PIN_TIER.ix 7) 1) (.ptn 63) F.ptn_PINNING 128,
    by decide +kernel⟩,
   ⟨.dst 63, 1, 63, sh rdy (.dst 63) F.mem_SCRUB 1, by decide +kernel⟩,
   ⟨.dst 63, 1, 63, sh (act1 rdy (.dst 63)) (.dst 63) F.mem_SCRUB 1, by decide +kernel⟩,
   ⟨.hbc 7, 2, 7, setPtn (sh (act1 rdy (.hbc 7)) (.hbc 7) F.mem_SCRUB 1) 0
    { Partition.free with tiles := [(1, newTile 2 7)], bad := [(1024, true)] }, by decide +kernel⟩⟩

/-- Each case of `Obligations.TierQueries` has a state and operands. -/
theorem witness_tierQueries :
    (∃ (f : Func) (p : Nat) (s : State), f.ok = true ∧ p < 64 ∧ reach s f (Page.ptn p) = true ∧ freeResult s p (rd s (Page.ptn p)
    F.ptn_FREE_BASE) (rd s (Page.ptn p) F.ptn_FREE_TILES) ≠ 0) ∧
    (∃ (f : Func) (p : Nat) (a : Nat) (n : Nat) (s : State), f.ok = true ∧ p < 64 ∧ reach s f (Page.ptn p) = true ∧ a = rd s (Page.ptn p)
    F.ptn_FREE_BASE ∧ n = rd s (Page.ptn p) F.ptn_FREE_TILES ∧ freeResult s p a n = 0) ∧
    (∃ (f : Func) (p : Nat) (a : Nat) (s : State), f.ok = true ∧ p < 64 ∧ a < 2 ^ 64 ∧ reach s f (Page.ptn p) = true) ∧
    (∃ (p : Nat) (a : Nat) (s : State), p < 64 ∧ a < 2 ^ 48 ∧ reach s Func.pf Page.tir = true) :=
  ⟨⟨.pf, 0, wr (part rdy 0) (.ptn 0) F.ptn_FREE_BASE 1, by decide +kernel⟩,
   ⟨.pf, 0, 65536, 2, tiled (wr (wr (part rdy 0) (.ptn 0) F.ptn_FREE_BASE 65536) (.ptn 0) F.ptn_FREE_TILES 2) 1 (newTile 1 0),
    by decide +kernel⟩,
   ⟨.pf, 63, 2 ^ 64 - 1, rdy, by decide +kernel⟩,
   ⟨63, 2 ^ 48 - 1, rdy, by decide +kernel⟩⟩

/-- Each case of `Obligations.MoverOperations` has a state and operands. -/
theorem witness_moverOperations :
    (∃ (k : Nat) (e : Nat) (p : Nat) (it : MovItem) (x : Tile) (y : Tile) (s : State), k < 1024 ∧ e < 64 ∧ s.stage ≠ Stage.tripped ∧
    quiesced s (Page.mov k) = false ∧ heldQuiesced s (Page.mov k) = false ∧ (mov s k).items = [it] ∧ it.st = DescSt.running e ∧
    it.progress = 0 ∧ it.desc.op = 1 ∧ it.desc.sx = false ∧ it.desc.dx = false ∧ it.desc.rows = 1 ∧ 0 < it.desc.rowBytes ∧
    it.desc.rowBytes ≤ 1024 * 2 ^ it.cfg.chunk ∧ it.cfg.cls ≠ 1 ∧ it.desc.src % 65536 + it.desc.rowBytes ≤ 65536 ∧ it.desc.dst % 65536 +
    it.desc.rowBytes ≤ 65536 ∧ it.desc.src < tieredEnd ∧ it.desc.dst < tieredEnd ∧ ownerOf s (Page.mov k) = p ∧ tileOf s p (it.desc.src /
    65536) = some x ∧ x.tier = 1 ∧ x.lost = false ∧ rd s (Page.dst x.unit) F.INJ_ARM = 0 ∧ badLine s p it.desc.src it.desc.rowBytes =
    false ∧ tileOf s p (it.desc.dst / 65536) = some y ∧ y.lost = false ∧ y.stuck = false ∧ y.migrating = false ∧ y.tier ≠ 3 ∧ migOf s p
    (it.desc.dst / 65536) = none ∧ mergeError s p it.desc.dst it.desc.rowBytes = false ∧ (merges it.desc.dst it.desc.rowBytes = true → rd
    s (tierPage y.tier y.unit) F.INJ_ARM = 0) ∧ (it.slots ++ it.reads).all (slotServed s) = true ∧ it.kept = []) ∧
    (∃ (k : Nat) (e : Nat) (it : MovItem) (b : List Byte) (b2 : List Byte) (w : SkewWin) (s : State) (s1 : State) (s2 : State), readRows k
    (e / 16) it it.desc.rows 0 { rows := [], scales := [] } s = ((CRes.ok b, w), s1) ∧ writeLines k it w (it.desc.rows + it.desc.lanes -
    1) 0 s1 = (CRes.ok b2, s2) ∧ k < 1024 ∧ e < 64 ∧ s.stage ≠ Stage.tripped ∧ quiesced s (Page.mov k) = false ∧ heldQuiesced s (Page.mov
    k) = false ∧ (mov s k).items = [it] ∧ it.st = DescSt.running e ∧ it.progress = 0 ∧ it.desc.op = 2 ∧ 0 < it.desc.rows ∧ (it.slots ++
    it.reads).all (slotServed s) = true ∧ skewRows it.desc (1024 * 2 ^ it.cfg.chunk) 0 = it.desc.rows) ∧
    (∃ (k : Nat) (e : Nat) (n : Nat) (it : MovItem) (m : List Byte) (b : List Byte) (s : State) (s1 : State) (s2 : State), k < 1024 ∧ e <
    64 ∧ s.stage ≠ Stage.tripped ∧ quiesced s (Page.mov k) = false ∧ heldQuiesced s (Page.mov k) = false ∧ (mov s k).items = [it] ∧ it.st
    = DescSt.running e ∧ it.progress = 0 ∧ it.desc.op = 3 ∧ 0 < it.desc.total ∧ (it.slots ++ it.reads).all (slotServed s) = true ∧ it.buf
    = none ∧ readMatrix k (e / 16) it (it.desc.rows * it.desc.rowBytes) 0 s = (CRes.ok m, s1) ∧ makeWrites k (e / 16) it (xposeWrites
    it.desc m) 0 s1 = ((CRes.ok b, n), s2)) ∧
    (∃ (k : Nat) (e : Nat) (it : MovItem) (s : State) (c : Instr × Nat) (st : Nat), k < 1024 ∧ e < 64 ∧ s.stage ≠ Stage.tripped ∧ quiesced
    s (Page.mov k) = false ∧ heldQuiesced s (Page.mov k) = false ∧ (mov s k).items = [it] ∧ it.st = DescSt.waiting ∧ 0 < it.cfg.conc ∧
    engineBusy s e = false ∧ engineServes s e it.cfg.cls = true ∧ c ∈ [(Instr.copy k e, 1), (Instr.skew k e, 2), (Instr.xpose k e, 3)] ∧
    it.desc.op = c.2 ∧ startCheck s k it = StartRes.fail st) ∧
    (∃ (k : Nat) (e : Nat) (it : MovItem) (s : State) (c : Instr × Nat), k < 1024 ∧ e < 64 ∧ s.stage ≠ Stage.tripped ∧ quiesced s
    (Page.mov k) = false ∧ heldQuiesced s (Page.mov k) = false ∧ (mov s k).items = [it] ∧ it.st = DescSt.waiting ∧ 0 < it.cfg.conc ∧
    engineBusy s e = false ∧ engineServes s e it.cfg.cls = true ∧ c ∈ [(Instr.copy k e, 1), (Instr.skew k e, 2), (Instr.xpose k e, 3)] ∧
    it.desc.op = c.2 ∧ startCheck s k it = StartRes.held) ∧
    (∃ (k : Nat) (e : Nat) (it : MovItem) (s : State) (c : Instr × Nat) (w : List (Nat × Nat)) (r : List (Nat × Nat)), k < 1024 ∧ e < 64 ∧
    s.stage ≠ Stage.tripped ∧ quiesced s (Page.mov k) = false ∧ heldQuiesced s (Page.mov k) = false ∧ (mov s k).items = [it] ∧ it.st =
    DescSt.waiting ∧ 0 < it.cfg.conc ∧ engineBusy s e = false ∧ engineServes s e it.cfg.cls = true ∧ c ∈ [(Instr.copy k e, 1), (Instr.skew
    k e, 2), (Instr.xpose k e, 3)] ∧ it.desc.op = c.2 ∧ startCheck s k it = StartRes.go w r ∧ engineNear (w ++ r) e = true) :=
  ⟨⟨0, 0, 0, mit desc0 (.running 0), newTile 1 0, newTile 2 0, tiled (tiled (movs rdy 0 (mit desc0 (.running 0))) 1 (newTile 1 0)) 2
    (newTile 2 0), by decide +kernel⟩,
   ⟨0, 0, sk0, [], [], _, skS, _, _, pair_eq3 (by decide +kernel), pair_eq (by decide +kernel), by decide +kernel⟩,
   ⟨0, 0, 4, xp0, (match (readMatrix 0 0 xp0 16 0 xpS).1 with | .ok b => b | _ => []), [], xpS, (readMatrix 0 0 xp0 16 0 xpS).2,
    (makeWrites 0 0 xp0 (xposeWrites xp0.desc ((match (readMatrix 0 0 xp0 16 0 xpS).1 with | .ok b => b | _ => []))) 0 ((readMatrix 0 0 xp0 16 0 xpS).2)).2,
    by decide +kernel⟩,
   ⟨0, 63, mit { desc0 with rows := 0 } .waiting, movs rdy 0 (mit { desc0 with rows := 0 } .waiting), (.copy 0 63, 1), 0x80,
    by decide +kernel⟩,
   ⟨0, 63, mit { desc0 with dst := tieredEnd } .waiting, mst
    (let s := own (movs rdy 0 (mit { desc0 with dst := tieredEnd } .waiting)) (.stn 0) 0; setPtn s 0 { ptn s 0 with names := [(0, { name := [65], station := 0, pair := false })] })
    0 (fun x => { x with zeroStore := true }), (.copy 0 63, 1), by decide +kernel⟩,
   ⟨0, 63, mit desc0 .waiting, movs rdy 0 (mit desc0 .waiting), (.copy 0 63, 1), [], [], by decide +kernel⟩⟩

/-- Each case of `Obligations.MoverChannels` has a state and operands. -/
theorem witness_moverChannels :
    (∃ (k : Nat) (pid : Nat) (st : Nat) (cpl : Nat) (s : State) (s1 : State) (s2 : State), AcceptReady k pid st cpl s s1 s2 ∧ cplBlocks s
    k = true) ∧
    (∃ (k : Nat) (s : State), k < 1024 ∧ s.stage ≠ Stage.tripped ∧ ownerOf s (Page.mov k) = 255) ∧
    (∃ (k : Nat) (s : State), k < 1024 ∧ s.stage ≠ Stage.tripped ∧ cplBlocks s k = false) ∧
    (∃ (k : Nat) (e : Nat) (it : MovItem) (s : State), k < 1024 ∧ s.stage ≠ Stage.tripped ∧ (mov s k).items = [it] ∧ it.st =
    DescSt.running e ∧ it.slots = [] ∧ it.reads = [] ∧ (mov s k).shown = none ∧ it.desc.total ≤ it.progress) ∧
    (∃ (k : Nat) (e : Nat) (it : MovItem) (s : State), k < 1024 ∧ s.stage ≠ Stage.tripped ∧ (mov s k).items = [it] ∧ it.st =
    DescSt.running e ∧ it.slots = [] ∧ it.reads = [] ∧ (mov s k).shown = none ∧ it.progress < it.desc.total) ∧
    (∃ (k : Nat) (s : State), k < 1024 ∧ s.stage ≠ Stage.tripped ∧ (mov s k).inv = true) ∧
    (∃ (k : Nat) (s : State), k < 1024 ∧ s.stage ≠ Stage.tripped ∧ (mov s k).inv = false) ∧
    (∃ (f : Func) (k : Nat) (it : MovItem) (s : State), f.ok = true ∧ k < 1024 ∧ reach s f (Page.mov k) = true ∧ (mov s k).shown = some
    it.pid ∧ movItem s k it.pid = some it ∧ it.st = DescSt.stopped ∧ stoppedItems s k = [it] ∧ it.slots = []) ∧
    (∃ (k : Nat) (d : Nat) (it : MovItem) (s : State), k < 1024 ∧ s.stage ≠ Stage.tripped ∧ (mov s k).fltDeadline = some d ∧ d ≤ s.mer.frc
    ∧ (mov s k).shown = some it.pid ∧ movItem s k it.pid = some it ∧ it.st = DescSt.stopped ∧ stoppedItems s k = [it] ∧ it.slots = []) ∧
    (∃ (k : Nat) (d : Nat) (s : State), k < 1024 ∧ s.stage ≠ Stage.tripped ∧ (mov s k).fltDeadline = some d ∧ s.mer.frc < d) ∧
    (∃ (f : Func) (k : Nat) (s : State), f.ok = true ∧ k < 1024 ∧ reach s f (Page.mov k) = true ∧ (mov s k).shown = none) :=
  ⟨⟨1023, 5, 3, 9, setMov accS 1023 { mov accS 1023 with blocked := some 5 }, (acquireStake (setMov accS 1023
    { mov accS 1023 with blocked := some 5 }) (movAg 1023) 0 2).2, (takeGranted ((acquireStake (setMov accS 1023
    { mov accS 1023 with blocked := some 5 }) (movAg 1023) 0 2).2) (movAg 1023) 1).2, by decide +kernel⟩,
   ⟨0, rdy, by decide +kernel⟩,
   ⟨0, rdy, by decide +kernel⟩,
   ⟨0, 63, { mit desc0 (.running 63) with progress := 64 }, put (qOn (movs rdy 0 ({ mit desc0 (.running 63) with progress := 64 })) 32 0)
    32 0 [1], by decide +kernel⟩,
   ⟨0, 63, { mit desc0 (.running 63) with progress := 63 }, movs rdy 0 ({ mit desc0 (.running 63) with progress := 63 }),
    by decide +kernel⟩,
   ⟨1023, setMov rdy 1023 { Channel.idle with inv := true }, by decide +kernel⟩,
   ⟨0, rdy, by decide +kernel⟩,
   ⟨.pf, 0, mit desc0 .stopped, setMov (movs rdy 0 (mit desc0 .stopped)) 0
    { Channel.idle with items := [(mit desc0 .stopped)], shown := some 0, fltDeadline := some 5 }, by decide +kernel⟩,
   ⟨0, 5, mit desc0 .stopped,
    { setMov (movs rdy 0 (mit desc0 .stopped)) 0 { Channel.idle with items := [(mit desc0 .stopped)], shown := some 0, fltDeadline := some 5 } with mer := { Meridian.reset with frc := 5 } },
    by decide +kernel⟩,
   ⟨0, 5,
    { setMov (movs rdy 0 (mit desc0 .stopped)) 0 { Channel.idle with items := [mit desc0 .stopped], shown := some 0, fltDeadline := some 5 } with mer := { Meridian.reset with frc := 4 } },
    by decide +kernel⟩,
   ⟨.pf, 1023, rdy, by decide +kernel⟩⟩

/-- Each case of `Obligations.ReserveCommitRead` has a state and operands. -/
theorem witness_reserveCommitRead :
    (∃ (f : Func) (q : Nat) (n : Nat) (prio : Nat) (s : State), QueueReached s f q ∧ prio < 8 ∧ reserveTest s q n = none ∧ (queue s
    q).line = [] ∧ pqAdmit s q (cellsFor n) = true) ∧
    (∃ (f : Func) (q : Nat) (n : Nat) (prio : Nat) (s : State), QueueReached s f q ∧ prio < 8 ∧ reserveTest s q n = none ∧ (queue s
    q).line = [] ∧ pqAdmit s q (cellsFor n) = false) ∧
    (∃ (a : Agent) (q : Nat) (n : Nat) (prio : Nat) (s : State), a.ok = true ∧ q < 16384 ∧ prio < 8 ∧ s.stage ≠ Stage.tripped ∧ agentOwns
    s a q = true ∧ reserveTest s q n = none ∧ (queue s q).line = [] ∧ pqAdmit s q (cellsFor n) = true) ∧
    (∃ (f : Func) (q : Nat) (h : Nat) (len : Nat) (pid : Nat) (x : Parcel) (s : State), QueueReached s f q ∧ byHandle s h = some (pid, x)
    ∧ parcelOf s pid = some x ∧ x.q = q ∧ x.committed = false ∧ len ≤ x.n ∧ (queue s q).stalls = [] ∧ (queue s q).line = [] ∧ 0 < len) ∧
    (∃ (f : Func) (q : Nat) (h : Nat) (len : Nat) (pid : Nat) (x : Parcel) (s : State), QueueReached s f q ∧ byHandle s h = some (pid, x)
    ∧ parcelOf s pid = some x ∧ x.q = q ∧ x.committed = false ∧ len ≤ x.n ∧ (queue s q).stalls = [] ∧ (queue s q).line = [] ∧ len = 0) ∧
    (∃ (f : Func) (q : Nat) (s : State), QueueReached s f q ∧ quiesced s (Page.pq (q / 16)) = false ∧ nextDeliverable s q = none) ∧
    (∃ (f : Func) (q : Nat) (s : State) (l : Nat) (pid : Nat) (x : Parcel), QueueReached s f q ∧ quiesced s (Page.pq (q / 16)) = false ∧
    nextDeliverable s q = some (l, pid) ∧ parcelOf s pid = some x) ∧
    (∃ (a : Agent) (q : Nat) (pid : Nat) (s : State) (s1 : State), a.ok = true ∧ q < 16384 ∧ s.stage ≠ Stage.tripped ∧ agentOwns s a q =
    true ∧ hwRead s a q = (PqRes.parcel pid, s1)) :=
  ⟨⟨.pf, 16383, 56, 7, qOn (part rdy 0) 16383 0, by decide +kernel⟩,
   ⟨.pf, 16383, 57, 0, setQf (put (qOn (part rdy 0) 16383 0) 16383 0 [1]) 16383 F.pq_CELL_LIMIT 2, by decide +kernel⟩,
   ⟨.hif 0 16, 16383, 1, 0, qOn (part rdy 0) 16383 0, by decide +kernel⟩,
   ⟨.pf, 16383, 3, 2, 3, { mkParcel 16383 3 [0, 0] with committed := false, len := 0 }, setParcel (put (qOn (part rdy 0) 16383 0) 16383 3
    [0, 0]) 3 ({ mkParcel 16383 3 [0, 0] with committed := false, len := 0 }), by decide +kernel⟩,
   ⟨.pf, 16383, 3, 0, 3, { mkParcel 16383 3 [0, 0] with committed := false, len := 0 }, setParcel (put (qOn (part rdy 0) 16383 0) 16383 3
    [0, 0]) 3 ({ mkParcel 16383 3 [0, 0] with committed := false, len := 0 }), by decide +kernel⟩,
   ⟨.pf, 0, qOn rdy 0 0, by decide +kernel⟩,
   ⟨.pf, 0, put (qOn rdy 0 0) 0 3 [7], 0, 3, mkParcel 0 3 [7], by decide +kernel⟩,
   ⟨.ten 255, 16, 5, put (qOn (eng 0 0 (fun e => e)) 16 0) 16 5 [7], (hwRead (put (qOn (eng 0 0 (fun e => e)) 16 0) 16 5 [7]) (.ten 255)
    16).2, by decide +kernel⟩⟩

/-- Each case of `Obligations.MarkRewindRelease` has a state and operands. -/
theorem witness_markRewindRelease :
    (∃ (f : Func) (q : Nat) (s : State), QueueReached s f q ∧ mapWf PList.empty (queue s q).lists = true ∧ (queue s q).stalls = []) ∧
    (∃ (f : Func) (q : Nat) (pid : Nat) (x : Parcel) (s : State), QueueReached s f q ∧ (List.flatMap (fun e => List.take e.2.read
    e.2.items) (queue s q).lists = [pid]) ∧ parcelOf s pid = some x) ∧
    (∃ (f : Func) (q : Nat) (h : Nat) (pid : Nat) (x : Parcel) (s : State), QueueReached s f q ∧ byHandle s h = some (pid, x) ∧ parcelOf s
    pid = some x ∧ x.q = q ∧ x.delivered = true) ∧
    (∃ (f : Func) (q : Nat) (h : Nat) (pid : Nat) (x : Parcel) (s : State), QueueReached s f q ∧ byHandle s h = some (pid, x) ∧ parcelOf s
    pid = some x ∧ x.q = q ∧ x.delivered = false) ∧
    (∃ (f : Func) (q : Nat) (s : State) (c : Instr), f.ok = true ∧ q < 16384 ∧ reach s f (Page.pq (q / 16)) = true ∧ qf s q F.pq_ENABLE =
    0 ∧ c ∈ [Instr.mark (Requester.page f) q, Instr.rewind (Requester.page f) q, Instr.release (Requester.page f) q, Instr.read
    (Requester.page f) q]) :=
  ⟨⟨.pf, 0, setQueue (put (put (qOn rdy 0 0) 0 3 [7]) 0 4 [8]) 0
    { Queue.empty with lists := [(0, { items := [3, 4], read := 1, mark := 0 })] }, by decide +kernel⟩,
   ⟨.pf, 0, 3, mkParcel 0 3 [7], setQueue (put (put (qOn rdy 0 0) 0 3 [7]) 0 4 [8]) 0
    { Queue.empty with lists := [(0, { items := [3, 4], read := 1, mark := 0 })] }, by decide +kernel⟩,
   ⟨.pf, 0, 3, 3, { mkParcel 0 3 [7] with delivered := true }, setParcel (setQueue (put (put (qOn rdy 0 0) 0 3 [7]) 0 4 [8]) 0
    { Queue.empty with lists := [(0, { items := [3, 4], read := 1, mark := 0 })] }) 3 ({ mkParcel 0 3 [7] with delivered := true }),
    by decide +kernel⟩,
   ⟨.pf, 0, 4, 4, mkParcel 0 4 [8], setQueue (put (put (qOn rdy 0 0) 0 3 [7]) 0 4 [8]) 0
    { Queue.empty with lists := [(0, { items := [3, 4], read := 1, mark := 0 })] }, by decide +kernel⟩,
   ⟨.pf, 16383, rdy, .mark (.page .pf) 16383, by decide +kernel⟩⟩

/-- Each case of `Obligations.QueueControl` has a state and operands. -/
theorem witness_queueControl :
    (∃ (f : Func) (q : Nat) (s : State), f.ok = true ∧ q < 16384 ∧ reach s f (Page.pq (q / 16)) = true ∧ quiesced s (Page.pq (q / 16)) =
    true ∧ qf s q F.pq_ENABLE = 1 ∧ (∀ w ∈ (queue s q).line, w.owed = none)) ∧
    (∃ (f : Func) (q : Nat) (s : State), f.ok = true ∧ q < 16384 ∧ reach s f (Page.pq (q / 16)) = true ∧ quiesced s (Page.pq (q / 16)) =
    true ∧ qf s q F.pq_ENABLE = 0 ∧ (queue s q).stalls = []) ∧
    (∃ (q : Nat) (s : State), q < 16384 ∧ s.stage ≠ Stage.tripped) ∧
    (∃ (s : State), s.stage ≠ Stage.tripped ∧ (∀ e ∈ s.pool.queues, e.2.line = [])) ∧
    (∃ (f : Func) (g : Nat) (off : Nat) (n : Nat) (pid : Nat) (x : Parcel) (s : State), f.ok = true ∧ g < 1024 ∧ off < 4096 ∧ s.stage ≠
    Stage.tripped ∧ reachWindow s f (Page.pq g) (71303168 + 4096 * g) = true ∧ aligned off n = true ∧ windowParcel s g = some (pid, x) ∧
    (rd s (Page.pq g) F.pq_WIN_OFF + off + n ≤ if x.committed = true then x.len else x.n)) ∧
    (∃ (f : Func) (g : Nat) (off : Nat) (n : Nat) (pid : Nat) (x : Parcel) (s : State) (d : List Byte), f.ok = true ∧ g < 1024 ∧ off <
    4096 ∧ s.stage ≠ Stage.tripped ∧ reachWindow s f (Page.pq g) (71303168 + 4096 * g) = true ∧ aligned off n = true ∧ windowParcel s g =
    some (pid, x) ∧ d.length = n ∧ x.committed = false ∧ rd s (Page.pq g) F.pq_WIN_OFF + off + n ≤ x.n) ∧
    (∃ (f : Func) (g : Nat) (off : Nat) (n : Nat) (pid : Nat) (x : Parcel) (s : State) (d : List Byte), f.ok = true ∧ g < 1024 ∧ off <
    4096 ∧ s.stage ≠ Stage.tripped ∧ reachWindow s f (Page.pq g) (71303168 + 4096 * g) = true ∧ aligned off n = true ∧ windowParcel s g =
    some (pid, x) ∧ d.length = n ∧ x.committed = true) :=
  ⟨⟨.pf, 0, setQf rdy 0 F.pq_ENABLE 1, by decide +kernel⟩,
   ⟨.pf, 16383, rdy, by decide +kernel⟩,
   ⟨16383, rdy, by decide +kernel⟩,
   ⟨{ rdy with pool := { rdy.pool with zeroing := [5, 6, 7] } }, by decide +kernel⟩,
   ⟨.pf, 0, 2, 2, 3, mkParcel 15 3 [7, 8, 9, 10], wr (wr (put (qOn rdy 15 0) 15 3 [7, 8, 9, 10]) (.pq 0) F.pq_WIN_HANDLE 3) (.pq 0)
    F.pq_WIN_OFF 0, by decide +kernel⟩,
   ⟨.pf, 0, 2, 2, 3, { mkParcel 15 3 [7, 8, 9, 10] with committed := false }, setParcel (wr (wr (put (qOn rdy 15 0) 15 3 [7, 8, 9, 10])
    (.pq 0) F.pq_WIN_HANDLE 3) (.pq 0) F.pq_WIN_OFF 0) 3 ({ mkParcel 15 3 [7, 8, 9, 10] with committed := false }), [1, 2],
    by decide +kernel⟩,
   ⟨.pf, 0, 2, 2, 3, mkParcel 15 3 [7, 8, 9, 10], wr (wr (put (qOn rdy 15 0) 15 3 [7, 8, 9, 10]) (.pq 0) F.pq_WIN_HANDLE 3) (.pq 0)
    F.pq_WIN_OFF 0, [1, 2], by decide +kernel⟩⟩

/-- Each case of `Obligations.TimeDomainReset` has a state and operands. -/
theorem witness_timeDomainReset :
    (∃ (f : Func) (s : State), f.ok = true ∧ reach s f Page.mer = true ∧ quiesced s Page.mer = true) ∧
    (∃ (cause : Nat) (s : State), (cause = 0 ∧ resetOpen s = true ∨ cause = 3 ∨ cause = 4 ∨ cause = 5)) :=
  ⟨⟨.pf, rdy, by decide +kernel⟩,
   ⟨3, rdy, by decide +kernel⟩⟩

/-- Each case of `Obligations.MeridianTime` has a state and operands. -/
theorem witness_meridianTime :
    (∃ (s : State), s.mer.locked = true) ∧
    (∃ (s : State), s.mer.locked = false) ∧
    (∃ (f : Func) (s : State), f.ok = true ∧ reach s f Page.mer = true ∧ stepRefused s = true) ∧
    (∃ (f : Func) (s : State), f.ok = true ∧ reach s f Page.mer = true ∧ stepRefused s = false) ∧
    (∃ (f : Func) (v : Nat) (s : State), f.ok = true ∧ v < 2 ^ 64 ∧ reach s f Page.mer = true ∧ 2 ^ 36 < (signed 64 v).natAbs) ∧
    (∃ (f : Func) (v : Nat) (s : State), f.ok = true ∧ v < 2 ^ 64 ∧ reach s f Page.mer = true ∧ (signed 64 v).natAbs ≤ 2 ^ 36) ∧
    (∃ (f : Func) (v : Nat) (s : State), f.ok = true ∧ v < 2 ^ 64 ∧ reach s f Page.mer = true ∧ 2 ^ 52 < (s.mer.rem + signed 64 v).natAbs) ∧
    (∃ (f : Func) (v : Nat) (s : State), f.ok = true ∧ v < 2 ^ 64 ∧ reach s f Page.mer = true ∧ (s.mer.rem + signed 64 v).natAbs ≤ 2 ^ 52) ∧
    (∃ (s : State), s.pending = [] ∧ s.mer.frc + 1 < 2 ^ 64) :=
  ⟨⟨{ rdy with mer := { Meridian.reset with locked := true } }, by decide +kernel⟩,
   ⟨rdy, by decide +kernel⟩,
   ⟨.pf, { rdy with mer := { Meridian.reset with stepUsed := true } }, by decide +kernel⟩,
   ⟨.pf, wr rdy .mer F.mer_STEP_NS 999999999, by decide +kernel⟩,
   ⟨.pf, 2 ^ 36 + 1, rdy, by decide +kernel⟩,
   ⟨.pf, 2 ^ 64 - 2 ^ 36, rdy, by decide +kernel⟩,
   ⟨.pf, 1, { rdy with mer := { Meridian.reset with rem := 2 ^ 52 } }, by decide +kernel⟩,
   ⟨.pf, 1, { rdy with mer := { Meridian.reset with rem := 2 ^ 52 - 1 } }, by decide +kernel⟩,
   ⟨{ rdy with mer := { Meridian.reset with frc := 2 ^ 64 - 2 } }, by decide +kernel⟩⟩

/-- Each case of `Obligations.MeridianReadsAndPins` has a state and operands. -/
theorem witness_meridianReadsAndPins :
    (∃ (f : Func) (s : State), f.ok = true ∧ reach s f Page.mer = true) ∧
    (∃ (f : Func) (q : Nat) (s : State), f.ok = true ∧ reach s f Page.mer = true ∧ rd s Page.mer F.mer_TSQ_SEL = q ∧ q < 40 ∧ mapGet []
    s.mer.tsq q = []) ∧
    (∃ (f : Func) (q : Nat) (s : State) (e : Stamp) (rest : List Stamp), f.ok = true ∧ reach s f Page.mer = true ∧ rd s Page.mer
    F.mer_TSQ_SEL = q ∧ q < 40 ∧ mapGet [] s.mer.tsq q = e :: rest) ∧
    (∃ (s : State), rd s Page.mer F.mer_PPS_IN_EN = 1) ∧
    (∃ (s : State), rd s Page.mer F.mer_PPS_IN_EN = 0) ∧
    (∃ (s : State), rd s Page.mer F.mer_PPS_OUT_EN = 1 ∧ s.mer.timeValid = true ∧ s.mer.ppsDue = true) ∧
    (∃ (s : State), (s.mer.timeValid = false ∨ s.mer.ppsDue = false)) :=
  ⟨⟨.pf, rdy, by decide +kernel⟩,
   ⟨.pf, 39, wr rdy .mer F.mer_TSQ_SEL 39, by decide +kernel⟩,
   ⟨.pf, 0, { rdy with mer := { Meridian.reset with tsq := [(0, [{ id := 7, lin := 8, frac := 9 }])] } },
    { id := 7, lin := 8, frac := 9 }, [], by decide +kernel⟩,
   ⟨wr rdy .mer F.mer_PPS_IN_EN 1, by decide +kernel⟩,
   ⟨rdy, by decide +kernel⟩,
   ⟨wr
    ({ rdy with mer := { Meridian.reset with timeValid := true, stepUsed := true, frc := 1, anchorT := 1000000000 * 2 ^ 48, anchorN := 1, ppsDue := true } })
    .mer F.mer_PPS_OUT_EN 1, by decide +kernel⟩,
   ⟨wr rdy .mer F.mer_PPS_IN_EN 1, by decide +kernel⟩⟩

/-- Each case of `Obligations.TimeTriggers` has a state and operands. -/
theorem witness_timeTriggers :
    (∃ (f : Func) (k : Nat) (s : State), f.ok = true ∧ k < 64 ∧ reach s f Page.mer = true ∧ 2 ≤ k ∧ k < 8) ∧
    (∃ (f : Func) (k : Nat) (s : State), f.ok = true ∧ k < 64 ∧ reach s f Page.mer = true ∧ 8 ≤ k ∧ k < 24) ∧
    (∃ (f : Func) (k : Nat) (s : State), f.ok = true ∧ k < 64 ∧ reach s f Page.mer = true ∧ (k < 2 ∨ 24 ≤ k) ∧ trgArmed s k = false ∧ (k =
    0 → platRunning s = false) ∧ armBad s k = true) ∧
    (∃ (f : Func) (k : Nat) (s : State), f.ok = true ∧ k < 64 ∧ reach s f Page.mer = true ∧ (k < 2 ∨ 24 ≤ k) ∧ trgArmed s k = false ∧ (k =
    0 → platRunning s = false) ∧ armBad s k = false ∧ timeNow s ≤ trgLead s k) ∧
    (∃ (f : Func) (k : Nat) (s : State), f.ok = true ∧ k < 64 ∧ reach s f Page.mer = true ∧ (k < 2 ∨ 24 ≤ k) ∧ trgArmed s k = false ∧ (k =
    0 → platRunning s = false) ∧ armBad s k = false ∧ trgLead s k < timeNow s) ∧
    (∃ (f : Func) (k : Nat) (s : State), f.ok = true ∧ k < 64 ∧ reach s f Page.mer = true ∧ (k < 2 ∨ 24 ≤ k) ∧ trgArmed s k = true ∧
    mapFind s.mer.fireAt k = none) ∧
    (∃ (f : Func) (k : Nat) (s : State) (n : Nat), f.ok = true ∧ k < 64 ∧ reach s f Page.mer = true ∧ (k < 2 ∨ 24 ≤ k) ∧ trgArmed s k =
    true ∧ mapFind s.mer.fireAt k = some n) ∧
    (∃ (k : Nat) (s : State), k < 64 ∧ s.stage ≠ Stage.tripped ∧ trgArmed s k = true ∧ mapFind s.mer.fireAt k = none ∧ timeNow s < trgLead
    s k) ∧
    (∃ (k : Nat) (s : State), k < 64 ∧ s.stage ≠ Stage.tripped ∧ trgArmed s k = true ∧ mapFind s.mer.fireAt k = none ∧ trgLead s k ≤
    timeNow s ∧ quiesced s Page.mer = false) ∧
    (∃ (k : Nat) (s : State), k < 64 ∧ s.stage ≠ Stage.tripped ∧ trgArmed s k = true ∧ mapFind s.mer.fireAt k = none ∧ trgLead s k ≤
    timeNow s ∧ quiesced s Page.mer = true ∧ (k < 8 ∨ 24 ≤ k)) ∧
    (∃ (k : Nat) (n : Nat) (s : State), k < 64 ∧ s.stage ≠ Stage.tripped ∧ mapFind s.mer.fireAt k = some n ∧ s.mer.frc < n) ∧
    (∃ (k : Nat) (n : Nat) (s : State), k < 64 ∧ s.stage ≠ Stage.tripped ∧ mapFind s.mer.fireAt k = some n ∧ n ≤ s.mer.frc ∧ 56 ≤ k) :=
  ⟨⟨.pf, 7, rdy, by decide +kernel⟩,
   ⟨.pf, 23, rdy, by decide +kernel⟩,
   ⟨.pf, 63, rdy, by decide +kernel⟩,
   ⟨.pf, 63, wr ({ rdy with mer := { Meridian.reset with timeValid := true } }) .mer (F.mer_AT.ix 63) (10 ^ 9), by decide +kernel⟩,
   ⟨.pf, 0, { rdy with mer := { Meridian.reset with timeValid := true } }, by decide +kernel⟩,
   ⟨.pf, 1, wr (wr (rdy) .mer (F.mer_AT.ix 1) (0)) .mer (F.mer_ARM.ix 1) 1, by decide +kernel⟩,
   ⟨.pf, 63, wr (wr ({ rdy with mer := { Meridian.reset with fireAt := [(63, 9)] } }) .mer (F.mer_AT.ix 63) (0)) .mer (F.mer_ARM.ix 63)
    1, 9, by decide +kernel⟩,
   ⟨0, wr (wr (rdy) .mer (F.mer_AT.ix 0) (10 ^ 9)) .mer (F.mer_ARM.ix 0) 1, by decide +kernel⟩,
   ⟨63, act1 (wr (wr ({ rdy with mer := { Meridian.reset with timeValid := true } }) .mer (F.mer_AT.ix 63) (0)) .mer (F.mer_ARM.ix 63) 1)
    .mer, by decide +kernel⟩,
   ⟨7, wr (wr (rdy) .mer (F.mer_AT.ix 7) (0)) .mer (F.mer_ARM.ix 7) 1, by decide +kernel⟩,
   ⟨0, 9, { rdy with mer := { Meridian.reset with frc := 8, fireAt := [(0, 9)] } }, by decide +kernel⟩,
   ⟨56, 9, { rdy with mer := { Meridian.reset with frc := 9, fireAt := [(56, 9)] } }, by decide +kernel⟩⟩

/-- Each case of `Obligations.PlatRuns` has a state and operands. -/
theorem witness_platRuns :
    (∃ (s : State), s.stage ≠ Stage.tripped ∧ ↑s.mer.frc < rowEnd s) ∧
    (∃ (s : State), s.stage ≠ Stage.tripped ∧ platRunning s = true ∧ s.plat.stopping = false ∧ rowEnd s ≤ ↑s.mer.frc ∧ s.plat.row ≠ 159) ∧
    (∃ (s : State), s.stage ≠ Stage.tripped ∧ platRunning s = true ∧ s.plat.stopping = false ∧ rowEnd s ≤ ↑s.mer.frc ∧ s.plat.row = 159 ∧
    s.plat.trim = [] ∧ s.plat.stopReq = false) ∧
    (∃ (s : State), s.stage ≠ Stage.tripped ∧ platRunning s = true ∧ s.plat.stopping = true ∧ s.plat.items = [] ∧ s.plat.slots = []) ∧
    (∃ (s : State), s.stage ≠ Stage.tripped ∧ s.plat.items ≠ []) ∧
    (∃ (i : Nat) (k : Nat) (g : Grant) (s : State) (s2 : State), takeStake (slotBegin s (activePattern s) s.plat.frame g.cell g.slot)
    lcAcct 3 = some (k, s2) ∧ (∀ (m : ℕ), m = g.unit ∨ m = g.unit - 1 → (stn s m).job = none ∧ (stn s m).lentPending = none) ∧ s.stage ≠
    Stage.tripped ∧ platRunning s = true ∧ (∀ w ∈ s.plat.items, w.grant ≠ i) ∧ s.plat.stopping = false ∧ i ∉ s.plat.sent ∧ i ∈ rowGrants s
    (activePattern s) s.plat.row ∧ grantOf s (activePattern s) i = g ∧ g.kind = 6 ∧ unitUp s g.unit = true ∧ (cellOf s (activePattern s)
    g.cell).ptn ∉ s.plat.rtClear) ∧
    (∃ (n : Nat) (k : Nat) (p : Nat) (b : List Byte) (w : WorkItem) (g : Grant) (s : State), n < 144 ∧ s.stage ≠ Stage.tripped ∧ (stn s
    n).lentPending = some (k, b) ∧ itemOfStake s k = some w ∧ grantOf s w.pattern w.grant = g ∧ g.kind = 6 ∧ g.unit = n ∧ (cellOf s
    w.pattern g.cell).ptn = p ∧ lentFree s n = true) ∧
    (∃ (i : Nat) (s : State), s.stage ≠ Stage.tripped ∧ (∀ w ∈ s.plat.items, w.grant = i → s.mer.frc < w.rowStart + (grantOf s w.pattern
    i).endOff)) ∧
    (∃ (i : Nat) (s : State) (w : WorkItem), s.stage ≠ Stage.tripped ∧ (List.find? (fun w => decide (w.grant = i) && decide (w.rowStart +
    (grantOf s w.pattern i).endOff ≤ s.mer.frc)) s.plat.items = some w) ∧ itemStarted s w (grantOf s w.pattern i) = false) :=
  ⟨⟨platS, by decide +kernel⟩,
   ⟨{ platS with mer := { Meridian.reset with frc := 62500 }, plat := { platS.plat with row := 158 } }, by decide +kernel⟩,
   ⟨{ platS with mer := { Meridian.reset with frc := 62500 }, plat := { platS.plat with row := 159 } }, by decide +kernel⟩,
   ⟨{ platS with plat := { platS.plat with stopping := true } }, by decide +kernel⟩,
   ⟨{ platS with plat := { platS.plat with items := [{ grant := 0, pattern := 0, frame := 0, row := 0, rowStart := 0, stake := 0, done := none }] } },
    by decide +kernel⟩,
   ⟨0, 0, (grantOf platS 0 0), sh (qOn platS 16 0) .plt F.plt_STAKE_RT 4,
    (match takeStake (slotBegin (sh (qOn platS 16 0) .plt F.plt_STAKE_RT 4) 0 0 0 0) lcAcct 3 with | some x => x.2 | none => rdy), rfl,
    by rintro _ (rfl | rfl) <;> decide +kernel, by decide +kernel⟩,
   ⟨0, 0, 0, [7], { grant := 0, pattern := 0, frame := 0, row := 0, rowStart := 0, stake := 0, done := none }, (grantOf platS 0 0), mst
    ({ platS with plat := { platS.plat with items := [{ grant := 0, pattern := 0, frame := 0, row := 0, rowStart := 0, stake := 0, done := none }] } })
    0 (fun x => { x with lent := true, lentPending := some (0, [7]) }), by decide +kernel⟩,
   ⟨0,
    { platS with plat := { platS.plat with items := [{ grant := 0, pattern := 0, frame := 0, row := 0, rowStart := 0, stake := 0, done := none }] } },
    by decide +kernel⟩,
   ⟨0,
    { platS with mer := { Meridian.reset with frc := 62500 }, plat := { platS.plat with items := [{ grant := 0, pattern := 0, frame := 0, row := 0, rowStart := 0, stake := 0, done := none }] } },
    { grant := 0, pattern := 0, frame := 0, row := 0, rowStart := 0, stake := 0, done := none }, by decide +kernel⟩⟩

/-- Each case of `Obligations.PatternCommands` has a state and operands. -/
theorem witness_patternCommands :
    (∃ (p : Nat) (o : Nat) (size : Nat) (s : State), s.stage = Stage.ready ∧ p < 4 ∧ o < 1048576 ∧ (size = 4 ∨ size = 8) ∧ o % size = 0) ∧
    (∃ (p : Nat) (s : State) (c : Instr), p < 4 ∧ reach s Func.pf Page.plt = true ∧ rd s Page.plt F.plt_BUSY = 1 ∧ c ∈
    [Instr.patternCommit Func.pf p, Instr.uncommit Func.pf p, Instr.stop Func.pf]) ∧
    (∃ (p : Nat) (s : State), p < 4 ∧ reach s Func.pf Page.plt = true ∧ rd s Page.plt F.plt_BUSY = 0 ∧ committed s p = true ∧
    activePattern s ≠ p ∧ ef s Page.plt F.plt_NEXT_PATTERN ≠ p) ∧
    (∃ (p : Nat) (s : State), p < 4 ∧ reach s Func.pf Page.plt = true ∧ rd s Page.plt F.plt_BUSY = 0 ∧ (committed s p = false ∨
    activePattern s = p ∨ ef s Page.plt F.plt_NEXT_PATTERN = p)) ∧
    (∃ (p : Nat) (s : State), p < 4 ∧ reach s Func.pf Page.plt = true ∧ rd s Page.plt F.plt_BUSY = 0 ∧ platRunning s = true ∧
    s.plat.stopping = false) ∧
    (∃ (p : Nat) (s : State), p < 4 ∧ reach s Func.pf Page.plt = true ∧ rd s Page.plt F.plt_BUSY = 0 ∧ platRunning s = false) ∧
    (∃ (p : Nat) (s : State) (e : Fail), s.stage ≠ Stage.tripped ∧ s.plat.cmd = some p ∧ commitFail
    { s with plat := { s.plat with cmd := none } } p = some e ∧ e.1 < 16 ∧ e.2.1 < 256 ∧ e.2.2 < 65536) ∧
    (∃ (p : Nat) (s : State), commitFail { s with plat := { s.plat with cmd := none } } p = none ∧ s.stage ≠ Stage.tripped ∧ s.plat.cmd =
    some p) ∧
    (∃ (v : Nat) (s : State), v < 65536 ∧ reach s Func.pf Page.plt = true ∧ -1000 ≤ signed 16 v ∧ signed 16 v ≤ 1000) ∧
    (∃ (v : Nat) (s : State), v < 65536 ∧ reach s Func.pf Page.plt = true ∧ (signed 16 v < -1000 ∨ 1000 < signed 16 v)) ∧
    (∃ (v : Nat) (k : Stake) (s : State), v < 65536 ∧ reach s Func.pf Page.plt = true ∧ mapFind s.plat.stakes v = some k ∧ k.state < 4 ∧
    k.ptn < 64 ∧ k.kind < 8) :=
  ⟨⟨3, 1048568, 8, rdy, by decide +kernel⟩,
   ⟨3, wr rdy .plt F.plt_BUSY 1, .stop .pf, by decide +kernel⟩,
   ⟨3, { rdy with plat := { Plat.reset with committed := [(3, true)] } }, by decide +kernel⟩,
   ⟨0, rdy, by decide +kernel⟩,
   ⟨0, platS, by decide +kernel⟩,
   ⟨0, rdy, by decide +kernel⟩,
   ⟨3, { rdy with plat := { Plat.reset with cmd := some 3, committed := [(3, true)] } }, (1, 255, 0), by decide +kernel⟩,
   ⟨3, { rdy with plat := { Plat.reset with cmd := some 3 } }, commitFail_empty rfl rfl, by decide +kernel⟩,
   ⟨1000, rdy, by decide +kernel⟩,
   ⟨1001, rdy, by decide +kernel⟩,
   ⟨65535, { state := 2, ptn := 63, kind := 7 },
    { rdy with plat := { Plat.reset with stakes := [(65535, { state := 2, ptn := 63, kind := 7 })] } }, by decide +kernel⟩⟩

/-- Each case of `Obligations.PowerGovernor` has a state and operands. -/
theorem witness_powerGovernor :
    (∃ (s : State), s.pwr.pwrok = false) ∧
    (∃ (r : RowPower) (s : State), s.stage ≠ Stage.tripped ∧ s.pwr.pwrok = true ∧ s.pwr.pending = none ∧ tempOver r 95 90 = true ∧
    s.pwr.level < clockPoints s.part.grade ∧ rd s Page.plt F.plt_RUNNING = 1) ∧
    (∃ (r : RowPower) (s : State), s.stage ≠ Stage.tripped ∧ s.pwr.pwrok = true ∧ s.pwr.pending = none ∧ tempOver r 95 90 = true ∧
    s.pwr.level < clockPoints s.part.grade ∧ rd s Page.plt F.plt_RUNNING = 0) ∧
    (∃ (r : RowPower) (s : State), s.stage ≠ Stage.tripped ∧ s.pwr.pwrok = true ∧ s.pwr.pending = none ∧ tempOver r 95 90 = false ∧
    avgOver (recordRow s r) = false ∧ r.energy ≤ 75 * plEff (recordRow s r) ∧ s.pwr.calm < 159) ∧
    (∃ (s : State), s.stage ≠ Stage.tripped ∧ s.pwr.energies = []) ∧
    (∃ (s : State) (e : Nat) (l : List Nat), s.stage ≠ Stage.tripped ∧ s.pwr.energies = e :: l ∧ rd s Page.plt F.plt_RUNNING = 0) ∧
    (∃ (v : Nat) (s : State), s.stage = Stage.ready ∧ v < 65536) ∧
    (∃ (r : RowPower) (s : State), s.pwr.pwrok = true ∧ tempOver r 105 100 = true) ∧
    (∃ (r : RowPower) (s : State), (s.pwr.pwrok = false ∨ tempOver r 105 100 = false)) ∧
    (∃ (r : RowPower) (s : State), s.pwr.crit = true ∧ tempOver r 91 86 = false) ∧
    (∃ (r : RowPower), tempOver r 91 86 = true) ∧
    (∃ (r : RowPower) (s : State), tempOver r 115 105 = true ∧ s.stage ≠ Stage.tripped) ∧
    (∃ (r : RowPower), tempOver r 115 105 = false) :=
  ⟨⟨pwr0, by decide +kernel⟩,
   ⟨{ energy := 0, tSec := [95], tHub := 0, tHbm := [] }, wr rdy .plt F.plt_RUNNING 1, by decide +kernel⟩,
   ⟨{ energy := 0, tSec := [95], tHub := 0, tHbm := [] }, rdy, by decide +kernel⟩,
   ⟨{ energy := 0, tSec := [94], tHub := 0, tHbm := [] }, { rdy with pwr := { Power.reset with calm := 158 } }, by decide +kernel⟩,
   ⟨rdy, by decide +kernel⟩,
   ⟨{ rdy with pwr := { Power.reset with energies := [5] } }, 5, [], by decide +kernel⟩,
   ⟨65535, rdy, by decide +kernel⟩,
   ⟨{ energy := 0, tSec := [105], tHub := 0, tHbm := [] }, rdy, by decide +kernel⟩,
   ⟨{ energy := 0, tSec := [104], tHub := 0, tHbm := [] }, rdy, by decide +kernel⟩,
   ⟨{ energy := 0, tSec := [90], tHub := 0, tHbm := [] }, { rdy with pwr := { Power.reset with crit := true } }, by decide +kernel⟩,
   ⟨{ energy := 0, tSec := [91], tHub := 0, tHbm := [] }, by decide +kernel⟩,
   ⟨{ energy := 0, tSec := [115], tHub := 0, tHbm := [] }, rdy, by decide +kernel⟩,
   ⟨{ energy := 0, tSec := [114], tHub := 0, tHbm := [] }, by decide +kernel⟩⟩

/-- Each case of `Obligations.TransitControl` has a state and operands. -/
theorem witness_transitControl :
    (∃ (t : Nat) (k : Nat) (w : Nat) (s : State), SlotIssues s t k w 16) ∧
    (∃ (t : Nat) (k : Nat) (w : Nat) (s : State), SlotIssues s t k w 17) ∧
    (∃ (t : Nat) (k : Nat) (w : Nat) (s : State), SlotIssues s t k w 18) ∧
    (∃ (t : Nat) (k : Nat) (w : Nat) (s : State), SlotIssues s t k w 20) ∧
    (∃ (t : Nat) (k : Nat) (w : Nat) (s : State) (r : Nat), SlotIssues s t k w 28 ∧ (ten s t).handler = some r) ∧
    (∃ (t : Nat) (k : Nat) (w : Nat) (s : State), SlotIssues s t k w 25) ∧
    (∃ (t : Nat) (k : Nat) (w : Nat) (s : State), SlotIssues s t k w 26) ∧
    (∃ (t : Nat) (k : Nat) (w : Nat) (s : State), SlotIssues s t k w 24 ∧ qOwner s (bits (kReg (ten s t) (tA w)) 0 14) = (ten s t).ptn) ∧
    (∃ (t : Nat) (k : Nat) (w : Nat) (s : State), SlotIssues s t k w 24 ∧ qOwner s (bits (kReg (ten s t) (tA w)) 0 14) ≠ (ten s t).ptn) ∧
    (∃ (t : Nat) (s : State) (c : Instr), t < 256 ∧ s.stage ≠ Stage.tripped ∧ (ten s t).item.isSome = true ∧ (ten s t).slots = [] ∧
    s.mer.frc < (ten s t).endTick ∧ boundaryOpen (ten s t) = false ∧ bundleIllegal (ten s t) = true ∧ c ∈ [Instr.tenNop t 0, Instr.tenSeti
    t 0, Instr.seth t 0, Instr.tenAddi t 0, Instr.alu t 0, Instr.rdt t 0, Instr.br t 0, Instr.brz t 0, Instr.brnz t 0, Instr.rep t 0,
    Instr.sqh t 0, Instr.stc t 0, Instr.setiv t 0, Instr.rdi t 0, Instr.rti t 0, Instr.tenEnd t 0]) ∧
    (∃ (t : Nat) (s : State) (c : Instr), t < 256 ∧ s.stage ≠ Stage.tripped ∧ (ten s t).item.isSome = true ∧ (ten s t).slots = [] ∧
    s.mer.frc < (ten s t).endTick ∧ boundaryOpen (ten s t) = false ∧ bundleIllegal (ten s t) = true ∧ c ∈ [Instr.prd t 0, Instr.pwr t 0]) ∧
    (∃ (t : Nat) (w : Nat) (c : Nat) (s : State), SlotIssues s t 3 w 0 ∧ (ten s t).fault = some c ∧ isMem ((ten s t).slots.getD 1 0) =
    false) ∧
    (∃ (t : Nat) (w : Nat) (s : State), SlotIssues s t 3 w 0 ∧ (ten s t).fault = none ∧ (ten s t).ending = false ∧ (ten s t).branch = none
    ∧ (ten s t).rep = none ∧ isMem ((ten s t).slots.getD 1 0) = false) :=
  ⟨⟨255, 0, tw 0x10 0 0 0 0x7FF, eng 0 (tw 0x10 0 0 0 0x7FF) (fun e => e), by decide +kernel⟩,
   ⟨255, 0, tw 0x11 0 1 0 5, eng 0 (tw 0x11 0 1 0 5) (fun e => e), by decide +kernel⟩,
   ⟨255, 0, tw 0x12 0 1 0 5, eng 0 (tw 0x12 0 1 0 5) (fun e => e), by decide +kernel⟩,
   ⟨255, 0, tw 0x14 0 0 0 0xFFF, eng 0 (tw 0x14 0 0 0 0xFFF) (fun e => e), by decide +kernel⟩,
   ⟨255, 0, tw 0x1C 0 0 0 0, eng 0 (tw 0x1C 0 0 0 0) (fun e => { e with handler := some 7 }), 7, by decide +kernel⟩,
   ⟨255, 0, tw 0x19 0 1 0 0, eng 0 (tw 0x19 0 1 0 0) (fun e => e), by decide +kernel⟩,
   ⟨255, 0, tw 0x1A 0 1 0 7, eng 0 (tw 0x1A 0 1 0 7) (fun e => e), by decide +kernel⟩,
   ⟨255, 0, tw 0x18 0 1 0 1, own (eng 0 (tw 0x18 0 1 0 1) (fun e => { e with k := [(1, 16)] })) (.pq 1) 0, by decide +kernel⟩,
   ⟨255, 0, tw 0x18 0 1 0 0, eng 0 (tw 0x18 0 1 0 0) (fun e => { e with k := [(1, 16)] }), by decide +kernel⟩,
   ⟨255, eng 0 (tw 0x06 0 0 0 0) (fun e => e), .tenNop 255 0, by decide +kernel⟩,
   ⟨255, eng 0 (tw 0x06 0 0 0 0) (fun e => e), .prd 255 0, by decide +kernel⟩,
   ⟨255, 0, 0x91, eng 3 0 (fun e => { e with fault := some 0x91 }), by decide +kernel⟩,
   ⟨255, 0, eng 3 0 (fun e => e), by decide +kernel⟩⟩

/-- Each case of `Obligations.TransitScalars` has a state and operands. -/
theorem witness_transitScalars :
    (∃ (t : Nat) (k : Nat) (w : Nat) (s : State), SlotIssues s t k w 0) ∧
    (∃ (t : Nat) (k : Nat) (w : Nat) (s : State), SlotIssues s t k w 1) ∧
    (∃ (t : Nat) (k : Nat) (w : Nat) (s : State), SlotIssues s t k w 2) ∧
    (∃ (t : Nat) (k : Nat) (w : Nat) (s : State), SlotIssues s t k w 3) ∧
    (∃ (t : Nat) (k : Nat) (w : Nat) (s : State) (a : BitVec 32) (b : BitVec 32) (c : Nat × BitVec 32), SlotIssues s t k w 4 ∧ kReg (ten s
    t) (tA w) = a.toNat ∧ kReg (ten s t) (tB w) = b.toNat ∧ (c ∈ [(0, a + b), (1, a - b), (2, a &&& b), (3, a ||| b), (4, a ^^^ b), (5, a
    <<< (b.toNat % 32)), (6, a.sshiftRight (b.toNat % 32)), (7, a >>> (b.toNat % 32)), (8, if a.sle b = true then a else b), (9, if a.sle
    b = true then b else a)]) ∧ bits w 0 4 = c.1) ∧
    (∃ (t : Nat) (k : Nat) (w : Nat) (s : State), SlotIssues s t k w 5) ∧
    (∃ (t : Nat) (k : Nat) (w : Nat) (s : State), SlotIssues s t k w 27) ∧
    (∃ (t : Nat) (k : Nat) (w : Nat) (q : Nat) (pid : Nat) (a : Nat) (n : Nat) (s : State) (s1 : State) (s2 : State), SlotIssues s t k w
    32 ∧ handleQ (ten s t) (bits w 0 2) = some q ∧ qOwner s q = (ten s t).ptn ∧ (takeEnded s (tenAg t) (readToken q)).1 = none ∧ hwRead s
    (tenAg t) q = (PqRes.parcel pid, s1) ∧ a = kReg (ten s t) (tA w) ∧ n = min (payload s1 pid).length (kReg (ten s t) (tB w)) ∧ a + n ≤
    262144 ∧ (a % 128 = 0 ∧ (a + n) % 128 = 0 ∨ rd s1 (Page.ten t) F.INJ_ARM = 0 ∧ sramBad s1 (Page.ten t) (lineEnds a n) = false) ∧ (s2 =
    if a % 128 = 0 ∧ (a + n) % 128 = 0 then s1 else softRead s1 (Page.ten t) (lineEnds a n))) ∧
    (∃ (t : Nat) (k : Nat) (w : Nat) (q : Nat) (pid : Nat) (s : State) (s1 : State) (s2 : State), s2 = softRead (countWait (setTen s1 t
    ({ (ten s t) with staged := (ten s t).staged ++ [pid] })) t) (Page.ten t) [(kReg (ten s t) (tA w), kReg (ten s t) (tB w))] ∧
    SlotIssues s t k w 33 ∧ handleQ (ten s t) (bits w 0 2) = some q ∧ qOwner s q = (ten s t).ptn ∧ (ten s t).staged.length < (ten s
    t).stageMax ∧ kReg (ten s t) (tA w) + kReg (ten s t) (tB w) ≤ 262144 ∧ takeGranted s (tenAg t) 1 = (some pid, s1) ∧ rd s (Page.ten t)
    F.INJ_ARM = 0 ∧ sramBad s (Page.ten t) [(kReg (ten s t) (tA w), kReg (ten s t) (tB w))] = false) ∧
    (∃ (t : Nat) (k : Nat) (w : Nat) (s : State), SlotIssues s t k w 63) ∧
    (∃ (t : Nat) (w : Nat) (s : State), SlotIssues s t 3 w 0 ∧ (ten s t).fault = none ∧ (ten s t).ending = true ∧ isMem ((ten s
    t).slots.getD 1 0) = false) :=
  ⟨⟨255, 0, 0, eng 0 (0) (fun e => e), by decide +kernel⟩,
   ⟨255, 0, tw 0x01 15 0 0 0 + 0xFFFF, eng 0 (tw 0x01 15 0 0 0 + 0xFFFF) (fun e => e), by decide +kernel⟩,
   ⟨255, 0, tw 0x02 15 0 0 0 + 0xFFFF, eng 0 (tw 0x02 15 0 0 0 + 0xFFFF) (fun e => { e with k := [(15, 7)] }), by decide +kernel⟩,
   ⟨255, 0, tw 0x03 1 2 0 0xFFF, eng 0 (tw 0x03 1 2 0 0xFFF) (fun e => { e with k := [(2, 7)] }), by decide +kernel⟩,
   ⟨255, 0, tw 0x04 1 2 3 9, eng 0 (tw 0x04 1 2 3 9) (fun e => { e with k := [(2, 0xFFFFFFFF), (3, 5)] }), 0xFFFFFFFF, 5, (9, if
    (0xFFFFFFFF : BitVec 32).sle 5 = true then 5 else 0xFFFFFFFF), by decide +kernel⟩,
   ⟨255, 0, tw 0x05 1 0 0 0, eng 0 (tw 0x05 1 0 0 0) (fun e => e), by decide +kernel⟩,
   ⟨255, 0, tw 0x1B 1 0 0 0, eng 0 (tw 0x1B 1 0 0 0) (fun e => e), by decide +kernel⟩,
   ⟨255, 0, tw 0x20 1 2 3 0, 16, 5, 262142, 2, put (qOn (eng 0 (tw 0x20 1 2 3 0) (fun e =>
    { e with qin := 16, k := [(2, 262142), (3, 2)] })) 16 0) 16 5 [7, 8], (hwRead (put (qOn (eng 0 (tw 0x20 1 2 3 0) (fun e =>
    { e with qin := 16, k := [(2, 262142), (3, 2)] })) 16 0) 16 5 [7, 8]) (.ten 255) 16).2, softRead ((hwRead (put (qOn (eng 0 (tw 0x20 1
    2 3 0) (fun e => { e with qin := 16, k := [(2, 262142), (3, 2)] })) 16 0) 16 5 [7, 8]) (.ten 255) 16).2) (.ten 255) (lineEnds 262142
    2), by decide +kernel⟩,
   ⟨255, 0, tw 0x21 0 2 3 1, 16, 5,
    (let s := put (qOn (eng 0 (tw 0x21 0 2 3 1) (fun e => { e with qout := 16, k := [(2, 262142), (3, 2)] })) 16 0) 16 5 [7, 8]; { s with pool := { s.pool with granted := [(.ten 255, 1, 5)] } }),
    (takeGranted ((let s := put (qOn (eng 0 (tw 0x21 0 2 3 1) (fun e => { e with qout := 16, k := [(2, 262142), (3, 2)] })) 16 0) 16 5 [7, 8]; { s with pool := { s.pool with granted := [(.ten 255, 1, 5)] } })) (.ten 255) 1).2,
    _, rfl, by decide +kernel⟩,
   ⟨255, 0, tw 0x3F 0 0 0 0, eng 0 (tw 0x3F 0 0 0 0) (fun e => e), by decide +kernel⟩,
   ⟨255, 0, eng 3 0 (fun e => { e with ending := true }), by decide +kernel⟩⟩

/-- Each case of `Obligations.TransitVectors` has a state and operands. -/
theorem witness_transitVectors :
    (∃ (t : Nat) (k : Nat) (w : Nat) (a : Nat) (n : Nat) (s : State), (a = if bitAt w 11 = true then kReg (ten s t) (tA w) else kReg (ten
    s t) (tA w) + n) ∧ rd s (Page.ten t) F.INJ_ARM = 0 ∧ n = 4 * bits w 0 11 ∧ a % 4 = 0 ∧ a < 262144 ∧ SlotIssues s t k w 64 ∧ sramBad s
    (Page.ten t) [(a, 4)] = false) ∧
    (∃ (t : Nat) (k : Nat) (w : Nat) (a : Nat) (n : Nat) (s : State), (a = if bitAt w 11 = true then kReg (ten s t) (tA w) else kReg (ten
    s t) (tA w) + n) ∧ rd s (Page.ten t) F.INJ_ARM = 0 ∧ n = 4 * bits w 0 11 ∧ a % 4 = 0 ∧ a < 262144 ∧ SlotIssues s t k w 65 ∧ sramBad s
    (Page.ten t) [(a, 4)] = false) ∧
    (∃ (t : Nat) (k : Nat) (w : Nat) (a : Nat) (n : Nat) (s : State), (a = if bitAt w 11 = true then kReg (ten s t) (tA w) else kReg (ten
    s t) (tA w) + n) ∧ rd s (Page.ten t) F.INJ_ARM = 0 ∧ n = 128 * bits w 0 10 ∧ a % 128 = 0 ∧ a < 262144 ∧ SlotIssues s t k w 66 ∧
    sramBad s (Page.ten t) [(a, 128)] = false) ∧
    (∃ (t : Nat) (k : Nat) (w : Nat) (a : Nat) (n : Nat) (s : State), (a = if bitAt w 11 = true then kReg (ten s t) (tA w) else kReg (ten
    s t) (tA w) + n) ∧ rd s (Page.ten t) F.INJ_ARM = 0 ∧ n = 128 * bits w 0 10 ∧ a % 128 = 0 ∧ a < 262144 ∧ SlotIssues s t k w 67 ∧ bitAt
    w 10 = false ∧ expOk (vReg (ten s t) (tD w)).ev = true) ∧
    (∃ (t : Nat) (k : Nat) (w : Nat) (a : Nat) (n : Nat) (s : State), (a = if bitAt w 11 = true then kReg (ten s t) (tA w) else kReg (ten
    s t) (tA w) + n) ∧ rd s (Page.ten t) F.INJ_ARM = 0 ∧ n = 4 * bits w 0 11 ∧ (a % 4 ≠ 0 ∨ 262144 ≤ a) ∧ SlotIssues s t k w 64) ∧
    (∃ (t : Nat) (k : Nat) (w : Nat) (a : Nat) (n : Nat) (s : State), (a = if bitAt w 11 = true then kReg (ten s t) (tA w) else kReg (ten
    s t) (tA w) + n) ∧ rd s (Page.ten t) F.INJ_ARM = 0 ∧ n = 4 * bits w 0 11 ∧ (a % 4 ≠ 0 ∨ 262144 ≤ a) ∧ SlotIssues s t k w 65) ∧
    (∃ (t : Nat) (k : Nat) (w : Nat) (a : Nat) (n : Nat) (s : State), (a = if bitAt w 11 = true then kReg (ten s t) (tA w) else kReg (ten
    s t) (tA w) + n) ∧ rd s (Page.ten t) F.INJ_ARM = 0 ∧ n = 128 * bits w 0 10 ∧ (a % 128 ≠ 0 ∨ 262144 ≤ a) ∧ SlotIssues s t k w 66) ∧
    (∃ (t : Nat) (k : Nat) (w : Nat) (a : Nat) (n : Nat) (s : State), (a = if bitAt w 11 = true then kReg (ten s t) (tA w) else kReg (ten
    s t) (tA w) + n) ∧ rd s (Page.ten t) F.INJ_ARM = 0 ∧ n = 128 * bits w 0 10 ∧ (a % 128 ≠ 0 ∨ 262144 ≤ a) ∧ SlotIssues s t k w 67) ∧
    (∃ (t : Nat) (k : Nat) (w : Nat) (r : TVec × Nat) (s : State), SlotIssues s t k w 68 ∧ r = moveVec (vReg (ten s t) (tA w)) (bits w 0
    2) (kReg (ten s t) (tB w))) ∧
    (∃ (t : Nat) (k : Nat) (w : Nat) (r : TVec × Nat) (s : State), SlotIssues s t k w 69 ∧ r = packVec (aReg (ten s t) (tA w % 4)) (bitAt
    w 0) (kReg (ten s t) (tB w))) ∧
    (∃ (t : Nat) (k : Nat) (w : Nat) (r : TVec × Nat) (s : State) (c : Instr × Nat × TVec × Nat), (c ∈ [(Instr.vmac t k, 128, accumulate
    (chainVal (ten s t) (tD w % 4)) (bitAt w 0) (prodPart (vReg (ten s t) (tA w)) (vReg (ten s t) (tB w)) (bitAt w 1) none) ((vReg (ten s
    t) (tA w)).ev + (vReg (ten s t) (tB w)).ev)), (Instr.vmacb t k, 129, accumulate (chainVal (ten s t) (tD w % 4)) (bitAt w 0) (prodPart
    (vReg (ten s t) (tA w)) (vReg (ten s t) (tB w)) (bitAt w 1) (some (bits w 2 5))) ((vReg (ten s t) (tA w)).ev + (vReg (ten s t) (tB
    w)).ev)), (Instr.vada t k, 130, accumulate (chainVal (ten s t) (tD w % 4)) (bitAt w 0) (fun i => (if bitAt w 1 = true then -32768 else
    32768) * (vReg (ten s t) (tA w)).part i) (vReg (ten s t) (tA w)).ev)]) ∧ SlotIssues s t k w c.2.1 ∧ r = c.2.2) :=
  ⟨⟨255, 1, tw 0x40 1 2 0 3, 262140, 12, eng 1 (tw 0x40 1 2 0 3) (fun e => { e with k := [(2, 262128)] }), by decide +kernel⟩,
   ⟨255, 2, tw 0x41 1 2 0 0x803, 262140, 12, eng 2 (tw 0x41 1 2 0 0x803) (fun e => { e with k := [(1, 9), (2, 262140)] }),
    by decide +kernel⟩,
   ⟨255, 1, tw 0x42 1 2 0 3, 384, 384, eng 1 (tw 0x42 1 2 0 3) (fun e => e), by decide +kernel⟩,
   ⟨255, 1, tw 0x43 1 2 0 3, 384, 384, eng 1 (tw 0x43 1 2 0 3) (fun e => e), by decide +kernel⟩,
   ⟨255, 1, tw 0x40 1 2 0 0, 262144, 0, eng 1 (tw 0x40 1 2 0 0) (fun e => { e with k := [(2, 262144)] }), by decide +kernel⟩,
   ⟨255, 1, tw 65 1 2 0 0, 262144, 0, eng 1 (tw 65 1 2 0 0) (fun e => { e with k := [(2, 262144)] }), by decide +kernel⟩,
   ⟨255, 1, tw 0x42 1 2 0 1, 129, 128, eng 1 (tw 0x42 1 2 0 1) (fun e => { e with k := [(2, 1)] }), by decide +kernel⟩,
   ⟨255, 1, tw 0x43 1 2 0 1, 129, 128, eng 1 (tw 0x43 1 2 0 1) (fun e => { e with k := [(2, 1)] }), by decide +kernel⟩,
   ⟨255, 1, tw 0x44 1 2 3 2, moveVec { parts := [5], ev := 2 } 2 0, eng 1 (tw 0x44 1 2 3 2) (fun e =>
    { e with v := [(2, { parts := [5], ev := 2 })] }), by decide +kernel⟩,
   ⟨255, 1, tw 0x45 1 2 3 1, packVec { parts := [5], ev := 2 } true 0, eng 1 (tw 0x45 1 2 3 1) (fun e =>
    { e with a := [(2, { parts := [5], ev := 2 })] }), by decide +kernel⟩,
   ⟨255, 3, tw 0x80 1 2 3 1, accumulate TVec.zero true (prodPart TVec.zero TVec.zero false none) 0, eng 3 (tw 0x80 1 2 3 1) (fun e => e),
    (.vmac 255 3, 128, accumulate TVec.zero true (prodPart TVec.zero TVec.zero false none) 0), by decide +kernel⟩⟩

/-- Each case of `Obligations.TransitEvents` has a state and operands. -/
theorem witness_transitEvents :
    (∃ (t : Nat) (s : State), t < 256 ∧ s.stage ≠ Stage.tripped ∧ (ten s t).item.isSome = true ∧ (ten s t).warned = false ∧ (ten s
    t).endTick ≤ s.mer.frc + (ten s t).warnTicks) ∧
    (∃ (t : Nat) (s : State), t < 256 ∧ s.stage ≠ Stage.tripped ∧ (ten s t).warned = true) ∧
    (∃ (t : Nat) (s : State) (c : Nat), t < 256 ∧ s.stage ≠ Stage.tripped ∧ (ten s t).tcmp = some c ∧ (ten s t).item.isSome = true ∧ c ≤
    s.mer.frc) ∧
    (∃ (t : Nat) (s : State), t < 256 ∧ s.stage ≠ Stage.tripped ∧ (ten s t).tcmp = none) ∧
    (∃ (t : Nat) (s : State), t < 256 ∧ s.stage ≠ Stage.tripped ∧ boundaryOpen (ten s t) = true ∧ s.mer.frc < (ten s t).endTick) ∧
    (∃ (t : Nat) (s : State), t < 256 ∧ s.stage ≠ Stage.tripped ∧ (boundaryOpen (ten s t) = false ∨ (ten s t).endTick ≤ s.mer.frc)) ∧
    (∃ (t : Nat) (s : State), t < 256 ∧ s.stage ≠ Stage.tripped ∧ (ten s t).zeroing = true) ∧
    (∃ (t : Nat) (s : State), t < 256 ∧ s.stage ≠ Stage.tripped ∧ (ten s t).zeroing = false) ∧
    (∃ (f : Func) (t : Nat) (i : Nat) (s : State), f.ok = true ∧ t < 256 ∧ i < 4096 ∧ s.stage ≠ Stage.tripped ∧ reachWindow s f (Page.ten
    t) (pageBase (Page.ten t) + 32768 + i / 512 * 4096) = true ∧ unitDown s (Page.ten t) = false) :=
  ⟨⟨255, eng 0 0 (fun e => { e with endTick := 2000 }), by decide +kernel⟩,
   ⟨255, eng 0 0 (fun e => { e with warned := true }), by decide +kernel⟩,
   ⟨255, eng 0 0 (fun e => { e with tcmp := some 0 }), 0, by decide +kernel⟩,
   ⟨255, eng 0 0 (fun e => { e with tcmp := none }), by decide +kernel⟩,
   ⟨255, eng 0 0 (fun e => { e with pend := 4 }), by decide +kernel⟩,
   ⟨255, eng 0 0 (fun e => { e with warned := true }), by decide +kernel⟩,
   ⟨255, setTen rdy 255 { Engine.idle with zeroing := true }, by decide +kernel⟩,
   ⟨0, rdy, by decide +kernel⟩,
   ⟨.pf, 255, 4095, rdy, by decide +kernel⟩⟩

/-- Each case of `Obligations.CodingOperations` has a state and operands. -/
theorem witness_codingOperations :
    (∃ (i : Nat) (j : CdJob) (pre : List CdJob) (rest : List CdJob) (r : List Bool × Nat) (s : State), r = (jLdpc j.bytes).decode (leAt
    j.bytes 13 1) (leAt j.bytes 3 1) (jFlag j.bytes 2) (jFlag j.bytes 1) ((jLdpc j.bytes).combine (jNcb j.bytes) (jRv j.bytes) (jQm
    j.bytes) (List.replicate (jNcb j.bytes) 0).toArray (llrsOf j.bytes (jE j.bytes))) ∧ JobComputes s i 1 j pre rest ∧ jFlag j.bytes 3 =
    false ∧ jFlag j.bytes 1 = false) ∧
    (∃ (i : Nat) (j : CdJob) (pre : List CdJob) (rest : List CdJob) (r : List Bool × Nat) (s : State) (st : Nat), r = (jLdpc
    j.bytes).decode (leAt j.bytes 13 1) (leAt j.bytes 3 1) (jFlag j.bytes 2) (jFlag j.bytes 1) ((jLdpc j.bytes).combine (jNcb j.bytes)
    (jRv j.bytes) (jQm j.bytes) (List.replicate (jNcb j.bytes) 0).toArray (llrsOf j.bytes (jE j.bytes))) ∧ (st = if crcOk (24, crc24b) r.1
    = true then 0 else 160) ∧ JobComputes s i 1 j pre rest ∧ jFlag j.bytes 3 = false ∧ jFlag j.bytes 1 = true) ∧
    (∃ (i : Nat) (j : CdJob) (pre : List CdJob) (rest : List CdJob) (s : State) (c : Instr × Nat), jFlag j.bytes 3 = true ∧ ef s (Page.ptn
    (cdu s i).ptn) F.ptn_FB_COUNT ≤ jCtx j.bytes ∧ c ∈ [(Instr.ldpcDecode i, 1), (Instr.ldpcEncode i, 2), (Instr.polarDecode i, 3),
    (Instr.polarEncode i, 4)] ∧ JobComputes s i c.2 j pre rest) ∧
    (∃ (i : Nat) (j : CdJob) (pre : List CdJob) (rest : List CdJob) (s : State), JobComputes s i 2 j pre rest ∧ jFlag j.bytes 3 = false) ∧
    (∃ (i : Nat) (j : CdJob) (pre : List CdJob) (rest : List CdJob) (r : List Bool × Bool) (s : State) (st : Nat), r = (jPolar
    j.bytes).decode (leAt j.bytes 2 1) (llrsOf j.bytes (jE j.bytes)) ∧ (st = if r.2 = true then 0 else 160) ∧ JobComputes s i 3 j pre rest
    ∧ jFlag j.bytes 3 = false) ∧
    (∃ (i : Nat) (j : CdJob) (pre : List CdJob) (rest : List CdJob) (s : State), JobComputes s i 4 j pre rest ∧ jFlag j.bytes 3 = false) ∧
    (∃ (i : Nat) (j : CdJob) (pre : List CdJob) (rest : List CdJob) (x : List Byte) (o : List Byte) (s : State) (s1 : State), flContext
    (softRead s (Page.cdu i) []) i j.bytes = (Sum.inr x, s1) ∧ o = sampleBytes (slotSamples x (flSector j.bytes) (leAt j.bytes 24 1)
    (flBurst j.bytes x s1.fresh) s1.fresh) ∧ JobComputes s i 18 j pre rest) ∧
    (∃ (i : Nat) (j : CdJob) (pre : List CdJob) (rest : List CdJob) (x : List Byte) (y : Samples) (noise : Nat) (s : State) (s1 : State),
    flContext (softRead s (Page.cdu i) []) i j.bytes = (Sum.inr x, s1) ∧ y = samplesOf j.extra.flatten ∧ noise = guardNoise y (s1.fresh +
    1) ∧ trigger y (leAt j.bytes 2 2) (leAt j.bytes 8 4) (leAt j.bytes 12 1) = none ∧ JobComputes s i 17 j pre rest ∧ j.extra.length = 4) ∧
    (∃ (i : Nat) (j : CdJob) (pre : List CdJob) (rest : List CdJob) (s : State), ef s (Page.ptn (cdu s i).ptn) F.ptn_FB_COUNT ≤ jCtx
    j.bytes ∧ JobComputes s i 18 j pre rest) ∧
    (∃ (i : Nat) (j : CdJob) (pre : List CdJob) (rest : List CdJob) (s : State), ef s (Page.ptn (cdu s i).ptn) F.ptn_FB_COUNT ≤ jCtx
    j.bytes ∧ JobComputes s i 17 j pre rest ∧ j.extra.length = 4) :=
  ⟨⟨0, cj [1, 0, 1, 4, 2, 0, 40, 0, 0, 0, 0, 0, 0x20, 0, 0, 0, 0, 0, 0, 0, 0, 0, 0, 0, 0, 0, 0, 0], [], [], _, cduS 0 [cj [1, 0, 1, 4, 2,
    0, 40, 0, 0, 0, 0, 0, 0x20, 0, 0, 0, 0, 0, 0, 0, 0, 0, 0, 0, 0, 0, 0, 0]], rfl, by decide +kernel⟩,
   ⟨0, cj [1, 2, 1, 4, 2, 0, 40, 0, 0, 0, 0, 0, 0x20, 0, 0, 0, 0, 0, 0, 0, 0, 0, 0, 0, 0, 0, 0, 0], [], [], _, cduS 0 [cj [1, 2, 1, 4, 2,
    0, 40, 0, 0, 0, 0, 0, 0x20, 0, 0, 0, 0, 0, 0, 0, 0, 0, 0, 0, 0, 0, 0, 0]], _, rfl, rfl, by decide +kernel⟩,
   ⟨143, cj ([1, 8] ++ List.replicate 30 0), [], [], cduS 143 [cj ([1, 8] ++ List.replicate 30 0)], (.ldpcDecode 143, 1),
    by decide +kernel⟩,
   ⟨0, cj [2, 0, 1, 4, 2, 0, 40, 0, 0, 0, 0, 0, 0x20], [], [], cduS 0 [cj [2, 0, 1, 4, 2, 0, 40, 0, 0, 0, 0, 0, 0x20]],
    by decide +kernel⟩,
   ⟨0, cj [3, 0, 1, 0, 32, 0, 20, 0, 32, 0, 0, 0, 0], [], [], _, cduS 0 [cj [3, 0, 1, 0, 32, 0, 20, 0, 32, 0, 0, 0, 0]], _, rfl, rfl,
    by decide +kernel⟩,
   ⟨0, cj [4, 0, 1, 0, 32, 0, 20, 0, 32, 0, 0, 0, 0], [], [], cduS 0 [cj [4, 0, 1, 0, 32, 0, 20, 0, 32, 0, 0, 0, 0]], by decide +kernel⟩,
   ⟨0, cj (flJob 18), [], [], flX, _,
    { sh (cduS 0 [cj (flJob 18)]) (.ptn 0) F.ptn_FB_COUNT 1 with book := { FieldBook.reset with ctx := storeBytes [] 0 flCtx } }, _,
    pair_eq (by decide +kernel), rfl, by decide +kernel⟩,
   ⟨0, { cj (flJob 17) with extra := [[], [], [], []] }, [], [], flX, samplesOf [], _,
    { sh (cduS 0 [{ cj (flJob 17) with extra := [[], [], [], []] }]) (.ptn 0) F.ptn_FB_COUNT 1 with book := { FieldBook.reset with ctx := storeBytes [] 0 flCtx } },
    _, pair_eq (by decide +kernel), rfl, rfl, trigger_silent _ _ _ (by decide), by decide +kernel⟩,
   ⟨143, cj [18], [], [], cduS 143 [cj [18]], by decide +kernel⟩,
   ⟨143, { cj [17] with extra := [[], [], [], []] }, [], [], cduS 143 [{ cj [17] with extra := [[], [], [], []] }], by decide +kernel⟩⟩

/-- Each case of `Obligations.CodingJobs` has a state and operands. -/
theorem witness_codingJobs :
    (∃ (i : Nat) (pid : Nat) (b : List Byte) (s : State) (s1 : State), i < 144 ∧ s.stage ≠ Stage.tripped ∧ (cdu s i).item.isSome = true ∧
    cduOwns s i (cdu s i).qin = true ∧ (takeEnded s (cduAg i) (readToken (cdu s i).qin)).1 = none ∧ wantsSamples (cdu s i) = false ∧ (cdu
    s i).last = false ∧ (cdu s i).held.length < 2 ∧ hwRead s (cduAg i) (cdu s i).qin = (PqRes.parcel pid, s1) ∧ payload s1 pid = b ∧ (cdu
    s i).jobs + (cdu s i).held.length < 256 ∧ jOp b ≠ 17) ∧
    (∃ (i : Nat) (pid : Nat) (b : List Byte) (s : State) (s1 : State), i < 144 ∧ s.stage ≠ Stage.tripped ∧ (cdu s i).item.isSome = true ∧
    cduOwns s i (cdu s i).qin = true ∧ (takeEnded s (cduAg i) (readToken (cdu s i).qin)).1 = none ∧ wantsSamples (cdu s i) = false ∧ (cdu
    s i).last = false ∧ (cdu s i).held.length < 2 ∧ hwRead s (cduAg i) (cdu s i).qin = (PqRes.parcel pid, s1) ∧ payload s1 pid = b ∧ 256 ≤
    (cdu s i).jobs + (cdu s i).held.length) ∧
    (∃ (i : Nat) (pid : Nat) (j : CdJob) (o : List Byte) (rest : List CdJob) (s : State) (s1 : State), i < 144 ∧ s.stage ≠ Stage.tripped ∧
    (cdu s i).item.isSome = true ∧ (cdu s i).held = j :: rest ∧ j.out = some [o] ∧ j.status = 0 ∧ jFlag j.bytes 0 = false ∧ takeGranted s
    (cduAg i) 1 = (some pid, s1)) ∧
    (∃ (i : Nat) (j : CdJob) (rest : List CdJob) (s : State), i < 144 ∧ s.stage ≠ Stage.tripped ∧ (cdu s i).item.isSome = true ∧ (cdu s
    i).held = j :: rest ∧ j.out = some [] ∧ j.status = 0 ∧ jFlag j.bytes 0 = true) :=
  ⟨⟨143, 5, [1, 2], put (qOn (cduS 143 []) 32 0) 32 5 [1, 2], (hwRead (put (qOn (cduS 143 []) 32 0) 32 5 [1, 2]) (.cdu 143) 32).2,
    by decide +kernel⟩,
   ⟨143, 5, [1, 2], (let s := put (qOn (cduS 143 []) 32 0) 32 5 [1, 2]; setCdu s 143 { cdu s 143 with jobs := 256 }),
    (hwRead (let s := put (qOn (cduS 143 []) 32 0) 32 5 [1, 2]; setCdu s 143 { cdu s 143 with jobs := 256 }) (.cdu 143) 32).2,
    by decide +kernel⟩,
   ⟨0, 5, { cj [1, 0] with out := some [[7, 8, 9]] }, [7, 8, 9], [],
    { put (qOn (cduS 0 [{ cj [1, 0] with out := some [[7, 8, 9]] }]) 33 0) 33 5 [0, 0, 0] with pool := { (put (qOn (cduS 0 [{ cj [1, 0] with out := some [[7, 8, 9]] }]) 33 0) 33 5 [0, 0, 0]).pool with granted := [(.cdu 0, 1, 5)] } },
    (takeGranted
    ({ put (qOn (cduS 0 [{ cj [1, 0] with out := some [[7, 8, 9]] }]) 33 0) 33 5 [0, 0, 0] with pool := { (put (qOn (cduS 0 [{ cj [1, 0] with out := some [[7, 8, 9]] }]) 33 0) 33 5 [0, 0, 0]).pool with granted := [(.cdu 0, 1, 5)] } })
    (.cdu 0) 1).2, by decide +kernel⟩,
   ⟨0, { cj [1, 1] with out := some [] }, [], cduS 0 [{ cj [1, 1] with out := some [] }], by decide +kernel⟩⟩

/-- Each case of `Obligations.FieldBookRequests` has a state and operands. -/
theorem witness_fieldBookRequests :
    (∃ (p : Nat) (q : Nat) (pid : Nat) (ctx : Nat) (b : List Byte) (s : State), FbServes s p q pid 1 ctx b ∧ FbGood s ctx b) ∧
    (∃ (p : Nat) (q : Nat) (pid : Nat) (ctx : Nat) (b : List Byte) (s : State) (s0 : State), FbServes s p q pid 2 ctx b ∧ FbGood s ctx b ∧
    s0 = (touchCtx (hwRead s (fbAg p) q).2 ctx (fbReads b)).2) ∧
    (∃ (p : Nat) (q : Nat) (pid : Nat) (ctx : Nat) (b : List Byte) (s : State), FbServes s p q pid 3 ctx b ∧ FbGood s ctx b) ∧
    (∃ (p : Nat) (q : Nat) (pid : Nat) (ctx : Nat) (b : List Byte) (s : State) (c : Instr × Nat), FbBad s ctx b ∧ c ∈ [(Instr.fbRead p,
    1), (Instr.fbWrite p, 2), (Instr.harqReset p, 3)] ∧ FbServes s p q pid c.2 ctx b ∧ qOwner s (fbReplyQ b) = p) ∧
    (∃ (p : Nat) (s : State) (c : Instr), p < 64 ∧ s.stage ≠ Stage.tripped ∧ fbTurn s p = false ∧ (fbNext s p).isSome = true ∧ c ∈
    [Instr.fbRead p, Instr.fbWrite p, Instr.harqReset p]) ∧
    (∃ (p : Nat) (q : Nat) (pid : Nat) (st : Nat) (b : List Byte) (s : State) (c : Instr × Nat), p < 64 ∧ s.stage ≠ Stage.tripped ∧
    fbQueue s p = some q ∧ fbNext s p = some pid ∧ payload s pid = b ∧ fbTurn s p = true ∧ fbReplying s p = false ∧ fbStatus s p b = st ∧
    st ≠ 0 ∧ c ∈ [(Instr.fbRead p, 1), (Instr.fbWrite p, 2), (Instr.harqReset p, 3)] ∧ fbOp b = c.2 ∧ qOwner s (fbReplyQ b) = p) ∧
    (∃ (p : Nat) (q : Nat) (pid : Nat) (st : Nat) (b : List Byte) (s : State) (c : Instr × Nat), p < 64 ∧ s.stage ≠ Stage.tripped ∧
    fbQueue s p = some q ∧ fbNext s p = some pid ∧ payload s pid = b ∧ fbTurn s p = true ∧ fbReplying s p = false ∧ fbStatus s p b = st ∧
    st ≠ 0 ∧ c ∈ [(Instr.fbRead p, 1), (Instr.fbWrite p, 2), (Instr.harqReset p, 3)] ∧ fbOp b = c.2 ∧ qOwner s (fbReplyQ b) ≠ p) :=
  ⟨⟨0, 32, 5, 3, (fbReq 1 []), fbS (fbReq 1 []), by decide +kernel⟩,
   ⟨0, 32, 5, 3, (fbReq 2 [1, 2, 3, 4]), fbS (fbReq 2 [1, 2, 3, 4]), (touchCtx (hwRead (fbS (fbReq 2 [1, 2, 3, 4])) (fbAg 0) 32).2 3
    (fbReads (fbReq 2 [1, 2, 3, 4]))).2, by decide +kernel⟩,
   ⟨0, 32, 5, 3, (fbReq 3 []), fbS (fbReq 3 []), by decide +kernel⟩,
   ⟨0, 32, 5, 3, (fbReq 1 []), { fbS (fbReq 1 []) with fp := { rdy.fp with units := [(211, 2)] } }, (.fbRead 0, 1), by decide +kernel⟩,
   ⟨0,
    (let s := wr (put (qOn (own (part (fbS (fbReq 1 [])) 63) (qPage 1632) 63) 1632 63) 1632 6 (fbReq 1 [])) (.ptn 63) F.ptn_FB_REQ_Q 1632; { s with book := { s.book with turn := 1 } }),
    .fbRead 0, by decide +kernel⟩,
   ⟨0, 32, 5, 0xA1, (fbReq 4 []), fbS (fbReq 4 []), (.fbRead 0, 1), by decide +kernel⟩,
   ⟨0, 32, 5, 0xA1, (((fbReq 4 []).set 8 96).set 9 6), fbS (((fbReq 4 []).set 8 96).set 9 6), (.fbRead 0, 1), by decide +kernel⟩⟩

/-- Each case of `Obligations.FrameReceive` has a state and operands. -/
theorem witness_frameReceive :
    (∃ (q : Nat) (fr : RxFrame) (s : State), q < 32 ∧ s.stage ≠ Stage.tripped ∧ fhUp s q = true ∧ fr.fecUncorr = 0 ∧ (quiesced s (Page.fhp
    q) = true ∨ rxPause fr = true ∨ fr.fcsOk = false ∨ 1 < (rxTail fr).1 ∨ rxLength fr < 64 ∨ ef s (Page.fhp q) F.fhp_MAX_FRAME < rxLength
    fr)) ∧
    (∃ (q : Nat) (fr : RxFrame) (s : State) (s2 : State) (s3 : State) (at_ : ℤ), s2 = addSat (addSat s (Page.fhp q) F.fhp_FEC_CORR
    fr.fecCorr) (Page.fhp q) F.fhp_FEC_UNCORR 0 ∧ s3 = addSat (nextFresh s2) (Page.fhp q) F.fhp_RX_FRAMES 1 ∧ at_ = stampTime s2 (-portLat
    s2 q F.fhp_X_RX_LAT) ∧ q < 32 ∧ s.stage ≠ Stage.tripped ∧ fhUp s q = true ∧ fr.fecUncorr = 0 ∧ quiesced s (Page.fhp q) = false ∧
    rxPause fr = false ∧ fr.fcsOk = true ∧ (rxTail fr).1 ≤ 1 ∧ 64 ≤ rxLength fr ∧ rxLength fr ≤ ef s (Page.fhp q) F.fhp_MAX_FRAME ∧
    (rxType fr = 44798 ∨ rxType fr = 35063 ∨ rd s (Page.fhp q) F.fhp_LEARN_ALL = 1)) ∧
    (∃ (q : Nat) (fr : RxFrame) (s : State) (s2 : State) (s3 : State) (at_ : ℤ), s2 = addSat (addSat s (Page.fhp q) F.fhp_FEC_CORR
    fr.fecCorr) (Page.fhp q) F.fhp_FEC_UNCORR 0 ∧ s3 = addSat (nextFresh s2) (Page.fhp q) F.fhp_RX_FRAMES 1 ∧ at_ = stampTime s2 (-portLat
    s2 q F.fhp_X_RX_LAT) ∧ q < 32 ∧ s.stage ≠ Stage.tripped ∧ fhUp s q = true ∧ fr.fecUncorr = 0 ∧ quiesced s (Page.fhp q) = false ∧
    rxPause fr = false ∧ fr.fcsOk = true ∧ (rxTail fr).1 ≤ 1 ∧ 64 ≤ rxLength fr ∧ rxLength fr ≤ ef s (Page.fhp q) F.fhp_MAX_FRAME ∧ rxType
    fr ≠ 44798 ∧ rxType fr ≠ 35063 ∧ rd s (Page.fhp q) F.fhp_LEARN_ALL = 0) ∧
    (∃ (q : Nat) (s : State), q < 32 ∧ s.stage ≠ Stage.tripped ∧ fhUp s q = false) :=
  ⟨⟨30, { fr0 with raw := fr0.raw.take 59 }, wr (fhS 30) (.fhp 28) F.fhp_WIDTH 1, by decide +kernel⟩,
   ⟨0, fr0, fhS 0, _, _, _, rfl, rfl, rfl, by decide +kernel⟩,
   ⟨0, frT 8, fhS 0, _, _, _, rfl, rfl, rfl, by decide +kernel⟩,
   ⟨31, rdy, by decide +kernel⟩⟩

/-- Each case of `Obligations.FronthaulTransmit` has a state and operands. -/
theorem witness_fronthaulTransmit :
    (∃ (q : Nat) (s : State), q < 32 ∧ s.stage ≠ Stage.tripped ∧ (fhUp s q = false ∨ quiesced s (Page.fhp q) = true)) ∧
    (∃ (q : Nat) (el : List Nat) (s : State) (s1 : State) (s2 : State) (j : Nat), s1 = List.foldl txPrepare s (portQueues s q) ∧ el =
    List.filter (txEligible s1 q) (portQueues s q) ∧ s2 = wakeQueues s1 q el ∧ q < 32 ∧ s.stage ≠ Stage.tripped ∧ fhUp s q = true ∧
    quiesced s (Page.fhp q) = false ∧ chooseQueue s2 el = some j) ∧
    (∃ (q : Nat) (el : List Nat) (s : State) (s1 : State) (s2 : State), s1 = List.foldl txPrepare s (portQueues s q) ∧ s2 = wakeQueues s1
    q el ∧ q < 32 ∧ s.stage ≠ Stage.tripped ∧ fhUp s q = true ∧ quiesced s (Page.fhp q) = false ∧ el = List.filter (txEligible s1 q)
    (portQueues s q) ∧ el = []) ∧
    (∃ (s : State), s.stage ≠ Stage.tripped ∧ s.mer.frc % 1000 ≠ 0) ∧
    (∃ (s : State), s.stage ≠ Stage.tripped ∧ s.mer.frc % 1000 = 0) ∧
    (∃ (j : Nat) (pid : Nat) (at_ : Nat) (s : State), j < 512 ∧ s.stage ≠ Stage.tripped ∧ txHead s j = some pid ∧ txLaunch (payload s pid)
    = some at_ ∧ at_ + ef s (Page.fhq j) F.fhq_LATE_NS ≤ linNow s) ∧
    (∃ (j : Nat) (pid : Nat) (at_ : Nat) (s : State), j < 512 ∧ s.stage ≠ Stage.tripped ∧ txHead s j = some pid ∧ txLaunch (payload s pid)
    = some at_ ∧ linNow s < at_ + ef s (Page.fhq j) F.fhq_LATE_NS) ∧
    (∃ (q : Nat) (e : ℤ) (s : State), q < 32 ∧ s.stage ≠ Stage.tripped ∧ (fhp s q).winEnd = some e ∧ e ≤ timeNow s) ∧
    (∃ (q : Nat) (e : ℤ) (s : State), q < 32 ∧ s.stage ≠ Stage.tripped ∧ (fhp s q).winEnd = some e ∧ timeNow s < e) ∧
    (∃ (s : State), s.stage ≠ Stage.tripped ∧ ef s Page.fhg F.fhg_SAMPLE_US = 0) ∧
    (∃ (s : State), s.stage ≠ Stage.tripped ∧ 0 < ef s Page.fhg F.fhg_SAMPLE_US ∧ s.mer.frc % (1000 * ef s Page.fhg F.fhg_SAMPLE_US) = 0) :=
  ⟨⟨31, rdy, by decide +kernel⟩,
   ⟨28, _, wr (setFhp (act1 (txS (txB 0)) (.fhp 28)) 28 { FhPort.idle with up := true }) (.fhq 511) F.fhq_PORT 28, _, _, 511, rfl, rfl,
    rfl, by decide +kernel⟩,
   ⟨28, [], fhS 28, _, _, rfl, rfl, by decide +kernel⟩,
   ⟨{ rdy with mer := { Meridian.reset with frc := 1001 } }, by decide +kernel⟩,
   ⟨{ sh rdy (.fhq 0) F.fhq_RATE 5 with mer := { Meridian.reset with frc := 1000 } }, by decide +kernel⟩,
   ⟨511, 5, 0, sh (txS (txB 1)) (.fhq 511) F.fhq_LATE_NS 0, by decide +kernel⟩,
   ⟨511, 5, 0, sh (txS (txB 1)) (.fhq 511) F.fhq_LATE_NS 1, by decide +kernel⟩,
   ⟨31, 0, setFhp rdy 31 { FhPort.idle with winEnd := some 0 }, by decide +kernel⟩,
   ⟨0, 1, setFhp rdy 0 { FhPort.idle with winEnd := some 1 }, by decide +kernel⟩,
   ⟨sh rdy .fhg F.fhg_SAMPLE_US 0, by decide +kernel⟩,
   ⟨sh rdy .fhg F.fhg_SAMPLE_US 10, by decide +kernel⟩⟩

/-- Each case of `Obligations.LinksAndDiscovery` has a state and operands. -/
theorem witness_linksAndDiscovery :
    (∃ (q : Nat) (s : State), q < 32 ∧ s.stage ≠ Stage.tripped ∧ (fhp s q).up = true) ∧
    (∃ (q : Nat) (s : State), q < 32 ∧ s.stage ≠ Stage.tripped ∧ (fhp s q).up = false ∧ fhAvailable s q = true ∧ s.stage = Stage.ready) ∧
    (∃ (n : Nat) (s : State), n < 8 ∧ s.stage ≠ Stage.tripped ∧ mapGet false s.trv.linkUp n = true) ∧
    (∃ (n : Nat) (s : State), n < 8 ∧ s.stage ≠ Stage.tripped ∧ mapGet false s.trv.linkUp n = false ∧ 0 < tvWidth s n ∧ trvOn s = true) ∧
    (∃ (q : Nat) (i : Nat) (e : DiscEntry) (s : State), q < 32 ∧ i < 64 ∧ s.stage ≠ Stage.tripped ∧ mapFind (fhp s q).disc i = some e ∧
    e.seen + rd s (Page.fhp q) F.fhp_RU_TIMEOUT * 1000000 ≤ s.mer.frc) ∧
    (∃ (q : Nat) (i : Nat) (e : DiscEntry) (s : State), q < 32 ∧ i < 64 ∧ s.stage ≠ Stage.tripped ∧ mapFind (fhp s q).disc i = some e ∧
    s.mer.frc < e.seen + rd s (Page.fhp q) F.fhp_RU_TIMEOUT * 1000000) ∧
    (∃ (q : Nat) (i : Nat) (e : DiscEntry) (s : State), q < 32 ∧ i < 64 ∧ s.stage ≠ Stage.tripped ∧ mapFind (fhp s q).disc i = some e ∧
    s.stage = Stage.ready) ∧
    (∃ (q : Nat) (pid : Nat) (b : List Byte) (s : State) (s1 : State), hwPost s (Agent.fhPort q) (rd s (Page.fhp q) F.fhp_DISC_Q) b 255
    65535 0 false = (PqRes.parcel pid, s1) ∧ q < 32 ∧ s.stage ≠ Stage.tripped ∧ (fhp s q).events = [b] ∧ qOwner s (rd s (Page.fhp q)
    F.fhp_DISC_Q) = ownerOf s (Page.fhp q)) ∧
    (∃ (q : Nat) (b : List Byte) (s : State) (s1 : State), q < 32 ∧ s.stage ≠ Stage.tripped ∧ (fhp s q).events = [b] ∧ qOwner s (rd s
    (Page.fhp q) F.fhp_DISC_Q) = ownerOf s (Page.fhp q) ∧ hwPost s (Agent.fhPort q) (rd s (Page.fhp q) F.fhp_DISC_Q) b 255 65535 0 false =
    (PqRes.status 128, s1)) :=
  ⟨⟨31, fhS 31, by decide +kernel⟩,
   ⟨0, rdy, by decide +kernel⟩,
   ⟨7, { rdy with trv := { Traverse.reset with linkUp := [(7, true)] } }, by decide +kernel⟩,
   ⟨0, rdy, by decide +kernel⟩,
   ⟨31, 63, { mac := 7, vlan := 0xFFFF, firstSeen := 0, seen := 0 },
    { wr (setFhp rdy 31 { FhPort.idle with disc := [(63, ({ mac := 7, vlan := 0xFFFF, firstSeen := 0, seen := 0 }))] }) (.fhp 31) F.fhp_RU_TIMEOUT 1 with mer := { Meridian.reset with frc := 1000000 } },
    by decide +kernel⟩,
   ⟨31, 63, { mac := 7, vlan := 0xFFFF, firstSeen := 0, seen := 0 },
    { wr (setFhp rdy 31 { FhPort.idle with disc := [(63, ({ mac := 7, vlan := 0xFFFF, firstSeen := 0, seen := 0 }))] }) (.fhp 31) F.fhp_RU_TIMEOUT 1 with mer := { Meridian.reset with frc := 999999 } },
    by decide +kernel⟩,
   ⟨31, 63, { mac := 7, vlan := 0xFFFF, firstSeen := 0, seen := 0 },
    { wr (setFhp rdy 31 { FhPort.idle with disc := [(63, ({ mac := 7, vlan := 0xFFFF, firstSeen := 0, seen := 0 }))] }) (.fhp 31) F.fhp_RU_TIMEOUT 1 with mer := { Meridian.reset with frc := 0 } },
    by decide +kernel⟩,
   ⟨31, 0, [1, 2], setFhp (qOn (wr rdy (.fhp 31) F.fhp_DISC_Q 32) 32 0xFF) 31 { FhPort.idle with events := [[1, 2]] }, _, pair_eq
    (by decide +kernel), by decide +kernel⟩,
   ⟨31, [1, 2], setQf (put (setFhp (qOn (wr rdy (.fhp 31) F.fhp_DISC_Q 32) 32 0xFF) 31 { FhPort.idle with events := [[1, 2]] }) 32 0 [1])
    32 F.pq_CELL_LIMIT 1, (hwPost (setQf (put (setFhp (qOn (wr rdy (.fhp 31) F.fhp_DISC_Q 32) 32 0xFF) 31
    { FhPort.idle with events := [[1, 2]] }) 32 0 [1]) 32 F.pq_CELL_LIMIT 1) (.fhPort 31) 32 [1, 2] 255 65535 0 false).2,
    by decide +kernel⟩⟩

/-- Each case of `Obligations.TraverseLease` has a state and operands. -/
theorem witness_traverseLease :
    (∃ (m : CtlMsg) (peer : Nat) (period : Nat) (expiry : Nat) (key : List Byte) (msg : List Byte) (s : State), trvOn s = true ∧ mapFind
    s.mon.anchors 0 = some key ∧ msg = ctlBytes 1 m (natLE 2 peer ++ natLE 1 period ++ natLE 8 expiry)) ∧
    (∃ (m : CtlMsg) (x : Nat) (y : Nat) (b : List Byte) (j : Option Nat) (a : Bool) (s : State) (c : Instr), (∀ (n : ℕ), j = some n → n <
    64) ∧ c ∈ [Instr.renew m x, Instr.jobBind m x y b, Instr.peerUp m y x, Instr.peerDown m y, Instr.tearDown m j a] ∧ trvOn s = true ∧ x
    < 64 ∧ y < 16384 ∧ (s.trv.leaseKey = none ∨ m.epoch ≠ rd s Page.trg F.trg_LEASE_EPOCH)) ∧
    (∃ (m : CtlMsg) (expiry : Nat) (s : State), LeaseOk s 2 m (natLE 8 expiry) ∧ (leaseState s = 2 ∨ fenceDue s = true)) ∧
    (∃ (m : CtlMsg) (expiry : Nat) (e : Nat) (s : State), LeaseOk s 2 m (natLE 8 expiry) ∧ leaseState s = 1 ∧ fenceDue s = false ∧ e = min
    expiry (linNow s + 1000000 * rd s Page.trg F.trg_LEASE_PERIOD_MS)) ∧
    (∃ (m : CtlMsg) (j : Nat) (job : Nat) (b : List Byte) (s : State), LeaseOk s 3 m (natLE 1 j ++ natLE 2 job ++ b) ∧ j < 64 ∧ (jobBound
    s j = true ∨ 64 ≤ ownerOf s (Page.trj j))) ∧
    (∃ (m : CtlMsg) (j : Nat) (job : Nat) (b : List Byte) (s : State), LeaseOk s 3 m (natLE 1 j ++ natLE 2 job ++ b) ∧ j < 64 ∧ jobBound s
    j = false ∧ ownerOf s (Page.trj j) < 64) ∧
    (∃ (m : CtlMsg) (p : Nat) (ports : Nat) (s : State), LeaseOk s 4 m (natLE 2 p ++ natLE 1 ports) ∧ p < 16384) ∧
    (∃ (m : CtlMsg) (p : Nat) (s : State) (s1 : State), LeaseOk s 5 m (natLE 2 p) ∧ (s1 = endWhere (setPeer s p 2 (peerOf s p).ports) (fun
    x it => decide (it.req.peer = p)) fun x => 4) ∧ p < 16384) ∧
    (∃ (m : CtlMsg) (j : Nat) (a : Bool) (s : State), LeaseOk s 6 m (natLE 1 j ++ natLE 1 (ofBool a)) ∧ j < 64 ∧ jobBound s j = true ∧
    s.trv.chans = [] ∧ a = false) ∧
    (∃ (m : CtlMsg) (a : Bool) (s : State), LeaseOk s 6 m (natLE 1 255 ++ natLE 1 (ofBool a))) ∧
    (∃ (s : State), s.stage ≠ Stage.tripped ∧ fenceDue s = false) ∧
    (∃ (s : State), s.stage ≠ Stage.tripped ∧ fenceDue s = true ∧ s.trv.chans = []) ∧
    (∃ (b : List Byte) (pid : Nat) (s : State) (s1 : State), hwPost s Agent.trv (rd s Page.trg F.trg_DISC_Q) b 255 65535 0 false =
    (PqRes.parcel pid, s1) ∧ s.stage ≠ Stage.tripped ∧ s.trv.events = [b] ∧ qOwner s (rd s Page.trg F.trg_DISC_Q) = ownerOf s Page.trg) ∧
    (∃ (b : List Byte) (s : State) (s1 : State), s.stage ≠ Stage.tripped ∧ s.trv.events = [b] ∧ qOwner s (rd s Page.trg F.trg_DISC_Q) =
    ownerOf s Page.trg ∧ hwPost s Agent.trv (rd s Page.trg F.trg_DISC_Q) b 255 65535 0 false = (PqRes.status 128, s1)) :=
  ⟨⟨ctl 1 [], 5, 100, 9, [3], ctlBytes 1 (ctl 1 []) (natLE 2 5 ++ natLE 1 100 ++ natLE 8 9),
    { rdy with mon := { Monument.reset with anchors := [(0, [3])] } }, by decide +kernel⟩,
   ⟨ctl 1 [], 63, 16383, [], some 63, true, rdy, .tearDown (ctl 1 []) (some 63) true, by intro n h; cases h; decide, by simp,
    by decide +kernel⟩,
   ⟨ctl 2 (natLE 8 9), 9, trvS, ⟨by decide +kernel, by decide +kernel, [1], by decide +kernel, rfl⟩, by decide +kernel⟩,
   ⟨ctl 2 (natLE 8 (2 ^ 64 - 1)), 2 ^ 64 - 1, 100000000, wr (wr trvS .trg F.trg_LEASE_EXPIRY (10 ^ 12)) .trg F.trg_LEASE_PERIOD_MS 100,
    ⟨by decide +kernel, by decide +kernel, [1], by decide +kernel, rfl⟩, by decide +kernel⟩,
   ⟨ctl 3 (natLE 1 0 ++ natLE 2 78 ++ []), 0, 78, [], trvS, ⟨by decide +kernel, by decide +kernel, [1], by decide +kernel, rfl⟩,
    by decide +kernel⟩,
   ⟨ctl 3 (natLE 1 63 ++ natLE 2 78 ++ []), 63, 78, [], own trvS (.trj 63) 0, ⟨by decide +kernel, by decide +kernel, [1],
    by decide +kernel, rfl⟩, by decide +kernel⟩,
   ⟨ctl 4 (natLE 2 16383 ++ natLE 1 3), 16383, 3, trvS, ⟨by decide +kernel, by decide +kernel, [1], by decide +kernel, rfl⟩,
    by decide +kernel⟩,
   ⟨ctl 5 (natLE 2 5), 5, trvS, _, ⟨by decide +kernel, by decide +kernel, [1], by decide +kernel, rfl⟩, rfl, by decide +kernel⟩,
   ⟨ctl 6 (natLE 1 0 ++ natLE 1 (ofBool false)), 0, false, trvS, ⟨by decide +kernel, by decide +kernel, [1], by decide +kernel, rfl⟩,
    by decide +kernel⟩,
   ⟨ctl 6 (natLE 1 255 ++ natLE 1 (ofBool true)), true, trvS, ⟨by decide +kernel, by decide +kernel, [1], by decide +kernel, rfl⟩⟩,
   ⟨rdy, by decide +kernel⟩,
   ⟨trvS, by decide +kernel⟩,
   ⟨[1, 2], 0, { qOn (wr rdy .trg F.trg_DISC_Q 32) 32 0xFF with trv := { Traverse.reset with events := [[1, 2]] } }, _, pair_eq
    (by decide +kernel), by decide +kernel⟩,
   ⟨[1, 2], setQf (put ({ qOn (wr rdy .trg F.trg_DISC_Q 32) 32 0xFF with trv := { Traverse.reset with events := [[1, 2]] } }) 32 0 [1])
    32 F.pq_CELL_LIMIT 1, (hwPost (setQf (put
    ({ qOn (wr rdy .trg F.trg_DISC_Q 32) 32 0xFF with trv := { Traverse.reset with events := [[1, 2]] } }) 32 0 [1]) 32 F.pq_CELL_LIMIT 1)
    .trv 32 [1, 2] 255 65535 0 false).2, by decide +kernel⟩⟩

/-- Each case of `Obligations.TraverseOperations` has a state and operands. -/
theorem witness_traverseOperations :
    (∃ (c : Nat) (op : Nat) (pid : Nat) (stake : Nat) (cpl : Nat) (port : Nat) (it : TrvItem) (s : State) (s1 : State) (s2 : State),
    TrvReady c op pid stake cpl s s1 ∧ TrvJoins c pid stake cpl it s1 s2 ∧ trvStop s1 c (trvShapeOk (payload s1 pid)) it.req it.laddr =
    none ∧ TrvSends s2 c port it ∧ op = 1) ∧
    (∃ (c : Nat) (op : Nat) (pid : Nat) (stake : Nat) (cpl : Nat) (port : Nat) (it : TrvItem) (s : State) (s1 : State) (s2 : State),
    TrvReady c op pid stake cpl s s1 ∧ TrvJoins c pid stake cpl it s1 s2 ∧ trvStop s1 c (trvShapeOk (payload s1 pid)) it.req it.laddr =
    none ∧ TrvSends s2 c port it ∧ op = 2) ∧
    (∃ (c : Nat) (op : Nat) (pid : Nat) (stake : Nat) (cpl : Nat) (port : Nat) (it : TrvItem) (s : State) (s1 : State) (s2 : State),
    TrvReady c op pid stake cpl s s1 ∧ TrvJoins c pid stake cpl it s1 s2 ∧ trvStop s1 c (trvShapeOk (payload s1 pid)) it.req it.laddr =
    none ∧ TrvSends s2 c port it ∧ op = 3) ∧
    (∃ (c : Nat) (op : Nat) (pid : Nat) (stake : Nat) (cpl : Nat) (port : Nat) (it : TrvItem) (s : State) (s1 : State) (s2 : State),
    TrvReady c op pid stake cpl s s1 ∧ TrvJoins c pid stake cpl it s1 s2 ∧ trvStop s1 c (trvShapeOk (payload s1 pid)) it.req it.laddr =
    none ∧ TrvSends s2 c port it ∧ op = 4) ∧
    (∃ (c : Nat) (op : Nat) (pid : Nat) (stake : Nat) (cpl : Nat) (port : Nat) (it : TrvItem) (s : State) (s1 : State) (s2 : State),
    TrvReady c op pid stake cpl s s1 ∧ TrvJoins c pid stake cpl it s1 s2 ∧ trvStop s1 c (trvShapeOk (payload s1 pid)) it.req it.laddr =
    none ∧ TrvSends s2 c port it ∧ op = 5) ∧
    (∃ (c : Nat) (op : Nat) (pid : Nat) (stake : Nat) (cpl : Nat) (port : Nat) (it : TrvItem) (s : State) (s1 : State) (s2 : State) (d :
    List Byte) (s3 : State), TrvReady c op pid stake cpl s s1 ∧ TrvJoins c pid stake cpl it s1 s2 ∧ trvStop s1 c (trvShapeOk (payload s1
    pid)) it.req it.laddr = none ∧ TrvSends s2 c port it ∧ op = 6 ∧ it.req.len ≤ 256 ∧ readAll (ownerOf s2 (Page.trc c)) (pieces it.laddr
    it.req.len) s2 = (TRes.ok d, s3)) ∧
    (∃ (c : Nat) (op : Nat) (pid : Nat) (stake : Nat) (cpl : Nat) (port : Nat) (it : TrvItem) (s : State) (s1 : State) (s2 : State),
    TrvReady c op pid stake cpl s s1 ∧ TrvJoins c pid stake cpl it s1 s2 ∧ trvStop s1 c (trvShapeOk (payload s1 pid)) it.req it.laddr =
    none ∧ TrvSends s2 c port it ∧ op = 7 ∧ it.req.len ≤ 256) ∧
    (∃ (c : Nat) (op : Nat) (pid : Nat) (stake : Nat) (cpl : Nat) (port : Nat) (it : TrvItem) (s : State) (s1 : State) (s2 : State) (s3 :
    State), TrvReady c op pid stake cpl s s1 ∧ TrvJoins c pid stake cpl it s1 s2 ∧ trvStop s1 c (trvShapeOk (payload s1 pid)) it.req
    it.laddr = none ∧ op = 8 ∧ it.req.peer ≠ localPeer s1 ∧ s3 = beginBarrier s2 c it.id it.req.aop ∧ TrvSends s3 c port it) ∧
    (∃ (c : Nat) (op : Nat) (pid : Nat) (stake : Nat) (cpl : Nat) (it : TrvItem) (s : State) (s1 : State) (s2 : State), TrvReady c op pid
    stake cpl s s1 ∧ TrvJoins c pid stake cpl it s1 s2 ∧ trvStop s1 c (trvShapeOk (payload s1 pid)) it.req it.laddr = none ∧ op = 8 ∧
    it.req.peer = localPeer s1) ∧
    (∃ (c : Nat) (op : Nat) (pid : Nat) (stake : Nat) (cpl : Nat) (it : TrvItem) (s : State) (s1 : State) (s2 : State), TrvReady c op pid
    stake cpl s s1 ∧ TrvJoins c pid stake cpl it s1 s2 ∧ trvStop s1 c (trvShapeOk (payload s1 pid)) it.req it.laddr = none ∧ mayServe s2 c
    = false ∧ op = 1) ∧
    (∃ (c : Nat) (op : Nat) (pid : Nat) (stake : Nat) (cpl : Nat) (it : TrvItem) (s : State) (s1 : State) (s2 : State), TrvReady c op pid
    stake cpl s s1 ∧ TrvJoins c pid stake cpl it s1 s2 ∧ trvStop s1 c (trvShapeOk (payload s1 pid)) it.req it.laddr = none ∧ mayServe s2 c
    = false ∧ op = 2) ∧
    (∃ (c : Nat) (op : Nat) (pid : Nat) (stake : Nat) (cpl : Nat) (it : TrvItem) (s : State) (s1 : State) (s2 : State), TrvReady c op pid
    stake cpl s s1 ∧ TrvJoins c pid stake cpl it s1 s2 ∧ trvStop s1 c (trvShapeOk (payload s1 pid)) it.req it.laddr = none ∧ mayServe s2 c
    = false ∧ op = 3) ∧
    (∃ (c : Nat) (op : Nat) (pid : Nat) (stake : Nat) (cpl : Nat) (it : TrvItem) (s : State) (s1 : State) (s2 : State), TrvReady c op pid
    stake cpl s s1 ∧ TrvJoins c pid stake cpl it s1 s2 ∧ trvStop s1 c (trvShapeOk (payload s1 pid)) it.req it.laddr = none ∧ mayServe s2 c
    = false ∧ op = 4) ∧
    (∃ (c : Nat) (op : Nat) (pid : Nat) (stake : Nat) (cpl : Nat) (it : TrvItem) (s : State) (s1 : State) (s2 : State), TrvReady c op pid
    stake cpl s s1 ∧ TrvJoins c pid stake cpl it s1 s2 ∧ trvStop s1 c (trvShapeOk (payload s1 pid)) it.req it.laddr = none ∧ mayServe s2 c
    = false ∧ op = 5) ∧
    (∃ (c : Nat) (op : Nat) (pid : Nat) (stake : Nat) (cpl : Nat) (it : TrvItem) (s : State) (s1 : State) (s2 : State), TrvReady c op pid
    stake cpl s s1 ∧ TrvJoins c pid stake cpl it s1 s2 ∧ trvStop s1 c (trvShapeOk (payload s1 pid)) it.req it.laddr = none ∧ mayServe s2 c
    = false ∧ op = 6) ∧
    (∃ (c : Nat) (op : Nat) (pid : Nat) (stake : Nat) (cpl : Nat) (it : TrvItem) (s : State) (s1 : State) (s2 : State), TrvReady c op pid
    stake cpl s s1 ∧ TrvJoins c pid stake cpl it s1 s2 ∧ trvStop s1 c (trvShapeOk (payload s1 pid)) it.req it.laddr = none ∧ mayServe s2 c
    = false ∧ op = 7) ∧
    (∃ (c : Nat) (op : Nat) (pid : Nat) (stake : Nat) (cpl : Nat) (it : TrvItem) (s : State) (s1 : State) (s2 : State), TrvReady c op pid
    stake cpl s s1 ∧ TrvJoins c pid stake cpl it s1 s2 ∧ trvStop s1 c (trvShapeOk (payload s1 pid)) it.req it.laddr = none ∧ mayServe s2 c
    = false ∧ op = 8) ∧
    (∃ (c : Nat) (op : Nat) (pid : Nat) (stake : Nat) (cpl : Nat) (st : Nat) (it : TrvItem) (s : State) (s1 : State) (s2 : State) (i :
    Instr × Nat), TrvReady c op pid stake cpl s s1 ∧ TrvJoins c pid stake cpl it s1 s2 ∧ trvStop s1 c (trvShapeOk (payload s1 pid)) it.req
    it.laddr = some st ∧ i ∈ [(Instr.load c, 1), (Instr.store c, 2), (Instr.flag c, 3), (Instr.atomic c, 4), (Instr.merge c, 5),
    (Instr.put c, 6), (Instr.get c, 7), (Instr.barrier c, 8)] ∧ i.2 = op) ∧
    (∃ (c : Nat) (port : Nat) (it : TrvItem) (s : State) (i : Instr × Nat), c < 256 ∧ s.stage ≠ Stage.tripped ∧ quiesced s (Page.trc c) =
    true ∧ TrvSends s c port it ∧ i ∈ [(Instr.load c, 1), (Instr.store c, 2), (Instr.flag c, 3), (Instr.atomic c, 4), (Instr.merge c, 5)]
    ∧ i.2 = it.req.op ∧ 0 < it.req.len ∧ it.req.len ≤ 64) ∧
    (∃ (c : Nat) (port : Nat) (it : TrvItem) (s : State) (d : List Byte) (s1 : State), c < 256 ∧ s.stage ≠ Stage.tripped ∧ quiesced s
    (Page.trc c) = true ∧ TrvSends s c port it ∧ it.req.op = 6 ∧ 0 < it.req.len ∧ it.req.len ≤ 256 ∧ readAll (ownerOf s (Page.trc c))
    (pieces it.laddr it.req.len) s = (TRes.ok d, s1)) ∧
    (∃ (c : Nat) (port : Nat) (it : TrvItem) (s : State), c < 256 ∧ s.stage ≠ Stage.tripped ∧ quiesced s (Page.trc c) = true ∧ TrvSends s
    c port it ∧ it.req.op = 7 ∧ 0 < it.req.len ∧ it.req.len ≤ 256) ∧
    (∃ (c : Nat) (port : Nat) (it : TrvItem) (s : State), c < 256 ∧ s.stage ≠ Stage.tripped ∧ quiesced s (Page.trc c) = true ∧ TrvSends s
    c port it ∧ it.req.op = 8 ∧ it.req.len = 0) ∧
    (∃ (c : Nat) (port : Nat) (off : Nat) (n : Nat) (it : TrvItem) (d : List Byte) (s : State) (t : State), trc s c = [it] ∧ t =
    sendPacket s c port it off n d ∧ it.tsReq = false ∧ it.req.op ≠ 8) ∧
    (∃ (c : Nat) (port : Nat) (off : Nat) (n : Nat) (it : TrvItem) (d : List Byte) (s : State) (t : State) (w : BarWait), trc s c = [it] ∧
    t = sendPacket s c port it off n d ∧ it.tsReq = false ∧ it.req.op = 8 ∧ mapFind s.trv.barWait it.req.aop = some w) ∧
    (∃ (c : Nat) (s : State) (i : Instr), c < 256 ∧ s.stage ≠ Stage.tripped ∧ trc s c = [] ∧ ownerOf s (Page.trc c) < 64 ∧ qOwner s (rd s
    (Page.trc c) F.trc_SUBMIT_Q) ≠ ownerOf s (Page.trc c) ∧ i ∈ [Instr.load c, Instr.store c, Instr.flag c, Instr.atomic c, Instr.merge c,
    Instr.put c, Instr.get c, Instr.barrier c]) :=
  ⟨⟨255, 1, 5, 3, 9, 0, opOf (trcS (trvD 1)), (trcS (trvD 1)), took (trcS (trvD 1)), joined (trcS (trvD 1)), by decide +kernel⟩,
   ⟨255, 2, 5, 3, 9, 0, opOf (trcS (trvD 2 ++ [1, 2, 3, 4, 5, 6, 7, 8])), (trcS (trvD 2 ++ [1, 2, 3, 4, 5, 6, 7, 8])), took (trcS (trvD 2
    ++ [1, 2, 3, 4, 5, 6, 7, 8])), joined (trcS (trvD 2 ++ [1, 2, 3, 4, 5, 6, 7, 8])), by decide +kernel⟩,
   ⟨255, 3, 5, 3, 9, 0, opOf (trcS (trvD 3 ++ [1, 2, 3, 4, 5, 6, 7, 8])), (trcS (trvD 3 ++ [1, 2, 3, 4, 5, 6, 7, 8])), took (trcS (trvD 3
    ++ [1, 2, 3, 4, 5, 6, 7, 8])), joined (trcS (trvD 3 ++ [1, 2, 3, 4, 5, 6, 7, 8])), by decide +kernel⟩,
   ⟨255, 4, 5, 3, 9, 0, opOf (trcS (trvD 4 ++ List.replicate 16 7)), (trcS (trvD 4 ++ List.replicate 16 7)), took (trcS (trvD 4 ++
    List.replicate 16 7)), joined (trcS (trvD 4 ++ List.replicate 16 7)), by decide +kernel⟩,
   ⟨255, 5, 5, 3, 9, 0, opOf (trcS ((trvD 5).set 28 1 ++ List.replicate 16 7)), (trcS ((trvD 5).set 28 1 ++ List.replicate 16 7)), took
    (trcS ((trvD 5).set 28 1 ++ List.replicate 16 7)), joined (trcS ((trvD 5).set 28 1 ++ List.replicate 16 7)), by decide +kernel⟩,
   ⟨255, 6, 5, 3, 9, 0, opOf (trcS (trvD 6)), (trcS (trvD 6)), took (trcS (trvD 6)), joined (trcS (trvD 6)), List.replicate 8 0, (readAll
    0 (pieces 0 8) (joined (trcS (trvD 6)))).2, by decide +kernel⟩,
   ⟨255, 7, 5, 3, 9, 0, opOf (trcS (trvD 7)), (trcS (trvD 7)), took (trcS (trvD 7)), joined (trcS (trvD 7)), by decide +kernel⟩,
   ⟨255, 8, 5, 3, 9, 0, opOf barR, barR, took barR, joined barR, beginBarrier (joined barR) 255 0 0, by decide +kernel⟩,
   ⟨255, 8, 5, 3, 9, opOf barS, barS, took barS, joined barS, by decide +kernel⟩,
   ⟨255, 1, 5, 3, 9, opOf (wr (trcS (trvD 1)) .trg F.trg_LEASE_STATE 0), (wr (trcS (trvD 1)) .trg F.trg_LEASE_STATE 0), took (wr (trcS
    (trvD 1)) .trg F.trg_LEASE_STATE 0), joined (wr (trcS (trvD 1)) .trg F.trg_LEASE_STATE 0), by decide +kernel⟩,
   ⟨255, 2, 5, 3, 9, opOf (wr (trcS (trvD 2 ++ [1, 2, 3, 4, 5, 6, 7, 8])) .trg F.trg_LEASE_STATE 0), (wr (trcS (trvD 2 ++ [1, 2, 3, 4, 5,
    6, 7, 8])) .trg F.trg_LEASE_STATE 0), took (wr (trcS (trvD 2 ++ [1, 2, 3, 4, 5, 6, 7, 8])) .trg F.trg_LEASE_STATE 0), joined (wr (trcS
    (trvD 2 ++ [1, 2, 3, 4, 5, 6, 7, 8])) .trg F.trg_LEASE_STATE 0), by decide +kernel⟩,
   ⟨255, 3, 5, 3, 9, opOf (wr (trcS (trvD 3 ++ [1, 2, 3, 4, 5, 6, 7, 8])) .trg F.trg_LEASE_STATE 0), (wr (trcS (trvD 3 ++ [1, 2, 3, 4, 5,
    6, 7, 8])) .trg F.trg_LEASE_STATE 0), took (wr (trcS (trvD 3 ++ [1, 2, 3, 4, 5, 6, 7, 8])) .trg F.trg_LEASE_STATE 0), joined (wr (trcS
    (trvD 3 ++ [1, 2, 3, 4, 5, 6, 7, 8])) .trg F.trg_LEASE_STATE 0), by decide +kernel⟩,
   ⟨255, 4, 5, 3, 9, opOf (wr (trcS (trvD 4 ++ List.replicate 16 7)) .trg F.trg_LEASE_STATE 0), (wr (trcS (trvD 4 ++ List.replicate 16
    7)) .trg F.trg_LEASE_STATE 0), took (wr (trcS (trvD 4 ++ List.replicate 16 7)) .trg F.trg_LEASE_STATE 0), joined (wr (trcS (trvD 4 ++
    List.replicate 16 7)) .trg F.trg_LEASE_STATE 0), by decide +kernel⟩,
   ⟨255, 5, 5, 3, 9, opOf (wr (trcS ((trvD 5).set 28 1 ++ List.replicate 16 7)) .trg F.trg_LEASE_STATE 0), (wr (trcS ((trvD 5).set 28 1
    ++ List.replicate 16 7)) .trg F.trg_LEASE_STATE 0), took (wr (trcS ((trvD 5).set 28 1 ++ List.replicate 16 7)) .trg F.trg_LEASE_STATE
    0), joined (wr (trcS ((trvD 5).set 28 1 ++ List.replicate 16 7)) .trg F.trg_LEASE_STATE 0), by decide +kernel⟩,
   ⟨255, 6, 5, 3, 9, opOf (wr (trcS (trvD 6)) .trg F.trg_LEASE_STATE 0), (wr (trcS (trvD 6)) .trg F.trg_LEASE_STATE 0), took (wr (trcS
    (trvD 6)) .trg F.trg_LEASE_STATE 0), joined (wr (trcS (trvD 6)) .trg F.trg_LEASE_STATE 0), by decide +kernel⟩,
   ⟨255, 7, 5, 3, 9, opOf (wr (trcS (trvD 7)) .trg F.trg_LEASE_STATE 0), (wr (trcS (trvD 7)) .trg F.trg_LEASE_STATE 0), took (wr (trcS
    (trvD 7)) .trg F.trg_LEASE_STATE 0), joined (wr (trcS (trvD 7)) .trg F.trg_LEASE_STATE 0), by decide +kernel⟩,
   ⟨255, 8, 5, 3, 9, opOf (wr barR .trg F.trg_LEASE_STATE 0), (wr barR .trg F.trg_LEASE_STATE 0), took (wr barR .trg F.trg_LEASE_STATE
    0), joined (wr barR .trg F.trg_LEASE_STATE 0), by decide +kernel⟩,
   ⟨255, 2, 5, 3, 9, 0xB2, opOf (trcS (trvD 2)), trcS (trvD 2), took (trcS (trvD 2)), joined (trcS (trvD 2)), (.store 255, 2),
    by decide +kernel⟩,
   ⟨255, 0, ti 2, tiS (ti 2), (.store 255, 2), by decide +kernel⟩,
   ⟨255, 0, ti 6, tiS (ti 6), List.replicate 8 0, (readAll 0 (pieces 0 8) (tiS (ti 6))).2, by decide +kernel⟩,
   ⟨255, 0, ti 7, tiS (ti 7), by decide +kernel⟩,
   ⟨255, 0, { ti 8 with req := { rq 8 with len := 0 } }, tiS { ti 8 with req := { rq 8 with len := 0 } }, by decide +kernel⟩,
   ⟨255, 0, 0, 8, ti 1, [], tiS (ti 1), sendPacket (tiS (ti 1)) 255 0 (ti 1) 0 8 [], by decide +kernel⟩,
   ⟨255, 0, 0, 0, ti 8, [], { tiS (ti 8) with trv := { (tiS (ti 8)).trv with barWait := [(0, bw false none)] } }, sendPacket
    ({ tiS (ti 8) with trv := { (tiS (ti 8)).trv with barWait := [(0, bw false none)] } }) 255 0 (ti 8) 0 0 [], bw false none,
    by decide +kernel⟩,
   ⟨255, own (part rdy 0) (.trc 255) 0, .load 255, by decide +kernel⟩⟩

/-- Each case of `Obligations.TraverseInbound` has a state and operands. -/
theorem witness_traverseInbound :
    (∃ (port : Nat) (src : Nat) (j : Nat) (a : Nat) (p : Nat) (key : List Byte) (r : TrvReq) (s : State) (s1 : State) (d : List Byte),
    InboundOk s port src key r j a ∧ p = ownerOf s (Page.trj j) ∧ (r.op = 1 ∨ r.op = 7) ∧ readAll p (pieces a r.len) s = (TRes.ok d, s1)) ∧
    (∃ (port : Nat) (src : Nat) (j : Nat) (a : Nat) (p : Nat) (key : List Byte) (r : TrvReq) (s : State) (s1 : State) (st : Nat) (ue :
    UeHit), InboundOk s port src key r j a ∧ p = ownerOf s (Page.trj j) ∧ (r.op = 1 ∨ r.op = 7) ∧ readAll p (pieces a r.len) s =
    (TRes.fail st ue, s1)) ∧
    (∃ (port : Nat) (src : Nat) (j : Nat) (a : Nat) (p : Nat) (key : List Byte) (r : TrvReq) (s : State) (s1 : State) (d : List Byte),
    InboundOk s port src key r j a ∧ p = ownerOf s (Page.trj j) ∧ (r.op = 2 ∨ r.op = 3) ∧ writeAll p (pieces a r.len) r.payload s =
    (TRes.ok d, s1)) ∧
    (∃ (port : Nat) (src : Nat) (j : Nat) (a : Nat) (p : Nat) (key : List Byte) (r : TrvReq) (s : State) (s1 : State) (d : List Byte),
    InboundOk s port src key r j a ∧ p = ownerOf s (Page.trj j) ∧ r.op = 6 ∧ writeAll p (pieces a r.payload.length) r.payload s = (TRes.ok
    d, s1)) ∧
    (∃ (port : Nat) (src : Nat) (j : Nat) (a : Nat) (p : Nat) (key : List Byte) (r : TrvReq) (s : State) (s1 : State) (d : List Byte) (old
    : Nat), InboundOk s port src key r j a ∧ p = ownerOf s (Page.trj j) ∧ r.op = 5 ∧ applyValue s p a r = ((TRes.ok d, old), s1)) ∧
    (∃ (port : Nat) (src : Nat) (j : Nat) (a : Nat) (p : Nat) (key : List Byte) (r : TrvReq) (s : State), InboundOk s port src key r j a ∧
    p = ownerOf s (Page.trj j) ∧ r.op ≠ 4) ∧
    (∃ (port : Nat) (src : Nat) (j : Nat) (a : Nat) (p : Nat) (key : List Byte) (r : TrvReq) (s : State), InboundOk s port src key r j a ∧
    p = ownerOf s (Page.trj j) ∧ r.op = 4) ∧
    (∃ (port : Nat) (src : Nat) (j : Nat) (a : Nat) (key : List Byte) (r : TrvReq) (x : InReq) (s : State), port < 8 ∧ s.stage ≠
    Stage.tripped ∧ tvUp s port = true ∧ (peerOf s src).st ≠ 2 ∧ reqShapeOk r = true ∧ slotOfJob s r.job = some j ∧ slotKey s j = some key
    ∧ leaseState s = 1 ∧ quiesced s (Page.trj j) = false ∧ exposed s j r = some a ∧ x = { port := port, src := src, req := r } ∧
    s.trv.inbound.length < 16384 ∧ ((List.filter (fun y => decide (y.port = port)) s.trv.inbound).length < 2048) ∧ staysBehind s
    s.trv.inbound x = true) ∧
    (∃ (port : Nat) (src : Nat) (j : Nat) (key : List Byte) (r : TrvReq) (s : State), port < 8 ∧ s.stage ≠ Stage.tripped ∧ tvUp s port =
    true ∧ (peerOf s src).st ≠ 2 ∧ slotOfJob s r.job = some j ∧ slotKey s j ≠ some key) ∧
    (∃ (port : Nat) (src : Nat) (j : Nat) (key : List Byte) (r : TrvReq) (s : State), port < 8 ∧ s.stage ≠ Stage.tripped ∧ tvUp s port =
    true ∧ (peerOf s src).st ≠ 2 ∧ slotOfJob s r.job = some j ∧ slotKey s j = some key ∧ reqShapeOk r = false) ∧
    (∃ (port : Nat) (src : Nat) (j : Nat) (key : List Byte) (r : TrvReq) (s : State), port < 8 ∧ s.stage ≠ Stage.tripped ∧ tvUp s port =
    true ∧ (peerOf s src).st ≠ 2 ∧ slotOfJob s r.job = some j ∧ slotKey s j = some key ∧ reqShapeOk r = true ∧ leaseState s ≠ 1) ∧
    (∃ (port : Nat) (src : Nat) (j : Nat) (key : List Byte) (r : TrvReq) (s : State), port < 8 ∧ s.stage ≠ Stage.tripped ∧ tvUp s port =
    true ∧ (peerOf s src).st ≠ 2 ∧ slotOfJob s r.job = some j ∧ slotKey s j = some key ∧ reqShapeOk r = true ∧ leaseState s = 1 ∧ quiesced
    s (Page.trj j) = true) ∧
    (∃ (port : Nat) (src : Nat) (j : Nat) (key : List Byte) (r : TrvReq) (s : State), port < 8 ∧ s.stage ≠ Stage.tripped ∧ tvUp s port =
    true ∧ (peerOf s src).st ≠ 2 ∧ slotOfJob s r.job = some j ∧ slotKey s j = some key ∧ reqShapeOk r = true ∧ leaseState s = 1 ∧ quiesced
    s (Page.trj j) = false ∧ exposed s j r = none ∧ replayOf s src r = none) ∧
    (∃ (port : Nat) (src : Nat) (s : State), port < 8 ∧ s.stage ≠ Stage.tripped ∧ (tvUp s port = false ∨ (peerOf s src).st = 2)) ∧
    (∃ (port : Nat) (src : Nat) (r : TrvReq) (s : State), port < 8 ∧ s.stage ≠ Stage.tripped ∧ tvUp s port = true ∧ (peerOf s src).st ≠ 2
    ∧ reqShapeOk r = true ∧ slotOfJob s r.job = none ∧ leaseState s = 1) ∧
    (∃ (port : Nat) (src : Nat) (j : Nat) (a : Nat) (key : List Byte) (r : TrvReq) (s : State) (e : Replay), InboundOk s port src key r j
    a ∧ r.op = 4 ∧ replayOf s src r = some e ∧ e.check = atomicCheck r) ∧
    (∃ (port : Nat) (src : Nat) (j : Nat) (a : Nat) (key : List Byte) (r : TrvReq) (s : State) (e : Replay), InboundOk s port src key r j
    a ∧ r.op = 4 ∧ replayOf s src r = some e ∧ e.check ≠ atomicCheck r) ∧
    (∃ (port : Nat) (src : Nat) (j : Nat) (a : Nat) (key : List Byte) (r : TrvReq) (s : State), InboundOk s port src key r j a ∧ r.op = 4
    ∧ (∀ e ∈ s.trv.replay, ¬(e.src = src ∧ e.job = r.job ∧ e.tag = r.tag)) ∧ tooOld s r.firstT = true) ∧
    (∃ (port : Nat) (src : Nat) (j : Nat) (a : Nat) (key : List Byte) (r : TrvReq) (s : State), (∀ e ∈ s.trv.replay, ¬(e.src = src ∧ e.job
    = r.job ∧ e.tag = r.tag)) ∧ 262144 ≤ s.trv.replay.length ∧ InboundOk s port src key r j a ∧ r.op = 4 ∧ tooOld s r.firstT = false) ∧
    (∃ (port : Nat) (src : Nat) (j : Nat) (a : Nat) (key : List Byte) (r : TrvReq) (s : State) (d : List Byte) (old : Nat) (s1 : State),
    InboundOk s port src key r j a ∧ r.op = 4 ∧ (∀ e ∈ s.trv.replay, ¬(e.src = src ∧ e.job = r.job ∧ e.tag = r.tag)) ∧ tooOld s r.firstT =
    false ∧ s.trv.replay.length < 262144 ∧ applyValue s (ownerOf s (Page.trj j)) a r = ((TRes.ok d, old), s1)) ∧
    (∃ (n : Nat) (old : Nat) (x : Nat) (y : Nat) (o : BitVec (8 * n)) (v : BitVec (8 * n)) (w : BitVec (8 * n)) (e : Nat × BitVec (8 *
    n)), o = BitVec.ofNat (8 * n) old ∧ v = BitVec.ofNat (8 * n) x ∧ w = BitVec.ofNat (8 * n) y ∧ (n = 4 ∨ n = 8) ∧ old < 2 ^ (8 * n) ∧ (e
    ∈ [(0, o + v), (1, o &&& v), (2, o ||| v), (3, o ^^^ v), (4, if o.sle v = true then o else v), (5, if o.sle v = true then v else o),
    (6, if o ≤ v then o else v), (7, if o ≤ v then v else o), (8, v), (9, if o = w then v else o)])) ∧
    (∃ (s : State), s.stage ≠ Stage.tripped) :=
  ⟨⟨0, 5, 0, 262136, 0, ky, rq 1, trvM, (readAll 0 (pieces 262136 8) trvM).2, List.replicate 8 0, by decide +kernel⟩,
   ⟨0, 5, 0, 262136, 0, ky, rq 1, (setPtn trvM 0 { ptn trvM 0 with bad := [(4095, true)] }), (readAll 0 (pieces 262136 8) (setPtn trvM 0
    { ptn trvM 0 with bad := [(4095, true)] })).2, 0x0B,
    (match (readAll 0 (pieces 262136 8) (setPtn trvM 0 { ptn trvM 0 with bad := [(4095, true)] })).1 with | .fail _ u => u | _ => none),
    by decide +kernel⟩,
   ⟨0, 5, 0, 262136, 0, ky, rq 2, trvM, (writeAll 0 (pieces 262136 8) [1, 2, 3, 4, 5, 6, 7, 8] trvM).2, [], by decide +kernel⟩,
   ⟨0, 5, 0, 262136, 0, ky, rq 6, trvM, (writeAll 0 (pieces 262136 8) [1, 2, 3, 4, 5, 6, 7, 8] trvM).2, [], by decide +kernel⟩,
   ⟨0, 5, 0, 262136, 0, ky, { rq 5 with aop := 7 }, trvM, (applyValue trvM 0 262136 ({ rq 5 with aop := 7 })).2, [], 0,
    by decide +kernel⟩,
   ⟨0, 5, 0, 262136, 0, ky, rq 1, trvM, by decide +kernel⟩,
   ⟨0, 5, 0, 262136, 0, ky, rq 4, trvM, by decide +kernel⟩,
   ⟨0, 5, 0, 262136, ky, rq 1, { port := 0, src := 5, req := rq 1 },
    { trvM with trv := { trvM.trv with inbound := [{ port := 0, src := 5, req := rq 2 }] } }, by decide +kernel⟩,
   ⟨0, 5, 0, [8], rq 1, trvM, by decide +kernel⟩,
   ⟨0, 5, 0, ky, rq 9, wr trvM .trg F.trg_LEASE_STATE 2, by decide +kernel⟩,
   ⟨0, 5, 0, ky, rq 4, wr trvM .trg F.trg_LEASE_STATE 2, by decide +kernel⟩,
   ⟨0, 5, 0, ky, rq 1, wr trvM (.trj 0) F.QUIESCED 1, by decide +kernel⟩,
   ⟨0, 5, 0, ky, { rq 1 with raddr := 262144 }, trvM, by decide +kernel⟩,
   ⟨7, 5, rdy, by decide +kernel⟩,
   ⟨0, 5, { rq 1 with job := 78 }, trvM, by decide +kernel⟩,
   ⟨0, 5, 0, 262136, ky, rq 4,
    { trvM with trv := { trvM.trv with replay := [{ src := 5, job := 77, tag := 1, result := 9, check := atomicCheck (rq 4), at_ := 0 }] } },
    { src := 5, job := 77, tag := 1, result := 9, check := atomicCheck (rq 4), at_ := 0 }, by decide +kernel⟩,
   ⟨0, 5, 0, 262136, ky, rq 4,
    { trvM with trv := { trvM.trv with replay := [{ src := 5, job := 77, tag := 1, result := 9, check := 0, at_ := 0 }] } },
    { src := 5, job := 77, tag := 1, result := 9, check := 0, at_ := 0 }, by decide +kernel⟩,
   ⟨0, 5, 0, 262136, ky, { rq 4 with firstT := 1 }, trvM, by decide +kernel⟩,
   ⟨0, 5, 0, 262136, ky, rq 4,
    { trvN with trv := { trvN.trv with replay := List.replicate 262144 { src := 5, job := 77, tag := 2, result := 9, check := 0, at_ := 0 } } },
    by intro e he; cases List.eq_of_mem_replicate he; decide, Nat.le_of_eq (List.length_replicate ..).symm, by decide +kernel⟩,
   ⟨0, 5, 0, 262136, ky, rq 4, trvN, [], 0, (applyValue trvN 0 262136 (rq 4)).2, by decide +kernel⟩,
   ⟨8, 0, 2 ^ 63, 0, BitVec.ofNat (8 * 8) 0, BitVec.ofNat (8 * 8) (2 ^ 63), BitVec.ofNat (8 * 8) 0, (8, BitVec.ofNat (8 * 8) (2 ^ 63)),
    by decide +kernel⟩,
   ⟨{ trvM with trv := { trvM.trv with replay := [{ src := 5, job := 77, tag := 1, result := 9, check := 0, at_ := 0 }] } },
    by decide +kernel⟩⟩

/-- Each case of `Obligations.TraverseReplies` has a state and operands. -/
theorem witness_traverseReplies :
    (∃ (id : Nat) (c : Nat) (key : List Byte) (it : TrvItem) (k : TrvPkt) (s : State), TrvAwaits s id c it k ∧ chanKey s c ≠ some key) ∧
    (∃ (id : Nat) (c : Nat) (key : List Byte) (it : TrvItem) (k : TrvPkt) (r : TrvReply) (s : State), TrvAwaits s id c it k ∧ chanKey s c
    = some key ∧ r.busy = false ∧ r.status = 0 ∧ (it.req.op = 2 ∨ it.req.op = 3 ∨ it.req.op = 5)) ∧
    (∃ (id : Nat) (c : Nat) (key : List Byte) (it : TrvItem) (k : TrvPkt) (r : TrvReply) (s : State), TrvAwaits s id c it k ∧ chanKey s c
    = some key ∧ r.busy = false ∧ (r.status = 0 ∨ r.status = 5) ∧ it.req.op = 4) ∧
    (∃ (id : Nat) (c : Nat) (key : List Byte) (it : TrvItem) (k : TrvPkt) (r : TrvReply) (s : State), TrvAwaits s id c it k ∧ chanKey s c
    = some key ∧ r.busy = false ∧ r.status = 0 ∧ it.req.op = 1 ∧ hasAttached s it.id = false ∧ it.req.len ≤ 8) ∧
    (∃ (id : Nat) (c : Nat) (key : List Byte) (it : TrvItem) (k : TrvPkt) (r : TrvReply) (s : State) (d : List Byte) (s1 : State),
    TrvAwaits s id c it k ∧ chanKey s c = some key ∧ r.busy = false ∧ r.status = 0 ∧ it.req.op = 1 ∧ hasAttached s it.id = false ∧ 8 <
    it.req.len ∧ writeAll (ownerOf s (Page.trc c)) (pieces it.laddr it.req.len) (List.take it.req.len r.data) s = (TRes.ok d, s1)) ∧
    (∃ (id : Nat) (c : Nat) (key : List Byte) (it : TrvItem) (k : TrvPkt) (r : TrvReply) (s : State) (c2 : Nat) (x : TrvItem) (v : Nat),
    TrvAwaits s id c it k ∧ chanKey s c = some key ∧ r.busy = false ∧ r.status = 0 ∧ it.req.op = 1 ∧ it.req.len ≤ 8 ∧ attachedTo s it.id =
    [(c2, x)] ∧ x.req.len = it.req.len ∧ v = leNat (List.take it.req.len r.data)) ∧
    (∃ (id : Nat) (c : Nat) (key : List Byte) (it : TrvItem) (k : TrvPkt) (r : TrvReply) (s : State), TrvAwaits s id c it k ∧ chanKey s c
    = some key ∧ r.busy = false ∧ r.status = 0 ∧ it.req.op = 6) ∧
    (∃ (id : Nat) (c : Nat) (key : List Byte) (it : TrvItem) (k : TrvPkt) (r : TrvReply) (s : State) (s1 : State) (d : List Byte),
    TrvAwaits s id c it k ∧ chanKey s c = some key ∧ r.busy = false ∧ r.status = 0 ∧ it.req.op = 7 ∧ writeAll (ownerOf s (Page.trc c))
    (pieces (it.laddr + k.off) k.len) (List.take k.len r.data) s = (TRes.ok d, s1)) ∧
    (∃ (id : Nat) (c : Nat) (key : List Byte) (it : TrvItem) (k : TrvPkt) (r : TrvReply) (s : State) (s1 : State), TrvAwaits s id c it k ∧
    chanKey s c = some key ∧ r.busy = false ∧ r.status = 0 ∧ it.req.op = 7 ∧ writeAll (ownerOf s (Page.trc c)) (pieces (it.laddr + k.off)
    k.len) (List.take k.len r.data) s = (TRes.wait, s1)) ∧
    (∃ (id : Nat) (c : Nat) (key : List Byte) (it : TrvItem) (k : TrvPkt) (r : TrvReply) (s : State), TrvAwaits s id c it k ∧ chanKey s c
    = some key ∧ r.busy = false ∧ r.status ≠ 0 ∧ ¬(r.status = 5 ∧ it.req.op = 4)) ∧
    (∃ (id : Nat) (c : Nat) (key : List Byte) (it : TrvItem) (k : TrvPkt) (r : TrvReply) (s : State), TrvAwaits s id c it k ∧ chanKey s c
    = some key ∧ r.busy = true ∧ ef s (Page.trc c) F.trc_BUSY_LIMIT_US ≤ ageOf s it.req.firstT) ∧
    (∃ (id : Nat) (c : Nat) (key : List Byte) (it : TrvItem) (k : TrvPkt) (r : TrvReply) (s : State), TrvAwaits s id c it k ∧ chanKey s c
    = some key ∧ r.busy = true ∧ ageOf s it.req.firstT < ef s (Page.trc c) F.trc_BUSY_LIMIT_US) ∧
    (∃ (id : Nat) (c : Nat) (it : TrvItem) (k : TrvPkt) (s : State), TrvAwaits s id c it k ∧ s.mer.frc < k.sentAt + 1000 * ef s (Page.trc
    c) F.trc_RETRY_US) ∧
    (∃ (id : Nat) (c : Nat) (it : TrvItem) (k : TrvPkt) (s : State), TrvAwaits s id c it k ∧ k.sentAt + 1000 * ef s (Page.trc c)
    F.trc_RETRY_US ≤ s.mer.frc ∧ k.busy = false ∧ (it.req.op = 1 ∨ it.req.op = 4 ∨ it.req.op = 7) ∧ k.tries < ef s (Page.trc c)
    F.trc_RETRIES ∧ tvUp s it.port = true ∧ it.tsReq = false) ∧
    (∃ (id : Nat) (c : Nat) (it : TrvItem) (k : TrvPkt) (s : State), TrvAwaits s id c it k ∧ k.sentAt + 1000 * ef s (Page.trc c)
    F.trc_RETRY_US ≤ s.mer.frc ∧ k.busy = false ∧ (it.req.op = 2 ∨ it.req.op = 3 ∨ it.req.op = 5 ∨ it.req.op = 6 ∨ ef s (Page.trc c)
    F.trc_RETRIES ≤ k.tries)) ∧
    (∃ (id : Nat) (c : Nat) (it : TrvItem) (k : TrvPkt) (s : State), TrvAwaits s id c it k ∧ k.sentAt + 1000 * ef s (Page.trc c)
    F.trc_RETRY_US ≤ s.mer.frc ∧ k.busy = true ∧ ef s (Page.trc c) F.trc_BUSY_LIMIT_US ≤ ageOf s it.req.firstT) ∧
    (∃ (id : Nat) (c : Nat) (it : TrvItem) (k : TrvPkt) (s : State), TrvAwaits s id c it k ∧ k.sentAt + 1000 * ef s (Page.trc c)
    F.trc_RETRY_US ≤ s.mer.frc ∧ k.busy = true ∧ ageOf s it.req.firstT < ef s (Page.trc c) F.trc_BUSY_LIMIT_US) ∧
    (∃ (id : Nat) (s : State), s.stage ≠ Stage.tripped ∧ findPkt s id = none) ∧
    (∃ (subject : Nat) (cls : Nat) (inj : Bool) (s : State), trvOn s = true ∧ findWitness s subject cls inj = none ∧ s.trv.witness.length
    < 1024) ∧
    (∃ (subject : Nat) (cls : Nat) (inj : Bool) (s : State), trvOn s = true ∧ findWitness s subject cls inj = none ∧ 1024 ≤
    s.trv.witness.length) ∧
    (∃ (subject : Nat) (cls : Nat) (inj : Bool) (w : Witness) (s : State), trvOn s = true ∧ s.trv.witness = [w] ∧ w.subject = subject ∧
    w.cls = cls ∧ w.injected = inj ∧ w.opened + 1000 * ef s Page.trg F.trg_WIT_WINDOW_US ≤ s.mer.frc ∧ qOwner s (rd s Page.trg
    F.trg_WIT_Q) ≠ ownerOf s Page.trg) ∧
    (∃ (subject : Nat) (cls : Nat) (inj : Bool) (w : Witness) (s : State), trvOn s = true ∧ s.trv.witness = [w] ∧ w.subject = subject ∧
    w.cls = cls ∧ w.injected = inj ∧ s.mer.frc < w.opened + 1000 * ef s Page.trg F.trg_WIT_WINDOW_US) ∧
    (∃ (f : Func) (j : Nat) (i : Nat) (s : State), f.ok = true ∧ j < 64 ∧ i < 64 ∧ reach s f (Page.trj j) = true ∧ sideOk f
    (F.trj_COUNTER.ix i).who = true ∧ unitDown s (Page.trj j) = false) ∧
    (∃ (j : Nat) (i : Nat) (v : Nat) (w : Nat) (q : Nat) (s : State), j < 64 ∧ i < 64 ∧ s.stage ≠ Stage.tripped ∧ v = rd s (Page.trj j)
    (F.trj_COUNTER.ix i) ∧ w = rd s (Page.trj j) (F.trj_WATCH.ix i) ∧ q = rd s (Page.trj j) F.trj_WATCH_Q ∧ s.trv.watchWait.contains (j,
    i) = false) ∧
    (∃ (j : Nat) (i : Nat) (v : Nat) (w : Nat) (q : Nat) (pid : Nat) (s : State) (s1 : State), hwPost s (Agent.trvJob j) q (natLE 1 i ++
    natLE 7 0 ++ natLE 8 v) 255 65535 0 false = (PqRes.parcel pid, s1) ∧ j < 64 ∧ i < 64 ∧ s.stage ≠ Stage.tripped ∧ v = rd s (Page.trj j)
    (F.trj_COUNTER.ix i) ∧ w = rd s (Page.trj j) (F.trj_WATCH.ix i) ∧ q = rd s (Page.trj j) F.trj_WATCH_Q ∧ s.trv.watchWait = [(j, i)] ∧
    bitAt w 63 = true ∧ w % 2 ^ 63 ≤ v ∧ qOwner s q = ownerOf s (Page.trj j)) :=
  ⟨⟨7, 255, [8], tp 2, pk0, tiS (tp 2), by decide +kernel⟩,
   ⟨7, 255, ky, tp 2, pk0, rp 0 false, tiS (tp 2), by decide +kernel⟩,
   ⟨7, 255, ky, tp 4, pk0, rp 5 false, tiS (tp 4), by decide +kernel⟩,
   ⟨7, 255, ky, tp 1, pk0, rp 0 false, tiS (tp 1), by decide +kernel⟩,
   ⟨7, 255, ky, { tp 1 with req := { rq 1 with len := 16 } }, pk0, rp 0 false, tiled (tiS { tp 1 with req := { rq 1 with len := 16 } }) 0
    (newTile 1 0), [], (writeAll 0 (pieces 0 16) [1] (tiled (tiS { tp 1 with req := { rq 1 with len := 16 } }) 0 (newTile 1 0))).2,
    by decide +kernel⟩,
   ⟨7, 255, ky, tp 1, pk0, rp 0 false, setTrc (tiS (tp 1)) 254 [{ ti 1 with id := 1, attached := some 0 }], 254,
    { ti 1 with id := 1, attached := some 0 }, 1, by decide +kernel⟩,
   ⟨7, 255, ky, tp 6, pk0, rp 0 false, tiS (tp 6), by decide +kernel⟩,
   ⟨7, 255, ky, tp 7, pk0, rp 0 false, (tiled (tiS (tp 7)) 0 (newTile 1 0)), (writeAll 0 (pieces 0 8) [1] (tiled (tiS (tp 7)) 0 (newTile
    1 0))).2, [], by decide +kernel⟩,
   ⟨7, 255, ky, { tp 7 with laddr := tieredEnd }, pk0, rp 0 false,
    (mst (let s := own (tiS { tp 7 with laddr := tieredEnd }) (.stn 0) 0; setPtn s 0 { ptn s 0 with names := [(0, { name := [65], station := 0, pair := false })] }) 0 (fun x => { x with zeroStore := true })),
    (mst (let s := own (tiS { tp 7 with laddr := tieredEnd }) (.stn 0) 0; setPtn s 0 { ptn s 0 with names := [(0, { name := [65], station := 0, pair := false })] }) 0 (fun x => { x with zeroStore := true })),
    by decide +kernel⟩,
   ⟨7, 255, ky, tp 2, pk0, rp 1 false, tiS (tp 2), by decide +kernel⟩,
   ⟨7, 255, ky, tp 1, pk0, rp 0 true, sh (tiS (tp 1)) (.trc 255) F.trc_BUSY_LIMIT_US 0, by decide +kernel⟩,
   ⟨7, 255, ky, tp 1, pk0, rp 0 true, sh (tiS (tp 1)) (.trc 255) F.trc_BUSY_LIMIT_US 1, by decide +kernel⟩,
   ⟨7, 255, tp 1, pk0, sh (tiS (tp 1)) (.trc 255) F.trc_RETRY_US 1, by decide +kernel⟩,
   ⟨7, 255, tp 1, pk0, sh (sh (tiS (tp 1)) (.trc 255) F.trc_RETRY_US 0) (.trc 255) F.trc_RETRIES 1, by decide +kernel⟩,
   ⟨7, 255, tp 6, pk0, sh (tiS (tp 6)) (.trc 255) F.trc_RETRY_US 0, by decide +kernel⟩,
   ⟨7, 255, { tp 6 with pkts := [{ pk0 with busy := true }] }, { pk0 with busy := true }, sh (sh (tiS
    { tp 6 with pkts := [{ pk0 with busy := true }] }) (.trc 255) F.trc_RETRY_US 0) (.trc 255) F.trc_BUSY_LIMIT_US 0, by decide +kernel⟩,
   ⟨7, 255, { tp 6 with pkts := [{ pk0 with busy := true }] }, { pk0 with busy := true }, sh (sh (tiS
    { tp 6 with pkts := [{ pk0 with busy := true }] }) (.trc 255) F.trc_RETRY_US 0) (.trc 255) F.trc_BUSY_LIMIT_US 1, by decide +kernel⟩,
   ⟨7, rdy, by decide +kernel⟩,
   ⟨5, 4, false, rdy, by decide +kernel⟩,
   ⟨5, 4, false,
    { rdy with trv := { Traverse.reset with witness := List.replicate 1024 { subject := 6, cls := 4, injected := false, count := 1, first := 0, opened := 0 } } },
    by decide +kernel⟩,
   ⟨5, 4, false, { subject := 5, cls := 4, injected := false, count := 1, first := 0, opened := 0 },
    { own (sh rdy .trg F.trg_WIT_WINDOW_US 0) (.pq 0) 0 with trv := { Traverse.reset with witness := [({ subject := 5, cls := 4, injected := false, count := 1, first := 0, opened := 0 })] } },
    by decide +kernel⟩,
   ⟨5, 4, false, { subject := 5, cls := 4, injected := false, count := 1, first := 0, opened := 0 },
    { sh rdy .trg F.trg_WIT_WINDOW_US 1 with trv := { Traverse.reset with witness := [({ subject := 5, cls := 4, injected := false, count := 1, first := 0, opened := 0 })] } },
    by decide +kernel⟩,
   ⟨.pf, 63, 63, rdy, by decide +kernel⟩,
   ⟨63, 63, 0, 0, 0, rdy, by decide +kernel⟩,
   ⟨63, 63, 0, 2 ^ 63, 32, 0,
    (let s := wr (wr (qOn (own (part rdy 0) (.trj 63) 0) 32 0) (.trj 63) (F.trj_WATCH.ix 63) (2 ^ 63)) (.trj 63) F.trj_WATCH_Q 32; { s with trv := { Traverse.reset with watchWait := [(63, 63)] } }),
    _, pair_eq (by decide +kernel), by decide +kernel⟩⟩

/-- Each case of `Obligations.TraverseBarriers` has a state and operands. -/
theorem witness_traverseBarriers :
    (∃ (k : Nat) (epoch : Nat) (src : Nat) (mem : Nat) (key : List Byte) (arr : List Nat) (others : List BarEpoch) (first : Nat) (s :
    State), k < 16 ∧ s.stage ≠ Stage.tripped ∧ slotKey s (ef s Page.trg (F.trg_BAR_JOB.ix k)) = some key ∧ leaseState s = 1 ∧ (peerOf s
    src).st ≠ 2 ∧ mem = ef s Page.trg (F.trg_BAR_MEMBERS.ix k) ∧ 0 < mem ∧ ef s Page.trg (F.trg_BAR_ROOT.ix k) = localPeer s ∧ (k, epoch)
    ∉ s.trv.dropped ∧ s.trv.epochs = others ++ [{ k := k, epoch := epoch, arrived := arr, first := first }] ∧ (∀ e ∈ others, ¬(e.k = k ∧
    e.epoch = epoch)) ∧ src ∉ arr ∧ arr.length + 1 < mem) ∧
    (∃ (k : Nat) (epoch : Nat) (src : Nat) (mem : Nat) (key : List Byte) (arr : List Nat) (others : List BarEpoch) (first : Nat) (s :
    State), k < 16 ∧ s.stage ≠ Stage.tripped ∧ slotKey s (ef s Page.trg (F.trg_BAR_JOB.ix k)) = some key ∧ leaseState s = 1 ∧ (peerOf s
    src).st ≠ 2 ∧ mem = ef s Page.trg (F.trg_BAR_MEMBERS.ix k) ∧ 0 < mem ∧ ef s Page.trg (F.trg_BAR_ROOT.ix k) = localPeer s ∧ (k, epoch)
    ∉ s.trv.dropped ∧ s.trv.epochs = others ++ [{ k := k, epoch := epoch, arrived := arr, first := first }] ∧ (∀ e ∈ others, ¬(e.k = k ∧
    e.epoch = epoch)) ∧ src ∈ arr ∧ arr.length < mem) ∧
    (∃ (k : Nat) (epoch : Nat) (src : Nat) (mem : Nat) (key : List Byte) (arr : List Nat) (others : List BarEpoch) (first : Nat) (s :
    State), k < 16 ∧ s.stage ≠ Stage.tripped ∧ slotKey s (ef s Page.trg (F.trg_BAR_JOB.ix k)) = some key ∧ leaseState s = 1 ∧ (peerOf s
    src).st ≠ 2 ∧ mem = ef s Page.trg (F.trg_BAR_MEMBERS.ix k) ∧ 0 < mem ∧ ef s Page.trg (F.trg_BAR_ROOT.ix k) = localPeer s ∧ (k, epoch)
    ∉ s.trv.dropped ∧ s.trv.epochs = others ++ [{ k := k, epoch := epoch, arrived := arr, first := first }] ∧ (∀ e ∈ others, ¬(e.k = k ∧
    e.epoch = epoch)) ∧ src ∉ arr ∧ mem = arr.length + 1 ∧ localPeer s ∉ arr ++ [src]) ∧
    (∃ (k : Nat) (epoch : Nat) (src : Nat) (key : List Byte) (s : State), k < 16 ∧ s.stage ≠ Stage.tripped ∧ leaseState s = 1 ∧ (peerOf s
    src).st ≠ 2 ∧ slotKey s (ef s Page.trg (F.trg_BAR_JOB.ix k)) = some key ∧ 1 < ef s Page.trg (F.trg_BAR_MEMBERS.ix k) ∧ ef s Page.trg
    (F.trg_BAR_ROOT.ix k) = localPeer s ∧ (k, epoch) ∉ s.trv.dropped ∧ (∀ e ∈ s.trv.epochs, ¬(e.k = k ∧ e.epoch = epoch))) ∧
    (∃ (k : Nat) (a : Arrive) (s : State), k < 16 ∧ s.stage ≠ Stage.tripped ∧ leaseState s ≠ 1 ∧ ((peerOf s a.src).st = 2 ∨ slotKey s (ef
    s Page.trg (F.trg_BAR_JOB.ix k)) = some a.key)) ∧
    (∃ (k : Nat) (r : Release) (s : State), k < 16 ∧ s.stage ≠ Stage.tripped ∧ leaseState s ≠ 1 ∧ slotKey s (ef s Page.trg
    (F.trg_BAR_JOB.ix k)) = some r.key) ∧
    (∃ (k : Nat) (a : Arrive) (s : State), k < 16 ∧ s.stage ≠ Stage.tripped ∧ (peerOf s a.src).st ≠ 2 ∧ slotKey s (ef s Page.trg
    (F.trg_BAR_JOB.ix k)) ≠ some a.key) ∧
    (∃ (k : Nat) (r : Release) (s : State), k < 16 ∧ s.stage ≠ Stage.tripped ∧ slotKey s (ef s Page.trg (F.trg_BAR_JOB.ix k)) ≠ some
    r.key) ∧
    (∃ (k : Nat) (epoch : Nat) (tRel : Nat) (key : List Byte) (w : BarWait) (s : State), k < 16 ∧ s.stage ≠ Stage.tripped ∧ leaseState s =
    1 ∧ slotKey s (ef s Page.trg (F.trg_BAR_JOB.ix k)) = some key ∧ mapFind s.trv.barWait k = some w ∧ w.epoch = epoch ∧ w.rel = none ∧ 0
    < tRel ∧ tRel < 2 ^ 63 ∧ timeNow s ≤ (↑(tRel - 1) - ↑(ef s Page.mer F.mer_X_LEAD)) * 2 ^ 48) ∧
    (∃ (k : Nat) (epoch : Nat) (tRel : Nat) (key : List Byte) (w : BarWait) (s : State) (s1 : State) (s2 : State), k < 16 ∧ s.stage ≠
    Stage.tripped ∧ leaseState s = 1 ∧ slotKey s (ef s Page.trg (F.trg_BAR_JOB.ix k)) = some key ∧ mapFind s.trv.barWait k = some w ∧
    w.epoch = epoch ∧ w.rel = none ∧ 0 < tRel ∧ tRel < 2 ^ 63 ∧ (↑(tRel - 1) - ↑(ef s Page.mer F.mer_X_LEAD)) * 2 ^ 48 < timeNow s ∧ s1 =
    wr (wr s Page.mer (F.mer_AT.ix (8 + k)) (tRel - 1)) Page.mer (F.mer_PERIOD.ix (8 + k)) 0 ∧ s2 =
    { s1 with trv := { s1.trv with barWait := mapPut s1.trv.barWait k { w with rel := some tRel, late := true } } }) ∧
    (∃ (k : Nat) (key : List Byte) (s : State), k < 16 ∧ s.stage ≠ Stage.tripped ∧ mapFind s.trv.barWait k = none ∧ slotKey s (ef s
    Page.trg (F.trg_BAR_JOB.ix k)) = some key) ∧
    (∃ (k : Nat) (w : BarWait) (s : State), k < 16 ∧ s.stage ≠ Stage.tripped ∧ mapFind s.trv.barWait k = some w ∧ w.fired = false) ∧
    (∃ (k : Nat) (w : BarWait) (s : State) (tRel : Nat) (it : TrvItem), k < 16 ∧ s.stage ≠ Stage.tripped ∧ mapFind s.trv.barWait k = some
    w ∧ w.fired = true ∧ w.rel = some tRel ∧ trc s w.c = [it] ∧ it.id = w.id) :=
  ⟨⟨15, 65535, 5, 3, ky, [6], [], 0, barE [{ k := 15, epoch := 65535, arrived := [6], first := 0 }] [], by decide +kernel⟩,
   ⟨15, 65535, 5, 3, ky, [5, 6], [], 0, barE [{ k := 15, epoch := 65535, arrived := [5, 6], first := 0 }] [], by decide +kernel⟩,
   ⟨15, 65535, 5, 3, ky, [6, 7], [], 0, barE [{ k := 15, epoch := 65535, arrived := [6, 7], first := 0 }] [], by decide +kernel⟩,
   ⟨15, 0, 5, ky, barE [{ k := 15, epoch := 65535, arrived := [6, 7], first := 0 }] [], by decide +kernel⟩,
   ⟨15, { src := 5, key := ky }, wr trvS .trg F.trg_LEASE_STATE 2, by decide +kernel⟩,
   ⟨15, { tRel := 1, key := ky }, wr trvS .trg F.trg_LEASE_STATE 2, by decide +kernel⟩,
   ⟨15, { src := 5, key := [8] }, barE [{ k := 15, epoch := 65535, arrived := [6], first := 0 }] [], by decide +kernel⟩,
   ⟨15, { tRel := 1, key := [8] }, barE [{ k := 15, epoch := 65535, arrived := [6], first := 0 }] [], by decide +kernel⟩,
   ⟨15, 9, 1 + ef rdy .mer F.mer_X_LEAD, ky, bw false none, act1 (barE [] [(15, bw false none)]) .mer, by decide +kernel⟩,
   ⟨15, 9, 1, ky, bw false none, (wr (barE [] [(15, bw false none)]) .mer F.QUIESCED 1), wr (wr ((wr (barE [] [(15, bw false none)]) .mer
    F.QUIESCED 1)) .mer (F.mer_AT.ix (8 + 15)) 0) .mer (F.mer_PERIOD.ix (8 + 15)) 0,
    (let s1 := wr (wr ((wr (barE [] [(15, bw false none)]) .mer F.QUIESCED 1)) .mer (F.mer_AT.ix (8 + 15)) 0) .mer (F.mer_PERIOD.ix (8 + 15)) 0; { s1 with trv := { s1.trv with barWait := mapPut s1.trv.barWait 15 { bw false none with rel := some 1, late := true } } }),
    by decide +kernel⟩,
   ⟨0, ky, trvS, by decide +kernel⟩,
   ⟨15, bw false none, barE [] [(15, (bw false none))], by decide +kernel⟩,
   ⟨15, bw true (some 5), barE [] [(15, (bw true (some 5)))], 5, ti 8, by decide +kernel⟩⟩

/-- Each case of `Obligations.BarrierTimeouts` has a state and operands. -/
theorem witness_barrierTimeouts :
    (∃ (k : Nat) (w : BarWait) (s : State), k < 16 ∧ s.stage ≠ Stage.tripped ∧ mapFind s.trv.barWait k = some w ∧ s.mer.frc < w.since +
    1000000 * ef s Page.trg (F.trg_BAR_TIMEOUT_MS.ix k)) ∧
    (∃ (k : Nat) (w : BarWait) (s : State), k < 16 ∧ s.stage ≠ Stage.tripped ∧ mapFind s.trv.barWait k = some w ∧ w.since + 1000000 * ef s
    Page.trg (F.trg_BAR_TIMEOUT_MS.ix k) ≤ s.mer.frc) ∧
    (∃ (k : Nat) (c : Nat) (w : BarWait) (it : TrvItem) (s : State) (s1 : State), k < 16 ∧ s.stage ≠ Stage.tripped ∧ s.trv.barWait = [(k,
    w)] ∧ s.trv.chans = [(c, [it])] ∧ w.c = c ∧ w.id = it.id ∧ it.done = none ∧ w.since + 1000000 * ef s Page.trg (F.trg_BAR_TIMEOUT_MS.ix
    k) ≤ s.mer.frc ∧ s1 = { (disarmTrigger s (8 + k)) with trv := { s.trv with chans := [], barWait := [] } }) ∧
    (∃ (k : Nat) (epoch : Nat) (e : BarEpoch) (s : State), k < 16 ∧ s.stage ≠ Stage.tripped ∧ s.trv.epochs = [e] ∧ e.k = k ∧ e.epoch =
    epoch ∧ e.first + 1000000 * ef s Page.trg (F.trg_BAR_TIMEOUT_MS.ix k) ≤ s.mer.frc) ∧
    (∃ (k : Nat) (epoch : Nat) (e : BarEpoch) (s : State), k < 16 ∧ s.stage ≠ Stage.tripped ∧ s.trv.epochs = [e] ∧ e.k = k ∧ e.epoch =
    epoch ∧ s.mer.frc < e.first + 1000000 * ef s Page.trg (F.trg_BAR_TIMEOUT_MS.ix k)) ∧
    (∃ (k : Nat) (epoch : Nat) (key : List Byte) (s : State), k < 16 ∧ s.stage ≠ Stage.tripped ∧ (k, epoch) ∈ s.trv.dropped ∧ slotKey s
    (ef s Page.trg (F.trg_BAR_JOB.ix k)) = some key) :=
  ⟨⟨15, bw false none, sh (barE [] [(15, (bw false none))]) .trg (F.trg_BAR_TIMEOUT_MS.ix 15) 1, by decide +kernel⟩,
   ⟨15, bw false none, sh (barE [] [(15, (bw false none))]) .trg (F.trg_BAR_TIMEOUT_MS.ix 15) 0, by decide +kernel⟩,
   ⟨15, 255, bw false none, ti 8, sh (barE [] [(15, bw false none)]) .trg (F.trg_BAR_TIMEOUT_MS.ix 15) 0,
    (let s := sh (barE [] [(15, bw false none)]) .trg (F.trg_BAR_TIMEOUT_MS.ix 15) 0; { disarmTrigger s 23 with trv := { s.trv with chans := [], barWait := [] } }),
    by decide +kernel⟩,
   ⟨15, 65535, { k := 15, epoch := 65535, arrived := [5], first := 0 }, sh (barE
    [({ k := 15, epoch := 65535, arrived := [5], first := 0 })] []) .trg (F.trg_BAR_TIMEOUT_MS.ix 15) 0, by decide +kernel⟩,
   ⟨15, 65535, { k := 15, epoch := 65535, arrived := [5], first := 0 }, sh (barE
    [({ k := 15, epoch := 65535, arrived := [5], first := 0 })] []) .trg (F.trg_BAR_TIMEOUT_MS.ix 15) 1, by decide +kernel⟩,
   ⟨15, 65535, ky, { trvS with trv := { trvS.trv with dropped := [(15, 65535)] } }, by decide +kernel⟩⟩

/-- Each case of `Obligations.PartitionCommands` has a state and operands. -/
theorem witness_partitionCommands :
    (∃ (f : Func) (p : Nat) (vf : Nat) (s : State), PartOpen s f ∧ p < 64 ∧ vf < 128 ∧ pstate s p = 0 ∧ 0 < vf ∧ (vf ≤ rd s Page.hif
    F.hif_NUM_VFS) ∧ ptnOfVf s vf = none) ∧
    (∃ (f : Func) (p : Nat) (vf : Nat) (s : State), PartOpen s f ∧ p < 64 ∧ vf < 128 ∧ pstate s p ≠ 0) ∧
    (∃ (f : Func) (p : Nat) (vf : Nat) (s : State), PartOpen s f ∧ p < 64 ∧ vf < 128 ∧ pstate s p = 0 ∧ (vf = 0 ∨ rd s Page.hif
    F.hif_NUM_VFS < vf ∨ (ptnOfVf s vf).isSome = true)) ∧
    (∃ (f : Func) (p : Nat) (s : State) (s1 : State), PartOpen s f ∧ p < 64 ∧ (s1 = asked s p (rd s Page.hif F.hif_PART_VF)) ∧ pstate s p
    ≠ 1) ∧
    (∃ (f : Func) (p : Nat) (s : State) (s1 : State), PartOpen s f ∧ p < 64 ∧ (s1 = asked s p (rd s Page.hif F.hif_PART_VF)) ∧ pstate s p
    = 1 ∧ destroyBlocked s1 p = true) ∧
    (∃ (f : Func) (p : Nat) (s : State) (s1 : State), PartOpen s f ∧ p < 64 ∧ (s1 = asked s p (rd s Page.hif F.hif_PART_VF)) ∧ pstate s p
    = 1 ∧ destroyBlocked s1 p = false) ∧
    (∃ (f : Func) (p : Nat) (s : State) (s1 : State) (it : HostItem), PartOpen s f ∧ p < 64 ∧ (s1 = asked s p (rd s Page.hif
    F.hif_PART_VF)) ∧ pstate s p = 1 ∧ (ptn s p).items = [it] ∧ it.journal = true ∧ it.lb = LbSt.accepted ∧ it.status = none ∧ it.confirm
    = false) ∧
    (∃ (f : Func) (p : Nat) (s : State) (s1 : State), PartOpen s f ∧ p < 64 ∧ (s1 = asked s p (rd s Page.hif F.hif_PART_VF)) ∧ pstate s p
    = 1 ∧ (∀ it ∈ (ptn s p).items, it.journal = false)) ∧
    (∃ (p : Nat) (s : State), p < 64 ∧ s.stage ≠ Stage.tripped ∧ pstate s p = 2 ∧ wiped s p = true) ∧
    (∃ (p : Nat) (s : State), p < 64 ∧ s.stage ≠ Stage.tripped ∧ (pstate s p ≠ 2 ∨ wiped s p = false)) ∧
    (∃ (vf : Nat) (p : Nat) (s : State), 1 ≤ vf ∧ vf ≤ 64 ∧ s.stage ≠ Stage.tripped ∧ ptnOfVf s vf = some p) ∧
    (∃ (vf : Nat) (s : State), 1 ≤ vf ∧ vf ≤ 64 ∧ s.stage ≠ Stage.tripped ∧ ptnOfVf s vf = none) ∧
    (∃ (p : Nat) (k : Nat) (n : Nat) (s : State) (m : Migration) (x : Tile), p < 64 ∧ k < 16 ∧ n < 1024 ∧ s.stage ≠ Stage.tripped ∧ migOf
    s p n = some m ∧ m.srcTier = 3 ∧ m.dstUnit.isSome = true ∧ tileOf s p n = some x ∧ quiesced s Page.tir = false) ∧
    (∃ (p : Nat) (k : Nat) (n : Nat) (s : State), p < 64 ∧ k < 16 ∧ n < 1024 ∧ s.stage ≠ Stage.tripped ∧ migOf s p n = none) ∧
    (∃ (p : Nat) (k : Nat) (n : Nat) (s : State), p < 64 ∧ k < 16 ∧ n < 1024 ∧ s.stage ≠ Stage.tripped ∧ mayFetch s p k = true) ∧
    (∃ (p : Nat) (k : Nat) (n : Nat) (s : State), p < 64 ∧ k < 16 ∧ n < 1024 ∧ s.stage ≠ Stage.tripped ∧ mayFetch s p k = false) ∧
    (∃ (p : Nat) (k : Nat) (n : Nat) (s : State) (h : SqHeld), p < 64 ∧ k < 16 ∧ n < 1024 ∧ s.stage ≠ Stage.tripped ∧ (sqAt s p k).held =
    some h ∧ h.pid.isSome = true ∧ h.copied = false ∧ entryInline h.bytes = false ∧ (busOf s p).isSome = true) ∧
    (∃ (p : Nat) (k : Nat) (n : Nat) (s : State), p < 64 ∧ k < 16 ∧ n < 1024 ∧ s.stage ≠ Stage.tripped ∧ (∀ it ∈ (ptn s p).items,
    it.confirm = false)) ∧
    (∃ (p : Nat) (k : Nat) (n : Nat) (s : State), p < 64 ∧ k < 16 ∧ n < 1024 ∧ s.stage ≠ Stage.tripped ∧ (ptn s p).recovering = false) ∧
    (∃ (p : Nat) (k : Nat) (n : Nat) (s : State) (it : HostItem), p < 64 ∧ k < 16 ∧ n < 1024 ∧ s.stage ≠ Stage.tripped ∧ (ptn s
    p).recovering = true ∧ (ptn s p).mirrorDue = false ∧ (List.find? (fun it => it.redo && decide (it.seq = n)) (ptn s p).items = some it)
    ∧ it.lb = LbSt.accepted ∧ it.stake = none ∧ (busOf s p).isSome = true) ∧
    (∃ (p : Nat) (k : Nat) (n : Nat) (s : State) (it : MovItem), p < 64 ∧ k < 16 ∧ n < 1024 ∧ s.stage ≠ Stage.tripped ∧ (List.find? (fun
    it => readsHost it || readsSpilled s (ownerOf s (Page.mov n)) it) (mov s n).items = some it)) ∧
    (∃ (p : Nat) (k : Nat) (n : Nat) (s : State), p < 64 ∧ k < 16 ∧ n < 1024 ∧ s.stage ≠ Stage.tripped ∧ (List.find? (fun it => readsHost
    it || readsSpilled s (ownerOf s (Page.mov n)) it) (mov s n).items = none)) :=
  ⟨⟨.pf, 63, 64, wr rdy .hif F.hif_NUM_VFS 64, by decide +kernel⟩,
   ⟨.pf, 63, 127, part rdy 63, by decide +kernel⟩,
   ⟨.pf, 0, 65, wr rdy .hif F.hif_NUM_VFS 64, by decide +kernel⟩,
   ⟨.pf, 0, rdy, asked rdy 0 0, by decide +kernel⟩,
   ⟨.pf, 0, { part rdy 0 with plat := { Plat.reset with images := [(0, 1)], committed := [(0, true)] } }, asked
    ({ part rdy 0 with plat := { Plat.reset with images := [(0, 1)], committed := [(0, true)] } }) 0 0, by decide +kernel⟩,
   ⟨.pf, 63, part rdy 63, asked (part rdy 63) 63 0, by decide +kernel⟩,
   ⟨.pf, 63, hostI ({ hi0 with journal := true }), asked (hostI ({ hi0 with journal := true })) 63 0, { hi0 with journal := true },
    by decide +kernel⟩,
   ⟨.pf, 63, hostI hi0, asked (hostI hi0) 63 0, by decide +kernel⟩,
   ⟨63, wr rdy (.ptn 63) F.ptn_PSTATE 2, by decide +kernel⟩,
   ⟨63, rdy, by decide +kernel⟩,
   ⟨64, 63, hostH (hd 1 (some 5)), by decide +kernel⟩,
   ⟨1, rdy, by decide +kernel⟩,
   ⟨0, 0, 5,
    { tiled (act1 (part rdy 0) .tir) 5 ({ newTile 3 0 with migrating := true }) with migs := [{ ptn := 0, tile := 5, srcTier := 3, srcUnit := 0, dstTier := 2, dstUnit := some 3, committed := false, pin := false, queued := false, after := none }] },
    { ptn := 0, tile := 5, srcTier := 3, srcUnit := 0, dstTier := 2, dstUnit := some 3, committed := false, pin := false, queued := false, after := none },
    { newTile 3 0 with migrating := true }, by decide +kernel⟩,
   ⟨63, 15, 1023, host, by decide +kernel⟩,
   ⟨63, 15, 1023, host, by decide +kernel⟩,
   ⟨0, 0, 0, rdy, by decide +kernel⟩,
   ⟨63, 15, 0, hostH (hd 1 (some 5)), hd 1 (some 5), by decide +kernel⟩,
   ⟨63, 0, 0, hostI hi0, by decide +kernel⟩,
   ⟨63, 0, 0, hostI hi0, by decide +kernel⟩,
   ⟨63, 15, 1023, setPtn host 63
    { ptn host 63 with recovering := true, items := [{ hi0 with redo := true, seq := 1023, journal := true }] },
    { hi0 with redo := true, seq := 1023, journal := true }, by decide +kernel⟩,
   ⟨0, 0, 1023, movs rdy 1023 (mit { desc0 with sx := true } (.running 0)), (mit { desc0 with sx := true } (.running 0)),
    by decide +kernel⟩,
   ⟨63, 15, 1023, host, by decide +kernel⟩⟩

/-- Each case of `Obligations.HostRings` has a state and operands. -/
theorem witness_hostRings :
    (∃ (f : Func) (p : Nat) (k : Nat) (v : Nat) (s : State), f.ok = true ∧ p < 64 ∧ k < 16 ∧ v < 65536 ∧ reach s f (Page.ptn p) = true ∧
    unitDown s (Page.ptn p) = false ∧ sideOk f (F.ptn_SQ_TAIL.ix k).who = true ∧ v < sqSize s p k) ∧
    (∃ (f : Func) (p : Nat) (k : Nat) (v : Nat) (s : State), f.ok = true ∧ p < 64 ∧ k < 16 ∧ v < 65536 ∧ reach s f (Page.ptn p) = true ∧
    unitDown s (Page.ptn p) = false ∧ sideOk f (F.ptn_SQ_TAIL.ix k).who = true ∧ sqSize s p k ≤ v) ∧
    (∃ (f : Func) (p : Nat) (k : Nat) (v : Nat) (s : State), f.ok = true ∧ p < 64 ∧ k < 16 ∧ v < 65536 ∧ reach s f (Page.ptn p) = true ∧
    unitDown s (Page.ptn p) = false ∧ sideOk f (F.ptn_CQ_HEAD.ix k).who = true ∧ cqSize s p k ≤ v) ∧
    (∃ (f : Func) (p : Nat) (k : Nat) (v : Nat) (s : State) (d : Nat), f.ok = true ∧ p < 64 ∧ k < 16 ∧ v < 65536 ∧ reach s f (Page.ptn p)
    = true ∧ unitDown s (Page.ptn p) = false ∧ sideOk f (F.ptn_CQ_HEAD.ix k).who = true ∧ v = ((cqAt s p k).released + d) % cqSize s p k ∧
    0 < d ∧ d < cqSize s p k ∧ (cqAt s p k).released + d ≤ (cqAt s p k).written) ∧
    (∃ (f : Func) (p : Nat) (k : Nat) (v : Nat) (s : State) (d : Nat), f.ok = true ∧ p < 64 ∧ k < 16 ∧ v < 65536 ∧ reach s f (Page.ptn p)
    = true ∧ unitDown s (Page.ptn p) = false ∧ sideOk f (F.ptn_CQ_HEAD.ix k).who = true ∧ v = ((cqAt s p k).released + d) % cqSize s p k ∧
    0 < d ∧ d < cqSize s p k ∧ (cqAt s p k).written < (cqAt s p k).released + d) ∧
    (∃ (f : Func) (p : Nat) (k : Nat) (v : Nat) (s : State), f.ok = true ∧ p < 64 ∧ k < 16 ∧ v < 65536 ∧ reach s f (Page.ptn p) = true ∧
    unitDown s (Page.ptn p) = false ∧ sideOk f (F.ptn_CQ_HEAD.ix k).who = true ∧ v = (cqAt s p k).released % cqSize s p k ∧ (cqAt s p
    k).written = (cqAt s p k).released + cqSize s p k) ∧
    (∃ (p : Nat) (k : Nat) (s : State) (v : Nat) (b : List Byte) (h : SqHeld), p < 64 ∧ k < 16 ∧ s.stage ≠ Stage.tripped ∧ mayFetch s p k
    = true ∧ busOf s p = some v ∧ h =
    { bytes := (hostLoad s v (sqHeadAddr s p k) 64 b).1, stake := none, room := none, pid := none, copied := false, status := none, counted := false }) ∧
    (∃ (p : Nat) (k : Nat) (s : State), p < 64 ∧ k < 16 ∧ s.stage ≠ Stage.tripped ∧ mayFetch s p k = false) ∧
    (∃ (p : Nat) (k : Nat) (c : Nat) (st : Nat) (h : SqHeld) (b : Option (List Byte)) (s : State) (i : Instr × Bool), p < 64 ∧ k < 16 ∧
    s.stage ≠ Stage.tripped ∧ (sqAt s p k).held = some h ∧ h.stake.isSome = true ∧ h.room = some c ∧ h.pid = none ∧ h.status = none ∧ c <
    16 ∧ heldBlock s (Page.ptn p) = false ∧ (heldBlock s Page.hif = false) ∧ ef s (Page.ptn p) (F.ptn_JOURNAL.ix k) = 0 ∧ entryStatus s p
    h.bytes = some st ∧ i ∈ [(Instr.parcel p k b, decide (entryOpc h.bytes ≠ 2)), (Instr.sqNop p k, decide (entryOpc h.bytes = 2))] ∧ i.2
    = true) ∧
    (∃ (p : Nat) (k : Nat) (c : Nat) (st : Nat) (h : SqHeld) (b : Option (List Byte)) (s : State) (i : Instr × Bool), p < 64 ∧ k < 16 ∧
    s.stage ≠ Stage.tripped ∧ (sqAt s p k).held = some h ∧ h.stake.isSome = true ∧ h.room = some c ∧ h.pid = none ∧ h.status = none ∧ c <
    16 ∧ heldBlock s (Page.ptn p) = false ∧ (heldBlock s Page.hif = false) ∧ ef s (Page.ptn p) (F.ptn_JOURNAL.ix k) = 0 ∧ entryStatus s p
    h.bytes = some st ∧ i ∈ [(Instr.parcel p k b, decide (entryOpc h.bytes ≠ 2)), (Instr.sqNop p k, decide (entryOpc h.bytes = 2))] ∧ i.2
    = false) ∧
    (∃ (p : Nat) (k : Nat) (c : Nat) (pid : Nat) (h : SqHeld) (b : Option (List Byte)) (s : State), p < 64 ∧ k < 16 ∧ s.stage ≠
    Stage.tripped ∧ (sqAt s p k).held = some h ∧ h.stake.isSome = true ∧ h.room = some c ∧ h.pid = some pid ∧ h.status = none ∧ c < 16 ∧
    heldBlock s (Page.ptn p) = false ∧ (heldBlock s Page.hif = false) ∧ entryOpc h.bytes = 1 ∧ ef s (Page.ptn p) (F.ptn_JOURNAL.ix k) = 0
    ∧ commitsWell s pid = true ∧ (h.copied = true ∨ entryInline h.bytes = true ∨ b.isSome = true ∧ (busOf s p).isSome = true)) ∧
    (∃ (p : Nat) (k : Nat) (c : Nat) (pid : Nat) (h : SqHeld) (s : State), p < 64 ∧ k < 16 ∧ s.stage ≠ Stage.tripped ∧ (sqAt s p k).held =
    some h ∧ h.stake.isSome = true ∧ h.room = some c ∧ h.pid = some pid ∧ h.status = none ∧ c < 16 ∧ heldBlock s (Page.ptn p) = false ∧
    (heldBlock s Page.hif = false) ∧ entryOpc h.bytes = 1 ∧ ef s (Page.ptn p) (F.ptn_JOURNAL.ix k) = 0 ∧ h.copied = false ∧ entryInline
    h.bytes = false ∧ (busOf s p).isSome = true) ∧
    (∃ (p : Nat) (k : Nat) (c : Nat) (pid : Nat) (v : Nat) (h : SqHeld) (r : List Byte) (s : State), p < 64 ∧ k < 16 ∧ s.stage ≠
    Stage.tripped ∧ (sqAt s p k).held = some h ∧ h.stake.isSome = true ∧ h.room = some c ∧ h.pid = some pid ∧ h.status = none ∧ c < 16 ∧
    heldBlock s (Page.ptn p) = false ∧ (heldBlock s Page.hif = false) ∧ entryOpc h.bytes = 1 ∧ ef s (Page.ptn p) (F.ptn_JOURNAL.ix k) ≠ 0
    ∧ h.copied = true ∧ busOf s p = some v ∧ r = logRecord (rd s (Page.ptn p) F.ptn_NEXT_SEQ) h.bytes (payload s pid) ∧ logBusy s p
    r.length = false) ∧
    (∃ (p : Nat) (k : Nat) (c : Nat) (pid : Nat) (v : Nat) (h : SqHeld) (r : List Byte) (s : State), p < 64 ∧ k < 16 ∧ s.stage ≠
    Stage.tripped ∧ (sqAt s p k).held = some h ∧ h.stake.isSome = true ∧ h.room = some c ∧ h.pid = some pid ∧ h.status = none ∧ c < 16 ∧
    heldBlock s (Page.ptn p) = false ∧ (heldBlock s Page.hif = false) ∧ entryOpc h.bytes = 1 ∧ ef s (Page.ptn p) (F.ptn_JOURNAL.ix k) ≠ 0
    ∧ h.copied = true ∧ busOf s p = some v ∧ r = logRecord (rd s (Page.ptn p) F.ptn_NEXT_SEQ) h.bytes (payload s pid) ∧ logBusy s p
    r.length = true) ∧
    (∃ (p : Nat) (c : Nat) (v : Nat) (it : HostItem) (s : State), p < 64 ∧ c < 16 ∧ s.stage = Stage.ready ∧ busOf s p = some v ∧ (ptn s
    p).items = [it] ∧ ef s (Page.ptn p) (F.ptn_CQ_EN.ix c) = 1 ∧ it.cq = c ∧ it.lb = LbSt.committing ∧ it.confirm = false ∧ it.pos = (cqAt
    s p c).written ∧ it.journal = false) ∧
    (∃ (p : Nat) (c : Nat) (s : State), p < 64 ∧ c < 16 ∧ s.stage ≠ Stage.tripped ∧ cqNext s p c = none) ∧
    (∃ (p : Nat) (it : HostItem) (s : State), p < 64 ∧ s.stage ≠ Stage.tripped ∧ (ptn s p).items = [it] ∧ it.confirm = false) ∧
    (∃ (p : Nat) (it : HostItem) (s : State), p < 64 ∧ s.stage ≠ Stage.tripped ∧ (ptn s p).items = [it] ∧ it.confirm = true ∧ it.lb =
    LbSt.accepted ∧ it.status = none ∧ Option.all (commitsWell s) it.pid = true) ∧
    (∃ (p : Nat) (it : HostItem) (s : State), p < 64 ∧ s.stage ≠ Stage.tripped ∧ (ptn s p).items = [it] ∧ it.confirm = true ∧ it.lb =
    LbSt.accepted ∧ it.status.isSome = true) ∧
    (∃ (p : Nat) (it : HostItem) (s : State), p < 64 ∧ s.stage ≠ Stage.tripped ∧ (ptn s p).items = [it] ∧ it.confirm = true ∧ it.lb =
    LbSt.committing ∧ it.stake = none) ∧
    (∃ (p : Nat) (s : State), p < 64 ∧ s.stage = Stage.ready ∧ (heldBlock s Page.hif = false) ∧ (ptn s p).recovering = true ∧ (ptn s
    p).mirrorDue = false ∧ (∀ it ∈ (ptn s p).items, it.redo = false)) ∧
    (∃ (p : Nat) (s : State), p < 64 ∧ s.stage = Stage.ready ∧ (heldBlock s Page.hif = false) ∧ (ptn s p).recovering = true ∧ recoverDone
    (recoverOn s p) p = false) ∧
    (∃ (p : Nat) (s : State), p < 64 ∧ s.stage = Stage.ready ∧ (heldBlock s Page.hif = false) ∧ (ptn s p).recovering = false) :=
  ⟨⟨.vf 64, 63, 15, 3, sh host (.ptn 63) (F.ptn_SQ_SIZE_LOG2.ix 15) 2, by decide +kernel⟩,
   ⟨.vf 64, 63, 15, 4, sh host (.ptn 63) (F.ptn_SQ_SIZE_LOG2.ix 15) 2, by decide +kernel⟩,
   ⟨.vf 64, 63, 15, 4, sh host (.ptn 63) (F.ptn_CQ_SIZE_LOG2.ix 15) 2, by decide +kernel⟩,
   ⟨.vf 64, 63, 15, 3, setCq (sh host (.ptn 63) (F.ptn_CQ_SIZE_LOG2.ix 15) 2) 63 15
    { Cq.idle with released := 6, reserved := 8, written := 7 }, 1, by decide +kernel⟩,
   ⟨.vf 64, 63, 15, 0, setCq (sh host (.ptn 63) (F.ptn_CQ_SIZE_LOG2.ix 15) 2) 63 15
    { Cq.idle with released := 6, reserved := 8, written := 7 }, 2, by decide +kernel⟩,
   ⟨.vf 64, 63, 15, 1, setCq (sh host (.ptn 63) (F.ptn_CQ_SIZE_LOG2.ix 15) 2) 63 15 { reserved := 9, released := 5, written := 9 },
    by decide +kernel⟩,
   ⟨63, 15, host, 64, List.replicate 64 1,
    { bytes := (hostLoad host 64 (sqHeadAddr host 63 15) 64 (List.replicate 64 1)).1, stake := none, room := none, pid := none, copied := false, status := none, counted := false },
    by decide +kernel⟩,
   ⟨0, 0, rdy, by decide +kernel⟩,
   ⟨63, 15, 15, 0xC0, hd 3 none, none, hostH (hd 3 none), (.parcel 63 15 none, decide (entryOpc (hd 3 none).bytes ≠ 2)),
    by decide +kernel⟩,
   ⟨63, 15, 15, 0, { hd 2 none with bytes := [2] ++ List.replicate 63 0 }, none, hostH
    ({ hd 2 none with bytes := [2] ++ List.replicate 63 0 }), (.parcel 63 15 none, decide (entryOpc
    ({ hd 2 none with bytes := [2] ++ List.replicate 63 0 }).bytes ≠ 2)), by decide +kernel⟩,
   ⟨63, 15, 15, 5, hd 1 (some 5), some [1], hostU (hd 1 (some 5)), by decide +kernel⟩,
   ⟨63, 15, 15, 5, hd 1 (some 5), hostU (hd 1 (some 5)), by decide +kernel⟩,
   ⟨63, 15, 15, 5, 64, { hd 1 (some 5) with copied := true }, logRecord (rd (sh (hostU ({ hd 1 (some 5) with copied := true })) (.ptn 63)
    (F.ptn_JOURNAL.ix 15) 1) (.ptn 63) F.ptn_NEXT_SEQ) ({ hd 1 (some 5) with copied := true }).bytes (payload (sh (hostU
    ({ hd 1 (some 5) with copied := true })) (.ptn 63) (F.ptn_JOURNAL.ix 15) 1) 5), sh (hostU ({ hd 1 (some 5) with copied := true }))
    (.ptn 63) (F.ptn_JOURNAL.ix 15) 1, by decide +kernel⟩,
   ⟨63, 15, 15, 5, 64, { hd 1 (some 5) with copied := true }, logRecord
    (rd ((let s := sh (hostU ({ hd 1 (some 5) with copied := true })) (.ptn 63) (F.ptn_JOURNAL.ix 15) 1; setPtn s 63 { ptn s 63 with items := [{ hi0 with journal := true, logLen := 128 }] })) (.ptn 63) F.ptn_NEXT_SEQ)
    ({ hd 1 (some 5) with copied := true }).bytes
    (payload ((let s := sh (hostU ({ hd 1 (some 5) with copied := true })) (.ptn 63) (F.ptn_JOURNAL.ix 15) 1; setPtn s 63 { ptn s 63 with items := [{ hi0 with journal := true, logLen := 128 }] })) 5),
    (let s := sh (hostU ({ hd 1 (some 5) with copied := true })) (.ptn 63) (F.ptn_JOURNAL.ix 15) 1; setPtn s 63 { ptn s 63 with items := [{ hi0 with journal := true, logLen := 128 }] }),
    by decide +kernel⟩,
   ⟨63, 15, 64, { hi0 with lb := .committing, status := some 0 }, sh (hostI ({ hi0 with lb := .committing, status := some 0 })) (.ptn 63)
    (F.ptn_CQ_EN.ix 15) 1, by decide +kernel⟩,
   ⟨63, 15, hostI hi0, by decide +kernel⟩,
   ⟨63, hi0, hostI hi0, by decide +kernel⟩,
   ⟨63, { hi0 with confirm := true }, hostI ({ hi0 with confirm := true }), by decide +kernel⟩,
   ⟨63, { hi0 with confirm := true, status := some 0 }, hostI ({ hi0 with confirm := true, status := some 0 }), by decide +kernel⟩,
   ⟨63, { hi0 with confirm := true, lb := .committing }, hostI ({ hi0 with confirm := true, lb := .committing }), by decide +kernel⟩,
   ⟨63, setPtn host 63 { ptn host 63 with recovering := true, items := [hi0] }, by decide +kernel⟩,
   ⟨63, setPtn (part (act1 rdy .hif) 63) 63 { ptn (part rdy 63) 63 with recovering := true, items := [{ hi0 with redo := true }] },
    by decide +kernel⟩,
   ⟨63, host, by decide +kernel⟩⟩

/-- Each case of `Obligations.HealthManager` has a state and operands. -/
theorem witness_healthManager :
    (∃ (t0 : Nat) (s : State), s.stage ≠ Stage.tripped ∧ s.hlt.openTick = some t0 ∧ t0 + 60000000000 ≤ s.mer.frc) ∧
    (∃ (t0 : Nat) (s : State), s.stage ≠ Stage.tripped ∧ s.hlt.openTick = some t0 ∧ s.mer.frc < t0 + 60000000000) ∧
    (∃ (s : State), s.stage ≠ Stage.tripped ∧ s.hlt.openTick = none) ∧
    (∃ (b : List Byte), b.length ≠ 100) ∧
    (∃ (b : List Byte) (s : State), b.length = 100 ∧ mapFind s.mon.anchors 1 = none) ∧
    (∃ (b : List Byte) (key : List Byte) (s : State), b.length = 100 ∧ mapFind s.mon.anchors 1 = some key ∧ leAt b 12 16 = s.mon.deviceId
    ∧ leAt b 1 1 = 1 ∧ zeroBytes b 2 4 = true ∧ zeroBytes b 28 36 = true ∧ 1 ≤ leAt b 0 1 ∧ leAt b 0 1 ≤ 3) ∧
    (∃ (b : List Byte) (r : Nat) (s : State) (s1 : State) (s2 : State), r = fmResult s b ∧ s1 = wr (wr s Page.hlt F.hlt_FM_RESULT r)
    Page.hlt F.hlt_FM_OP (leAt b 0 1) ∧ s2 = setEvt { s1 with mon := { s1.mon with lastFmSeq := leAt b 4 8 } } Page.hlt 22 ∧ s.stage ≠
    Stage.tripped ∧ endpointOn s = true ∧ leAt b 0 1 = 1) ∧
    (∃ (b : List Byte) (r : Nat) (s : State) (s1 : State) (s2 : State), r = fmResult s b ∧ s1 = wr (wr s Page.hlt F.hlt_FM_RESULT r)
    Page.hlt F.hlt_FM_OP (leAt b 0 1) ∧ s2 = setEvt { s1 with mon := { s1.mon with lastFmSeq := leAt b 4 8 } } Page.hlt 22 ∧ s.stage ≠
    Stage.tripped ∧ endpointOn s = true ∧ leAt b 0 1 = 2) ∧
    (∃ (b : List Byte) (r : Nat) (s : State) (s1 : State) (s2 : State), r = fmResult s b ∧ s1 = wr (wr s Page.hlt F.hlt_FM_RESULT r)
    Page.hlt F.hlt_FM_OP (leAt b 0 1) ∧ s2 = setEvt { s1 with mon := { s1.mon with lastFmSeq := leAt b 4 8 } } Page.hlt 22 ∧ s.stage ≠
    Stage.tripped ∧ endpointOn s = true ∧ leAt b 0 1 = 3) ∧
    (∃ (b : List Byte) (r : Nat) (s : State) (s1 : State) (s2 : State) (c : Instr), r = fmResult s b ∧ s1 = wr (wr s Page.hlt
    F.hlt_FM_RESULT r) Page.hlt F.hlt_FM_OP (leAt b 0 1) ∧ s2 = setEvt { s1 with mon := { s1.mon with lastFmSeq := leAt b 4 8 } } Page.hlt
    22 ∧ s.stage ≠ Stage.tripped ∧ endpointOn s = true ∧ (leAt b 0 1 = 0 ∨ 3 < leAt b 0 1) ∧ c ∈ [Instr.drain b, Instr.undrain b,
    Instr.expel b]) ∧
    (∃ (b : List Byte) (s : State) (c : Instr), s.stage ≠ Stage.tripped ∧ endpointOn s = false ∧ c ∈ [Instr.drain b, Instr.undrain b,
    Instr.expel b]) ∧
    (∃ (s : State), s.trv.chans = [] ∧ leaseState s = 1) ∧
    (∃ (s : State), s.trv.chans = [] ∧ platRunning s = true ∧ s.plat.stopping = false) ∧
    (∃ (s : State), s.stage ≠ Stage.tripped ∧ rd s Page.hlt F.hlt_DRAINING = 1 ∧ rd s Page.hlt F.hlt_DRAINED = 0 ∧ (∀ e ∈ s.ptns,
    e.2.items = [])) ∧
    (∃ (s : State), s.stage ≠ Stage.tripped ∧ (rd s Page.hlt F.hlt_DRAINING = 0 ∨ ∃ e ∈ s.ptns, e.2.items ≠ [])) :=
  ⟨⟨5, hw 60000000005, by decide +kernel⟩,
   ⟨5, hw 60000000004, by decide +kernel⟩,
   ⟨{ rdy with hlt := { rdy.hlt with openTick := none } }, by decide +kernel⟩,
   ⟨List.replicate 99 0, by decide +kernel⟩,
   ⟨fmB 1, rdy, by decide +kernel⟩,
   ⟨fmB 3, List.replicate 64 3, anch 1 rdy, by decide +kernel⟩,
   ⟨fmB 1, _, anch 1 pwr1, _, _, rfl, rfl, rfl, by decide +kernel⟩,
   ⟨fmB 2, _, anch 1 pwr1, _, _, rfl, rfl, rfl, by decide +kernel⟩,
   ⟨fmB 3, _, anch 1 pwr1, _, _, rfl, rfl, rfl, by decide +kernel⟩,
   ⟨fmB 4, _, anch 1 pwr1, _, _, .undrain (fmB 4), rfl, rfl, rfl, by decide +kernel⟩,
   ⟨fmB 1, pwr0, .drain (fmB 1), by decide +kernel⟩,
   ⟨trvS, by decide +kernel⟩,
   ⟨platS, by decide +kernel⟩,
   ⟨wr rdy .hlt F.hlt_DRAINING 1, by decide +kernel⟩,
   ⟨hostI hi0, by decide +kernel⟩⟩

/-- Each case of `Obligations.FaultInjection` has a state and operands. -/
theorem witness_faultInjection :
    (∃ (f : Func) (limit : Nat) (s : State), f.ok = true ∧ reach s f Page.hlt = true ∧ sideOk f F.hlt_INJ_REQ.who = true ∧ unitDown s
    Page.hlt = false ∧ limit < 4096 ∧ 1 ≤ limit ∧ limit ≤ 3600 ∧ policyPermits s = true) ∧
    (∃ (f : Func) (limit : Nat) (s : State), f.ok = true ∧ reach s f Page.hlt = true ∧ sideOk f F.hlt_INJ_REQ.who = true ∧ unitDown s
    Page.hlt = false ∧ limit < 4096 ∧ (limit = 0 ∨ 3600 < limit ∨ policyPermits s = false)) ∧
    (∃ (e : Nat) (s : State), s.stage ≠ Stage.tripped ∧ s.hlt.injEnd = some e ∧ e ≤ s.mer.frc) ∧
    (∃ (e : Nat) (s : State), s.stage ≠ Stage.tripped ∧ s.hlt.injEnd = some e ∧ s.mer.frc < e) ∧
    (∃ (p : Page) (s : State) (s1 : State) (c : Instr × Nat), p.ok = true ∧ reach s Func.pf p = true ∧ c ∈ [(Instr.injectCorrectable
    Func.pf p, 1), (Instr.injectUncorrectable Func.pf p, 2), (Instr.injectCondemn Func.pf p, 3), (Instr.injectLockLoss Func.pf p, 4)] ∧
    faultOn p c.2 = true ∧ consented s p = true ∧ (s1 = addSat (wr (wr s p F.FAULT c.2) p F.INJ_ARM (if c.2 < 3 then 1 else 0)) Page.hlt
    F.hlt_INJ_COUNT 1) ∧ (c.2 = 1 ∨ c.2 = 2)) ∧
    (∃ (p : Page) (s : State) (s1 : State) (c : Instr × Nat) (u : Nat), (∀ (q : ℕ), p ≠ Page.fhp q) ∧ p.ok = true ∧ reach s Func.pf p =
    true ∧ c ∈ [(Instr.injectCorrectable Func.pf p, 1), (Instr.injectUncorrectable Func.pf p, 2), (Instr.injectCondemn Func.pf p, 3),
    (Instr.injectLockLoss Func.pf p, 4)] ∧ faultOn p c.2 = true ∧ consented s p = true ∧ (s1 = addSat (wr (wr s p F.FAULT c.2) p F.INJ_ARM
    (if c.2 < 3 then 1 else 0)) Page.hlt F.hlt_INJ_COUNT 1) ∧ c.2 = 3 ∧ unitOf p = some u) ∧
    (∃ (p : Page) (s : State) (s1 : State) (c : Instr × Nat) (q : Nat), p.ok = true ∧ reach s Func.pf p = true ∧ c ∈
    [(Instr.injectCorrectable Func.pf p, 1), (Instr.injectUncorrectable Func.pf p, 2), (Instr.injectCondemn Func.pf p, 3),
    (Instr.injectLockLoss Func.pf p, 4)] ∧ faultOn p c.2 = true ∧ consented s p = true ∧ (s1 = addSat (wr (wr s p F.FAULT c.2) p F.INJ_ARM
    (if c.2 < 3 then 1 else 0)) Page.hlt F.hlt_INJ_COUNT 1) ∧ c.2 = 3 ∧ p = Page.fhp q) ∧
    (∃ (p : Page) (s : State) (s1 : State) (c : Instr × Nat) (q : Nat), p.ok = true ∧ reach s Func.pf p = true ∧ c ∈
    [(Instr.injectCorrectable Func.pf p, 1), (Instr.injectUncorrectable Func.pf p, 2), (Instr.injectCondemn Func.pf p, 3),
    (Instr.injectLockLoss Func.pf p, 4)] ∧ faultOn p c.2 = true ∧ consented s p = true ∧ (s1 = addSat (wr (wr s p F.FAULT c.2) p F.INJ_ARM
    (if c.2 < 3 then 1 else 0)) Page.hlt F.hlt_INJ_COUNT 1) ∧ c.2 = 4 ∧ p = Page.fhp q) ∧
    (∃ (p : Page) (s : State) (c : Instr × Nat), p.ok = true ∧ reach s Func.pf p = true ∧ c ∈ [(Instr.injectCorrectable Func.pf p, 1),
    (Instr.injectUncorrectable Func.pf p, 2), (Instr.injectCondemn Func.pf p, 3), (Instr.injectLockLoss Func.pf p, 4)] ∧ (faultOn p c.2 =
    false ∨ consented s p = false)) ∧
    (∃ (v : Nat) (p : Page) (s : State) (c : Instr × Nat), (Func.vf v).ok = true ∧ p.ok = true ∧ s.stage ≠ Stage.tripped ∧ c ∈
    [(Instr.injectCorrectable (Func.vf v) p, 1), (Instr.injectUncorrectable (Func.vf v) p, 2), (Instr.injectCondemn (Func.vf v) p, 3),
    (Instr.injectLockLoss (Func.vf v) p, 4)] ∧ reach s (Func.vf v) p = false) ∧
    (∃ (v : Nat) (p : Page) (s : State) (c : Instr × Nat), (Func.vf v).ok = true ∧ p.ok = true ∧ s.stage ≠ Stage.tripped ∧ c ∈
    [(Instr.injectCorrectable (Func.vf v) p, 1), (Instr.injectUncorrectable (Func.vf v) p, 2), (Instr.injectCondemn (Func.vf v) p, 3),
    (Instr.injectLockLoss (Func.vf v) p, 4)] ∧ reach s (Func.vf v) p = true ∧ rd s p F.INJ_ARM = 1 ∧ rd s p F.FAULT = c.2) ∧
    (∃ (v : Nat) (p : Page) (s : State) (c : Instr × Nat), (Func.vf v).ok = true ∧ p.ok = true ∧ s.stage ≠ Stage.tripped ∧ c ∈
    [(Instr.injectCorrectable (Func.vf v) p, 1), (Instr.injectUncorrectable (Func.vf v) p, 2), (Instr.injectCondemn (Func.vf v) p, 3),
    (Instr.injectLockLoss (Func.vf v) p, 4)] ∧ reach s (Func.vf v) p = true ∧ (rd s p F.INJ_ARM ≠ 1 ∨ rd s p F.FAULT ≠ c.2)) :=
  ⟨⟨.pf, 3600, pol 2 rdy, by decide +kernel⟩,
   ⟨.pf, 3601, pol 2 rdy, by decide +kernel⟩,
   ⟨5, frcAt { rdy with hlt := { rdy.hlt with injEnd := some 5 } } 5, by decide +kernel⟩,
   ⟨5, frcAt { rdy with hlt := { rdy.hlt with injEnd := some 5 } } 4, by decide +kernel⟩,
   ⟨.ten 255, inj (.ten 255), addSat (wr (wr (inj (.ten 255)) (.ten 255) F.FAULT 2) (.ten 255) F.INJ_ARM 1) .hlt F.hlt_INJ_COUNT 1,
    (.injectUncorrectable .pf (.ten 255), 2), by decide +kernel⟩,
   ⟨.dst 63, inj (.dst 63), addSat (wr (inj (.dst 63)) (.dst 63) F.FAULT 3) .hlt F.hlt_INJ_COUNT 1, (.injectCondemn .pf (.dst 63), 3),
    207, by intro _; nofun, by decide +kernel⟩,
   ⟨.fhp 31, inj (.fhp 31), addSat (wr (inj (.fhp 31)) (.fhp 31) F.FAULT 3) .hlt F.hlt_INJ_COUNT 1, (.injectCondemn .pf (.fhp 31), 3),
    31, by decide +kernel⟩,
   ⟨.fhp 31, inj (.fhp 31), addSat (wr (inj (.fhp 31)) (.fhp 31) F.FAULT 4) .hlt F.hlt_INJ_COUNT 1, (.injectLockLoss .pf (.fhp 31), 4),
    31, by decide +kernel⟩,
   ⟨.stn 143, act1 rdy (.stn 143), (.injectLockLoss .pf (.stn 143), 4), by decide +kernel⟩,
   ⟨1, .fhq 0, rdy, (.injectUncorrectable (.vf 1) (.fhq 0), 2), by decide +kernel⟩,
   ⟨1, .fhq 0, wr (wr
    ({ setPtn (own (part rdy 0) (.fhq 0) 0) 0 { Partition.free with slotMap := [(1, 2 ^ 31 + pageBase (.fhq 0) / 0x1000)] } with stage := .ready })
    (.fhq 0) F.INJ_ARM 1) (.fhq 0) F.FAULT 2, (.injectUncorrectable (.vf 1) (.fhq 0), 2), by decide +kernel⟩,
   ⟨1, .fhq 0, wr (wr
    ({ setPtn (own (part rdy 0) (.fhq 0) 0) 0 { Partition.free with slotMap := [(1, 2 ^ 31 + pageBase (.fhq 0) / 0x1000)] } with stage := .ready })
    (.fhq 0) F.INJ_ARM 1) (.fhq 0) F.FAULT 1, (.injectUncorrectable (.vf 1) (.fhq 0), 2), by decide +kernel⟩⟩

/-- Each case of `Obligations.InjectedCondemnation` has a state and operands. -/
theorem witness_injectedCondemnation :
    (∃ (p : Page) (s : State), p.ok = true ∧ s.stage = Stage.ready ∧ faultOn p 3 = true ∧ consented s p = true) ∧
    (∃ (u : Nat) (cause : Nat) (s : State) (t : State), u < 712 ∧ s.stage = Stage.ready ∧ unitUp s u = true ∧ t = condemn s u cause true) :=
  ⟨⟨.fhp 0, inj (.fhp 0), by decide +kernel⟩,
   ⟨711, 5, rdy, condemn rdy 711 5 true, by decide +kernel⟩⟩

/-- Each case of `Obligations.Attestation` has a state and operands. -/
theorem witness_attestation :
    (∃ (f : Func) (n : Nat) (s : State) (c : Page × Fld × Fld × Fld), f.ok = true ∧ n < 64 ∧ c ∈ [(Page.mon, F.mon_ATTEST_GO,
    F.mon_ATTEST_BUSY, F.mon_NONCE), (Page.ptn n, F.ptn_ATTEST_GO, F.ptn_ATTEST_BUSY, F.ptn_NONCE)] ∧ reach s f c.1 = true ∧ sideOk f
    c.2.1.who = true ∧ unitDown s c.1 = false ∧ rd s c.1 c.2.2.1 = 0) ∧
    (∃ (f : Func) (n : Nat) (s : State) (c : Page × Fld × Fld × Fld), f.ok = true ∧ n < 64 ∧ c ∈ [(Page.mon, F.mon_ATTEST_GO,
    F.mon_ATTEST_BUSY, F.mon_NONCE), (Page.ptn n, F.ptn_ATTEST_GO, F.ptn_ATTEST_BUSY, F.ptn_NONCE)] ∧ reach s f c.1 = true ∧ sideOk f
    c.2.1.who = true ∧ unitDown s c.1 = false ∧ rd s c.1 c.2.2.1 = 1) ∧
    (∃ (n : Nat) (pid : Nat) (nonce : List Byte) (rest : List (Page × List Byte)) (s : State) (s0 : State) (s1 : State) (c : Page × Option
    Nat × Fld × Fld × Fld), s0 = { s with mon := { s.mon with attests := rest } } ∧ hwPost s0 Agent.monument (rd s0 c.1 c.2.2.1)
    (reportBytes s0 c.2.1 nonce) 255 65535 0 false = (PqRes.parcel pid, s1) ∧ n < 64 ∧ s.stage = Stage.ready ∧ erasing s = false ∧ c ∈
    [(Page.mon, none, F.mon_ATTEST_Q, F.mon_ATTEST_BUSY, F.mon_ATTEST_RESULT), (Page.ptn n, some n, F.ptn_ATTEST_Q, F.ptn_ATTEST_BUSY,
    F.ptn_ATTEST_RESULT)] ∧ s.mon.attests = (c.1, nonce) :: rest ∧ qOwner s0 (rd s0 c.1 c.2.2.1) = c.2.1.getD 255) ∧
    (∃ (n : Nat) (nonce : List Byte) (rest : List (Page × List Byte)) (s : State) (s0 : State) (c : Page × Option Nat × Fld × Fld × Fld),
    n < 64 ∧ s.stage = Stage.ready ∧ erasing s = false ∧ s0 = { s with mon := { s.mon with attests := rest } } ∧ c ∈ [(Page.mon, none,
    F.mon_ATTEST_Q, F.mon_ATTEST_BUSY, F.mon_ATTEST_RESULT), (Page.ptn n, some n, F.ptn_ATTEST_Q, F.ptn_ATTEST_BUSY, F.ptn_ATTEST_RESULT)]
    ∧ s.mon.attests = (c.1, nonce) :: rest ∧ qOwner s0 (rd s0 c.1 c.2.2.1) ≠ c.2.1.getD 255) ∧
    (∃ (p : Page) (s : State), p.ok = true ∧ s.stage ≠ Stage.tripped ∧ s.mon.attests = []) ∧
    (∃ (s : State) (slot : Nat), s.stage ≠ Stage.tripped ∧ endpointOn s = true ∧ slot < 2) ∧
    (∃ (s : State) (slot : Nat), s.stage ≠ Stage.tripped ∧ endpointOn s = true ∧ 2 ≤ slot) ∧
    (∃ (s : State) (slot : Nat) (nonce : List Byte), s.stage ≠ Stage.tripped ∧ endpointOn s = true ∧ slot < 2 ∧ nonce.length = 32 ∧
    erasing s = false) ∧
    (∃ (s : State) (slot : Nat) (nonce : List Byte), s.stage ≠ Stage.tripped ∧ endpointOn s = true ∧ slot < 2 ∧ nonce.length = 32 ∧
    erasing s = true) ∧
    (∃ (s : State) (slot : Nat) (nonce : List Byte), s.stage ≠ Stage.tripped ∧ endpointOn s = true ∧ (2 ≤ slot ∨ nonce.length ≠ 32)) ∧
    (∃ (s : State) (i : Nat), s.stage ≠ Stage.tripped ∧ endpointOn s = true ∧ i < 8) ∧
    (∃ (s : State) (i : Nat), s.stage ≠ Stage.tripped ∧ endpointOn s = true ∧ 8 ≤ i ∧ i ≠ 255) ∧
    (∃ (slot : Nat) (off : Nat) (len : Nat) (i : Nat) (b : List Byte) (s : State) (c : Instr), s.stage ≠ Stage.tripped ∧ endpointOn s =
    false ∧ c ∈ [Instr.getCertificate slot off len, Instr.challenge slot b, Instr.getMeasurements i]) ∧
    (∃ (e : Nat) (s : State), e < 256 ∧ s.stage ≠ Stage.tripped ∧ s.pwr.pwrok = true ∧ 0 < e ∧ e < 255) ∧
    (∃ (e : Nat) (s : State), e < 256 ∧ s.stage ≠ Stage.tripped ∧ s.pwr.pwrok = true ∧ (e = 0 ∨ e = 255)) ∧
    (∃ (s : State), s.stage ≠ Stage.tripped ∧ s.pwr.pwrok = true) :=
  ⟨⟨.vf 64, 63, part rdy 63, (Page.ptn 63, F.ptn_ATTEST_GO, F.ptn_ATTEST_BUSY, F.ptn_NONCE), by decide +kernel⟩,
   ⟨.pf, 0, wr rdy .mon F.mon_ATTEST_BUSY 1, (Page.mon, F.mon_ATTEST_GO, F.mon_ATTEST_BUSY, F.mon_NONCE), by decide +kernel⟩,
   ⟨63, 0, List.replicate 32 1, [(.mon, [])], asks (.ptn 63) (wr (qOn (part rdy 63) 32 63) (.ptn 63) F.ptn_ATTEST_Q 32), _, _, (Page.ptn
    63, some 63, F.ptn_ATTEST_Q, F.ptn_ATTEST_BUSY, F.ptn_ATTEST_RESULT), rfl, pair_eq (by decide +kernel), by decide +kernel⟩,
   ⟨63, List.replicate 32 1, [(.mon, [])], asks .mon (wr (qOn (part rdy 63) 32 63) .mon F.mon_ATTEST_Q 32),
    { (asks .mon (wr (qOn (part rdy 63) 32 63) .mon F.mon_ATTEST_Q 32)) with mon := { (asks .mon (wr (qOn (part rdy 63) 32 63) .mon F.mon_ATTEST_Q 32)).mon with attests := [(.mon, [])] } },
    (Page.mon, none, F.mon_ATTEST_Q, F.mon_ATTEST_BUSY, F.mon_ATTEST_RESULT), by decide +kernel⟩,
   ⟨.mon, rdy, by decide +kernel⟩,
   ⟨pwr1, 1, by decide +kernel⟩,
   ⟨pwr1, 2, by decide +kernel⟩,
   ⟨pwr1, 1, List.replicate 32 1, by decide +kernel⟩,
   ⟨wr pwr1 .mon F.mon_DEBUG_STATE 1, 1, List.replicate 32 1, by decide +kernel⟩,
   ⟨pwr1, 1, List.replicate 33 1, by decide +kernel⟩,
   ⟨pwr1, 7, by decide +kernel⟩,
   ⟨pwr1, 8, by decide +kernel⟩,
   ⟨0, 0, 0, 0, [], pwr0, .getMeasurements 0, by decide +kernel⟩,
   ⟨254, pwr1, by decide +kernel⟩,
   ⟨255, pwr1, by decide +kernel⟩,
   ⟨pwr1, by decide +kernel⟩⟩

/-- Each case of `Obligations.DebugAndPolicy` has a state and operands. -/
theorem witness_debugAndPolicy :
    (∃ (slot : Nat) (key : List Byte) (s : State) (s1 : State), s.stage ≠ Stage.tripped ∧ endpointOn s = true ∧ s1 = emit
    { s with mon := { s.mon with anchors := mapPut s.mon.anchors slot key } } (Emit.mgmtReply 0 []) ∧ slot < 3 ∧ key.length = 64 ∧ mapFind
    s.mon.anchors slot = none) ∧
    (∃ (slot : Nat) (key : List Byte) (s : State) (s1 : State) (old : List Byte), s.stage ≠ Stage.tripped ∧ endpointOn s = true ∧ s1 =
    emit { s with mon := { s.mon with anchors := mapPut s.mon.anchors slot key } } (Emit.mgmtReply 0 []) ∧ slot < 3 ∧ key.length = 64 ∧
    mapFind s.mon.anchors slot = some old) ∧
    (∃ (slot : Nat) (key : List Byte) (s : State) (s1 : State), s.stage ≠ Stage.tripped ∧ endpointOn s = true ∧ s1 = emit
    { s with mon := { s.mon with anchors := mapPut s.mon.anchors slot key } } (Emit.mgmtReply 0 []) ∧ (3 ≤ slot ∨ key.length ≠ 64)) ∧
    (∃ (v : Nat) (s : State), s.stage ≠ Stage.tripped ∧ endpointOn s = true ∧ v ≤ 2) ∧
    (∃ (v : Nat) (s : State), s.stage ≠ Stage.tripped ∧ endpointOn s = true ∧ 2 < v) ∧
    (∃ (s : State), s.stage ≠ Stage.tripped ∧ s.pwr.pwrok = false) ∧
    (∃ (slot : Nat) (v : Nat) (key : List Byte) (b : List Byte) (s : State) (c : Instr), s.stage ≠ Stage.tripped ∧ endpointOn s = false ∧
    c ∈ [Instr.anchorSet slot key b, Instr.injPolicy v]) ∧
    (∃ (b : List Byte) (t0 : Nat) (s : State), s.stage ≠ Stage.tripped ∧ s.mon.challenge = some (b, t0) ∧ t0 + 600000000000 ≤ s.mer.frc) ∧
    (∃ (b : List Byte) (t0 : Nat) (s : State), s.stage ≠ Stage.tripped ∧ s.mon.challenge = some (b, t0) ∧ s.mer.frc < t0 + 600000000000) ∧
    (∃ (s : State) (s1 : State), s.stage ≠ Stage.tripped ∧ s.pwr.pwrok = true ∧ s1 = addSat s Page.mon F.mon_DBG_REJECTS 1) ∧
    (∃ (b : List Byte), b.length ≠ 120) ∧
    (∃ (b : List Byte) (c : List Byte) (key : List Byte) (t0 : Nat) (s : State), b.length = 120 ∧ mapFind s.mon.anchors 2 = some key ∧
    s.mon.challenge = some (c, t0)) ∧
    (∃ (s : State), (s.mon.challenge = none ∨ mapFind s.mon.anchors 2 = none ∨ erasing s = true ∨ s.stage = Stage.recovery)) ∧
    (∃ (s : State), s.stage = Stage.erased ∧ s.mon.warmAfterErase = none) ∧
    (∃ (s : State) (c : Nat), s.stage = Stage.erased ∧ s.mon.warmAfterErase = some c) ∧
    (∃ (s : State), s.stage ≠ Stage.tripped ∧ s.stage ≠ Stage.erased) :=
  ⟨⟨2, List.replicate 64 1, pwr1, emit
    { (pwr1) with mon := { (pwr1).mon with anchors := mapPut (pwr1).mon.anchors 2 (List.replicate 64 1) } } (.mgmtReply 0 []),
    by decide +kernel⟩,
   ⟨2, List.replicate 64 1, anch 2 pwr1, emit
    { (anch 2 pwr1) with mon := { (anch 2 pwr1).mon with anchors := mapPut (anch 2 pwr1).mon.anchors 2 (List.replicate 64 1) } }
    (.mgmtReply 0 []), List.replicate 64 3, by decide +kernel⟩,
   ⟨3, List.replicate 64 1, pwr1, emit
    { (pwr1) with mon := { (pwr1).mon with anchors := mapPut (pwr1).mon.anchors 3 (List.replicate 64 1) } } (.mgmtReply 0 []),
    by decide +kernel⟩,
   ⟨2, pwr1, by decide +kernel⟩,
   ⟨3, pwr1, by decide +kernel⟩,
   ⟨pwr0, by decide +kernel⟩,
   ⟨0, 0, [], [], pwr0, .injPolicy 0, by decide +kernel⟩,
   ⟨List.replicate 32 1, 5, chal 600000000005, by decide +kernel⟩,
   ⟨List.replicate 32 1, 5, chal 600000000004, by decide +kernel⟩,
   ⟨pwr1, addSat pwr1 .mon F.mon_DBG_REJECTS 1, by decide +kernel⟩,
   ⟨List.replicate 119 0, by decide +kernel⟩,
   ⟨tok, List.replicate 32 1, List.replicate 64 3, 5, anch 2 (chal 6), by decide +kernel⟩,
   ⟨rdy, by decide +kernel⟩,
   ⟨{ rdy with stage := .erased }, by decide +kernel⟩,
   ⟨{ rdy with stage := .erased, mon := { rdy.mon with warmAfterErase := some 3 } }, 3, by decide +kernel⟩,
   ⟨rdy, by decide +kernel⟩⟩

end Sys2Proof.Tests
end

section
/-! The floor plan record under condemnation (R39, R40): what the loss of a unit's items leaves of it, the entry that an injected
condemnation writes, and INJECT_CONDEMN on the page of a unit and of a port. -/

namespace Sys2Proof.Machine

/-! ### Bit fields -/

theorem setBits_eq_add_mul (x lo w v : Nat) :
    setBits x lo w v = x % 2 ^ lo + 2 ^ lo * (v % 2 ^ w + 2 ^ w * (x / 2 ^ (lo + w))) := by
  unfold setBits
  rw [pow_add]
  ring

theorem setBits_mod_same (x lo w v : Nat) : setBits x lo w v % 2 ^ lo = x % 2 ^ lo := by
  rw [setBits_eq_add_mul, Nat.add_mul_mod_self_left, Nat.mod_mod]

/-- The bits below a field that is set are as before. -/
theorem setBits_mod_below {k lo : Nat} (h : k ≤ lo) (x w v : Nat) : setBits x lo w v % 2 ^ k = x % 2 ^ k := by
  have hd : 2 ^ k ∣ 2 ^ lo := pow_dvd_pow 2 h
  rw [← Nat.mod_mod_of_dvd _ hd, setBits_mod_same, Nat.mod_mod_of_dvd _ hd]

/-- A field that is set reads the value, cut to its width. -/
@[simp] theorem bits_setBits_same (x lo w v : Nat) : bits (setBits x lo w v) lo w = v % 2 ^ w := by
  have hlt : x % 2 ^ lo < 2 ^ lo := Nat.mod_lt _ (Nat.two_pow_pos lo)
  unfold bits
  rw [setBits_eq_add_mul, Nat.add_mul_div_left _ _ (Nat.two_pow_pos lo), Nat.div_eq_of_lt hlt, Nat.zero_add,
    Nat.add_mul_mod_self_left, Nat.mod_mod]

theorem bitAt_eq_bits (x i : Nat) : bitAt x i = (bits x i 1 == 1) := rfl

theorem bitAt_setBits_below {i lo : Nat} (h : i < lo) (x w v : Nat) : bitAt (setBits x lo w v) i = bitAt x i := by
  unfold bitAt
  rw [← Nat.mod_mul_right_div_self, ← Nat.mod_mul_right_div_self, ← pow_succ, setBits_mod_below h]

/-! ### The entry of an injected condemnation (R39) -/

/-- An FP_UNIT entry reads as R39 has it after an injected condemnation: STATE CONDEMNED, INJECTED, CAUSE 0x3F. -/
def InjectedEntry (e : Nat) : Prop := e % 4 = 2 ∧ bitAt e 6 = true ∧ bits e 26 6 = 0x3F

theorem condemnedEntry_injected (old : Nat) : InjectedEntry (condemnedEntry old 0x3F true none) := by
  have hstate : (old - old % 4 + 2) % 2 ^ 2 = 2 := by omega
  refine ⟨?_, ?_, bits_setBits_same _ _ _ _⟩
  · exact (setBits_mod_below (k := 2) (by decide) _ _ _).trans ((setBits_mod_below (by decide) _ _ _).trans
      ((setBits_mod_below (by decide) _ _ _).trans hstate))
  · exact (bitAt_setBits_below (by decide) _ _ _).trans
      ((bitAt_eq_bits _ _).trans (congrArg (· == 1) (bits_setBits_same _ _ _ _)))

/-! ### What the loss of a unit leaves of the record -/

/-- The components, beside the floor plan record, that the loss of units and of their links may change. -/
def lossComps : List Comp :=
  [.regs, .stns, .ptns, .migs, .locs, .spillFreed, .movs, .pool, .plat, .tens, .cdus, .book, .fhps, .trv, .hostMem, .msixHeld,
    .emitted, .fresh]

theorem fp_eq_of_blank {l : List Comp} {s t : State} (hl : l.contains .fp = false) (h : blank l t = blank l s) :
    t.fp = s.fp := by
  have hp : pick l .fp State.reset.fp t.fp = pick l .fp State.reset.fp s.fp := congrArg State.fp h
  simpa only [pick, hl, Bool.false_eq_true, if_false] using hp

theorem stage_eq_of_blank {l : List Comp} {s t : State} (hl : l.contains .stage = false) (h : blank l t = blank l s) :
    t.stage = s.stage := by
  have hp : pick l .stage State.reset.stage t.stage = pick l .stage State.reset.stage s.stage := congrArg State.stage h
  simpa only [pick, hl, Bool.false_eq_true, if_false] using hp

@[simp] theorem loseItems_fp (s : State) (u : Nat) (inj : Bool) : (loseItems s u inj).fp = s.fp :=
  fp_eq_of_blank rfl (loseItems_keeps (l := lossComps) rfl rfl rfl rfl rfl rfl rfl rfl rfl rfl rfl rfl rfl rfl rfl rfl _ _ _)

@[simp] theorem namesDown_fp (s : State) (u : Nat) : (namesDown s u).fp = s.fp :=
  fp_eq_of_blank rfl (namesDown_keeps (l := lossComps) rfl rfl rfl _ _)

@[simp] theorem setEvt_fp (s : State) (p : Page) (bit : Nat) : (setEvt s p bit).fp = s.fp :=
  fp_eq_of_blank rfl (setEvt_keeps (l := lossComps) rfl rfl rfl _ _ _)

@[simp] theorem bumpHealth_fp (s : State) (k : Nat) (inj : Bool) : (bumpHealth s k inj).fp = s.fp :=
  fp_eq_of_blank rfl (bumpHealth_keeps (l := lossComps) rfl _ _ _)

@[simp] theorem linksAfterLoss_fp (s : State) (inj : Bool) : (linksAfterLoss s inj).fp = s.fp :=
  fp_eq_of_blank rfl (linksAfterLoss_keeps (l := lossComps) rfl rfl rfl rfl rfl rfl rfl rfl _ _)

@[simp] theorem condemn_stage (s : State) (u cause : Nat) (inj : Bool) : (condemn s u cause inj).stage = s.stage :=
  stage_eq_of_blank rfl
    (condemn_keeps (l := .fp :: lossComps) rfl rfl rfl rfl rfl rfl rfl rfl rfl rfl rfl rfl rfl rfl rfl rfl rfl _ _ _ _)

/-! ### Condemnation -/

theorem condemn_of_down {s : State} {u : Nat} (hu : unitUp s u = false) (cause : Nat) (inj : Bool) :
    condemn s u cause inj = s := by
  simp [condemn, hu]

/-- In service, all that the condemnation of an ENABLED unit leaves in the floor plan record is its record (R40). -/
theorem condemn_fp {s : State} {u : Nat} (hs : s.stage = .ready) (hu : unitUp s u = true) (cause : Nat) (inj : Bool) :
    (condemn s u cause inj).fp = (condemnRecord s u (if inj then 0x3F else cause) inj).fp := by
  simp only [condemn, hu, hs, Bool.not_true, Bool.false_eq_true, if_false, bumpHealth_fp, emit_fp, setEvt_fp]
  split <;> simp only [namesDown_fp, loseItems_fp]

/-- An injected condemnation appends no field defect entry (R39). -/
theorem condemn_injected_fdr {s : State} (hs : s.stage = .ready) (u cause : Nat) :
    (condemn s u cause true).fp.fdr = s.fp.fdr := by
  cases hu : unitUp s u with
  | false => rw [condemn_of_down hu]
  | true => rw [condemn_fp hs hu]; rfl

/-- An injected condemnation writes the entry of its unit, and no other. -/
theorem unitEntry_condemn_injected {s : State} {u : Nat} (hs : s.stage = .ready) (hu : unitUp s u = true) (cause v : Nat) :
    unitEntry (condemn s u cause true) v =
      if v = u then condemnedEntry (unitEntry s u) 0x3F true none else unitEntry s v := by
  have h : (condemn s u cause true).fp.units = mapSet 0 s.fp.units u (condemnedEntry (unitEntry s u) 0x3F true none) := by
    rw [condemn_fp hs hu]; rfl
  simp only [unitEntry, h, mapGet_mapSet]

theorem condemn_injected_entry {s : State} {u : Nat} (hs : s.stage = .ready) (hu : unitUp s u = true) (cause : Nat) :
    InjectedEntry (unitEntry (condemn s u cause true) u) := by
  rw [unitEntry_condemn_injected hs hu, if_pos rfl]
  exact condemnedEntry_injected _

theorem unitEntry_condemn_other {s : State} {u v : Nat} (hs : s.stage = .ready) (hv : v ≠ u) (cause : Nat) :
    unitEntry (condemn s u cause true) v = unitEntry s v := by
  cases hu : unitUp s u with
  | false => rw [condemn_of_down hu]
  | true => rw [unitEntry_condemn_injected hs hu, if_neg hv]

theorem unitUp_of_injectedEntry {s : State} {u : Nat} (h : InjectedEntry (unitEntry s u)) : unitUp s u = false := by
  simp [unitUp, h.1]

/-- A unit that an injected fault has condemned stays so through another injected condemnation. -/
theorem condemn_keeps_injectedEntry {s : State} {v : Nat} (hs : s.stage = .ready) (hv : InjectedEntry (unitEntry s v))
    (u cause : Nat) : InjectedEntry (unitEntry (condemn s u cause true) v) := by
  by_cases h : v = u
  · subst h
    rwa [condemn_of_down (unitUp_of_injectedEntry hv)]
  · rwa [unitEntry_condemn_other hs h]

/-! ### The lanes of a port -/

/-- Each lane of a list is condemned by an injected fault, in the list's order. -/
def condemnAll (s : State) (ls : List Nat) : State := ls.foldl (fun s l => condemn s (616 + l) 0x3F true) s

theorem condemnAll_cons (s : State) (l : Nat) (ls : List Nat) :
    condemnAll s (l :: ls) = condemnAll (condemn s (616 + l) 0x3F true) ls := rfl

theorem condemnLanes_fp (s : State) (q : Nat) : (condemnLanes s q).fp = (condemnAll s (fhLanes s q)).fp :=
  linksAfterLoss_fp _ _

theorem condemnAll_fdr {s : State} (hs : s.stage = .ready) (ls : List Nat) : (condemnAll s ls).fp.fdr = s.fp.fdr := by
  induction ls generalizing s with
  | nil => rfl
  | cons l ls ih => rw [condemnAll_cons, ih ((condemn_stage ..).trans hs), condemn_injected_fdr hs]

theorem condemnAll_keeps_injectedEntry {s : State} {v : Nat} (hs : s.stage = .ready) (hv : InjectedEntry (unitEntry s v))
    (ls : List Nat) : InjectedEntry (unitEntry (condemnAll s ls) v) := by
  induction ls generalizing s with
  | nil => exact hv
  | cons l ls ih => exact ih ((condemn_stage ..).trans hs) (condemn_keeps_injectedEntry hs hv _ _)

/-- Every ENABLED lane of the list is condemned with the entry of an injected fault. -/
theorem condemnAll_injected_entry {s : State} {l : Nat} {ls : List Nat} (hs : s.stage = .ready)
    (hu : unitUp s (616 + l) = true) (hl : l ∈ ls) : InjectedEntry (unitEntry (condemnAll s ls) (616 + l)) := by
  induction ls generalizing s with
  | nil => cases hl
  | cons k ls ih =>
    have hs' : (condemn s (616 + k) 0x3F true).stage = .ready := (condemn_stage ..).trans hs
    by_cases h : l = k
    · subst h
      exact condemnAll_keeps_injectedEntry hs' (condemn_injected_entry hs hu _) ls
    · have hne : 616 + l ≠ 616 + k := by omega
      have hup : unitUp (condemn s (616 + k) 0x3F true) (616 + l) = true := by
        rwa [unitUp, unitEntry_condemn_other hs hne]
      exact ih hs' hup ((List.mem_cons.mp hl).resolve_left h)

/-! ### INJECT_CONDEMN (R569) -/

/-- What a consented INJECT_CONDEMN writes before it acts: FAULT 0x0003 with ARM clear, and INJ_COUNT. -/
def condemnMarked (s : State) (p : Page) : State :=
  addSat (wr (wr s p F.FAULT 3) p F.INJ_ARM 0) .hlt F.hlt_INJ_COUNT 1

@[simp] theorem condemnMarked_fp (s : State) (p : Page) : (condemnMarked s p).fp = s.fp := rfl

@[simp] theorem condemnMarked_stage (s : State) (p : Page) : (condemnMarked s p).stage = s.stage := rfl

@[simp] theorem unitUp_condemnMarked (s : State) (p : Page) (u : Nat) : unitUp (condemnMarked s p) u = unitUp s u := rfl

/-- The marks leave WIDTH, and so the lanes of the port, as they are. -/
theorem fhLanes_condemnMarked (s : State) (q : Nat) : fhLanes (condemnMarked s (.fhp q)) q = fhLanes s q := by
  have hw : fhWidth (condemnMarked s (.fhp q)) q = fhWidth s q := by
    unfold fhWidth condemnMarked addSat
    rw [rd_wr_other, rd_wr_other, rd_wr_other] <;>
      simp only [fldKey, pageBase, F.fhp_WIDTH, F.FAULT, F.INJ_ARM, F.hlt_INJ_COUNT] <;> omega
  simp only [fhLanes, hw]

theorem injectFault_condemn_unit {s : State} {p : Page} {u : Nat} (hf : faultOn p 3 = true) (hc : consented s p = true)
    (hu : unitOf p = some u) : injectFault s p 3 = condemn (condemnMarked s p) u 0x3F true := by
  unfold injectFault
  rw [hf, hc]
  cases p <;> cases hu <;> rfl

theorem injectFault_condemn_port {s : State} {q : Nat} (hc : consented s (.fhp q) = true) :
    injectFault s (.fhp q) 3 = condemnLanes (condemnMarked s (.fhp q)) q := by
  unfold injectFault
  rw [hc]
  rfl

/-- FAULT 0x0003 is a unit's page's or a port's. -/
theorem faultOn_condemn_cases {p : Page} (h : faultOn p 3 = true) : (∃ u, unitOf p = some u) ∨ ∃ q, p = .fhp q := by
  cases p with
  | stn n | dst n | hbc n | ten n | cdu n => exact .inl ⟨_, rfl⟩
  | fhp q => exact .inr ⟨q, rfl⟩
  | _ => cases h

/-- In service INJECT_CONDEMN by the physical function, at a page that the spec has, is the injection. -/
theorem exec_injectCondemn_pf {p : Page} {s : State} (hp : p.ok = true) (hs : s.stage = .ready) :
    exec (.injectCondemn .pf p) s = .next (injectFault s p 3) := by
  have hwf : (Instr.injectCondemn .pf p).wf = true := by simp only [Instr.wf, Func.ok, hp, Bool.and_self]
  have hr : reach s .pf p = true := by simp only [reach, pageServed, hs, Bool.and_self]
  rw [next_injectCondemn hwf (by rw [hs]; decide)]
  simp only [effInjectCondemn, inject, hr, Bool.not_true, Bool.false_eq_true, if_false]

/-- Settles O58: an injected condemnation's record survives the loss of the unit's items, and of a port's lanes each is condemned in
turn, which touches no other lane's entry. -/
theorem injectedCondemnation : Obligations.InjectedCondemnation := by
  unfold Obligations.InjectedCondemnation
  refine ⟨fun p s hp hs hf hc => ⟨injectFault s p 3, exec_injectCondemn_pf hp hs, ?_⟩, ?_⟩
  · have hs' : (condemnMarked s p).stage = .ready := hs
    rcases faultOn_condemn_cases hf with ⟨v, hv⟩ | ⟨q, rfl⟩
    · rw [injectFault_condemn_unit hf hc hv]
      refine ⟨condemn_injected_fdr hs' v _, fun u _ hu hpage => ?_⟩
      rcases hpage with hu' | ⟨q, _, rfl, _⟩
      · cases hv.symm.trans hu'
        exact condemn_injected_entry hs' hu _
      · cases hv
    · have hfp : (injectFault s (.fhp q) 3).fp = (condemnAll (condemnMarked s (.fhp q)) (fhLanes s q)).fp := by
        rw [injectFault_condemn_port hc, condemnLanes_fp, fhLanes_condemnMarked]
      refine ⟨hfp ▸ condemnAll_fdr hs' _, fun u _ hu hpage => ?_⟩
      rcases hpage with hu' | ⟨_, l, hq, hl, rfl⟩
      · cases hu'
      · cases hq
        rw [unitEntry, hfp]
        exact condemnAll_injected_entry hs' hu hl
  · rintro u cause s _ _ hs hu rfl
    exact ⟨condemn_injected_fdr hs u cause, condemn_injected_entry hs hu cause⟩

end Sys2Proof.Machine
end

section
/-! A SEAL that is refused or ignored (R68): the bit of ERR_STATUS and the header registers that a refusal writes, and what it leaves
as it was: the armed groups, the shadows and the values in effect. -/

namespace Sys2Proof.Machine

/-! ### Bits -/

theorem bitAt_eq_testBit (x i : Nat) : bitAt x i = x.testBit i := by
  rw [Nat.testBit_eq_decide_div_mod_eq]
  rfl

/-- Cutting a number to a width keeps the bits below it. -/
theorem bitAt_mod_two_pow {i w : Nat} (h : i < w) (x : Nat) : bitAt (x % 2 ^ w) i = bitAt x i := by
  simp only [bitAt_eq_testBit, Nat.testBit_mod_two_pow, h, decide_true, Bool.true_and]

@[simp] theorem bitAt_setBits_one (x i : Nat) : bitAt (setBits x i 1 1) i = true := by
  rw [bitAt_eq_bits, bits_setBits_same]
  rfl

/-! ### Setting a bit of ERR_STATUS (R614) -/

@[simp] theorem raiseOwner_regs (s : State) (p : Page) (vec : Nat) : (raiseOwner s p vec).regs = s.regs :=
  (congrArg State.regs (raiseOwner_keeps (l := [.msixHeld, .emitted]) rfl rfl s p vec) :)

@[simp] theorem raiseOwner_part (s : State) (p : Page) (vec : Nat) : (raiseOwner s p vec).part = s.part :=
  (congrArg State.part (raiseOwner_keeps (l := [.msixHeld, .emitted]) rfl rfl s p vec) :)

@[simp] theorem rd_raiseOwner (s : State) (p : Page) (vec : Nat) (q : Page) (g : Fld) :
    rd (raiseOwner s p vec) q g = rd s q g := by
  simp only [rd, raiseOwner_regs, raiseOwner_part]

@[simp] theorem setErr_eff (s : State) (p : Page) (bit : Nat) : (setErr s p bit).eff = s.eff :=
  (congrArg State.eff (setErr_keeps (l := [.regs, .msixHeld, .emitted]) rfl rfl rfl s p bit) :)

@[simp] theorem setErr_part (s : State) (p : Page) (bit : Nat) : (setErr s p bit).part = s.part :=
  (congrArg State.part (setErr_keeps (l := [.regs, .msixHeld, .emitted]) rfl rfl rfl s p bit) :)

/-- The interrupt aside, all that a set error bit does to the registers is the write of ERR_STATUS. -/
theorem rd_setErr (s : State) (p : Page) (bit : Nat) (q : Page) (g : Fld) :
    rd (setErr s p bit) q g = rd (wr s p F.ERR_STATUS (setBits (rd s p F.ERR_STATUS) bit 1 1)) q g := by
  unfold setErr
  extract_lets
  split
  · exact rd_raiseOwner ..
  · rfl

theorem rd_setErr_off (s : State) (p : Page) (bit : Nat) (g : Fld)
    (h : 8 * g.off + g.lo ≠ 8 * F.ERR_STATUS.off + F.ERR_STATUS.lo) : rd (setErr s p bit) p g = rd s p g := by
  rw [rd_setErr, rd_wr_off _ _ _ _ _ h]

theorem setErr_sets_bit (s : State) (p : Page) {bit : Nat} (h : bit < 32) :
    bitAt (rd (setErr s p bit) p F.ERR_STATUS) bit = true := by
  rw [rd_setErr, rd_wr_same]
  exact (bitAt_mod_two_pow h _).trans (bitAt_setBits_one _ _)

/-! ### Where the H fields of a page lie (R51) -/

theorem blockTable_off {p : Page} (hp : p ≠ .pwr) : ∀ fl ∈ blockTable p, 0x40 ≤ fl.off := by
  cases p with
  | pwr => exact absurd rfl hp
  | _ =>
    simp only [blockTable]
    decide

/-- EXPERT_EN is the only H field of the common header. -/
theorem headerTable_h : ∀ fl ∈ F.headerTable, fl.cls = .h → fl = F.EXPERT_EN := by decide

/-- The H fields of a page lie past SEAL_STATUS. -/
theorem pageTable_h_off {p : Page} (hp : p ≠ .pwr) {fl : Fld} (hfl : fl ∈ pageTable p) (hh : fl.cls = .h) : 0x30 ≤ fl.off := by
  rw [pageTable, if_neg hp, List.mem_append] at hfl
  rcases hfl with hfl | hfl
  · rw [headerTable_h fl hfl hh]
    decide
  · exact le_trans (by decide) (blockTable_off hp fl hfl)

/-! ### A refused SEAL (R68, R70) -/

@[simp] theorem refuseSeal_eff (s : State) (p : Page) (mask result check : Nat) : (refuseSeal s p mask result check).eff = s.eff :=
  setErr_eff ..

@[simp] theorem refuseSeal_part (s : State) (p : Page) (mask result check : Nat) : (refuseSeal s p mask result check).part = s.part :=
  setErr_part ..

@[simp] theorem rdApplied_refuseSeal (s : State) (p : Page) (mask result check : Nat) (q : Page) (g : Fld) :
    rdApplied (refuseSeal s p mask result check) q g = rdApplied s q g := by
  simp only [rdApplied, refuseSeal_eff, refuseSeal_part]

theorem refuseSeal_sets_SEAL_REFUSED (s : State) (p : Page) (mask result check : Nat) :
    bitAt (rd (refuseSeal s p mask result check) p F.ERR_STATUS) 1 = true := setErr_sets_bit _ _ (by decide)

/-- A refusal writes no field of its page but ERR_STATUS and those of SEAL_STATUS. -/
theorem rd_refuseSeal_other (s : State) (p : Page) (mask result check : Nat) {g : Fld}
    (h : ∀ fl ∈ [F.ERR_STATUS, F.SEAL_GROUPS, F.SEAL_RESULT, F.SEAL_CHECK], 8 * g.off + g.lo ≠ 8 * fl.off + fl.lo) :
    rd (refuseSeal s p mask result check) p g = rd s p g := by
  simp only [List.forall_mem_cons] at h
  obtain ⟨herr, hgroups, hresult, hcheck, -⟩ := h
  rw [refuseSeal, rd_setErr_off _ _ _ _ herr, rd_wr_off _ _ _ _ _ hcheck, rd_wr_off _ _ _ _ _ hresult,
    rd_wr_off _ _ _ _ _ hgroups]

theorem rd_refuseSeal_SEAL (s : State) (p : Page) (mask result check : Nat) :
    rd (refuseSeal s p mask result check) p F.SEAL = rd s p F.SEAL := rd_refuseSeal_other _ _ _ _ _ (by decide)

theorem rd_refuseSeal_past (s : State) (p : Page) (mask result check : Nat) {g : Fld} (hg : 0x30 ≤ g.off) :
    rd (refuseSeal s p mask result check) p g = rd s p g := by
  refine rd_refuseSeal_other _ _ _ _ _ ?_
  simp only [List.forall_mem_cons, F.ERR_STATUS, F.SEAL_GROUPS, F.SEAL_RESULT, F.SEAL_CHECK]
  refine ⟨?_, ?_, ?_, ?_, List.forall_mem_nil _⟩ <;> omega

/-- The three reasons for which a SEAL is refused: a group that the page does not have or that is armed already, a manager-only field
named by a virtual function, and a check that fails (R67, R70). -/
def SealRefusal (s : State) (f : Func) (p : Page) (m : Nat) : Prop :=
  (∃ g, g < 16 ∧ bitAt m g = true ∧ (bitAt (capsGroups p) g = false ∨ bitAt (rd s p F.SEAL) g = true))
    ∨ (f ≠ .pf ∧ namesManagerField p m = true) ∨ failedCheck s p m ≠ 0

/-- For any of these reasons, what is done is a refusal, with some RESULT and CHECK. -/
theorem sealGroups_eq_refuseSeal {s : State} {f : Func} {p : Page} {m : Nat} (h : SealRefusal s f p m) :
    ∃ result check, sealGroups s f p m = refuseSeal s p m result check := by
  unfold sealGroups
  split_ifs with hgroup harmed hmgr hcheck
  · exact ⟨_, _, rfl⟩
  · exact ⟨_, _, rfl⟩
  · exact ⟨_, _, rfl⟩
  · exact ⟨_, _, rfl⟩
  all_goals
    exfalso
    simp only [List.any_eq_true, List.mem_range, Bool.and_eq_true, Bool.not_eq_true', not_exists, not_and] at hgroup harmed
    rcases h with ⟨g, hg, hm, hcaps | hseal⟩ | ⟨hf, hnames⟩ | hfailed
    · exact hgroup g hg hm hcaps
    · exact harmed g hg hm hseal
    · exact hmgr (by simp only [hf, hnames, ne_eq, not_false_eq_true, decide_true, Bool.and_self])
    · exact hcheck hfailed

/-! ### SEAL -/

theorem stage_ne_tripped_of_reach {s : State} {f : Func} {p : Page} (h : reach s f p = true) : s.stage ≠ .tripped := by
  intro ht
  simp only [reach, pageServed, ht, Bool.false_and, Bool.false_eq_true] at h

theorem ne_pwr_of_ok {p : Page} (h : p.ok = true) : p ≠ .pwr := by
  rintro rfl
  cases h

theorem page_ok_of_seal_wf {f : Func} {p : Page} {m : Nat} (h : (Instr.seal f p m).wf = true) : p.ok = true :=
  (Bool.and_eq_true_iff.mp h).2

/-- A SEAL that reaches its page is the write of the SEAL register. -/
theorem exec_seal_of_reach {f : Func} {p : Page} {m : Nat} {s : State} (hwf : (Instr.seal f p m).wf = true)
    (hr : reach s f p = true) : exec (.seal f p m) s = .next (writeSeal s f p m) := by
  rw [next_seal hwf (stage_ne_tripped_of_reach hr), effSeal, withPage, if_neg (ne_pwr_of_ok (page_ok_of_seal_wf hwf)), if_pos hr]

theorem writeSeal_zero {m : Nat} (hm : m % 65536 = 0) (s : State) (f : Func) (p : Page) : writeSeal s f p m = s := by
  simp only [writeSeal, hm, decide_true, Bool.or_true, if_true]

theorem writeSeal_nonzero {s : State} {p : Page} {m : Nat} (hpos : 0 < m) (hlt : m < 65536) (hu : unitDown s p = false) (f : Func) :
    writeSeal s f p m = sealGroups s f p m := by
  have hmod : m % 65536 = m := Nat.mod_eq_of_lt hlt
  simp only [writeSeal, hu, hmod, Nat.ne_of_gt hpos, decide_false, Bool.or_self, Bool.false_eq_true, if_false]

/-- Settles O9: a refusal writes ERR_STATUS and SEAL_STATUS, and every H field of the page lies past both. -/
theorem sealRefused : Obligations.SealRefused := by
  unfold Obligations.SealRefused
  refine ⟨fun f p m s hwf hm hr => ?_, fun f p m s hwf hpos hlt hr hu hwhy => ?_⟩
  · rw [exec_seal_of_reach hwf hr, writeSeal_zero hm]
  · obtain ⟨result, check, hrefuse⟩ := sealGroups_eq_refuseSeal (s := s) hwhy
    refine ⟨refuseSeal s p m result check, ?_, refuseSeal_sets_SEAL_REFUSED .., rd_refuseSeal_SEAL .., refuseSeal_eff ..,
      fun fl hfl hh k _ => ⟨rd_refuseSeal_past _ _ _ _ _ ?_, rdApplied_refuseSeal ..⟩⟩
    · rw [exec_seal_of_reach hwf hr, writeSeal_nonzero hpos hlt hu, hrefuse]
    · have hoff : 0x30 ≤ fl.off := pageTable_h_off (ne_pwr_of_ok (page_ok_of_seal_wf hwf)) hfl hh
      exact Nat.le_add_right_of_le hoff

end Sys2Proof.Machine
end

section
/-! The time-domain reset (R284, R290): a write of 1 to TDR disarms every trigger and unsets time, and leaves the counter, the lock and
the stamp queues; a cold device reset leaves Meridian in its reset state, which the boot chain does not touch. -/

namespace Sys2Proof

theorem mapFind_mapErase {α : Type} (m : NMap α) (k j : Nat) :
    mapFind (mapErase m k) j = if j = k then none else mapFind m j := by
  induction m with
  | nil => simp only [mapErase, mapFind, ite_self]
  | cons e r ih =>
    obtain ⟨k', v⟩ := e
    by_cases hk : k = k'
    · subst hk
      rw [mapErase, if_pos rfl, ih, mapFind]
      split <;> rfl
    · rw [mapErase, if_neg hk, mapFind, mapFind, ih]
      by_cases hj : j = k'
      · subst hj
        rw [if_pos rfl, if_neg (Ne.symm hk), if_pos rfl]
      · rw [if_neg hj, if_neg hj]

/-! ### Loops -/

theorem forUpTo_succ {σ : Type} (n : Nat) (f : Nat → σ → σ) (s : σ) : forUpTo (n + 1) f s = f n (forUpTo n f s) := by
  simp only [forUpTo, List.range_succ, List.foldl_append, List.foldl_cons, List.foldl_nil]

/-- What every pass of a loop leaves, the loop leaves. -/
theorem forUpTo_preserves {σ β : Type} {f : Nat → σ → σ} (g : σ → β) (h : ∀ i s, g (f i s) = g s) (n : Nat) (s : σ) :
    g (forUpTo n f s) = g s := by
  induction n with
  | zero => rfl
  | succ n ih => rw [forUpTo_succ, h, ih]

namespace Machine

/-! ### Disarming triggers -/

/-- Trigger `k` is not armed and no firing of it is pending. -/
def Disarmed (s : State) (k : Nat) : Prop := trgArmed s k = false ∧ mapFind s.mer.fireAt k = none

theorem Disarmed.congr {s t : State} {k : Nat} (h : Disarmed s k)
    (harm : rd t .mer (F.mer_ARM.ix k) = rd s .mer (F.mer_ARM.ix k)) (hfire : t.mer.fireAt = s.mer.fireAt) : Disarmed t k := by
  rwa [Disarmed, trgArmed, harm, hfire]

theorem disarmed_disarmTrigger_same (s : State) (k : Nat) : Disarmed (disarmTrigger s k) k := by
  refine ⟨?_, ?_⟩
  · have hrd : rd (disarmTrigger s k) .mer (F.mer_ARM.ix k) = 0 := rd_wr_same s .mer (F.mer_ARM.ix k) 0
    simp only [trgArmed, hrd, Nat.reduceBEq]
  · exact (mapFind_mapErase s.mer.fireAt k k).trans (if_pos rfl)

theorem disarmed_disarmTrigger {s : State} {j : Nat} (h : Disarmed s j) (k : Nat) : Disarmed (disarmTrigger s k) j := by
  by_cases hjk : j = k
  · subst hjk
    exact disarmed_disarmTrigger_same s j
  · obtain ⟨harm, hfire⟩ := h
    refine ⟨?_, ?_⟩
    · have hrd : rd (disarmTrigger s k) .mer (F.mer_ARM.ix j) = rd s .mer (F.mer_ARM.ix j) := by
        refine rd_wr_off s .mer (F.mer_ARM.ix k) (F.mer_ARM.ix j) 0 ?_
        simp only [Fld.ix, F.mer_ARM]
        omega
      rwa [trgArmed, hrd]
    · exact ((mapFind_mapErase s.mer.fireAt k j).trans (if_neg hjk)).trans hfire

/-- Disarming the triggers in turn leaves those already disarmed as they are. -/
theorem disarmed_forUpTo {n k : Nat} (hk : k < n) (s : State) :
    Disarmed (forUpTo n (fun i s => disarmTrigger s i) s) k := by
  induction n with
  | zero => exact absurd hk (Nat.not_lt_zero k)
  | succ n ih =>
    rw [forUpTo_succ]
    rcases Nat.lt_succ_iff_lt_or_eq.mp hk with hlt | rfl
    · exact disarmed_disarmTrigger (ih hlt) n
    · exact disarmed_disarmTrigger_same _ k

theorem disarmed_disarmAll {k : Nat} (hk : k < 64) (s : State) : Disarmed (disarmAll s) k := disarmed_forUpTo hk s

theorem disarmTrigger_frc (k : Nat) (s : State) : (disarmTrigger s k).mer.frc = s.mer.frc := rfl

theorem disarmTrigger_locked (k : Nat) (s : State) : (disarmTrigger s k).mer.locked = s.mer.locked := rfl

theorem disarmTrigger_tsq (k : Nat) (s : State) : (disarmTrigger s k).mer.tsq = s.mer.tsq := rfl

theorem disarmAll_frc (s : State) : (disarmAll s).mer.frc = s.mer.frc := by
  rw [disarmAll, forUpTo_preserves (fun t : State => t.mer.frc) (disarmTrigger_frc · ·)]

theorem disarmAll_locked (s : State) : (disarmAll s).mer.locked = s.mer.locked := by
  rw [disarmAll, forUpTo_preserves (fun t : State => t.mer.locked) (disarmTrigger_locked · ·)]

theorem disarmAll_tsq (s : State) : (disarmAll s).mer.tsq = s.mer.tsq := by
  rw [disarmAll, forUpTo_preserves (fun t : State => t.mer.tsq) (disarmTrigger_tsq · ·)]

/-! ### Time before the first step (R284) -/

theorem timeNow_of_not_stepUsed {s : State} (h : s.mer.stepUsed = false) : timeNow s = 0 := by
  simp only [timeNow, timeAt, h, Bool.false_eq_true, if_false]

theorem time_unset_of_mer_reset {s : State} (h : s.mer = Meridian.reset) :
    timeNow s = 0 ∧ s.mer.timeValid = false ∧ s.mer.stepUsed = false := by
  have hstep : s.mer.stepUsed = false := congrArg Meridian.stepUsed h
  exact ⟨timeNow_of_not_stepUsed hstep, congrArg Meridian.timeValid h, hstep⟩

/-! ### The reset by TDR (R290) -/

/-- What TDR does beside disarming the triggers: time is unset, with RATE and the adjustment 0. -/
def unsetTime (s : State) : State :=
  let s1 := wr s .mer F.mer_RATE 0
  { s1 with mer := { s1.mer with
    anchorN := s1.mer.frc, anchorT := 0, slewed := 0, rem := 0, timeValid := false, stepUsed := false } }

theorem timeDomainReset_eq_unsetTime (s : State) : timeDomainReset s = unsetTime (disarmAll s) := by
  rw [timeDomainReset, unsetTime]

theorem unsetTime_timeValid (s : State) : (unsetTime s).mer.timeValid = false := rfl

theorem unsetTime_stepUsed (s : State) : (unsetTime s).mer.stepUsed = false := rfl

theorem unsetTime_rem (s : State) : (unsetTime s).mer.rem = 0 := rfl

theorem unsetTime_frc (s : State) : (unsetTime s).mer.frc = s.mer.frc := rfl

theorem unsetTime_locked (s : State) : (unsetTime s).mer.locked = s.mer.locked := rfl

theorem unsetTime_tsq (s : State) : (unsetTime s).mer.tsq = s.mer.tsq := rfl

theorem unsetTime_fireAt (s : State) : (unsetTime s).mer.fireAt = s.mer.fireAt := rfl

theorem rd_unsetTime (s : State) (p : Page) (g : Fld) : rd (unsetTime s) p g = rd (wr s .mer F.mer_RATE 0) p g := rfl

theorem merRate_unsetTime (s : State) : merRate (unsetTime s) = 0 := by
  rw [merRate, rd_unsetTime, rd_wr_same]
  rfl

theorem disarmed_unsetTime {s : State} {k : Nat} (h : Disarmed s k) : Disarmed (unsetTime s) k := by
  have hoff : 8 * (F.mer_ARM.ix k).off + (F.mer_ARM.ix k).lo ≠ 8 * F.mer_RATE.off + F.mer_RATE.lo := by
    simp only [Fld.ix, F.mer_ARM, F.mer_RATE]
    omega
  refine h.congr ?_ (unsetTime_fireAt s)
  rw [rd_unsetTime, rd_wr_off _ _ _ _ _ hoff]

/-- The whole of the reset: the counter, the lock and the stamp queues stay. -/
theorem timeDomainReset_effect (s : State) :
    timeNow (timeDomainReset s) = 0 ∧ (timeDomainReset s).mer.timeValid = false ∧ (timeDomainReset s).mer.stepUsed = false
      ∧ merRate (timeDomainReset s) = 0 ∧ (timeDomainReset s).mer.rem = 0 ∧ (timeDomainReset s).mer.frc = s.mer.frc
      ∧ (timeDomainReset s).mer.locked = s.mer.locked ∧ (timeDomainReset s).mer.tsq = s.mer.tsq
      ∧ ∀ k, k < 64 → Disarmed (timeDomainReset s) k := by
  rw [timeDomainReset_eq_unsetTime]
  exact ⟨timeNow_of_not_stepUsed (unsetTime_stepUsed _), unsetTime_timeValid _, unsetTime_stepUsed _, merRate_unsetTime _,
    unsetTime_rem _, (unsetTime_frc _).trans (disarmAll_frc s), (unsetTime_locked _).trans (disarmAll_locked s),
    (unsetTime_tsq _).trans (disarmAll_tsq s), fun _ hk => disarmed_unsetTime (disarmed_disarmAll hk s)⟩

/-- TDR is a class S field that either side may write: at a quiesced page that the access reaches, the write is the reset. -/
theorem exec_tdr_of_quiesced {f : Func} {s : State} (hf : f.ok = true) (hr : reach s f .mer = true)
    (hq : quiesced s .mer = true) : exec (.tdr f) s = .next (timeDomainReset s) := by
  have hside : sideOk f F.mer_TDR.who = true := rfl
  have hup : unitDown s .mer = false := rfl
  rw [next_tdr hf (stage_ne_tripped_of_reach hr), effTdr, withWrite, if_pos hr, if_pos hside, hup, if_neg Bool.false_ne_true,
    withS, if_pos hq]

/-! ### Cold device resets (R541, R606) -/

/-- A command that a thermal trip does not stop answers its effect. -/
theorem act_next_of_runsTripped {i : Instr} (s e : State) (hw : i.wf = true) (hr : runsTripped i = true) : act i s e = .next e := by
  rw [act, if_pos hw, hr, Bool.not_true, Bool.and_false]
  rfl

theorem mer_eq_of_blank {l : List Comp} {s t : State} (hl : l.contains .mer = false) (h : blank l t = blank l s) :
    t.mer = s.mer := by
  have hp : pick l .mer State.reset.mer t.mer = pick l .mer State.reset.mer s.mer := congrArg State.mer h
  simpa only [pick, hl, Bool.false_eq_true, if_false] using hp

@[simp] theorem setRails_mer (s : State) (level : Nat) : (setRails s level).mer = s.mer :=
  mer_eq_of_blank rfl (setRails_keeps (l := [.emitted]) rfl _ _)

@[simp] theorem bootChain_mer (s : State) (env : BootEnv) : (bootChain s env).mer = s.mer :=
  mer_eq_of_blank rfl (bootChain_keeps (l := [.stage, .regs, .fp, .locs, .mon]) rfl rfl rfl rfl rfl _ _)

@[simp] theorem coldState_mer (s : State) (cause : Nat) : (coldState s cause).mer = Meridian.reset := setRails_mer _ _

theorem effColdDeviceReset_mer {cause : Nat} {s : State}
    (h : (cause = 0 ∧ resetOpen s = true) ∨ cause = 3 ∨ cause = 4 ∨ cause = 5) (env : BootEnv) :
    (effColdDeviceReset cause env s).mer = Meridian.reset := by
  unfold effColdDeviceReset
  split_ifs with hgo hother
  · exact (bootChain_mer _ env).trans (coldState_mer s 0)
  · exact (bootChain_mer _ env).trans (coldState_mer s cause)
  · rcases h with ⟨hc, hopen⟩ | hc
    · exact absurd (by simp only [hc, hopen, decide_true, Bool.and_self]) hgo
    · exact absurd (by simpa only [Bool.or_eq_true, decide_eq_true_eq, or_assoc] using hc) hother

theorem effPwrokDeassert_mer (s : State) : (effPwrokDeassert s).mer = Meridian.reset := coldState_mer s 3

theorem exec_coldDeviceReset (cause : Nat) (env : BootEnv) (s : State) :
    exec (.coldDeviceReset cause env) s = .next (effColdDeviceReset cause env s) :=
  act_next_of_runsTripped (i := .coldDeviceReset cause env) s _ rfl rfl

theorem exec_pwrokDeassert (s : State) : exec .pwrokDeassert s = .next (effPwrokDeassert s) :=
  act_next_of_runsTripped (i := .pwrokDeassert) s _ rfl rfl

end Machine

section
open Machine

/-- Settles O31: TDR unsets time beside the counter and disarms trigger by trigger; a cold device reset leaves all of Meridian in its
reset state. -/
theorem timeDomainReset : Obligations.TimeDomainReset := by
  unfold Obligations.TimeDomainReset
  refine ⟨fun f s hf hr hq => ?_, fun cause env s hcause => ?_, fun s => ?_⟩
  · exact ⟨_, exec_tdr_of_quiesced hf hr hq, timeDomainReset_effect s⟩
  · exact ⟨_, exec_coldDeviceReset cause env s, time_unset_of_mer_reset (effColdDeviceReset_mer hcause env)⟩
  · exact ⟨_, exec_pwrokDeassert s, time_unset_of_mer_reset (effPwrokDeassert_mer s)⟩

end

end Sys2Proof
end
